-- ==== Sys2Proof/Word.lean ====
section
/-! DEFINITION. The plain word and index types of the CG4020 model (R5, R12, R13, R26). -/

namespace Sys2Proof

/-- One byte. -/
abbrev Byte := BitVec 8
/-- A 32-bit register word. -/
abbrev Word := BitVec 32
/-- A 64-bit scalar or fabric address. -/
abbrev DWord := BitVec 64
/-- The 128 data bytes of a line; byte i is bits [8i+7:8i] (R5). -/
abbrev LineData := BitVec 1024
/-- A byte mask of a line: bit i enables byte i (Table 11-3). -/
abbrev Mask := BitVec 128
/-- A die, 0 to 3 (R12). -/
abbrev Die := Fin 4
/-- A fabric port, 0 to 63 (R13). -/
abbrev Port := Fin 64
/-- A lane of a port, 0 to 7. -/
abbrev Lane := Fin 8
/-- A cluster, 0 to 15 (R12). -/
abbrev Cluster := Fin 16
/-- A physical core, 0 to 143 (R12). -/
abbrev Core := Fin 144
/-- A task context of a core, 0 to 7 (R122). -/
abbrev Ctx := Fin 8
/-- A copy engine, 0 to 31 (R13). -/
abbrev CopyEngine := Fin 32
/-- A memory controller: stacks 0 to 19, then DDR5 channels as 20 to 31 (R13). -/
abbrev MemUnit := Fin 32
/-- A stack, 0 to 19 (R13). -/
abbrev Stack := Fin 20
/-- A DDR5 channel, 0 to 11 (R13). -/
abbrev Channel := Fin 12
/-- An extent ID (R34). -/
abbrev ExtId := Fin 4096
/-- A coherence slot (R43). -/
abbrev Slot := Fin 128
/-- A host queue (R174). -/
abbrev HostQueue := Fin 64
/-- A copy queue (R218). -/
abbrev CopyQueue := Fin 128
/-- A collective plan (R198). -/
abbrev PlanId := Fin 64
/-- A partition (R319). -/
abbrev Partition := Fin 16
/-- A memory key ID (R325). -/
abbrev KeyId := Fin 256
/-- An endpoint ID: node[19:8], local[7:0] (R26). -/
abbrev Endpoint := BitVec 20

end Sys2Proof
end

