-- ==== Sys2Proof/Syntax.lean ====
section
/-! DEFINITION. The commands of the block: one constructor of `Instr` for each row of spec/opcode_table.json, and the
types of their operands (packets of Tables 11-1 and 11-2, flits of Table 12-1, paths of R381). -/

namespace Sys2Proof

/-- The path of a register access (R381): a function of a host port, an MGT source endpoint, or the root of trust and
the configuration loader. -/
inductive Path where
  | host (h : Fin 2) (f : Fin 16)
  | mgt (src : Endpoint)
  | root
  deriving DecidableEq, Repr

/-- What SECDED ECC finds in a word or an entry of an array (R10): no error, a corrected one, an uncorrectable one. -/
inductive Ecc where
  | clean | corrected | uncorrectable
  deriving DecidableEq, Repr

/-- Errors met when a line is read (R53, R61, R62, R69, R84): `flips` is the error pattern of the bytes read, byte 8j + k for byte k of
device j of a DDR5 channel, byte i for symbol i of the line code in a stack or in the memory-side cache; `tags`: both tag copies of a way
of the line's set are uncorrectable; `dir`: what the directory lookup finds. -/
structure Upset where
  flips : BitVec 1280 := 0
  tags : Bool := false
  dir : Ecc := .clean
  deriving DecidableEq, Repr

/-- No error. -/
def Upset.clean : Upset := {}

/-- A packet: the fields of the request header (Table 11-1) and of the response header (Table 11-2), and its payload.
`resv` says that a reserved header bit is set. -/
structure Packet where
  opcode : BitVec 8 := 0
  chan : BitVec 3 := 0
  hop : BitVec 2 := 0
  bank : Bool := false
  poison : Bool := false
  fence : Bool := false
  len : BitVec 3 := 0
  cls : BitVec 2 := 0
  sub : BitVec 6 := 0
  fw : BitVec 3 := 0
  src : Endpoint := 0
  principal : Endpoint := 0
  tag : BitVec 14 := 0
  dlocal : BitVec 8 := 0
  txid : BitVec 32 := 0
  addr : BitVec 64 := 0
  dest : Endpoint := 0
  status : BitVec 5 := 0
  bark : BitVec 3 := 0
  detail : BitVec 16 := 0
  dataFlag : Bool := false
  resv : Bool := false
  data : LineData := 0
  mask : Mask := 0
  deriving DecidableEq, Repr

/-- A DIMM's SPD data as the controller reads it (R51, R52): trained, supported kind (x4 devices, ECC, registered, not
multiplexed-rank), capacity in GB, log2 of its logical ranks. -/
structure DimmSpd where
  trained : Bool
  supported : Bool
  capacity : Nat
  rankLog2 : BitVec 2
  deriving DecidableEq, Repr

/-- The body of an INIT flit (Table 12-5). -/
structure InitBody where
  version : BitVec 16 := 1
  width : Byte := 8
  seen : Bool := false
  protect : Bool := false
  resume : Bool := false
  keywait : Bool := false
  node : BitVec 12 := 0
  port : Byte := 0
  expect : BitVec 14 := 0
  size : List (BitVec 11) := []
  freed : List (BitVec 11) := []
  flitctr : BitVec 64 := 0
  ts : BitVec 32 := 0
  echo : BitVec 32 := 0
  deriving DecidableEq, Repr

/-- One piece of a flit's body (R260): a packet that starts in this flit with the number of its slots that lie in it, or
the number of slots that continue the packet begun in an earlier flit. -/
inductive BodyItem where
  | start (p : Packet) (slots : Nat)
  | more (slots : Nat)
  | empty
  deriving DecidableEq, Repr

/-- A flit whose CRC passed and that FEC has not marked (R258, R285, Table 12-1): link header and body. -/
structure Flit where
  type : BitVec 4 := 0
  seq : BitVec 14 := 0
  ack : BitVec 14 := 0
  cselA : BitVec 5 := 31
  crdA : BitVec 11 := 0
  cselB : BitVec 5 := 31
  crdB : BitVec 11 := 0
  body : List BodyItem := []
  deriving DecidableEq, Repr

/-- A PAM4 level (Table 13-1). -/
inductive Level where
  | minus3
  | minus1
  | plus1
  | plus3
  deriving DecidableEq, Repr

/-- An instruction as a context fetches it from the sequence store: its word, or an uncorrectable one (R171). -/
structure Fetch where
  word : DWord
  bad : Bool := false
  deriving DecidableEq, Repr

/-- A parity error of a register read in an engine's register file (R125, R127): which engine reads it, and whether the replay from the
snapshot clears it. -/
structure RfParity where
  eng : Fin 4
  cleared : Bool
  deriving DecidableEq, Repr

/-- What goes wrong in an engine instruction, or in a scalar one with engine 0 (R127, R335, R336, R339, R341): nothing; a register read has
a parity error; or engine `eng` gives `first`, and its replay from the snapshot `again`, where none stands for what the snapshot gives, and
`checker` says that the lane's checker predicts wrong residues. Values are those of the destination registers in order; a scalar result is
one line that holds it in its low 64 bits. -/
inductive Check where
  | pass
  | parity (p : RfParity)
  | wrong (eng : Fin 4) (first again : Option (List LineData)) (checker : Bool)
  deriving DecidableEq, Repr

/-- What the referee's run of a snapshot brings (Table 16-1, step 3): nothing, its own check having failed twice; what the snapshot gives;
or these values. -/
inductive RefereeRun where
  | absent
  | right
  | wrong (v : List LineData)
  deriving DecidableEq, Repr

/-- What the ECC of the scratch finds in the blocks that the engines of a VLDS read (R124), by engine. -/
structure ScratchEcc where
  e0 : Ecc := .clean
  e1 : Ecc := .clean
  e2 : Ecc := .clean
  e3 : Ecc := .clean
  deriving DecidableEq, Repr

/-- A CG4020 requester that times and reissues requests (R92, R248): the context of a core, a copy engine, the collective
unit of a die, or a home on its own account. -/
inductive Requester where
  | ctx (n : Core) (c : Ctx)
  | copy (x : CopyEngine)
  | coll (d : Die)
  | home (d : Die)
  deriving DecidableEq, Repr

/-- What the SECDED ECC of a bridge finds in a transfer (R18): nothing; an error on the first or the last bridge that the packet
crosses; or an error on bridge h, towards the higher-numbered die (`up`) or the lower, in packet i of those that go from agent to agent
inside the node. `double`: a double-bit error; else a single-bit error, corrected. -/
inductive BridgeErr where
  | none
  | first (double : Bool)
  | last (double : Bool)
  | inside (i : Nat) (h : Fin 4) (up double : Bool)
  deriving DecidableEq, Repr

/-- An entry of a die's SRAM arrays in which a check finds an error it cannot correct (Table 01-2): by its index in the array, a staged
line by its record and line, a read set by its record. A transfer is one within a cluster whose parity fails twice, by the vector register
it was for (R338). -/
inductive ArrayHit where
  | request (i : Fin 4096)
  | recall (i : Fin 4096)
  | staged (c : Die) (i : Fin 1024) (line : Nat)
  | readSet (c : Die) (i : Fin 1024)
  | counter (i : Fin 16384)
  | hotRecord (j : Fin 4096)
  | dieTranslation (i : Fin 8192)
  | coreTranslation (n : Core) (i : Fin 64)
  | buffer (k : Cluster) (i : Nat)
  | fenceEntry (i : Fin 1024)
  | transfer (n : Core) (c : Ctx) (eng : Fin 4) (reg : Fin 64)
  deriving DecidableEq, Repr

/-- An uncorrectable error of a port's receive buffer (R272): none, in a packet's header, in its payload. -/
inductive RxErr where
  | none | header | payload
  deriving DecidableEq, Repr

/-- Where a packet is held (R247): in the mesh, in a port's leash queue, in its transmit queue, in its flit-to-mesh FIFO, in its receive
buffer, or before a local agent. -/
inductive HoldAt where
  | mesh (i : Nat)
  | leash (n : Port) (i : Nat)
  | transmit (n : Port) (i : Nat)
  | fifo (n : Port) (i : Nat)
  | receive (n : Port) (i : Nat)
  | agent (i : Nat)
  deriving DecidableEq, Repr

/-- A leash or a port's catch-all bucket (R301). -/
inductive LeashSel where
  | leash (i : Fin 256)
  | catchAll (p : Port)
  deriving DecidableEq, Repr

/-- How a mailbox request arrives (R334): through the ROT registers by a path, or over MCTP. -/
inductive Via where
  | regs (p : Path)
  | mctp
  deriving DecidableEq, Repr

/-- An SPDM transport (R318): DOE on the physical function of a host port, or MCTP. -/
inductive Transport where
  | doe (h : Fin 2)
  | mctp
  deriving DecidableEq, Repr

/-- The rating of a stress test (Table 16-6). -/
inductive TestRating where
  | pass | marginal | fail
  deriving DecidableEq, Repr

/-- What a PMBus poll of one page brings (R400): the readings, a failed transaction (its third failure), or a fault in
STATUS_WORD or a fallen power-good. -/
inductive PollResult where
  | ok (vout iout : BitVec 16) (temp : Byte)
  | failed
  | fault
  deriving DecidableEq, Repr

/-- What the root of trust finds in one image slot (R314, R358): the image's own fields and sections, when it is valid. -/
structure ImageInfo where
  version : BitVec 32
  svn : BitVec 32
  autoAdvance : Bool
  crcRef : List Word
  /-- SECURITY section: isolation mode and secure-function list. -/
  security : Option (Bool × BitVec 32)
  drain : List Nat
  refresh : List Nat
  selfRefresh : List Nat
  patrol : List (Nat × Nat)
  history : List (Nat × Nat × List Nat)
  funcSeq : List (Nat × Nat × Nat)
  formats : List (BitVec 128)
  bark : List Nat
  lanePreset : List (List Int)
  portLists : List (List Nat)
  /-- REGISTER section: node offset, mask, value. -/
  registers : List (Nat × Word × Word)
  /-- Section KINDs present in the directory (Table 17-5). -/
  kinds : List Nat
  digest : BitVec 384
  headerDigest : BitVec 384
  /-- The isolation mode in the SECURITY section is neither 0 nor 1. -/
  modeBad : Bool := false
  deriving DecidableEq, Repr

/-- A flash slot as step 5 of Table 15-1 reads it: its bytes from offset 0, those not listed zero, and whether both signatures and the owner
certificate verify (R314). -/
structure SlotFacts where
  bytes : List Byte := []
  signed : Bool := false
  deriving DecidableEq, Repr

/-- The outcome of steps 2 to 6 of the root-of-trust boot (Table 15-1): the seed recovered or not, the counter
authenticated or not, and each slot as it is read; `hist` is the history copy R346 loads. -/
structure BootFacts where
  seedOk : Bool
  counterOk : Bool
  counter : BitVec 32
  slotA : SlotFacts
  slotB : SlotFacts
  hist : Option (List (BitVec 128))
  hours : Nat
  deriving DecidableEq, Repr

/-- A thermal or rail cause of a trip (R402, Table 19-2). -/
inductive TripSensor where
  | die (d : Die) (temp : Nat)
  | stack (s : Stack) (temp : Nat)
  deriving DecidableEq, Repr

/-- The error records of R389. -/
inductive ErrRecord where
  | rangeErr | viol
  deriving DecidableEq, Repr

/-- The function kinds of Table 17-10. -/
inductive FuncKind where
  | port | core | copyEngine | extent | partition | plan
  deriving DecidableEq, Repr

/-- Commands of the block: one constructor per row of the table of operations and events. A register write carries its
path and the register's data; a request or response carries its packet; an expiry or completion names its unit. -/
inductive Instr where
  -- extents, groups, slots (chapter 02)
  | topNodeIdWrite (p : Path) (data : Word)
  | extentCreate (p : Path) (data : DWord)
  | setRights (p : Path) (data : DWord)
  | withdraw (p : Path) (data : DWord)
  | extentFillDone (e : ExtId)
  | withdrawalDrained (e : ExtId)
  | grpMatchWrite (p : Path) (m : Fin 1024) (hi : Bool) (data : Word)
  | bind (p : Path) (s : Slot) (data : Word)
  | release (p : Path) (s : Slot) (data : Word)
  | declareDead (p : Path) (s : Slot) (data : Word)
  | slotReleased (s : Slot)
  -- memory controllers and cache (chapter 03)
  | controllerIssue (u : MemUnit) (starved : Nat)
  | dramReadDone (u : MemUnit) (ecc : Upset)
  | refreshDue (u : MemUnit) (bank : Fin 2048)
  | dimmThermalRead (c : Channel) (temp : Byte) (rate : Fin 3)
  | selfRefreshIdleExpiry (u : MemUnit)
  | selfRefreshEntryDone (u : MemUnit)
  | selfRefreshExit (u : MemUnit) (scrubBehind : Bool)
  | selfRefreshExitDone (u : MemUnit)
  | patrolRead (u : MemUnit)
  | mscFlush (p : Path) (d : Die) (data : Word)
  | mscFlushDone (d : Die)
  | accessCountAging (d : Die)
  | hotqHeadWrite (p : Path) (d : Die) (data : Word)
  | migReserveWrite (p : Path) (d : Die) (data : Word)
  | promote (p : Path) (d : Die) (data : DWord)
  | demote (p : Path) (d : Die) (data : DWord)
  | migrationLineMove (x : CopyEngine) (ecc : Upset) (maskLost : Bool)
  | migrationMoveDone (x : CopyEngine)
  | frameSweep (d : Die)
  | dmcCtrlWrite (p : Path) (c : Channel) (data : Word)
  | stackTrainingDone (s : Stack) (ok : Bool)
  | dimmTrainingDone (c : Channel) (slot0 slot1 : Option DimmSpd)
  -- coherence (chapter 04)
  | rdShared (q : Packet) (entry : Die) (ecc : Upset)
  | rdOwn (q : Packet) (entry : Die) (ecc : Upset)
  | upgrade (q : Packet) (entry : Die) (ecc : Upset)
  | rdUnc (q : Packet) (entry : Die) (ecc : Upset)
  | wrUnc (q : Packet) (entry : Die) (ecc : Upset)
  | atomic (q : Packet) (entry : Die) (ecc : Upset)
  | wbDirty (q : Packet) (entry : Die)
  | wbClean (q : Packet) (entry : Die)
  | invAck (q : Packet)
  | fwdAck (q : Packet)
  | fwdData (q : Packet)
  | complete (q : Packet)
  | dataUnc (q : Packet)
  | done (q : Packet)
  | status (q : Packet)
  | retryBackoffExpiry (r : Requester) (tag : BitVec 14)
  | forwardTimeout (d : Die) (idx : Fin 8192) (s : Slot)
  | directoryScrub (d : Die) (ecc : Ecc) (hits : List ArrayHit)
  | walkSet (d : Die) (s : Slot) (e : ExtId)
  | sweepEnd (s : Slot)
  -- transactions (chapter 05)
  | txOpen (q : Packet)
  | txRd (q : Packet) (entry : Die) (ecc : Upset)
  | txWr (q : Packet) (entry : Die)
  | txAtomic (q : Packet) (entry : Die) (ecc : Upset)
  | txCommit (q : Packet)
  | txAbort (q : Packet)
  | prepare (leg c : Die) (i : Fin 1024)
  | ready (leg c : Die) (i : Fin 1024)
  | apply (leg c : Die) (i : Fin 1024)
  | applyLine (leg c : Die) (i : Fin 1024) (ecc : Upset)
  | applied (leg c : Die) (i : Fin 1024)
  | txOpened (q : Packet)
  | txNotice (q : Packet)
  | txLifetimeExpiry (c : Die) (i : Fin 1024)
  | txRecordExpiry (c : Die) (i : Fin 1024)
  | txnKill (p : Path) (data : Word)
  -- micro-sequence operations (Table 07-14): core, context, instruction word; engine operations with their check
  | nop (n : Core) (c : Ctx) (w : Fetch)
  | sli (n : Core) (c : Ctx) (w : Fetch) (k : Check)
  | sadd (n : Core) (c : Ctx) (w : Fetch) (k : Check)
  | ssub (n : Core) (c : Ctx) (w : Fetch) (k : Check)
  | smul (n : Core) (c : Ctx) (w : Fetch) (k : Check)
  | sand (n : Core) (c : Ctx) (w : Fetch) (k : Check)
  | sor (n : Core) (c : Ctx) (w : Fetch) (k : Check)
  | sxor (n : Core) (c : Ctx) (w : Fetch) (k : Check)
  | sshl (n : Core) (c : Ctx) (w : Fetch) (k : Check)
  | sshr (n : Core) (c : Ctx) (w : Fetch) (k : Check)
  | ssra (n : Core) (c : Ctx) (w : Fetch) (k : Check)
  | beq (n : Core) (c : Ctx) (w : Fetch)
  | bne (n : Core) (c : Ctx) (w : Fetch)
  | blt (n : Core) (c : Ctx) (w : Fetch)
  | bge (n : Core) (c : Ctx) (w : Fetch)
  | sld (n : Core) (c : Ctx) (w : Fetch)
  | sst (n : Core) (c : Ctx) (w : Fetch)
  | sext (n : Core) (c : Ctx) (w : Fetch) (rf : Option RfParity)
  | wait (n : Core) (c : Ctx) (w : Fetch)
  | atom (n : Core) (c : Ctx) (w : Fetch)
  | endTask (n : Core) (c : Ctx) (w : Fetch)
  | txopen (n : Core) (c : Ctx) (w : Fetch)
  | txcommit (n : Core) (c : Ctx) (w : Fetch)
  | txabort (n : Core) (c : Ctx) (w : Fetch)
  | txchk (n : Core) (c : Ctx) (w : Fetch)
  | vld (n : Core) (c : Ctx) (w : Fetch)
  | vst (n : Core) (c : Ctx) (w : Fetch) (rf : Option RfParity)
  | vlds (n : Core) (c : Ctx) (w : Fetch) (ecc : ScratchEcc)
  | vsts (n : Core) (c : Ctx) (w : Fetch) (rf : Option RfParity)
  | vclr (n : Core) (c : Ctx) (w : Fetch) (k : Check)
  | vfma (n : Core) (c : Ctx) (w : Fetch) (k : Check)
  | wfma (n : Core) (c : Ctx) (w : Fetch) (k : Check)
  | wmax (n : Core) (c : Ctx) (w : Fetch) (k : Check)
  | wmin (n : Core) (c : Ctx) (w : Fetch) (k : Check)
  | wexp2 (n : Core) (c : Ctx) (w : Fetch) (k : Check)
  | wrcp (n : Core) (c : Ctx) (w : Fetch) (k : Check)
  | wrsq (n : Core) (c : Ctx) (w : Fetch) (k : Check)
  | wsqrt (n : Core) (c : Ctx) (w : Fetch) (k : Check)
  | wdiv (n : Core) (c : Ctx) (w : Fetch) (k : Check)
  | cvt (n : Core) (c : Ctx) (w : Fetch) (k : Check)
  | qnt (n : Core) (c : Ctx) (w : Fetch) (k : Check)
  | dot (n : Core) (c : Ctx) (w : Fetch) (k : Check)
  | dotr (n : Core) (c : Ctx) (w : Fetch) (k : Check)
  | wmac (n : Core) (c : Ctx) (w : Fetch) (k : Check)
  | red (n : Core) (c : Ctx) (w : Fetch) (k : Check)
  | wbc (n : Core) (c : Ctx) (w : Fetch) (k : Check)
  | refereeVerdict (n : Core) (c : Ctx) (u : RefereeRun)
  | canary (n : Core) (a b : Fin 4) (ra rb : LineData) (u : Option LineData)
  | scalarCanary (n : Core) (sig refSig : DWord)
  | engFmtSubmit (p : Path) (i : Fin 64) (data : Word)
  -- kernels and the sequence store (chapter 07)
  | reduce (n : Core) (c : Ctx)
  | scaleAcc (n : Core) (c : Ctx)
  | optStep (n : Core) (c : Ctx)
  | decodeAttn (n : Core) (c : Ctx)
  | gatherReduce (n : Core) (c : Ctx)
  | quantize (n : Core) (c : Ctx)
  | casSweep (n : Core) (c : Ctx)
  | user (n : Core) (c : Ctx)
  | load (p : Path) (data : Word)
  | unload (p : Path) (data : Word)
  -- queues, tasks, translation (chapter 08)
  | cluQcfgWrite (p : Path) (q : HostQueue) (hi : Bool) (data : Word)
  | taskQueueRing (p : Path) (q : HostQueue) (data : Word)
  | task (d : Die) (q : HostQueue)
  | invalidate (d : Die) (q : HostQueue)
  | resume (d : Die) (q : HostQueue)
  | kill (d : Die) (q : HostQueue)
  | taskPlacement (q : HostQueue)
  | taskStart (n : Core) (c : Ctx)
  | translationWalkDone (d : Die) (i : Fin 32)
  | walkRestart (d : Die) (i : Fin 32)
  | taskSaveDone (n : Core) (c : Ctx)
  | taskRestoreDone (n : Core) (c : Ctx) (crcOk : Bool)
  | invalidateDrained
  | ptuAsWrite (p : Path) (a : Fin 1024) (hi : Bool) (data : Word)
  | cluSaveWrite (p : Path) (pt : Partition) (data : Word)
  -- collective plans (chapter 09)
  | arm (p : Path) (data : Word)
  | disarm (p : Path) (data : Word)
  | abort (p : Path) (data : Word)
  | colArm (q : Packet) (inPort outPort : Port)
  | colArmAck (q : Packet) (inPort outPort : Port)
  | colDisarm (q : Packet) (inPort : Port)
  | colDisarmAck (q : Packet)
  | colPut (q : Packet)
  | colAbort (q : Packet)
  | colTaskEnd (n : Core) (c : Ctx)
  | colArmTimeout (pl : PlanId)
  | colRunTimeout (pl : PlanId)
  | colKill (p : Path) (data : Word)
  | purge (p : Path) (n : Port) (data : Word)
  -- peer copies (chapter 10)
  | xfrRing (q : Packet)
  | xfrQptrTailWrite (p : Path) (q : CopyQueue) (data : Word)
  | xfrQcfgWrite (p : Path) (q : CopyQueue) (hi : Bool) (data : Word)
  | copy (x : CopyEngine) (q : CopyQueue)
  | copyTileTranslated (x : CopyEngine)
  | copyTileDone (x : CopyEngine)
  | queueAbort (p : Path) (data : Word)
  -- packets, routes, fences (chapter 11)
  | packetArrival (n : Port) (q : Packet) (e : BridgeErr)
  | nextHopChoice (i : Nat) (e : BridgeErr)
  | fenceProbe (n : Port) (q : Packet) (e : BridgeErr)
  | internalProbe (d : Die) (q : Packet)
  | fenceHoldExpiry (d : Die) (src dst : Endpoint) (col : Bool)
  | holdLimitExpiry (a : HoldAt)
  | cplTimeoutExpiry (r : Requester) (tag : BitVec 14)
  | mgtRd (n : Port) (q : Packet)
  | mgtWr (n : Port) (q : Packet)
  | rteRouteWrite (p : Path) (b : Bool) (n : BitVec 12) (data : Word)
  | bankHeldClear (b : Bool)
  -- link layer (chapter 12)
  | dataFlit (n : Port) (f : Flit)
  | idleFlit (n : Port) (f : Flit)
  | nakFlit (n : Port) (f : Flit) (bufferEcc : Ecc)
  | initFlit (n : Port) (b : InitBody)
  | flitTransmit (n : Port)
  | rxBufferRelease (n : Port) (b : Fin 20) (e : RxErr)
  | idleAckExpiry (n : Port)
  | ackTimeoutExpiry (n : Port) (bufferEcc : Ecc)
  | crdTimeoutExpiry (n : Port) (b : Fin 20)
  | initResend (n : Port)
  | initTimeoutExpiry (n : Port)
  | retrainTimeoutExpiry (n : Port)
  | lossOfSignal (n : Port)
  | downHoldExpiry (n : Port)
  | linkEnable (p : Path) (n : Port) (data : Word)
  | linkDisable (p : Path) (n : Port) (data : Word)
  | linkRetrainCmd (p : Path) (n : Port) (data : Word)
  -- lanes (chapter 13)
  | electricalDetect (n : Port) (detected : Byte) (timedOut : Bool)
  | clockRecoveryLock (n : Port) (locked failed : Byte)
  | blockLock (n : Port) (l : Lane) (inverted : Option Bool)
  | polarityDetect (n : Port) (l : Lane) (typeByte : Byte)
  | laneMapping (n : Port) (lanes : List (Option (Fin 8))) (farOk : Byte)
  | deskew (n : Port) (skewOk : Bool)
  | fecLock (n : Port)
  | equalisation (n : Port)
  | stageTimeout (n : Port)
  | trainBlock (n : Port) (l : Lane) (payload : DWord)
  | fecFrame (n : Port) (l : Lane) (symbols : List Level) (drift : Bool)
  | eiIdleExpiry (n : Port)
  | eiEnter (n : Port)
  | announcedIdleLimit (n : Port)
  | eiExit (n : Port)
  | laneHealthWindow (n : Port)
  | unretire (p : Path) (n : Port) (data : Word)
  | lanTestWrite (p : Path) (n : Port) (l : Lane) (data : Word)
  | eyeMarginGo (p : Path) (n : Port) (l : Lane) (data : Word)
  | eyeMarginDone (n : Port) (l : Lane) (mismatch : Word)
  -- leashes, periods, the curtain (chapters 14 and 17)
  | leashRefill
  | qosLeashWrite (p : Path) (t : LeashSel) (hi : Bool) (data : Word)
  | statsPeriodTick
  | curtainCommit (r : Fin 3) (d : Die)
  | curtainRequest (p : Path) (data : Word)
  -- root of trust, partitions, keys (chapter 15)
  | advanceSvn (v : Via) (body : List Byte)
  | debugChallenge (v : Via) (body : List Byte)
  | debugUnlock (v : Via) (body : List Byte)
  | bindFlash (v : Via) (body : List Byte)
  | flashRead (v : Via) (body : List Byte)
  | flashWrite (v : Via) (body : List Byte)
  | reset (v : Via) (body : List Byte)
  | spdmRequest (t : Transport) (body : List Byte)
  | pqSign (t : Transport) (body : List Byte)
  | partitionCreate (p : Path) (data : Word)
  | revoke (p : Path) (data : Word)
  | revokeDrained (pt : Partition)
  | allocate (p : Path) (data : Word)
  | rotate (p : Path) (data : Word)
  | destroy (p : Path) (data : Word)
  | keySweepUnit (d : Die) (k : KeyId) (ecc : Upset)
  | linkKeySubmit (p : Path) (n : Port) (data : Word)
  | secCoreMapWrite (p : Path) (k : Cluster) (hi : Bool) (data : Word)
  | secPortMapWrite (p : Path) (n : Port) (data : Word)
  | secFnWrite (p : Path) (h : Fin 2) (f : Fin 16) (data : Word)
  | functionLevelReset (h : Fin 2) (f : Fin 16)
  -- understudies, history, the kennel (chapter 16)
  | roleSwap (k : Cluster)
  | swapDrainExpiry (k : Cluster)
  | stressTestDone (n : Core) (r : TestRating) (margin : Fin 9)
  | startupTestDone (k : Cluster) (sigs : List DWord)
  | test (p : Path) (data : Word)
  | fence (p : Path) (data : Word)
  | fenceRecordsWritten (n : Core)
  | unfence (p : Path) (data : Word)
  | historyCommit (written : Bool)
  | historyHalving
  | feedLost (b : Bool)
  | feedRestored (b : Bool)
  -- configuration, registers, events, host ports (chapters 17 and 18)
  | crcPass (d : Die)
  | crcCommit (p : Path) (d : Die) (data : Word)
  | crcRefWrite (p : Path) (d : Die) (data : Word)
  | funcTimer (k : FuncKind) (i : Fin 4096)
  | errorRecordClear (p : Path) (r : ErrRecord) (data : Word)
  | registerWrite (p : Path) (page : Bool) (off : BitVec 28) (bytes : Nat) (data : DWord)
  | maskedWrite (p : Path) (off : BitVec 28) (high : Bool) (bytes : Nat) (data : Word)
  | evqEnable (p : Path) (e : Fin 17) (data : Word)
  | evqHeadWrite (p : Path) (e : Fin 17) (data : Word)
  | msixModerationExpiry (e : Fin 17)
  | evqWriteError (e : Fin 17)
  | hostLinkDown (h : Fin 2)
  | hostLinkUp (h : Fin 2) (speed : BitVec 3) (width : BitVec 4)
  | hostPortReset (h : Fin 2)
  -- power, clocks, reset (chapter 19)
  | droopAssert (d : Die)
  | droopDeassert (d : Die)
  | droopRestoreExpiry (d : Die)
  | pmbusPoll (d : Die) (r : Fin 9) (v : PollResult)
  | powerCapTick (watts : Nat) (hottest stackHot dimmHot : List Nat)
  | thermalTrip (t : TripSensor)
  | referenceCheck (d : Die) (sys lane pci : Bool)
  | powerUp (feedA feedB : Bool)
  | rotBootDone (b : BootFacts)
  | mainRailsGood
  | pllLocked
  | imageApplied
  | powerUpReady
  | powerUpStepLimit
  | coldResetN
  | warmResetN
  | warm (p : Path) (data : Word)
  | cold (p : Path) (data : Word)
  | off (p : Path) (data : Word)
  | forceOff (p : Path) (data : Word)
  | powerDownDone
  | coreIdleExpiry (n : Core)
  | coreWakeDone (n : Core)
  -- rows added at the table's end
  | failedCrcFlit (n : Port) (tagFailed : Bool)
  | reservedTypeFlit (n : Port) (f : Flit)
  | taskQueueCheadWrite (p : Path) (q : HostQueue) (data : Word)
  | copyQueueCheadWrite (p : Path) (q : CopyQueue) (data : Word)
  | partitionStartDone (pt : Partition)
  | resetPinRelease (cold : Bool)
  | clusterDroopAssert (k : Cluster)
  | clusterDroopDeassert (k : Cluster)
  | prbsCheckerSync (n : Port) (l : Lane) (errors : Word)
  deriving DecidableEq, Repr

end Sys2Proof
end

