-- ==== Sys2Proof/Config.lean ====
section
/-! DEFINITION. The free values: what the spec leaves open, as constants without a body. Nothing in Lean can evaluate
one of them, so a statement that mentions one holds whatever it is. Each is named in a row of the assumption log. -/

namespace Sys2Proof.Config

/-- A fresh 64-bit value for the n-th place where the spec leaves a value open (log 5). -/
opaque freeWord : Nat → BitVec 64
/-- A fresh whole line for the n-th open line (log 5). -/
opaque freeLine : Nat → BitVec 1024
/-- The random integer that a lane's generator yields for a number of bits (R138 names the generator's polynomial, not the
bits taken; log 8). -/
opaque srDraw (gen : BitVec 32) (bits : Nat) : Nat
/-- What a format of a given width without a code for NaN (MAN = 0, SPECIALS 00) holds in a NaN's place (R131 names none; log 71). -/
opaque noNan (width : Nat) : Nat
/-- The set of the access-counter cache that holds a page and a principal (R72 gives no hash; log 16). -/
opaque countSet (page principal : Nat) : Fin 1024
/-- Error pattern that the device code leaves of one with more failed devices than Table 03-6 covers (log 66). -/
opaque deviceBeyond : BitVec 1280 → BitVec 1280
/-- What the line code makes of an error pattern beyond Table 03-6: detected (none), or the pattern left in what it delivers (log 66). -/
opaque lineBeyond : BitVec 1280 → Option (BitVec 1280)
/-- Mesh cycles between the n-th packet handed to the node's agents and the one before it (R98; log 57). -/
opaque meshGap : Nat → Nat
/-- CRC-32C of a page and share number (R76 fixes no layout of the bytes summed; log 16). -/
opaque bucketCrc (page share : Nat) : Nat
/-- Whether tininess is judged after rounding (IEEE 754 lets an implementation choose; R139; log 17). -/
opaque tinyAfterRounding : Bool
/-- e to the power of a binary32 value, within the error R160 allows (log 8). -/
opaque expApprox (n : Nat) (x : BitVec 32) : BitVec 32
/-- The natural logarithm of a binary32 value, within the error R160 allows (log 8). -/
opaque lnApprox (n : Nat) (x : BitVec 32) : BitVec 32
/-- Whether both signatures of a token verify under the keys that the running image names, given by its digest (R315, R331; log 9). -/
opaque tokenSigned (image : BitVec 384) (body : List (BitVec 8)) : Bool
/-- What a token holds: identity digest, nonce, level (R315, R331 fix no layout; log 28). -/
opaque tokenFields (body : List (BitVec 8)) : List (BitVec 8) × List (BitVec 8) × Nat
/-- Offset and length that a FLASH_READ request names (Table 15-4 fixes no layout; log 28). -/
opaque flashSpan (body : List (BitVec 8)) : Nat × Nat
/-- Offset and bytes that a FLASH_WRITE request names (Table 15-4 fixes no layout; log 28). -/
opaque flashData (body : List (BitVec 8)) : Nat × List (BitVec 8)
/-- Measurement 1: the ROM code (Table 15-2; log 9). -/
opaque romDigest : BitVec 384
/-- Measurement 4: slot, SVN, anti-rollback counter, recovery flag (Table 15-2; log 9). -/
opaque measureBoot (slot svn counter : Nat) (recovery : Bool) : BitVec 384
/-- Measurement 5: isolation mode, secure-function list, debug level (Table 15-2; log 9). -/
opaque measureSecurity (mode : Bool) (list : BitVec 32) (debug : Nat) : BitVec 384
/-- The nonce that the n-th challenge draws from the entropy source (R331; log 9). -/
opaque nonce (n : Nat) : List (BitVec 8)
/-- The device's identity digest, from the seed of the physical unclonable function (R313, R331; log 9). -/
opaque identityDigest : List (BitVec 8)
/-- The answer of an SPDM request in a given session state (R317; log 9). -/
opaque spdmAnswer (state : Nat) (body : List (BitVec 8)) : List (BitVec 8)
/-- A post-quantum signature of a body (R318; log 9). -/
opaque pqSignature (body : List (BitVec 8)) : List (BitVec 8)
/-- SHA-384 of a byte string (log 9). -/
opaque sha384 (body : List (BitVec 8)) : BitVec 384
/-- Slot k of the flit of port `port` whose flit counter is `ctr`, where the spec leaves its bytes open (R260, Table 12-2; log 27). -/
opaque slotFill (port : Nat) (ctr : BitVec 64) (k : Nat) : BitVec 128
/-- AES-256-GCM of a flit's body: 224 bytes encrypted, then the tag (R262; log 9). -/
opaque sealBody (key : BitVec 256) (nonce : BitVec 96) (head : BitVec 64) (body : BitVec 1792) : BitVec 1920
/-- AES-256-XTS of a line under the keys generated as number `key`, with a tweak (R324; log 9). -/
opaque cipher (key tweak : Nat) (data : BitVec 1024) : BitVec 1024
/-- What AES-256-XTS decrypts (R324; log 9). -/
opaque decipher (key tweak : Nat) (data : BitVec 1024) : BitVec 1024
/-- Packets that the management queue of a node holds (R245 gives no number; log 26). -/
opaque mgtDepth : Nat

end Sys2Proof.Config
end

