-- ==== Sys2Proof/Machine/SMap.lean ====
section
/-! DEFINITION. Sparse tables: lists of key and value in strictly rising key order. -/

namespace Sys2Proof.Machine

/-- A sparse table keyed by numbers. -/
abbrev SMap (α : Type) := List (Nat × α)

namespace SMap

variable {α : Type}

/-- The value listed at a key. -/
def look : SMap α → Nat → Option α
  | [], _ => none
  | (k, v) :: m, n => if k = n then some v else look m n

/-- The value at a key, or the table's default. -/
def lookD (m : SMap α) (n : Nat) (d : α) : α := (m.look n).getD d

/-- Set a key, keeping the order. -/
def put : SMap α → Nat → α → SMap α
  | [], n, v => [(n, v)]
  | (k, w) :: m, n, v =>
    if n < k then (n, v) :: (k, w) :: m
    else if n = k then (n, v) :: m
    else (k, w) :: put m n v

/-- Remove a key. -/
def del : SMap α → Nat → SMap α
  | [], _ => []
  | (k, w) :: m, n => if n = k then m else (k, w) :: del m n

/-- Set a key of a table whose unlisted keys read `d`: writing `d` removes the entry. -/
def putC [DecidableEq α] (m : SMap α) (d : α) (n : Nat) (v : α) : SMap α :=
  if v = d then m.del n else m.put n v

/-- Change the value at a listed key. -/
def upd (m : SMap α) (n : Nat) (f : α → α) : SMap α :=
  match m.look n with
  | none => m
  | some v => m.put n (f v)

/-- Whether every key of the table is above `lo`. -/
def above (lo : Nat) : SMap α → Bool
  | [] => true
  | (k, _) :: m => decide (lo < k) && above k m

/-- Keys strictly rising. -/
def sorted : SMap α → Bool
  | [] => true
  | (k, _) :: m => above k m && sorted m

/-- Canonical: keys strictly rising, and no entry equal to the default `d`. -/
def canon [DecidableEq α] (d : α) (m : SMap α) : Bool :=
  sorted m && m.all fun e => !decide (e.2 = d)

/-- The least key from `lo` to `lo + n - 1` that is not listed. -/
def freeKey (m : SMap α) (lo : Nat) : Nat → Option Nat
  | 0 => none
  | n + 1 => match m.look lo with
    | none => some lo
    | some _ => freeKey m (lo + 1) n

/-- The number of listed keys in a range. -/
def count (m : SMap α) (lo n : Nat) : Nat :=
  (m.filter fun e => decide (lo ≤ e.1) && decide (e.1 < lo + n)).length

end SMap

end Sys2Proof.Machine
end

