-- ==== Sys2Proof/Machine/Units.lean ====
section
/-! DEFINITION. The records the block's units keep, chapter by chapter. -/

namespace Sys2Proof.Machine

/-! ## Extents (chapter 02) -/

/-- States of an extent (R35, Table 02-8). -/
inductive ExtState where
  | off | starting | on | withdrawing | pending
  deriving DecidableEq, Repr

/-- STATE codes of HOM_EXT_STATUS (Table 02-8). -/
def ExtState.code : ExtState → Nat
  | .off => 0 | .starting => 1 | .on => 2 | .withdrawing => 3 | .pending => 4

/-- A valid rights entry (Table 02-7). -/
structure Right where
  group : Nat
  rd : Bool
  wr : Bool
  at_ : Bool
  deriving DecidableEq, Repr

/-- The attributes and granules of a CREATE (Tables 02-5 to 02-7). -/
structure ExtAttr where
  tier2 : Bool := false
  oneDie : Bool := false
  coherent : Bool := false
  countEn : Bool := false
  partition : Nat := 0
  key : Nat := 0
  base : Nat := 0
  count : Nat := 0
  rights : List Right := []
  deriving DecidableEq, Repr

/-- An extent (R34): its state, its attributes, the rights of the previous generation, the rights generation, whether a
withdrawal ends in OFF, and the CREATE held in PENDING_ENABLE. -/
structure Extent where
  state : ExtState := .off
  attr : ExtAttr := {}
  prev : List Right := []
  gen : Bool := false
  toOff : Bool := false
  held : Option ExtAttr := none
  /-- An accepted WITHDRAW waits for a reserve's shares to be demoted (R75) or for aborted plans (Table 09-5). -/
  demoting : Bool := false
  deriving DecidableEq, Repr

/-! ## Memory (chapter 03) -/

/-- The metadata of a stored line (Table 03-5): POISON, KEYGEN, DIR_HINT (01 when `hint`, else 00: R85 writes no other value) and the
seven CHECK symbols of the line code, symbol 0 in the low byte. -/
structure LineMeta where
  poison : Bool := false
  keygen : Bool := false
  hint : Bool := false
  check : BitVec 56 := 0
  crypt : Nat × Nat := (0, 0)
  deriving DecidableEq, Repr

/-- A line of the memory-side cache (R66 to R68). -/
structure MscLine where
  line : Nat
  data : LineData
  md : LineMeta
  dirty : Bool
  rr : Nat
  deriving DecidableEq, Repr

/-- What a controller's read is for: a line that the home reads on demand, a home prefetch (R71), the patrol (R64). -/
inductive CtlKind where
  | demand (line : Nat)
  | prefetch (line : Nat)
  | patrol
  deriving DecidableEq, Repr

/-- A read on demand, which issues before prefetch and patrol reads (R56). -/
def CtlKind.onDemand : CtlKind → Bool
  | .demand _ => true
  | _ => false

/-- A read in a controller's queue, its place in the order of acceptance, and, once a write to its line has been accepted after it, what
the read returns (R57). -/
structure CtlRead where
  addr : Nat
  kind : CtlKind
  seq : Nat := 0
  before : Option (LineData × LineMeta) := none
  deriving DecidableEq, Repr

/-- A write in a controller's queue, and its place in the order of acceptance. -/
structure CtlWrite where
  addr : Nat
  data : LineData
  md : LineMeta
  seq : Nat := 0
  deriving DecidableEq, Repr

/-- Self-refresh of a unit (Table 03-4). -/
inductive SrState where
  | awake | entering | asleep | exiting
  deriving DecidableEq, Repr

/-- A memory controller (R56 to R65): its read and write queues, reads and writes of the home that wait for a full queue, issued reads,
requests accepted so far, drain, open rows by bank, self-refresh, refreshes postponed by bank, the patrol's next line and its counts. -/
structure Ctl where
  rq : List CtlRead := []
  wq : List CtlWrite := []
  rwait : List CtlRead := []
  wwait : List CtlWrite := []
  issued : List CtlRead := []
  seq : Nat := 0
  drain : Bool := false
  rows : SMap Nat := []
  sr : SrState := .awake
  postponed : SMap Nat := []
  patrolAt : Nat := 0
  patrolCorr : Nat := 0
  patrolLast : Nat := 0
  refMult : Nat := 1
  deriving DecidableEq, Repr

/-- An access counter (R72). -/
structure Counter where
  page : Nat
  principal : Nat
  count : Nat
  deriving DecidableEq, Repr

/-- A home prefetch stream (R71); `age` orders the streams by use. -/
structure HomeStream where
  principal : Nat
  line : Nat
  down : Bool
  hits : Nat
  start : Nat
  age : Nat
  deriving DecidableEq, Repr

/-- A frame of a reserve that holds a share (R74 to R76). -/
structure Frame where
  page : Nat
  share : Nat
  ref : Bool
  mask : Mask
  deriving DecidableEq, Repr

/-- A running move of a share (R77), on the copy engine that keys it. -/
structure Move where
  die : Nat
  page : Nat
  share : Nat
  frame : Nat
  promote : Bool
  cursor : Nat
  /-- The HOM_MIG_CMD of its die started it. -/
  cmd : Bool
  deriving DecidableEq, Repr

/-- A move that waits for an engine or for the next period (R77, R79). -/
structure MoveWait where
  die : Nat
  page : Nat
  share : Nat
  promote : Bool
  cmd : Bool
  deriving DecidableEq, Repr

/-- Chapter 03's state: stored bytes by stored address, metadata by stored line, the device-code check bytes of devices 17 to 19 by stored
line of tier 2, lines that a demand read has brought and the home has yet to use, the channel capacity C in GB, the caches, controllers,
counters, streams, frames, moves, clock hands, and the hot-queue event sent in this period. -/
structure Mem where
  cells : List Host.Cell := []
  mds : SMap LineMeta := []
  devs : SMap (BitVec 192) := []
  arrived : SMap (LineData × LineMeta) := []
  chanGB : Nat := 0
  msc : SMap MscLine := []
  ctl : SMap Ctl := []
  counts : SMap Counter := []
  streams : SMap HomeStream := []
  tick : Nat := 0
  frames : SMap Frame := []
  moves : SMap Move := []
  waits : List MoveWait := []
  hand : SMap Nat := []
  moved : SMap Nat := []
  hotSent : List Nat := []
  sweeping : List Nat := []
  deriving DecidableEq, Repr

/-! ## Homes (chapter 04) -/

/-- Directory states (Table 04-2). -/
inductive DirState where
  | i | s | e | m | bGrant | bInv | bFwd | bFwdh | bRcl | bWb
  deriving DecidableEq, Repr

/-- STATE codes of Table 04-2. -/
def DirState.code : DirState → Nat
  | .i => 0 | .s => 1 | .e => 2 | .m => 3 | .bGrant => 8 | .bInv => 9 | .bFwd => 10 | .bFwdh => 11 | .bRcl => 12
  | .bWb => 13

/-- The busy states (R83). -/
def DirState.busy : DirState → Bool
  | .i | .s | .e | .m => false
  | _ => true

/-- A directory entry (Table 04-1), under the key of its way. `line` is the line's key, from which TAG and T follow. -/
structure DirEntry where
  line : Nat
  sharers : Mask := 0
  state : DirState := .i
  pins : Nat := 0
  lock : Bool := false
  deriving DecidableEq, Repr

/-- A request of the request table (R92): what it awaits while its line is busy, the holders that follow, data already in,
and the writebacks whose WB_ACK waits (R99). -/
structure Req where
  pkt : Packet
  line : Nat
  ext : Nat
  gen : Bool
  ecc : Upset
  slot : Option Nat
  partition : Nat
  active : Bool := false
  invs : Mask := 0
  fwd : Option Nat := none
  wb : Option Nat := none
  compl : Bool := false
  next : DirState := .i
  nextSharers : Mask := 0
  got : Option (LineData × Bool) := none
  /-- The forward target's writeback has crossed (R99). -/
  crossed : Bool := false
  acks : List Packet := []
  deriving DecidableEq, Repr

/-- Why a home recalls a line on its own account (R435). -/
inductive RclFor where
  | evict (waiting : Nat)
  | walk
  | lock
  deriving DecidableEq, Repr

/-- A recall (R435). -/
structure Recall where
  line : Nat
  why : RclFor
  invs : Mask := 0
  fwd : Option Nat := none
  wb : Option Nat := none
  acks : List Packet := []
  deriving DecidableEq, Repr

/-- One place of a line's queue (R89): a request-table entry, or the lock request of a transaction's leg (R115). -/
inductive QItem where
  | req (idx : Nat)
  | lock (txn : Nat)
  deriving DecidableEq, Repr

/-- A directory walk (R96, R97, Table 02-14): the sweep or release of a slot, or the withdrawal of an extent. -/
inductive WalkKind where
  | sweep (s : Nat)
  | release (s : Nat)
  | withdraw (e : Nat)
  deriving DecidableEq, Repr

/-- A walk running on a die, and its next set. -/
structure Walk where
  die : Nat
  kind : WalkKind
  next : Nat := 0
  deriving DecidableEq, Repr

/-- A write of the node's own units that found the request table full and is issued again (R92): die of the unit, partition, offset,
bytes, mask. -/
structure Posted where
  die : Nat
  partition : Nat
  off : Nat
  data : LineData
  mask : Mask
  deriving DecidableEq, Repr

/-- Chapters 02 and 04: extents, directory, request and recall tables, line queues, walks, writes of the node's own units that wait to be
issued again. `wake` lists the lines whose queue the home looks at next; it is empty between commands. -/
structure Home where
  ext : SMap Extent := []
  dir : SMap DirEntry := []
  plru : SMap (BitVec 16) := []
  req : SMap Req := []
  rcl : SMap Recall := []
  queue : SMap (List QItem) := []
  walks : List Walk := []
  scrubAt : SMap Nat := []
  wake : List Nat := []
  /-- Dies whose home has stopped (R69, R84). -/
  halted : List Nat := []
  posted : List Posted := []
  deriving DecidableEq, Repr

/-! ## Transactions (chapter 05) -/

/-- Record states (Table 05-6). -/
inductive TxnState where
  | free | open | preparing | committed | aborted
  deriving DecidableEq, Repr

/-- A line of a transaction: in its read set, its staged bytes, its commit lock (R110, R111, R115). -/
structure TxnLine where
  line : Nat
  ext : Nat
  inRead : Bool
  staged : Option (LineData × Mask)
  locked : Bool := false
  /-- A word of its staged bytes is uncorrectable (Table 01-2). -/
  spoiled : Bool := false
  deriving DecidableEq, Repr

/-- Progress of a leg's commit (Table 05-5). -/
inductive LegPhase where
  | idle | locking | ready | acked | applying | applied
  deriving DecidableEq, Repr

/-- A transaction's record on its coordinator (R103 to R118); legs are kept by die in `phases`. -/
structure Txn where
  state : TxnState := .free
  gen : BitVec 8 := 0
  opener : Endpoint := 0
  source : Endpoint := 0
  sourceLocal : BitVec 8 := 0
  partition : Nat := 0
  ok : Nat := 0
  cause : Nat := 0
  commit : Option Packet := none
  lines : List TxnLine := []
  phases : SMap LegPhase := []
  deriving DecidableEq, Repr

/-! ## Keys (chapter 15) -/

/-- Which generations of a key ID hold a key (R325, R327), and the sweep of a rotation: by die, what is left of each extent as
(extent, next 64 KiB page of it, pages left). -/
structure KeyState where
  has0 : Bool := false
  has1 : Bool := false
  num0 : Nat := 0
  num1 : Nat := 0
  sweep : SMap (List (Nat × Nat × Nat)) := []
  deriving DecidableEq, Repr

/-- A request of the root-of-trust mailbox (R334): whether it came over MCTP, its command and its bytes. -/
structure MboxReq where
  mctp : Bool
  cmd : Nat
  body : List Byte
  deriving DecidableEq, Repr

/-- The root of trust (R312 to R318, R331, R334): the secure-function list, whether the image holds a SECURITY section, the staged
slots, the running image's SVN, the anti-rollback counter and whether the flash holds its root key, the flash, nonces drawn and the one
outstanding, failed attempts, measurements 1 to 6, whether the private keys are cleared, SPDM requests answered by transport (0 and
1 DOE, 2 MCTP), answers sent by transport, mailbox answers over MCTP, requests that wait, and a level 2 unlock that waits for the
teardown of the partitions. -/
structure Rot where
  secure : BitVec 32 := 0
  security : Bool := false
  slotA : Option ImageInfo := none
  slotB : Option ImageInfo := none
  svn : Nat := 0
  counter : Nat := 0
  bound : Bool := false
  flash : List Host.Cell := []
  nonces : Nat := 0
  nonce : Option (List Byte) := none
  fails : Nat := 0
  meas : SMap (BitVec 384) := []
  noKeys : Bool := false
  spdm : SMap Nat := []
  answers : List (Nat × List Byte) := []
  mctp : List (Nat × List Byte) := []
  queue : List MboxReq := []
  unlocking : Option MboxReq := none
  /-- Memory keys generated so far (R325). -/
  made : Nat := 0
  deriving DecidableEq, Repr

/-! ## Outstanding requests of the node's own requesters (R92, R234, R248) -/

/-- What the answer of an outstanding request is for. -/
inductive OutFor where
  /-- A vector load of one line into register `reg` of the engines named (R168). -/
  | vload (engs : List Nat) (reg : Nat)
  /-- One of the two lines of an FP6 load: `len` bytes from byte `at_` of the line go to byte `pos` of the 192 (R133). -/
  | vload6 (engs : List Nat) (reg at_ pos len : Nat)
  /-- A store. -/
  | store
  /-- A scalar load of 8 bytes at byte b of the line into S register r. -/
  | sload (reg b : Nat)
  /-- An atomic whose old value, at byte b, goes to S register r. -/
  | atom (reg b : Nat) (wide : Bool)
  /-- A transaction command of a micro-sequence, whose outcome goes to S register r. -/
  | txOpen (reg : Nat)
  | txCommit (reg : Nat)
  | txAbort (reg : Nat)
  /-- A core prefetch (R70). -/
  | prefetch
  /-- A line that a descriptor or a built-in kernel reads, by virtual line number. -/
  | kread (vline : Nat)
  /-- A compare-and-swap of CAS_SWEEP at byte b. -/
  | kcas (b : Nat)
  /-- A transaction command of a built-in kernel. -/
  | kopen
  | kcommit
  | kabort
  /-- Line i of a copy engine's tile: its read, or its write; the flag write. -/
  | copyRead (i : Nat)
  | copyWrite (i : Nat)
  | copyFlag
  /-- A write at RESULT by a collective unit, for a plan. -/
  | result (plan : Nat)
  | other
  deriving DecidableEq, Repr

/-- An outstanding request, under (local ID of its agent, tag). `stalled` says that a RETRY back-off runs, of `wait` µs. -/
structure Out where
  who : Requester
  pkt : Packet
  die : Nat
  partition : Nat
  epoch : Bool := false
  /-- Its read does not allocate in the memory-side cache (R67, R149). -/
  stream : Bool := false
  why : OutFor := .other
  wait : Nat := 0
  stalled : Bool := false
  deriving DecidableEq, Repr

/-! ## Translation (chapter 08) -/

/-- A cached translation (R186): level 0, 1 or 2 for a page of 64 KiB, 2 MiB or 1 GiB; `page` is the address divided by the page
size, `addr` the page's fabric address. -/
structure TcEntry where
  asid : Nat
  level : Nat
  page : Nat
  addr : Nat
  r : Bool
  w : Bool
  a : Bool
  deriving DecidableEq, Repr

/-- A walk in progress (R185, R186): the waiting contexts with the address and the right each needs, GEN and ROOT at its start once read,
its restarts, and whether it waits to restart. -/
structure PWalk where
  asid : Nat
  page : Nat
  waiters : List (Nat × Nat × Nat)
  gen0 : Option (Nat × Nat) := none
  restarts : Nat := 0
  again : Bool := false
  deriving DecidableEq, Repr

/-- An INVALIDATE command (Table 08-1). -/
structure InvCmd where
  queue : Nat
  asid : Nat
  gen : Nat
  all : Bool
  first : Nat
  pages : Nat
  tag : Nat
  deriving DecidableEq, Repr

/-- The translation units: die caches and their pseudo-LRU bits, core caches, expected generations by address space, walks by
die × 32 + index, the running batch of invalidations, the dies whose old epoch it drains, and the next batch. -/
structure Ptu where
  tc : SMap TcEntry := []
  plru : SMap (BitVec 8) := []
  core : SMap (List TcEntry) := []
  gen : SMap Nat := []
  walks : SMap PWalk := []
  batch : List InvCmd := []
  next : List InvCmd := []
  deriving DecidableEq, Repr

/-! ## Cores and tasks (chapters 06 to 08) -/

/-- A pool task (R147, R174, R179): TASK_ID, host queue or plan, what the queue binds, the entry's fields, and what the task
latches when it starts. A collective unit's task carries its descriptor with fabric addresses (R208). -/
structure Task where
  id : Nat := 0
  queue : Option Nat := none
  plan : Option Nat := none
  partition : Nat := 0
  asid : Nat := 0
  principal : Nat := 0
  place : Nat := 0
  target : Nat := 0
  addr : Nat := 0
  seed : Nat := 0
  desc : List Byte := []
  fmts : List (BitVec 128) := []
  prog : List DWord := []
  deriving DecidableEq, Repr

/-- Where a context stands. -/
inductive CtxPhase where
  /-- The descriptor is being read. -/
  | fetch
  | run
  /-- A withheld result waits for its verdict (R341). -/
  | dispute
  /-- Steps 1 to 4 of Table 08-7: a fault with its cause and address; the KILL flag. -/
  | fault (cause va : Nat) (killed : Bool)
  /-- Step 5 or 6 with SAVED = 0. -/
  | waiting
  /-- A saved task is being read back from its slot. -/
  | restoring (slot : Nat)
  /-- The task has stopped and waits for its requests (R151): status, detail, KILLED. -/
  | stopping (status detail : Nat) (killed : Bool)
  /-- A plan task has ended with a status (R210). -/
  | ended (status : Nat)
  deriving DecidableEq, Repr

/-- A context's open transaction (R170): its TXID once opened, the OK completions counted, the abort cause once known, the poisoned lines
it has staged (R145). -/
structure CtxTx where
  txid : Option (BitVec 32) := none
  ok : Nat := 0
  cause : Option Nat := none
  spoiled : Nat := 0
  deriving DecidableEq, Repr

/-- Bytes that a built-in kernel has computed and not yet stored: line address, bytes, mask, poison. -/
structure KPut where
  va : Nat
  data : LineData
  mask : Mask
  poison : Bool
  deriving DecidableEq, Repr

/-- A task context (R122) and what the built-in kernels keep in it: lines read, lines read once for the whole task (R160), bytes to store,
unit reached, stage, retries, counts. `parts` holds the bytes of an FP6 load so far, with the poison of its two registers. -/
structure Context where
  task : Task
  phase : CtxPhase := .fetch
  pc : Nat := 0
  sreg : SMap DWord := []
  vreg : SMap (LineData × Bool) := []
  gens : SMap (List (BitVec 32)) := []
  scratch : SMap (LineData × Bool) := []
  parts : SMap (List Byte × Bool × Bool) := []
  tx : Option CtxTx := none
  poisoned : Nat := 0
  res0 : Nat := 0
  res1 : Nat := 0
  got : SMap (LineData × Bool) := []
  kept : SMap (LineData × Bool) := []
  puts : List KPut := []
  unit : Nat := 0
  stage : Nat := 0
  retries : Nat := 0
  aux : Nat := 0
  deriving DecidableEq, Repr

/-- A stream of a core's prefetcher (R70); `age` orders the streams by use. -/
structure CoreStream where
  ctx : Nat
  line : Nat
  stride : Int
  hits : Nat
  age : Nat
  deriving DecidableEq, Repr

/-- A line that a prefetch has brought into a cluster buffer (R9, R70): the context it serves, as core × 8 + context, its fabric address
divided by 128, the transaction that read it, its bytes and poison. -/
structure BufLine where
  key : Nat
  line : Nat
  tx : Option (BitVec 32)
  data : LineData
  poison : Bool
  deriving DecidableEq, Repr

/-- A task in a slot of a save area (R191, R192). -/
structure Saved where
  partition : Nat
  slot : Nat
  ctx : Context
  flags : BitVec 4
  /-- It has been placed again and is being restored. -/
  moving : Bool := false
  deriving DecidableEq, Repr

/-- Cores and dispatchers: contexts by core × 8 + context, the context of each core that issued last (R122), prefetch streams by core × 16 +
stream, cluster buffers by cluster with the lines oldest first (R9, R70), task windows by queue, saved tasks, reserved completion records
by queue, pass parity of the completion rings and pass count of the submission rings by queue, records that wait for a free completion
record, the dispatchers' turns, cores gated and cores that wake. -/
structure Clu where
  ctx : SMap Context := []
  last : SMap Nat := []
  streams : SMap CoreStream := []
  buf : SMap (List BufLine) := []
  tick : Nat := 0
  window : SMap (List Task) := []
  saved : List Saved := []
  reserved : SMap Nat := []
  cphase : List Nat := []
  pass : SMap Nat := []
  recWait : List (Nat × List Byte) := []
  /-- By die: the queue whose turn runs and the entries it has taken (R176). -/
  turn : SMap (Nat × Nat) := []
  gated : List Nat := []
  waking : List Nat := []
  deriving DecidableEq, Repr

/-! ## The sequence store (chapter 07) -/

/-- A loaded micro-sequence (R171). -/
structure Seq where
  partition : Nat
  prog : List DWord
  invalid : Bool := false
  deriving DecidableEq, Repr

/-! ## Copy engines (chapter 10) -/

/-- What a copy engine knows of one page of its tile (R223): the right it asked for, and the page's fabric address or the cause of
the failure. -/
structure CopyXlat where
  page : Nat
  need : Nat
  addr : Option Nat
  cause : Nat := 0
  deriving DecidableEq, Repr

/-- Where a copy descriptor stands: its tile is being translated, its tile runs, its flag's page is being translated, its flag
write runs. -/
inductive CopyPhase where
  | translate | run | flag | flagRun
  deriving DecidableEq, Repr

/-- A copy descriptor a copy engine runs (Table 10-2): its queue and TASK_ID, the tile at hand with the fabric addresses of its
lines, the next line to read, the lines read and not yet written, counts, and why it stops. -/
structure CopyRun where
  queue : Nat
  id : Nat
  desc : List Byte
  tile : Nat
  phase : CopyPhase := .translate
  epoch : Bool := false
  known : List CopyXlat := []
  lines : List (Nat × Nat) := []
  nextRead : Nat := 0
  toWrite : List (Nat × LineData × Bool) := []
  poisoned : Nat := 0
  bytes : Nat := 0
  /-- Status, DETAIL and FAULT_VA of a stop. -/
  stop : Option (Nat × Nat × Nat) := none
  killed : Bool := false
  deriving DecidableEq, Repr

/-- Copy engines: running descriptors, and by die the queue whose turn comes next (R220). -/
structure Xfr where
  run : SMap CopyRun := []
  turn : SMap Nat := []
  deriving DecidableEq, Repr

/-! ## Collective plans (chapter 09) -/

/-- A participant entry (Table 09-2). -/
structure PlanEntry where
  id : Endpoint
  send : Bool
  recv : Bool
  dest : Nat
  deriving DecidableEq, Repr

/-- A plan record as the unit copies it (Tables 09-1, 09-2), with the formats of its arm. -/
structure PlanRec where
  kind : Nat
  op : Nat
  inFmt : Nat
  outFmt : Nat
  mode : Nat
  push : Bool
  pool : Bool
  /-- Elements of a chunk. -/
  chunk : Nat
  conc : Nat
  partition : Nat
  principal : Nat
  count : Nat
  bufExt : Nat
  runTimeout : Nat
  result : Nat
  entries : List PlanEntry
  fmts : List (BitVec 128)
  deriving DecidableEq, Repr

/-- An open run (R207 to R210): lines accepted by sender rank and chunk, tree tasks done as (chunk, level, group), chunks
delivered, entries that received a poisoned line, whether one was written at RESULT, and lines to be written there that wait for a tag. -/
structure PlanRun where
  lines : SMap Nat := []
  accepted : Nat := 0
  done : List (Nat × Nat × Nat) := []
  delivered : List Nat := []
  poisoned : List Nat := []
  poolPoison : Bool := false
  unsent : List (Nat × LineData × Bool) := []
  deriving DecidableEq, Repr

/-- A plan (R202): the local offset of the record that its ARM names and the FLOOR of that arm (R198, Table 09-7), its record once copied,
entries that have answered the arm, entries whose disarm answer is awaited, the open run. -/
structure Plan where
  src : Nat := 0
  floor : Nat := 0
  record : Option PlanRec := none
  answered : List Nat := []
  leaving : List Nat := []
  run : Option PlanRun := none
  deriving DecidableEq, Repr

/-- A reservation entry of a port (R203), with its floor. -/
structure Rsv where
  planNode : Nat
  plan : Nat
  gen : Nat
  dst : Endpoint
  floor : Nat
  deriving DecidableEq, Repr

/-- Collective units: plans, lines accepted and delivered by plan in this statistics period, reservation entries by port. -/
structure Col where
  plans : SMap Plan := []
  inLines : SMap Nat := []
  outLines : SMap Nat := []
  rsv : SMap (List Rsv) := []
  deriving DecidableEq, Repr

/-! ## History (chapter 16) -/

/-- A history record (Table 16-3). -/
structure HistRec where
  cls : Nat
  inst : Nat
  kind : Nat
  fenced : Bool := false
  retired : Bool := false
  repeated : Bool := false
  count : Nat := 0
  total : Nat := 0
  last : Nat := 0
  deriving DecidableEq, Repr

/-- A core's test or role change in progress (Tables 16-5, 16-6): what it was begun for; `spare` is TEST of an understudy. -/
inductive TestFor where
  | swap | command | recovery | unfence | spare
  deriving DecidableEq, Repr

/-- An operand snapshot (R127, R337): the source, scale and accumulator registers that an engine instruction reads, the S registers of a
scalar one, the indices of Sx, the lanes' generators before the instruction, and the first of its free values. -/
structure Snapshot where
  regs : SMap LineData := []
  sregs : SMap DWord := []
  sx : Nat := 0
  gens : List (BitVec 32) := []
  free : Nat := 0
  deriving DecidableEq, Repr

/-- A disagreement that waits for its verdict (Table 16-1): the instruction of a context and its engine, the snapshot that the latch holds,
what it gives, the replay's result E, whether it equals the first result, whether the checker predicts wrong residues, the registers that the verdict
writes (for a scalar instruction, its S register), and the poison of the sources. -/
structure Dispute where
  core : Nat
  ctx : Nat
  eng : Nat
  op : BitVec 64
  snap : Snapshot := {}
  good : List LineData
  e : List LineData
  aEqE : Bool
  checker : Bool := false
  dests : List Nat
  scalar : Bool := false
  poison : Bool
  deriving DecidableEq, Repr

/-- Chapter 16's state: history, power-on hours, the committed copies (alternating) and a commit due, cores whose fence has
begun with their class, fences that wait for a teardown, disabled copy engines, the previous swap target of each cluster,
tests running, slow swaps reported, disputes by cluster in arrival order, feeds. -/
structure Ras where
  hist : List HistRec := []
  hours : Nat := 0
  copies : List (List HistRec) := []
  commitDue : Bool := false
  fencing : List (Nat × Nat) := []
  fenceWait : List (Nat × Nat) := []
  disabled : List Nat := []
  lastTarget : SMap Nat := []
  testing : SMap TestFor := []
  draining : SMap TestFor := []
  disputes : List Dispute := []
  deriving DecidableEq, Repr

/-! ## Image tables (chapter 17) -/

/-- The image-only tables in service (Tables 17-5, 17-6), at the defaults of their chapters: drain levels (Table 03-3), refresh
curves (R58), patrol rates (Table 03-7), history thresholds (Table 16-4), function timers (Table 17-10), lane presets and
port lists (R293). -/
structure Tables where
  drain : List Nat := [96, 32, 48, 16]
  refreshStk : List Nat := List.replicate 17 1 ++ [2, 2] ++ List.replicate 7 4
  refreshDmc : List Nat := List.replicate 17 1 ++ [2, 2] ++ List.replicate 7 4
  patrol : List (Nat × Nat) := [(0, 24), (16, 8), (256, 2)]
  history : List (Nat × Nat × List Nat) :=
    [(64, 1, [16, 32, 16]), (64, 1, [16]), (64, 1, [16, 16]), (32, 1, [16, 16]), (64, 2, [16, 16]), (64, 1, [64, 32]),
     (64, 2, [1, 64]), (256, 2, [16]), (32, 2, [16]), (32, 2, [16]), (64, 2, [16]), (64, 2, [16]), (0, 0, [0]), (0, 0, [0])]
  funcSeq : List (Nat × Nat × Nat) :=
    [(0, 100, 10), (20, 2000, 10000), (0, 10, 100), (0, 60000, 10000), (0, 10, 10000), (0, 0, 0)]
  lanePreset : List (List Int) := []
  portLists : List (List Nat) := []
  deriving DecidableEq, Repr

/-- The walker's pass on a die (R368 to R370): whether it began while DIRTY was 1, whether a protected field has changed since it
began, and whether it began after a COMMIT was written. -/
structure CrcPass where
  dirty : Bool := false
  changed : Bool := false
  armed : Bool := false
  deriving DecidableEq, Repr

/-! ## Packets in the node (chapter 11) -/

/-- A packet held on a die for a next hop (R242 to R247), with the port it arrived on. -/
structure Held where
  pkt : Packet
  die : Nat
  inPort : Option Nat := none
  deriving DecidableEq, Repr

/-- A packet handed to the node's own agents that none has acted on yet: the port it came in by, or the die of the agent that sent it, and
the mesh cycle in which it arrived (R41, R98). -/
structure Came where
  pkt : Packet
  die : Nat
  port : Option Nat := none
  cycle : Nat := 0
  deriving DecidableEq, Repr

/-- An entry of a die's fence store (R252): the flow, the weight summed so far in 256ths, and P once it has arrived, with the access
port it leaves on. -/
structure FenceEntry where
  src : Endpoint
  dst : Endpoint
  col : Bool
  weight : Nat := 0
  pkt : Option (Packet × Option Nat) := none
  deriving DecidableEq, Repr

/-- Chapter 11's state: packets held, packets delivered to a local agent and not yet acted on, and how each came, packets delivered so
far and the mesh cycle of the last, management packets by the port they arrived on, tie pointers by die and route entry, fence stores by
die × 1024, flows whose entry has ended unfulfilled and whose later probes go (R252), and single-bit errors corrected by bridge (2 × bridge +
direction, R18). -/
structure Fab where
  held : List Held := []
  inbox : List Packet := []
  came : List Came := []
  arrivals : Nat := 0
  cycle : Nat := 0
  corrected : SMap Nat := []
  mgtq : List (Packet × Nat) := []
  ties : SMap Nat := []
  fences : SMap FenceEntry := []
  late : List (Nat × Endpoint × Endpoint × Bool) := []
  deriving DecidableEq, Repr

/-! ## Links (chapter 12) -/

/-- A DATA flit of a replay buffer (R263): its number and body, buffer and cost of the packets that start in it, banks of those that
end in it; the packet that continues in it with the slots it had left before it; `owed` says that a resume gave its costs back (R274). -/
structure SentFlit where
  seq : Nat
  body : List BodyItem
  lead : Option (Packet × Nat) := none
  debits : List (Nat × Nat) := []
  ends : List Bool := []
  owed : Bool := false
  deriving DecidableEq, Repr

/-- What leaves a port: a flit, or an INIT flit. -/
inductive WireFlit where
  | flit (f : Flit)
  | init (b : InitBody)
  deriving DecidableEq, Repr

/-- A flit that the lanes have delivered: its bytes, and whether it overlaps an uncorrectable frame or holds an invalid header (R285). -/
structure RxFlit where
  bits : BitVec 2048
  marked : Bool := false
  deriving DecidableEq, Repr

/-- A lane's frame as decoded: its 40 blocks, and whether it was uncorrectable (R285). -/
structure RxFrame where
  message : BitVec 2640 := 0
  marked : Bool := false
  deriving DecidableEq, Repr

/-- The streams of a port's lanes (R280 to R285): the scrambler's last 58 bits, newest in bit 0; the PRBS31 generator of IDLE blocks;
aggregate blocks not yet framed; symbols of the frame that left last, by transmit lane. On the receive side: the descrambler's last 58
bits, decoded frames by physical lane that wait for the other lanes, data blocks counted of the flit under way with its bytes and its
mark, and the flits delivered and not yet taken. -/
structure PortWire where
  scr : BitVec 58 := 0
  prbs : BitVec 31 := BitVec.allOnes 31
  row : List (BitVec 66) := []
  sent : SMap (List Level) := []
  descr : BitVec 58 := 0
  came : SMap (List RxFrame) := []
  count : Nat := 0
  part : BitVec 2048 := 0
  mark : Bool := false
  flits : List RxFlit := []
  deriving DecidableEq, Repr

/-- A port's link (R263 to R276). -/
structure PortLink where
  /-- The transmit queue, and the packet being sent with the slots it has left. -/
  txq : List Packet := []
  cur : Option (Packet × Nat) := none
  /-- The buffer whose turn comes next (R268). -/
  turn : Nat := 0
  replay : List SentFlit := []
  /-- The number of the flit that a running replay sends next, and the one it started from (R266). -/
  resend : Option Nat := none
  resentFrom : Nat := 0
  replays : Nat := 0
  nakQueued : Bool := false
  nakPending : Bool := false
  /-- The receive buffer, and the packet partly received with the slots it lacks. -/
  rx : List Packet := []
  rxCur : Option (Packet × Nat) := none
  /-- Packets in the flit-to-mesh FIFO. -/
  fifo : List Packet := []
  freed : SMap Nat := []
  debited : SMap Nat := []
  farFreed : SMap Nat := []
  /-- Buffer sizes in force: the port's own, and the far end's. -/
  sizes : List Nat := []
  farSizes : List Nat := []
  /-- Counts and acknowledgement changed since they were last sent, and the counts last carried (R265, R269). -/
  changed : List Nat := []
  ackNew : Bool := false
  lastA : Nat := 19
  lastB : Nat := 19
  /-- Retrain attempts begun (R273), and whether a fresh start has completed since DOWN. -/
  attempts : Nat := 0
  begun : Bool := false
  /-- The INIT exchange: the last INIT received in it, and whether one with SEEN = 1 has been sent. -/
  farInit : Option InitBody := none
  sentSeen : Bool := false
  mismatch : Bool := false
  /-- Link keys (R329): in the wings, adopted at entry to INIT, and in use; NO_LINK_KEY raised. -/
  keyWings : Option (BitVec 256) := none
  keyNext : Option (BitVec 256) := none
  keyLive : Option (BitVec 256) := none
  keyAsked : Bool := false
  ctrTx : BitVec 64 := 0
  ctrRx : BitVec 64 := 0
  /-- The last 1,024 flit slots: which carried a DATA flit (R306). -/
  slots : BitVec 1024 := 0
  lastTs : BitVec 32 := 0
  /-- The flit that left last. -/
  out : Option WireFlit := none
  /-- What its lanes send and receive. -/
  wire : PortWire := {}
  deriving DecidableEq, Repr

/-! ## Lanes (chapter 13) -/

/-- A lane's counts in the running health window (R296). -/
structure LaneWin where
  uncorr : Nat := 0
  corr : Nat := 0
  locks : Nat := 0
  deriving DecidableEq, Repr

/-- A port's lanes. Masks of physical lanes: clock recovered, block lock, provisional inversion, polarity fixed, unusable in this
bring-up. Masks of transmit lanes: the far end's that this end receives usably (RXOK), the receive and the transmit lane set. Lanes that
return at the next bring-up; windows, recent frames and recent headers by lane; by transmit lane the REQ_T acted on and the answer
given; the far RXSTAGE by lane; FEC framing started; lanes whose eye run waits for stage 8, and whose run is in progress. -/
structure PortLanes where
  locked : BitVec 8 := 0
  blocked : BitVec 8 := 0
  provisional : BitVec 8 := 0
  fixed : BitVec 8 := 0
  dead : BitVec 8 := 0
  rxok : BitVec 8 := 0
  rxSet : BitVec 8 := 0
  txSet : BitVec 8 := 0
  returning : BitVec 8 := 0
  wins : SMap LaneWin := []
  frames : SMap (BitVec 64) := []
  headers : SMap (BitVec 64) := []
  reqT : SMap Bool := []
  ack : SMap Nat := []
  farStage : SMap Nat := []
  framing : Bool := false
  margins : List Nat := []
  eyes : List Nat := []
  deriving DecidableEq, Repr

/-! ## Leashes and periods (chapter 14) -/

/-- A bucket's settings as its last refill applied them (R305). -/
structure LeashCfg where
  port : Nat
  src : Endpoint := 0
  cls : Nat := 0
  rate : Nat
  burst : Nat
  deriving DecidableEq, Repr

/-- A request of an access port that awaits its response (R308). -/
structure Asked where
  port : Nat
  src : Endpoint
  tag : BitVec 14
  cls : Nat
  deriving DecidableEq, Repr

/-- Buckets (leash i under i, the catch-all of port p under 256 + p), leash queues by port, the running period counters, requests
that await their responses, and the REFILL and PERIOD in force. -/
structure Qos where
  cfg : SMap LeashCfg := []
  tokens : SMap Nat := []
  queue : SMap (List Packet) := []
  bytes : SMap Nat := []
  waits : SMap Nat := []
  barks : SMap Nat := []
  hist : SMap Nat := []
  asked : List Asked := []
  refill : Nat := 10
  period : Nat := 1000
  /-- The curtain (R363, R364): wings taken at the cue, by register key, and the units (rank, die) that have yet to commit. -/
  cue : SMap (BitVec 128) := []
  left : List (Nat × Nat) := []
  deriving DecidableEq, Repr

/-! ## Power (chapter 19) -/

/-- Power, clocks and resets: the running step of Table 19-4 (0: none), a power-down in progress, the reset pin whose accepted low
lasts (true: COLD_RESET_N), THERMTRIP_N driven low, clock domains lengthened by a droop and those that wait to be restored (die d as d,
cluster k as 4 + k), the duties that the cap and the throttle ask for, ms with the duty at its floor and whether that has been
reported, throttles that act (die d as d, its stacks as 4 + d, its DIMMs as 8 + d), dies whose lane reference is lost, and the set point of
VDD_CORE in mV by die where it is not 750 (R398). -/
structure Pwr where
  step : Nat := 0
  down : Bool := false
  pin : Option Bool := none
  thermtrip : Bool := false
  stretch : List Nat := []
  restoring : List Nat := []
  capDuty : Nat := 64
  heatDuty : Nat := 64
  floor : Nat := 0
  floorSaid : Bool := false
  hot : List Nat := []
  lanesLost : List Nat := []
  vcore : SMap Nat := []
  deriving DecidableEq, Repr

/-! ## Events and host ports (chapter 18) -/

/-- What the host ports keep beside their registers: functions (16 × port + function) whose Bus Master Enable is 1. -/
structure Pci where
  bme : List Nat := []
  deriving DecidableEq, Repr

/-- An event record (Table 18-7). -/
structure EvRec where
  type : Nat
  sev : Nat := 0
  part : Option Nat := none
  die : Nat := 0
  inst : Nat := 0
  status : Nat := 0
  arg : List Byte := []
  period : Nat := 0
  time : BitVec 32 := 0
  lost : Bool := false
  phase : Bool := false
  deriving DecidableEq, Repr

/-- The event unit (R390 to R393): the pending buffer and its overflow mark, armed queues, queues that dropped a record,
the records written to host memory (queue, address, record) and the MSI-X messages sent, oldest first, and the queues
inside and waiting for their moderation time. -/
structure Evt where
  pending : List EvRec := []
  overflow : Bool := false
  armed : List Nat := []
  lost : List Nat := []
  phase : List Nat := []
  written : List (Nat × Nat × EvRec) := []
  msix : List Nat := []
  quiet : List Nat := []
  waiting : List Nat := []
  alert : Bool := false
  deriving DecidableEq, Repr

end Sys2Proof.Machine
end

