-- ==== Sys2Proof/Machine/Codes.lean ====
section
/-! DEFINITION. The codes that protect stored lines: GF(2^8), the line code, the device code of the DIMM tier, where a line lies in the
devices of its channel, and what the codes make of an error pattern (R53, R60 to R62). -/

namespace Sys2Proof.Machine

/-! ### GF(2^8) with x^8 + x^4 + x^3 + x^2 + 1 (R61) -/

/-- Every byte of v times x; `one` holds 1 in every byte. -/
def gfTimesX {w : Nat} (one v : BitVec w) : BitVec w := ((v &&& (one * 0x7F)) <<< 1) ^^^ (((v >>> 7) &&& one) * 0x1D)

/-- Every byte of v times f. -/
def gfScale {w : Nat} (one v : BitVec w) (f : Byte) : BitVec w :=
  ((List.range 8).foldl (fun (a : BitVec w × BitVec w) i => (if f.getLsbD i then a.1 ^^^ a.2 else a.1, gfTimesX one a.2)) (0, v)).1

/-- The product of two field elements. -/
def gfMul (a b : Byte) : Byte := gfScale 1#8 b a

/-- α^n, with α = x. -/
def alpha (n : Nat) : Byte := (List.range n).foldl (fun a _ => gfTimesX 1#8 a) 1#8

/-- Coefficients of the product of (x − α^i) for i < n, the constant first. -/
def genCoeffs : Nat → List Byte
  | 0 => [1]
  | n + 1 =>
    let p := genCoeffs n
    List.zipWith (· ^^^ ·) (0 :: p) (p.map (gfMul (alpha n)) ++ [0])

/-- A generator's coefficients below the leading one, the highest in the low byte. -/
def genPacked (w n : Nat) : BitVec w := ((genCoeffs n).take n).foldl (fun a c => a <<< 8 ||| c.setWidth w) 0

/-- One message symbol through a Reed-Solomon encoder that holds its check symbols, the first in the low byte. -/
def rsStep {w : Nat} (one gen r : BitVec w) (m : Byte) : BitVec w := (r >>> 8) ^^^ gfScale one gen (m ^^^ r.setWidth 8)

/-- The check symbols of a message. -/
def rsChecks {w : Nat} (one gen : BitVec w) (msg : List Byte) : BitVec w := msg.foldl (rsStep one gen) 0

/-! ### Stored lines (R53, R60, R61) -/

/-- Metadata bits [7:0] (Table 03-5). -/
def LineMeta.low (m : LineMeta) : Byte := BitVec.ofNat 8 (m.poison.toNat + 2 * m.keygen.toNat + 4 * m.hint.toNat)

/-- The seven CHECK symbols of a line: data bytes 0 to 127, then metadata bits [7:0]. -/
def lineCode (data : LineData) (low : Byte) : BitVec 56 :=
  rsChecks 0x01010101010101 (genPacked 56 7) (((List.range 128).map fun i => data.extractLsb' (8 * i) 8) ++ [low])

/-- The line as it is stored: encrypted under the key and tweak that its metadata names (R324). -/
def LineMeta.cipher (m : LineMeta) (data : LineData) : LineData := Config.cipher m.crypt.1 m.crypt.2 data

/-- Metadata with a valid line code, which covers the encrypted line (R324). -/
def LineMeta.coded (m : LineMeta) (data : LineData) : LineMeta := { m with check := lineCode (m.cipher data) m.low }

/-- The eight metadata bytes of a line (Table 03-5). -/
def LineMeta.bytes (m : LineMeta) : BitVec 64 := m.check ++ m.low

/-- Bytes 0 to 16 devices give to code k of the device code, and the code's three check bytes, device 17's in the low byte. -/
def deviceCode (data : LineData) (m : LineMeta) (k : Nat) : BitVec 24 :=
  rsChecks 0x010101 (genPacked 24 3)
    (((List.range 16).map fun j => data.extractLsb' (8 * (8 * j + k)) 8) ++ [m.bytes.extractLsb' (8 * k) 8])

/-- Check bytes of devices 17 to 19: byte k of device 17 + i is byte 8i + k. -/
def deviceChecks (data : LineData) (m : LineMeta) : BitVec 192 :=
  (List.range 8).foldl (fun a k => (List.range 3).foldl (fun a i =>
    a ||| ((deviceCode data m k).extractLsb' (8 * i) 8).setWidth 192 <<< (8 * (8 * i + k))) a) 0

/-- The burst of a DDR5 channel: 20 devices of 8 bytes, byte k of device j as byte 8j + k. -/
def burst (data : LineData) (m : LineMeta) (checks : BitVec 192) : BitVec 1280 := checks ++ (m.bytes ++ data)

/-- The 8 bytes of device j. -/
def deviceOf (b : BitVec 1280) (j : Nat) : BitVec 64 := b.extractLsb' (64 * j) 64

/-! ### What the codes find (R61, R62) -/

/-- A byte of an error pattern is in error. -/
def badByte (e : BitVec 1280) (i : Nat) : Bool := e.extractLsb' (8 * i) 8 != 0

/-- Devices in error in code k of the device code. -/
def badDevices (e : BitVec 1280) (k : Nat) : List Nat := (List.range 20).filter fun j => badByte e (8 * j + k)

/-- Error pattern that the device code leaves: a code with one device in error is corrected, one with two only detects. -/
def deviceLeaves (e : BitVec 1280) : BitVec 1280 :=
  if (List.range 8).any fun k => decide (3 ≤ (badDevices e k).length) then Config.deviceBeyond e
  else (List.range 8).foldl (fun a k => match badDevices e k with
    | [j] => a &&& ~~~ (0xFF#1280 <<< (8 * (8 * j + k)))
    | _ => a) e

/-- What the codes make of what they read: clean, corrected or uncorrectable, and the error pattern left in what they deliver. -/
structure Decoded where
  ecc : Ecc
  left : BitVec 1280
  deriving DecidableEq, Repr

/-- The codes of a place (Table 03-6): the device code first in the DIMM tier, then the line code over the 136 symbols. -/
def decodeLine (dimm : Bool) (e : BitVec 1280) : Decoded :=
  if e = 0 then ⟨.clean, 0⟩
  else
    let r := if dimm then deviceLeaves e else e
    let n := ((List.range 136).filter (badByte r)).length
    if n ≤ 3 then ⟨.corrected, 0⟩
    else if n = 4 then ⟨.uncorrectable, r⟩
    else match Config.lineBeyond r with
      | none => ⟨.uncorrectable, r⟩
      | some x => ⟨.corrected, x⟩

/-- A line with an error pattern left in what is stored of it. -/
def Decoded.apply (d : Decoded) (data : LineData) (m : LineMeta) : LineData × LineMeta :=
  if d.left = 0 then (data, m)
  else
    let low := m.low ^^^ d.left.extractLsb' 1024 8
    (Config.decipher m.crypt.1 m.crypt.2 (m.cipher data ^^^ d.left.setWidth 1024), { m with poison := low.getLsbD 0, keygen := low.getLsbD 1, hint := low.extractLsb' 2 2 == 1 })

end Sys2Proof.Machine
end

