-- ==== Sys2Proof/Machine/Flags.lean ====
section
/-! DEFINITION. Number formats, exact dyadic arithmetic, rounding, the settling of values a destination cannot hold
(Table 06-9) and the sticky flags they set (R130 to R143). -/

namespace Sys2Proof.Machine

/-- A latched format descriptor (Table 06-7). -/
structure Fmt where
  cls : Nat := 0
  width : Nat := 32
  exp : Nat := 8
  man : Nat := 23
  bias : Nat := 127
  specials : Nat := 0
  sat : Bool := false
  ftz : Bool := false
  round : Nat := 0
  elem : Nat := 0
  block : Nat := 0
  scaleMode : Bool := false
  srBits : Nat := 8
  valid : Bool := true
  deriving DecidableEq, Repr

/-- binary32 (Table 06-5). -/
def Fmt.b32 : Fmt := {}

/-- The descriptor that 128 register bits hold (Table 06-7); WIDTH 0 outside MX stands for 32 bits (Table 06-5). -/
def Fmt.ofReg (v : BitVec 128) : Fmt :=
  let f (lo w : Nat) : Nat := v.toNat / 2 ^ lo % 2 ^ w
  { cls := f 0 4, valid := f 4 1 == 1, width := if f 8 5 = 0 && f 0 4 ≠ 2 then 32 else f 8 5, exp := f 16 4,
    man := f 20 5, bias := f 32 8, specials := f 40 2, sat := f 42 1 == 1, ftz := f 43 1 == 1, round := f 44 3,
    elem := f 48 6, block := f 56 7, scaleMode := f 63 1 == 1, srBits := f 64 5 }

/-- Sticky flags (R142): INVALID, OVERFLOW, UNDERFLOW, SATURATED as bits 0 to 3. -/
abbrev Flags := BitVec 4

def fInvalid : Flags := 1
def fOverflow : Flags := 2
def fUnderflow : Flags := 4
def fSaturated : Flags := 8

/-- A number a format can name: NaN, an infinity, or a signed dyadic m × 2^e. -/
inductive Num where
  | nan
  | inf (neg : Bool)
  | fin (neg : Bool) (m : Nat) (e : Int)
  deriving DecidableEq, Repr

/-- The value of an encoding of a floating format (Table 06-5) or of a two's complement integer. -/
def Fmt.decode (f : Fmt) (x : Nat) : Num :=
  if f.cls = 1 then
    let v := x % 2 ^ f.width
    if v < 2 ^ (f.width - 1) then .fin false v 0 else .fin true (2 ^ f.width - v) 0
  else
    let neg := x / 2 ^ (f.exp + f.man) % 2 == 1
    let ex := x / 2 ^ f.man % 2 ^ f.exp
    let fr := x % 2 ^ f.man
    if f.specials = 0 && ex = 2 ^ f.exp - 1 then (if fr = 0 then .inf neg else .nan)
    else if f.specials = 1 && ex = 2 ^ f.exp - 1 && fr = 2 ^ f.man - 1 then .nan
    else if ex = 0 then .fin neg fr (1 - (f.bias : Int) - f.man)
    else .fin neg (2 ^ f.man + fr) ((ex : Int) - f.bias - f.man)

/-- The canonical NaN of a format (R131); +0 in a format without one (Table 06-9). A user format continues the listed ones: DEDUCED, log 71.
With MAN = 0 and SPECIALS 00 no code is left for a NaN: a free value, log 71. -/
def Fmt.nanBits (f : Fmt) : Nat :=
  if f.cls = 1 then 0
  else if f.specials = 0 then
    if f.man = 0 then Config.noNan f.width % 2 ^ f.width else (2 ^ f.exp - 1) * 2 ^ f.man + 2 ^ (f.man - 1)
  else if f.specials = 1 then 2 ^ (f.exp + f.man) - 1
  else 0

def Fmt.infBits (f : Fmt) (neg : Bool) : Nat := neg.toNat * 2 ^ (f.exp + f.man) + (2 ^ f.exp - 1) * 2 ^ f.man

/-- Magnitude bits of the largest finite value. -/
def Fmt.maxField (f : Fmt) : Nat :=
  if f.specials = 0 then (2 ^ f.exp - 1) * 2 ^ f.man - 1
  else if f.specials = 1 then 2 ^ (f.exp + f.man) - 2
  else 2 ^ (f.exp + f.man) - 1

def Fmt.maxBits (f : Fmt) (neg : Bool) : Nat := neg.toNat * 2 ^ (f.exp + f.man) + f.maxField

/-- Magnitude × 2^e moved to exponent e' ≤ e. -/
def alignTo (m : Nat) (e e' : Int) : Nat := m * 2 ^ (e - e').toNat

/-- Order of two magnitudes. -/
def magLt (m : Nat) (e : Int) (m' : Nat) (e' : Int) : Bool :=
  let b := min e e'
  decide (alignTo m e b < alignTo m' e' b)

/-- Exact product (R139). -/
def Num.mul : Num → Num → Num
  | .nan, _ => .nan
  | _, .nan => .nan
  | .inf a, .inf b => .inf (a != b)
  | .inf a, .fin b m _ => if m = 0 then .nan else .inf (a != b)
  | .fin a m _, .inf b => if m = 0 then .nan else .inf (a != b)
  | .fin a m e, .fin b m' e' => .fin (a != b) (m * m') (e + e')

/-- Exact sum; an exact zero of unlike signs is +0, or −0 when rounding down (IEEE 754). -/
def Num.add (down : Bool) : Num → Num → Num
  | .nan, _ => .nan
  | _, .nan => .nan
  | .inf a, .inf b => if a = b then .inf a else .nan
  | .inf a, .fin _ _ _ => .inf a
  | .fin _ _ _, .inf b => .inf b
  | .fin a m e, .fin b m' e' =>
    let c := min e e'
    let x := alignTo m e c
    let y := alignTo m' e' c
    if a = b then .fin a (x + y) c
    else if x = y then .fin down 0 c
    else if y < x then .fin a (x - y) c
    else .fin b (y - x) c

def Num.neg : Num → Num
  | .nan => .nan
  | .inf a => .inf (!a)
  | .fin a m e => .fin (!a) m e

/-- Multiply by a power of two. -/
def Num.scale (k : Int) : Num → Num
  | .fin a m e => .fin a m (e + k)
  | n => n

def Num.isZero : Num → Bool
  | .fin _ m _ => m == 0
  | _ => false

/-- x < y for numbers that are not NaN. -/
def Num.lt : Num → Num → Bool
  | .nan, _ => false
  | _, .nan => false
  | .inf a, .inf b => a && !b
  | .inf a, .fin _ _ _ => a
  | .fin _ _ _, .inf b => !b
  | .fin a m e, .fin b m' e' =>
    if m = 0 && m' = 0 then false
    else if m = 0 then !b
    else if m' = 0 then a
    else match a, b with
      | true, false => true
      | false, true => false
      | false, false => magLt m e m' e'
      | true, true => magLt m' e' m e

/-- Exact square root or quotient to n fraction bits is not dyadic in general; a truncated dyadic and a sticky bit round as
the exact value does. Quotient m / m' with n extra bits. -/
def divSticky (m : Nat) (e : Int) (m' : Nat) (e' : Int) (n : Nat) : Nat × Int :=
  let x := m * 2 ^ (n + m'.log2 + 1)
  let q := x / m'
  (2 * q + (if x % m' = 0 then 0 else 1), e - e' - ((n + m'.log2 + 1 : Nat) : Int) - 1)

/-- Integer square root, bit by bit from bit n − 1. -/
def isqrtFrom (x : Nat) : Nat → Nat → Nat
  | 0, r => r
  | n + 1, r => isqrtFrom x n (if (r + 2 ^ n) * (r + 2 ^ n) ≤ x then r + 2 ^ n else r)

/-- Square root of m × 2^e with n extra bits and a sticky bit. -/
def sqrtSticky (m : Nat) (e : Int) (n : Nat) : Nat × Int :=
  let odd := e % 2 = 1
  let m1 := if odd then 2 * m else m
  let e1 := if odd then e - 1 else e
  let x := m1 * 2 ^ (2 * n)
  let r := isqrtFrom x (x.log2 / 2 + 1) 0
  (2 * r + (if r * r = x then 0 else 1), e1 / 2 - (n : Int) - 1)

/-- Integer part and round-up decision of m × 2^e at quantum 2^q, by a rounding mode (Table 06-8); `r` is the random
integer of STOCH with `sr` bits (R138). -/
def roundAt (neg : Bool) (m : Nat) (e q : Int) (mode sr r : Nat) : Nat × Bool :=
  if q ≤ e then (alignTo m e q, false)
  else
    let sh := (q - e).toNat
    let k := m / 2 ^ sh
    let rem := m % 2 ^ sh
    if rem = 0 then (k, false)
    else
      let up :=
        match mode with
        | 1 => false
        | 2 => neg
        | 3 => !neg
        | 4 => decide (2 ^ sr ≤ rem * 2 ^ sr / 2 ^ sh + r % 2 ^ sr)
        | _ => decide (2 ^ sh < 2 * rem) || (decide (2 * rem = 2 ^ sh) && k % 2 == 1)
      (if up then k + 1 else k, true)

/-- How a destination settles what it cannot hold: by Table 06-9, or by IEEE 754 overflow (R139). -/
inductive Settle where
  | table (sat : Bool)
  | ieee
  deriving DecidableEq, Repr

/-- Overflow of a finite value. -/
def Fmt.overflow (f : Fmt) (how : Settle) (neg : Bool) (mode : Nat) : Nat × Flags :=
  match how with
  | .ieee =>
    if mode = 1 || (mode = 2 && !neg) || (mode = 3 && neg) then (f.maxBits neg, fOverflow)
    else if f.specials = 0 then (f.infBits neg, fOverflow) else (f.maxBits neg, fOverflow ||| fSaturated)
  | .table sat =>
    if sat || f.specials ≥ 2 then (f.maxBits neg, fOverflow ||| fSaturated)
    else if f.specials = 0 then (f.infBits neg, fOverflow)
    else (f.nanBits, fOverflow)

/-- Whether a value below the least normal one counts as tiny: IEEE 754 lets an implementation judge it before rounding, or after
rounding with an unbounded exponent (R139, Table 06-9; log 17). -/
def Fmt.tiny (f : Fmt) (mode r : Nat) (neg : Bool) (m : Nat) (e top : Int) : Bool :=
  let emin : Int := 1 - (f.bias : Int)
  decide (top < emin) && (decide (top + 1 < emin) || !Config.tinyAfterRounding
    || decide ((roundAt neg m e (top - f.man) mode f.srBits r).1 < 2 ^ (f.man + 1)))

/-- Round a finite value into a floating format. -/
def Fmt.encodeFin (f : Fmt) (how : Settle) (mode r : Nat) (neg : Bool) (m : Nat) (e : Int) : Nat × Flags :=
  let sign := neg.toNat * 2 ^ (f.exp + f.man)
  if m = 0 then (sign, 0)
  else
    let emin : Int := 1 - (f.bias : Int)
    let top : Int := (m.log2 : Int) + e
    let q := max (top - f.man) (emin - f.man)
    let (k, inexact) := roundAt neg m e q mode f.srBits r
    let k' := if k = 2 ^ (f.man + 1) then 2 ^ f.man else k
    let q' := if k = 2 ^ (f.man + 1) then q + 1 else q
    let field : Int :=
      if k' < 2 ^ f.man then (k' : Int)
      else (q' + f.man + f.bias) * 2 ^ f.man + ((k' : Int) - 2 ^ f.man)
    let under : Flags := if inexact && f.tiny mode r neg m e top then fUnderflow else 0
    if field > f.maxField then f.overflow how neg mode
    else if f.ftz && decide (0 < k') && decide (k' < 2 ^ f.man) then (sign, fUnderflow)
    else (sign + field.toNat, under)

/-- Round a number into an integer format, saturating (Table 06-9). -/
def Fmt.encodeInt (f : Fmt) (mode r : Nat) : Num → Nat × Flags
  | .nan => (0, fInvalid)
  | .inf neg => (if neg then 2 ^ (f.width - 1) else 2 ^ (f.width - 1) - 1, fInvalid)
  | .fin neg m e =>
    let (k, _) := roundAt neg m e 0 mode f.srBits r
    if neg then
      if 2 ^ (f.width - 1) < k then (2 ^ (f.width - 1), fSaturated) else ((2 ^ f.width - k) % 2 ^ f.width, 0)
    else if 2 ^ (f.width - 1) ≤ k then (2 ^ (f.width - 1) - 1, fSaturated) else (k, 0)

/-- Round a number into a format (R137, R140). -/
def Fmt.encode (f : Fmt) (how : Settle) (mode r : Nat) (n : Num) : Nat × Flags :=
  let mode := if mode = 7 then f.round else mode
  if f.cls = 1 then f.encodeInt mode r n
  else match n with
    | .nan => (f.nanBits, if f.specials ≥ 2 then fInvalid else 0)
    | .inf neg =>
      match how with
      | .ieee => if f.specials = 0 then (f.infBits neg, 0) else (f.maxBits neg, fInvalid)
      | .table sat =>
        if f.specials = 0 then (if sat then (f.maxBits neg, 0) else (f.infBits neg, 0))
        else if f.specials = 1 then (if sat then (f.maxBits neg, fInvalid) else (f.nanBits, fInvalid))
        else (f.maxBits neg, fInvalid)
    | .fin neg m e => f.encodeFin how mode r neg m e

/-- A NaN that an operation makes from operands that are not NaN sets INVALID (R139). -/
def madeNan (ops : List Num) (res : Num) : Flags :=
  if res = .nan && !ops.contains .nan then fInvalid else 0

/-- a × b + c in one format, rounded once (R139). -/
def Fmt.fma (f : Fmt) (mode r a b c : Nat) : Nat × Flags :=
  let mode := if mode = 7 then f.round else mode
  let x := f.decode a
  let y := f.decode b
  let z := f.decode c
  let n := (x.mul y).add (mode == 2) z
  let (v, fl) := f.encode .ieee mode r n
  (v, fl ||| madeNan [x, y, z] n)

/-- a + b in binary32 with RNE (R238, R143). -/
def fadd32 (a b : Nat) : Nat × Flags :=
  let n := (Fmt.b32.decode a).add false (Fmt.b32.decode b)
  let (v, fl) := Fmt.b32.encode .ieee 0 0 n
  (v, fl ||| madeNan [Fmt.b32.decode a, Fmt.b32.decode b] n)

/-- Two's complement sum of INT32, saturating (R139, R143). -/
def iadd32 (a b : Nat) : Nat × Flags :=
  let n := (({ cls := 1, width := 32 } : Fmt).decode a).add false (({ cls := 1, width := 32 } : Fmt).decode b)
  ({ cls := 1, width := 32 } : Fmt).encodeInt 0 0 n

/-- One generator step: feedback polynomial x^32 + x^22 + x^2 + x + 1 (R138), bit 31 leaving. -/
def lfsrStep (g : BitVec 32) : BitVec 32 :=
  let b := (g.getLsbD 31) ^^ (g.getLsbD 21) ^^ (g.getLsbD 1) ^^ (g.getLsbD 0)
  (g <<< 1) ||| (if b then 1 else 0)

/-- A generator advanced n steps. -/
def lfsr : Nat → BitVec 32 → BitVec 32
  | 0, g => g
  | n + 1, g => lfsr n (lfsrStep g)

/-- The random integer for one element, and the generator after it (R138). -/
def srNext (bits : Nat) (g : BitVec 32) : Nat × BitVec 32 := (Config.srDraw g bits, lfsr bits g)

/-- e_max of R141: exponent of a floating format's largest normal; 0 for the integer element. -/
def Fmt.emax (f : Fmt) : Int :=
  if f.cls = 1 then 0
  else
    let x := f.maxField / 2 ^ f.man
    (x : Int) - f.bias

/-- An element format as the factor of an MX block: an integer element counts × 2^−6 (R132). -/
def Fmt.decodeElem (f : Fmt) (x : Nat) : Num :=
  if f.cls = 1 then (f.decode x).scale (-6) else f.decode x

/-- The largest finite magnitude of an element format, as m and e. -/
def Fmt.largest (f : Fmt) : Nat × Int :=
  if f.cls = 1 then (2 ^ (f.width - 1) - 1, -6)
  else match f.decode f.maxField with
    | .fin _ m e => (m, e)
    | _ => (1, 0)

/-- Magnitude of a number that is not special. -/
def Num.mag : Num → Nat × Int
  | .fin _ m e => (m, e)
  | _ => (0, 0)

/-- Smallest k with m / 2^k within the largest finite value (SCALE_MODE 1, R141), searched upward from a low bound. -/
def smallestScale (m : Nat) (e : Int) (lm : Nat) (le : Int) : Nat → Int → Int
  | 0, k => k
  | n + 1, k => if magLt lm (le + k) m e then smallestScale m e lm le n (k + 1) else k

/-- The shared scale byte of an MX block and its flags (R141). -/
def mxScale (f elem : Fmt) (xs : List Num) : Nat × Flags :=
  if xs.any (fun n => match n with | .fin _ _ _ => false | _ => true) then (0xFF, fInvalid)
  else
    let top := xs.foldl (fun (a : Nat × Int) n => if magLt a.1 a.2 n.mag.1 n.mag.2 then n.mag else a) (0, 0)
    if top.1 = 0 then (0, 0)
    else
      let lg : Int := (top.1.log2 : Int) + top.2
      let k := if f.scaleMode then
          let l := elem.largest
          let lo := lg - ((l.1.log2 : Int) + l.2) - 2
          smallestScale top.1 top.2 l.1 l.2 8 lo
        else lg - elem.emax
      if k < -127 then (0, 0)
      else if 127 < k then (254, fSaturated)
      else ((k + 127).toNat, 0)

/-- The value of an E8M0 scale byte as an exponent offset; none for NaN (Table 06-5). -/
def scaleExp (b : Nat) : Option Int := if b % 256 = 255 then none else some ((b % 256 : Nat) - 127 : Int)

end Sys2Proof.Machine
end

