-- ==== Sys2Proof/Machine/RegMap.lean ====
section
/-! DEFINITION. The register map of the node: every register of Table 18-9 and Table 19-7 with its die
offset, its window (Table 18-3), its size and its fields (access, reset, range). Values of registers live in
the store of State under `Reg.key`. The field rows follow Tables 02-2 to 19-10 of spec/. -/

namespace Sys2Proof.Machine

/-- Every register of the node (Table 18-9, Table 19-7), under the manual's name. -/
inductive Reg where
  | topNodeId
  | topDevice
  | mgtViol
  | mgtViolSrc
  | mgtTrust
  | mgtEvqBase
  | mgtEvqCfg
  | mgtEvqPtr
  | mgtEvqDrop
  | rotStatus
  | rotMboxCmd
  | rotMboxStatus
  | rotMboxData
  | secCtrl
  | secPartCmd
  | secKeyCmd
  | secKeyResult
  | secPartStatus
  | secKeyStatus
  | secCoreMap
  | secPortMap
  | secFn
  | secLinkKey
  | secLinkStat
  | pciCtrl
  | pciStatus
  | lanCtrl
  | lanStatus
  | lanEq
  | lanFec
  | lanTest
  | lanEye
  | lnkCtrl
  | lnkAckTimeout
  | lnkTimers
  | lnkStatus
  | lnkSeq
  | lnkErr
  | lnkEvents
  | lnkCrdSize
  | rteCtrl
  | rteBank
  | rteLost
  | rtePort
  | rteInflight
  | rteDrop
  | rteFence
  | rteRoute
  | homExtCmd
  | homExtAttr
  | homExtStatus
  | homExtRights
  | homMigCtrl
  | homMigReserve
  | homMigStatus
  | homMigCmd
  | homHotqPtr
  | homHotqDrop
  | homGrpMatch
  | homHotqEntry
  | dirCtrl
  | dirStatus
  | dirEcc
  | dirRetry
  | dirSlot
  | txnCtrl
  | txnKill
  | txnStatus
  | txnCount
  | txnAbortCnt
  | mscCtrl
  | stkCtrl
  | stkStatus
  | stkEcc
  | dmcCtrl
  | dmcStatus
  | dmcEcc
  | ptuCtrl
  | ptuStatus
  | ptuStat
  | ptuAs
  | xfrCtrl
  | xfrQcmd
  | xfrStatus
  | xfrStat
  | xfrQcfg
  | xfrQring
  | xfrQcpl
  | xfrRinger
  | xfrQptr
  | cluSeqSrc
  | cluSeqCmd
  | cluSeqStatus
  | cluSave
  | cluQcfg
  | cluQring
  | cluQcpl
  | cluQptr
  | corStatus
  | corPfCtrl
  | corScratchEcc
  | engFlags
  | engRfErr
  | engFmt
  | colCtrl
  | colKill
  | colPlanCmd
  | colPlanSrc
  | colPlanStatus
  | colStat
  | colPstat
  | colPortRsv
  | qosCtrl
  | qosBarkQ
  | qosBarkU
  | qosLeash
  | qosLstat
  | qosCatch
  | qosBarkCnt
  | qosHist
  | rasCtrl
  | rasCmd
  | rasStatus
  | rasHistIdx
  | rasHistData
  | rasVerdict
  | rasCore
  | cfgCurtain
  | cfgLoad
  | cfgRangeErr
  | cfgCrcRef
  | cfgCrcLive
  | cfgCrcStatus
  | pwrCtrl
  | pwrCap
  | pwrCmd
  | pwrStatus
  | pwrTemp
  | pwrRail
  | clkStatus
  | staCtrl
  | staPeriod
  deriving DecidableEq, Repr

/-- Access codes of Table 00-3, the SEC qualifier apart. -/
inductive Acc where
  | rw | ro | w1c | wo | ros | rws
  deriving DecidableEq, Repr

/-- One field of a register: position, access, SEC, reset value, range (R7), the encoding a range excludes,
whether 0 is allowed beside the range ("0 disables"), a wings copy (Table 17-7), and "from image" (R360). -/
structure Field where
  lo : Nat
  width : Nat
  acc : Acc
  sec : Bool := false
  reset : Nat := 0
  min : Nat := 0
  max : Option Nat := none
  zeroOk : Bool := false
  excl : Option Nat := none
  wings : Bool := false
  image : Bool := false
  deriving DecidableEq, Repr

/-- A named field, for meanings that read or write one field of a register. -/
structure Fld where
  reg : Reg
  lo : Nat
  width : Nat
  deriving DecidableEq, Repr

/-- Window codes of Table 18-3. -/
inductive Window where
  | copied | zero | perDie | unit
  deriving DecidableEq, Repr

/-- One index of a register's offset: lowest value, count, byte stride, and its weight in the instance number. -/
structure Dim where
  first : Nat
  count : Nat
  stride : Nat
  weight : Nat
  deriving DecidableEq, Repr

/-- Where a register lies: die offset of instance 0, its indices, its size in bytes, its window. For a register with one
instance per die, `perDie` is the instance weight of the die number. -/
structure Place where
  base : Nat
  dims : List Dim
  bytes : Nat
  window : Window
  dieWeight : Nat := 0
  deriving DecidableEq, Repr

/-- The number under which a register's instances are kept in the store. -/
def Reg.code : Reg → Nat
  | .topNodeId => 0
  | .topDevice => 1
  | .mgtViol => 2
  | .mgtViolSrc => 3
  | .mgtTrust => 4
  | .mgtEvqBase => 5
  | .mgtEvqCfg => 6
  | .mgtEvqPtr => 7
  | .mgtEvqDrop => 8
  | .rotStatus => 9
  | .rotMboxCmd => 10
  | .rotMboxStatus => 11
  | .rotMboxData => 12
  | .secCtrl => 13
  | .secPartCmd => 14
  | .secKeyCmd => 15
  | .secKeyResult => 16
  | .secPartStatus => 17
  | .secKeyStatus => 18
  | .secCoreMap => 19
  | .secPortMap => 20
  | .secFn => 21
  | .secLinkKey => 22
  | .secLinkStat => 23
  | .pciCtrl => 24
  | .pciStatus => 25
  | .lanCtrl => 26
  | .lanStatus => 27
  | .lanEq => 28
  | .lanFec => 29
  | .lanTest => 30
  | .lanEye => 31
  | .lnkCtrl => 32
  | .lnkAckTimeout => 33
  | .lnkTimers => 34
  | .lnkStatus => 35
  | .lnkSeq => 36
  | .lnkErr => 37
  | .lnkEvents => 38
  | .lnkCrdSize => 39
  | .rteCtrl => 40
  | .rteBank => 41
  | .rteLost => 42
  | .rtePort => 43
  | .rteInflight => 44
  | .rteDrop => 45
  | .rteFence => 46
  | .rteRoute => 47
  | .homExtCmd => 48
  | .homExtAttr => 49
  | .homExtStatus => 50
  | .homExtRights => 51
  | .homMigCtrl => 52
  | .homMigReserve => 53
  | .homMigStatus => 54
  | .homMigCmd => 55
  | .homHotqPtr => 56
  | .homHotqDrop => 57
  | .homGrpMatch => 58
  | .homHotqEntry => 59
  | .dirCtrl => 60
  | .dirStatus => 61
  | .dirEcc => 62
  | .dirRetry => 63
  | .dirSlot => 64
  | .txnCtrl => 65
  | .txnKill => 66
  | .txnStatus => 67
  | .txnCount => 68
  | .txnAbortCnt => 69
  | .mscCtrl => 70
  | .stkCtrl => 71
  | .stkStatus => 72
  | .stkEcc => 73
  | .dmcCtrl => 74
  | .dmcStatus => 75
  | .dmcEcc => 76
  | .ptuCtrl => 77
  | .ptuStatus => 78
  | .ptuStat => 79
  | .ptuAs => 80
  | .xfrCtrl => 81
  | .xfrQcmd => 82
  | .xfrStatus => 83
  | .xfrStat => 84
  | .xfrQcfg => 85
  | .xfrQring => 86
  | .xfrQcpl => 87
  | .xfrRinger => 88
  | .xfrQptr => 89
  | .cluSeqSrc => 90
  | .cluSeqCmd => 91
  | .cluSeqStatus => 92
  | .cluSave => 93
  | .cluQcfg => 94
  | .cluQring => 95
  | .cluQcpl => 96
  | .cluQptr => 97
  | .corStatus => 98
  | .corPfCtrl => 99
  | .corScratchEcc => 100
  | .engFlags => 101
  | .engRfErr => 102
  | .engFmt => 103
  | .colCtrl => 104
  | .colKill => 105
  | .colPlanCmd => 106
  | .colPlanSrc => 107
  | .colPlanStatus => 108
  | .colStat => 109
  | .colPstat => 110
  | .colPortRsv => 111
  | .qosCtrl => 112
  | .qosBarkQ => 113
  | .qosBarkU => 114
  | .qosLeash => 115
  | .qosLstat => 116
  | .qosCatch => 117
  | .qosBarkCnt => 118
  | .qosHist => 119
  | .rasCtrl => 120
  | .rasCmd => 121
  | .rasStatus => 122
  | .rasHistIdx => 123
  | .rasHistData => 124
  | .rasVerdict => 125
  | .rasCore => 126
  | .cfgCurtain => 127
  | .cfgLoad => 128
  | .cfgRangeErr => 129
  | .cfgCrcRef => 130
  | .cfgCrcLive => 131
  | .cfgCrcStatus => 132
  | .pwrCtrl => 133
  | .pwrCap => 134
  | .pwrCmd => 135
  | .pwrStatus => 136
  | .pwrTemp => 137
  | .pwrRail => 138
  | .clkStatus => 139
  | .staCtrl => 140
  | .staPeriod => 141

/-- Every register, in the order of Table 18-9. -/
def Reg.all : List Reg :=
  [.topNodeId, .topDevice, .mgtViol, .mgtViolSrc, .mgtTrust, .mgtEvqBase, .mgtEvqCfg, .mgtEvqPtr, .mgtEvqDrop, .rotStatus, .rotMboxCmd, .rotMboxStatus, .rotMboxData, .secCtrl, .secPartCmd, .secKeyCmd, .secKeyResult, .secPartStatus, .secKeyStatus, .secCoreMap, .secPortMap, .secFn, .secLinkKey, .secLinkStat, .pciCtrl] ++
  [.pciStatus, .lanCtrl, .lanStatus, .lanEq, .lanFec, .lanTest, .lanEye, .lnkCtrl, .lnkAckTimeout, .lnkTimers, .lnkStatus, .lnkSeq, .lnkErr, .lnkEvents, .lnkCrdSize, .rteCtrl, .rteBank, .rteLost, .rtePort, .rteInflight, .rteDrop, .rteFence, .rteRoute, .homExtCmd, .homExtAttr] ++
  [.homExtStatus, .homExtRights, .homMigCtrl, .homMigReserve, .homMigStatus, .homMigCmd, .homHotqPtr, .homHotqDrop, .homGrpMatch, .homHotqEntry, .dirCtrl, .dirStatus, .dirEcc, .dirRetry, .dirSlot, .txnCtrl, .txnKill, .txnStatus, .txnCount, .txnAbortCnt, .mscCtrl, .stkCtrl, .stkStatus, .stkEcc, .dmcCtrl] ++
  [.dmcStatus, .dmcEcc, .ptuCtrl, .ptuStatus, .ptuStat, .ptuAs, .xfrCtrl, .xfrQcmd, .xfrStatus, .xfrStat, .xfrQcfg, .xfrQring, .xfrQcpl, .xfrRinger, .xfrQptr, .cluSeqSrc, .cluSeqCmd, .cluSeqStatus, .cluSave, .cluQcfg, .cluQring, .cluQcpl, .cluQptr, .corStatus, .corPfCtrl] ++
  [.corScratchEcc, .engFlags, .engRfErr, .engFmt, .colCtrl, .colKill, .colPlanCmd, .colPlanSrc, .colPlanStatus, .colStat, .colPstat, .colPortRsv, .qosCtrl, .qosBarkQ, .qosBarkU, .qosLeash, .qosLstat, .qosCatch, .qosBarkCnt, .qosHist, .rasCtrl, .rasCmd, .rasStatus, .rasHistIdx, .rasHistData] ++
  [.rasVerdict, .rasCore, .cfgCurtain, .cfgLoad, .cfgRangeErr, .cfgCrcRef, .cfgCrcLive, .cfgCrcStatus, .pwrCtrl, .pwrCap, .pwrCmd, .pwrStatus, .pwrTemp, .pwrRail, .clkStatus, .staCtrl, .staPeriod]

/-- Key of instance i of a register in the store (at most 16,384 instances: the hot-page records). -/
def Reg.key (r : Reg) (i : Nat) : Nat := r.code * 32768 + i % 32768

/-- Table 18-9 and Table 19-7: the place of each register. -/
def Reg.place : Reg → Place
  | .topNodeId => ⟨0x0, [], 4, .copied, 0⟩
  | .topDevice => ⟨0x4, [], 4, .perDie, 1⟩
  | .mgtViol => ⟨0x100000, [], 8, .zero, 0⟩
  | .mgtViolSrc => ⟨0x100008, [], 4, .zero, 0⟩
  | .mgtTrust => ⟨0x100100, [⟨0,8,8,1⟩], 8, .zero, 0⟩
  | .mgtEvqBase => ⟨0x101000, [⟨0,17,16,1⟩], 8, .zero, 0⟩
  | .mgtEvqCfg => ⟨0x101008, [⟨0,17,16,1⟩], 4, .zero, 0⟩
  | .mgtEvqPtr => ⟨0x10100C, [⟨0,17,16,1⟩], 4, .zero, 0⟩
  | .mgtEvqDrop => ⟨0x101200, [⟨0,17,4,1⟩], 4, .zero, 0⟩
  | .rotStatus => ⟨0x200000, [], 4, .zero, 0⟩
  | .rotMboxCmd => ⟨0x200004, [], 4, .zero, 0⟩
  | .rotMboxStatus => ⟨0x200008, [], 4, .zero, 0⟩
  | .rotMboxData => ⟨0x201000, [⟨0,1024,4,1⟩], 4, .zero, 0⟩
  | .secCtrl => ⟨0x300000, [], 4, .copied, 0⟩
  | .secPartCmd => ⟨0x300004, [], 4, .copied, 0⟩
  | .secKeyCmd => ⟨0x300008, [], 4, .copied, 0⟩
  | .secKeyResult => ⟨0x30000C, [], 4, .zero, 0⟩
  | .secPartStatus => ⟨0x300100, [⟨0,16,8,1⟩], 8, .zero, 0⟩
  | .secKeyStatus => ⟨0x300400, [⟨0,256,4,1⟩], 4, .zero, 0⟩
  | .secCoreMap => ⟨0x300800, [⟨0,16,8,1⟩], 8, .unit, 0⟩
  | .secPortMap => ⟨0x300900, [⟨0,64,4,1⟩], 4, .unit, 0⟩
  | .secFn => ⟨0x300A00, [⟨0,2,64,16⟩, ⟨1,15,4,1⟩], 4, .unit, 0⟩
  | .secLinkKey => ⟨0x301000, [⟨0,64,32,8⟩, ⟨0,8,4,1⟩], 4, .unit, 0⟩
  | .secLinkStat => ⟨0x301800, [⟨0,64,4,1⟩], 4, .unit, 0⟩
  | .pciCtrl => ⟨0x400000, [⟨0,2,256,1⟩], 4, .unit, 0⟩
  | .pciStatus => ⟨0x400008, [⟨0,2,256,1⟩], 8, .unit, 0⟩
  | .lanCtrl => ⟨0x500000, [⟨0,64,1024,1⟩], 8, .unit, 0⟩
  | .lanStatus => ⟨0x500008, [⟨0,64,1024,1⟩], 8, .unit, 0⟩
  | .lanEq => ⟨0x500040, [⟨0,64,1024,8⟩, ⟨0,8,4,1⟩], 4, .unit, 0⟩
  | .lanFec => ⟨0x500080, [⟨0,64,1024,8⟩, ⟨0,8,8,1⟩], 8, .unit, 0⟩
  | .lanTest => ⟨0x5000C0, [⟨0,64,1024,8⟩, ⟨0,8,8,1⟩], 8, .unit, 0⟩
  | .lanEye => ⟨0x500100, [⟨0,64,1024,8⟩, ⟨0,8,8,1⟩], 8, .unit, 0⟩
  | .lnkCtrl => ⟨0x600000, [⟨0,64,256,1⟩], 4, .unit, 0⟩
  | .lnkAckTimeout => ⟨0x600004, [⟨0,64,256,1⟩], 4, .unit, 0⟩
  | .lnkTimers => ⟨0x600008, [⟨0,64,256,1⟩], 8, .unit, 0⟩
  | .lnkStatus => ⟨0x600010, [⟨0,64,256,1⟩], 8, .unit, 0⟩
  | .lnkSeq => ⟨0x600018, [⟨0,64,256,1⟩], 8, .unit, 0⟩
  | .lnkErr => ⟨0x600020, [⟨0,64,256,1⟩], 8, .unit, 0⟩
  | .lnkEvents => ⟨0x600028, [⟨0,64,256,1⟩], 8, .unit, 0⟩
  | .lnkCrdSize => ⟨0x600040, [⟨0,64,256,8⟩, ⟨0,5,8,1⟩], 8, .unit, 0⟩
  | .rteCtrl => ⟨0x700000, [], 4, .copied, 0⟩
  | .rteBank => ⟨0x700004, [], 4, .copied, 0⟩
  | .rteLost => ⟨0x700200, [⟨0,128,4,1⟩], 4, .copied, 0⟩
  | .rtePort => ⟨0x700400, [⟨0,64,4,1⟩], 4, .unit, 0⟩
  | .rteInflight => ⟨0x700800, [], 8, .perDie, 1⟩
  | .rteDrop => ⟨0x700808, [], 8, .perDie, 1⟩
  | .rteFence => ⟨0x700810, [], 8, .perDie, 1⟩
  | .rteRoute => ⟨0x708000, [⟨0,2,16384,4096⟩, ⟨0,4096,4,1⟩], 4, .copied, 0⟩
  | .homExtCmd => ⟨0x800000, [], 8, .zero, 0⟩
  | .homExtAttr => ⟨0x800008, [], 4, .zero, 0⟩
  | .homExtStatus => ⟨0x80000C, [], 4, .zero, 0⟩
  | .homExtRights => ⟨0x800080, [⟨0,32,4,1⟩], 4, .zero, 0⟩
  | .homMigCtrl => ⟨0x800100, [], 8, .copied, 0⟩
  | .homMigReserve => ⟨0x800108, [], 4, .perDie, 1⟩
  | .homMigStatus => ⟨0x80010C, [], 4, .perDie, 1⟩
  | .homMigCmd => ⟨0x800110, [], 8, .perDie, 1⟩
  | .homHotqPtr => ⟨0x800120, [], 4, .perDie, 1⟩
  | .homHotqDrop => ⟨0x800124, [], 4, .perDie, 1⟩
  | .homGrpMatch => ⟨0x802000, [⟨0,1024,8,1⟩], 8, .copied, 0⟩
  | .homHotqEntry => ⟨0x810000, [⟨0,4096,16,1⟩], 16, .perDie, 4096⟩
  | .dirCtrl => ⟨0x900000, [], 4, .copied, 0⟩
  | .dirStatus => ⟨0x900004, [], 4, .perDie, 1⟩
  | .dirEcc => ⟨0x900008, [], 8, .perDie, 1⟩
  | .dirRetry => ⟨0x900010, [], 8, .perDie, 1⟩
  | .dirSlot => ⟨0x900200, [⟨0,128,4,1⟩], 4, .copied, 0⟩
  | .txnCtrl => ⟨0xA00000, [], 4, .copied, 0⟩
  | .txnKill => ⟨0xA00004, [], 4, .copied, 0⟩
  | .txnStatus => ⟨0xA00008, [], 4, .perDie, 1⟩
  | .txnCount => ⟨0xA00010, [], 8, .perDie, 1⟩
  | .txnAbortCnt => ⟨0xA00040, [⟨1,10,4,1⟩], 4, .perDie, 16⟩
  | .mscCtrl => ⟨0xB00000, [], 4, .perDie, 1⟩
  | .stkCtrl => ⟨0xC00000, [⟨0,20,32,1⟩], 4, .unit, 0⟩
  | .stkStatus => ⟨0xC00004, [⟨0,20,32,1⟩], 4, .unit, 0⟩
  | .stkEcc => ⟨0xC00008, [⟨0,20,32,1⟩], 8, .unit, 0⟩
  | .dmcCtrl => ⟨0xD00000, [⟨0,12,32,1⟩], 4, .unit, 0⟩
  | .dmcStatus => ⟨0xD00004, [⟨0,12,32,1⟩], 4, .unit, 0⟩
  | .dmcEcc => ⟨0xD00008, [⟨0,12,32,1⟩], 8, .unit, 0⟩
  | .ptuCtrl => ⟨0xE00000, [], 4, .copied, 0⟩
  | .ptuStatus => ⟨0xE00004, [], 4, .perDie, 1⟩
  | .ptuStat => ⟨0xE00008, [], 8, .perDie, 1⟩
  | .ptuAs => ⟨0xE02000, [⟨0,1024,8,1⟩], 8, .copied, 0⟩
  | .xfrCtrl => ⟨0xF00000, [], 4, .copied, 0⟩
  | .xfrQcmd => ⟨0xF00004, [], 4, .copied, 0⟩
  | .xfrStatus => ⟨0xF00100, [⟨0,32,4,1⟩], 4, .unit, 0⟩
  | .xfrStat => ⟨0xF00200, [⟨0,32,8,1⟩], 8, .unit, 0⟩
  | .xfrQcfg => ⟨0xF02000, [⟨0,128,64,1⟩], 8, .copied, 0⟩
  | .xfrQring => ⟨0xF02008, [⟨0,128,64,1⟩], 8, .copied, 0⟩
  | .xfrQcpl => ⟨0xF02010, [⟨0,128,64,1⟩], 8, .copied, 0⟩
  | .xfrRinger => ⟨0xF02018, [⟨0,128,64,1⟩], 8, .copied, 0⟩
  | .xfrQptr => ⟨0xF02020, [⟨0,128,64,1⟩], 8, .copied, 0⟩
  | .cluSeqSrc => ⟨0x1000000, [], 8, .zero, 0⟩
  | .cluSeqCmd => ⟨0x1000008, [], 4, .copied, 0⟩
  | .cluSeqStatus => ⟨0x1000010, [], 8, .zero, 0⟩
  | .cluSave => ⟨0x1000100, [⟨0,16,4,1⟩], 4, .copied, 0⟩
  | .cluQcfg => ⟨0x1001000, [⟨0,64,32,1⟩], 8, .copied, 0⟩
  | .cluQring => ⟨0x1001008, [⟨0,64,32,1⟩], 8, .copied, 0⟩
  | .cluQcpl => ⟨0x1001010, [⟨0,64,32,1⟩], 8, .copied, 0⟩
  | .cluQptr => ⟨0x1001018, [⟨0,64,32,1⟩], 8, .copied, 0⟩
  | .corStatus => ⟨0x1100000, [⟨0,144,64,1⟩], 4, .unit, 0⟩
  | .corPfCtrl => ⟨0x1100004, [⟨0,144,64,1⟩], 4, .unit, 0⟩
  | .corScratchEcc => ⟨0x1100008, [⟨0,144,64,1⟩], 8, .unit, 0⟩
  | .engFlags => ⟨0x1200000, [⟨0,144,64,1⟩], 4, .unit, 0⟩
  | .engRfErr => ⟨0x1200008, [⟨0,144,64,1⟩], 8, .unit, 0⟩
  | .engFmt => ⟨0x1210000, [⟨0,64,16,1⟩], 16, .copied, 0⟩
  | .colCtrl => ⟨0x1300000, [], 4, .copied, 0⟩
  | .colKill => ⟨0x1300004, [], 4, .copied, 0⟩
  | .colPlanCmd => ⟨0x1300008, [], 4, .zero, 0⟩
  | .colPlanSrc => ⟨0x1300010, [], 8, .zero, 0⟩
  | .colPlanStatus => ⟨0x1300200, [⟨0,64,8,1⟩], 8, .unit, 0⟩
  | .colStat => ⟨0x1300400, [⟨0,64,8,1⟩], 8, .unit, 0⟩
  | .colPstat => ⟨0x1300600, [⟨0,64,8,1⟩], 8, .unit, 0⟩
  | .colPortRsv => ⟨0x1300800, [⟨0,64,4,1⟩], 4, .unit, 0⟩
  | .qosCtrl => ⟨0x1400000, [], 4, .copied, 0⟩
  | .qosBarkQ => ⟨0x1400040, [⟨1,7,4,1⟩], 4, .copied, 0⟩
  | .qosBarkU => ⟨0x1400060, [⟨1,7,4,1⟩], 4, .copied, 0⟩
  | .qosLeash => ⟨0x1401000, [⟨0,256,8,1⟩], 8, .copied, 0⟩
  | .qosLstat => ⟨0x1401800, [⟨0,256,8,1⟩], 8, .zero, 0⟩
  | .qosCatch => ⟨0x1402000, [⟨0,64,8,1⟩], 8, .copied, 0⟩
  | .qosBarkCnt => ⟨0x1404000, [⟨0,64,32,8⟩, ⟨0,8,4,1⟩], 4, .unit, 0⟩
  | .qosHist => ⟨0x1408000, [⟨0,64,256,64⟩, ⟨0,4,64,16⟩, ⟨0,16,4,1⟩], 4, .unit, 0⟩
  | .rasCtrl => ⟨0x1500000, [], 8, .copied, 0⟩
  | .rasCmd => ⟨0x1500008, [], 4, .zero, 0⟩
  | .rasStatus => ⟨0x150000C, [], 4, .zero, 0⟩
  | .rasHistIdx => ⟨0x1500010, [], 4, .zero, 0⟩
  | .rasHistData => ⟨0x1500020, [⟨0,4,4,1⟩], 4, .zero, 0⟩
  | .rasVerdict => ⟨0x1500100, [⟨0,16,8,1⟩], 8, .zero, 0⟩
  | .rasCore => ⟨0x1501000, [⟨0,144,4,1⟩], 4, .unit, 0⟩
  | .cfgCurtain => ⟨0x1600000, [], 4, .zero, 0⟩
  | .cfgLoad => ⟨0x1600004, [], 4, .zero, 0⟩
  | .cfgRangeErr => ⟨0x1600008, [], 8, .zero, 0⟩
  | .cfgCrcRef => ⟨0x1600010, [], 4, .perDie, 1⟩
  | .cfgCrcLive => ⟨0x1600014, [], 4, .perDie, 1⟩
  | .cfgCrcStatus => ⟨0x1600018, [], 4, .perDie, 1⟩
  | .pwrCtrl => ⟨0x1700000, [], 8, .copied, 0⟩
  | .pwrCap => ⟨0x1700008, [], 8, .copied, 0⟩
  | .pwrCmd => ⟨0x1700010, [], 4, .zero, 0⟩
  | .pwrStatus => ⟨0x1700018, [], 8, .zero, 0⟩
  | .pwrTemp => ⟨0x1700020, [], 4, .perDie, 1⟩
  | .pwrRail => ⟨0x1700100, [⟨0,9,8,1⟩], 8, .perDie, 16⟩
  | .clkStatus => ⟨0x1800000, [], 4, .perDie, 1⟩
  | .staCtrl => ⟨0x1900000, [], 4, .copied, 0⟩
  | .staPeriod => ⟨0x1900004, [], 4, .copied, 0⟩

/-- The die of instance i of a register of window code u (Table 18-3, R12, R13). -/
def Reg.dieOf (r : Reg) (i : Nat) : Nat :=
  match r with
  | .secCoreMap => i / 4
  | .secPortMap | .secFn | .secLinkStat | .lanCtrl | .lanStatus | .lnkCtrl | .lnkAckTimeout | .lnkTimers | .lnkStatus | .lnkSeq | .lnkErr | .lnkEvents | .rtePort | .colPlanStatus | .colStat | .colPstat | .colPortRsv => i / 16
  | .secLinkKey | .lanEq | .lanFec | .lanTest | .lanEye | .lnkCrdSize | .qosBarkCnt => i / 128
  | .pciCtrl | .pciStatus => i
  | .stkCtrl | .stkStatus | .stkEcc => i / 5
  | .dmcCtrl | .dmcStatus | .dmcEcc => i / 3
  | .xfrStatus | .xfrStat => i / 8
  | .corStatus | .corPfCtrl | .corScratchEcc | .engFlags | .engRfErr | .rasCore => i / 36
  | .qosHist => i / 1024
  | _ => 0

/-- Fields of TOP_NODE_ID. -/
def fields_topNodeId : List Field :=
  [⟨0, 12, .rw, true, 4095, 0, none, false, none, false, false⟩]

/-- Fields of TOP_DEVICE. -/
def fields_topDevice : List Field :=
  [⟨0, 16, .ro, false, 16416, 0, none, false, none, false, false⟩,
   ⟨16, 4, .ro, false, 1, 0, none, false, none, false, false⟩,
   ⟨20, 2, .ro, false, 0, 0, none, false, none, false, false⟩]

/-- Fields of MGT_VIOL. -/
def fields_mgtViol : List Field :=
  [⟨0, 28, .ros, false, 0, 0, none, false, none, false, false⟩,
   ⟨28, 1, .ros, false, 0, 0, none, false, none, false, false⟩,
   ⟨29, 1, .ros, false, 0, 0, none, false, none, false, false⟩,
   ⟨31, 1, .w1c, false, 0, 0, none, false, none, false, false⟩,
   ⟨32, 3, .ros, false, 0, 0, none, false, none, false, false⟩,
   ⟨36, 2, .ros, false, 0, 0, none, false, none, false, false⟩,
   ⟨38, 4, .ros, false, 0, 0, none, false, none, false, false⟩,
   ⟨48, 16, .ros, false, 0, 0, none, false, none, false, false⟩]

/-- Fields of MGT_VIOL_SRC. -/
def fields_mgtViolSrc : List Field :=
  [⟨0, 20, .ros, false, 0, 0, none, false, none, false, false⟩]

/-- Fields of MGT_TRUST. -/
def fields_mgtTrust : List Field :=
  [⟨0, 20, .rw, true, 0, 0, none, false, none, false, true⟩,
   ⟨20, 20, .rw, true, 0, 0, none, false, none, false, true⟩,
   ⟨63, 1, .rw, true, 0, 0, none, false, none, false, true⟩]

/-- Fields of MGT_EVQ_BASE. -/
def fields_mgtEvqBase : List Field :=
  [⟨12, 52, .rw, true, 0, 0, none, false, none, false, false⟩]

/-- Fields of MGT_EVQ_CFG. -/
def fields_mgtEvqCfg : List Field :=
  [⟨0, 4, .rw, true, 6, 6, some 12, false, none, false, false⟩,
   ⟨4, 1, .rw, true, 0, 0, none, false, none, false, false⟩,
   ⟨5, 1, .rw, true, 0, 0, none, false, none, false, false⟩,
   ⟨6, 4, .rw, true, 0, 0, none, false, none, false, false⟩,
   ⟨10, 6, .rw, true, 0, 0, some 63, false, none, false, false⟩,
   ⟨16, 8, .rw, true, 0, 0, some 255, false, none, false, false⟩]

/-- Fields of MGT_EVQ_PTR. -/
def fields_mgtEvqPtr : List Field :=
  [⟨0, 12, .rw, false, 0, 0, none, false, none, false, false⟩,
   ⟨12, 12, .ro, false, 0, 0, none, false, none, false, false⟩]

/-- Fields of MGT_EVQ_DROP. -/
def fields_mgtEvqDrop : List Field :=
  [⟨0, 32, .ros, false, 0, 0, none, false, none, false, false⟩]

/-- Fields of ROT_STATUS. -/
def fields_rotStatus : List Field :=
  [⟨0, 1, .ro, true, 0, 0, none, false, none, false, false⟩,
   ⟨1, 2, .ro, true, 0, 0, none, false, none, false, false⟩,
   ⟨3, 2, .ro, true, 0, 0, none, false, none, false, false⟩,
   ⟨5, 3, .ro, true, 0, 0, none, false, none, false, false⟩,
   ⟨8, 24, .ro, true, 0, 0, none, false, none, false, false⟩]

/-- Fields of ROT_MBOX_CMD. -/
def fields_rotMboxCmd : List Field :=
  [⟨0, 8, .rw, true, 0, 0, none, false, none, false, false⟩,
   ⟨8, 13, .rw, true, 0, 0, some 4096, false, none, false, false⟩,
   ⟨31, 1, .wo, true, 0, 0, none, false, none, false, false⟩]

/-- Fields of ROT_MBOX_STATUS. -/
def fields_rotMboxStatus : List Field :=
  [⟨0, 1, .ro, true, 0, 0, none, false, none, false, false⟩,
   ⟨1, 5, .ro, true, 0, 0, none, false, none, false, false⟩,
   ⟨6, 13, .ro, true, 0, 0, none, false, none, false, false⟩]

/-- Fields of ROT_MBOX_DATA. -/
def fields_rotMboxData : List Field :=
  [⟨0, 32, .rw, true, 0, 0, none, false, none, false, false⟩]

/-- Fields of SEC_CTRL. -/
def fields_secCtrl : List Field :=
  [⟨0, 1, .ro, true, 0, 0, none, false, none, false, true⟩,
   ⟨1, 8, .rw, true, 16, 1, some 128, false, none, false, false⟩]

/-- Fields of SEC_PART_CMD. -/
def fields_secPartCmd : List Field :=
  [⟨0, 4, .rw, true, 0, 0, none, false, none, false, false⟩,
   ⟨4, 2, .wo, true, 0, 1, some 2, false, none, false, false⟩]

/-- Fields of SEC_KEY_CMD. -/
def fields_secKeyCmd : List Field :=
  [⟨0, 8, .rw, true, 0, 0, none, false, none, false, false⟩,
   ⟨8, 4, .rw, true, 0, 0, none, false, none, false, false⟩,
   ⟨12, 2, .wo, true, 0, 0, none, false, none, false, false⟩]

/-- Fields of SEC_KEY_RESULT. -/
def fields_secKeyResult : List Field :=
  [⟨0, 1, .ro, true, 0, 0, none, false, none, false, false⟩,
   ⟨1, 5, .ro, true, 0, 0, none, false, none, false, false⟩]

/-- Fields of SEC_PART_STATUS. -/
def fields_secPartStatus : List Field :=
  [⟨0, 3, .ro, true, 0, 0, none, false, none, false, false⟩,
   ⟨3, 5, .ro, true, 0, 0, none, false, none, false, false⟩,
   ⟨32, 32, .ro, true, 0, 0, none, false, none, false, false⟩]

/-- Fields of SEC_KEY_STATUS. -/
def fields_secKeyStatus : List Field :=
  [⟨0, 2, .ro, true, 0, 0, none, false, none, false, false⟩,
   ⟨2, 1, .ro, true, 0, 0, none, false, none, false, false⟩,
   ⟨3, 4, .ro, true, 0, 0, none, false, none, false, false⟩]

/-- Fields of SEC_CORE_MAP. -/
def fields_secCoreMap : List Field :=
  [⟨0, 4, .rw, true, 0, 0, none, false, none, false, false⟩,
   ⟨5, 4, .rw, true, 0, 0, none, false, none, false, false⟩,
   ⟨10, 4, .rw, true, 0, 0, none, false, none, false, false⟩,
   ⟨15, 4, .rw, true, 0, 0, none, false, none, false, false⟩,
   ⟨20, 4, .rw, true, 0, 0, none, false, none, false, false⟩,
   ⟨25, 4, .rw, true, 0, 0, none, false, none, false, false⟩,
   ⟨30, 4, .rw, true, 0, 0, none, false, none, false, false⟩,
   ⟨35, 4, .rw, true, 0, 0, none, false, none, false, false⟩,
   ⟨40, 4, .rw, true, 0, 0, none, false, none, false, false⟩,
   ⟨4, 1, .rw, true, 1, 0, none, false, none, false, false⟩,
   ⟨9, 1, .rw, true, 1, 0, none, false, none, false, false⟩,
   ⟨14, 1, .rw, true, 1, 0, none, false, none, false, false⟩,
   ⟨19, 1, .rw, true, 1, 0, none, false, none, false, false⟩,
   ⟨24, 1, .rw, true, 1, 0, none, false, none, false, false⟩,
   ⟨29, 1, .rw, true, 1, 0, none, false, none, false, false⟩,
   ⟨34, 1, .rw, true, 1, 0, none, false, none, false, false⟩,
   ⟨39, 1, .rw, true, 1, 0, none, false, none, false, false⟩,
   ⟨44, 1, .rw, true, 1, 0, none, false, none, false, false⟩]

/-- Fields of SEC_PORT_MAP. -/
def fields_secPortMap : List Field :=
  [⟨0, 4, .rw, true, 0, 0, none, false, none, false, false⟩,
   ⟨4, 1, .rw, true, 0, 0, none, false, none, false, false⟩]

/-- Fields of SEC_FN. -/
def fields_secFn : List Field :=
  [⟨0, 4, .rw, true, 0, 0, none, false, none, false, false⟩,
   ⟨4, 1, .rw, true, 0, 0, none, false, none, false, false⟩,
   ⟨5, 1, .ro, true, 0, 0, none, false, none, false, true⟩]

/-- Fields of SEC_LINK_KEY. -/
def fields_secLinkKey : List Field :=
  [⟨0, 32, .wo, true, 0, 0, none, false, none, false, false⟩]

/-- Fields of SEC_LINK_STAT. -/
def fields_secLinkStat : List Field :=
  [⟨0, 1, .ro, true, 0, 0, none, false, none, false, false⟩,
   ⟨1, 1, .ro, true, 0, 0, none, false, none, false, false⟩]

/-- Fields of PCI_CTRL. -/
def fields_pciCtrl : List Field :=
  [⟨0, 1, .ro, false, 1, 0, none, false, none, false, true⟩,
   ⟨1, 4, .ro, false, 15, 0, some 15, false, none, false, true⟩]

/-- Fields of PCI_STATUS. -/
def fields_pciStatus : List Field :=
  [⟨0, 1, .ro, false, 0, 0, none, false, none, false, false⟩,
   ⟨1, 3, .ro, false, 0, 0, none, false, none, false, false⟩,
   ⟨4, 4, .ro, false, 0, 0, none, false, none, false, false⟩,
   ⟨8, 4, .ro, false, 0, 0, none, false, none, false, false⟩,
   ⟨32, 16, .ros, false, 0, 0, none, false, none, false, false⟩,
   ⟨48, 16, .ros, false, 0, 0, none, false, none, false, false⟩]

/-- Fields of LAN_CTRL. -/
def fields_lanCtrl : List Field :=
  [⟨0, 1, .rw, false, 1, 0, none, false, none, false, true⟩,
   ⟨1, 9, .rw, false, 25, 5, some 500, false, none, false, true⟩,
   ⟨10, 8, .wo, false, 0, 0, none, false, none, false, false⟩,
   ⟨32, 8, .rw, false, 2, 1, some 255, false, none, false, true⟩,
   ⟨40, 5, .rw, false, 20, 10, some 24, false, none, false, true⟩,
   ⟨45, 3, .rw, false, 4, 1, some 7, false, none, false, true⟩]

/-- Fields of LAN_STATUS. -/
def fields_lanStatus : List Field :=
  [⟨0, 4, .ro, false, 0, 0, none, false, none, false, false⟩,
   ⟨4, 3, .ro, false, 0, 0, none, false, none, false, false⟩,
   ⟨7, 1, .ro, false, 0, 0, none, false, none, false, false⟩,
   ⟨8, 8, .ro, false, 0, 0, none, false, none, false, false⟩,
   ⟨16, 8, .ros, false, 0, 0, none, false, none, false, false⟩,
   ⟨24, 8, .ro, false, 0, 0, none, false, none, false, false⟩,
   ⟨32, 1, .ro, false, 0, 0, none, false, none, false, false⟩,
   ⟨33, 1, .ro, false, 0, 0, none, false, none, false, false⟩,
   ⟨40, 8, .ro, false, 0, 0, none, false, none, false, false⟩,
   ⟨48, 16, .ros, false, 0, 0, none, false, none, false, false⟩]

/-- Fields of LAN_EQ. -/
def fields_lanEq : List Field :=
  [⟨0, 4, .ro, false, 0, 0, none, false, none, false, false⟩,
   ⟨4, 6, .ro, false, 0, 0, none, false, none, false, false⟩,
   ⟨10, 6, .ro, false, 0, 0, none, false, none, false, false⟩,
   ⟨16, 7, .ro, false, 0, 0, none, false, none, false, false⟩,
   ⟨23, 6, .ro, false, 0, 0, none, false, none, false, false⟩]

/-- Fields of LAN_FEC. -/
def fields_lanFec : List Field :=
  [⟨0, 32, .ros, false, 0, 0, none, false, none, false, false⟩,
   ⟨32, 16, .ros, false, 0, 0, none, false, none, false, false⟩,
   ⟨48, 16, .ros, false, 0, 0, none, false, none, false, false⟩]

/-- Fields of LAN_TEST. -/
def fields_lanTest : List Field :=
  [⟨0, 2, .rw, false, 0, 0, some 2, false, none, false, false⟩,
   ⟨2, 2, .rw, false, 0, 0, some 2, false, none, false, false⟩,
   ⟨4, 1, .wo, false, 0, 0, none, false, none, false, false⟩,
   ⟨5, 1, .ro, false, 0, 0, none, false, none, false, false⟩,
   ⟨32, 32, .ro, false, 0, 0, none, false, none, false, false⟩]

/-- Fields of LAN_EYE. -/
def fields_lanEye : List Field :=
  [⟨0, 6, .rw, false, 0, 0, none, false, some 32, false, false⟩,
   ⟨6, 6, .rw, false, 0, 0, none, false, some 32, false, false⟩,
   ⟨12, 2, .rw, false, 1, 0, some 2, false, none, false, false⟩,
   ⟨14, 5, .rw, false, 24, 16, some 31, false, none, false, false⟩,
   ⟨19, 1, .wo, false, 0, 0, none, false, none, false, false⟩,
   ⟨20, 1, .ro, false, 0, 0, none, false, none, false, false⟩,
   ⟨32, 32, .ro, false, 0, 0, none, false, none, false, false⟩]

/-- Fields of LNK_CTRL. -/
def fields_lnkCtrl : List Field :=
  [⟨0, 1, .rw, false, 1, 0, none, false, none, false, false⟩,
   ⟨1, 1, .wo, false, 0, 0, none, false, none, false, false⟩,
   ⟨2, 1, .rw, true, 0, 0, none, false, none, false, true⟩,
   ⟨3, 4, .rw, false, 4, 1, some 15, false, none, false, false⟩,
   ⟨7, 3, .rw, false, 3, 1, some 7, false, none, false, false⟩]

/-- Fields of LNK_ACK_TIMEOUT. -/
def fields_lnkAckTimeout : List Field :=
  [⟨0, 7, .rw, false, 8, 2, some 100, false, none, false, false⟩,
   ⟨8, 7, .rw, false, 10, 1, some 100, false, none, false, false⟩,
   ⟨16, 8, .rw, false, 10, 1, some 255, false, none, false, false⟩]

/-- Fields of LNK_TIMERS. -/
def fields_lnkTimers : List Field :=
  [⟨0, 14, .rw, false, 100, 10, some 10000, false, none, false, false⟩,
   ⟨16, 10, .rw, false, 100, 10, some 1000, false, none, false, false⟩,
   ⟨32, 14, .rw, false, 100, 10, some 10000, false, none, false, false⟩,
   ⟨48, 14, .rw, false, 100, 10, some 10000, false, none, false, false⟩]

/-- Fields of LNK_STATUS. -/
def fields_lnkStatus : List Field :=
  [⟨0, 3, .ro, false, 0, 0, none, false, none, false, false⟩,
   ⟨3, 2, .ro, false, 0, 0, none, false, none, false, false⟩,
   ⟨5, 1, .ro, false, 0, 0, none, false, none, false, false⟩,
   ⟨8, 12, .ro, false, 4095, 0, none, false, none, false, false⟩,
   ⟨20, 8, .ro, false, 0, 0, none, false, none, false, false⟩,
   ⟨28, 4, .ros, false, 0, 0, none, false, none, false, false⟩,
   ⟨32, 16, .ro, false, 0, 0, none, false, none, false, false⟩]

/-- Fields of LNK_SEQ. -/
def fields_lnkSeq : List Field :=
  [⟨0, 14, .ro, false, 0, 0, none, false, none, false, false⟩,
   ⟨16, 14, .ro, false, 0, 0, none, false, none, false, false⟩,
   ⟨32, 14, .ro, false, 0, 0, none, false, none, false, false⟩,
   ⟨48, 12, .ro, false, 0, 0, none, false, none, false, false⟩]

/-- Fields of LNK_ERR. -/
def fields_lnkErr : List Field :=
  [⟨0, 32, .ros, false, 0, 0, none, false, none, false, false⟩,
   ⟨32, 16, .ros, false, 0, 0, none, false, none, false, false⟩,
   ⟨48, 16, .ros, false, 0, 0, none, false, none, false, false⟩]

/-- Fields of LNK_EVENTS. -/
def fields_lnkEvents : List Field :=
  [⟨0, 16, .ros, false, 0, 0, none, false, none, false, false⟩,
   ⟨16, 16, .ros, false, 0, 0, none, false, none, false, false⟩,
   ⟨32, 16, .ros, false, 0, 0, none, false, none, false, false⟩,
   ⟨48, 16, .ros, false, 0, 0, none, false, none, false, false⟩]

/-- Fields of LNK_CRD_SIZE. -/
def fields_lnkCrdSize : List Field :=
  [⟨0, 11, .rw, false, 0, 16, some 2047, false, none, false, true⟩,
   ⟨16, 11, .rw, false, 0, 16, some 2047, false, none, false, true⟩,
   ⟨32, 11, .rw, false, 0, 16, some 2047, false, none, false, true⟩,
   ⟨48, 11, .rw, false, 0, 16, some 2047, false, none, false, true⟩]

/-- Fields of RTE_CTRL. -/
def fields_rteCtrl : List Field :=
  [⟨0, 14, .rw, true, 200, 10, some 10000, false, none, false, false⟩,
   ⟨14, 10, .rw, true, 50, 5, some 1000, false, none, false, false⟩,
   ⟨24, 8, .rw, true, 100, 10, some 255, false, none, false, false⟩]

/-- Fields of RTE_BANK. -/
def fields_rteBank : List Field :=
  [⟨0, 1, .rw, true, 0, 0, none, false, none, true, false⟩,
   ⟨1, 1, .ro, false, 0, 0, none, false, none, false, false⟩,
   ⟨2, 1, .ro, false, 0, 0, none, false, none, false, false⟩,
   ⟨3, 1, .ro, false, 0, 0, none, false, none, false, false⟩]

/-- Fields of RTE_LOST. -/
def fields_rteLost : List Field :=
  [⟨0, 32, .rw, true, 0, 0, none, false, none, false, false⟩]

/-- Fields of RTE_PORT. -/
def fields_rtePort : List Field :=
  [⟨0, 2, .rw, true, 0, 0, some 2, false, none, false, false⟩,
   ⟨2, 1, .ro, false, 0, 0, none, false, none, false, false⟩,
   ⟨3, 12, .rw, true, 4095, 0, none, false, none, false, false⟩]

/-- Fields of RTE_INFLIGHT. -/
def fields_rteInflight : List Field :=
  [⟨0, 32, .ro, false, 0, 0, none, false, none, false, false⟩,
   ⟨32, 32, .ro, false, 0, 0, none, false, none, false, false⟩]

/-- Fields of RTE_DROP. -/
def fields_rteDrop : List Field :=
  [⟨0, 16, .ros, false, 0, 0, none, false, none, false, false⟩,
   ⟨16, 16, .ros, false, 0, 0, none, false, none, false, false⟩,
   ⟨32, 10, .ros, false, 0, 0, none, false, none, false, false⟩,
   ⟨42, 10, .ros, false, 0, 0, none, false, none, false, false⟩,
   ⟨52, 12, .ros, false, 0, 0, none, false, none, false, false⟩]

/-- Fields of RTE_FENCE. -/
def fields_rteFence : List Field :=
  [⟨0, 11, .ro, false, 0, 0, none, false, none, false, false⟩,
   ⟨32, 32, .ros, false, 0, 0, none, false, none, false, false⟩]

/-- Fields of RTE_ROUTE. -/
def fields_rteRoute : List Field :=
  [⟨0, 6, .rw, true, 0, 0, none, false, none, false, false⟩,
   ⟨8, 6, .rw, true, 0, 0, none, false, none, false, false⟩,
   ⟨16, 6, .rw, true, 0, 0, none, false, none, false, false⟩,
   ⟨24, 6, .rw, true, 0, 0, none, false, none, false, false⟩,
   ⟨6, 1, .rw, true, 0, 0, none, false, none, false, false⟩,
   ⟨14, 1, .rw, true, 0, 0, none, false, none, false, false⟩,
   ⟨22, 1, .rw, true, 0, 0, none, false, none, false, false⟩,
   ⟨30, 1, .rw, true, 0, 0, none, false, none, false, false⟩]

/-- Fields of HOM_EXT_CMD. -/
def fields_homExtCmd : List Field :=
  [⟨0, 12, .rw, false, 0, 0, none, false, none, false, false⟩,
   ⟨12, 4, .rw, false, 0, 0, none, false, none, false, false⟩,
   ⟨16, 22, .rw, false, 0, 0, some 3145727, false, none, false, false⟩,
   ⟨38, 22, .rw, false, 0, 1, some 3145728, false, none, false, false⟩]

/-- Fields of HOM_EXT_ATTR. -/
def fields_homExtAttr : List Field :=
  [⟨0, 1, .rw, false, 0, 0, none, false, none, false, false⟩,
   ⟨1, 2, .rw, false, 0, 0, none, false, none, false, false⟩,
   ⟨3, 1, .rw, false, 0, 0, none, false, none, false, false⟩,
   ⟨4, 1, .rw, false, 0, 0, none, false, none, false, false⟩,
   ⟨8, 4, .rw, false, 0, 0, none, false, none, false, false⟩,
   ⟨16, 8, .rw, false, 0, 0, none, false, none, false, false⟩]

/-- Fields of HOM_EXT_STATUS. -/
def fields_homExtStatus : List Field :=
  [⟨0, 12, .ro, false, 0, 0, none, false, none, false, false⟩,
   ⟨12, 3, .ro, false, 0, 0, none, false, none, false, false⟩,
   ⟨15, 1, .ro, false, 0, 0, none, false, none, false, false⟩,
   ⟨16, 5, .ro, false, 0, 0, none, false, none, false, false⟩]

/-- Fields of HOM_EXT_RIGHTS. -/
def fields_homExtRights : List Field :=
  [⟨0, 8, .rw, false, 0, 0, none, false, none, false, false⟩,
   ⟨8, 1, .rw, false, 0, 0, none, false, none, false, false⟩,
   ⟨9, 1, .rw, false, 0, 0, none, false, none, false, false⟩,
   ⟨10, 1, .rw, false, 0, 0, none, false, none, false, false⟩,
   ⟨15, 1, .rw, false, 0, 0, none, false, none, false, false⟩]

/-- Fields of HOM_MIG_CTRL. -/
def fields_homMigCtrl : List Field :=
  [⟨0, 16, .rw, true, 256, 16, some 65535, false, none, false, false⟩,
   ⟨16, 14, .rw, true, 100, 1, some 10000, false, none, false, false⟩,
   ⟨30, 1, .rw, true, 0, 0, none, false, none, false, false⟩,
   ⟨32, 13, .rw, true, 256, 0, some 4096, false, none, false, false⟩,
   ⟨48, 8, .rw, true, 10, 1, some 250, false, none, false, false⟩,
   ⟨56, 8, .rw, true, 20, 2, some 255, false, none, false, false⟩]

/-- Fields of HOM_MIG_RESERVE. -/
def fields_homMigReserve : List Field :=
  [⟨0, 12, .rw, true, 0, 0, none, false, none, false, false⟩,
   ⟨12, 1, .rw, true, 0, 0, none, false, none, false, false⟩]

/-- Fields of HOM_MIG_STATUS. -/
def fields_homMigStatus : List Field :=
  [⟨0, 1, .ro, true, 0, 0, none, false, none, false, false⟩,
   ⟨1, 5, .ro, true, 0, 0, none, false, none, false, false⟩,
   ⟨8, 24, .ro, true, 0, 0, none, false, none, false, false⟩]

/-- Fields of HOM_MIG_CMD. -/
def fields_homMigCmd : List Field :=
  [⟨0, 36, .rw, true, 0, 0, none, false, none, false, false⟩,
   ⟨36, 2, .rw, true, 0, 0, none, false, none, false, false⟩,
   ⟨38, 2, .rw, true, 0, 0, none, false, none, false, false⟩]

/-- Fields of HOM_HOTQ_PTR. -/
def fields_homHotqPtr : List Field :=
  [⟨0, 12, .rw, true, 0, 0, none, false, none, false, false⟩,
   ⟨12, 12, .ro, true, 0, 0, none, false, none, false, false⟩]

/-- Fields of HOM_HOTQ_DROP. -/
def fields_homHotqDrop : List Field :=
  [⟨0, 32, .ros, true, 0, 0, none, false, none, false, false⟩]

/-- Fields of HOM_GRP_MATCH. -/
def fields_homGrpMatch : List Field :=
  [⟨0, 20, .rw, false, 0, 0, none, false, none, false, false⟩,
   ⟨20, 20, .rw, false, 0, 0, none, false, none, false, false⟩,
   ⟨40, 8, .rw, false, 0, 0, none, false, none, false, false⟩,
   ⟨48, 4, .rw, false, 0, 0, none, false, none, false, false⟩,
   ⟨63, 1, .rw, false, 0, 0, none, false, none, false, false⟩]

/-- Fields of HOM_HOTQ_ENTRY. -/
def fields_homHotqEntry : List Field :=
  [⟨0, 36, .ro, true, 0, 0, none, false, none, false, false⟩,
   ⟨36, 20, .ro, true, 0, 0, none, false, none, false, false⟩,
   ⟨56, 16, .ro, true, 0, 0, none, false, none, false, false⟩,
   ⟨72, 1, .ro, true, 0, 0, none, false, none, false, false⟩,
   ⟨73, 4, .ro, true, 0, 0, none, false, none, false, false⟩,
   ⟨77, 2, .ro, true, 0, 0, none, false, none, false, false⟩,
   ⟨79, 1, .ro, true, 0, 0, none, false, none, false, false⟩,
   ⟨80, 12, .ro, true, 0, 0, none, false, none, false, false⟩]

/-- Fields of DIR_CTRL. -/
def fields_dirCtrl : List Field :=
  [⟨0, 10, .rw, false, 50, 5, some 1000, false, none, false, false⟩,
   ⟨10, 1, .rw, false, 1, 0, none, false, none, false, false⟩,
   ⟨11, 1, .rw, false, 1, 0, none, false, none, false, false⟩,
   ⟨12, 10, .rw, false, 64, 4, some 1023, false, none, false, false⟩]

/-- Fields of DIR_STATUS. -/
def fields_dirStatus : List Field :=
  [⟨0, 13, .ro, false, 0, 0, none, false, none, false, false⟩,
   ⟨13, 1, .ro, false, 0, 0, none, false, none, false, false⟩,
   ⟨14, 7, .ro, false, 0, 0, none, false, none, false, false⟩,
   ⟨21, 1, .ros, false, 0, 0, none, false, none, false, false⟩]

/-- Fields of DIR_ECC. -/
def fields_dirEcc : List Field :=
  [⟨0, 32, .ros, false, 0, 0, none, false, none, false, false⟩,
   ⟨32, 16, .ros, false, 0, 0, none, false, none, false, false⟩,
   ⟨48, 16, .ros, false, 0, 0, none, false, none, false, false⟩]

/-- Fields of DIR_RETRY. -/
def fields_dirRetry : List Field :=
  [⟨0, 32, .ros, false, 0, 0, none, false, none, false, false⟩,
   ⟨32, 32, .ros, false, 0, 0, none, false, none, false, false⟩]

/-- Fields of DIR_SLOT. -/
def fields_dirSlot : List Field :=
  [⟨0, 20, .rw, false, 0, 0, none, false, none, false, false⟩,
   ⟨20, 4, .rw, false, 0, 0, none, false, none, false, false⟩,
   ⟨24, 3, .ro, false, 0, 0, none, false, none, false, false⟩,
   ⟨28, 2, .wo, false, 0, 0, none, false, none, false, false⟩]

/-- Fields of TXN_CTRL. -/
def fields_txnCtrl : List Field :=
  [⟨0, 16, .rw, false, 1000, 10, some 60000, false, none, false, false⟩]

/-- Fields of TXN_KILL. -/
def fields_txnKill : List Field :=
  [⟨0, 20, .wo, false, 0, 0, none, false, none, false, false⟩,
   ⟨31, 1, .wo, false, 0, 0, none, false, none, false, false⟩]

/-- Fields of TXN_STATUS. -/
def fields_txnStatus : List Field :=
  [⟨0, 11, .ro, false, 0, 0, none, false, none, false, false⟩,
   ⟨11, 15, .ro, false, 0, 0, none, false, none, false, false⟩]

/-- Fields of TXN_COUNT. -/
def fields_txnCount : List Field :=
  [⟨0, 32, .ros, false, 0, 0, none, false, none, false, false⟩,
   ⟨32, 32, .ros, false, 0, 0, none, false, none, false, false⟩]

/-- Fields of TXN_ABORT_CNT. -/
def fields_txnAbortCnt : List Field :=
  [⟨0, 32, .ros, false, 0, 0, none, false, none, false, false⟩]

/-- Fields of MSC_CTRL. -/
def fields_mscCtrl : List Field :=
  [⟨0, 1, .rw, false, 1, 0, none, false, none, false, false⟩,
   ⟨1, 1, .rw, false, 1, 0, none, false, none, false, false⟩,
   ⟨2, 1, .rw, false, 1, 0, none, false, none, false, false⟩,
   ⟨3, 7, .rw, false, 16, 2, some 127, false, none, false, false⟩,
   ⟨16, 1, .wo, false, 0, 0, none, false, none, false, false⟩,
   ⟨17, 1, .ro, false, 0, 0, none, false, none, false, false⟩]

/-- Fields of STK_CTRL. -/
def fields_stkCtrl : List Field :=
  [⟨0, 14, .rw, false, 20, 1, some 10000, true, none, false, true⟩,
   ⟨16, 8, .rw, false, 20, 1, some 255, false, none, false, false⟩]

/-- Fields of STK_STATUS. -/
def fields_stkStatus : List Field :=
  [⟨0, 1, .ro, false, 0, 0, none, false, none, false, false⟩,
   ⟨1, 1, .ro, false, 0, 0, none, false, none, false, false⟩,
   ⟨2, 8, .ro, false, 0, 0, none, false, none, false, false⟩,
   ⟨10, 2, .ro, false, 0, 0, none, false, none, false, false⟩]

/-- Fields of STK_ECC. -/
def fields_stkEcc : List Field :=
  [⟨0, 32, .ros, false, 0, 0, none, false, none, false, false⟩,
   ⟨32, 16, .ros, false, 0, 0, none, false, none, false, false⟩]

/-- Fields of DMC_CTRL. -/
def fields_dmcCtrl : List Field :=
  [⟨0, 14, .rw, false, 50, 1, some 10000, true, none, false, true⟩,
   ⟨14, 2, .rw, false, 2, 0, some 2, false, none, false, false⟩,
   ⟨16, 8, .rw, false, 20, 1, some 255, false, none, false, false⟩]

/-- Fields of DMC_STATUS. -/
def fields_dmcStatus : List Field :=
  [⟨0, 2, .ro, false, 0, 0, none, false, none, false, false⟩,
   ⟨2, 2, .ro, false, 0, 0, none, false, none, false, false⟩,
   ⟨4, 3, .ro, false, 0, 0, none, false, none, false, false⟩,
   ⟨7, 1, .ro, false, 0, 0, none, false, none, false, false⟩,
   ⟨8, 1, .ro, false, 0, 0, none, false, none, false, false⟩,
   ⟨9, 8, .ro, false, 0, 0, none, false, none, false, false⟩]

/-- Fields of DMC_ECC. -/
def fields_dmcEcc : List Field :=
  [⟨0, 32, .ros, false, 0, 0, none, false, none, false, false⟩,
   ⟨32, 16, .ros, false, 0, 0, none, false, none, false, false⟩]

/-- Fields of PTU_CTRL. -/
def fields_ptuCtrl : List Field :=
  [⟨0, 8, .rw, false, 16, 1, some 255, false, none, false, false⟩,
   ⟨8, 1, .rw, false, 1, 0, none, false, none, false, false⟩]

/-- Fields of PTU_STATUS. -/
def fields_ptuStatus : List Field :=
  [⟨0, 1, .ro, false, 0, 0, none, false, none, false, false⟩,
   ⟨1, 1, .ro, false, 0, 0, none, false, none, false, false⟩,
   ⟨2, 6, .ro, false, 0, 0, none, false, none, false, false⟩]

/-- Fields of PTU_STAT. -/
def fields_ptuStat : List Field :=
  [⟨0, 32, .ros, false, 0, 0, none, false, none, false, false⟩,
   ⟨32, 32, .ros, false, 0, 0, none, false, none, false, false⟩]

/-- Fields of PTU_AS. -/
def fields_ptuAs : List Field :=
  [⟨7, 45, .rw, true, 0, 0, none, false, none, false, false⟩,
   ⟨52, 4, .rw, true, 0, 0, none, false, none, false, false⟩,
   ⟨63, 1, .rw, true, 0, 0, none, false, none, false, false⟩]

/-- Fields of XFR_CTRL. -/
def fields_xfrCtrl : List Field :=
  [⟨0, 4, .rw, true, 2, 1, some 8, false, none, false, false⟩]

/-- Fields of XFR_QCMD. -/
def fields_xfrQcmd : List Field :=
  [⟨0, 7, .rw, true, 0, 0, none, false, none, false, false⟩,
   ⟨8, 2, .wo, true, 0, 1, some 1, false, none, false, false⟩]

/-- Fields of XFR_STATUS. -/
def fields_xfrStatus : List Field :=
  [⟨0, 2, .ro, false, 0, 0, none, false, none, false, false⟩,
   ⟨2, 7, .ro, false, 0, 0, none, false, none, false, false⟩,
   ⟨9, 1, .ro, false, 0, 0, none, false, none, false, false⟩]

/-- Fields of XFR_STAT. -/
def fields_xfrStat : List Field :=
  [⟨0, 48, .ros, false, 0, 0, none, false, none, false, false⟩,
   ⟨48, 16, .ros, false, 0, 0, none, false, none, false, false⟩]

/-- Fields of XFR_QCFG. -/
def fields_xfrQcfg : List Field :=
  [⟨0, 4, .rw, true, 6, 6, some 12, false, none, false, false⟩,
   ⟨4, 4, .rw, true, 0, 0, none, false, none, false, false⟩,
   ⟨8, 1, .rw, true, 0, 0, none, false, none, false, false⟩,
   ⟨9, 2, .rw, true, 0, 0, none, false, none, false, false⟩,
   ⟨12, 10, .rw, true, 0, 0, none, false, none, false, false⟩,
   ⟨22, 4, .rw, true, 8, 1, some 8, false, none, false, false⟩,
   ⟨32, 20, .rw, true, 0, 0, none, false, none, false, false⟩]

/-- Fields of XFR_QRING. -/
def fields_xfrQring : List Field :=
  [⟨12, 40, .rw, true, 0, 0, none, false, none, false, false⟩]

/-- Fields of XFR_QCPL. -/
def fields_xfrQcpl : List Field :=
  [⟨12, 40, .rw, true, 0, 0, none, false, none, false, false⟩]

/-- Fields of XFR_RINGER. -/
def fields_xfrRinger : List Field :=
  [⟨0, 20, .rw, true, 0, 0, none, false, none, false, false⟩,
   ⟨20, 20, .rw, true, 0, 0, none, false, none, false, false⟩]

/-- Fields of XFR_QPTR. -/
def fields_xfrQptr : List Field :=
  [⟨0, 12, .rw, false, 0, 0, none, false, none, false, false⟩,
   ⟨12, 12, .ro, false, 0, 0, none, false, none, false, false⟩,
   ⟨32, 12, .rw, false, 0, 0, none, false, none, false, false⟩,
   ⟨44, 12, .ro, false, 0, 0, none, false, none, false, false⟩]

/-- Fields of CLU_SEQ_SRC. -/
def fields_cluSeqSrc : List Field :=
  [⟨0, 52, .rw, false, 0, 0, none, false, none, false, false⟩]

/-- Fields of CLU_SEQ_CMD. -/
def fields_cluSeqCmd : List Field :=
  [⟨0, 8, .rw, false, 0, 0, none, false, none, false, false⟩,
   ⟨8, 13, .rw, false, 0, 1, some 4096, false, none, false, false⟩,
   ⟨24, 4, .rw, false, 0, 0, none, false, none, false, false⟩,
   ⟨28, 2, .wo, false, 0, 0, none, false, none, false, false⟩]

/-- Fields of CLU_SEQ_STATUS. -/
def fields_cluSeqStatus : List Field :=
  [⟨0, 1, .ro, false, 0, 0, none, false, none, false, false⟩,
   ⟨1, 5, .ro, false, 0, 0, none, false, none, false, false⟩,
   ⟨8, 12, .ro, false, 0, 0, none, false, none, false, false⟩,
   ⟨20, 4, .ro, false, 0, 0, none, false, none, false, false⟩,
   ⟨32, 16, .ro, false, 32768, 0, none, false, none, false, false⟩]

/-- Fields of CLU_SAVE. -/
def fields_cluSave : List Field :=
  [⟨0, 12, .rw, true, 0, 0, none, false, none, false, false⟩,
   ⟨12, 1, .rw, true, 0, 0, none, false, none, false, false⟩,
   ⟨13, 17, .ro, false, 0, 0, none, false, none, false, false⟩]

/-- Fields of CLU_QCFG. -/
def fields_cluQcfg : List Field :=
  [⟨0, 4, .rw, true, 6, 6, some 12, false, none, false, false⟩,
   ⟨4, 4, .rw, true, 0, 0, none, false, none, false, false⟩,
   ⟨8, 1, .rw, true, 0, 0, none, false, none, false, false⟩,
   ⟨12, 10, .rw, true, 0, 0, none, false, none, false, false⟩,
   ⟨22, 4, .rw, true, 1, 1, some 15, false, none, false, false⟩,
   ⟨32, 20, .rw, true, 0, 0, none, false, none, false, false⟩]

/-- Fields of CLU_QRING. -/
def fields_cluQring : List Field :=
  [⟨12, 40, .rw, true, 0, 0, none, false, none, false, false⟩]

/-- Fields of CLU_QCPL. -/
def fields_cluQcpl : List Field :=
  [⟨12, 40, .rw, true, 0, 0, none, false, none, false, false⟩]

/-- Fields of CLU_QPTR. -/
def fields_cluQptr : List Field :=
  [⟨0, 12, .rw, false, 0, 0, none, false, none, false, false⟩,
   ⟨12, 12, .ro, false, 0, 0, none, false, none, false, false⟩,
   ⟨32, 12, .rw, false, 0, 0, none, false, none, false, false⟩,
   ⟨44, 12, .ro, false, 0, 0, none, false, none, false, false⟩]

/-- Fields of COR_STATUS. -/
def fields_corStatus : List Field :=
  [⟨0, 2, .ro, false, 0, 0, none, false, none, false, false⟩,
   ⟨2, 8, .ro, false, 0, 0, none, false, none, false, false⟩,
   ⟨10, 1, .ro, false, 0, 0, none, false, none, false, false⟩]

/-- Fields of COR_PF_CTRL. -/
def fields_corPfCtrl : List Field :=
  [⟨0, 1, .rw, false, 1, 0, none, false, none, false, false⟩,
   ⟨1, 6, .rw, false, 8, 1, some 63, false, none, false, false⟩]

/-- Fields of COR_SCRATCH_ECC. -/
def fields_corScratchEcc : List Field :=
  [⟨0, 32, .ros, false, 0, 0, none, false, none, false, false⟩,
   ⟨32, 16, .ros, false, 0, 0, none, false, none, false, false⟩]

/-- Fields of ENG_FLAGS. -/
def fields_engFlags : List Field :=
  [⟨0, 4, .w1c, false, 0, 0, none, false, none, false, false⟩,
   ⟨4, 4, .w1c, false, 0, 0, none, false, none, false, false⟩,
   ⟨8, 4, .w1c, false, 0, 0, none, false, none, false, false⟩,
   ⟨12, 4, .w1c, false, 0, 0, none, false, none, false, false⟩,
   ⟨16, 4, .w1c, false, 0, 0, none, false, none, false, false⟩,
   ⟨20, 4, .w1c, false, 0, 0, none, false, none, false, false⟩,
   ⟨24, 4, .w1c, false, 0, 0, none, false, none, false, false⟩,
   ⟨28, 4, .w1c, false, 0, 0, none, false, none, false, false⟩]

/-- Fields of ENG_RF_ERR. -/
def fields_engRfErr : List Field :=
  [⟨0, 32, .ros, false, 0, 0, none, false, none, false, false⟩,
   ⟨32, 16, .ros, false, 0, 0, none, false, none, false, false⟩]

/-- Fields of ENG_FMT. -/
def fields_engFmt : List Field :=
  [⟨0, 4, .rw, false, 0, 0, none, false, none, false, true⟩,
   ⟨4, 1, .rw, false, 0, 0, none, false, none, false, true⟩,
   ⟨8, 5, .rw, false, 0, 0, none, false, none, false, true⟩,
   ⟨16, 4, .rw, false, 0, 0, none, false, none, false, true⟩,
   ⟨20, 5, .rw, false, 0, 0, none, false, none, false, true⟩,
   ⟨32, 8, .rw, false, 0, 0, none, false, none, false, true⟩,
   ⟨40, 2, .rw, false, 0, 0, none, false, none, false, true⟩,
   ⟨42, 1, .rw, false, 0, 0, none, false, none, false, true⟩,
   ⟨43, 1, .rw, false, 0, 0, none, false, none, false, true⟩,
   ⟨44, 3, .rw, false, 0, 0, none, false, none, false, true⟩,
   ⟨48, 6, .rw, false, 0, 0, none, false, none, false, true⟩,
   ⟨56, 7, .rw, false, 0, 0, none, false, none, false, true⟩,
   ⟨63, 1, .rw, false, 0, 0, none, false, none, false, true⟩,
   ⟨64, 5, .rw, false, 0, 4, some 16, false, none, false, true⟩]

/-- Fields of COL_CTRL. -/
def fields_colCtrl : List Field :=
  [⟨0, 14, .rw, true, 100, 1, some 10000, false, none, false, false⟩,
   ⟨14, 4, .rw, true, 4, 1, some 15, false, none, false, false⟩]

/-- Fields of COL_KILL. -/
def fields_colKill : List Field :=
  [⟨0, 20, .wo, true, 0, 0, none, false, none, false, false⟩,
   ⟨31, 1, .wo, true, 0, 0, none, false, none, false, false⟩]

/-- Fields of COL_PLAN_CMD. -/
def fields_colPlanCmd : List Field :=
  [⟨0, 6, .rw, true, 0, 0, none, false, none, false, false⟩,
   ⟨8, 2, .wo, true, 0, 0, none, false, none, false, false⟩]

/-- Fields of COL_PLAN_SRC. -/
def fields_colPlanSrc : List Field :=
  [⟨0, 52, .rw, true, 0, 0, none, false, none, false, false⟩]

/-- Fields of COL_PLAN_STATUS. -/
def fields_colPlanStatus : List Field :=
  [⟨0, 3, .ro, false, 0, 0, none, false, none, false, false⟩,
   ⟨3, 1, .ro, false, 0, 0, none, false, none, false, false⟩,
   ⟨4, 5, .ro, false, 0, 0, none, false, none, false, false⟩,
   ⟨9, 8, .ro, false, 0, 0, none, false, none, false, false⟩,
   ⟨17, 9, .ro, false, 0, 0, none, false, none, false, false⟩,
   ⟨32, 8, .ro, false, 0, 0, none, false, none, false, false⟩,
   ⟨40, 9, .ro, false, 0, 0, none, false, none, false, false⟩,
   ⟨49, 1, .ro, false, 0, 0, none, false, none, false, false⟩]

/-- Fields of COL_STAT. -/
def fields_colStat : List Field :=
  [⟨0, 28, .ros, false, 0, 0, none, false, none, false, false⟩,
   ⟨28, 16, .ros, false, 0, 0, none, false, none, false, false⟩,
   ⟨44, 20, .ros, false, 0, 0, none, false, none, false, false⟩]

/-- Fields of COL_PSTAT. -/
def fields_colPstat : List Field :=
  [⟨0, 32, .ro, false, 0, 0, none, false, none, false, false⟩,
   ⟨32, 32, .ro, false, 0, 0, none, false, none, false, false⟩]

/-- Fields of COL_PORT_RSV. -/
def fields_colPortRsv : List Field :=
  [⟨0, 11, .ro, false, 0, 0, none, false, none, false, false⟩,
   ⟨11, 15, .ro, false, 0, 0, none, false, none, false, false⟩,
   ⟨31, 1, .wo, true, 0, 0, none, false, none, false, false⟩]

/-- Fields of QOS_CTRL. -/
def fields_qosCtrl : List Field :=
  [⟨0, 1, .rw, true, 0, 0, none, false, none, true, true⟩,
   ⟨1, 1, .ro, false, 0, 0, none, false, none, false, false⟩,
   ⟨8, 7, .rw, true, 10, 1, some 100, false, none, false, false⟩]

/-- Fields of QOS_BARK_Q. -/
def fields_qosBarkQ : List Field :=
  [⟨0, 13, .rw, true, 0, 0, some 4096, false, none, true, true⟩]

/-- Fields of QOS_BARK_U. -/
def fields_qosBarkU : List Field :=
  [⟨0, 11, .rw, true, 0, 0, some 1024, false, none, true, true⟩]

/-- Fields of QOS_LEASH. -/
def fields_qosLeash : List Field :=
  [⟨0, 20, .rw, true, 0, 0, none, false, none, false, false⟩,
   ⟨20, 2, .rw, true, 0, 0, none, false, none, false, false⟩,
   ⟨22, 6, .rw, true, 0, 0, none, false, none, false, false⟩,
   ⟨28, 1, .rw, true, 0, 0, none, false, none, false, false⟩,
   ⟨32, 12, .rw, true, 0, 1, some 1821, false, none, false, false⟩,
   ⟨48, 16, .rw, true, 0, 1, some 65535, false, none, false, false⟩]

/-- Fields of QOS_LSTAT. -/
def fields_qosLstat : List Field :=
  [⟨0, 40, .ro, true, 0, 0, none, false, none, false, false⟩,
   ⟨40, 24, .ro, true, 0, 0, none, false, none, false, false⟩]

/-- Fields of QOS_CATCH. -/
def fields_qosCatch : List Field :=
  [⟨0, 1, .rw, true, 0, 0, none, false, none, false, false⟩,
   ⟨32, 12, .rw, true, 0, 1, some 1821, false, none, false, false⟩,
   ⟨48, 16, .rw, true, 0, 1, some 65535, false, none, false, false⟩]

/-- Fields of QOS_BARK_CNT. -/
def fields_qosBarkCnt : List Field :=
  [⟨0, 32, .ro, false, 0, 0, none, false, none, false, false⟩]

/-- Fields of QOS_HIST. -/
def fields_qosHist : List Field :=
  [⟨0, 32, .ro, false, 0, 0, none, false, none, false, false⟩]

/-- Fields of RAS_CTRL. -/
def fields_rasCtrl : List Field :=
  [⟨0, 8, .rw, true, 6, 1, some 168, true, none, false, true⟩,
   ⟨8, 17, .rw, true, 100, 1, some 100000, false, none, false, true⟩,
   ⟨32, 16, .rw, true, 168, 1, some 65535, false, none, false, true⟩,
   ⟨48, 6, .ro, true, 8, 1, some 32, false, none, false, true⟩,
   ⟨54, 10, .rw, true, 10, 1, some 1000, false, none, false, false⟩]

/-- Fields of RAS_CMD. -/
def fields_rasCmd : List Field :=
  [⟨0, 8, .rw, true, 0, 0, none, false, none, false, false⟩,
   ⟨8, 3, .wo, true, 0, 1, some 3, false, none, false, false⟩]

/-- Fields of RAS_STATUS. -/
def fields_rasStatus : List Field :=
  [⟨0, 1, .ros, true, 0, 0, none, false, none, false, false⟩,
   ⟨1, 2, .ros, true, 0, 0, none, false, none, false, false⟩,
   ⟨3, 6, .ro, true, 0, 0, none, false, none, false, false⟩,
   ⟨9, 1, .ro, true, 0, 0, none, false, none, false, false⟩,
   ⟨10, 5, .ro, true, 0, 0, none, false, none, false, false⟩,
   ⟨15, 1, .ro, true, 0, 0, none, false, none, false, false⟩,
   ⟨16, 1, .ro, true, 0, 0, none, false, none, false, false⟩,
   ⟨17, 1, .ros, true, 0, 0, none, false, none, false, false⟩]

/-- Fields of RAS_HIST_IDX. -/
def fields_rasHistIdx : List Field :=
  [⟨0, 12, .rw, true, 0, 0, none, false, none, false, false⟩]

/-- Fields of RAS_HIST_DATA. -/
def fields_rasHistData : List Field :=
  [⟨0, 32, .ro, true, 0, 0, none, false, none, false, false⟩]

/-- Fields of RAS_VERDICT. -/
def fields_rasVerdict : List Field :=
  [⟨0, 16, .ros, false, 0, 0, none, false, none, false, false⟩,
   ⟨16, 16, .ros, false, 0, 0, none, false, none, false, false⟩,
   ⟨32, 16, .ros, false, 0, 0, none, false, none, false, false⟩,
   ⟨48, 16, .ros, false, 0, 0, none, false, none, false, false⟩]

/-- Fields of RAS_CORE. -/
def fields_rasCore : List Field :=
  [⟨0, 3, .ro, false, 0, 0, none, false, none, false, false⟩,
   ⟨3, 1, .ro, false, 0, 0, none, false, none, false, false⟩,
   ⟨4, 16, .ro, false, 0, 0, none, false, none, false, false⟩,
   ⟨20, 4, .ro, false, 0, 0, none, false, none, false, false⟩,
   ⟨24, 2, .ro, false, 0, 0, none, false, none, false, false⟩]

/-- Fields of CFG_CURTAIN. -/
def fields_cfgCurtain : List Field :=
  [⟨0, 1, .rw, true, 0, 0, none, false, none, false, false⟩,
   ⟨16, 16, .ro, false, 0, 0, none, false, none, false, false⟩]

/-- Fields of CFG_LOAD. -/
def fields_cfgLoad : List Field :=
  [⟨0, 16, .ros, false, 0, 0, none, false, none, false, false⟩,
   ⟨16, 16, .ros, false, 0, 0, none, false, none, false, false⟩]

/-- Fields of CFG_RANGE_ERR. -/
def fields_cfgRangeErr : List Field :=
  [⟨0, 28, .ros, false, 0, 0, none, false, none, false, false⟩,
   ⟨28, 2, .ros, false, 0, 0, none, false, none, false, false⟩,
   ⟨31, 1, .w1c, false, 0, 0, none, false, none, false, false⟩,
   ⟨32, 16, .ros, false, 0, 0, none, false, none, false, false⟩,
   ⟨48, 4, .ros, false, 0, 0, none, false, none, false, false⟩]

/-- Fields of CFG_CRC_REF. -/
def fields_cfgCrcRef : List Field :=
  [⟨0, 32, .rw, true, 0, 0, none, false, none, false, true⟩]

/-- Fields of CFG_CRC_LIVE. -/
def fields_cfgCrcLive : List Field :=
  [⟨0, 32, .ro, false, 0, 0, none, false, none, false, false⟩]

/-- Fields of CFG_CRC_STATUS. -/
def fields_cfgCrcStatus : List Field :=
  [⟨0, 1, .ro, false, 0, 0, none, false, none, false, false⟩,
   ⟨1, 1, .w1c, false, 0, 0, none, false, none, false, false⟩,
   ⟨2, 1, .wo, true, 0, 0, none, false, none, false, false⟩,
   ⟨3, 1, .ro, false, 0, 0, none, false, none, false, false⟩,
   ⟨16, 16, .ro, false, 0, 0, none, false, none, false, false⟩]

/-- Fields of PWR_CTRL. -/
def fields_pwrCtrl : List Field :=
  [⟨0, 14, .rw, true, 50, 1, some 10000, true, none, false, false⟩,
   ⟨16, 7, .rw, true, 95, 70, some 100, false, none, false, false⟩,
   ⟨24, 7, .rw, true, 95, 70, some 100, false, none, false, false⟩,
   ⟨32, 7, .rw, true, 85, 60, some 95, false, none, false, false⟩]

/-- Fields of PWR_CAP. -/
def fields_pwrCap : List Field :=
  [⟨0, 11, .rw, true, 1750, 600, some 1750, false, none, false, true⟩,
   ⟨16, 10, .rw, true, 10, 1, some 1000, false, none, false, false⟩,
   ⟨32, 7, .ro, false, 64, 0, none, false, none, false, false⟩,
   ⟨39, 1, .ro, false, 0, 0, none, false, none, false, false⟩]

/-- Fields of PWR_CMD. -/
def fields_pwrCmd : List Field :=
  [⟨0, 3, .wo, true, 0, 1, some 4, false, none, false, false⟩,
   ⟨3, 5, .ro, true, 0, 0, none, false, none, false, false⟩]

/-- Fields of PWR_STATUS. -/
def fields_pwrStatus : List Field :=
  [⟨0, 3, .ro, false, 0, 0, none, false, none, false, false⟩,
   ⟨4, 4, .ros, false, 0, 0, none, false, none, false, false⟩,
   ⟨32, 16, .ro, false, 0, 0, none, false, none, false, false⟩]

/-- Fields of PWR_TEMP. -/
def fields_pwrTemp : List Field :=
  [⟨0, 8, .ro, false, 0, 0, none, false, none, false, false⟩,
   ⟨8, 8, .ro, false, 0, 0, none, false, none, false, false⟩,
   ⟨16, 8, .ro, false, 0, 0, none, false, none, false, false⟩,
   ⟨24, 1, .ro, false, 0, 0, none, false, none, false, false⟩]

/-- Fields of PWR_RAIL. -/
def fields_pwrRail : List Field :=
  [⟨0, 16, .ro, false, 0, 0, none, false, none, false, false⟩,
   ⟨16, 16, .ro, false, 0, 0, none, false, none, false, false⟩,
   ⟨32, 8, .ro, false, 0, 0, none, false, none, false, false⟩,
   ⟨40, 1, .ro, false, 0, 0, none, false, none, false, false⟩,
   ⟨41, 1, .ros, false, 0, 0, none, false, none, false, false⟩,
   ⟨48, 16, .ros, false, 0, 0, none, false, none, false, false⟩]

/-- Fields of CLK_STATUS. -/
def fields_clkStatus : List Field :=
  [⟨0, 1, .ro, false, 0, 0, none, false, none, false, false⟩,
   ⟨1, 1, .ro, false, 0, 0, none, false, none, false, false⟩,
   ⟨2, 1, .ro, false, 0, 0, none, false, none, false, false⟩,
   ⟨3, 5, .ro, false, 0, 0, none, false, none, false, false⟩,
   ⟨8, 1, .ro, false, 0, 0, none, false, none, false, false⟩,
   ⟨16, 16, .ros, false, 0, 0, none, false, none, false, false⟩]

/-- Fields of STA_CTRL. -/
def fields_staCtrl : List Field :=
  [⟨0, 20, .rw, true, 1000, 100, some 1000000, false, none, false, false⟩]

/-- Fields of STA_PERIOD. -/
def fields_staPeriod : List Field :=
  [⟨0, 32, .ro, false, 0, 0, none, false, none, false, false⟩]

/-- The fields of each register, reserved bits left out (they read zero and ignore writes, R6). -/
def Reg.fields : Reg → List Field
  | .topNodeId => fields_topNodeId
  | .topDevice => fields_topDevice
  | .mgtViol => fields_mgtViol
  | .mgtViolSrc => fields_mgtViolSrc
  | .mgtTrust => fields_mgtTrust
  | .mgtEvqBase => fields_mgtEvqBase
  | .mgtEvqCfg => fields_mgtEvqCfg
  | .mgtEvqPtr => fields_mgtEvqPtr
  | .mgtEvqDrop => fields_mgtEvqDrop
  | .rotStatus => fields_rotStatus
  | .rotMboxCmd => fields_rotMboxCmd
  | .rotMboxStatus => fields_rotMboxStatus
  | .rotMboxData => fields_rotMboxData
  | .secCtrl => fields_secCtrl
  | .secPartCmd => fields_secPartCmd
  | .secKeyCmd => fields_secKeyCmd
  | .secKeyResult => fields_secKeyResult
  | .secPartStatus => fields_secPartStatus
  | .secKeyStatus => fields_secKeyStatus
  | .secCoreMap => fields_secCoreMap
  | .secPortMap => fields_secPortMap
  | .secFn => fields_secFn
  | .secLinkKey => fields_secLinkKey
  | .secLinkStat => fields_secLinkStat
  | .pciCtrl => fields_pciCtrl
  | .pciStatus => fields_pciStatus
  | .lanCtrl => fields_lanCtrl
  | .lanStatus => fields_lanStatus
  | .lanEq => fields_lanEq
  | .lanFec => fields_lanFec
  | .lanTest => fields_lanTest
  | .lanEye => fields_lanEye
  | .lnkCtrl => fields_lnkCtrl
  | .lnkAckTimeout => fields_lnkAckTimeout
  | .lnkTimers => fields_lnkTimers
  | .lnkStatus => fields_lnkStatus
  | .lnkSeq => fields_lnkSeq
  | .lnkErr => fields_lnkErr
  | .lnkEvents => fields_lnkEvents
  | .lnkCrdSize => fields_lnkCrdSize
  | .rteCtrl => fields_rteCtrl
  | .rteBank => fields_rteBank
  | .rteLost => fields_rteLost
  | .rtePort => fields_rtePort
  | .rteInflight => fields_rteInflight
  | .rteDrop => fields_rteDrop
  | .rteFence => fields_rteFence
  | .rteRoute => fields_rteRoute
  | .homExtCmd => fields_homExtCmd
  | .homExtAttr => fields_homExtAttr
  | .homExtStatus => fields_homExtStatus
  | .homExtRights => fields_homExtRights
  | .homMigCtrl => fields_homMigCtrl
  | .homMigReserve => fields_homMigReserve
  | .homMigStatus => fields_homMigStatus
  | .homMigCmd => fields_homMigCmd
  | .homHotqPtr => fields_homHotqPtr
  | .homHotqDrop => fields_homHotqDrop
  | .homGrpMatch => fields_homGrpMatch
  | .homHotqEntry => fields_homHotqEntry
  | .dirCtrl => fields_dirCtrl
  | .dirStatus => fields_dirStatus
  | .dirEcc => fields_dirEcc
  | .dirRetry => fields_dirRetry
  | .dirSlot => fields_dirSlot
  | .txnCtrl => fields_txnCtrl
  | .txnKill => fields_txnKill
  | .txnStatus => fields_txnStatus
  | .txnCount => fields_txnCount
  | .txnAbortCnt => fields_txnAbortCnt
  | .mscCtrl => fields_mscCtrl
  | .stkCtrl => fields_stkCtrl
  | .stkStatus => fields_stkStatus
  | .stkEcc => fields_stkEcc
  | .dmcCtrl => fields_dmcCtrl
  | .dmcStatus => fields_dmcStatus
  | .dmcEcc => fields_dmcEcc
  | .ptuCtrl => fields_ptuCtrl
  | .ptuStatus => fields_ptuStatus
  | .ptuStat => fields_ptuStat
  | .ptuAs => fields_ptuAs
  | .xfrCtrl => fields_xfrCtrl
  | .xfrQcmd => fields_xfrQcmd
  | .xfrStatus => fields_xfrStatus
  | .xfrStat => fields_xfrStat
  | .xfrQcfg => fields_xfrQcfg
  | .xfrQring => fields_xfrQring
  | .xfrQcpl => fields_xfrQcpl
  | .xfrRinger => fields_xfrRinger
  | .xfrQptr => fields_xfrQptr
  | .cluSeqSrc => fields_cluSeqSrc
  | .cluSeqCmd => fields_cluSeqCmd
  | .cluSeqStatus => fields_cluSeqStatus
  | .cluSave => fields_cluSave
  | .cluQcfg => fields_cluQcfg
  | .cluQring => fields_cluQring
  | .cluQcpl => fields_cluQcpl
  | .cluQptr => fields_cluQptr
  | .corStatus => fields_corStatus
  | .corPfCtrl => fields_corPfCtrl
  | .corScratchEcc => fields_corScratchEcc
  | .engFlags => fields_engFlags
  | .engRfErr => fields_engRfErr
  | .engFmt => fields_engFmt
  | .colCtrl => fields_colCtrl
  | .colKill => fields_colKill
  | .colPlanCmd => fields_colPlanCmd
  | .colPlanSrc => fields_colPlanSrc
  | .colPlanStatus => fields_colPlanStatus
  | .colStat => fields_colStat
  | .colPstat => fields_colPstat
  | .colPortRsv => fields_colPortRsv
  | .qosCtrl => fields_qosCtrl
  | .qosBarkQ => fields_qosBarkQ
  | .qosBarkU => fields_qosBarkU
  | .qosLeash => fields_qosLeash
  | .qosLstat => fields_qosLstat
  | .qosCatch => fields_qosCatch
  | .qosBarkCnt => fields_qosBarkCnt
  | .qosHist => fields_qosHist
  | .rasCtrl => fields_rasCtrl
  | .rasCmd => fields_rasCmd
  | .rasStatus => fields_rasStatus
  | .rasHistIdx => fields_rasHistIdx
  | .rasHistData => fields_rasHistData
  | .rasVerdict => fields_rasVerdict
  | .rasCore => fields_rasCore
  | .cfgCurtain => fields_cfgCurtain
  | .cfgLoad => fields_cfgLoad
  | .cfgRangeErr => fields_cfgRangeErr
  | .cfgCrcRef => fields_cfgCrcRef
  | .cfgCrcLive => fields_cfgCrcLive
  | .cfgCrcStatus => fields_cfgCrcStatus
  | .pwrCtrl => fields_pwrCtrl
  | .pwrCap => fields_pwrCap
  | .pwrCmd => fields_pwrCmd
  | .pwrStatus => fields_pwrStatus
  | .pwrTemp => fields_pwrTemp
  | .pwrRail => fields_pwrRail
  | .clkStatus => fields_clkStatus
  | .staCtrl => fields_staCtrl
  | .staPeriod => fields_staPeriod

end Sys2Proof.Machine

namespace Sys2Proof.Machine.F
open Sys2Proof.Machine

/-- TOP_NODE_ID.NODE -/
def topNodeId_node : Fld := ⟨.topNodeId, 0, 12⟩
/-- TOP_DEVICE.PART -/
def topDevice_part : Fld := ⟨.topDevice, 0, 16⟩
/-- TOP_DEVICE.STEP -/
def topDevice_step : Fld := ⟨.topDevice, 16, 4⟩
/-- TOP_DEVICE.DIE -/
def topDevice_die : Fld := ⟨.topDevice, 20, 2⟩
/-- MGT_VIOL.OFFSET -/
def mgtViol_offset : Fld := ⟨.mgtViol, 0, 28⟩
/-- MGT_VIOL.WRITE -/
def mgtViol_write : Fld := ⟨.mgtViol, 28, 1⟩
/-- MGT_VIOL.ALIAS -/
def mgtViol_alias : Fld := ⟨.mgtViol, 29, 1⟩
/-- MGT_VIOL.VALID -/
def mgtViol_valid : Fld := ⟨.mgtViol, 31, 1⟩
/-- MGT_VIOL.CAUSE -/
def mgtViol_cause : Fld := ⟨.mgtViol, 32, 3⟩
/-- MGT_VIOL.PATH -/
def mgtViol_path : Fld := ⟨.mgtViol, 36, 2⟩
/-- MGT_VIOL.FUNCTION -/
def mgtViol_function : Fld := ⟨.mgtViol, 38, 4⟩
/-- MGT_VIOL.COUNT -/
def mgtViol_count : Fld := ⟨.mgtViol, 48, 16⟩
/-- MGT_VIOL_SRC.ENDPOINT -/
def mgtViolSrc_endpoint : Fld := ⟨.mgtViolSrc, 0, 20⟩
/-- MGT_TRUST.ID -/
def mgtTrust_id : Fld := ⟨.mgtTrust, 0, 20⟩
/-- MGT_TRUST.MASK -/
def mgtTrust_mask : Fld := ⟨.mgtTrust, 20, 20⟩
/-- MGT_TRUST.VALID -/
def mgtTrust_valid : Fld := ⟨.mgtTrust, 63, 1⟩
/-- MGT_EVQ_BASE.ADDR -/
def mgtEvqBase_addr : Fld := ⟨.mgtEvqBase, 12, 52⟩
/-- MGT_EVQ_CFG.SIZE -/
def mgtEvqCfg_size : Fld := ⟨.mgtEvqCfg, 0, 4⟩
/-- MGT_EVQ_CFG.ENABLE -/
def mgtEvqCfg_enable : Fld := ⟨.mgtEvqCfg, 4, 1⟩
/-- MGT_EVQ_CFG.HOST -/
def mgtEvqCfg_host : Fld := ⟨.mgtEvqCfg, 5, 1⟩
/-- MGT_EVQ_CFG.FUNCTION -/
def mgtEvqCfg_function : Fld := ⟨.mgtEvqCfg, 6, 4⟩
/-- MGT_EVQ_CFG.VECTOR -/
def mgtEvqCfg_vector : Fld := ⟨.mgtEvqCfg, 10, 6⟩
/-- MGT_EVQ_CFG.MODERATE -/
def mgtEvqCfg_moderate : Fld := ⟨.mgtEvqCfg, 16, 8⟩
/-- MGT_EVQ_PTR.HEAD -/
def mgtEvqPtr_head : Fld := ⟨.mgtEvqPtr, 0, 12⟩
/-- MGT_EVQ_PTR.TAIL -/
def mgtEvqPtr_tail : Fld := ⟨.mgtEvqPtr, 12, 12⟩
/-- MGT_EVQ_DROP.DROPS -/
def mgtEvqDrop_drops : Fld := ⟨.mgtEvqDrop, 0, 32⟩
/-- ROT_STATUS.SLOT -/
def rotStatus_slot : Fld := ⟨.rotStatus, 0, 1⟩
/-- ROT_STATUS.CAUSE -/
def rotStatus_cause : Fld := ⟨.rotStatus, 1, 2⟩
/-- ROT_STATUS.DEBUG -/
def rotStatus_debug : Fld := ⟨.rotStatus, 3, 2⟩
/-- ROT_STATUS.FAILS -/
def rotStatus_fails : Fld := ⟨.rotStatus, 5, 3⟩
/-- ROT_STATUS.SVN -/
def rotStatus_svn : Fld := ⟨.rotStatus, 8, 24⟩
/-- ROT_MBOX_CMD.CMD -/
def rotMboxCmd_cmd : Fld := ⟨.rotMboxCmd, 0, 8⟩
/-- ROT_MBOX_CMD.LEN -/
def rotMboxCmd_len : Fld := ⟨.rotMboxCmd, 8, 13⟩
/-- ROT_MBOX_CMD.GO -/
def rotMboxCmd_go : Fld := ⟨.rotMboxCmd, 31, 1⟩
/-- ROT_MBOX_STATUS.BUSY -/
def rotMboxStatus_busy : Fld := ⟨.rotMboxStatus, 0, 1⟩
/-- ROT_MBOX_STATUS.RESULT -/
def rotMboxStatus_result : Fld := ⟨.rotMboxStatus, 1, 5⟩
/-- ROT_MBOX_STATUS.LEN -/
def rotMboxStatus_len : Fld := ⟨.rotMboxStatus, 6, 13⟩
/-- ROT_MBOX_DATA.DATA -/
def rotMboxData_data : Fld := ⟨.rotMboxData, 0, 32⟩
/-- SEC_CTRL.MODE -/
def secCtrl_mode : Fld := ⟨.secCtrl, 0, 1⟩
/-- SEC_CTRL.SWEEP_RATE -/
def secCtrl_sweepRate : Fld := ⟨.secCtrl, 1, 8⟩
/-- SEC_PART_CMD.PARTITION -/
def secPartCmd_partition : Fld := ⟨.secPartCmd, 0, 4⟩
/-- SEC_PART_CMD.OP -/
def secPartCmd_op : Fld := ⟨.secPartCmd, 4, 2⟩
/-- SEC_KEY_CMD.KEY_ID -/
def secKeyCmd_keyId : Fld := ⟨.secKeyCmd, 0, 8⟩
/-- SEC_KEY_CMD.PARTITION -/
def secKeyCmd_partition : Fld := ⟨.secKeyCmd, 8, 4⟩
/-- SEC_KEY_CMD.OP -/
def secKeyCmd_op : Fld := ⟨.secKeyCmd, 12, 2⟩
/-- SEC_KEY_RESULT.BUSY -/
def secKeyResult_busy : Fld := ⟨.secKeyResult, 0, 1⟩
/-- SEC_KEY_RESULT.RESULT -/
def secKeyResult_result : Fld := ⟨.secKeyResult, 1, 5⟩
/-- SEC_PART_STATUS.STATE -/
def secPartStatus_state : Fld := ⟨.secPartStatus, 0, 3⟩
/-- SEC_PART_STATUS.RESULT -/
def secPartStatus_result : Fld := ⟨.secPartStatus, 3, 5⟩
/-- SEC_PART_STATUS.INFLIGHT -/
def secPartStatus_inflight : Fld := ⟨.secPartStatus, 32, 32⟩
/-- SEC_KEY_STATUS.STATE -/
def secKeyStatus_state : Fld := ⟨.secKeyStatus, 0, 2⟩
/-- SEC_KEY_STATUS.GEN -/
def secKeyStatus_gen : Fld := ⟨.secKeyStatus, 2, 1⟩
/-- SEC_KEY_STATUS.PARTITION -/
def secKeyStatus_partition : Fld := ⟨.secKeyStatus, 3, 4⟩
/-- SEC_CORE_MAP.PART_0 -/
def secCoreMap_part_0 : Fld := ⟨.secCoreMap, 0, 4⟩
/-- SEC_CORE_MAP.PART_1 -/
def secCoreMap_part_1 : Fld := ⟨.secCoreMap, 5, 4⟩
/-- SEC_CORE_MAP.PART_2 -/
def secCoreMap_part_2 : Fld := ⟨.secCoreMap, 10, 4⟩
/-- SEC_CORE_MAP.PART_3 -/
def secCoreMap_part_3 : Fld := ⟨.secCoreMap, 15, 4⟩
/-- SEC_CORE_MAP.PART_4 -/
def secCoreMap_part_4 : Fld := ⟨.secCoreMap, 20, 4⟩
/-- SEC_CORE_MAP.PART_5 -/
def secCoreMap_part_5 : Fld := ⟨.secCoreMap, 25, 4⟩
/-- SEC_CORE_MAP.PART_6 -/
def secCoreMap_part_6 : Fld := ⟨.secCoreMap, 30, 4⟩
/-- SEC_CORE_MAP.PART_7 -/
def secCoreMap_part_7 : Fld := ⟨.secCoreMap, 35, 4⟩
/-- SEC_CORE_MAP.PART_8 -/
def secCoreMap_part_8 : Fld := ⟨.secCoreMap, 40, 4⟩
/-- SEC_CORE_MAP.VALID_0 -/
def secCoreMap_valid_0 : Fld := ⟨.secCoreMap, 4, 1⟩
/-- SEC_CORE_MAP.VALID_1 -/
def secCoreMap_valid_1 : Fld := ⟨.secCoreMap, 9, 1⟩
/-- SEC_CORE_MAP.VALID_2 -/
def secCoreMap_valid_2 : Fld := ⟨.secCoreMap, 14, 1⟩
/-- SEC_CORE_MAP.VALID_3 -/
def secCoreMap_valid_3 : Fld := ⟨.secCoreMap, 19, 1⟩
/-- SEC_CORE_MAP.VALID_4 -/
def secCoreMap_valid_4 : Fld := ⟨.secCoreMap, 24, 1⟩
/-- SEC_CORE_MAP.VALID_5 -/
def secCoreMap_valid_5 : Fld := ⟨.secCoreMap, 29, 1⟩
/-- SEC_CORE_MAP.VALID_6 -/
def secCoreMap_valid_6 : Fld := ⟨.secCoreMap, 34, 1⟩
/-- SEC_CORE_MAP.VALID_7 -/
def secCoreMap_valid_7 : Fld := ⟨.secCoreMap, 39, 1⟩
/-- SEC_CORE_MAP.VALID_8 -/
def secCoreMap_valid_8 : Fld := ⟨.secCoreMap, 44, 1⟩
/-- SEC_PORT_MAP.PARTITION -/
def secPortMap_partition : Fld := ⟨.secPortMap, 0, 4⟩
/-- SEC_PORT_MAP.VALID -/
def secPortMap_valid : Fld := ⟨.secPortMap, 4, 1⟩
/-- SEC_FN.PARTITION -/
def secFn_partition : Fld := ⟨.secFn, 0, 4⟩
/-- SEC_FN.VALID -/
def secFn_valid : Fld := ⟨.secFn, 4, 1⟩
/-- SEC_FN.SECURE -/
def secFn_secure : Fld := ⟨.secFn, 5, 1⟩
/-- SEC_LINK_KEY.KEY -/
def secLinkKey_key : Fld := ⟨.secLinkKey, 0, 32⟩
/-- SEC_LINK_STAT.PENDING -/
def secLinkStat_pending : Fld := ⟨.secLinkStat, 0, 1⟩
/-- SEC_LINK_STAT.LIVE -/
def secLinkStat_live : Fld := ⟨.secLinkStat, 1, 1⟩
/-- PCI_CTRL.ENABLE -/
def pciCtrl_enable : Fld := ⟨.pciCtrl, 0, 1⟩
/-- PCI_CTRL.TOTAL_VFS -/
def pciCtrl_totalVfs : Fld := ⟨.pciCtrl, 1, 4⟩
/-- PCI_STATUS.LINK_UP -/
def pciStatus_linkUp : Fld := ⟨.pciStatus, 0, 1⟩
/-- PCI_STATUS.SPEED -/
def pciStatus_speed : Fld := ⟨.pciStatus, 1, 3⟩
/-- PCI_STATUS.WIDTH -/
def pciStatus_width : Fld := ⟨.pciStatus, 4, 4⟩
/-- PCI_STATUS.NUM_VFS -/
def pciStatus_numVfs : Fld := ⟨.pciStatus, 8, 4⟩
/-- PCI_STATUS.SURPRISE_DOWNS -/
def pciStatus_surpriseDowns : Fld := ⟨.pciStatus, 32, 16⟩
/-- PCI_STATUS.CORRECTED -/
def pciStatus_corrected : Fld := ⟨.pciStatus, 48, 16⟩
/-- LAN_CTRL.EI_EN -/
def lanCtrl_eiEn : Fld := ⟨.lanCtrl, 0, 1⟩
/-- LAN_CTRL.EI_IDLE -/
def lanCtrl_eiIdle : Fld := ⟨.lanCtrl, 1, 9⟩
/-- LAN_CTRL.UNRETIRE -/
def lanCtrl_unretire : Fld := ⟨.lanCtrl, 10, 8⟩
/-- LAN_CTRL.UNC_LIMIT -/
def lanCtrl_uncLimit : Fld := ⟨.lanCtrl, 32, 8⟩
/-- LAN_CTRL.CORR_LOG2 -/
def lanCtrl_corrLog2 : Fld := ⟨.lanCtrl, 40, 5⟩
/-- LAN_CTRL.LOCK_LIMIT -/
def lanCtrl_lockLimit : Fld := ⟨.lanCtrl, 45, 3⟩
/-- LAN_STATUS.STAGE -/
def lanStatus_stage : Fld := ⟨.lanStatus, 0, 4⟩
/-- LAN_STATUS.SET -/
def lanStatus_set : Fld := ⟨.lanStatus, 4, 3⟩
/-- LAN_STATUS.REVERSED -/
def lanStatus_reversed : Fld := ⟨.lanStatus, 7, 1⟩
/-- LAN_STATUS.INVERTED -/
def lanStatus_inverted : Fld := ⟨.lanStatus, 8, 8⟩
/-- LAN_STATUS.RETIRED -/
def lanStatus_retired : Fld := ⟨.lanStatus, 16, 8⟩
/-- LAN_STATUS.FAR_RXOK -/
def lanStatus_farRxok : Fld := ⟨.lanStatus, 24, 8⟩
/-- LAN_STATUS.TX_EI -/
def lanStatus_txEi : Fld := ⟨.lanStatus, 32, 1⟩
/-- LAN_STATUS.RX_EI -/
def lanStatus_rxEi : Fld := ⟨.lanStatus, 33, 1⟩
/-- LAN_STATUS.DETECTED -/
def lanStatus_detected : Fld := ⟨.lanStatus, 40, 8⟩
/-- LAN_STATUS.TRAIN_FAILS -/
def lanStatus_trainFails : Fld := ⟨.lanStatus, 48, 16⟩
/-- LAN_EQ.PRESET -/
def lanEq_preset : Fld := ⟨.lanEq, 0, 4⟩
/-- LAN_EQ.PRE2 -/
def lanEq_pre2 : Fld := ⟨.lanEq, 4, 6⟩
/-- LAN_EQ.PRE1 -/
def lanEq_pre1 : Fld := ⟨.lanEq, 10, 6⟩
/-- LAN_EQ.MAIN -/
def lanEq_main : Fld := ⟨.lanEq, 16, 7⟩
/-- LAN_EQ.POST1 -/
def lanEq_post1 : Fld := ⟨.lanEq, 23, 6⟩
/-- LAN_FEC.CORRECTED -/
def lanFec_corrected : Fld := ⟨.lanFec, 0, 32⟩
/-- LAN_FEC.UNCORR -/
def lanFec_uncorr : Fld := ⟨.lanFec, 32, 16⟩
/-- LAN_FEC.LOCKLOSS -/
def lanFec_lockloss : Fld := ⟨.lanFec, 48, 16⟩
/-- LAN_TEST.TX_PAT -/
def lanTest_txPat : Fld := ⟨.lanTest, 0, 2⟩
/-- LAN_TEST.RX_PAT -/
def lanTest_rxPat : Fld := ⟨.lanTest, 2, 2⟩
/-- LAN_TEST.CLEAR -/
def lanTest_clear : Fld := ⟨.lanTest, 4, 1⟩
/-- LAN_TEST.SYNC -/
def lanTest_sync : Fld := ⟨.lanTest, 5, 1⟩
/-- LAN_TEST.ERRORS -/
def lanTest_errors : Fld := ⟨.lanTest, 32, 32⟩
/-- LAN_EYE.PHASE -/
def lanEye_phase : Fld := ⟨.lanEye, 0, 6⟩
/-- LAN_EYE.LEVEL -/
def lanEye_level : Fld := ⟨.lanEye, 6, 6⟩
/-- LAN_EYE.EYE -/
def lanEye_eye : Fld := ⟨.lanEye, 12, 2⟩
/-- LAN_EYE.DWELL -/
def lanEye_dwell : Fld := ⟨.lanEye, 14, 5⟩
/-- LAN_EYE.GO -/
def lanEye_go : Fld := ⟨.lanEye, 19, 1⟩
/-- LAN_EYE.DONE -/
def lanEye_done : Fld := ⟨.lanEye, 20, 1⟩
/-- LAN_EYE.MISMATCH -/
def lanEye_mismatch : Fld := ⟨.lanEye, 32, 32⟩
/-- LNK_CTRL.ENABLE -/
def lnkCtrl_enable : Fld := ⟨.lnkCtrl, 0, 1⟩
/-- LNK_CTRL.RETRAIN -/
def lnkCtrl_retrain : Fld := ⟨.lnkCtrl, 1, 1⟩
/-- LNK_CTRL.PROTECT -/
def lnkCtrl_protect : Fld := ⟨.lnkCtrl, 2, 1⟩
/-- LNK_CTRL.REPLAY_LIMIT -/
def lnkCtrl_replayLimit : Fld := ⟨.lnkCtrl, 3, 4⟩
/-- LNK_CTRL.RETRAIN_MAX -/
def lnkCtrl_retrainMax : Fld := ⟨.lnkCtrl, 7, 3⟩
/-- LNK_ACK_TIMEOUT.ACK_TIMEOUT -/
def lnkAckTimeout_ackTimeout : Fld := ⟨.lnkAckTimeout, 0, 7⟩
/-- LNK_ACK_TIMEOUT.IDLE_ACK -/
def lnkAckTimeout_idleAck : Fld := ⟨.lnkAckTimeout, 8, 7⟩
/-- LNK_ACK_TIMEOUT.LOS_TIME -/
def lnkAckTimeout_losTime : Fld := ⟨.lnkAckTimeout, 16, 8⟩
/-- LNK_TIMERS.CRD_TIMEOUT -/
def lnkTimers_crdTimeout : Fld := ⟨.lnkTimers, 0, 14⟩
/-- LNK_TIMERS.INIT_TIMEOUT -/
def lnkTimers_initTimeout : Fld := ⟨.lnkTimers, 16, 10⟩
/-- LNK_TIMERS.RETRAIN_TIMEOUT -/
def lnkTimers_retrainTimeout : Fld := ⟨.lnkTimers, 32, 14⟩
/-- LNK_TIMERS.DOWN_HOLD -/
def lnkTimers_downHold : Fld := ⟨.lnkTimers, 48, 14⟩
/-- LNK_STATUS.STATE -/
def lnkStatus_state : Fld := ⟨.lnkStatus, 0, 3⟩
/-- LNK_STATUS.WIDTH -/
def lnkStatus_width : Fld := ⟨.lnkStatus, 3, 2⟩
/-- LNK_STATUS.PROTECT_LIVE -/
def lnkStatus_protectLive : Fld := ⟨.lnkStatus, 5, 1⟩
/-- LNK_STATUS.PEER_NODE -/
def lnkStatus_peerNode : Fld := ⟨.lnkStatus, 8, 12⟩
/-- LNK_STATUS.PEER_PORT -/
def lnkStatus_peerPort : Fld := ⟨.lnkStatus, 20, 8⟩
/-- LNK_STATUS.DOWN_CAUSE -/
def lnkStatus_downCause : Fld := ⟨.lnkStatus, 28, 4⟩
/-- LNK_STATUS.RTT -/
def lnkStatus_rtt : Fld := ⟨.lnkStatus, 32, 16⟩
/-- LNK_SEQ.TX_NEXT -/
def lnkSeq_txNext : Fld := ⟨.lnkSeq, 0, 14⟩
/-- LNK_SEQ.TX_OLDEST -/
def lnkSeq_txOldest : Fld := ⟨.lnkSeq, 16, 14⟩
/-- LNK_SEQ.RX_EXPECT -/
def lnkSeq_rxExpect : Fld := ⟨.lnkSeq, 32, 14⟩
/-- LNK_SEQ.OUTSTANDING -/
def lnkSeq_outstanding : Fld := ⟨.lnkSeq, 48, 12⟩
/-- LNK_ERR.CRC_ERR -/
def lnkErr_crcErr : Fld := ⟨.lnkErr, 0, 32⟩
/-- LNK_ERR.NAK_TX -/
def lnkErr_nakTx : Fld := ⟨.lnkErr, 32, 16⟩
/-- LNK_ERR.REPLAYS -/
def lnkErr_replays : Fld := ⟨.lnkErr, 48, 16⟩
/-- LNK_EVENTS.RETRAINS -/
def lnkEvents_retrains : Fld := ⟨.lnkEvents, 0, 16⟩
/-- LNK_EVENTS.DOWNS -/
def lnkEvents_downs : Fld := ⟨.lnkEvents, 16, 16⟩
/-- LNK_EVENTS.CRD_TIMEOUTS -/
def lnkEvents_crdTimeouts : Fld := ⟨.lnkEvents, 32, 16⟩
/-- LNK_EVENTS.AUTH_FAIL -/
def lnkEvents_authFail : Fld := ⟨.lnkEvents, 48, 16⟩
/-- LNK_CRD_SIZE.CLASS_0 -/
def lnkCrdSize_class_0 : Fld := ⟨.lnkCrdSize, 0, 11⟩
/-- LNK_CRD_SIZE.CLASS_1 -/
def lnkCrdSize_class_1 : Fld := ⟨.lnkCrdSize, 16, 11⟩
/-- LNK_CRD_SIZE.CLASS_2 -/
def lnkCrdSize_class_2 : Fld := ⟨.lnkCrdSize, 32, 11⟩
/-- LNK_CRD_SIZE.CLASS_3 -/
def lnkCrdSize_class_3 : Fld := ⟨.lnkCrdSize, 48, 11⟩
/-- RTE_CTRL.CPL_TIMEOUT -/
def rteCtrl_cplTimeout : Fld := ⟨.rteCtrl, 0, 14⟩
/-- RTE_CTRL.HOLD_LIMIT -/
def rteCtrl_holdLimit : Fld := ⟨.rteCtrl, 14, 10⟩
/-- RTE_CTRL.FENCE_HOLD -/
def rteCtrl_fenceHold : Fld := ⟨.rteCtrl, 24, 8⟩
/-- RTE_BANK.INJ -/
def rteBank_inj : Fld := ⟨.rteBank, 0, 1⟩
/-- RTE_BANK.INJ_LIVE -/
def rteBank_injLive : Fld := ⟨.rteBank, 1, 1⟩
/-- RTE_BANK.HELD_0 -/
def rteBank_held_0 : Fld := ⟨.rteBank, 2, 1⟩
/-- RTE_BANK.HELD_1 -/
def rteBank_held_1 : Fld := ⟨.rteBank, 3, 1⟩
/-- RTE_LOST.LOST -/
def rteLost_lost : Fld := ⟨.rteLost, 0, 32⟩
/-- RTE_PORT.TYPE -/
def rtePort_type : Fld := ⟨.rtePort, 0, 2⟩
/-- RTE_PORT.UP -/
def rtePort_up : Fld := ⟨.rtePort, 2, 1⟩
/-- RTE_PORT.PEER -/
def rtePort_peer : Fld := ⟨.rtePort, 3, 12⟩
/-- RTE_INFLIGHT.BANK0 -/
def rteInflight_bank0 : Fld := ⟨.rteInflight, 0, 32⟩
/-- RTE_INFLIGHT.BANK1 -/
def rteInflight_bank1 : Fld := ⟨.rteInflight, 32, 32⟩
/-- RTE_DROP.NO_ROUTE -/
def rteDrop_noRoute : Fld := ⟨.rteDrop, 0, 16⟩
/-- RTE_DROP.HOLD -/
def rteDrop_hold : Fld := ⟨.rteDrop, 16, 16⟩
/-- RTE_DROP.SPOOF -/
def rteDrop_spoof : Fld := ⟨.rteDrop, 32, 10⟩
/-- RTE_DROP.MALFORMED -/
def rteDrop_malformed : Fld := ⟨.rteDrop, 42, 10⟩
/-- RTE_DROP.MGT -/
def rteDrop_mgt : Fld := ⟨.rteDrop, 52, 12⟩
/-- RTE_FENCE.USED -/
def rteFence_used : Fld := ⟨.rteFence, 0, 11⟩
/-- RTE_FENCE.EXPIRED -/
def rteFence_expired : Fld := ⟨.rteFence, 32, 32⟩
/-- RTE_ROUTE.PORT_0 -/
def rteRoute_port_0 : Fld := ⟨.rteRoute, 0, 6⟩
/-- RTE_ROUTE.PORT_1 -/
def rteRoute_port_1 : Fld := ⟨.rteRoute, 8, 6⟩
/-- RTE_ROUTE.PORT_2 -/
def rteRoute_port_2 : Fld := ⟨.rteRoute, 16, 6⟩
/-- RTE_ROUTE.PORT_3 -/
def rteRoute_port_3 : Fld := ⟨.rteRoute, 24, 6⟩
/-- RTE_ROUTE.VALID_0 -/
def rteRoute_valid_0 : Fld := ⟨.rteRoute, 6, 1⟩
/-- RTE_ROUTE.VALID_1 -/
def rteRoute_valid_1 : Fld := ⟨.rteRoute, 14, 1⟩
/-- RTE_ROUTE.VALID_2 -/
def rteRoute_valid_2 : Fld := ⟨.rteRoute, 22, 1⟩
/-- RTE_ROUTE.VALID_3 -/
def rteRoute_valid_3 : Fld := ⟨.rteRoute, 30, 1⟩
/-- HOM_EXT_CMD.EXT_ID -/
def homExtCmd_extId : Fld := ⟨.homExtCmd, 0, 12⟩
/-- HOM_EXT_CMD.OP -/
def homExtCmd_op : Fld := ⟨.homExtCmd, 12, 4⟩
/-- HOM_EXT_CMD.BASE -/
def homExtCmd_base : Fld := ⟨.homExtCmd, 16, 22⟩
/-- HOM_EXT_CMD.COUNT -/
def homExtCmd_count : Fld := ⟨.homExtCmd, 38, 22⟩
/-- HOM_EXT_ATTR.TIER -/
def homExtAttr_tier : Fld := ⟨.homExtAttr, 0, 1⟩
/-- HOM_EXT_ATTR.PLACE -/
def homExtAttr_place : Fld := ⟨.homExtAttr, 1, 2⟩
/-- HOM_EXT_ATTR.COHERENT -/
def homExtAttr_coherent : Fld := ⟨.homExtAttr, 3, 1⟩
/-- HOM_EXT_ATTR.COUNT_EN -/
def homExtAttr_countEn : Fld := ⟨.homExtAttr, 4, 1⟩
/-- HOM_EXT_ATTR.PARTITION -/
def homExtAttr_partition : Fld := ⟨.homExtAttr, 8, 4⟩
/-- HOM_EXT_ATTR.KEY_ID -/
def homExtAttr_keyId : Fld := ⟨.homExtAttr, 16, 8⟩
/-- HOM_EXT_STATUS.EXT_ID -/
def homExtStatus_extId : Fld := ⟨.homExtStatus, 0, 12⟩
/-- HOM_EXT_STATUS.STATE -/
def homExtStatus_state : Fld := ⟨.homExtStatus, 12, 3⟩
/-- HOM_EXT_STATUS.BUSY -/
def homExtStatus_busy : Fld := ⟨.homExtStatus, 15, 1⟩
/-- HOM_EXT_STATUS.RESULT -/
def homExtStatus_result : Fld := ⟨.homExtStatus, 16, 5⟩
/-- HOM_EXT_RIGHTS.GROUP -/
def homExtRights_group : Fld := ⟨.homExtRights, 0, 8⟩
/-- HOM_EXT_RIGHTS.RD -/
def homExtRights_rd : Fld := ⟨.homExtRights, 8, 1⟩
/-- HOM_EXT_RIGHTS.WR -/
def homExtRights_wr : Fld := ⟨.homExtRights, 9, 1⟩
/-- HOM_EXT_RIGHTS.AT -/
def homExtRights_at : Fld := ⟨.homExtRights, 10, 1⟩
/-- HOM_EXT_RIGHTS.VALID -/
def homExtRights_valid : Fld := ⟨.homExtRights, 15, 1⟩
/-- HOM_MIG_CTRL.HOT_THRESH -/
def homMigCtrl_hotThresh : Fld := ⟨.homMigCtrl, 0, 16⟩
/-- HOM_MIG_CTRL.AGE -/
def homMigCtrl_age : Fld := ⟨.homMigCtrl, 16, 14⟩
/-- HOM_MIG_CTRL.AUTO -/
def homMigCtrl_auto : Fld := ⟨.homMigCtrl, 30, 1⟩
/-- HOM_MIG_CTRL.RATE -/
def homMigCtrl_rate : Fld := ⟨.homMigCtrl, 32, 13⟩
/-- HOM_MIG_CTRL.LOW_WM -/
def homMigCtrl_lowWm : Fld := ⟨.homMigCtrl, 48, 8⟩
/-- HOM_MIG_CTRL.HIGH_WM -/
def homMigCtrl_highWm : Fld := ⟨.homMigCtrl, 56, 8⟩
/-- HOM_MIG_RESERVE.EXT_ID -/
def homMigReserve_extId : Fld := ⟨.homMigReserve, 0, 12⟩
/-- HOM_MIG_RESERVE.VALID -/
def homMigReserve_valid : Fld := ⟨.homMigReserve, 12, 1⟩
/-- HOM_MIG_STATUS.BUSY -/
def homMigStatus_busy : Fld := ⟨.homMigStatus, 0, 1⟩
/-- HOM_MIG_STATUS.RESULT -/
def homMigStatus_result : Fld := ⟨.homMigStatus, 1, 5⟩
/-- HOM_MIG_STATUS.FREE -/
def homMigStatus_free : Fld := ⟨.homMigStatus, 8, 24⟩
/-- HOM_MIG_CMD.PAGE -/
def homMigCmd_page : Fld := ⟨.homMigCmd, 0, 36⟩
/-- HOM_MIG_CMD.SHARE -/
def homMigCmd_share : Fld := ⟨.homMigCmd, 36, 2⟩
/-- HOM_MIG_CMD.OP -/
def homMigCmd_op : Fld := ⟨.homMigCmd, 38, 2⟩
/-- HOM_HOTQ_PTR.HEAD -/
def homHotqPtr_head : Fld := ⟨.homHotqPtr, 0, 12⟩
/-- HOM_HOTQ_PTR.TAIL -/
def homHotqPtr_tail : Fld := ⟨.homHotqPtr, 12, 12⟩
/-- HOM_HOTQ_DROP.DROPS -/
def homHotqDrop_drops : Fld := ⟨.homHotqDrop, 0, 32⟩
/-- HOM_GRP_MATCH.ID -/
def homGrpMatch_id : Fld := ⟨.homGrpMatch, 0, 20⟩
/-- HOM_GRP_MATCH.MASK -/
def homGrpMatch_mask : Fld := ⟨.homGrpMatch, 20, 20⟩
/-- HOM_GRP_MATCH.GROUP -/
def homGrpMatch_group : Fld := ⟨.homGrpMatch, 40, 8⟩
/-- HOM_GRP_MATCH.PARTITION -/
def homGrpMatch_partition : Fld := ⟨.homGrpMatch, 48, 4⟩
/-- HOM_GRP_MATCH.VALID -/
def homGrpMatch_valid : Fld := ⟨.homGrpMatch, 63, 1⟩
/-- HOM_HOTQ_ENTRY.PAGE -/
def homHotqEntry_page : Fld := ⟨.homHotqEntry, 0, 36⟩
/-- HOM_HOTQ_ENTRY.ENDPOINT -/
def homHotqEntry_endpoint : Fld := ⟨.homHotqEntry, 36, 20⟩
/-- HOM_HOTQ_ENTRY.COUNT -/
def homHotqEntry_count : Fld := ⟨.homHotqEntry, 56, 16⟩
/-- HOM_HOTQ_ENTRY.TIER -/
def homHotqEntry_tier : Fld := ⟨.homHotqEntry, 72, 1⟩
/-- HOM_HOTQ_ENTRY.PARTITION -/
def homHotqEntry_partition : Fld := ⟨.homHotqEntry, 73, 4⟩
/-- HOM_HOTQ_ENTRY.DIE -/
def homHotqEntry_die : Fld := ⟨.homHotqEntry, 77, 2⟩
/-- HOM_HOTQ_ENTRY.PROMOTED -/
def homHotqEntry_promoted : Fld := ⟨.homHotqEntry, 79, 1⟩
/-- HOM_HOTQ_ENTRY.EXT_ID -/
def homHotqEntry_extId : Fld := ⟨.homHotqEntry, 80, 12⟩
/-- DIR_CTRL.FWD_TIMEOUT -/
def dirCtrl_fwdTimeout : Fld := ⟨.dirCtrl, 0, 10⟩
/-- DIR_CTRL.HINT_EN -/
def dirCtrl_hintEn : Fld := ⟨.dirCtrl, 10, 1⟩
/-- DIR_CTRL.GRANT_E -/
def dirCtrl_grantE : Fld := ⟨.dirCtrl, 11, 1⟩
/-- DIR_CTRL.SCRUB -/
def dirCtrl_scrub : Fld := ⟨.dirCtrl, 12, 10⟩
/-- DIR_STATUS.REQ_USED -/
def dirStatus_reqUsed : Fld := ⟨.dirStatus, 0, 13⟩
/-- DIR_STATUS.SWEEP -/
def dirStatus_sweep : Fld := ⟨.dirStatus, 13, 1⟩
/-- DIR_STATUS.SWEEP_SLOT -/
def dirStatus_sweepSlot : Fld := ⟨.dirStatus, 14, 7⟩
/-- DIR_STATUS.HALTED -/
def dirStatus_halted : Fld := ⟨.dirStatus, 21, 1⟩
/-- DIR_ECC.CORRECTED -/
def dirEcc_corrected : Fld := ⟨.dirEcc, 0, 32⟩
/-- DIR_ECC.UNCORR -/
def dirEcc_uncorr : Fld := ⟨.dirEcc, 32, 16⟩
/-- DIR_ECC.TIMEOUTS -/
def dirEcc_timeouts : Fld := ⟨.dirEcc, 48, 16⟩
/-- DIR_RETRY.FULL -/
def dirRetry_full : Fld := ⟨.dirRetry, 0, 32⟩
/-- DIR_RETRY.NO_WAY -/
def dirRetry_noWay : Fld := ⟨.dirRetry, 32, 32⟩
/-- DIR_SLOT.ENDPOINT -/
def dirSlot_endpoint : Fld := ⟨.dirSlot, 0, 20⟩
/-- DIR_SLOT.PARTITION -/
def dirSlot_partition : Fld := ⟨.dirSlot, 20, 4⟩
/-- DIR_SLOT.STATE -/
def dirSlot_state : Fld := ⟨.dirSlot, 24, 3⟩
/-- DIR_SLOT.CMD -/
def dirSlot_cmd : Fld := ⟨.dirSlot, 28, 2⟩
/-- TXN_CTRL.TIMEOUT -/
def txnCtrl_timeout : Fld := ⟨.txnCtrl, 0, 16⟩
/-- TXN_KILL.ENDPOINT -/
def txnKill_endpoint : Fld := ⟨.txnKill, 0, 20⟩
/-- TXN_KILL.GO -/
def txnKill_go : Fld := ⟨.txnKill, 31, 1⟩
/-- TXN_STATUS.OPEN -/
def txnStatus_open : Fld := ⟨.txnStatus, 0, 11⟩
/-- TXN_STATUS.WBUF -/
def txnStatus_wbuf : Fld := ⟨.txnStatus, 11, 15⟩
/-- TXN_COUNT.COMMITS -/
def txnCount_commits : Fld := ⟨.txnCount, 0, 32⟩
/-- TXN_COUNT.ABORTS -/
def txnCount_aborts : Fld := ⟨.txnCount, 32, 32⟩
/-- TXN_ABORT_CNT.COUNT -/
def txnAbortCnt_count : Fld := ⟨.txnAbortCnt, 0, 32⟩
/-- MSC_CTRL.ALLOC_T1 -/
def mscCtrl_allocT1 : Fld := ⟨.mscCtrl, 0, 1⟩
/-- MSC_CTRL.ALLOC_T2 -/
def mscCtrl_allocT2 : Fld := ⟨.mscCtrl, 1, 1⟩
/-- MSC_CTRL.PF_EN -/
def mscCtrl_pfEn : Fld := ⟨.mscCtrl, 2, 1⟩
/-- MSC_CTRL.PF_DIST -/
def mscCtrl_pfDist : Fld := ⟨.mscCtrl, 3, 7⟩
/-- MSC_CTRL.FLUSH -/
def mscCtrl_flush : Fld := ⟨.mscCtrl, 16, 1⟩
/-- MSC_CTRL.FLUSH_BUSY -/
def mscCtrl_flushBusy : Fld := ⟨.mscCtrl, 17, 1⟩
/-- STK_CTRL.SR_IDLE -/
def stkCtrl_srIdle : Fld := ⟨.stkCtrl, 0, 14⟩
/-- STK_CTRL.STARVE -/
def stkCtrl_starve : Fld := ⟨.stkCtrl, 16, 8⟩
/-- STK_STATUS.TRAINED -/
def stkStatus_trained : Fld := ⟨.stkStatus, 0, 1⟩
/-- STK_STATUS.IN_SR -/
def stkStatus_inSr : Fld := ⟨.stkStatus, 1, 1⟩
/-- STK_STATUS.TEMP -/
def stkStatus_temp : Fld := ⟨.stkStatus, 2, 8⟩
/-- STK_STATUS.REF_MULT -/
def stkStatus_refMult : Fld := ⟨.stkStatus, 10, 2⟩
/-- STK_ECC.CORRECTED -/
def stkEcc_corrected : Fld := ⟨.stkEcc, 0, 32⟩
/-- STK_ECC.UNCORR -/
def stkEcc_uncorr : Fld := ⟨.stkEcc, 32, 16⟩
/-- DMC_CTRL.SR_IDLE -/
def dmcCtrl_srIdle : Fld := ⟨.dmcCtrl, 0, 14⟩
/-- DMC_CTRL.MAP -/
def dmcCtrl_map : Fld := ⟨.dmcCtrl, 14, 2⟩
/-- DMC_CTRL.STARVE -/
def dmcCtrl_starve : Fld := ⟨.dmcCtrl, 16, 8⟩
/-- DMC_STATUS.DIMMS -/
def dmcStatus_dimms : Fld := ⟨.dmcStatus, 0, 2⟩
/-- DMC_STATUS.DIMM_CAP -/
def dmcStatus_dimmCap : Fld := ⟨.dmcStatus, 2, 2⟩
/-- DMC_STATUS.RANK_LOG2 -/
def dmcStatus_rankLog2 : Fld := ⟨.dmcStatus, 4, 3⟩
/-- DMC_STATUS.TRAINED -/
def dmcStatus_trained : Fld := ⟨.dmcStatus, 7, 1⟩
/-- DMC_STATUS.IN_SR -/
def dmcStatus_inSr : Fld := ⟨.dmcStatus, 8, 1⟩
/-- DMC_STATUS.TEMP -/
def dmcStatus_temp : Fld := ⟨.dmcStatus, 9, 8⟩
/-- DMC_ECC.CORRECTED -/
def dmcEcc_corrected : Fld := ⟨.dmcEcc, 0, 32⟩
/-- DMC_ECC.UNCORR -/
def dmcEcc_uncorr : Fld := ⟨.dmcEcc, 32, 16⟩
/-- PTU_CTRL.GEN_RETRY -/
def ptuCtrl_genRetry : Fld := ⟨.ptuCtrl, 0, 8⟩
/-- PTU_CTRL.CORE_TC -/
def ptuCtrl_coreTc : Fld := ⟨.ptuCtrl, 8, 1⟩
/-- PTU_STATUS.EPOCH -/
def ptuStatus_epoch : Fld := ⟨.ptuStatus, 0, 1⟩
/-- PTU_STATUS.INV_BUSY -/
def ptuStatus_invBusy : Fld := ⟨.ptuStatus, 1, 1⟩
/-- PTU_STATUS.WALKS -/
def ptuStatus_walks : Fld := ⟨.ptuStatus, 2, 6⟩
/-- PTU_STAT.MISSES -/
def ptuStat_misses : Fld := ⟨.ptuStat, 0, 32⟩
/-- PTU_STAT.FAULTS -/
def ptuStat_faults : Fld := ⟨.ptuStat, 32, 32⟩
/-- PTU_AS.ASD -/
def ptuAs_asd : Fld := ⟨.ptuAs, 7, 45⟩
/-- PTU_AS.PARTITION -/
def ptuAs_partition : Fld := ⟨.ptuAs, 52, 4⟩
/-- PTU_AS.VALID -/
def ptuAs_valid : Fld := ⟨.ptuAs, 63, 1⟩
/-- XFR_CTRL.MIG_MAX -/
def xfrCtrl_migMax : Fld := ⟨.xfrCtrl, 0, 4⟩
/-- XFR_QCMD.QUEUE -/
def xfrQcmd_queue : Fld := ⟨.xfrQcmd, 0, 7⟩
/-- XFR_QCMD.OP -/
def xfrQcmd_op : Fld := ⟨.xfrQcmd, 8, 2⟩
/-- XFR_STATUS.USE -/
def xfrStatus_use : Fld := ⟨.xfrStatus, 0, 2⟩
/-- XFR_STATUS.QUEUE -/
def xfrStatus_queue : Fld := ⟨.xfrStatus, 2, 7⟩
/-- XFR_STATUS.EPOCH -/
def xfrStatus_epoch : Fld := ⟨.xfrStatus, 9, 1⟩
/-- XFR_STAT.BYTES -/
def xfrStat_bytes : Fld := ⟨.xfrStat, 0, 48⟩
/-- XFR_STAT.STOPS -/
def xfrStat_stops : Fld := ⟨.xfrStat, 48, 16⟩
/-- XFR_QCFG.SIZE -/
def xfrQcfg_size : Fld := ⟨.xfrQcfg, 0, 4⟩
/-- XFR_QCFG.PARTITION -/
def xfrQcfg_partition : Fld := ⟨.xfrQcfg, 4, 4⟩
/-- XFR_QCFG.ENABLE -/
def xfrQcfg_enable : Fld := ⟨.xfrQcfg, 8, 1⟩
/-- XFR_QCFG.DIE -/
def xfrQcfg_die : Fld := ⟨.xfrQcfg, 9, 2⟩
/-- XFR_QCFG.ASID -/
def xfrQcfg_asid : Fld := ⟨.xfrQcfg, 12, 10⟩
/-- XFR_QCFG.MAXENG -/
def xfrQcfg_maxeng : Fld := ⟨.xfrQcfg, 22, 4⟩
/-- XFR_QCFG.PRINCIPAL -/
def xfrQcfg_principal : Fld := ⟨.xfrQcfg, 32, 20⟩
/-- XFR_QRING.OFFSET -/
def xfrQring_offset : Fld := ⟨.xfrQring, 12, 40⟩
/-- XFR_QCPL.OFFSET -/
def xfrQcpl_offset : Fld := ⟨.xfrQcpl, 12, 40⟩
/-- XFR_RINGER.ID -/
def xfrRinger_id : Fld := ⟨.xfrRinger, 0, 20⟩
/-- XFR_RINGER.MASK -/
def xfrRinger_mask : Fld := ⟨.xfrRinger, 20, 20⟩
/-- XFR_QPTR.TAIL -/
def xfrQptr_tail : Fld := ⟨.xfrQptr, 0, 12⟩
/-- XFR_QPTR.HEAD -/
def xfrQptr_head : Fld := ⟨.xfrQptr, 12, 12⟩
/-- XFR_QPTR.CHEAD -/
def xfrQptr_chead : Fld := ⟨.xfrQptr, 32, 12⟩
/-- XFR_QPTR.CTAIL -/
def xfrQptr_ctail : Fld := ⟨.xfrQptr, 44, 12⟩
/-- CLU_SEQ_SRC.OFFSET -/
def cluSeqSrc_offset : Fld := ⟨.cluSeqSrc, 0, 52⟩
/-- CLU_SEQ_CMD.HANDLE -/
def cluSeqCmd_handle : Fld := ⟨.cluSeqCmd, 0, 8⟩
/-- CLU_SEQ_CMD.LENGTH -/
def cluSeqCmd_length : Fld := ⟨.cluSeqCmd, 8, 13⟩
/-- CLU_SEQ_CMD.PARTITION -/
def cluSeqCmd_partition : Fld := ⟨.cluSeqCmd, 24, 4⟩
/-- CLU_SEQ_CMD.OP -/
def cluSeqCmd_op : Fld := ⟨.cluSeqCmd, 28, 2⟩
/-- CLU_SEQ_STATUS.BUSY -/
def cluSeqStatus_busy : Fld := ⟨.cluSeqStatus, 0, 1⟩
/-- CLU_SEQ_STATUS.RESULT -/
def cluSeqStatus_result : Fld := ⟨.cluSeqStatus, 1, 5⟩
/-- CLU_SEQ_STATUS.FAIL_INDEX -/
def cluSeqStatus_failIndex : Fld := ⟨.cluSeqStatus, 8, 12⟩
/-- CLU_SEQ_STATUS.FAIL_RULE -/
def cluSeqStatus_failRule : Fld := ⟨.cluSeqStatus, 20, 4⟩
/-- CLU_SEQ_STATUS.FREE -/
def cluSeqStatus_free : Fld := ⟨.cluSeqStatus, 32, 16⟩
/-- CLU_SAVE.EXT_ID -/
def cluSave_extId : Fld := ⟨.cluSave, 0, 12⟩
/-- CLU_SAVE.VALID -/
def cluSave_valid : Fld := ⟨.cluSave, 12, 1⟩
/-- CLU_SAVE.FREE -/
def cluSave_free : Fld := ⟨.cluSave, 13, 17⟩
/-- CLU_QCFG.SIZE -/
def cluQcfg_size : Fld := ⟨.cluQcfg, 0, 4⟩
/-- CLU_QCFG.PARTITION -/
def cluQcfg_partition : Fld := ⟨.cluQcfg, 4, 4⟩
/-- CLU_QCFG.ENABLE -/
def cluQcfg_enable : Fld := ⟨.cluQcfg, 8, 1⟩
/-- CLU_QCFG.ASID -/
def cluQcfg_asid : Fld := ⟨.cluQcfg, 12, 10⟩
/-- CLU_QCFG.WEIGHT -/
def cluQcfg_weight : Fld := ⟨.cluQcfg, 22, 4⟩
/-- CLU_QCFG.PRINCIPAL -/
def cluQcfg_principal : Fld := ⟨.cluQcfg, 32, 20⟩
/-- CLU_QRING.OFFSET -/
def cluQring_offset : Fld := ⟨.cluQring, 12, 40⟩
/-- CLU_QCPL.OFFSET -/
def cluQcpl_offset : Fld := ⟨.cluQcpl, 12, 40⟩
/-- CLU_QPTR.TAIL -/
def cluQptr_tail : Fld := ⟨.cluQptr, 0, 12⟩
/-- CLU_QPTR.HEAD -/
def cluQptr_head : Fld := ⟨.cluQptr, 12, 12⟩
/-- CLU_QPTR.CHEAD -/
def cluQptr_chead : Fld := ⟨.cluQptr, 32, 12⟩
/-- CLU_QPTR.CTAIL -/
def cluQptr_ctail : Fld := ⟨.cluQptr, 44, 12⟩
/-- COR_STATUS.ROLE -/
def corStatus_role : Fld := ⟨.corStatus, 0, 2⟩
/-- COR_STATUS.CTX_USED -/
def corStatus_ctxUsed : Fld := ⟨.corStatus, 2, 8⟩
/-- COR_STATUS.MARGINED -/
def corStatus_margined : Fld := ⟨.corStatus, 10, 1⟩
/-- COR_PF_CTRL.EN -/
def corPfCtrl_en : Fld := ⟨.corPfCtrl, 0, 1⟩
/-- COR_PF_CTRL.DIST -/
def corPfCtrl_dist : Fld := ⟨.corPfCtrl, 1, 6⟩
/-- COR_SCRATCH_ECC.CORRECTED -/
def corScratchEcc_corrected : Fld := ⟨.corScratchEcc, 0, 32⟩
/-- COR_SCRATCH_ECC.UNCORR -/
def corScratchEcc_uncorr : Fld := ⟨.corScratchEcc, 32, 16⟩
/-- ENG_FLAGS.FLAGS_0 -/
def engFlags_flags_0 : Fld := ⟨.engFlags, 0, 4⟩
/-- ENG_FLAGS.FLAGS_1 -/
def engFlags_flags_1 : Fld := ⟨.engFlags, 4, 4⟩
/-- ENG_FLAGS.FLAGS_2 -/
def engFlags_flags_2 : Fld := ⟨.engFlags, 8, 4⟩
/-- ENG_FLAGS.FLAGS_3 -/
def engFlags_flags_3 : Fld := ⟨.engFlags, 12, 4⟩
/-- ENG_FLAGS.FLAGS_4 -/
def engFlags_flags_4 : Fld := ⟨.engFlags, 16, 4⟩
/-- ENG_FLAGS.FLAGS_5 -/
def engFlags_flags_5 : Fld := ⟨.engFlags, 20, 4⟩
/-- ENG_FLAGS.FLAGS_6 -/
def engFlags_flags_6 : Fld := ⟨.engFlags, 24, 4⟩
/-- ENG_FLAGS.FLAGS_7 -/
def engFlags_flags_7 : Fld := ⟨.engFlags, 28, 4⟩
/-- ENG_RF_ERR.CORRECTED -/
def engRfErr_corrected : Fld := ⟨.engRfErr, 0, 32⟩
/-- ENG_RF_ERR.UNCORR -/
def engRfErr_uncorr : Fld := ⟨.engRfErr, 32, 16⟩
/-- ENG_FMT.CLASS -/
def engFmt_class : Fld := ⟨.engFmt, 0, 4⟩
/-- ENG_FMT.VALID -/
def engFmt_valid : Fld := ⟨.engFmt, 4, 1⟩
/-- ENG_FMT.WIDTH -/
def engFmt_width : Fld := ⟨.engFmt, 8, 5⟩
/-- ENG_FMT.EXP -/
def engFmt_exp : Fld := ⟨.engFmt, 16, 4⟩
/-- ENG_FMT.MAN -/
def engFmt_man : Fld := ⟨.engFmt, 20, 5⟩
/-- ENG_FMT.BIAS -/
def engFmt_bias : Fld := ⟨.engFmt, 32, 8⟩
/-- ENG_FMT.SPECIALS -/
def engFmt_specials : Fld := ⟨.engFmt, 40, 2⟩
/-- ENG_FMT.SAT -/
def engFmt_sat : Fld := ⟨.engFmt, 42, 1⟩
/-- ENG_FMT.FTZ -/
def engFmt_ftz : Fld := ⟨.engFmt, 43, 1⟩
/-- ENG_FMT.ROUND -/
def engFmt_round : Fld := ⟨.engFmt, 44, 3⟩
/-- ENG_FMT.ELEM -/
def engFmt_elem : Fld := ⟨.engFmt, 48, 6⟩
/-- ENG_FMT.BLOCK -/
def engFmt_block : Fld := ⟨.engFmt, 56, 7⟩
/-- ENG_FMT.SCALE_MODE -/
def engFmt_scaleMode : Fld := ⟨.engFmt, 63, 1⟩
/-- ENG_FMT.SR_BITS -/
def engFmt_srBits : Fld := ⟨.engFmt, 64, 5⟩
/-- COL_CTRL.ARM_TIMEOUT -/
def colCtrl_armTimeout : Fld := ⟨.colCtrl, 0, 14⟩
/-- COL_CTRL.FLOOR -/
def colCtrl_floor : Fld := ⟨.colCtrl, 14, 4⟩
/-- COL_KILL.ENDPOINT -/
def colKill_endpoint : Fld := ⟨.colKill, 0, 20⟩
/-- COL_KILL.GO -/
def colKill_go : Fld := ⟨.colKill, 31, 1⟩
/-- COL_PLAN_CMD.PLAN -/
def colPlanCmd_plan : Fld := ⟨.colPlanCmd, 0, 6⟩
/-- COL_PLAN_CMD.OP -/
def colPlanCmd_op : Fld := ⟨.colPlanCmd, 8, 2⟩
/-- COL_PLAN_SRC.OFFSET -/
def colPlanSrc_offset : Fld := ⟨.colPlanSrc, 0, 52⟩
/-- COL_PLAN_STATUS.STATE -/
def colPlanStatus_state : Fld := ⟨.colPlanStatus, 0, 3⟩
/-- COL_PLAN_STATUS.RUNNING -/
def colPlanStatus_running : Fld := ⟨.colPlanStatus, 3, 1⟩
/-- COL_PLAN_STATUS.RESULT -/
def colPlanStatus_result : Fld := ⟨.colPlanStatus, 4, 5⟩
/-- COL_PLAN_STATUS.CAUSE -/
def colPlanStatus_cause : Fld := ⟨.colPlanStatus, 9, 8⟩
/-- COL_PLAN_STATUS.RUN -/
def colPlanStatus_run : Fld := ⟨.colPlanStatus, 17, 9⟩
/-- COL_PLAN_STATUS.GEN -/
def colPlanStatus_gen : Fld := ⟨.colPlanStatus, 32, 8⟩
/-- COL_PLAN_STATUS.FAILED -/
def colPlanStatus_failed : Fld := ⟨.colPlanStatus, 40, 9⟩
/-- COL_PLAN_STATUS.FAILED_VALID -/
def colPlanStatus_failedValid : Fld := ⟨.colPlanStatus, 49, 1⟩
/-- COL_STAT.RUNS -/
def colStat_runs : Fld := ⟨.colStat, 0, 28⟩
/-- COL_STAT.ABORTS -/
def colStat_aborts : Fld := ⟨.colStat, 28, 16⟩
/-- COL_STAT.DISCARDS -/
def colStat_discards : Fld := ⟨.colStat, 44, 20⟩
/-- COL_PSTAT.IN_LINES -/
def colPstat_inLines : Fld := ⟨.colPstat, 0, 32⟩
/-- COL_PSTAT.OUT_LINES -/
def colPstat_outLines : Fld := ⟨.colPstat, 32, 32⟩
/-- COL_PORT_RSV.ENTRIES -/
def colPortRsv_entries : Fld := ⟨.colPortRsv, 0, 11⟩
/-- COL_PORT_RSV.FLOORS -/
def colPortRsv_floors : Fld := ⟨.colPortRsv, 11, 15⟩
/-- COL_PORT_RSV.PURGE -/
def colPortRsv_purge : Fld := ⟨.colPortRsv, 31, 1⟩
/-- QOS_CTRL.MODE -/
def qosCtrl_mode : Fld := ⟨.qosCtrl, 0, 1⟩
/-- QOS_CTRL.MODE_LIVE -/
def qosCtrl_modeLive : Fld := ⟨.qosCtrl, 1, 1⟩
/-- QOS_CTRL.REFILL -/
def qosCtrl_refill : Fld := ⟨.qosCtrl, 8, 7⟩
/-- QOS_BARK_Q.THRESH -/
def qosBarkQ_thresh : Fld := ⟨.qosBarkQ, 0, 13⟩
/-- QOS_BARK_U.THRESH -/
def qosBarkU_thresh : Fld := ⟨.qosBarkU, 0, 11⟩
/-- QOS_LEASH.ENDPOINT -/
def qosLeash_endpoint : Fld := ⟨.qosLeash, 0, 20⟩
/-- QOS_LEASH.CLASS -/
def qosLeash_class : Fld := ⟨.qosLeash, 20, 2⟩
/-- QOS_LEASH.PORT -/
def qosLeash_port : Fld := ⟨.qosLeash, 22, 6⟩
/-- QOS_LEASH.VALID -/
def qosLeash_valid : Fld := ⟨.qosLeash, 28, 1⟩
/-- QOS_LEASH.RATE -/
def qosLeash_rate : Fld := ⟨.qosLeash, 32, 12⟩
/-- QOS_LEASH.BURST -/
def qosLeash_burst : Fld := ⟨.qosLeash, 48, 16⟩
/-- QOS_LSTAT.BYTES -/
def qosLstat_bytes : Fld := ⟨.qosLstat, 0, 40⟩
/-- QOS_LSTAT.WAITS -/
def qosLstat_waits : Fld := ⟨.qosLstat, 40, 24⟩
/-- QOS_CATCH.VALID -/
def qosCatch_valid : Fld := ⟨.qosCatch, 0, 1⟩
/-- QOS_CATCH.RATE -/
def qosCatch_rate : Fld := ⟨.qosCatch, 32, 12⟩
/-- QOS_CATCH.BURST -/
def qosCatch_burst : Fld := ⟨.qosCatch, 48, 16⟩
/-- QOS_BARK_CNT.COUNT -/
def qosBarkCnt_count : Fld := ⟨.qosBarkCnt, 0, 32⟩
/-- QOS_HIST.COUNT -/
def qosHist_count : Fld := ⟨.qosHist, 0, 32⟩
/-- RAS_CTRL.SWAP_H -/
def rasCtrl_swapH : Fld := ⟨.rasCtrl, 0, 8⟩
/-- RAS_CTRL.CANARY -/
def rasCtrl_canary : Fld := ⟨.rasCtrl, 8, 17⟩
/-- RAS_CTRL.HALF_LIFE -/
def rasCtrl_halfLife : Fld := ⟨.rasCtrl, 32, 16⟩
/-- RAS_CTRL.FENCE_MAX -/
def rasCtrl_fenceMax : Fld := ⟨.rasCtrl, 48, 6⟩
/-- RAS_CTRL.SWAP_DRAIN -/
def rasCtrl_swapDrain : Fld := ⟨.rasCtrl, 54, 10⟩
/-- RAS_CMD.CORE -/
def rasCmd_core : Fld := ⟨.rasCmd, 0, 8⟩
/-- RAS_CMD.OP -/
def rasCmd_op : Fld := ⟨.rasCmd, 8, 3⟩
/-- RAS_STATUS.RETIRED -/
def rasStatus_retired : Fld := ⟨.rasStatus, 0, 1⟩
/-- RAS_STATUS.CAUSE -/
def rasStatus_cause : Fld := ⟨.rasStatus, 1, 2⟩
/-- RAS_STATUS.FENCED -/
def rasStatus_fenced : Fld := ⟨.rasStatus, 3, 6⟩
/-- RAS_STATUS.BUSY -/
def rasStatus_busy : Fld := ⟨.rasStatus, 9, 1⟩
/-- RAS_STATUS.RESULT -/
def rasStatus_result : Fld := ⟨.rasStatus, 10, 5⟩
/-- RAS_STATUS.FEED_A_OK -/
def rasStatus_feedAOk : Fld := ⟨.rasStatus, 15, 1⟩
/-- RAS_STATUS.FEED_B_OK -/
def rasStatus_feedBOk : Fld := ⟨.rasStatus, 16, 1⟩
/-- RAS_STATUS.HIST_STALE -/
def rasStatus_histStale : Fld := ⟨.rasStatus, 17, 1⟩
/-- RAS_HIST_IDX.INDEX -/
def rasHistIdx_index : Fld := ⟨.rasHistIdx, 0, 12⟩
/-- RAS_HIST_DATA.DATA -/
def rasHistData_data : Fld := ⟨.rasHistData, 0, 32⟩
/-- RAS_VERDICT.CHECKER -/
def rasVerdict_checker : Fld := ⟨.rasVerdict, 0, 16⟩
/-- RAS_VERDICT.ENGINE -/
def rasVerdict_engine : Fld := ⟨.rasVerdict, 16, 16⟩
/-- RAS_VERDICT.REFEREE -/
def rasVerdict_referee : Fld := ⟨.rasVerdict, 32, 16⟩
/-- RAS_VERDICT.NONE -/
def rasVerdict_none : Fld := ⟨.rasVerdict, 48, 16⟩
/-- RAS_CORE.STATE -/
def rasCore_state : Fld := ⟨.rasCore, 0, 3⟩
/-- RAS_CORE.REFEREE -/
def rasCore_referee : Fld := ⟨.rasCore, 3, 1⟩
/-- RAS_CORE.HIST -/
def rasCore_hist : Fld := ⟨.rasCore, 4, 16⟩
/-- RAS_CORE.MARGIN -/
def rasCore_margin : Fld := ⟨.rasCore, 20, 4⟩
/-- RAS_CORE.LAST_TEST -/
def rasCore_lastTest : Fld := ⟨.rasCore, 24, 2⟩
/-- CFG_CURTAIN.REQ -/
def cfgCurtain_req : Fld := ⟨.cfgCurtain, 0, 1⟩
/-- CFG_CURTAIN.NUM -/
def cfgCurtain_num : Fld := ⟨.cfgCurtain, 16, 16⟩
/-- CFG_LOAD.SKIPS -/
def cfgLoad_skips : Fld := ⟨.cfgLoad, 0, 16⟩
/-- CFG_LOAD.FIRST -/
def cfgLoad_first : Fld := ⟨.cfgLoad, 16, 16⟩
/-- CFG_RANGE_ERR.OFFSET -/
def cfgRangeErr_offset : Fld := ⟨.cfgRangeErr, 0, 28⟩
/-- CFG_RANGE_ERR.SOURCE -/
def cfgRangeErr_source : Fld := ⟨.cfgRangeErr, 28, 2⟩
/-- CFG_RANGE_ERR.VALID -/
def cfgRangeErr_valid : Fld := ⟨.cfgRangeErr, 31, 1⟩
/-- CFG_RANGE_ERR.COUNT -/
def cfgRangeErr_count : Fld := ⟨.cfgRangeErr, 32, 16⟩
/-- CFG_RANGE_ERR.FUNCTION -/
def cfgRangeErr_function : Fld := ⟨.cfgRangeErr, 48, 4⟩
/-- CFG_CRC_REF.REF -/
def cfgCrcRef_ref : Fld := ⟨.cfgCrcRef, 0, 32⟩
/-- CFG_CRC_LIVE.LIVE -/
def cfgCrcLive_live : Fld := ⟨.cfgCrcLive, 0, 32⟩
/-- CFG_CRC_STATUS.DIRTY -/
def cfgCrcStatus_dirty : Fld := ⟨.cfgCrcStatus, 0, 1⟩
/-- CFG_CRC_STATUS.MISMATCH -/
def cfgCrcStatus_mismatch : Fld := ⟨.cfgCrcStatus, 1, 1⟩
/-- CFG_CRC_STATUS.COMMIT -/
def cfgCrcStatus_commit : Fld := ⟨.cfgCrcStatus, 2, 1⟩
/-- CFG_CRC_STATUS.COMMIT_BUSY -/
def cfgCrcStatus_commitBusy : Fld := ⟨.cfgCrcStatus, 3, 1⟩
/-- CFG_CRC_STATUS.PASSES -/
def cfgCrcStatus_passes : Fld := ⟨.cfgCrcStatus, 16, 16⟩
/-- PWR_CTRL.CORE_IDLE -/
def pwrCtrl_coreIdle : Fld := ⟨.pwrCtrl, 0, 14⟩
/-- PWR_CTRL.THROTTLE -/
def pwrCtrl_throttle : Fld := ⟨.pwrCtrl, 16, 7⟩
/-- PWR_CTRL.STK_HOT -/
def pwrCtrl_stkHot : Fld := ⟨.pwrCtrl, 24, 7⟩
/-- PWR_CTRL.DIMM_HOT -/
def pwrCtrl_dimmHot : Fld := ⟨.pwrCtrl, 32, 7⟩
/-- PWR_CAP.LIMIT -/
def pwrCap_limit : Fld := ⟨.pwrCap, 0, 11⟩
/-- PWR_CAP.WINDOW -/
def pwrCap_window : Fld := ⟨.pwrCap, 16, 10⟩
/-- PWR_CAP.DUTY -/
def pwrCap_duty : Fld := ⟨.pwrCap, 32, 7⟩
/-- PWR_CAP.CAPPING -/
def pwrCap_capping : Fld := ⟨.pwrCap, 39, 1⟩
/-- PWR_CMD.OP -/
def pwrCmd_op : Fld := ⟨.pwrCmd, 0, 3⟩
/-- PWR_CMD.RESULT -/
def pwrCmd_result : Fld := ⟨.pwrCmd, 3, 5⟩
/-- PWR_STATUS.STATE -/
def pwrStatus_state : Fld := ⟨.pwrStatus, 0, 3⟩
/-- PWR_STATUS.LAST_OFF -/
def pwrStatus_lastOff : Fld := ⟨.pwrStatus, 4, 4⟩
/-- PWR_STATUS.POWER -/
def pwrStatus_power : Fld := ⟨.pwrStatus, 32, 16⟩
/-- PWR_TEMP.DIE_MAX -/
def pwrTemp_dieMax : Fld := ⟨.pwrTemp, 0, 8⟩
/-- PWR_TEMP.STK_MAX -/
def pwrTemp_stkMax : Fld := ⟨.pwrTemp, 8, 8⟩
/-- PWR_TEMP.DIMM_MAX -/
def pwrTemp_dimmMax : Fld := ⟨.pwrTemp, 16, 8⟩
/-- PWR_TEMP.THROTTLING -/
def pwrTemp_throttling : Fld := ⟨.pwrTemp, 24, 1⟩
/-- PWR_RAIL.VOUT -/
def pwrRail_vout : Fld := ⟨.pwrRail, 0, 16⟩
/-- PWR_RAIL.IOUT -/
def pwrRail_iout : Fld := ⟨.pwrRail, 16, 16⟩
/-- PWR_RAIL.TEMP -/
def pwrRail_temp : Fld := ⟨.pwrRail, 32, 8⟩
/-- PWR_RAIL.PG -/
def pwrRail_pg : Fld := ⟨.pwrRail, 40, 1⟩
/-- PWR_RAIL.FAULT -/
def pwrRail_fault : Fld := ⟨.pwrRail, 41, 1⟩
/-- PWR_RAIL.DROOPS -/
def pwrRail_droops : Fld := ⟨.pwrRail, 48, 16⟩
/-- CLK_STATUS.REF_SYS -/
def clkStatus_refSys : Fld := ⟨.clkStatus, 0, 1⟩
/-- CLK_STATUS.REF_LANE -/
def clkStatus_refLane : Fld := ⟨.clkStatus, 1, 1⟩
/-- CLK_STATUS.REF_PCI -/
def clkStatus_refPci : Fld := ⟨.clkStatus, 2, 1⟩
/-- CLK_STATUS.LOCK -/
def clkStatus_lock : Fld := ⟨.clkStatus, 3, 5⟩
/-- CLK_STATUS.LOCK_PCI -/
def clkStatus_lockPci : Fld := ⟨.clkStatus, 8, 1⟩
/-- CLK_STATUS.LOSSES -/
def clkStatus_losses : Fld := ⟨.clkStatus, 16, 16⟩
/-- STA_CTRL.PERIOD -/
def staCtrl_period : Fld := ⟨.staCtrl, 0, 20⟩
/-- STA_PERIOD.NUM -/
def staPeriod_num : Fld := ⟨.staPeriod, 0, 32⟩

end Sys2Proof.Machine.F
end

