-- ==== Sys2Proof/Machine/RegReset.lean ====
section
/-! DEFINITION. The reset value of every register: the reset column of its field table, and the values that the text gives
for single instances. -/

namespace Sys2Proof.Machine

/-- A built-in descriptor of ENG_FMT (Tables 06-5 to 06-7, R135): WIDTH holds the width modulo 32. -/
def builtinFmt (cls width exp man bias specials sat elem block : Nat) : Nat :=
  cls + 2 ^ 4 + (width % 32) * 2 ^ 8 + exp * 2 ^ 16 + man * 2 ^ 20 + bias * 2 ^ 32 + specials * 2 ^ 40 + sat * 2 ^ 42
    + elem * 2 ^ 48 + block * 2 ^ 56 + 8 * 2 ^ 64

/-- ENG_FMT[0] to ENG_FMT[15] (Table 06-6). -/
def builtinFmts : List Nat :=
  [builtinFmt 0 32 8 23 127 0 0 0 0, builtinFmt 0 16 5 10 15 0 0 0 0, builtinFmt 0 16 8 7 127 0 0 0 0,
   builtinFmt 0 8 4 3 7 1 1 0 0, builtinFmt 0 8 5 2 15 0 0 0 0, builtinFmt 0 6 3 2 3 2 1 0 0,
   builtinFmt 0 6 2 3 1 2 1 0 0, builtinFmt 0 4 2 1 1 2 1 0 0, builtinFmt 1 8 0 0 0 2 1 0 0,
   builtinFmt 1 32 0 0 0 2 1 0 0, builtinFmt 2 0 0 0 0 0 1 3 32, builtinFmt 2 0 0 0 0 0 1 4 32,
   builtinFmt 2 0 0 0 0 0 1 5 32, builtinFmt 2 0 0 0 0 0 1 6 32, builtinFmt 2 0 0 0 0 0 1 7 32,
   builtinFmt 2 0 0 0 0 0 1 8 32]

/-- Default bark curves (Table 14-2). -/
def barkQ : List Nat := [0, 1024, 1536, 2048, 2560, 3072, 3584, 4000]
/-- Default bark curves (Table 14-2). -/
def barkU : List Nat := [0, 512, 640, 768, 832, 896, 960, 1008]

/-- Default receive-buffer size of a channel, per class (Table 12-3). -/
def crdDefault : Nat → Nat
  | 0 => 256 | 1 => 512 | 2 => 64 | 3 => 256 | _ => 16

/-- What a single instance adds to the reset column: straps (R14), roles (R12, R350), whole-device ownership (Tables 15-9,
15-10), the built-in formats and the default SR_BITS of user formats (Table 06-7), the default curves and the default buffer sizes. -/
def Reg.special (r : Reg) (i : Nat) : Nat :=
  match r with
  | .topDevice => (i % 4) * 2 ^ 20
  | .corStatus => if i % 9 = 8 then 1 else 0
  | .rasCore => if i % 9 = 8 then 1 else 0
  | .secPartStatus => if i = 0 then 2 else 0
  | .engFmt => builtinFmts.getD i (8 * 2 ^ 64)
  | .qosBarkQ => barkQ.getD i 0
  | .qosBarkU => barkU.getD i 0
  | .lnkCrdSize => let v := crdDefault (i % 8); v + v * 2 ^ 16 + v * 2 ^ 32 + v * 2 ^ 48
  | _ => 0

/-- The reset column of a register's fields. -/
def Reg.resetColumn (r : Reg) : Nat := r.fields.foldl (fun a f => a + f.reset * 2 ^ f.lo) 0

/-- The value a register holds after reset. -/
def Reg.reset (r : Reg) (i : Nat) : BitVec 128 := BitVec.ofNat 128 (r.resetColumn + r.special i)

end Sys2Proof.Machine
end

