-- ==== Sys2Proof/Machine/State.lean ====
section
/-! DEFINITION. The state of the block, its state after reset, and the reasons a step can stop. -/

namespace Sys2Proof.Machine

/-- The state of a CG4020 with the commands that wait for it. -/
structure State where
  /-- Registers by `Reg.key`: an unlisted register holds its reset value. Fields with wings hold the wings. -/
  regs : SMap (BitVec 128) := []
  /-- The stages of registers with wings (Table 17-7), by `State.stageKey`. -/
  stage : SMap (BitVec 128) := []
  /-- Commands that wait, first in, first out. -/
  pending : List Instr := []
  /-- The MODEL's own counter of open values drawn so far (log 5). -/
  free : Nat := 0
  mem : Mem := {}
  home : Home := {}
  txns : SMap Txn := []
  keys : SMap KeyState := []
  outs : SMap Out := []
  /-- Tags that completed by CPL_TIMEOUT, with the µs they stay unused (R234). -/
  deadTags : SMap Nat := []
  ptu : Ptu := {}
  clu : Clu := {}
  seqs : SMap Seq := []
  xfr : Xfr := {}
  col : Col := {}
  ras : Ras := {}
  tab : Tables := {}
  fab : Fab := {}
  link : SMap PortLink := []
  lane : SMap PortLanes := []
  qos : Qos := {}
  evt : Evt := {}
  rot : Rot := {}
  pwr : Pwr := {}
  pci : Pci := {}
  /-- Words 0 to 2 of ENG_FMT entries written and not yet submitted (R136), by 4 × entry + word. -/
  fmtBuf : SMap Word := []
  /-- The running pass of each die's register walker (R368). -/
  crc : SMap CrcPass := []
  deriving DecidableEq, Repr

/-- The state after reset: every table empty, every register at its reset value, no command waiting. -/
def State.reset : State := {}

/-- No command of this block stops the machine: a failed command completes with a status (R429) or is ignored (R7). -/
inductive Fault where
  deriving DecidableEq, Repr

/-- Why a command has no meaning. -/
inductive Refusal where
  /-- Raised by an arm of `exec` whose command is not modelled yet; safe. -/
  | notModelled (mnemonic : String)
  deriving DecidableEq, Repr

end Sys2Proof.Machine
end

