-- ==== Sys2Proof/Machine/Ops.lean ====
section
/-! DEFINITION. The named operations over the state: registers, free values, events, packets, stored bytes. -/

namespace Sys2Proof

/-- The node a packet is addressed to (R233, Table 11-2). -/
def Packet.destNode (p : Packet) : Nat :=
  if p.chan = 1 then p.dest.toNat / 256 else p.addr.toNat / 2 ^ 52

/-- The local ID a packet is addressed to. -/
def Packet.destLocal (p : Packet) : Nat := if p.chan = 1 then p.dest.toNat % 256 else p.dlocal.toNat

/-- Fabric offset [51:0] of a packet's address. -/
def Packet.offset (p : Packet) : Nat := p.addr.toNat % 2 ^ 52

end Sys2Proof

namespace Sys2Proof.Machine

/-- Completion status values (Table 21-1). -/
def St.ok : Nat := 0
def St.retry : Nat := 1
def St.poison : Nat := 2
def St.noRights : Nat := 3
def St.unmapped : Nat := 4
def St.withdrawn : Nat := 5
def St.revoked : Nat := 6
def St.capacity : Nat := 7
def St.txAbort : Nat := 8
def St.planAbort : Nat := 9
def St.busy : Nat := 10
def St.timeout : Nat := 11
def St.nodeLost : Nat := 12
def St.badRequest : Nat := 13
def St.internal : Nat := 14

/-- A status as a requester takes it: a reserved value is INTERNAL (R429). -/
def takenStatus (v : Nat) : Nat := if v ≤ St.internal then v else St.internal

namespace State

/-! ### Registers -/

/-- The whole value of a register. -/
def reg (s : State) (r : Reg) (i : Nat) : BitVec 128 := s.regs.lookD (r.key i) (r.reset i)

/-- A register with a new value. -/
def setReg (s : State) (r : Reg) (i : Nat) (v : BitVec 128) : State :=
  { s with regs := s.regs.putC (r.reset i) (r.key i) v }

/-- Bits lo to lo + w - 1 of a value, as a number. -/
def bits (v : BitVec 128) (lo w : Nat) : Nat := v.toNat / 2 ^ lo % 2 ^ w

/-- A value with bits lo to lo + w - 1 replaced. -/
def setBits (v : BitVec 128) (lo w x : Nat) : BitVec 128 :=
  BitVec.ofNat 128 (v.toNat - bits v lo w * 2 ^ lo + x % 2 ^ w * 2 ^ lo)

/-- A field of a register. -/
def rd (s : State) (f : Fld) (i : Nat := 0) : Nat := bits (s.reg f.reg i) f.lo f.width

/-- A one-bit field. -/
def flag (s : State) (f : Fld) (i : Nat := 0) : Bool := s.rd f i == 1

/-- A register with one field replaced. -/
def wr (s : State) (f : Fld) (i : Nat) (v : Nat) : State :=
  s.setReg f.reg i (setBits (s.reg f.reg i) f.lo f.width v)

/-- A one-bit field set from a Bool. -/
def wrB (s : State) (f : Fld) (i : Nat) (b : Bool) : State := s.wr f i b.toNat

/-- A saturating counter advanced by n. -/
def bump (s : State) (f : Fld) (i : Nat) (n : Nat := 1) : State := s.wr f i (min (s.rd f i + n) (2 ^ f.width - 1))

/-- Key of the stage that the units of a die hold: `port` for its port agents, else its homes and internal agents (Table 17-8). -/
def stageKey (r : Reg) (i d : Nat) (port : Bool) : Nat := r.key i * 8 + d * 2 + port.toNat

/-- A register in the stage of a die. -/
def stageReg (s : State) (r : Reg) (i d : Nat) (port : Bool := false) : BitVec 128 := s.stage.lookD (stageKey r i d port) (r.reset i)

/-- A field in the stage of a die. -/
def stg (s : State) (f : Fld) (i d : Nat) (port : Bool := false) : Nat := bits (s.stageReg f.reg i d port) f.lo f.width

/-- A register enters the stage of a die's units. -/
def putStage (s : State) (r : Reg) (i d : Nat) (port : Bool) (v : BitVec 128) : State :=
  { s with stage := s.stage.putC (r.reset i) (stageKey r i d port) v }

/-! ### Free values -/

/-- The next free 64-bit value. -/
def freeVal (s : State) : DWord := Config.freeWord s.free

/-- The state after one free value has been drawn. -/
def draw (s : State) : State := { s with free := s.free + 1 }

/-! ### Units -/

def uMem (s : State) (f : Mem → Mem) : State := { s with mem := f s.mem }
def uHome (s : State) (f : Home → Home) : State := { s with home := f s.home }
def uFab (s : State) (f : Fab → Fab) : State := { s with fab := f s.fab }
def uEvt (s : State) (f : Evt → Evt) : State := { s with evt := f s.evt }

/-! ### Register protection (R369) -/

/-- A protected field of die d has changed. -/
def dirty (s : State) (d : Nat) : State :=
  ({ s with crc := s.crc.put d { s.crc.lookD d {} with changed := true } }).wr F.cfgCrcStatus_dirty d 1

/-- A protected field of a copied register has changed. -/
def dirtyAll (s : State) : State := (((s.dirty 0).dirty 1).dirty 2).dirty 3

/-! ### Events (R390 to R393, R432, R433) -/

/-- Little-endian bytes of a number. -/
def leBytes (n k : Nat) : List Byte := (List.range k).map fun j => BitVec.ofNat 8 (n / 256 ^ j)

/-- An event queue is full when TAIL + 1 = HEAD modulo its size (R391). -/
def evqFull (s : State) (e : Nat) : Bool :=
  let n := 2 ^ s.rd F.mgtEvqCfg_size e
  (s.rd F.mgtEvqPtr_tail e + 1) % n == s.rd F.mgtEvqPtr_head e % n

/-- Send a queue's MSI-X message, at once for a fatal record, else as arming and moderation allow (R393). -/
def evqMessage (s : State) (e : Nat) (fatal : Bool) : State :=
  let armed := s.evt.armed.contains e
  let moder := decide (s.rd F.mgtEvqCfg_moderate e ≠ 0)
  if fatal || (armed && !(moder && s.evt.quiet.contains e)) then
    s.uEvt fun v => { v with
      msix := v.msix ++ [e], armed := v.armed.filter (· ≠ e)
      quiet := if moder && !v.quiet.contains e then v.quiet ++ [e] else v.quiet }
  else if armed then
    s.uEvt fun v => { v with armed := v.armed.filter (· ≠ e), waiting := if v.waiting.contains e then v.waiting else v.waiting ++ [e] }
  else s

/-- Write a record to queue e, or drop it on a full ring (R391). The PHASE bit is 1 on the ring's first pass and changes
with every pass (R177). -/
def evqWrite (s : State) (e : Nat) (r : EvRec) : State :=
  if s.evqFull e then
    (s.bump F.mgtEvqDrop_drops e).uEvt fun v => { v with lost := if v.lost.contains e then v.lost else v.lost ++ [e] }
  else
    let tail := s.rd F.mgtEvqPtr_tail e
    let flip := s.evt.phase.contains e
    let r' := { r with lost := r.lost || s.evt.lost.contains e, phase := !flip }
    let next := (tail + 1) % 2 ^ s.rd F.mgtEvqCfg_size e
    let s := s.uEvt fun v => { v with
      written := v.written ++ [(e, s.rd F.mgtEvqBase_addr e * 4096 + 32 * tail, r')]
      lost := v.lost.filter (· ≠ e)
      phase := if next = 0 then (if flip then v.phase.filter (· ≠ e) else v.phase ++ [e]) else v.phase }
    (s.wr F.mgtEvqPtr_tail e next).evqMessage e (r.sev == 3)

/-- Deliver the pending buffer to an enabled node queue, oldest first (R392). -/
def evqDeliver (s : State) : State :=
  if s.flag F.mgtEvqCfg_enable 16 then
    let recs := s.evt.pending
    let recs := match recs with
      | r :: rs => { r with lost := r.lost || s.evt.overflow } :: rs
      | [] => []
    recs.foldl (fun s r => s.evqWrite 16 r)
      (s.uEvt fun v => { v with pending := [], overflow := if v.pending.isEmpty then v.overflow else false })
  else s

/-- Raise an event: to its partition's queue when that is enabled, to the pending buffer and from it to the node queue.
A fatal event asserts the management alert (R393). -/
def raise (s : State) (r : EvRec) : State :=
  let r := { r with period := s.rd F.staPeriod_num, time := s.freeVal.setWidth 32 }
  let s := s.draw
  let s := if r.sev = 3 then s.uEvt fun v => { v with alert := true } else s
  let s := match r.part with
    | some p => if s.flag F.mgtEvqCfg_enable p then s.evqWrite p r else s
    | none => s
  let s := s.uEvt fun v =>
    if v.pending.length < 256 then { v with pending := v.pending ++ [r] }
    else { v with pending := v.pending.tail ++ [r], overflow := true }
  s.evqDeliver

/-- A path as CFG_RANGE_ERR.SOURCE numbers it, its function and its source endpoint (Table 21-2). -/
def pathCode : Path → Nat × Nat × Nat
  | .host h f => (h.val, f.val, 0)
  | .mgt src => (2, 0, src.toNat)
  | .root => (3, 0, 0)

/-- WRITE_REFUSED for a write at a node offset (R432). -/
def refuseWrite (s : State) (p : Path) (off : Nat) : State :=
  let (c, f, src) := pathCode p
  s.raise { type := 0x0101, sev := 1, status := St.badRequest,
            arg := leBytes off 4 ++ [BitVec.ofNat 8 c, BitVec.ofNat 8 f] ++ leBytes src 3 }

/-! ### Packets -/

/-- The node's own number. -/
def node (s : State) : Nat := s.rd F.topNodeId_node

/-- Endpoint of a local agent of this node. -/
def endpoint (s : State) (loc : Nat) : Endpoint := BitVec.ofNat 20 (s.node * 256 + loc)

/-- The injection bank of a die's agents, or of its ports (R240, R253). -/
def injBank (s : State) (d : Nat) (port : Bool := false) : Bool := s.stg F.rteBank_inj 0 d port == 1

/-- Count packets of a bank held by a die up, which holds the bank, or down (R254). -/
def inflightAdd (s : State) (d : Nat) (bank : Bool) : State :=
  let f := if bank then F.rteInflight_bank1 else F.rteInflight_bank0
  (s.wr f d (s.rd f d + 1)).wr (if bank then F.rteBank_held_1 else F.rteBank_held_0) 0 1

def inflightSub (s : State) (d : Nat) (bank : Bool) : State :=
  let f := if bank then F.rteInflight_bank1 else F.rteInflight_bank0
  s.wr f d (s.rd f d - 1)

/-- A packet reaches the agents of this node, from an agent of die d or through port n. -/
def reach (s : State) (d : Nat) (n : Option Nat) (p : Packet) : State :=
  s.uFab fun v =>
    let cycle := v.cycle + Config.meshGap v.arrivals
    { v with inbox := v.inbox ++ [p], came := v.came ++ [⟨p, d, n, cycle⟩], arrivals := v.arrivals + 1, cycle := cycle }

/-- An agent of die d originates a packet: HOP 0, the injection bank (R240); a packet to the node itself is delivered, any
other is held for a next hop. -/
def send (s : State) (d : Nat) (p : Packet) : State :=
  let p := { p with hop := 0, bank := s.injBank d }
  if p.destNode = s.node then s.reach d none p
  else (s.uFab fun v => { v with held := v.held ++ [⟨p, d, none⟩] }).inflightAdd d p.bank

/-- A delivered packet has been acted on. -/
def taken (s : State) (p : Packet) : State :=
  s.uFab fun v => { v with inbox := v.inbox.erase p, came := v.came.eraseP fun c => c.pkt == p }

/-- Thresholds of a curve that a value reaches (R306). -/
def level (s : State) (f : Fld) (d : Nat) (port : Bool) (x : Nat) : Nat :=
  ((List.range 7).filter fun k => decide (s.stg f (k + 1) d port ≤ x)).length

/-- BARK of a response that die d originates (R306). -/
def homeBark (s : State) (d : Nat) : Nat := s.level F.qosBarkQ_thresh d false (s.rd F.dirStatus_reqUsed d)

/-- BARK of the agent `loc` of die d: homes, collective units and copy engines give their die's level, management gives 0: DEDUCED, log 78. -/
def unitBark (s : State) (d loc : Nat) : Nat := if 0xC0 ≤ loc ∧ loc ≤ 0xD7 then s.homeBark d else 0

/-- A response of the agent `loc` of die d to request q. -/
def respond (s : State) (d loc : Nat) (q : Packet) (op : Nat) (status : Nat) (detail : Nat := 0)
    (payload : Option (LineData × Bool) := none) : State :=
  s.send d { opcode := BitVec.ofNat 8 op, chan := 1, src := s.endpoint loc, dest := q.src, tag := q.tag,
             len := if payload.isSome then 4 else 0, cls := q.cls,
             status := BitVec.ofNat 5 status, detail := BitVec.ofNat 16 detail, txid := q.txid,
             bark := BitVec.ofNat 3 (s.unitBark d loc), dataFlag := payload.isSome,
             poison := (payload.map (·.2)).getD false, data := (payload.map (·.1)).getD 0 }

end State

/-! ### Stored bytes -/

/-- Byte i of a line (R5). -/
def lineByte (l : LineData) (i : Nat) : Byte := l.extractLsb' (8 * i) 8

/-- A line made of its bytes. -/
def lineOf (b : List Byte) : LineData := b.reverse.foldl (fun a x => a <<< 8 ||| x.setWidth 1024) 0

namespace Memory

/-- What an unlisted byte reads as (log 4). -/
def blank : Byte := 0

/-- One stored byte. -/
def byte (m : List Host.Cell) (a : Nat) : Byte := SMap.lookD m a blank

/-- One stored byte written. -/
def setByte (m : List Host.Cell) (a : Nat) (b : Byte) : List Host.Cell := SMap.putC m blank a b

/-- The canonical form: addresses strictly rising, no blank byte listed. -/
def wf (m : List Host.Cell) : Bool := SMap.canon blank m

/-- n stored bytes from address a. -/
def bytes (m : List Host.Cell) (a n : Nat) : List Byte := (List.range n).map fun i => byte m (a + i)

/-- Bytes written from address a. -/
def setBytes (m : List Host.Cell) (a : Nat) : List Byte → List Host.Cell
  | [] => m
  | b :: bs => setBytes (setByte m a b) (a + 1) bs

/-- The 128 bytes stored from address a. -/
def line (m : List Host.Cell) (a : Nat) : LineData := lineOf (bytes m a 128)

/-- A whole line stored from address a. -/
def setLine (m : List Host.Cell) (a : Nat) (d : LineData) : List Host.Cell :=
  setBytes m a ((List.range 128).map (lineByte d))

end Memory

/-- Bytes of `old` replaced by those of `new` that the mask enables (Table 11-3). -/
def mergeLine (old new : LineData) (mask : Mask) : LineData :=
  lineOf ((List.range 128).map fun i => if mask.getLsbD i then lineByte new i else lineByte old i)

/-- The mask that enables every byte. -/
def maskFull : Mask := BitVec.allOnes 128

/-- One bit. -/
def maskBit (i : Nat) : Mask := 1#128 <<< i

/-- The members of a mask, in rising order. -/
def maskMembers (m : Mask) : List Nat := (List.range 128).filter m.getLsbD

end Sys2Proof.Machine
end

