-- ==== Sys2Proof/Machine/History.lean ====
section
/-! DEFINITION. The history keeper, the kennel and package retirement (R345, R350 to R352). -/

namespace Sys2Proof.Machine

namespace State

def uRas (s : State) (f : Ras → Ras) : State := { s with ras := f s.ras }

/-- Threshold, action and weights of a class (Table 16-4). -/
def histClass (s : State) (cls : Nat) : Nat × Nat × List Nat := s.tab.history.getD (cls - 1) (0, 0, [])

/-- The core that a record belongs to, for the classes kept per engine or core. -/
def HistRec.core (r : HistRec) : Option Nat :=
  if r.cls = 1 || r.cls = 2 then some (r.inst / 4)
  else if r.cls = 3 || r.cls = 4 || r.cls = 6 || r.cls = 0 then some r.inst
  else none

/-- RAS_CORE.HIST: the highest COUNT among a core's records (Table 16-10). -/
def refreshHist (s : State) (n : Nat) : State :=
  s.wr F.rasCore_hist n ((s.ras.hist.filter fun r => HistRec.core r == some n).foldl (fun a r => max a r.count) 0)

/-- The package is retired (R352); further causes change nothing. -/
def retire (s : State) (cause inst cls : Nat) : State :=
  if s.flag F.rasStatus_retired then s
  else
    let s := (s.wr F.rasStatus_retired 0 1).wr F.rasStatus_cause 0 cause
    let s := s.uRas fun r => { r with
      commitDue := true
      hist := r.hist.map fun h => if h.cls = cls && h.inst = inst then { h with retired := true } else h }
    s.raise { type := 0x1502, sev := 2, arg := BitVec.ofNat 8 cause :: leBytes inst 2 ++ [BitVec.ofNat 8 cls] }

/-- Cores in the kennel. -/
def fencedCores (s : State) : List Nat := (List.range 144).filter fun n => s.rd F.rasCore_state n == 2

/-- Cluster of a core: four of each die, nine cores in each (R12). -/
def clusterOf (n : Nat) : Nat := n / 9

/-- VDD_CORE of die d stands at 0.80 V while a core of the die runs a stress test, at 0.75 V else (R398). -/
def setVcore (s : State) (d : Nat) : State :=
  { s with pwr := { s.pwr with vcore := s.pwr.vcore.putC 750 d (if s.ras.testing.any fun t => t.1 / 36 == d then 800 else 750) } }

/-- Step 1 of Table 16-7: the core enters the kennel. Steps 2 to 4 follow when its records are written. -/
def fence (s : State) (n cls : Nat) : State :=
  if s.rd F.rasCore_state n = 2 then s
  else
    let c := clusterOf n
    let p := n % 9
    let owner := bits (s.reg .secCoreMap c) (5 * p) 4
    let st := s.rd F.secPartStatus_state owner
    if bits (s.reg .secCoreMap c) (5 * p + 4) 1 = 1 && (st == 3 || st == 4) then
      s.uRas fun r => { r with fenceWait := if r.fenceWait.contains (n, cls) then r.fenceWait else r.fenceWait ++ [(n, cls)] }
    else
      let s := (s.wr F.rasCore_state n 2).wr F.corStatus_role n 2
      let mine (h : HistRec) : Bool := HistRec.core h == some n
      let s := s.uRas fun r => { r with
        fencing := r.fencing ++ [(n, cls)], testing := r.testing.del n
        hist := if r.hist.any mine then r.hist.map fun h => if mine h then { h with fenced := true } else h
                else r.hist ++ [{ cls := 0, inst := n, kind := 0, fenced := true, last := r.hours }] }
      let s := (s.setVcore (n / 36)).wr F.rasStatus_fenced 0 s.fencedCores.length
      let mates := s.fencedCores.filter fun m => clusterOf m == c
      if 2 ≤ mates.length then s.retire 1 n cls
      else if s.rd F.rasCtrl_fenceMax < s.fencedCores.length then s.retire 3 n cls
      else s

/-- What a unit at its threshold meets (Table 16-4). -/
def histAct (s : State) (cls inst action : Nat) : State :=
  let s := s.uRas fun r => { r with commitDue := true }
  if cls = 12 && decide (8 ≤ inst % 16) then
    let x := inst / 16 * 8 + (inst % 16 - 8)
    s.uRas fun r => { r with disabled := if r.disabled.contains x then r.disabled else r.disabled ++ [x] }
  else match action with
    | 1 => match HistRec.core { cls := cls, inst := inst, kind := 0 } with
      | some n => s.fence n cls
      | none => s
    | 2 => s.retire 2 inst cls
    | _ => s

/-- The record that a new one replaces when every record is in use: the lowest count without a flag (R345). -/
def leastRec (l : List HistRec) : Option HistRec :=
  (l.filter fun r => !r.fenced && !r.retired).foldl
    (fun (a : Option HistRec) r => match a with
      | some x => if r.count < x.count then some r else some x
      | none => some r) none

/-- An event of a unit: `kind` indexes its record, `w` its weight in the class's list (Table 16-4). -/
def histAdd (s : State) (cls inst kind w : Nat) (repeated : Bool := false) : State :=
  let (limit, action, weights) := s.histClass cls
  let weight := weights.getD (w - 1) 0
  let same (r : HistRec) : Bool := r.cls == cls && r.inst == inst && r.kind == kind
  let old : HistRec := (s.ras.hist.find? same).getD { cls := cls, inst := inst, kind := kind }
  let new : HistRec := { old with
    count := min (old.count + weight) 65535, total := min (old.total + 1) 65535, last := s.ras.hours, repeated := repeated }
  let l := s.ras.hist
  let l :=
    if l.any same then l.map fun h => if same h then new else h
    else if l.length < 4096 then l ++ [new]
    else match leastRec l with
      | some x => l.erase x ++ [new]
      | none => l
  let s := s.uRas fun r => { r with hist := l }
  let s := match HistRec.core new with
    | some n => s.refreshHist n
    | none => s
  if limit ≠ 0 && old.count < limit && limit ≤ new.count then s.histAct cls inst action else s

/-- Halve every count (R345). -/
def histHalve (s : State) : State :=
  let s := s.uRas fun r => { r with hist := r.hist.map fun h => { h with count := h.count / 2 } }
  (List.range 144).foldl (fun s n => if s.rd F.rasCore_hist n = 0 then s else s.refreshHist n) s

end State

end Sys2Proof.Machine
end

