-- ==== Sys2Proof/Machine/Storage.lean ====
section
/-! DEFINITION. The path of every access to a die's memory (R47): placement (R30 to R33), the memory-side cache (R66 to R69),
the remap stage (R74 to R77) and the controllers' write queues (R56, R57). A home's read or write is one step of it (log 6). -/

namespace Sys2Proof.Machine

/-! ### Lines -/

/-- A line's key: die-local line number L, tier bit T and die (R66, R83). -/
def lineKey (L : Nat) (t2 : Bool) (d : Nat) : Nat := (L * 2 + t2.toNat) * 4 + d

def lineDie (k : Nat) : Nat := k % 4
def lineTier2 (k : Nat) : Bool := k / 4 % 2 == 1
def lineL (k : Nat) : Nat := k / 8

/-- Granules per GB of 2^30 bytes. -/
def granPerGB : Nat := 512

namespace State

/-- Granules of a tier (Table 02-3). -/
def tierGranules (s : State) (t2 : Bool) : Nat := if t2 then 12 * s.mem.chanGB * granPerGB else 655360

/-- Granules of one die quarter of a tier (R30). -/
def quarterGranules (s : State) (t2 : Bool) : Nat := s.tierGranules t2 / 4

/-- Where tier 2 begins (Table 02-3). -/
def tier2Base : Nat := 0x020000000000

/-- Tier of a backed offset, and its byte within the tier (Table 02-3). -/
def backed (s : State) (x : Nat) : Option (Bool × Nat) :=
  if x < 655360 * 2 ^ 21 then some (false, x)
  else if tier2Base ≤ x && decide (x - tier2Base < s.tierGranules true * 2 ^ 21) then some (true, x - tier2Base)
  else none

/-- Offset of a tier's byte. -/
def tierOffset (t2 : Bool) (y : Nat) : Nat := if t2 then tier2Base + y else y

end State

/-- Whether an extent's granules hold a backed byte of a tier. -/
def ExtAttr.holds (a : ExtAttr) (t2 : Bool) (y : Nat) : Bool :=
  a.tier2 == t2 && decide (a.base ≤ y / 2 ^ 21) && decide (y / 2 ^ 21 < a.base + a.count)

/-- States in which requests find an extent (check 2 of Table 02-11). -/
def ExtState.serves : ExtState → Bool
  | .on | .withdrawing | .pending => true
  | _ => false

/-- Die and die-local address of a tier's byte (R32, Table 02-4), with `qg` granules per quarter. -/
def placeAt (qg : Nat) (oneDie : Bool) (y : Nat) : Nat × Nat :=
  let q := y / 2 ^ 21 / qg
  let i := y / 2 ^ 21 % qg
  let u := y % 2 ^ 21
  let b := u / 4096
  if oneDie then (q, i * 2 ^ 21 + u) else (b % 4, i * 2 ^ 21 + q * 2 ^ 19 + b / 4 * 4096 + u % 4096)

namespace State

/-- Die and die-local address of a tier's byte (R32, Table 02-4). -/
def place (s : State) (t2 oneDie : Bool) (y : Nat) : Nat × Nat := placeAt (s.quarterGranules t2) oneDie y

/-- The extent that covers an offset, in a state that pred accepts. -/
def findExt (s : State) (pred : ExtState → Bool) (x : Nat) : Option (Nat × Extent) :=
  match s.backed x with
  | none => none
  | some (t2, y) => s.home.ext.find? fun e => pred e.2.state && e.2.attr.holds t2 y

/-- The line key of an offset within an extent. -/
def lineAt (s : State) (a : ExtAttr) (x : Nat) : Nat :=
  match s.backed x with
  | none => 0
  | some (t2, y) =>
    let (d, l) := s.place t2 a.oneDie y
    lineKey (l / 128) t2 d

/-- Offset of a line under a placement (the inverse of R32). -/
def offsetUnder (s : State) (oneDie : Bool) (k : Nat) : Nat :=
  let t2 := lineTier2 k
  let a := lineL k * 128
  let i := a / 2 ^ 21
  let r := a % 2 ^ 21
  let qg := s.quarterGranules t2
  if oneDie then tierOffset t2 ((lineDie k * qg + i) * 2 ^ 21 + r)
  else
    let q := r / 2 ^ 19
    let b := r % 2 ^ 19 / 4096 * 4 + lineDie k
    tierOffset t2 ((q * qg + i) * 2 ^ 21 + b * 4096 + r % 4096)

/-- The extent that holds a line (the quad rule R33 leaves at most one placement), with the line's offset. -/
def lineExt (s : State) (k : Nat) : Option (Nat × Extent × Nat) :=
  let find (one : Bool) : Option (Nat × Extent × Nat) :=
    let x := s.offsetUnder one k
    match s.findExt (fun e => e != .off) x with
    | some (i, e) => if e.attr.oneDie == one then some (i, e, x) else none
    | none => none
  (find false).orElse fun _ => find true

/-- A line's offset. -/
def lineOffset (s : State) (k : Nat) : Nat :=
  match s.lineExt k with
  | some (_, _, x) => x
  | none => s.offsetUnder true k

end State

/-! ### Storage -/

/-- Unit and unit-local address of a die-local address (Table 02-4). Units 20 to 31 are the channels. -/
def unitAddr (t2 : Bool) (d a : Nat) : Nat × Nat :=
  if t2 then (20 + 3 * d + a / 4096 % 3, a / 12288 * 4096 + a % 4096)
  else (5 * d + a / 512 % 5, a / 2560 * 512 + a % 512)

/-- Bytes of stored address per unit. -/
def unitSpan : Nat := 2 ^ 40

/-- Stored byte address. -/
def storedAddr (p : Nat × Nat) : Nat := p.1 * unitSpan + p.2

/-- The line that a stored byte belongs to, outside the reserves' remap (the inverse of `unitAddr`). -/
def lineOfStored (a : Nat) : Nat :=
  let u := a / unitSpan
  let l := a % unitSpan
  if u < 20 then lineKey (((l / 512) * 2560 + u % 5 * 512 + l % 512) / 128) false (u / 5)
  else lineKey (((l / 4096) * 12288 + (u - 20) % 3 * 4096 + l % 4096) / 128) true ((u - 20) / 3)

namespace State

/-- Share and line within the share of a tier-2 offset (R74): one share per die of an all-die page, four of a one-die page. -/
def shareOf (oneDie : Bool) (x : Nat) : Nat × Nat :=
  if oneDie then (x % 2 ^ 16 / 2 ^ 14, x % 2 ^ 14 / 128)
  else (0, x % 2 ^ 16 / 4096 / 4 * 32 + x % 4096 / 128)

/-- The reserve of a die (R75): its extent's attributes. -/
def reserve (s : State) (d : Nat) : Option ExtAttr :=
  if s.flag F.homMigReserve_valid d then (s.home.ext.look (s.rd F.homMigReserve_extId d)).map (·.attr) else none

/-- Data granules, frames and buckets of a reserve of g granules (R76). -/
def reserveFrames (g : Nat) : Nat := (g - (g + 127) / 128) * 128
def reserveBuckets (g : Nat) : Nat := reserveFrames g / 4

/-- Key of frame f of die d. -/
def frameKey (d f : Nat) : Nat := d * 2 ^ 24 + f

/-- The frame that holds a share, with its key. -/
def findFrame (s : State) (d page share : Nat) : Option (Nat × Frame) :=
  s.mem.frames.find? fun e => e.1 / 2 ^ 24 == d && e.2.page == page && e.2.share == share

/-- Unit and address of line n of frame f of die d's reserve (R76): granule j holds metadata when j mod 128 = 0. -/
def frameAddr (s : State) (d f n : Nat) : Nat × Nat :=
  match s.reserve d with
  | none => (0, 0)
  | some a =>
    let g := f / 128
    let j := g + g / 127 + 1
    let y := (a.base + j) * 2 ^ 21 + f % 128 * 2 ^ 14 + n * 128
    unitAddr false d (s.place false true y).2

/-- Whether a line is served from a frame, and which: the remap stage (R74, R76, R77). -/
def remap (s : State) (k : Nat) : Option (Nat × Nat) :=
  if !lineTier2 k then none
  else match s.lineExt k with
    | none => none
    | some (_, e, x) =>
      let d := lineDie k
      let (sh, n) := shareOf e.attr.oneDie x
      match s.findFrame d (x / 2 ^ 16) sh with
      | none => none
      | some (fk, fr) =>
        match s.mem.moves.find? fun m => m.2.die == d && m.2.page == fr.page && m.2.share == fr.share with
        | none => some (fk, n)
        | some (_, m) => if decide (n < m.cursor) == m.promote then some (fk, n) else none

/-- Unit and address that serve a line. -/
def servedAt (s : State) (k : Nat) : Nat × Nat :=
  match s.remap k with
  | some (fk, n) => s.frameAddr (lineDie k) (fk % 2 ^ 24) n
  | none => unitAddr (lineTier2 k) (lineDie k) (lineL k * 128)

/-- The frame of a reserve that bytes of a stack lie in, and the line of it: the inverse of `frameAddr`. -/
def frameOf (s : State) (p : Nat × Nat) : Option (Nat × Nat) :=
  if 20 ≤ p.1 then none
  else
    let d := p.1 / 5
    match s.reserve d with
    | none => none
    | some r =>
      let x := p.2 / 512 * 2560 + p.1 % 5 * 512 + p.2 % 512
      let g := d * s.quarterGranules false + x / 2 ^ 21
      let j := g - r.base
      if g < r.base || r.base + r.count ≤ g || j % 128 = 0 then none
      else some (frameKey d ((j - 1 - j / 128) * 128 + x % 2 ^ 21 / 2 ^ 14), x % 2 ^ 14 / 128)

/-! ### Controllers (R56, R57) -/

def ctl (s : State) (u : Nat) : Ctl := s.mem.ctl.lookD u {}

def uCtl (s : State) (u : Nat) (f : Ctl → Ctl) : State := s.uMem fun m => { m with ctl := m.ctl.putC {} u (f (s.ctl u)) }

/-- Queue limits of a unit (Table 03-3). -/
def readLimit (u : Nat) : Nat := if u < 20 then 256 else 128
def writeLimit (u : Nat) : Nat := if u < 20 then 128 else 64

/-- Store a line in DRAM, with the check bytes of its device code in the DIMM tier (R53, R61). -/
def dramStore (s : State) (u : Nat) (w : CtlWrite) : State :=
  let a := storedAddr (u, w.addr)
  s.uMem fun m => { m with
    cells := Memory.setLine m.cells a w.data, mds := m.mds.putC {} (a / 128) w.md
    devs := if 20 ≤ u then m.devs.putC 0 (a / 128) (deviceChecks (w.md.cipher w.data) w.md) else m.devs }

/-- The write to a unit's line that has yet to reach DRAM. -/
def queuedWrite (s : State) (p : Nat × Nat) : Option CtlWrite :=
  ((s.ctl p.1).wq ++ (s.ctl p.1).wwait).find? fun w => w.addr == p.2

/-- What a read of a unit's line returns: the queued write to it, else DRAM (R57). -/
def unitRead (s : State) (p : Nat × Nat) : LineData × LineMeta :=
  match s.queuedWrite p with
  | some w => (w.data, w.md)
  | none =>
    let a := storedAddr p
    (Memory.line s.mem.cells a, s.mem.mds.lookD (a / 128) {})

/-- A write to a line does not change what the reads accepted before it return (R57). -/
def keepReads (s : State) (p : Nat × Nat) : State :=
  let now := s.unitRead p
  let keep (r : CtlRead) : CtlRead := if r.addr = p.2 && r.before.isNone then { r with before := some now } else r
  s.uCtl p.1 fun c => { c with rq := c.rq.map keep, rwait := c.rwait.map keep, issued := c.issued.map keep }

/-- A unit is given a write (R56, R57): it replaces a queued write of its line in its place, and waits at the home while the queue
is full. -/
def unitWrite (s : State) (p : Nat × Nat) (data : LineData) (md : LineMeta) : State :=
  let s := s.keepReads p
  let c := s.ctl p.1
  let put (w : CtlWrite) : CtlWrite := if w.addr = p.2 then { w with data := data, md := md } else w
  if (s.queuedWrite p).isSome then s.uCtl p.1 fun c => { c with wq := c.wq.map put, wwait := c.wwait.map put }
  else
    let w : CtlWrite := ⟨p.2, data, md, c.seq⟩
    s.uCtl p.1 fun c => if writeLimit p.1 ≤ c.wq.length || !c.wwait.isEmpty
      then { c with wwait := c.wwait ++ [w], seq := c.seq + 1 } else { c with wq := c.wq ++ [w], seq := c.seq + 1 }

/-- A write of a line into its storage; one into a frame sets the line's written-mask bit (R76). -/
def storeAt (s : State) (p : Nat × Nat) (data : LineData) (md : LineMeta) : State :=
  let s := match s.frameOf p with
    | some (fk, n) => s.uMem fun m => { m with frames := m.frames.upd fk fun f => { f with mask := f.mask ||| maskBit n } }
    | none => s
  s.unitWrite p data md

/-- A line's write to the storage that serves it. -/
def lineStore (s : State) (k : Nat) (data : LineData) (md : LineMeta) : State := s.storeAt (s.servedAt k) data md

/-- A unit is given a read; it waits at the home while the queue is full (R56). -/
def unitAsk (s : State) (u a : Nat) (kind : CtlKind) : State :=
  s.uCtl u fun c =>
    let r : CtlRead := ⟨a, kind, c.seq, none⟩
    if readLimit u ≤ c.rq.length || !c.rwait.isEmpty then { c with rwait := c.rwait ++ [r], seq := c.seq + 1 }
    else { c with rq := c.rq ++ [r], seq := c.seq + 1 }

/-- A unit's reads that have not returned. -/
def unitReads (s : State) (u : Nat) : List CtlRead := (s.ctl u).rq ++ (s.ctl u).rwait ++ (s.ctl u).issued

/-- The home reads a line from DRAM on demand, unless such a read is on its way. -/
def want (s : State) (k : Nat) : State :=
  let p := s.servedAt k
  if (s.unitReads p.1).any fun r => r.kind == .demand k && r.addr == p.2 then s else s.unitAsk p.1 p.2 (.demand k)

/-- Writes of the home wait for the full write queue of the unit that serves a line: back-pressure reaches the home (R56). -/
def blocked (s : State) (k : Nat) : Bool := !(s.ctl (s.servedAt k).1).wwait.isEmpty

/-- The error counter of a unit, and an uncorrectable error's event (R63, Table 21-2). -/
def unitUncorr (s : State) (p : Nat × Nat) : State :=
  let arg := leBytes (p.2 / 128) 6
  if p.1 < 20 then
    ((s.bump F.stkEcc_uncorr p.1).raise
      { type := 0x0C01, sev := 2, die := p.1 / 5, inst := p.1, status := St.poison, arg := BitVec.ofNat 8 p.1 :: arg }).histAdd
        7 p.1 1 1
  else
    (s.bump F.dmcEcc_uncorr (p.1 - 20)).raise
      { type := 0x0D01, sev := 2, die := (p.1 - 20) / 3, inst := p.1 - 20, status := St.poison,
        arg := BitVec.ofNat 8 (p.1 - 20) :: arg }

/-- A corrected error of a unit, counted (R63) and for its patrol's pass (R64). -/
def unitCorrected (s : State) (u : Nat) : State :=
  let s := s.uCtl u fun c => { c with patrolCorr := c.patrolCorr + 1 }
  if u < 20 then s.bump F.stkEcc_corrected u else s.bump F.dmcEcc_corrected (u - 20)

/-- A unit checks a line it has read (R61 to R63): a corrected line is counted and written back, an uncorrectable one counted, reported
and written back with POISON and a valid line code. -/
def unitCheck (s : State) (p : Nat × Nat) (data : LineData) (md : LineMeta) (u : Upset) : LineData × LineMeta × State :=
  let dec := decodeLine (decide (20 ≤ p.1)) u.flips
  let (data, md) := dec.apply data md
  match dec.ecc with
  | .clean => (data, md, s)
  | .corrected =>
    let md := md.coded data
    (data, md, (s.unitCorrected p.1).storeAt p data md)
  | .uncorrectable =>
    let md := { md with poison := true }.coded data
    (data, md, (s.unitUncorr p).storeAt p data md)

/-! ### The memory-side cache -/

/-- Set of a line (R66). -/
def mscSet (k : Nat) : Nat :=
  (lineL k % 65536) ^^^ (lineL k / 65536 % 65536) ^^^ ((lineTier2 k).toNat * 0x8000)

/-- Key of way w of the set of line k. -/
def mscWay (k w : Nat) : Nat := (lineDie k * 65536 + mscSet k) * 16 + w

/-- The way that holds a line. -/
def mscFind (s : State) (k : Nat) : Option (Nat × MscLine) :=
  (List.range 16).findSome? fun w =>
    match s.mem.msc.look (mscWay k w) with
    | some l => if l.line = k then some (mscWay k w, l) else none
    | none => none

def mscPut (s : State) (w : Nat) (l : MscLine) : State := s.uMem fun m => { m with msc := m.msc.put w l }

def mscDrop (s : State) (w : Nat) : State := s.uMem fun m => { m with msc := m.msc.del w }

/-- Re-reference values of a full set raised until one way is at 3; at most three times (R67). -/
def mscVictim (vals : List (Nat × Nat)) : Nat → Nat × Nat
  | 0 => (0, 0)
  | n + 1 =>
    match vals.find? fun v => v.2 ≥ 3 with
    | some v => (v.1, n + 1)
    | none => mscVictim (vals.map fun v => (v.1, v.2 + 1)) n

/-- Place a line in its set, evicting the victim and writing it back when dirty (R67). -/
def mscFill (s : State) (l : MscLine) : State :=
  let k := l.line
  match (List.range 16).find? fun w => (s.mem.msc.look (mscWay k w)).isNone with
  | some w => s.mscPut (mscWay k w) l
  | none =>
    let vals := (List.range 16).map fun w => (w, ((s.mem.msc.look (mscWay k w)).map (·.rr)).getD 3)
    let (v, left) := mscVictim vals 4
    let up := 4 - left
    let s := (List.range 16).foldl (fun s w => s.uMem fun m =>
      { m with msc := m.msc.upd (mscWay k w) fun x => { x with rr := x.rr + up } }) s
    let s := match s.mem.msc.look (mscWay k v) with
      | some old => if old.dirty then s.lineStore old.line old.data old.md else s
      | none => s
    s.mscPut (mscWay k v) l

/-- Whether demand accesses to a line's tier allocate (MSC_CTRL, R67). -/
def mscAlloc (s : State) (k : Nat) : Bool :=
  if lineTier2 k then s.flag F.mscCtrl_allocT2 (lineDie k) else s.flag F.mscCtrl_allocT1 (lineDie k)

/-- A die's home stops on lost cache tags (R69). -/
def cacheHalt (s : State) (d : Nat) : State :=
  (s.uHome fun h => { h with halted := if h.halted.contains d then h.halted else h.halted ++ [d] }).raise
    { type := 0x0B01, sev := 3, die := d, inst := d, status := St.internal, arg := [BitVec.ofNat 8 d] } |>.histAdd 10 d 1 1

/-! ### A home's access to a line -/

/-- Key ID and partition of the extent that holds a line. -/
def lineKeyId (s : State) (k : Nat) : Nat × Nat :=
  match s.lineExt k with
  | some (_, e, _) => (e.attr.key, e.attr.partition)
  | none => (0, 0)

/-- Whether a key ID holds a key of a generation (R325). -/
def keyHas (s : State) (id : Nat) (g : Bool) : Bool :=
  let st := s.keys.lookD id {}
  if g then st.has1 else st.has0

/-- Current generation of a key ID. -/
def keyGen (s : State) (id : Nat) : Bool := s.flag F.secKeyStatus_gen id

/-- The number of a key ID's key of a generation. -/
def keyNum (s : State) (id : Nat) (g : Bool) : Nat :=
  let k := s.keys.lookD id {}
  if g then k.num1 else k.num0

/-- Key and tweak of a line written under a generation: the tweak is its local offset divided by 128 (R324). -/
def cryptOf (s : State) (k : Nat) (g : Bool) : Nat × Nat := (s.keyNum (s.lineKeyId k).1 g, s.lineOffset k / 128)

/-- Metadata of a line encrypted under a generation of its key. -/
def encrypted (s : State) (k : Nat) (md : LineMeta) (g : Bool) : LineMeta := { md with keygen := g, crypt := s.cryptOf k g }

/-- A line whose KEYGEN has no key is delivered poisoned, with an event (R325). -/
def keyCheck (s : State) (k : Nat) (md : LineMeta) : LineMeta × State :=
  let (id, p) := s.lineKeyId k
  if s.keyHas id md.keygen then (md, s)
  else ({ md with poison := true }, s.raise
    { type := 0x0303, sev := 2, part := some p, die := lineDie k, status := St.poison,
      arg := BitVec.ofNat 8 id :: leBytes (s.lineOffset k / 128) 6 })

/-- What a read of a line through the memory-side cache comes to. -/
inductive Got where
  | data (d : LineData) (md : LineMeta)
  /-- The line has to come from DRAM first. -/
  | waits
  /-- The home has stopped. -/
  | stopped
  deriving DecidableEq, Repr

/-- The line that the home can use without a DRAM read: one that a demand read brought, or a queued write's (R57). -/
def atHand (s : State) (k : Nat) : Option (LineData × LineMeta) :=
  match s.mem.arrived.look k with
  | some x => some x
  | none => (s.queuedWrite (s.servedAt k)).map fun w => (w.data, w.md)

/-- A line in the cache, at hand, or neither: the cache is looked up first. -/
def held (s : State) (k : Nat) : Bool := (s.mscFind k).isSome || (s.atHand k).isSome

/-- An access to a share in a frame sets the frame's referenced bit (R78). -/
def setRef (s : State) (k : Nat) : State :=
  match s.remap k with
  | some (fk, _) => s.uMem fun m => { m with frames := m.frames.upd fk fun f => { f with ref := true } }
  | none => s

/-- What a hit delivers after the check of the line code (R69); none: a clean line has to be fetched again from DRAM. -/
def hitLine (l : MscLine) (u : Upset) : Option (LineData × LineMeta) :=
  let dec := decodeLine false u.flips
  let (data, md) := dec.apply l.data l.md
  match dec.ecc with
  | .clean => some (data, md)
  | .corrected => some (data, md.coded data)
  | .uncorrectable => if l.dirty then some (data, LineMeta.coded { md with poison := true } data) else none

/-- Read a line through the cache (R67 to R69); `alloc` allocates a miss. -/
def readLine (s : State) (k : Nat) (alloc : Bool) (u : Upset) : Got × State :=
  if u.tags then (.stopped, s.cacheHalt (lineDie k))
  else
    let s := s.setRef k
    match s.mscFind k with
    | some (w, l) => match hitLine l u with
      | none => (.waits, (s.mscDrop w).want k)
      | some (data, md) =>
        let (md', s) := (s.mscPut w { l with data := data, md := md, rr := 0 }).keyCheck k md
        (.data data md', s)
    | none => match s.atHand k with
      | none => (.waits, s.want k)
      | some (data, md) =>
        let s := s.uMem fun m => { m with arrived := m.arrived.del k }
        let s := if alloc then s.mscFill ⟨k, data, md, false, 2⟩ else s
        let (md', s) := s.keyCheck k md
        (.data data md', s)

/-- Write a whole line through the cache: a hit is updated, a miss allocates when `alloc` (R67), else it is written through. It is
encrypted under the current generation of its key (R327). `fresh`: this access has not read the line before. -/
def writeLine (s : State) (k : Nat) (alloc : Bool) (data : LineData) (poison hint : Bool) (fresh : Bool := true) : State :=
  let md : LineMeta := (s.encrypted k { poison := poison, hint := hint } (s.keyGen (s.lineKeyId k).1)).coded data
  let s := (s.setRef k).uMem fun m => { m with arrived := m.arrived.del k }
  match s.mscFind k with
  | some (w, l) => s.mscPut w ⟨k, data, md, true, if fresh then 0 else l.rr⟩
  | none => if alloc then s.mscFill ⟨k, data, md, true, 2⟩ else s.lineStore k data md

/-- A line's current data and metadata, without any effect. -/
def peekLine (s : State) (k : Nat) : LineData × LineMeta :=
  match s.mscFind k with
  | some (_, l) => (l.data, l.md)
  | none => (s.atHand k).getD (s.unitRead (s.servedAt k))

/-- Mark a stored line poisoned, with a valid line code (R91, R95, R96). -/
def poisonLine (s : State) (k : Nat) : State :=
  let s := s.uMem fun m => { m with arrived := m.arrived.del k }
  match s.mscFind k with
  | some (w, l) => s.mscPut w { l with md := LineMeta.coded { l.md with poison := true } l.data, dirty := true }
  | none =>
    let (data, md) := s.unitRead (s.servedAt k)
    s.lineStore k data (LineMeta.coded { md with poison := true } data)

end State

end Sys2Proof.Machine
end

