-- ==== Sys2Proof/Machine/Home.lean ====
section
/-! DEFINITION. The home agents: rights and checks (R39 to R44), the directory (R83, R93), the request table and line queues
(R89 to R92, R435), service by Table 04-4, and the abort of transactions (R118, R119). -/

namespace Sys2Proof.Machine

/-! ### Opcodes (Tables 04-3, 05-3, 09-4, 11-4) -/

def Op.rdShared : Nat := 0x10
def Op.rdOwn : Nat := 0x11
def Op.upgrade : Nat := 0x12
def Op.rdUnc : Nat := 0x13
def Op.wrUnc : Nat := 0x14
def Op.atomic : Nat := 0x15
def Op.wbDirty : Nat := 0x16
def Op.wbClean : Nat := 0x17
def Op.fwdShared : Nat := 0x20
def Op.fwdOwn : Nat := 0x21
def Op.fwdHomeShared : Nat := 0x22
def Op.fwdHomeInv : Nat := 0x23
def Op.inv : Nat := 0x24
def Op.dataS : Nat := 0x30
def Op.dataE : Nat := 0x31
def Op.dataM : Nat := 0x32
def Op.grantM : Nat := 0x33
def Op.dataUnc : Nat := 0x34
def Op.done : Nat := 0x35
def Op.invAck : Nat := 0x36
def Op.fwdAck : Nat := 0x37
def Op.fwdData : Nat := 0x38
def Op.complete : Nat := 0x39
def Op.wbAck : Nat := 0x3A
def Op.status : Nat := 0x3B
def Op.txOpen : Nat := 0x40
def Op.txRd : Nat := 0x41
def Op.txWr : Nat := 0x42
def Op.txAtomic : Nat := 0x43
def Op.txCommit : Nat := 0x44
def Op.txAbort : Nat := 0x45
def Op.txNotice : Nat := 0x46
def Op.txOpened : Nat := 0x47

/-! ### Atomics (R238) -/

/-- Bytes an atomic subcode covers. -/
def subSize (sub : Nat) : Nat := if sub / 16 % 2 = 1 then 8 else 4

/-- A subcode whose operation exists (Table 11-5). -/
def subOk (sub : Nat) : Bool := decide (sub % 16 < 11) && !(sub % 16 == 10 && sub / 16 % 2 == 1)

/-- Two's complement value of w bits. -/
def toSigned (w x : Nat) : Int := if x < 2 ^ (w - 1) then (x : Int) else (x : Int) - 2 ^ w

/-- New value of an atomic (Table 11-5): operand, compare and mask as the payload gives them. -/
def atomicNew (sub old opd cmp msk : Nat) : Nat :=
  let w := 8 * subSize sub
  let m := 2 ^ w
  let opd := opd % m
  let old := old % m
  match sub % 16 with
  | 0 => (old + opd) % m
  | 1 => old &&& opd
  | 2 => old ||| opd
  | 3 => old ^^^ opd
  | 4 => if toSigned w old < toSigned w opd then opd else old
  | 5 => if toSigned w opd < toSigned w old then opd else old
  | 6 => max old opd
  | 7 => min old opd
  | 8 => opd
  | 9 => if old &&& msk % m = cmp % m &&& msk % m then (old &&& (m - 1 - msk % m)) ||| (opd &&& msk % m) else old
  | 10 => (fadd32 old opd).1
  | _ => old

/-- w bits of a line from byte b. -/
def lineBits (l : LineData) (b w : Nat) : Nat := (l >>> (8 * b)).toNat % 2 ^ w

/-- A line with n bytes from byte b replaced. -/
def lineSet (l : LineData) (b n v : Nat) : LineData :=
  mergeLine l (BitVec.ofNat 1024 (v % 2 ^ (8 * n)) <<< (8 * b)) (BitVec.ofNat 128 (2 ^ n - 1) <<< b)

/-- An atomic request applied to a line: the new line and the old value at its place (R238). -/
def atomicApply (q : Packet) (l : LineData) : LineData × Nat :=
  let sub := q.sub.toNat
  let b := q.offset % 128
  let n := subSize sub
  let old := lineBits l b (8 * n)
  let new := atomicNew sub old (lineBits q.data 0 64) (lineBits q.data 8 64) (lineBits q.data 16 64)
  (lineSet l b n new, old)

/-- DATA_UNC payload of a returned value: at its offset, zero elsewhere (R238). -/
def atomicReturn (q : Packet) (old : Nat) : LineData := BitVec.ofNat 1024 old <<< (8 * (q.offset % 128))

/-- RET of an atomic (Table 11-5). -/
def subRet (q : Packet) : Bool := q.sub.toNat / 32 % 2 == 1

namespace State

/-! ### Groups, rights and partitions (R39, R321) -/

/-- The listed HOM_GRP_MATCH entries that are valid: ID, MASK, GROUP, PARTITION. -/
def matchEntries (s : State) : List (Nat × Nat × Nat × Nat) :=
  (s.regs.filter fun e => e.1 / 32768 == Reg.homGrpMatch.code && bits e.2 63 1 == 1).map fun e =>
    (bits e.2 0 20, bits e.2 20 20, bits e.2 40 8, bits e.2 48 4)

/-- An entry matches an endpoint (R39). -/
def entryMatches (e : Nat × Nat × Nat × Nat) (ep : Endpoint) : Bool := (ep.toNat &&& e.2.1) == (e.1 &&& e.2.1)

/-- Read, write and atomic rights of an endpoint under a rights list of a partition's extent (R39). -/
def rightsOf (s : State) (p : Nat) (rights : List Right) (ep : Endpoint) : Bool × Bool × Bool :=
  let groups := (s.matchEntries.filter fun e => entryMatches e ep && e.2.2.2 == p).map (·.2.2.1)
  let mine := rights.filter fun r => groups.contains r.group
  (mine.any (·.rd), mine.any (·.wr), mine.any (·.at_))

/-- Partitioned isolation mode (R319). -/
def partitioned (s : State) : Bool := s.flag F.secCtrl_mode

/-- A partition is in REVOKING, or holds a CREATE while it is (R323). -/
def revoking (s : State) (p : Nat) : Bool := s.rd F.secPartStatus_state p == 3 || s.rd F.secPartStatus_state p == 4

/-- Key of an outstanding request. -/
def outKey (loc tag : Nat) : Nat := loc * 16384 + tag

/-- The partition of a request (R321): that of the queue or plan the node's own agent serves, else that of the match entries of
its principal. None: no partition. -/
def partitionOf (s : State) (q : Packet) : Option Nat :=
  if !s.partitioned then some 0
  else match s.outs.look (outKey (q.src.toNat % 256) q.tag.toNat) with
    | some o => if q.src.toNat / 256 = s.node then some o.partition
      else (s.matchEntries.find? fun e => entryMatches e q.principal).map (·.2.2.2)
    | none => (s.matchEntries.find? fun e => entryMatches e q.principal).map (·.2.2.2)

/-! ### Slots (R43) -/

/-- The slot that an endpoint is bound to, in a state that pred accepts. -/
def slotWhere (s : State) (pred : Nat → Bool) (ep : Endpoint) : Option Nat :=
  ((s.regs.filter fun e => e.1 / 32768 == Reg.dirSlot.code).find? fun e =>
    pred (bits e.2 24 3) && bits e.2 0 20 == ep.toNat).map fun e => e.1 % 32768

/-- The slot in state BOUND that an endpoint holds. -/
def boundSlot (s : State) (ep : Endpoint) : Option Nat := s.slotWhere (· == 1) ep

def slotEndpoint (s : State) (k : Nat) : Endpoint := BitVec.ofNat 20 (s.rd F.dirSlot_endpoint k)

def slotSweeping (s : State) (k : Nat) : Bool := s.rd F.dirSlot_state k == 3

/-! ### Checks (R41, Table 02-11) -/

/-- Opcodes of cacheable requests. -/
def cacheable (op : Nat) : Bool := op == Op.rdShared || op == Op.rdOwn || op == Op.upgrade

/-- Length codes an opcode may carry (R236). -/
def lenOk (q : Packet) : Bool :=
  let op := q.opcode.toNat
  if op = Op.wrUnc || op = Op.txWr then q.len == 4 || q.len == 5
  else if op = Op.atomic || op = Op.txAtomic then (if q.sub.toNat % 16 = 9 then q.len == 3 else q.len == 1)
  else if op = Op.txCommit then q.len == 1
  else if op = Op.wbDirty then q.len == 4
  else q.len == 0

/-- Check 1: well formed and within one line, by alignment (R29, R236, R238). -/
def wellFormedReq (q : Packet) : Bool :=
  let op := q.opcode.toNat
  lenOk q && !q.resv && q.chan == 0 &&
    (if op = Op.atomic || op = Op.txAtomic then
      subOk q.sub.toNat && q.offset % subSize q.sub.toNat == 0
    else q.offset % 128 == 0)

/-- Right a request kind needs (Table 02-12): read, write, atomic. -/
def needs (op : Nat) : Bool × Bool × Bool :=
  if op = Op.rdUnc || op = Op.rdShared || op = Op.txRd then (true, false, false)
  else if op = Op.wrUnc || op = Op.txWr then (false, true, false)
  else if op = Op.rdOwn || op = Op.upgrade then (true, true, false)
  else (false, false, true)

def covers (have_ need : Bool × Bool × Bool) : Bool :=
  (!need.1 || have_.1) && (!need.2.1 || have_.2.1) && (!need.2.2 || have_.2.2)

/-- An accepted request's place: extent ID, extent, line. -/
structure Placed where
  ext : Nat
  rec_ : Extent
  line : Nat
  deriving DecidableEq, Repr

/-- A request of a plan's task in its plan's buffer extent, which needs no rights entry (R208). -/
def planAccess (s : State) (q : Packet) (ext : Nat) : Bool :=
  q.src.toNat / 256 == s.node &&
    match s.outs.look (outKey (q.src.toNat % 256) q.tag.toNat) with
    | some o => match o.who with
      | .ctx n c => match (s.clu.ctx.look (n.val * 8 + c.val)).bind (·.task.plan) with
        | some p => match (s.col.plans.look p).bind (·.record) with
          | some r => r.bufExt == ext
          | none => false
        | none => false
      | _ => false
    | none => false

/-- Checks 2 to 5 for a request with a well-formed address. -/
def checkRights (s : State) (q : Packet) : Nat × Option Placed :=
  match s.findExt ExtState.serves q.offset with
  | none => (St.noRights, none)
  | some (i, e) =>
    let p : Placed := ⟨i, e, s.lineAt e.attr q.offset⟩
    if ((s.partitionOf q).map s.revoking).getD false then (St.revoked, some p)
    else if s.planAccess q i then (St.ok, some p)
    else
      let need := needs q.opcode.toNat
      let now := s.rightsOf e.attr.partition e.attr.rights q.principal
      let before := s.rightsOf e.attr.partition e.prev q.principal
      if e.state != .on && covers before need && !covers now need then (St.withdrawn, some p)
      else if !covers now need then (St.noRights, some p)
      else (St.ok, some p)

/-- All checks of Table 02-11. -/
def check (s : State) (q : Packet) : Nat × Option Placed :=
  if !wellFormedReq q then (St.badRequest, none)
  else match s.checkRights q with
    | (0, some p) =>
      if cacheable q.opcode.toNat && (!p.rec_.attr.coherent || (s.boundSlot q.principal).isNone) then (St.badRequest, some p)
      else (St.ok, some p)
    | r => r

/-! ### The order of one mesh cycle (R98) -/

/-- Home of a request that waits to be acted on: TX_OPEN, TX_COMMIT and TX_ABORT name it, any other that of its line, or of the die at
which it entered. -/
def cameHome (s : State) (c : Came) : Option Nat :=
  let op := c.pkt.opcode.toNat
  let l := c.pkt.dlocal.toNat
  if c.pkt.chan ≠ 0 || l < 0xC0 || 0xC3 < l then none
  else if op = Op.txOpen || op = Op.txCommit || op = Op.txAbort then some (l % 4)
  else match s.findExt ExtState.serves c.pkt.offset with
    | some (_, x) => some (lineDie (s.lineAt x.attr c.pkt.offset))
    | none => some c.die

/-- Input source of a request at home h (Table 04-9): a port of its die, the row or the column bridge, a cluster agent, the copy engines
and the collective unit, or the rest. -/
def inputSource (h : Nat) (c : Came) : Nat :=
  let l := c.pkt.src.toNat % 256
  if c.die ≠ h then (if c.die / 2 = h / 2 then 16 else 17)
  else match c.port with
    | some p => p % 16
    | none => if 0x80 ≤ l && l ≤ 0x8F then 18 + l % 4 else if 0xD0 ≤ l && l ≤ 0xD7 then 22 else 23

/-- Place of a request among those of its mesh cycle: sources from the one the pointer names, rising modulo 24. -/
def turnRank (h : Nat) (c : Came) : Nat := (inputSource h c + 24 - c.cycle % 24) % 24

/-- No request that reached the same home in the same mesh cycle goes before q. -/
def inTurn (s : State) (q : Packet) : Bool :=
  match s.fab.came.find? fun c => c.pkt == q with
  | none => true
  | some c => match s.cameHome c with
    | none => true
    | some h => !(s.fab.came.any fun x => x.cycle == c.cycle && s.cameHome x == some h && decide (turnRank h x < turnRank h c))

/-- Die at which a packet entered the node, or at which its sender lies (R41); `d` when the model has not delivered it. -/
def entryDie (s : State) (q : Packet) (d : Nat) : Nat := ((s.fab.came.find? fun c => c.pkt == q).map (·.die)).getD d

/-! ### The directory (R83, R93) -/

def dirSet (k : Nat) : Nat :=
  (lineL k % 131072) ^^^ (lineL k / 131072 % 131072) ^^^ ((lineTier2 k).toNat * 0x10000)

def dirSetKey (k : Nat) : Nat := lineDie k * 131072 + dirSet k

def dirWay (k w : Nat) : Nat := dirSetKey k * 16 + w

/-- The listed ways of a set, with their way numbers. -/
def setWays (s : State) (setKey : Nat) : List (Nat × DirEntry) :=
  (List.range 16).filterMap fun w => (s.home.dir.look (setKey * 16 + w)).map fun e => (w, e)

/-- The way and entry of a line. -/
def dirFind (s : State) (k : Nat) : Option (Nat × DirEntry) :=
  ((s.setWays (dirSetKey k)).find? fun e => e.2.line == k).map fun e => (dirWay k e.1, e.2)

/-- The entry of a line; a line without one is free. -/
def entry (s : State) (k : Nat) : DirEntry := ((s.dirFind k).map (·.2)).getD { line := k }

/-- Bits of a tree node's path: the nodes visited for way w, with the direction taken (R93). -/
def plruPath (w : Nat) : List (Nat × Bool) :=
  let b (i : Nat) : Bool := w / 2 ^ (3 - i) % 2 == 1
  let n1 := if b 0 then 2 else 1
  let n2 := 2 * n1 + 1 + (b 1).toNat
  let n3 := 2 * n2 + 1 + (b 2).toNat
  [(0, b 0), (n1, b 1), (n2, b 2), (n3, b 3)]

/-- Bits of a set pointed away from way w. -/
def plruAway (t : BitVec 16) (w : Nat) : BitVec 16 :=
  (plruPath w).foldl (fun t n =>
    if n.2 then t &&& ~~~(1#16 <<< n.1) else t ||| (1#16 <<< n.1)) t

/-- Descend from a node over the ways lo to lo + 2^n − 1, taking the half the bit names unless it holds no candidate. -/
def plruPick (t : BitVec 16) (cand : Nat → Bool) : Nat → Nat → Nat → Nat
  | 0, _, lo => lo
  | n + 1, node, lo =>
    let half := 2 ^ n
    let any (a : Nat) : Bool := (List.range half).any fun i => cand (a + i)
    let right := if t.getLsbD node then any (lo + half) else !any lo
    if right then plruPick t cand n (2 * node + 2) (lo + half) else plruPick t cand n (2 * node + 1) lo

def touch (s : State) (k w : Nat) : State :=
  s.uHome fun h => { h with plru := h.plru.putC 0 (dirSetKey k) (plruAway (h.plru.lookD (dirSetKey k) 0) w) }

/-- A lookup that finds a line's entry points its path away (R93). -/
def lookedUp (s : State) (k : Nat) : State :=
  match s.dirFind k with
  | some (w, _) => s.touch k (w % 16)
  | none => s

/-- Write a line's entry, or free it when it is I without pins and lock (R83). -/
def putEntry (s : State) (way : Nat) (e : DirEntry) : State :=
  s.uHome fun h => { h with dir :=
    if e.state = .i && e.pins = 0 && !e.lock then h.dir.del way else h.dir.put way e }

/-- Change the entry of a line that has one. -/
def updEntry (s : State) (k : Nat) (f : DirEntry → DirEntry) : State :=
  match s.dirFind k with
  | some (w, e) => s.putEntry w (f e)
  | none => s

/-- Look at line k's queue again before the command ends. -/
def wakeLine (s : State) (k : Nat) : State := s.uHome fun h => { h with wake := h.wake ++ [k] }

/-! ### Queues and tables -/

def reqKey (d i : Nat) : Nat := d * 4096 + i

def lineQueue (s : State) (k : Nat) : List QItem := s.home.queue.lookD k []

def setQueue (s : State) (k : Nat) (q : List QItem) : State :=
  s.uHome fun h => { h with queue := if q.isEmpty then h.queue.del k else h.queue.put k q }

def getReq (s : State) (d i : Nat) : Option Req := s.home.req.look (reqKey d i)

def updReq (s : State) (d i : Nat) (f : Req → Req) : State :=
  s.uHome fun h => { h with req := h.req.upd (reqKey d i) f }

/-- Work in flight of a partition (R330). -/
def flightAdd (s : State) (p : Nat) : State := s.wr F.secPartStatus_inflight p (s.rd F.secPartStatus_inflight p + 1)
def flightSub (s : State) (p : Nat) : State := s.wr F.secPartStatus_inflight p (s.rd F.secPartStatus_inflight p - 1)

/-- A request takes entry `key` of the request table and its place in its line's queue (R89, R92). -/
def takeEntry (s : State) (key : Nat) (r : Req) : State :=
  let d := key / 4096
  let s := s.uHome fun h => { h with req := h.req.put key r }
  let s := s.wr F.dirStatus_reqUsed d (s.rd F.dirStatus_reqUsed d + 1)
  let s := s.flightAdd r.partition
  (s.setQueue r.line (s.lineQueue r.line ++ [.req (key % 4096)])).wakeLine r.line

/-- The extent of a partition that serves an offset for the node's own units (check 2 of Table 02-11; R175). -/
def unitExtent (s : State) (p off : Nat) : Option (Nat × Extent) :=
  match s.findExt ExtState.serves off with
  | some (e, x) => if x.attr.partition = p then some (e, x) else none
  | none => none

/-- An uncached request of a unit of die `die` at the homes, which no response answers: tag 0x3FFF, which no requester uses (R234). -/
def unitReq (s : State) (op die off home : Nat) (data : LineData) (mask : Mask) : Packet :=
  { opcode := BitVec.ofNat 8 op, len := if op = Op.wrUnc then 5 else 0, src := s.endpoint (0xE0 + die), principal := s.endpoint (0xE0 + die)
    tag := 0x3FFF, dlocal := BitVec.ofNat 8 (0xC0 + home), addr := BitVec.ofNat 64 (s.node * 2 ^ 52 + off / 128 * 128), data := data
    mask := mask }

/-- A unit's request for a line takes an entry of the request table, if one is free. -/
def unitEnter (s : State) (k e : Nat) (x : Extent) (q : Packet) : Option State :=
  (s.home.req.freeKey (reqKey (lineDie k) 0) 4096).map fun key =>
    s.takeEntry key { pkt := q, line := k, ext := e, gen := x.gen, ecc := .clean, slot := none, partition := x.attr.partition }

/-- The first write of the node's own units that waits for an entry of die d is issued again (R92); one whose extent no longer serves it is
dropped. -/
def repost (s : State) (d : Nat) : State :=
  let home (w : Posted) : Option (Nat × Extent × Nat) := (s.unitExtent w.partition w.off).map fun x => (x.1, x.2, s.lineAt x.2.attr w.off)
  match s.home.posted.find? fun w => (home w).all fun h => lineDie h.2.2 == d with
  | none => s
  | some w => match home w with
    | none => s.uHome fun h => { h with posted := h.posted.erase w }
    | some (e, x, k) => match s.unitEnter k e x (s.unitReq Op.wrUnc w.die w.off d w.data w.mask) with
      | some s => s.uHome fun h => { h with posted := h.posted.erase w }
      | none => s

/-- Free a request's entry and its place in its line's queue (R89, R92); a line read for it and not used is dropped. -/
def finishReq (s : State) (d i : Nat) : State :=
  match s.getReq d i with
  | none => s
  | some r =>
    let s := s.uHome fun h => { h with req := h.req.del (reqKey d i) }
    let s := s.uMem fun m => { m with arrived := m.arrived.del r.line }
    let s := s.wr F.dirStatus_reqUsed d (s.rd F.dirStatus_reqUsed d - 1)
    let s := s.flightSub r.partition
    ((s.setQueue r.line ((s.lineQueue r.line).erase (.req i))).wakeLine r.line).repost d

/-- A write of the node's own dispatchers and engines into their rings: tag 0x3FFF, which no requester uses (R234), and no
response. -/
def internalReq (s : State) (q : Packet) : Bool := q.tag == 0x3FFF && q.src.toNat / 256 == s.node

/-- Status of a response for a partition in REVOKING (Table 15-6, step 3). -/
def answer (s : State) (d : Nat) (q : Packet) (op status : Nat) (detail : Nat := 0)
    (payload : Option (LineData × Bool) := none) : State :=
  if s.internalReq q then s
  else if status ≠ St.revoked && ((s.partitionOf q).map s.revoking).getD false && op ≥ 0x30 then
    s.respond d (0xC0 + d) q Op.status St.revoked
  else s.respond d (0xC0 + d) q op status detail payload

/-- Complete request i of die d with a status and free it. -/
def failReq (s : State) (d i status : Nat) (detail : Nat := 0) : State :=
  match s.getReq d i with
  | some r => (s.answer d r.pkt Op.status status detail).finishReq d i
  | none => s

/-! ### Forwards and invalidations (R86, R435) -/

/-- Send a FWD or INV for line k to slot o, with an index; `q` is the request it serves (R233). -/
def sendFwd (s : State) (k o op idx : Nat) (q : Option Packet) : State :=
  let d := lineDie k
  let ep := s.slotEndpoint o
  s.send d { opcode := BitVec.ofNat 8 op, chan := 2, src := s.endpoint (0xC0 + d),
             principal := ((q.map (·.src)).getD (s.endpoint (0xC0 + d))), tag := (q.map (·.tag)).getD 0,
             dlocal := BitVec.ofNat 8 (ep.toNat % 256), txid := BitVec.ofNat 32 idx,
             addr := BitVec.ofNat 64 (ep.toNat / 256 * 2 ^ 52 + s.lineOffset k) }

/-- INV to every slot of a mask. -/
def sendInvs (s : State) (k : Nat) (m : Mask) (idx : Nat) (q : Option Packet) : State :=
  (maskMembers m).foldl (fun s o => s.sendFwd k o Op.inv idx q) s

/-- Settle a stable line's holders whose slot is being swept, as step 2 of Table 04-8 would. -/
def settleSwept (s : State) (k : Nat) : State :=
  match s.dirFind k with
  | none => s
  | some (w, e) =>
    let dead := (maskMembers e.sharers).filter s.slotSweeping
    if dead.isEmpty || e.state.busy then s
    else
      let left := dead.foldl (fun m o => m &&& ~~~(maskBit o)) e.sharers
      if e.state = .s then s.putEntry w { e with sharers := left, state := if left = 0 then .i else .s }
      else (s.poisonLine k).putEntry w { e with sharers := 0, state := .i }

/-- Begin a recall of a stable line's holders on the home's own account (R435). False: the recall table is full. -/
def startRecall (s : State) (k : Nat) (why : RclFor) : State × Bool :=
  let d := lineDie k
  match s.home.rcl.freeKey (d * 4096) 4096, s.dirFind k with
  | some key, some (w, e) =>
    let idx := 4096 + key % 4096
    let isS := e.state == .s
    let owner := (maskMembers e.sharers).head?
    let s := s.putEntry w { e with state := .bRcl }
    let rec_ : Recall := { line := k, why := why, invs := if isS then e.sharers else 0, fwd := if isS then none else owner }
    let s := s.uHome fun h => { h with rcl := h.rcl.put key rec_ }
    if isS then (s.sendInvs k e.sharers idx none, true)
    else match owner with
      | some o => (s.sendFwd k o Op.fwdHomeInv idx none, true)
      | none => (s, true)
  | _, _ => (s, false)

/-- What taking an entry for a line comes to (R93). -/
inductive Alloc where
  | have_
  | wait
  | noWay
  deriving DecidableEq, Repr

/-- Ways of a set that pins hold (R94). -/
def pinnedWays (s : State) (k : Nat) : Nat := ((s.setWays (dirSetKey k)).filter fun e => e.2.pins ≠ 0).length

/-- DIR_HINT of a line that the memory-side cache holds becomes 01 or 00 (R85). -/
def setHint (s : State) (k : Nat) (v : Bool) : State :=
  match s.mscFind k with
  | some (w, l) =>
    if l.md.hint = v then s else s.mscPut w { l with md := LineMeta.coded { l.md with hint := v } l.data, dirty := true }
  | none => s

/-- Back-invalidation: recall a victim for line k; an S victim with two or more sharers leaves DIR_HINT 01 (R85, R93). A full recall
table lets the request wait. -/
def recallVictim (s : State) (k v : Nat) : State :=
  let e := s.entry v
  match s.startRecall v (.evict k) with
  | (s, true) => if e.state == .s && decide (2 ≤ (maskMembers e.sharers).length) then s.setHint v true else s
  | (s, false) => s

/-- Take an entry for line k: its own, the lowest free way, or the victim's once recalled (R93). A line whose victim is being recalled
waits for that way. -/
def allocEntry (s : State) (k : Nat) : State × Alloc :=
  let ways := s.setWays (dirSetKey k)
  match ways.find? fun e => e.2.line == k with
  | some (w, _) => (s.touch k w, .have_)
  | none =>
    match (List.range 16).find? fun w => (ways.find? fun e => e.1 == w).isNone with
    | some w => ((s.uHome fun h => { h with dir := h.dir.put (dirWay k w) { line := k } }).touch k w, .have_)
    | none =>
      let cand (w : Nat) : Bool := match ways.find? fun e => e.1 == w with
        | some (_, e) => e.pins == 0 && !e.lock && !e.state.busy
        | none => false
      if s.home.rcl.any fun r => r.2.why == .evict k then (s, .wait)
      else if (List.range 16).any cand then
        let w := plruPick (s.home.plru.lookD (dirSetKey k) 0) cand 4 0 0
        match ways.find? fun e => e.1 == w with
        | some (_, v) =>
          let s := s.settleSwept v.line
          if (s.entry v.line).state == .i then
            ((s.uHome fun h => { h with dir := (h.dir.del (dirWay k w)).put (dirWay k w) { line := k } }).touch k w, .have_)
          else (s.recallVictim k v.line, .wait)
        | none => (s, .noWay)
      else (s, .noWay)

/-! ### Transactions: records and aborts (R104, R108, R118) -/

def txnKey (c i : Nat) : Nat := c * 1024 + i
def txnDie (k : Nat) : Nat := k / 1024

def txn (s : State) (k : Nat) : Txn := s.txns.lookD k {}
def setTxn (s : State) (k : Nat) (t : Txn) : State := { s with txns := s.txns.putC {} k t }
def updTxn (s : State) (k : Nat) (f : Txn → Txn) : State := s.setTxn k (f (s.txn k))

/-- TXID of a record (Table 05-2). -/
def txidOf (s : State) (k : Nat) : BitVec 32 :=
  BitVec.ofNat 32 (k % 1024 + k / 1024 * 2 ^ 10 + (s.txn k).gen.toNat * 2 ^ 12 + s.node * 2 ^ 20)

/-- Transactions that count on a die, and its staging buffers in use (Tables 05-1, 05-9). -/
def txnLive (s : State) (d : Nat) : Nat :=
  (s.txns.filter fun t => t.2.state != .free &&
    (txnDie t.1 == d || (t.2.lines.any fun l => lineDie l.line == d) || t.2.phases.any fun p => p.1 == d)).length
def txnBufs (s : State) (d : Nat) : Nat :=
  s.txns.foldl (fun n t => n + (t.2.lines.filter fun l => lineDie l.line == d && l.staged.isSome).length) 0

/-- The record a TXID names, when it is this node's, in use and of this generation (R104). -/
def txnOf (s : State) (txid : BitVec 32) : Option Nat :=
  let n := txid.toNat
  let k := n % 4096
  if n / 2 ^ 20 = s.node && (s.txn k).gen.toNat = n / 2 ^ 12 % 256 && (s.txn k).state != .free then some k else none

/-- TXN_STATUS of every die (Table 05-9), from the records. -/
def txnRefresh (s : State) : State :=
  [0, 1, 2, 3].foldl (fun s d => (s.wr F.txnStatus_open d (s.txnLive d)).wr F.txnStatus_wbuf d (s.txnBufs d)) s

/-- Release one line of a transaction: its lock and its pin (R118). -/
def releaseLine (s : State) (l : TxnLine) : State :=
  (s.updEntry l.line fun e => { e with pins := e.pins - 1, lock := if l.locked then false else e.lock }).wakeLine l.line

/-- Remove a transaction's lock requests from the line queues. -/
def dropLocks (s : State) (k : Nat) : State :=
  s.uHome fun h => { h with queue := (h.queue.map fun e => (e.1, e.2.filter (· ≠ .lock k))).filter fun e => !e.2.isEmpty }

/-- Free a record: GEN advances (R118). -/
def freeTxn (s : State) (k : Nat) : State := (s.setTxn k { gen := (s.txn k).gen + 1 }).txnRefresh

/-- Abort a transaction that is open or preparing, with a cause (R118, R119): `notice` tells the opener by TX_NOTICE when no
TX_COMMIT is outstanding (R107). -/
def abortTxn (s : State) (k cause : Nat) (notice : Bool := true) : State :=
  let t := s.txn k
  if t.state != .open && t.state != .preparing then s
  else
    let d := txnDie k
    let s := (t.lines.foldl releaseLine s).dropLocks k
    let s := s.setTxn k { t with state := .aborted, cause := cause, lines := [], phases := [], commit := none }
    let s := (s.bump F.txnCount_aborts d).bump F.txnAbortCnt_count (d * 16 + cause % 16)
    let s := match t.commit with
      | some q => s.answer d q Op.status St.txAbort cause
      | none =>
        if notice then
          s.send d { opcode := BitVec.ofNat 8 Op.txNotice, chan := 1, src := s.endpoint (0xC0 + d), dest := t.source,
                     tag := 0x3FFF, status := BitVec.ofNat 5 St.txAbort, detail := BitVec.ofNat 16 cause,
                     txid := s.txidOf k, bark := BitVec.ofNat 3 (s.homeBark d) }
        else s
    s.txnRefresh

/-- Abort every transaction that has not passed its commit point and that pred picks. -/
def abortWhere (s : State) (cause : Nat) (notice : Bool) (pred : Nat → Txn → Bool) : State :=
  (s.txns.filter fun t => pred t.1 t.2).foldl (fun s t => s.abortTxn t.1 cause notice) s

/-- Report a non-transactional write of a pinned line: readers abort with CONFLICT (R113). -/
def reportWrite (s : State) (k : Nat) : State :=
  if (s.entry k).pins = 0 then s
  else s.abortWhere 1 true fun _ t => t.lines.any fun l => l.line == k && l.inRead

/-- A line of an open read set has become poisoned (R114). -/
def reportPoison (s : State) (k : Nat) : State :=
  s.abortWhere 4 true fun _ t => t.lines.any fun l => l.line == k && l.inRead

/-! ### Service (Table 04-4) -/

/-- A request of the node's own agents whose reads do not allocate (R67, R149). -/
def streaming (s : State) (q : Packet) : Bool :=
  q.src.toNat / 256 == s.node && ((s.outs.look (outKey (q.src.toNat % 256) q.tag.toNat)).map (·.stream)).getD false

/-! ### A home that stops (R69, R84, R117) -/

/-- A line holds an undefined value: a free one, poisoned or not (R8, R117, log 65). -/
def freeLineAt (s : State) (k : Nat) : State :=
  s.draw.draw.writeLine k (s.mscAlloc k) (Config.freeLine s.free) ((Config.freeWord (s.free + 1)).getLsbD 0) (s.peekLine k).2.hint

/-- A stopped home completes every request with INTERNAL; the write-set lines of its legs between the commit point and APPLIED become
undefined (R84, R117). -/
def stopHome (s : State) (d : Nat) : State :=
  let s := (s.home.req.filter fun e => e.1 / 4096 == d).foldl (fun s e => s.failReq d (e.1 % 4096) St.internal) s
  let left (l : TxnLine) : Bool := lineDie l.line == d && l.staged.isSome
  (s.txns.filter fun t => t.2.state == .committed).foldl (fun s t =>
    (t.2.lines.filter left).foldl (fun s l => s.freeLineAt l.line)
      (s.updTxn t.1 fun t => { t with lines := t.lines.map fun l => if left l then { l with staged := none } else l })) s

/-- An uncorrectable entry of the directory or of the recall table stops the home (R84, R435). -/
def dirHalt (s : State) (d : Nat) : State :=
  let s := (s.bump F.dirEcc_uncorr d).wr F.dirStatus_halted d 1
  ((s.uHome fun h => { h with halted := if h.halted.contains d then h.halted else h.halted ++ [d] }).raise
    { type := 0x0903, sev := 3, die := d, inst := d, status := St.internal, arg := [BitVec.ofNat 8 d] } |>.histAdd 9 d 1 1).stopHome d

/-- A correctable error of a directory entry is written back and counted (R84). -/
def dirCorrected (s : State) (d : Nat) : State := s.bump F.dirEcc_corrected d

/-- Read a line for a demand access. -/
def demandRead (s : State) (k : Nat) (u : Upset) (stream : Bool := false) : Got × State :=
  match s.readLine k (s.mscAlloc k && !stream) u with
  | (.data data md, s') => (.data data md, if md.poison then s'.reportPoison k else s')
  | (.stopped, s') => (.stopped, s'.stopHome (lineDie k))
  | (.waits, s') => (.waits, s')

/-- Send a grant for request i (R235) and await COMPLETE. A grant of E or M clears DIR_HINT (R85). -/
def grant (s : State) (d i : Nat) (r : Req) (op : Nat) (payload : Option (LineData × Bool)) (st : DirState)
    (sh : Mask) : State :=
  let s := s.answer d r.pkt op St.ok (i + d * 4096) payload
  let s := s.updEntry r.line fun e => { e with state := .bGrant }
  let s := if st == .s then s else s.setHint r.line false
  s.updReq d i fun r => { r with active := true, compl := true, invs := 0, fwd := none, wb := none, next := st,
                                 nextSharers := sh }

/-- Grant M to slot `me` with data from memory. -/
def grantOwn (s : State) (d i : Nat) (r : Req) (me : Nat) : State :=
  match s.demandRead r.line r.ecc (s.streaming r.pkt) with
  | (.data data md, s) => s.grant d i r Op.dataM (some (data, md.poison)) .m (maskBit me)
  | (_, s) => s

/-- Merge a write or an atomic into a line and answer it (R63, R86): `base` is the line's current data and poison, `fresh` says that the
line has not been read for it. MSC_CTRL.ALLOC_T1 and ALLOC_T2 hold for whole-line writes too: DESIGN CHOICE, log 69. -/
def performWrite (s : State) (d : Nat) (r : Req) (base : LineData) (poisoned : Bool) (fresh : Bool := true) : State :=
  let q := r.pkt
  if q.opcode.toNat = Op.wrUnc then
    let full := q.len == 4 || q.mask == maskFull
    let mask := if q.len == 4 then maskFull else q.mask
    let s := s.writeLine r.line (s.mscAlloc r.line) (mergeLine base q.data mask)
      (q.poison || (poisoned && !full)) false fresh
    let s := if q.poison then s.reportPoison r.line else s
    s.answer d q Op.done St.ok
  else
    let (new, old) := atomicApply q base
    let s := s.writeLine r.line (s.mscAlloc r.line) new (q.poison || poisoned) false fresh
    if subRet q then
      s.answer d q Op.dataUnc (if poisoned then St.poison else St.ok) 0 (some (atomicReturn q old, poisoned))
    else s.answer d q Op.done St.ok

/-- A write needs no read of its line: it covers the whole line (R67). -/
def wholeLine (q : Packet) : Bool := q.opcode.toNat == Op.wrUnc && (q.len == 4 || q.mask == maskFull)

/-- WB_ACK for a writeback (R88). -/
def ackWb (s : State) (d : Nat) (q : Packet) : State := s.respond d (0xC0 + d) q Op.wbAck St.ok

/-- WB_ACK of the writebacks that crossed, once the line leaves its busy state (R99). -/
def ackAll (s : State) (d i : Nat) (r : Req) : State :=
  if r.acks.isEmpty then s else (r.acks.foldl (fun s q => s.ackWb d q) s).updReq d i fun r => { r with acks := [] }

/-- A write or an atomic on a line that no slot holds, with the owner's data when it came; a line in DRAM is read first. -/
def serveWrite (s : State) (d i : Nat) (r : Req) : State :=
  let free (s : State) : State := (s.updEntry r.line fun e => { e with state := .i, sharers := 0 }).ackAll d i r
  match r.got with
  | some (data, p) => ((free s).performWrite d r data p).finishReq d i
  | none =>
    if wholeLine r.pkt then
      if r.ecc.tags then (s.cacheHalt (lineDie r.line)).stopHome (lineDie r.line)
      else ((free s).performWrite d r 0 false).finishReq d i
    else match s.demandRead r.line r.ecc (s.streaming r.pkt) with
      | (.data data md, s) => ((free s).performWrite d r data md.poison false).finishReq d i
      | (_, s) => s

/-! ### Transactional requests (R109 to R111) -/

/-- The transaction's record of a line. -/
def txnLine (t : Txn) (k : Nat) : Option TxnLine := t.lines.find? fun l => l.line == k

/-- Committed value overlaid with staged bytes (R111). -/
def overlay (l : Option TxnLine) (data : LineData) : LineData :=
  match l with
  | some x => match x.staged with
    | some (sd, m) => mergeLine data sd m
    | none => data
  | none => data

/-- Complete a transactional request of record key tk that the home has accepted and read: `data` is the committed value. A staged line
that is poisoned counts as a poisoned read (Table 01-2, R111). The poison flag of the packet's own data poisons the staged line: DESIGN CHOICE, log 70. -/
def performTx (s : State) (d i : Nat) (r : Req) (tk : Nat) (data : LineData) (poisoned : Bool) : State :=
  let q := r.pkt
  let op := q.opcode.toNat
  let t := s.txn tk
  let old := txnLine t r.line
  if (poisoned || (old.map (·.spoiled)).getD false) && op ≠ Op.txWr then ((s.abortTxn tk 4).failReq d i St.txAbort 4)
  else
    let cur := overlay old data
    let put (l : TxnLine) : State :=
      s.setTxn tk { t with ok := t.ok + 1,
                           lines := (t.lines.filter fun x => x.line != r.line) ++ [l] }
    let prev : TxnLine := old.getD { line := r.line, ext := r.ext, inRead := false, staged := none }
    let staged0 : LineData × Mask := prev.staged.getD (0, 0)
    if op = Op.txRd then
      ((put { prev with inRead := true }).answer d q Op.dataUnc St.ok 0 (some (cur, false))).finishReq d i
    else if op = Op.txWr then
      let m := if q.len == 4 then maskFull else q.mask
      ((put { prev with
        staged := some (mergeLine staged0.1 q.data m, staged0.2 ||| m), spoiled := q.poison || (prev.spoiled && m != maskFull) }).answer d q Op.done St.ok).finishReq d i
    else
      let (new, ov) := atomicApply q cur
      let m : Mask := BitVec.ofNat 128 (2 ^ subSize q.sub.toNat - 1) <<< (q.offset % 128)
      let s := put { prev with inRead := true, staged := some (mergeLine staged0.1 new m, staged0.2 ||| m), spoiled := q.poison }
      let s := if subRet q then s.answer d q Op.dataUnc St.ok 0 (some (atomicReturn q ov, false)) else s.answer d q Op.done St.ok
      s.finishReq d i

/-- Limits of a transaction's sets and of the die's buffers (Table 05-1): the CAPACITY reason a new access meets. -/
def txCapacity (s : State) (tk : Nat) (t : Txn) (d k op : Nat) : Option Nat :=
  let old := txnLine t k
  let joinsRead := (op = Op.txRd || op = Op.txAtomic) && !((old.map (·.inRead)).getD false)
  let joinsWrite := (op = Op.txWr || op = Op.txAtomic) && ((old.map (·.staged.isNone)).getD true)
  let reads : Nat := s.txns.foldl (fun n x => n + (x.2.lines.filter fun l => lineDie l.line == d && l.inRead).length) 0
  let newLeg := txnDie tk != d && !(t.lines.any fun l => lineDie l.line == d)
  if joinsRead && decide (256 ≤ (t.lines.filter (·.inRead)).length) then some 1
  else if joinsWrite && decide (64 ≤ (t.lines.filter (·.staged.isSome)).length) then some 2
  else if old.isNone && (s.entry k).pins = 0 && decide (14 ≤ s.pinnedWays k) then some 3
  else if joinsWrite && decide (16384 ≤ s.txnBufs d) then some 4
  else if joinsRead && decide (65536 ≤ reads) then some 4
  else if newLeg && old.isNone && decide (1024 ≤ s.txnLive d) then some 4
  else none

/-- Request kinds of a transaction's lines. -/
def isTx (op : Nat) : Bool := op == Op.txRd || op == Op.txWr || op == Op.txAtomic

/-- Answer a transactional request from its line's data in memory, once it is there. -/
def readTx (s : State) (d i : Nat) (r : Req) (tk : Nat) : State :=
  match s.demandRead r.line r.ecc (s.streaming r.pkt) with
  | (.data data md, s) => (s.performTx d i r tk data md.poison).txnRefresh
  | (_, s) => s

/-- Serve a transactional request at the head of its line's queue. One that TX_COMMIT has overtaken aborts its transaction (R106). -/
def serveTx (s : State) (d i : Nat) (r : Req) : State :=
  match s.txnOf r.pkt.txid with
  | none => s.failReq d i St.txAbort 0xA
  | some tk =>
    let t := s.txn tk
    let op := r.pkt.opcode.toNat
    if t.state = .aborted then s.failReq d i St.txAbort t.cause
    else if t.state = .preparing then (s.abortTxn tk 0xA).failReq d i St.txAbort 0xA
    else if t.state = .committed then s.failReq d i St.badRequest
    else match s.txCapacity tk t d r.line op with
      | some reason => (s.abortTxn tk (2 + 16 * reason)).failReq d i St.txAbort (2 + 16 * reason)
      | none =>
        let isNew := (txnLine t r.line).isNone
        match (if isNew then s.allocEntry r.line else (s.lookedUp r.line, Alloc.have_)) with
        | (s, .wait) => s
        | (s, .noWay) => (s.bump F.dirRetry_noWay d).failReq d i St.retry
        | (s, .have_) =>
          let s := if isNew then s.updEntry r.line fun e => { e with pins := e.pins + 1 } else s
          let s := if isNew then s.setTxn tk { t with lines := t.lines ++ [{ line := r.line, ext := r.ext, inRead := false, staged := none }] } else s
          let e := s.entry r.line
          if op = Op.txWr then (s.performTx d i r tk 0 false).txnRefresh
          else if e.state = .e || e.state = .m then
            let o := (maskMembers e.sharers).headD 0
            let s := s.updEntry r.line fun e => { e with state := .bFwdh }
            ((s.updReq d i fun r => { r with active := true, fwd := some o, next := .s, nextSharers := maskBit o }).sendFwd
              r.line o Op.fwdHomeShared i (some r.pkt)).txnRefresh
          else (s.readTx d i r tk).txnRefresh

/-- RD_SHARED of a line that no slot owns: its entry, the line read, and the grant of S or E (Table 04-4). -/
def serveShared (s : State) (d i : Nat) (r : Req) (me : Nat) : State :=
  match s.allocEntry r.line with
  | (s, .wait) => s
  | (s, .noWay) => (s.bump F.dirRetry_noWay d).failReq d i St.retry
  | (s', .have_) => match s'.demandRead r.line r.ecc (s.streaming r.pkt) with
    | (.waits, s') => { s with mem := s'.mem }
    | (.stopped, s') => s'
    | (.data data md, s) =>
      let e := s.entry r.line
      let asE := e.state = .i && e.pins = 0 && s.flag F.dirCtrl_grantE && !(s.flag F.dirCtrl_hintEn && md.hint)
      if asE then s.grant d i r Op.dataE (some (data, md.poison)) .e (maskBit me)
      else s.grant d i r Op.dataS (some (data, md.poison)) .s (e.sharers ||| maskBit me)

/-- RD_OWN or UPGRADE of a line that no slot owns: the other sharers lose it, else M is granted, without data to an UPGRADE whose slot
shares the line (Table 04-4). -/
def serveOwn (s : State) (d i : Nat) (r : Req) (me : Nat) : State :=
  match s.allocEntry r.line with
  | (s, .wait) => s
  | (s, .noWay) => (s.bump F.dirRetry_noWay d).failReq d i St.retry
  | (s', .have_) =>
    let e := s.entry r.line
    let others := e.sharers &&& ~~~(maskBit me)
    let keeps := r.pkt.opcode.toNat = Op.upgrade && e.sharers.getLsbD me
    if others ≠ 0 then
      -- the memory read of RD_OWN runs beside the invalidations (Table 04-4)
      let s := (((s'.lookedUp r.line).updEntry r.line fun e => { e with state := .bInv }).updReq d i fun r => { r with
        active := true, invs := others, next := .m, nextSharers := maskBit me }).sendInvs r.line others i (some r.pkt)
      if keeps || s.held r.line then s else s.want r.line
    else if keeps then s'.grant d i r Op.grantM none .m (maskBit me)
    else match s'.demandRead r.line r.ecc (s.streaming r.pkt) with
      | (.waits, s') => { s with mem := s'.mem }
      | (.stopped, s') => s'
      | (.data data md, s) => s.grant d i r Op.dataM (some (data, md.poison)) .m (maskBit me)

/-- RD_UNC of a line that no slot owns (Table 04-4). -/
def serveUnc (s : State) (d i : Nat) (r : Req) : State :=
  match s.demandRead r.line r.ecc (s.streaming r.pkt) with
  | (.data data md, s) =>
    ((s.lookedUp r.line).answer d r.pkt Op.dataUnc (if md.poison then St.poison else St.ok) 0 (some (data, md.poison))).finishReq d i
  | (_, s) => s

/-- Serve the request at the head of a stable line's queue (Table 04-4). A request that must read its line from DRAM waits for it and is
looked at again; nothing else of its service comes before. -/
def serve (s : State) (d i : Nat) : State :=
  match s.getReq d i with
  | none => s
  | some r =>
    let op := r.pkt.opcode.toNat
    let s := s.settleSwept r.line
    let slot := s.boundSlot r.pkt.principal
    if isTx op then s.serveTx d i r
    else if cacheable op && slot.isNone then s.failReq d i St.badRequest
    else
      let me := slot.getD 128
      let r : Req := if cacheable op then { r with slot := slot } else r
      let s := if cacheable op then s.updReq d i fun r => { r with slot := slot } else s
      let e := s.entry r.line
      let owner := (maskMembers e.sharers).headD 0
      let held := e.state = .e || e.state = .m
      let writes := op ≠ Op.rdShared && op ≠ Op.rdUnc
      let s := if writes then s.reportWrite r.line else s
      let busy (st : DirState) (s : State) : State := (s.lookedUp r.line).updEntry r.line fun e => { e with state := st }
      if cacheable op && held && owner = me then
        (busy .bWb s).updReq d i fun r => { r with active := true, wb := some me }
      else if op = Op.rdShared then
        if held then
          (((busy .bFwd s).updReq d i fun r => { r with
            active := true, fwd := some owner, compl := true, next := .s, nextSharers := maskBit owner ||| maskBit me }).sendFwd
              r.line owner Op.fwdShared i (some r.pkt))
        else s.serveShared d i r me
      else if op = Op.rdOwn || op = Op.upgrade then
        if held then
          (((busy .bFwd s).updReq d i fun r => { r with
            active := true, fwd := some owner, compl := true, next := .m, nextSharers := maskBit me }).sendFwd
              r.line owner Op.fwdOwn i (some r.pkt))
        else s.serveOwn d i r me
      else if op = Op.rdUnc then
        if held then
          (((busy .bFwdh s).updReq d i fun r => { r with
            active := true, fwd := some owner, next := .s, nextSharers := maskBit owner }).sendFwd
              r.line owner Op.fwdHomeShared i (some r.pkt))
        else s.serveUnc d i r
      else if held then
        (((busy .bFwdh s).updReq d i fun r => { r with
          active := true, fwd := some owner, next := .i, nextSharers := 0 }).sendFwd r.line owner Op.fwdHomeInv i (some r.pkt))
      else if e.state = .s then
        ((busy .bInv s).updReq d i fun r => { r with
          active := true, invs := e.sharers, next := .i, nextSharers := 0 }).sendInvs r.line e.sharers i (some r.pkt)
      else s.serveWrite d i r

/-! ### Locks (R115) -/

/-- Place of a line in the global lock order of a leg: (T, L). -/
def lockRank (k : Nat) : Nat := (lineTier2 k).toNat * 2 ^ 40 + lineL k

/-- The leg's next line to lock, in rising (T, L). -/
def nextLock (t : Txn) (d : Nat) : Option TxnLine :=
  (t.lines.filter fun l => lineDie l.line == d && !l.locked).foldl
    (fun (a : Option TxnLine) l => match a with
      | some x => if lockRank l.line < lockRank x.line then some l else some x
      | none => some l) none

/-- Queue the leg's next lock request, or mark the leg READY (R115, R116). -/
def lockOn (s : State) (tk d : Nat) : State :=
  let t := s.txn tk
  match nextLock t d with
  | some l => (s.setQueue l.line (s.lineQueue l.line ++ [.lock tk])).wakeLine l.line
  | none => s.setTxn tk { t with phases := t.phases.put d .ready }

/-- A lock request at the head of a stable line's queue: recall the holders, then set LOCK. -/
def serveLock (s : State) (k tk : Nat) : State :=
  let s := s.settleSwept k
  let e := s.entry k
  if e.state = .i then
    let s := s.updEntry k fun e => { e with lock := true }
    let s := s.setQueue k ((s.lineQueue k).erase (.lock tk))
    let s := s.updTxn tk fun t => { t with lines := t.lines.map fun l => if l.line = k then { l with locked := true } else l }
    s.lockOn tk (lineDie k)
  else (s.startRecall k .lock).1

/-! ### Leaving the busy states (R90) -/

/-- The line takes its next state; writebacks that crossed are acknowledged; the request is finished (R90, R99). -/
def leaveBusy (s : State) (d i : Nat) (r : Req) : State :=
  let sh := r.nextSharers
  let st := if sh = 0 then .i else r.next
  let s := s.updEntry r.line fun e => { e with state := st, sharers := sh }
  (r.acks.foldl (fun s q => s.ackWb d q) s).finishReq d i

/-- A read whose owner has answered: the line takes its next state, the requester its data (Table 04-5, B_FWDH). -/
def answerRead (s : State) (d i : Nat) (r : Req) (data : LineData) (p : Bool) : State :=
  let st := if r.nextSharers = 0 then .i else r.next
  let s := (s.updEntry r.line fun e => { e with state := st, sharers := r.nextSharers }).ackAll d i r
  if isTx r.pkt.opcode.toNat then
    match s.txnOf r.pkt.txid with
    | none => s.failReq d i St.txAbort 0xA
    | some tk =>
      let t := s.txn tk
      if t.state = .aborted then s.failReq d i St.txAbort t.cause
      else (s.performTx d i r tk data p).txnRefresh
  else (s.answer d r.pkt Op.dataUnc (if p then St.poison else St.ok) 0 (some (data, p))).finishReq d i

/-- What a request does when everything it awaited has come (Table 04-5). -/
def advance (s : State) (d i : Nat) : State :=
  match s.getReq d i with
  | none => s
  | some r =>
    if !r.active || r.invs ≠ 0 || r.fwd.isSome || r.wb.isSome || r.compl then s
    else
      let op := r.pkt.opcode.toNat
      match (s.entry r.line).state with
      | .bGrant => s.leaveBusy d i r
      | .bFwd => s.leaveBusy d i r
      | .bInv =>
        if op = Op.rdOwn || op = Op.upgrade then
          if op = Op.upgrade && (r.slot.map (s.entry r.line).sharers.getLsbD).getD false then
            s.grant d i r Op.grantM none .m (maskBit (r.slot.getD 0))
          else s.grantOwn d i r (r.slot.getD 0)
        else s.serveWrite d i r
      | .bFwdh =>
        if op = Op.rdUnc || isTx op then
          match r.got with
          | some (data, p) => (s.writeLine r.line (s.mscAlloc r.line) data p false).answerRead d i r data p
          | none => match s.demandRead r.line r.ecc (s.streaming r.pkt) with
            | (.data data md, s) => s.answerRead d i r data md.poison
            | (_, s) => s
        else s.serveWrite d i r
      | .bWb =>
        let s := s.ackAll d i r
        let s := s.updEntry r.line fun e => { e with state := .i, sharers := 0 }
        let s := s.updReq d i fun r => { r with active := false }
        s.wakeLine r.line
      | _ => s

/-- Look at one line's queue: serve its head when the line is stable and unlocked (R89), or go on with it when the line is busy for it
and the line's data has come. A stopped home serves none (R84), and a full write queue holds the lines of its unit back (R56). -/
def pump (s : State) (k : Nat) : State :=
  let e := s.entry k
  if e.lock || s.home.halted.contains (lineDie k) || s.blocked k then s
  else match s.lineQueue k with
    | [] => s
    | .req i :: _ => if e.state.busy then s.advance (lineDie k) i else s.serve (lineDie k) i
    | .lock tk :: _ => if e.state.busy then s else s.serveLock k tk

/-- Look at every line whose queue may have moved, `fuel` looks at most. -/
def drain : Nat → State → State
  | 0, s => s
  | n + 1, s =>
    match s.home.wake with
    | [] => s
    | k :: ks => drain n ((s.uHome fun h => { h with wake := ks }).pump k)

/-- Enough looks for every waiting item, every line of a transaction and every woken line. -/
def looks (s : State) : Nat :=
  let items := s.home.queue.foldl (fun n e => n + e.2.length) 0
  let lines := s.txns.foldl (fun n t => n + t.2.lines.length) 0
  2 * (s.home.wake.length + items + 2 * lines) + 8

/-- Let the line queues settle at a command's end. -/
def settle (s : State) : State := (drain s.looks s).uHome fun h => { h with wake := [] }

end State

end Sys2Proof.Machine
end

