-- ==== Sys2Proof/Machine/Migration.lean ====
section
/-! DEFINITION. Access counters, the hot-page queue, home prefetch streams and tier migration (R71 to R80). -/

namespace Sys2Proof.Machine

namespace State

/-! ### Moves (R74 to R79) -/

/-- Frames of die d's reserve. -/
def frameCount (s : State) (d : Nat) : Nat := ((s.reserve d).map fun a => reserveFrames a.count).getD 0

def usedFrames (s : State) (d : Nat) : Nat := s.mem.frames.count (frameKey d 0) (2 ^ 24)

/-- HOM_MIG_STATUS.FREE (Table 03-17). -/
def refreshFree (s : State) (d : Nat) : State :=
  s.wr F.homMigStatus_free d (min (s.frameCount d - s.usedFrames d) 16777215)

/-- Bucket of a share among n buckets (R76). -/
def bucketOf (page share n : Nat) : Nat := Config.bucketCrc page share % n

/-- The share's bucket has a free entry of its eight (R76). -/
def bucketRoom (s : State) (d page share : Nat) : Bool :=
  let n := s.frameCount d / 4
  let b := bucketOf page share n
  decide ((s.mem.frames.filter fun e =>
    e.1 / 2 ^ 24 == d && bucketOf e.2.page e.2.share n == b).length < 8)

/-- The lowest free frame of a die. -/
def freeFrame (s : State) (d : Nat) : Option Nat := s.mem.frames.freeKey (frameKey d 0) (s.frameCount d)

/-- Moves of a die in the current statistics period (R78). -/
def movedNow (s : State) (d : Nat) : Nat := s.mem.moved.lookD d 0

/-- A copy engine of die d that runs nothing and is not disabled (R77, Table 16-4). -/
def idleEngine (s : State) (d : Nat) : Option Nat :=
  ((List.range 8).map (8 * d + ·)).find? fun x =>
    (s.xfr.run.look x).isNone && (s.mem.moves.look x).isNone && !s.ras.disabled.contains x

/-- Fewer than MIG_MAX engines of die d run moves (R230). -/
def moveRoom (s : State) (d : Nat) : Bool := decide (s.mem.moves.count (8 * d) 8 < s.rd F.xfrCtrl_migMax)

/-- Work in flight of the partition that owns a page (R330), up or down by one. -/
def pageFlight (s : State) (page : Nat) (up : Bool) : State :=
  match s.findExt (fun e => e != .off) (page * 2 ^ 16) with
  | some (_, x) => if up then s.flightAdd x.attr.partition else s.flightSub x.attr.partition
  | none => s

def moving (s : State) (d page share : Nat) : Bool :=
  s.mem.moves.any fun m => m.2.die == d && m.2.page == page && m.2.share == share

/-- A WITHDRAW demotes the shares of die d's reserve first (R75): no promotion starts there. -/
def reserveLeaving (s : State) (d : Nat) : Bool :=
  s.flag F.homMigReserve_valid d && ((s.home.ext.look (s.rd F.homMigReserve_extId d)).map (·.demoting)).getD false

/-- A command of HOM_MIG_CMD[d] ends with a result (R79). -/
def migResult (s : State) (d result : Nat) : State := (s.wr F.homMigStatus_busy d 0).wr F.homMigStatus_result d result

/-- Start a move on an engine, or let it wait for an engine or for the next period (R77, R79). A command whose frame or bucket entry has
gone meanwhile ends with CAPACITY, one whose share has, with BAD_REQUEST. -/
def startMove (s : State) (w : MoveWait) : State :=
  let d := w.die
  let wait := s.uMem fun m => { m with waits := m.waits ++ [w] }
  let gone (result : Nat) : State := if w.cmd then s.migResult d result else s
  if w.promote && (s.findFrame d w.page w.share).isSome then gone St.badRequest
  else if s.rd F.homMigCtrl_rate ≤ s.movedNow d || !s.moveRoom d || (w.promote && s.reserveLeaving d) then wait
  else match s.idleEngine d with
    | none => wait
    | some x =>
      let go (fk : Nat) (m : Mem) : Mem :=
        { m with moves := m.moves.put x ⟨d, w.page, w.share, fk, w.promote, 0, w.cmd⟩
                 moved := m.moved.putC 0 d (m.moved.lookD d 0 + 1) }
      if w.promote then
        match (if s.bucketRoom d w.page w.share then s.freeFrame d else none) with
        | some fk =>
          let s := (s.uMem fun m => go fk { m with frames := m.frames.put fk ⟨w.page, w.share, true, 0⟩ }).refreshFree d
          (s.wr F.xfrStatus_use x 2).pageFlight w.page true
        | none => gone St.capacity
      else match s.findFrame d w.page w.share with
        | some (fk, _) => ((s.uMem (go fk)).wr F.xfrStatus_use x 2).pageFlight w.page true
        | none => gone St.badRequest

/-- Start the moves that wait. -/
def tryWaits (s : State) : State :=
  s.mem.waits.foldl (fun s w => s.startMove w) (s.uMem fun m => { m with waits := [] })

/-- A move of a share runs or waits. -/
def moveKnown (s : State) (d page share : Nat) : Bool :=
  s.moving d page share || s.mem.waits.any fun w => w.die == d && w.page == page && w.share == share

/-- Promotion of a hot page's shares on die d (R78). -/
def autoPromote (s : State) (d page : Nat) (oneDie : Bool) : State :=
  (if oneDie then [0, 1, 2, 3] else [0]).foldl (fun s sh =>
    if (s.findFrame d page sh).isNone && !s.moveKnown d page sh && (s.freeFrame d).isSome && s.bucketRoom d page sh
        && decide (s.movedNow d < s.rd F.homMigCtrl_rate) && !s.reserveLeaving d then
      s.startMove ⟨d, page, sh, true, false⟩
    else s) s

/-- Free the promoted shares of an extent without copying them back (R80). A command that moves such a share, or waits to, ends with
BAD_REQUEST: its page is in no extent any more. -/
def dropShares (s : State) (a : ExtAttr) : State :=
  let mine (page : Nat) : Bool :=
    match s.backed (page * 2 ^ 16) with
    | some (t2, y) => a.holds t2 y
    | none => false
  let lost := s.mem.moves.filter fun x => mine x.2.page
  let cmds := (lost.filter (·.2.cmd)).map (·.2.die) ++ (s.mem.waits.filter fun w => w.cmd && mine w.page).map (·.die)
  let s := lost.foldl (fun s x => (s.wr F.xfrStatus_use x.1 0).flightSub a.partition) s
  let s := cmds.foldl (fun s d => s.migResult d St.badRequest) s
  let s := s.uMem fun m => { m with
    moves := m.moves.filter fun x => !mine x.2.page
    waits := m.waits.filter fun w => !mine w.page
    frames := m.frames.filter fun e => !mine e.2.page }
  [0, 1, 2, 3].foldl refreshFree s

/-- Promotions that wait for die d's reserve end with it: a command with CAPACITY. -/
def dropWaits (s : State) (d : Nat) : State :=
  let mine (w : MoveWait) : Bool := w.die == d && w.promote
  let s := if s.mem.waits.any fun w => mine w && w.cmd then s.migResult d St.capacity else s
  s.uMem fun m => { m with waits := m.waits.filter fun w => !mine w }

/-! ### Hot records (R72, R73) -/

/-- Record a hot page of die d in its ring (Table 03-8). PROMOTED of a one-die page is 1 when all four of its shares are promoted: DESIGN
CHOICE, log 69. -/
def hotRecord (s : State) (d page principal : Nat) (e : Nat) (x : Extent) : State :=
  let head := s.rd F.homHotqPtr_head d
  let tail := s.rd F.homHotqPtr_tail d
  if (tail + 1) % 4096 = head then s.bump F.homHotqDrop_drops d
  else
    let thresh := s.rd F.homMigCtrl_hotThresh
    let shares := if x.attr.oneDie then [0, 1, 2, 3] else [0]
    let promoted := shares.all fun sh => (s.findFrame d page sh).isSome
    let v := page + principal * 2 ^ 36 + thresh * 2 ^ 56 + x.attr.tier2.toNat * 2 ^ 72 + x.attr.partition * 2 ^ 73
      + d * 2 ^ 77 + promoted.toNat * 2 ^ 79 + e * 2 ^ 80
    let s := s.setReg .homHotqEntry (d * 4096 + tail) (BitVec.ofNat 128 v)
    let s := s.wr F.homHotqPtr_tail d ((tail + 1) % 4096)
    if head = tail && !s.mem.hotSent.contains d then
      (s.uMem fun m => { m with hotSent := m.hotSent ++ [d] }).raise
        { type := 0x0802, die := d, inst := d, arg := [BitVec.ofNat 8 d] }
    else s

/-- A core prefetch of this node (R70), which is never counted (R72). -/
def isPrefetch (s : State) (q : Packet) : Bool :=
  q.src.toNat / 256 == s.node && ((s.outs.look (outKey (q.src.toNat % 256) q.tag.toNat)).map fun o => o.why == .prefetch).getD false

/-- Count an accepted request of a principal to a page (R72); reaching HOT_THRESH writes a hot record and restarts the count. -/
def countAccess (s : State) (d : Nat) (q : Packet) (p : Placed) : State :=
  if !p.rec_.attr.countEn || s.isPrefetch q then s
  else
    let page := q.offset / 2 ^ 16
    let pr := q.principal.toNat
    let base := (d * 1024 + (Config.countSet page pr).val) * 16
    let ways := (List.range 16).map fun w => (base + w, s.mem.counts.look (base + w))
    let hit := ways.find? fun w => match w.2 with | some c => c.page == page && c.principal == pr | none => false
    let slot : Nat × Nat :=
      match hit with
      | some (k, some c) => (k, c.count)
      | _ => match ways.find? fun w => w.2.isNone with
        | some (k, _) => (k, 0)
        | none =>
          let least := ways.foldl (fun (a : Nat × Nat) w =>
            let c := (w.2.map (·.count)).getD 0
            if c < a.2 then (w.1, c) else a) (base, 65536)
          (least.1, 0)
    let n := min (slot.2 + 1) 65535
    let hot := decide (s.rd F.homMigCtrl_hotThresh ≤ n)
    let s := s.uMem fun m => { m with counts := m.counts.put slot.1 ⟨page, pr, if hot then 0 else n⟩ }
    if hot then
      let s := s.hotRecord d page pr p.ext p.rec_
      if s.flag F.homMigCtrl_auto && p.rec_.attr.tier2 then s.autoPromote d page p.rec_.attr.oneDie else s
    else s

/-! ### Home prefetch streams (R71) -/

/-- A prefetch of a line (R71): dropped when the unit's read queue is more than 75 % full; a queued write to the line supplies it (R57). -/
def prefetchLine (s : State) (k : Nat) : State :=
  let p := s.servedAt k
  if decide (readLimit p.1 * 3 < (s.ctl p.1).rq.length * 4) || (s.mscFind k).isSome then s
  else match s.queuedWrite p with
    | some w => s.mscFill ⟨k, w.data, w.md, false, 3⟩
    | none => s.unitAsk p.1 p.2 (.prefetch k)

/-- A demand read trains the streams of its home and prefetches the line PF_DIST ahead within the 2 MiB of die-local address. A stream newly
trained prefetches that one line and none of those between: DESIGN CHOICE, log 69. -/
def trainHome (s : State) (d : Nat) (q : Packet) (k : Nat) : State :=
  if !s.flag F.mscCtrl_pfEn d then s
  else
    let L := lineL k
    let pr := q.principal.toNat
    let keys := (List.range 8).map (8 * d + ·)
    let tick := s.mem.tick + 1
    let s := s.uMem fun m => { m with tick := tick }
    let next (h : HomeStream) : Bool :=
      h.principal == pr && lineTier2 h.line == lineTier2 k &&
        ((L == lineL h.line + 1 && (!h.down || h.hits == 1)) || (L + 1 == lineL h.line && (h.down || h.hits == 1)))
    match keys.findSome? fun i => match s.mem.streams.look i with
      | some h => if next h then some (i, h) else none
      | none => none with
    | some (i, h) =>
      let down := decide (L < lineL h.line)
      let near := decide (L / 128 = h.start / 128)
      let hits := if near || h.hits ≥ 4 then h.hits + 1 else 1
      let h' : HomeStream := { h with line := k, down := down, hits := hits, age := tick,
                                      start := if near then h.start else L }
      let s := s.uMem fun m => { m with streams := m.streams.put i h' }
      if 4 ≤ hits then
        let dist := s.rd F.mscCtrl_pfDist d
        let L' := if down then L - dist else L + dist
        if (down && L < dist) || L' / 16384 ≠ L / 16384 then s
        else s.prefetchLine (lineKey L' (lineTier2 k) d)
      else s
    | none =>
      let place := match keys.find? fun i => (s.mem.streams.look i).isNone with
        | some i => i
        | none => (keys.foldl (fun (a : Nat × Nat) i =>
            let g := ((s.mem.streams.look i).map (·.age)).getD 0
            if g < a.2 then (i, g) else a) (8 * d, tick)).1
      s.uMem fun m => { m with streams := m.streams.put place ⟨pr, k, false, 1, L, tick⟩ }

/-! ### Line moves (R77) -/

/-- Offset of line n of a share of a page on die d. -/
def shareOffset (d page share n : Nat) (oneDie : Bool) : Nat :=
  if oneDie then page * 2 ^ 16 + share * 2 ^ 14 + n * 128
  else page * 2 ^ 16 + (n / 32 * 4 + d) * 4096 + n % 32 * 128

/-- The next line a move has to copy from its cursor on: every line of a promotion, the written lines of a demotion. -/
def moveNext (s : State) (m : Move) : Option Nat :=
  let mask := ((s.mem.frames.look m.frame).map (·.mask)).getD 0
  ((List.range 128).filter fun n => decide (m.cursor ≤ n) && (m.promote || mask.getLsbD n)).head?

/-- A line move reads its line through the memory-side cache without allocating; a dirty cached line becomes clean (R77). -/
def moveRead (s : State) (k : Nat) (u : Upset) : Got × State :=
  if u.tags then (.stopped, (s.cacheHalt (lineDie k)).stopHome (lineDie k))
  else match s.mscFind k with
    | some (w, l) => match hitLine l u with
      | none => (.waits, (s.mscDrop w).want k)
      | some (data, md) =>
        let s := s.mscPut w { l with data := data, md := md, dirty := false }
        (.data data md, if md.poison && !l.md.poison then s.reportPoison k else s)
    | none => match s.atHand k with
      | none => (.waits, s.want k)
      | some (data, md) => (.data data md, s.uMem fun m => { m with arrived := m.arrived.del k })

/-- The line is free for a request of the home itself: stable, unlocked, with nothing before it in its queue, its home running and its
unit's write queue open (R77, R89). -/
def lineFree (s : State) (k : Nat) : Bool :=
  let e := s.entry k
  !e.lock && !e.state.busy && (s.lineQueue k).isEmpty && !s.home.halted.contains (lineDie k) && !s.blocked k

/-- Copy the next line of the move on engine x, as a request at the line's home (R77). The line's data and metadata move unchanged.
`maskLost`: the frame record's written mask is uncorrectable, and a demotion takes every bit of it as set (R76). -/
def lineMove (s : State) (x : Nat) (u : Upset) (maskLost : Bool) : State :=
  match s.mem.moves.look x with
  | none => s
  | some m =>
    let s := if maskLost && !m.promote then
        s.uMem fun v => { v with frames := v.frames.upd m.frame fun f => { f with mask := maskFull } } else s
    match s.findExt (fun e => e != .off) (m.page * 2 ^ 16), s.moveNext m with
    | some (_, e), some n =>
      let k := s.lineAt e.attr (shareOffset m.die m.page m.share n e.attr.oneDie)
      let dst := if m.promote then s.frameAddr m.die (m.frame % 2 ^ 24) n else unitAddr true m.die (lineL k * 128)
      if !s.lineFree k || !(s.ctl dst.1).wwait.isEmpty then s
      else match (s.uMem fun v => { v with moves := v.moves.put x { m with cursor := n } }).moveRead k u with
        | (.data data md, s) => (s.unitWrite dst data md).uMem fun v => { v with moves := v.moves.put x { m with cursor := n + 1 } }
        | (_, s) => s
    | _, none => s.uMem fun v => { v with moves := v.moves.put x { m with cursor := 128 } }
    | none, _ => s

/-- End of the move on engine x: the share is served from its destination; the engine is free (R77, R79). Shares of a reserve that
leaves are demoted next (R75). -/
def moveDone (s : State) (x : Nat) : State :=
  match s.mem.moves.look x with
  | none => s
  | some m =>
    if (s.moveNext m).isSome then s
    else
      let s := s.uMem fun v => { v with
        moves := v.moves.del x
        frames := if m.promote then v.frames else v.frames.del m.frame }
      let s := ((s.refreshFree m.die).wr F.xfrStatus_use x 0).pageFlight m.page false
      let s := if m.cmd then s.migResult m.die St.ok else s
      let s := if s.reserveLeaving m.die && m.promote then s.startMove ⟨m.die, m.page, m.share, false, false⟩ else s
      s.tryWaits

/-- Result of a PROMOTE or DEMOTE that starts no move (R79); none when one may start. -/
def moveRefused (s : State) (d page share op : Nat) : Option Nat :=
  match s.findExt (fun e => e != .off) (page * 2 ^ 16) with
  | none => some St.badRequest
  | some (_, e) =>
    let y := match s.backed (page * 2 ^ 16) with | some (_, y) => y | none => 0
    let onDie := !e.attr.oneDie || (s.place true true y).1 == d
    let held := (s.findFrame d page share).isSome
    if !e.attr.tier2 || !onDie || (!e.attr.oneDie && share ≠ 0) || (op ≠ 1 && op ≠ 2) then some St.badRequest
    else if s.moveKnown d page share then some St.busy
    else if op = 1 && held then some St.badRequest
    else if op = 2 && !held then some St.badRequest
    else if op = 1 && ((s.freeFrame d).isNone || !s.bucketRoom d page share) then some St.capacity
    else none

/-- A command of HOM_MIG_CMD[d] (R79). -/
def migCommand (s : State) (d page share op : Nat) : State :=
  if s.flag F.homMigStatus_busy d then s.wr F.homMigStatus_result d St.busy
  else match s.moveRefused d page share op with
    | some r => s.wr F.homMigStatus_result d r
    | none => (s.wr F.homMigStatus_busy d 1).startMove ⟨d, page, share, op == 1, true⟩

/-- One frame of a sweep of die d's frames (R78): below LOW_WM it begins, at HIGH_WM it ends. -/
def sweepFrame (s : State) (d : Nat) : State :=
  let total := s.frameCount d
  let free := total - s.usedFrames d
  let s := if decide (free * 1000 < s.rd F.homMigCtrl_lowWm * total) && !s.mem.sweeping.contains d then
      s.uMem fun m => { m with sweeping := m.sweeping ++ [d] } else s
  if !s.mem.sweeping.contains d then s
  else if s.rd F.homMigCtrl_highWm * total ≤ free * 1000 then
    s.uMem fun m => { m with sweeping := m.sweeping.filter (· ≠ d) }
  else
    let hand := s.mem.hand.lookD d 0
    let s := s.uMem fun m => { m with hand := m.hand.putC 0 d (if hand + 1 < total then hand + 1 else 0) }
    match s.mem.frames.look (frameKey d hand) with
    | none => s
    | some f =>
      if s.moveKnown d f.page f.share then s
      else if f.ref then s.uMem fun m => { m with frames := m.frames.put (frameKey d hand) { f with ref := false } }
      else s.startMove ⟨d, f.page, f.share, false, false⟩

/-- Halve every count of a die (R72). -/
def ageCounts (s : State) (d : Nat) : State :=
  s.uMem fun m => { m with counts := m.counts.map fun e =>
    if e.1 / 16384 = d then (e.1, { e.2 with count := e.2.count / 2 }) else e }

/-- What HOM_MIG_RESERVE[d] may name (R75). -/
def reserveOk (s : State) (d e : Nat) : Bool :=
  match s.home.ext.look e with
  | none => false
  | some x =>
    x.state == .on && !x.attr.tier2 && x.attr.oneDie && decide (x.attr.base / s.quarterGranules false = d)
      && !x.attr.coherent && !x.attr.countEn && x.attr.rights.isEmpty
      && decide (2 ≤ x.attr.count) && decide (x.attr.count ≤ 131072)

end State

/-- MIGRATION_LINE_MOVE (R76, R77). -/
def execMigrationLineMove (x : CopyEngine) (ecc : Upset) (maskLost : Bool) (s : State) : Host.Outcome State Fault Refusal :=
  .next (s.lineMove x.val ecc maskLost).settle

/-- FRAME_SWEEP (R78). -/
def execFrameSweep (d : Die) (s : State) : Host.Outcome State Fault Refusal := .next (s.sweepFrame d.val).settle

/-- ACCESS_COUNT_AGING (R72). -/
def execAccessCountAging (d : Die) (s : State) : Host.Outcome State Fault Refusal := .next (s.ageCounts d.val).settle

end Sys2Proof.Machine
end

