-- ==== Sys2Proof/Machine/Coherence.lean ====
section
/-! DEFINITION. Requests, answers, writebacks, timeouts, sweeps and walks at the homes (chapter 04, R89 to R99, R435). -/

namespace Sys2Proof.Machine

namespace State

/-! ### Acceptance (R41, R92) -/

/-- Answer a request that no line's home serves, from die d. -/
def refuse (s : State) (d : Nat) (q : Packet) (status : Nat) (detail : Nat := 0) : State :=
  s.respond d (0xC0 + d) q Op.status status detail

/-- Reads that train the home's prefetch streams (R71). -/
def trains (op : Nat) : Bool := op == Op.rdShared || op == Op.rdOwn || op == Op.rdUnc || op == Op.txRd

/-- The home takes a request into its request table and its line's queue, counts it and trains on it; with a full table it answers RETRY
(R71, R72, R92). A corrected directory entry is counted, an uncorrectable one stops the home (R84). Core prefetches of this node train no
stream (log 67). -/
def enqueue (s : State) (q : Packet) (p : Placed) (u : Upset) : State :=
  let d := lineDie p.line
  let op := q.opcode.toNat
  match s.home.req.freeKey (reqKey d 0) 4096 with
  | none => (s.bump F.dirRetry_full d).refuse d q St.retry
  | some key =>
    let s := s.countAccess d q p
    let s := if trains op && !s.isPrefetch q then s.trainHome d q p.line else s
    let s := s.takeEntry key { pkt := q, line := p.line, ext := p.ext, gen := p.rec_.gen, ecc := u
                               slot := if cacheable op then s.boundSlot q.principal else none, partition := p.rec_.attr.partition }
    match u.dir with
    | .clean => s
    | .corrected => s.dirCorrected d
    | .uncorrectable => s.dirHalt d

/-- A request with opcode `op` reaches the home of its line, or the home of the die at which it entered (R41, R69, R84). One whose turn in
its mesh cycle has not come waits (R98). -/
def accept (s : State) (q : Packet) (op entry : Nat) (u : Upset) : State :=
  let q := { q with opcode := BitVec.ofNat 8 op }
  if !s.inTurn q then s
  else
    let die := s.entryDie q entry
    let s := s.taken q
    match s.check q with
    | (st, none) => s.refuse die q (if s.home.halted.contains die then St.internal else st)
    | (st, some p) =>
      let d := lineDie p.line
      if s.home.halted.contains d then s.refuse d q St.internal
      else if st ≠ St.ok then s.refuse d q st
      else s.enqueue q p u

/-! ### Recalls (R435) -/

def rclKey (d i : Nat) : Nat := d * 4096 + (i - 4096)

def updRcl (s : State) (k : Nat) (f : Recall → Recall) : State := s.uHome fun h => { h with rcl := h.rcl.upd k f }

/-- Lines of a die whose queue waits: a freed recall entry lets each look again. -/
def wakeDie (s : State) (d : Nat) : State :=
  s.uHome fun h => { h with wake := h.wake ++ (h.queue.map (·.1)).filter fun k => lineDie k == d }

/-- A recall whose last answer is in: the line becomes I (Table 04-5, B_RCL). -/
def advanceRcl (s : State) (key : Nat) : State :=
  match s.home.rcl.look key with
  | none => s
  | some r =>
    if r.invs ≠ 0 || r.fwd.isSome || r.wb.isSome then s
    else
      let d := lineDie r.line
      let s := s.uHome fun h => { h with rcl := h.rcl.del key }
      let s := s.updEntry r.line fun e => { e with state := .i, sharers := 0 }
      let s := r.acks.foldl (fun s q => s.ackWb d q) s
      (s.wakeLine r.line).wakeDie d

/-! ### Answers (R90, R91) -/

/-- Die of the home that an answer addresses. -/
def homeOf (q : Packet) : Nat := (q.dest.toNat % 256 - 0xC0) % 4

/-- The slot that an answer comes from: one not FREE (R43). -/
def answerSlot (s : State) (q : Packet) : Option Nat := s.slotWhere (fun st => st ≠ 0) q.src

/-- INV_ACK (R90): answers of slots not awaited are discarded. -/
def invAck (s : State) (q : Packet) : State :=
  let s := s.taken q
  let d := homeOf q
  let i := q.tag.toNat
  match s.answerSlot q with
  | none => s
  | some o =>
    if i < 4096 then (s.updReq d i fun r => { r with invs := r.invs &&& ~~~(maskBit o) }).advance d i
    else (s.updRcl (rclKey d i) fun r => { r with invs := r.invs &&& ~~~(maskBit o) }).advanceRcl (rclKey d i)

/-- Forwarded data, or a crossing writeback's, into memory (R90, R99). -/
def memoryIn (s : State) (k : Nat) (data : LineData) (poison : Bool) : State :=
  let s := s.writeLine k (s.mscAlloc k) data poison false
  if poison then s.reportPoison k else s

/-- The owner has lost the line (R91): poison the stored line. -/
def ownerMiss (s : State) (k o : Nat) : State :=
  ((s.poisonLine k).reportPoison k).raise
    { type := 0x0904, sev := 1, die := lineDie k, arg := BitVec.ofNat 8 o :: leBytes (s.lineOffset k / 128) 6 }

/-- The requester of a three-hop flow whose owner cannot answer gets the stored, poisoned line (R95). -/
def answerForOwner (s : State) (d i : Nat) (r : Req) : State :=
  let (data, _) := s.peekLine r.line
  s.answer d r.pkt (if r.pkt.opcode.toNat = Op.rdShared then Op.dataS else Op.dataM) St.ok (i + d * 4096) (some (data, true))

/-- A request's forward is settled without the owner's data: the owner leaves the holders. -/
def forwardLost (s : State) (d i : Nat) (r : Req) (o : Nat) : State :=
  let s := if (s.entry r.line).state == .bFwd then s.answerForOwner d i r else s
  s.updReq d i fun r => { r with fwd := none, nextSharers := r.nextSharers &&& ~~~(maskBit o),
                                 next := if r.nextSharers &&& ~~~(maskBit o) = 0 then .i else r.next }

/-- FWD_ACK (R91): plain, with WBX, or with MISS. -/
def fwdAck (s : State) (q : Packet) : State :=
  let s := s.taken q
  let d := homeOf q
  let i := q.tag.toNat
  let wbx := q.detail.getLsbD 0
  let miss := q.detail.getLsbD 1
  match s.answerSlot q with
  | none => s
  | some o =>
    if i < 4096 then
      match s.getReq d i with
      | none => s
      | some r =>
        if r.fwd ≠ some o then s
        else if miss then (((s.ownerMiss r.line o).forwardLost d i r o)).advance d i
        else
          (s.updReq d i fun r => { r with
            fwd := none
            wb := if wbx && !r.crossed then some o else none
            nextSharers := if wbx then r.nextSharers &&& ~~~(maskBit o) else r.nextSharers }).advance d i
    else
      let key := rclKey d i
      match s.home.rcl.look key with
      | none => s
      | some r =>
        if r.fwd ≠ some o then s
        else
          let s := if miss then s.ownerMiss r.line o else s
          (s.updRcl key fun x => { x with fwd := none, wb := if wbx && x.acks.isEmpty then some o else none }).advanceRcl key

/-- FWD_DATA (R90, R91). -/
def fwdData (s : State) (q : Packet) : State :=
  let s := s.taken q
  let d := homeOf q
  let i := q.tag.toNat
  match s.answerSlot q with
  | none => s
  | some o =>
    if i < 4096 then
      match s.getReq d i with
      | none => s
      | some r =>
        if r.fwd ≠ some o then s
        else if (s.entry r.line).state == .bFwd then
          ((s.memoryIn r.line q.data q.poison).updReq d i fun r => { r with fwd := none }).advance d i
        else (s.updReq d i fun r => { r with fwd := none, got := some (q.data, q.poison) }).advance d i
    else
      let key := rclKey d i
      match s.home.rcl.look key with
      | none => s
      | some r =>
        if r.fwd ≠ some o then s
        else ((s.memoryIn r.line q.data q.poison).updRcl key fun x => { x with fwd := none }).advanceRcl key

/-- COMPLETE (R90): from the requester of the grant it names. -/
def complete (s : State) (q : Packet) : State :=
  let s := s.taken q
  let d := homeOf q
  let i := q.tag.toNat
  match s.getReq d i with
  | none => s
  | some r => if r.compl && r.pkt.src == q.src then (s.updReq d i fun r => { r with compl := false }).advance d i else s

/-! ### Writebacks (R41, R99) -/

/-- The active request of a busy line. -/
def activeReq (s : State) (k : Nat) : Option (Nat × Req) :=
  match s.lineQueue k with
  | .req i :: _ => match s.getReq (lineDie k) i with
    | some r => if r.active then some (i, r) else none
    | none => none
  | _ => none

/-- The recall of a busy line. -/
def activeRcl (s : State) (k : Nat) : Option (Nat × Recall) := s.home.rcl.find? fun r => r.2.line == k

/-- A writeback or eviction notice of a line's slot (Table 04-4, R99); `dirty` carries data. -/
def writeback (s : State) (q : Packet) (entry : Nat) (dirty : Bool) : State :=
  let entry := s.entryDie q entry
  let s := s.taken q
  let wellFormed := q.len == (if dirty then 4 else 0) && q.chan == 0 && q.offset % 128 == 0
  if !wellFormed then s.refuse entry q St.badRequest
  else match s.findExt ExtState.serves q.offset with
  | none => s.ackWb entry q
  | some (_, x) =>
    let k := s.lineAt x.attr q.offset
    let d := lineDie k
    if s.home.halted.contains d then s.refuse d q St.internal
    else
      let keep (s : State) : State := if dirty then s.memoryIn k q.data q.poison else s
      match s.answerSlot q with
      | none => s.ackWb d q
      | some o =>
        let s := (s.settleSwept k).lookedUp k
        let e := s.entry k
        if !e.state.busy then
          if (e.state = .e || e.state = .m) && e.sharers.getLsbD o then
            (((keep s).updEntry k fun e => { e with state := .i, sharers := 0 }).ackWb d q).wakeLine k
          else s.ackWb d q
        else if e.state = .bRcl then
          match s.activeRcl k with
          | some (key, r) =>
            if r.fwd = some o then (keep s).updRcl key fun x => { x with acks := x.acks ++ [q] }
            else if r.wb = some o then
              ((keep s).updRcl key fun x => { x with acks := x.acks ++ [q], wb := none }).advanceRcl key
            else s.ackWb d q
          | none => s.ackWb d q
        else match s.activeReq k with
          | none => s.ackWb d q
          | some (i, r) =>
            if e.state = .bWb && r.wb = some o then
              ((keep s).updReq d i fun r => { r with wb := none, acks := r.acks ++ [q] }).advance d i
            else if r.fwd = some o || r.wb = some o then
              -- crossed the forward: memory takes the data; it counts as the owner's data (R99)
              let s := (keep s).updReq d i fun r => { r with
                crossed := true, acks := r.acks ++ [q], wb := if r.wb = some o then none else r.wb
                got := if dirty && e.state == .bFwdh then some (q.data, q.poison) else r.got
                nextSharers := if r.next == .s && r.wb ≠ some o then r.nextSharers
                  else r.nextSharers &&& ~~~(maskBit o) }
              s.advance d i
            else if r.compl && r.slot = some o && (r.next == .e || r.next == .m) then
              ((keep s).updReq d i fun r => { r with
                compl := false, acks := r.acks ++ [q], nextSharers := r.nextSharers &&& ~~~(maskBit o) }).advance d i
            else s.ackWb d q

/-! ### Dead slots (R95, R96) -/

/-- Whether a request awaits something of slot o. -/
def Req.owes (r : Req) (o : Nat) : Bool :=
  r.active && (r.invs.getLsbD o || r.fwd == some o || r.wb == some o || (r.compl && r.slot == some o))

/-- Settle request i of die d for a slot that does not answer (R95). A writeback that FWD_ACK announced by WBX and that never arrives:
DESIGN CHOICE, log 67: the stored line is poisoned and the flow goes on. -/
def settleReq (s : State) (d i o : Nat) : State :=
  match s.getReq d i with
  | none => s
  | some r =>
    if !Req.owes r o then s
    else if (s.entry r.line).state == .bWb && r.wb == some o then
      let s := ((s.poisonLine r.line).reportPoison r.line).updEntry r.line fun e => { e with state := .i, sharers := 0 }
      s.finishReq d i
    else
      let s := if r.fwd == some o then ((s.poisonLine r.line).reportPoison r.line).forwardLost d i r o else s
      let s := if r.wb == some o then (s.poisonLine r.line).reportPoison r.line else s
      (s.updReq d i fun r => { r with
        invs := r.invs &&& ~~~(maskBit o), wb := if r.wb = some o then none else r.wb
        compl := if r.slot == some o then false else r.compl }).advance d i

/-- Settle a recall for a slot that does not answer. -/
def settleRcl (s : State) (key o : Nat) : State :=
  match s.home.rcl.look key with
  | none => s
  | some r =>
    let s := if r.fwd == some o || r.wb == some o then (s.poisonLine r.line).reportPoison r.line else s
    (s.updRcl key fun r => { r with
      invs := r.invs &&& ~~~(maskBit o), fwd := if r.fwd = some o then none else r.fwd
      wb := if r.wb = some o then none else r.wb }).advanceRcl key

/-- A walk of every die begins (R96, R97); SWEEP_SLOT names the slot of a sweep (Table 04-12). -/
def startWalks (s : State) (w : WalkKind) : State :=
  let s := s.uHome fun h => { h with walks := (h.walks.filter fun v => v.kind != w) ++ [0, 1, 2, 3].map fun d => ⟨d, w, 0⟩ }
  [0, 1, 2, 3].foldl (fun s d =>
    let s := s.wr F.dirStatus_sweep d 1
    match w with
    | .sweep o => s.wr F.dirStatus_sweepSlot d o
    | _ => s) s

/-- The sweep of slot o begins: step 1 of Table 04-8. -/
def startSweep (s : State) (o : Nat) : State :=
  if s.slotSweeping o then s
  else
    let ep := s.slotEndpoint o
    let s := s.wr F.dirSlot_state o 3
    let s := s.raise { type := 0x0901, sev := 1, part := some (s.rd F.dirSlot_partition o),
                       arg := BitVec.ofNat 8 o :: leBytes ep.toNat 3 }
    let waiting := s.home.req.filter fun e => !e.2.active && e.2.pkt.src == ep
    let s := waiting.foldl (fun s e => s.finishReq (e.1 / 4096) (e.1 % 4096)) s
    let s := s.home.req.foldl (fun s e => s.settleReq (e.1 / 4096) (e.1 % 4096) o) s
    let s := s.home.rcl.foldl (fun s e => s.settleRcl e.1 o) s
    (s.uHome fun h => { h with walks := h.walks.filter fun w => w.kind != .release o }).startWalks (.sweep o)

/-- A forward timeout of entry idx of die d on slot o (R95). -/
def forwardTimeout (s : State) (d idx o : Nat) : State :=
  let late := if idx < 4096 then ((s.getReq d idx).map fun r => Req.owes r o).getD false
    else ((s.home.rcl.look (rclKey d idx)).map fun r => r.invs.getLsbD o || r.fwd == some o || r.wb == some o).getD false
  if !late then s
  else
    let s := s.bump F.dirEcc_timeouts d
    let s := if idx < 4096 then s.settleReq d idx o else s.settleRcl (rclKey d idx) o
    s.startSweep o

/-! ### Walks (R96, R97, Table 02-14) -/

/-- Whether an endpoint is a loser of a withdrawing extent (R45). -/
def loser (s : State) (x : Extent) (ep : Endpoint) : Bool :=
  let a := s.rightsOf x.attr.partition x.prev ep
  let b := s.rightsOf x.attr.partition x.attr.rights ep
  !covers b a

/-- Holders of an entry's line, and those that follow the transition of a busy one. -/
def holders (s : State) (e : DirEntry) : Mask :=
  e.sharers ||| (((s.activeReq e.line).map (·.2.nextSharers)).getD 0)

/-- Slots whose lines a release or withdrawal walk recalls. -/
def walkTakes (s : State) (k : WalkKind) (line : Nat) (o : Nat) : Bool :=
  match k with
  | .sweep _ => false
  | .release o' => o == o'
  | .withdraw x => match s.home.ext.look x, s.lineExt line with
    | some rec_, some (x', _, _) => x == x' && s.loser rec_ (s.slotEndpoint o)
    | _, _ => false

/-- What a walk does to one entry: none when the entry is busy, or the recall table full, and the walk must come back. No recall goes to a
slot that is being swept (Table 04-8). -/
def walkEntry (s : State) (k : WalkKind) (e : DirEntry) : Option State :=
  match k with
  | .sweep o =>
    if e.state.busy || !e.sharers.getLsbD o then some s
    else
      let dirty := e.state == .e || e.state == .m
      let s := s.settleSwept e.line
      some ((if dirty then s.reportPoison e.line else s).wakeLine e.line)
  | _ =>
    if !(maskMembers (s.holders e)).any (s.walkTakes k e.line) then some s
    else if e.state.busy then none
    else
      let s := s.settleSwept e.line
      if !(maskMembers (s.entry e.line).sharers).any (s.walkTakes k e.line) then some (s.wakeLine e.line)
      else match s.startRecall e.line .walk with
        | (s, true) => some s
        | (_, false) => none

/-- Number of sets of a directory slice (R83). -/
def dirSets : Nat := 131072

/-- One set of a walk on die d; a walk past the last set has ended. -/
def walkStep (s : State) (w : Walk) : State :=
  let setKey := w.die * dirSets + w.next
  let r := (s.setWays setKey).foldl (fun (a : Option State) e => a.bind fun s => s.walkEntry w.kind e.2) (some s)
  match r with
  | none => s
  | some s =>
    let s := s.uHome fun h => { h with walks := h.walks.map fun v => if v = w then { w with next := w.next + 1 } else v }
    if w.next + 1 < dirSets then s
    else if s.home.walks.any fun v => v.die == w.die && decide (v.next < dirSets) then s
    else s.wr F.dirStatus_sweep w.die 0

/-- The walk of die d that serves slot o or extent e, when one runs. -/
def walkSet (s : State) (d o e : Nat) : State :=
  match s.home.walks.find? fun w => w.die == d && decide (w.next < dirSets)
      && (w.kind == .sweep o || w.kind == .release o || w.kind == .withdraw e) with
  | some w => s.walkStep w
  | none => s

/-- Every die's walk of a kind has ended. -/
def walksDone (s : State) (k : WalkKind) : Bool := (s.home.walks.filter fun w => w.kind == k).all fun w => w.next == dirSets

def dropWalks (s : State) (k : WalkKind) : State := s.uHome fun h => { h with walks := h.walks.filter fun w => w.kind != k }

/-- A line is held by a slot that a walk takes: one granted it after the walk had passed. -/
def walkMissed (s : State) (k : WalkKind) : Bool :=
  s.home.dir.any fun e => (maskMembers e.2.sharers).any (s.walkTakes k e.2.line)

/-- Busy lines or recalls still await slot o. -/
def owed (s : State) (o : Nat) : Bool :=
  (s.home.req.any fun e => Req.owes e.2 o) ||
    s.home.rcl.any fun r => r.2.invs.getLsbD o || r.2.fwd == some o || r.2.wb == some o

/-- An opener is declared dead (R120, Table 05-6): its transactions abort without notice, its aborted records are freed. -/
def openerLost (s : State) (ep : Endpoint) : State :=
  let old := s.txns.filter fun t => t.2.state == .aborted && t.2.opener == ep
  old.foldl (fun s t => s.freeTxn t.1) (s.abortWhere 9 false fun _ t => t.opener == ep)

/-- Steps 3 to 5 of Table 04-8. -/
def sweepEnd (s : State) (o : Nat) : State :=
  if !s.slotSweeping o || !s.walksDone (.sweep o) || s.owed o then s
  else
    let ep := s.slotEndpoint o
    let s := s.openerLost ep
    let s := (s.wr F.dirSlot_state o 0).dropWalks (.sweep o)
    s.raise { type := 0x0902, part := some (s.rd F.dirSlot_partition o), arg := BitVec.ofNat 8 o :: leBytes ep.toNat 3 }

/-- A released slot is freed once every home has recalled its lines; lines granted behind the walk have it run again (R44, R97). -/
def slotReleased (s : State) (o : Nat) : State :=
  if s.rd F.dirSlot_state o ≠ 2 || !s.walksDone (.release o) || s.owed o then s
  else if s.walkMissed (.release o) then s.startWalks (.release o)
  else (s.wr F.dirSlot_state o 0).dropWalks (.release o)

end State

/-! ### Meanings -/

/-- RD_SHARED (R89, Table 04-4). -/
def execRdShared (q : Packet) (entry : Die) (ecc : Upset) (s : State) : Host.Outcome State Fault Refusal :=
  .next (s.accept q Op.rdShared entry.val ecc).settle
/-- RD_OWN (R89, Table 04-4). -/
def execRdOwn (q : Packet) (entry : Die) (ecc : Upset) (s : State) : Host.Outcome State Fault Refusal :=
  .next (s.accept q Op.rdOwn entry.val ecc).settle
/-- UPGRADE (R89, Table 04-4). -/
def execUpgrade (q : Packet) (entry : Die) (ecc : Upset) (s : State) : Host.Outcome State Fault Refusal :=
  .next (s.accept q Op.upgrade entry.val ecc).settle
/-- RD_UNC (R89, Table 04-4). -/
def execRdUnc (q : Packet) (entry : Die) (ecc : Upset) (s : State) : Host.Outcome State Fault Refusal :=
  .next (s.accept q Op.rdUnc entry.val ecc).settle
/-- WR_UNC (R89, Table 04-4). -/
def execWrUnc (q : Packet) (entry : Die) (ecc : Upset) (s : State) : Host.Outcome State Fault Refusal :=
  .next (s.accept q Op.wrUnc entry.val ecc).settle
/-- ATOMIC (R89, R238, Table 04-4). -/
def execAtomic (q : Packet) (entry : Die) (ecc : Upset) (s : State) : Host.Outcome State Fault Refusal :=
  .next (s.accept q Op.atomic entry.val ecc).settle
/-- WB_DIRTY (R99). -/
def execWbDirty (q : Packet) (entry : Die) (s : State) : Host.Outcome State Fault Refusal :=
  .next (s.writeback q entry.val true).settle
/-- WB_CLEAN (R99). -/
def execWbClean (q : Packet) (entry : Die) (s : State) : Host.Outcome State Fault Refusal :=
  .next (s.writeback q entry.val false).settle
/-- INV_ACK (R90). -/
def execInvAck (q : Packet) (s : State) : Host.Outcome State Fault Refusal := .next (s.invAck q).settle
/-- FWD_ACK (R91). -/
def execFwdAck (q : Packet) (s : State) : Host.Outcome State Fault Refusal := .next (s.fwdAck q).settle
/-- FWD_DATA (R91). -/
def execFwdData (q : Packet) (s : State) : Host.Outcome State Fault Refusal := .next (s.fwdData q).settle
/-- COMPLETE (R90). -/
def execComplete (q : Packet) (s : State) : Host.Outcome State Fault Refusal := .next (s.complete q).settle
/-- FORWARD_TIMEOUT (R95). -/
def execForwardTimeout (d : Die) (idx : Fin 8192) (o : Slot) (s : State) : Host.Outcome State Fault Refusal :=
  .next (s.forwardTimeout d.val idx.val o.val).settle
/-- WALK_SET (R96, R97). -/
def execWalkSet (d : Die) (o : Slot) (e : ExtId) (s : State) : Host.Outcome State Fault Refusal :=
  .next (s.walkSet d.val o.val e.val).settle
/-- SWEEP_END (R96). -/
def execSweepEnd (o : Slot) (s : State) : Host.Outcome State Fault Refusal := .next (s.sweepEnd o.val).settle
/-- SLOT_RELEASED (R97). -/
def execSlotReleased (o : Slot) (s : State) : Host.Outcome State Fault Refusal := .next (s.slotReleased o.val).settle

end Sys2Proof.Machine
end

