-- ==== Sys2Proof/Machine/Operands.lean ====
section
/-! DEFINITION. Operand forms: instruction fields (Table 07-13), elements of registers and wide pairs (Table 06-3), packed
elements in memory (R133), descriptor fields. -/

namespace Sys2Proof.Machine

/-! ### The instruction word (Table 07-13) -/

/-- w bits of an instruction word from bit lo. -/
def fieldOf (x : DWord) (lo w : Nat) : Nat := x.toNat / 2 ^ lo % 2 ^ w

def opOf (x : DWord) : Nat := fieldOf x 0 8
def dOf (x : DWord) : Nat := fieldOf x 8 6
def aOf (x : DWord) : Nat := fieldOf x 14 6
def bOf (x : DWord) : Nat := fieldOf x 20 6
def cOf (x : DWord) : Nat := fieldOf x 26 6
def eOf (x : DWord) : Nat := fieldOf x 32 6
def engOf (x : DWord) : Nat := fieldOf x 38 3
def fmtOf (x : DWord) : Nat := fieldOf x 41 6
def rndOf (x : DWord) : Nat := fieldOf x 47 3
def satOf (x : DWord) : Bool := fieldOf x 50 1 == 1
/-- IMM as one signed value: branches, memory operations and SADD. -/
def immOf (x : DWord) : BitVec 64 := (x.extractLsb' 52 12).signExtend 64
def sxOf (x : DWord) : Nat := fieldOf x 52 5
def fmt2Of (x : DWord) : Nat := fieldOf x 57 6
def bcastOf (x : DWord) : Bool := fieldOf x 63 1 == 1

/-- Engines an instruction acts on: one, or all four (group issue). -/
def enginesOf (x : DWord) : List Nat := if engOf x = 4 then [0, 1, 2, 3] else [engOf x % 4]

/-! ### Elements (Table 06-3, R133) -/

/-- Bits that an element occupies in a register. -/
def slotBits (w : Nat) : Nat := if w = 6 then 8 else w

/-- Elements of width w in one register. -/
def perReg (w : Nat) : Nat := if w = 0 then 0 else 1024 / slotBits w

/-- Element j of width w of a register. -/
def regElem (w : Nat) (l : LineData) (j : Nat) : Nat := l.toNat / 2 ^ (slotBits w * j) % 2 ^ w

def regElems (w : Nat) (l : LineData) : List Nat := (List.range (perReg w)).map (regElem w l)

/-- The number whose digits of k bits are the elements of a list, the first lowest. -/
def digits (k : Nat) : List Nat → Nat
  | [] => 0
  | x :: xs => x % 2 ^ k + 2 ^ k * digits k xs

/-- A register made of elements of width w. -/
def regOf (w : Nat) (xs : List Nat) : LineData := BitVec.ofNat 1024 (digits (slotBits w) xs)

/-- The 64 elements of a wide pair (R126). -/
def wideElems (lo hi : LineData) : List Nat :=
  (List.range 64).map fun j => regElem 16 lo j + regElem 16 hi j * 65536

/-- A wide pair made of its 64 elements. -/
def wideOf (xs : List Nat) : LineData × LineData :=
  (regOf 16 xs, regOf 16 (xs.map (· / 65536)))

/-- n packed elements of width w of a byte string, from its first bit (R133). -/
def unpack (w n : Nat) (b : List Byte) : List Nat :=
  let v := digits 8 (b.map (·.toNat))
  (List.range n).map fun i => v / 2 ^ (w * i) % 2 ^ w

/-- Elements of width w packed into bytes; a last part of a byte is filled with zero bits. -/
def packBytes (w : Nat) (xs : List Nat) : List Byte :=
  let v := digits w xs
  (List.range ((xs.length * w + 7) / 8)).map fun i => BitVec.ofNat 8 (v / 256 ^ i)

/-- The elements of each engine lane of an operand, with their numbers in the operand (Table 06-3). In a DOT of FP6 by FP4 the elements of
a lane pair by their place in this list: DESIGN CHOICE, log 71. -/
def laneElems (w j : Nat) : List Nat :=
  if w = 16 then [j]
  else if w = 8 then [2 * j, 2 * j + 1]
  else if w = 6 then [2 * j, 2 * j + 1, 128 + 2 * j, 128 + 2 * j + 1]
  else [4 * j, 4 * j + 1, 4 * j + 2, 4 * j + 3]

/-- The lane of element j of width w in one register. -/
def laneOf (w j : Nat) : Nat := if w = 32 then 2 * j % 64 else if w = 16 then j else if w = 4 then j / 4 else j / 2 % 64

/-! ### Descriptors (R153) -/

/-- k bytes of a byte string from byte i, little-endian. -/
def leNat (b : List Byte) (i k : Nat) : Nat := digits 8 (((b.drop i).take k).map (·.toNat))

/-- A reserved byte range is zero. -/
def zeroBytes (b : List Byte) (i k : Nat) : Bool := ((b.drop i).take k).all (· == 0)

/-- The 128 bytes of a line. -/
def lineBytes (l : LineData) : List Byte := (List.range 128).map (lineByte l)

end Sys2Proof.Machine
end

