-- ==== Sys2Proof/Machine/Engines.lean ====
section
/-! DEFINITION. The engine operations of Table 07-14 as functions of register contents (R134, R137 to R143, R167). -/

namespace Sys2Proof.Machine

/-- What an engine operation computes for one engine: registers written, sticky flags, the lanes' generators and the free values
used. -/
structure EngOut where
  writes : List (Nat × LineData)
  flags : Flags := 0
  gens : List (BitVec 32)
  drawn : Nat := 0
  deriving DecidableEq, Repr

/-- What an engine operation reads: registers, scalar operands, latched formats, generators, the next free value. -/
structure EngIn where
  reg : List LineData
  sx : Nat
  fmts : List Fmt
  gens : List (BitVec 32)
  free : Nat
  deriving DecidableEq, Repr

namespace EngIn

/-- Register r of the context's window. -/
def v (i : EngIn) (r : Nat) : LineData := i.reg.getD (r % 64) 0

/-- The elements of the wide pair at r. -/
def wide (i : EngIn) (r : Nat) : List Nat := wideElems (i.v r) (i.v (r + 1))

/-- A latched format. -/
def fmt (i : EngIn) (k : Nat) : Fmt := i.fmts.getD k {}

/-- The element format of a format: itself, or the element descriptor of an MX format. -/
def elem (i : EngIn) (f : Fmt) : Fmt := if f.cls = 2 then i.fmt f.elem else f

/-- Scale start indices and element index of Sx (R167). -/
def scaleA (i : EngIn) : Nat := i.sx % 128
def scaleB (i : EngIn) : Nat := i.sx / 2 ^ 8 % 128
def elemK (i : EngIn) : Nat := i.sx / 2 ^ 16 % 64

end EngIn

/-- Round one number in a lane (R137, R138). -/
def roundLane (dst : Fmt) (how : Settle) (mode : Nat) (st : List Nat × Flags × List (BitVec 32)) (x : Nat × Num) :
    List Nat × Flags × List (BitVec 32) :=
  let (out, fl, gens) := st
  let m := if mode = 7 then dst.round else mode
  let (r, g) := if m = 4 then srNext dst.srBits (gens.getD x.1 1) else (0, gens.getD x.1 1)
  let (b, f) := dst.encode how m r x.2
  (b :: out, fl ||| f, if m = 4 then gens.set x.1 g else gens)

/-- Round numbers, each in its lane, in element order. -/
def roundAll (dst : Fmt) (how : Settle) (mode : Nat) (gens : List (BitVec 32)) (xs : List (Nat × Num)) :
    List Nat × Flags × List (BitVec 32) :=
  let (out, fl, g) := xs.foldl (roundLane dst how mode) ([], 0, gens)
  (out.reverse, fl, g)

/-- Numbers with lanes 0, 1, 2, … -/
def inLanes (xs : List Num) : List (Nat × Num) := (List.range xs.length).zip xs

/-- The union of flags. -/
def orFlags (fs : List Flags) : Flags := fs.foldl (· ||| ·) 0

/-- INVALID for each result that became NaN from operands that are none. -/
def nanFlags (ops : List (List Num)) (res : List Num) : Flags := orFlags ((ops.zip res).map fun p => madeNan p.1 p.2)

/-- Operand B, or element k of wide pair B for every element (BCAST). -/
def operandB (i : EngIn) (w : DWord) : List Nat :=
  let b := i.wide (bOf w)
  if bcastOf w then List.replicate 64 (b.getD i.elemK 0) else b

/-- A wide pair of results. -/
def wideOut (i : EngIn) (r : Nat) (xs : List Nat) (fl : Flags) (gens : List (BitVec 32)) (drawn : Nat := 0) : EngOut :=
  let (lo, hi) := wideOf xs
  ⟨[(r, lo), (r + 1, hi)], fl, gens, drawn⟩

/-- a × b + c of numbers. -/
def fmaNum (down : Bool) (a b c : Num) : Num := (a.mul b).add down c

/-- VFMA: packed binary32, or a 16-bit format (R139). With BCAST, b is element k of wide pair B, a binary32 value (R167, log 71). -/
def engVfma (i : EngIn) (w : DWord) : EngOut :=
  let f := i.elem (i.fmt (fmtOf w))
  let n := perReg f.width
  let a := (regElems f.width (i.v (aOf w))).map f.decode
  let b := if bcastOf w then List.replicate n (Fmt.b32.decode ((i.wide (bOf w)).getD i.elemK 0))
    else (regElems f.width (i.v (bOf w))).map f.decode
  let c := (regElems f.width (i.v (cOf w))).map f.decode
  let mode := if rndOf w = 7 then f.round else rndOf w
  let rs := (List.range n).map fun j => fmaNum (mode == 2) (a.getD j .nan) (b.getD j .nan) (c.getD j .nan)
  let ops := (List.range n).map fun j => [a.getD j .nan, b.getD j .nan, c.getD j .nan]
  let (out, fl, g) := roundAll f .ieee mode i.gens ((List.range n).map fun j => (laneOf f.width j, rs.getD j .nan))
  ⟨[(dOf w, regOf f.width out)], fl ||| nanFlags ops rs, g, 0⟩

/-- WFMA: binary32 on wide pairs. -/
def engWfma (i : EngIn) (w : DWord) : EngOut :=
  let f := Fmt.b32
  let a := (i.wide (aOf w)).map f.decode
  let b := (operandB i w).map f.decode
  let c := (i.wide (cOf w)).map f.decode
  let mode := if rndOf w = 7 then f.round else rndOf w
  let rs := (List.range 64).map fun j => fmaNum (mode == 2) (a.getD j .nan) (b.getD j .nan) (c.getD j .nan)
  let ops := (List.range 64).map fun j => [a.getD j .nan, b.getD j .nan, c.getD j .nan]
  let (out, fl, g) := roundAll f .ieee mode i.gens (inLanes rs)
  wideOut i (dOf w) out (fl ||| nanFlags ops rs) g

/-- The larger or smaller of two binary32 values; −0 lies below +0, and a NaN gives the canonical NaN. -/
def maxMin (min : Bool) (x y : Nat) : Nat :=
  let a := Fmt.b32.decode x
  let b := Fmt.b32.decode y
  if a = .nan || b = .nan then Fmt.b32.nanBits
  else
    let less := a.lt b || (a.isZero && b.isZero && decide (2 ^ 31 ≤ x % 2 ^ 32))
    if less == min then x else y

/-- WMAX and WMIN. -/
def engMaxMin (min : Bool) (i : EngIn) (w : DWord) : EngOut :=
  let a := i.wide (aOf w)
  let b := operandB i w
  wideOut i (dOf w) ((List.range 64).map fun j => maxMin min (a.getD j 0) (b.getD j 0)) 0 i.gens

/-- One of the binary32 values within 1 ulp of an exact result, by a free value: the two neighbours of a result that binary32
does not hold, else the result or a neighbour of it (log 8). -/
def withinUlp (x : Num) (pick : Nat) : Nat × Flags :=
  let (lo, f) := Fmt.b32.encode .ieee 2 0 x
  let (hi, g) := Fmt.b32.encode .ieee 3 0 x
  if lo ≠ hi then (if pick % 2 = 0 then (lo, f) else (hi, g))
  else
    let m := lo % 2 ^ 31
    if m = 0 || 0x7F7FFFFF ≤ m then (lo, f)
    else if pick % 3 = 1 then (lo + 1, f) else if pick % 3 = 2 then (lo - 1, f) else (lo, f)

/-- Apply a one-operand function with a free value to each element of wide pair A. -/
def engUnary (f : Nat → Nat → Nat × Flags) (i : EngIn) (w : DWord) : EngOut :=
  let rs := (List.range 64).map fun j => f (i.free + j) ((i.wide (aOf w)).getD j 0)
  wideOut i (dOf w) (rs.map (·.1)) (orFlags (rs.map (·.2))) i.gens 64

/-- n successive square roots of 2, each rounded down to 80 fraction bits: 2^(1/2), 2^(1/4), 2^(1/8), … -/
def roots2 : Nat → Nat → List Nat
  | 0, _ => []
  | n + 1, r => let q := isqrtFrom (r * 2 ^ 80) 82 0; q :: roots2 n q

/-- A lower bound of 2^f × 2^80 for a fraction f of 60 bits, less than 2^23 below it. -/
def exp2Frac (f : Nat) : Nat :=
  ((roots2 60 (2 ^ 81)).zip (List.range 60)).foldl (fun a p => if f / 2 ^ (59 - p.2) % 2 = 1 then a * p.1 / 2 ^ 80 else a) (2 ^ 80)

/-- 2^x, one of the binary32 values within 1 ulp of it, by a free value (Table 07-14, log 8): the exact power lies between a lower bound and
that bound plus 2^24 at 80 fraction bits. -/
def exp2One (k x : Nat) : Nat × Flags :=
  match Fmt.b32.decode x with
  | .nan => (Fmt.b32.nanBits, 0)
  | .inf neg => if neg then (0, 0) else (Fmt.b32.infBits false, 0)
  | .fin neg m e =>
    if !neg && !magLt m e 128 0 then (Fmt.b32.infBits false, fOverflow)
    else if neg && !magLt m e 150 0 then (0, fUnderflow)
    else
      let v : Int := (m : Int) * (if neg then -1 else 1)
      let t : Int := if 0 ≤ e + 60 then v * ((2 ^ (e + 60).toNat : Nat) : Int) else v / ((2 ^ (-(e + 60)).toNat : Nat) : Int)
      let p := exp2Frac (t % ((2 ^ 60 : Nat) : Int)).toNat
      let q : Int := t / ((2 ^ 60 : Nat) : Int) - 80
      let (lo, f) := Fmt.b32.encode .ieee 2 0 (.fin false p q)
      let (hi, g) := Fmt.b32.encode .ieee 3 0 (.fin false (p + 2 ^ 24) q)
      if lo + 1 < hi then (lo + 1, f) else if (Config.freeWord k).toNat % 2 = 0 then (lo, f) else (hi, g)

/-- 1/x. -/
def rcpOne (k x : Nat) : Nat × Flags :=
  match Fmt.b32.decode x with
  | .nan => (Fmt.b32.nanBits, 0)
  | .inf neg => (neg.toNat * 2 ^ 31, 0)
  | .fin neg m e =>
    if m = 0 then (Fmt.b32.infBits neg, 0)
    else
      let (q, t) := divSticky 1 0 m e 32
      withinUlp (.fin neg q t) (Config.freeWord k).toNat

/-- 1/√x. -/
def rsqOne (k x : Nat) : Nat × Flags :=
  match Fmt.b32.decode x with
  | .nan => (Fmt.b32.nanBits, 0)
  | .inf neg => if neg then (Fmt.b32.nanBits, fInvalid) else (0, 0)
  | .fin neg m e =>
    if m = 0 then (Fmt.b32.infBits neg, 0)
    else if neg then (Fmt.b32.nanBits, fInvalid)
    else
      let (q, t) := divSticky 1 0 m e 80
      let (r, u) := sqrtSticky q t 32
      withinUlp (.fin false r u) (Config.freeWord k).toNat

/-- √x as a number to be rounded. -/
def sqrtNum (x : Num) : Num :=
  match x with
  | .nan => .nan
  | .inf neg => if neg then .nan else .inf false
  | .fin neg m e =>
    if m = 0 then .fin neg 0 e
    else if neg then .nan
    else
      let (r, t) := sqrtSticky m e 32
      .fin false r t

/-- a/b as a number to be rounded. -/
def divNum (x y : Num) : Num :=
  match x, y with
  | .nan, _ => .nan
  | _, .nan => .nan
  | .inf _, .inf _ => .nan
  | .inf a, .fin b _ _ => .inf (a != b)
  | .fin a _ _, .inf b => .fin (a != b) 0 0
  | .fin a m e, .fin b m' e' =>
    if m' = 0 then (if m = 0 then .nan else .inf (a != b))
    else if m = 0 then .fin (a != b) 0 0
    else
      let (q, t) := divSticky m e m' e' 32
      .fin (a != b) q t

/-- WEXP2, WRCP, WRSQ. -/
def engWexp2 : EngIn → DWord → EngOut := engUnary exp2One
def engWrcp : EngIn → DWord → EngOut := engUnary rcpOne
def engWrsq : EngIn → DWord → EngOut := engUnary rsqOne

/-- WSQRT: correctly rounded. -/
def engWsqrt (i : EngIn) (w : DWord) : EngOut :=
  let xs := (i.wide (aOf w)).map Fmt.b32.decode
  let rs := xs.map sqrtNum
  let (out, fl, g) := roundAll Fmt.b32 .ieee (rndOf w) i.gens (inLanes rs)
  wideOut i (dOf w) out (fl ||| nanFlags (xs.map ([·])) rs) g

/-- WDIV: correctly rounded. -/
def engWdiv (i : EngIn) (w : DWord) : EngOut :=
  let a := (i.wide (aOf w)).map Fmt.b32.decode
  let b := (operandB i w).map Fmt.b32.decode
  let rs := (a.zip b).map fun p => divNum p.1 p.2
  let (out, fl, g) := roundAll Fmt.b32 .ieee (rndOf w) i.gens (inLanes rs)
  wideOut i (dOf w) out (fl ||| nanFlags ((a.zip b).map fun p => [p.1, p.2]) rs) g

/-! ### Conversions (R140, R141) -/

/-- Elements per register of a CVT side: wide pairs hold 64 of 32 bits, packed binary32 holds 32 a register, FP6 256 a pair. -/
def cvtElems (f : Fmt) : Nat := if f.width = 32 then 64 else if f.width = 6 then 256 else perReg f.width

/-- A CVT side lies in wide pairs: INT32, and binary32 unless BCAST selects packed binary32 (Table 07-14). -/
def inPairs (f : Fmt) (packed : Bool) : Bool := f.width == 32 && (f.cls == 1 || !packed)

/-- n elements of a CVT side from register r. -/
def cvtRead (i : EngIn) (f : Fmt) (packed : Bool) (r n : Nat) : List Nat :=
  if inPairs f packed then (List.range (n / 64)).flatMap fun k => i.wide (r + 2 * k)
  else (List.range (n / perReg f.width)).flatMap fun k => regElems f.width (i.v (r + k))

/-- Cut a list into runs of k. -/
def chunks (k : Nat) : Nat → List Nat → List (List Nat)
  | 0, _ => []
  | n + 1, xs => xs.take k :: chunks k n (xs.drop k)

/-- The registers that hold the elements of a CVT side from register r. -/
def cvtWrite (f : Fmt) (packed : Bool) (r : Nat) (xs : List Nat) : List (Nat × LineData) :=
  if inPairs f packed then
    ((List.range (xs.length / 64)).zip (chunks 64 (xs.length / 64) xs)).flatMap fun p =>
      let (lo, hi) := wideOf p.2
      [(r + 2 * p.1, lo), (r + 2 * p.1 + 1, hi)]
  else
    let m := perReg f.width
    ((List.range (xs.length / m)).zip (chunks m (xs.length / m) xs)).map fun p => (r + p.1, regOf f.width p.2)

/-- SAT of an instruction: its bit, else the destination descriptor's (R140, log 18). -/
def satOr (f : Fmt) (w : DWord) : Settle := .table (f.sat || satOf w)

/-- Elements that a CVT converts: as many as a register, FP6 pair or wide pair of its narrower side holds. -/
def cvtCount (src dst : Fmt) : Nat := if src.width < dst.width then cvtElems src else cvtElems dst

/-- CVT (R140); BCAST selects packed binary32. -/
def engCvt (i : EngIn) (w : DWord) : EngOut :=
  let src := i.elem (i.fmt (fmtOf w))
  let dst := i.elem (i.fmt (fmt2Of w))
  let n := cvtCount src dst
  let xs := cvtRead i src (bcastOf w) (aOf w) n
  let lane (j : Nat) : Nat := if inPairs dst (bcastOf w) then j % 64 else laneOf dst.width j % 64
  let (out, fl, g) := roundAll dst (satOr dst w) (rndOf w) i.gens
    ((List.range n).map fun j => (lane j, src.decode (xs.getD j 0)))
  ⟨cvtWrite dst (bcastOf w) (dOf w) out, fl, g, 0⟩

/-- An MX block quantized: its scale byte and elements (R141), with the FTZ and SR_BITS of the MX descriptor, which is the destination's
(Table 06-7). -/
def quantBlock (f elem : Fmt) (how : Settle) (mode : Nat) (gens : List (BitVec 32)) (xs : List (Nat × Num)) :
    Nat × List Nat × Flags × List (BitVec 32) :=
  let (sc, f1) := mxScale f elem (xs.map (·.2))
  let shift : Int := if elem.cls = 1 then 6 else 0
  let scaled := xs.map fun x =>
    (x.1, match scaleExp sc with | some k => x.2.scale (shift - k) | none => .nan)
  let (out, f2, g) := roundAll { elem with ftz := f.ftz, srBits := f.srBits } how mode gens scaled
  (sc, out, f1 ||| f2, g)

/-- Quantize blocks of k numbers in order. -/
def quantBlocks (f elem : Fmt) (how : Settle) (mode k : Nat) :
    Nat → List (BitVec 32) → List (Nat × Num) → List Nat × List Nat × Flags × List (BitVec 32)
  | 0, g, _ => ([], [], 0, g)
  | n + 1, g, xs =>
    let (sc, out, fl, g) := quantBlock f elem how mode g (xs.take k)
    let (scs, outs, fl2, g) := quantBlocks f elem how mode k n g (xs.drop k)
    (sc :: scs, out ++ outs, fl ||| fl2, g)

/-- Elements that a QNT takes: 128, or 256 for a 6- or 4-bit destination. -/
def qntCount (elem : Fmt) : Nat := if elem.width < 8 then 256 else 128

/-- A register with bytes replaced from byte i on. -/
def setRegBytes (l : LineData) (i : Nat) (bs : List Nat) : LineData :=
  lineOf ((List.range 128).map fun j => if i ≤ j && decide (j < i + bs.length) then BitVec.ofNat 8 (bs.getD (j - i) 0) else lineByte l j)

/-- QNT: wide pairs to an MX format; the scales go into C from Sx[6:0]. -/
def engQnt (i : EngIn) (w : DWord) : EngOut :=
  let f := i.fmt (fmt2Of w)
  let elem := i.elem f
  let n := qntCount elem
  let xs := (List.range (n / 64)).flatMap fun k => i.wide (aOf w + 2 * k)
  let lane (j : Nat) : Nat := laneOf elem.width j % 64
  let nums := (List.range n).map fun j => (lane j, Fmt.b32.decode (xs.getD j 0))
  let k := if f.block = 0 then 32 else f.block
  let mode := if rndOf w = 7 then f.round else rndOf w
  let (scs, out, fl, g) := quantBlocks f elem (.table (f.sat || satOf w)) mode k (n / k) i.gens nums
  ⟨cvtWrite elem false (dOf w) out ++ [(cOf w, setRegBytes (i.v (cOf w)) i.scaleA scs)], fl, g, 0⟩

/-! ### Dot products (R134, R139, R143) -/

/-- An operand register group: the elements of A or B by element number. -/
def dotElems (i : EngIn) (elem : Fmt) (r : Nat) : List Nat :=
  if elem.width = 6 then regElems 6 (i.v r) ++ regElems 6 (i.v (r + 1)) else regElems elem.width (i.v r)

/-- Element j of an operand as an exact number with its block's scale (R132, R134). -/
def dotNum (i : EngIn) (f elem : Fmt) (xs : List Nat) (scale start j : Nat) : Num :=
  let x := xs.getD j 0
  if f.cls = 2 then
    let k := if f.block = 0 then 32 else f.block
    match scaleExp (lineByte (i.v scale) ((start + j / k) % 128)).toNat with
    | none => .nan
    | some e => (elem.decodeElem x).scale e
  else elem.decode x

/-- The products of a list of element pairs, exact. -/
def products (a b : List Num) : List Num := (a.zip b).map fun p => p.1.mul p.2

/-- The exact sum of numbers; −0 adds nothing to any number, −0 included (IEEE 754). -/
def sumNums (xs : List Num) : Num := xs.foldl (Num.add false) (.fin true 0 0)

/-- Whether a dot product accumulates in INT32: plain integers on both sides (Table 06-11). -/
def intDot (f g : Fmt) : Bool := f.cls == 1 && g.cls == 1

/-- INT32 as a format. -/
def Fmt.i32 : Fmt := { cls := 1, width := 32 }

/-- acc plus exact products, rounded once (binary32, RNE) or saturating (INT32). -/
def accumulate (int : Bool) (acc : Nat) (ps : List Num) (ops : List Num) : Nat × Flags :=
  if int then Fmt.i32.encodeInt 0 0 ((Fmt.i32.decode acc).add false (sumNums ps))
  else
    let a := Fmt.b32.decode acc
    let n := a.add false (sumNums ps)
    let (v, fl) := Fmt.b32.encode .ieee 0 0 n
    (v, fl ||| madeNan (a :: ops) n)

/-- Operand A and B of a DOT as numbers by element number. -/
def dotOperands (i : EngIn) (w : DWord) : List Num × List Num × Fmt × Fmt :=
  let f := i.fmt (fmtOf w)
  let g := i.fmt (fmt2Of w)
  let fe := i.elem f
  let ge := i.elem g
  let xs := dotElems i fe (aOf w)
  let ys := dotElems i ge (bOf w)
  ((List.range xs.length).map (dotNum i f fe xs (cOf w) i.scaleA),
   (List.range ys.length).map (dotNum i g ge ys (eOf w) i.scaleB), fe, ge)

/-- DOT: each lane's products added to the lane's element of wide pair D. -/
def engDot (i : EngIn) (w : DWord) : EngOut :=
  let (a, b, fe, ge) := dotOperands i w
  let int := intDot (i.fmt (fmtOf w)) (i.fmt (fmt2Of w))
  let acc := i.wide (dOf w)
  let rs := (List.range 64).map fun j =>
    let x := (laneElems fe.width j).map fun k => a.getD k .nan
    let y := (laneElems ge.width j).map fun k => b.getD k .nan
    accumulate int (acc.getD j 0) (products x y) (x ++ y)
  wideOut i (dOf w) (rs.map (·.1)) (orFlags (rs.map (·.2))) i.gens

/-- DOTR: all products into element k of wide pair D. -/
def engDotr (i : EngIn) (w : DWord) : EngOut :=
  let (a, b, fe, ge) := dotOperands i w
  let int := intDot (i.fmt (fmtOf w)) (i.fmt (fmt2Of w))
  let acc := i.wide (dOf w)
  let x := (List.range 64).flatMap fun j => (laneElems fe.width j).map fun k => a.getD k .nan
  let y := (List.range 64).flatMap fun j => (laneElems ge.width j).map fun k => b.getD k .nan
  let (r, fl) := accumulate int (acc.getD i.elemK 0) (products x y) (x ++ y)
  wideOut i (dOf w) (acc.set i.elemK r) fl i.gens

/-- WMAC: elements of A times b, accumulated in binary32. -/
def engWmac (i : EngIn) (w : DWord) : EngOut :=
  let f := i.fmt (fmtOf w)
  let fe := i.elem f
  let b := Fmt.b32.decode ((i.wide (bOf w)).getD i.elemK 0)
  let xs := regElems fe.width (i.v (aOf w))
  let num (j : Nat) : Num := dotNum i f fe xs (cOf w) i.scaleA j
  let one (acc j : Nat) : Nat × Flags := accumulate false acc [(num j).mul b] [num j, b]
  let acc := i.wide (dOf w)
  if fe.width = 8 then
    let acc2 := i.wide (dOf w + 2)
    let r1 := (List.range 64).map fun j => one (acc.getD j 0) (2 * j)
    let r2 := (List.range 64).map fun j => one (acc2.getD j 0) (2 * j + 1)
    let o1 := wideOf (r1.map (·.1))
    let o2 := wideOf (r2.map (·.1))
    ⟨[(dOf w, o1.1), (dOf w + 1, o1.2), (dOf w + 2, o2.1), (dOf w + 3, o2.2)],
      orFlags (r1.map (·.2)) ||| orFlags (r2.map (·.2)), i.gens, 0⟩
  else
    let r := (List.range 64).map fun j => one (acc.getD j 0) j
    wideOut i (dOf w) (r.map (·.1)) (orFlags (r.map (·.2))) i.gens

/-! ### Reductions (R143, R146) -/

/-- Remove element i of a list. -/
def takeOut (xs : List Nat) (i : Nat) : Nat × List Nat := (xs.getD i 0, xs.eraseIdx i)

/-- Combine a list to one value: each time two values that free values pick (R146: the order is free, log 7). -/
def combine (op : Nat → Nat → Nat × Flags) : Nat → Nat → List Nat → Nat × Flags
  | 0, _, xs => (xs.headD 0, 0)
  | n + 1, k, xs =>
    if xs.length ≤ 1 then (xs.headD 0, 0)
    else
      let (x, xs) := takeOut xs ((Config.freeWord k).toNat % xs.length)
      let (y, xs) := takeOut xs ((Config.freeWord (k + 1)).toNat % xs.length)
      let (z, fl) := op x y
      let (r, fl2) := combine op n (k + 2) (xs ++ [z])
      (r, fl ||| fl2)

/-- The larger or smaller of two INT32 values. -/
def maxMinInt (min : Bool) (x y : Nat) : Nat :=
  let a := if x % 2 ^ 32 < 2 ^ 31 then x % 2 ^ 32 + 2 ^ 32 else x % 2 ^ 32
  let b := if y % 2 ^ 32 < 2 ^ 31 then y % 2 ^ 32 + 2 ^ 32 else y % 2 ^ 32
  if decide (a < b) == min then x else y

/-- The combining operation of a reduction: 0 sum, 1 max, 2 min. -/
def redOp (int : Bool) (kind : Nat) (x y : Nat) : Nat × Flags :=
  match kind, int with
  | 0, true => iadd32 x y
  | 0, false => fadd32 x y
  | 1, true => (maxMinInt false x y, 0)
  | 1, false => (maxMin false x y, 0)
  | _, true => (maxMinInt true x y, 0)
  | _, false => (maxMin true x y, 0)

/-- RED: wide pair A reduced into element k of wide pair D. -/
def engRed (i : EngIn) (w : DWord) : EngOut :=
  let int := (i.fmt (fmtOf w)).cls == 1
  let (r, fl) := combine (redOp int (fieldOf w 57 2)) 64 i.free (i.wide (aOf w))
  wideOut i (dOf w) ((i.wide (dOf w)).set i.elemK r) fl i.gens 126

/-- WBC: element k of wide pair A in every element. -/
def engWbc (i : EngIn) (w : DWord) : EngOut :=
  wideOut i (dOf w) (List.replicate 64 ((i.wide (aOf w)).getD i.elemK 0)) 0 i.gens

/-- VCLR. -/
def engVclr (i : EngIn) (w : DWord) : EngOut := ⟨[(dOf w, 0)], 0, i.gens, 0⟩

/-! ### Residues (R335, R336) -/

/-- What the checker compares of one element: residues modulo 21 of an integer; of a floating value its sign, its class, and the residues
of its exponent and its fraction. -/
def checkedElem (f : Fmt) (x : Nat) : List Nat :=
  if f.cls = 1 then [((if x < 2 ^ (f.width - 1) then (x : Int) else (x : Int) - (2 ^ f.width : Nat)) % 21).toNat]
  else
    [x / 2 ^ (f.exp + f.man) % 2, (match f.decode x with | .nan => 1 | .inf _ => 2 | .fin _ _ _ => 0),
     x / 2 ^ f.man % 2 ^ f.exp % 21, x % 2 ^ f.man % 21]

/-- What the checker compares of result registers: of elements of a format, in wide pairs or packed. -/
def checkedRegs (f : Fmt) (wide : Bool) : List LineData → List (List Nat)
  | [] => []
  | a :: rest =>
    if wide then
      match rest with
      | [] => []
      | b :: rest => (wideElems a b).map (checkedElem f) ++ checkedRegs f wide rest
    else (regElems f.width a).map (checkedElem f) ++ checkedRegs f wide rest

end Sys2Proof.Machine
end

