-- ==== Sys2Proof/Machine/Transactions.lean ====
section
/-! DEFINITION. Transactions at the homes: opening, requests, commit and abort (chapter 05). -/

namespace Sys2Proof.Machine

/-- Abort causes (Table 05-4). -/
def Cause.rights : Nat := 5
def Cause.withdrawn : Nat := 6
def Cause.explicit : Nat := 7
def Cause.revoked : Nat := 8
def Cause.invalid : Nat := 10

namespace State

/-- Die of the home agent a request names (R103). -/
def homeDie (q : Packet) : Nat := (q.dlocal.toNat - 0xC0) % 4

/-- The record a request of its opener names (R103, R104). -/
def txnFor (s : State) (q : Packet) : Option Nat :=
  match s.txnOf q.txid with
  | some k => if (s.txn k).opener == q.principal then some k else none
  | none => none

/-- TX_OPEN at its coordinator (R103, R105). -/
def txOpen (s : State) (q : Packet) : State :=
  let d := homeDie q
  if !s.inTurn q then s
  else
  let s := s.taken q
  if s.home.halted.contains d then s.refuse d q St.internal
  else if q.len ≠ 0 || q.chan ≠ 0 || q.resv then s.refuse d q St.badRequest
  else if ((s.partitionOf q).map s.revoking).getD false then s.refuse d q St.revoked
  else match (List.range 1024).find? fun i => (s.txn (txnKey d i)).state == .free with
    | none => s.refuse d q St.capacity
    | some i =>
      let k := txnKey d i
      if 1024 ≤ s.txnLive d then s.refuse d q St.capacity
      else
        let s := s.setTxn k { gen := (s.txn k).gen, state := .open, opener := q.principal, source := q.src,
                              partition := (s.partitionOf q).getD 0 }
        let s := s.txnRefresh
        s.send d { opcode := BitVec.ofNat 8 Op.txOpened, chan := 1, src := s.endpoint (0xC0 + d), dest := q.src,
                   tag := q.tag, cls := q.cls, txid := s.txidOf k, bark := BitVec.ofNat 3 (s.homeBark d) }

/-- Abort cause of a failed check (Table 05-4). -/
def causeOf (st : Nat) : Nat :=
  if st = St.withdrawn then Cause.withdrawn else if st = St.revoked then Cause.revoked else Cause.rights

/-- A malformed request that names a transaction of its principal aborts it (Table 05-4). -/
def abortNamed (s : State) (q : Packet) : State :=
  match s.txnFor q with
  | some k => s.abortTxn k Cause.invalid
  | none => s

/-- TX_RD, TX_WR or TX_ATOMIC, in the order of R109. -/
def txServe (s : State) (q : Packet) (entry : Nat) (u : Upset) : State :=
  let d := match s.findExt ExtState.serves q.offset with
    | some (_, x) => lineDie (s.lineAt x.attr q.offset)
    | none => entry
  if s.home.halted.contains d then s.refuse d q St.internal
  else if !wellFormedReq q then (s.abortNamed q).refuse d q St.badRequest
  else match s.txnFor q with
    | none => s.refuse d q St.txAbort Cause.invalid
    | some k =>
      match (s.txn k).state with
      | .aborted => s.refuse d q St.txAbort (s.txn k).cause
      | .preparing => (s.abortTxn k Cause.invalid).refuse d q St.txAbort Cause.invalid
      | .committed => s.refuse d q St.badRequest
      | .free => s.refuse d q St.txAbort Cause.invalid
      | .open =>
        match s.checkRights q with
        | (0, some p) =>
          if !p.rec_.attr.coherent then (s.abortTxn k Cause.invalid).refuse d q St.badRequest
          else s.enqueue q p u
        | (st, _) => (s.abortTxn k (causeOf st)).refuse d q st

/-- TX_RD, TX_WR or TX_ATOMIC reaches a home; one whose turn in its mesh cycle has not come waits (R98). -/
def txAccess (s : State) (q : Packet) (op entry : Nat) (u : Upset) : State :=
  let q := { q with opcode := BitVec.ofNat 8 op }
  if s.inTurn q then (s.taken q).txServe q (s.entryDie q entry) u else s

/-- Dies that hold lines of a transaction: its legs, in rising order. -/
def legDies (t : Txn) : List Nat := [0, 1, 2, 3].filter fun d => t.lines.any fun l => lineDie l.line == d

/-- The commit is complete: TX_COMMIT is answered and the record freed (Table 05-5, step 5). -/
def closeTxn (s : State) (k : Nat) : State :=
  let d := txnDie k
  let s := match (s.txn k).commit with
    | some q => s.answer d q Op.done St.ok
    | none => s
  (s.bump F.txnCount_commits d).freeTxn k

/-- The commit point (Table 05-5, step 3). -/
def commitPoint (s : State) (k : Nat) : State :=
  let t := s.txn k
  if t.state = .preparing && t.phases.all (·.2 == .acked) then
    let s := s.setTxn k { t with state := .committed }
    if t.phases.isEmpty then s.closeTxn k else s
  else s

/-- TX_COMMIT at the coordinator (R106, Tables 05-5 and 05-6). One that reaches another home is served as if it had reached the coordinator:
DESIGN CHOICE, log 70. -/
def txCommit (s : State) (q : Packet) : State :=
  let d := homeDie q
  if !s.inTurn q then s
  else
  let s := s.taken q
  if s.home.halted.contains d then s.refuse d q St.internal
  else if q.len ≠ 1 || q.chan ≠ 0 || q.resv || lineBits q.data 2 48 ≠ 0 then (s.abortNamed q).refuse d q St.badRequest
  else match s.txnFor q with
    | none => s.refuse d q St.txAbort Cause.invalid
    | some k =>
      let t := s.txn k
      match t.state with
      | .open =>
        let s := s.setTxn k { t with commit := some q }
        if t.ok % 65536 ≠ lineBits q.data 0 16 then s.abortTxn k Cause.invalid
        else
          let t := s.txn k
          (s.setTxn k { t with state := .preparing, phases := (legDies t).map fun d => (d, .idle) }).commitPoint k
      | .preparing => (s.abortTxn k Cause.invalid).refuse d q St.txAbort Cause.invalid
      | .committed => s.refuse d q St.badRequest
      | .aborted => (s.refuse d q St.txAbort t.cause).freeTxn k
      | .free => s.refuse d q St.txAbort Cause.invalid

/-- TX_ABORT at the coordinator (Table 05-6), or at another home as if there (log 70). -/
def txAbort (s : State) (q : Packet) : State :=
  let d := homeDie q
  if !s.inTurn q then s
  else
  let s := s.taken q
  if s.home.halted.contains d then s.refuse d q St.internal
  else if q.len ≠ 0 || q.chan ≠ 0 || q.resv then (s.abortNamed q).refuse d q St.badRequest
  else match s.txnFor q with
    | none => s.refuse d q St.txAbort Cause.invalid
    | some k =>
      match (s.txn k).state with
      | .open | .preparing => (((s.abortTxn k Cause.explicit false).answer d q Op.done St.ok).freeTxn k)
      | .committed => s.refuse d q St.busy
      | .aborted => (s.answer d q Op.done St.ok).freeTxn k
      | .free => s.refuse d q St.txAbort Cause.invalid

def phase (t : Txn) (d : Nat) : Option LegPhase := t.phases.look d

/-- PREPARE reaches the leg of die d: legs prepare one die at a time, in rising order (R115, Table 05-5). -/
def prepare (s : State) (d k : Nat) : State :=
  let t := s.txn k
  let lower := t.phases.all fun p => p.1 ≥ d || p.2 == .acked
  if t.state = .preparing && phase t d = some .idle && lower then
    (s.setTxn k { t with phases := t.phases.put d .locking }).lockOn k d
  else s

/-- READY of die d's leg reaches the coordinator. -/
def legReady (s : State) (d k : Nat) : State :=
  let t := s.txn k
  if t.state = .preparing && phase t d = some .ready then
    (s.setTxn k { t with phases := t.phases.put d .acked }).commitPoint k
  else s

/-- Staged lines a leg has yet to put in place, and the next one in rising (T, L). -/
def nextStaged (t : Txn) (d : Nat) : Option TxnLine :=
  (t.lines.filter fun l => lineDie l.line == d && l.staged.isSome).foldl
    (fun (a : Option TxnLine) l => match a with
      | some x => if lockRank l.line < lockRank x.line then some l else some x
      | none => some l) none

/-- A leg with no staged line left is APPLIED. -/
def legDone (s : State) (d k : Nat) : State :=
  let t := s.txn k
  if (nextStaged t d).isNone then s.setTxn k { t with phases := t.phases.put d .applied } else s

/-- APPLY reaches die d's leg: its read-only lines are unlocked and unpinned (Table 05-5, step 4). A stopped home applies nothing (R117). -/
def apply (s : State) (d k : Nat) : State :=
  let t := s.txn k
  if t.state = .committed && phase t d = some .acked && !s.home.halted.contains d then
    let here (l : TxnLine) : Bool := lineDie l.line == d && l.staged.isNone
    let s := (t.lines.filter here).foldl releaseLine s
    ((s.setTxn k { t with lines := t.lines.filter fun l => !here l, phases := t.phases.put d .applying }).legDone d k).txnRefresh
  else s

/-- The line's value under the staged bytes: none while it has yet to come from DRAM. A whole line needs no read. -/
def applyBase (s : State) (l : TxnLine) (mask : Mask) (u : Upset) : Option (LineData × Bool) × State :=
  if mask = maskFull then (some (0, false), s)
  else match s.demandRead l.line u with
    | (.data old md, s) => (some (old, md.poison), s)
    | (_, s) => (none, s)

/-- The leg puts its next staged line in place, aborts what conflicts, and releases the line (R114, R117). An error that the leg's own read
of the line finds aborts the transactions that have read the line with POISON first: DEDUCED, log 70. -/
def applyLine (s : State) (d k : Nat) (u : Upset) : State :=
  let t := s.txn k
  if t.state = .committed && phase t d = some .applying && !s.home.halted.contains d then
    match nextStaged t d with
    | none => s
    | some l =>
      if s.blocked l.line then s
      else
        let (data, mask) := l.staged.getD (0, 0)
        match s.applyBase l mask u with
        | (none, s) => s
        | (some (old, poison), s) =>
          let s := s.writeLine l.line (s.mscAlloc l.line) (mergeLine old data mask) (poison || l.spoiled) false (mask == maskFull)
          let s := if l.spoiled then s.reportPoison l.line else s
          let s := s.abortWhere 1 true fun k' t' => k' != k && t'.lines.any fun x => x.line == l.line
          let s := s.releaseLine l
          let t := s.txn k
          ((s.setTxn k { t with lines := t.lines.filter fun x => x.line != l.line }).legDone d k).txnRefresh
  else s

/-- APPLIED of die d's leg reaches the coordinator; the last one closes the transaction (Table 05-5, step 5). -/
def applied (s : State) (d k : Nat) : State :=
  let t := s.txn k
  if t.state = .committed && phase t d = some .applied then
    let s := s.setTxn k { t with phases := t.phases.del d }
    if (s.txn k).phases.isEmpty then s.closeTxn k else s.txnRefresh
  else s

/-- The lifetime of a transaction expires (Table 05-6). -/
def lifetime (s : State) (k : Nat) : State := s.abortTxn k 3

/-- One further lifetime of an aborted record has elapsed (R118). -/
def recordExpiry (s : State) (k : Nat) : State := if (s.txn k).state = .aborted then s.freeTxn k else s

end State

/-- TX_OPEN (R103). -/
def execTxOpen (q : Packet) (s : State) : Host.Outcome State Fault Refusal := .next (s.txOpen q).settle
/-- TX_RD (R109, R111). -/
def execTxRd (q : Packet) (entry : Die) (ecc : Upset) (s : State) : Host.Outcome State Fault Refusal :=
  .next (s.txAccess q Op.txRd entry.val ecc).settle
/-- TX_WR (R109, R111). -/
def execTxWr (q : Packet) (entry : Die) (s : State) : Host.Outcome State Fault Refusal :=
  .next (s.txAccess q Op.txWr entry.val Upset.clean).settle
/-- TX_ATOMIC (R109, R111). -/
def execTxAtomic (q : Packet) (entry : Die) (ecc : Upset) (s : State) : Host.Outcome State Fault Refusal :=
  .next (s.txAccess q Op.txAtomic entry.val ecc).settle
/-- TX_COMMIT (R106, R116). -/
def execTxCommit (q : Packet) (s : State) : Host.Outcome State Fault Refusal := .next (s.txCommit q).settle
/-- TX_ABORT (R118). -/
def execTxAbort (q : Packet) (s : State) : Host.Outcome State Fault Refusal := .next (s.txAbort q).settle
/-- PREPARE (R115). -/
def execPrepare (leg c : Die) (i : Fin 1024) (s : State) : Host.Outcome State Fault Refusal :=
  .next (s.prepare leg.val (State.txnKey c.val i.val)).settle
/-- READY (R116). -/
def execReady (leg c : Die) (i : Fin 1024) (s : State) : Host.Outcome State Fault Refusal :=
  .next (s.legReady leg.val (State.txnKey c.val i.val)).settle
/-- APPLY (R116). -/
def execApply (leg c : Die) (i : Fin 1024) (s : State) : Host.Outcome State Fault Refusal :=
  .next (s.apply leg.val (State.txnKey c.val i.val)).settle
/-- APPLY_LINE (R114, R116, R117). -/
def execApplyLine (leg c : Die) (i : Fin 1024) (ecc : Upset) (s : State) : Host.Outcome State Fault Refusal :=
  .next (s.applyLine leg.val (State.txnKey c.val i.val) ecc).settle
/-- APPLIED (R116). -/
def execApplied (leg c : Die) (i : Fin 1024) (s : State) : Host.Outcome State Fault Refusal :=
  .next (s.applied leg.val (State.txnKey c.val i.val)).settle
/-- TX_LIFETIME_EXPIRY (R118). -/
def execTxLifetimeExpiry (c : Die) (i : Fin 1024) (s : State) : Host.Outcome State Fault Refusal :=
  .next (s.lifetime (State.txnKey c.val i.val)).settle
/-- TX_RECORD_EXPIRY (R118). -/
def execTxRecordExpiry (c : Die) (i : Fin 1024) (s : State) : Host.Outcome State Fault Refusal :=
  .next (s.recordExpiry (State.txnKey c.val i.val)).settle

end Sys2Proof.Machine
end

