-- ==== Sys2Proof/Machine/Extents.lean ====
section
/-! DEFINITION. Extents, endpoint groups and coherence slots: their commands, the zero-fill and the withdrawal (chapter 02). -/

namespace Sys2Proof.Machine

namespace State

/-! ### Extents -/

def getExt (s : State) (e : Nat) : Extent := s.home.ext.lookD e {}

/-- Slots of a partition's save area: 8 in each granule of an extent with the properties of R191. -/
def saveSlots (s : State) (p : Nat) : Nat :=
  if s.flag F.cluSave_valid p then
    match s.home.ext.look (s.rd F.cluSave_extId p) with
    | some x =>
      let a := x.attr
      if x.state = .on && a.partition = p && !a.coherent && !a.countEn && a.rights.isEmpty && decide (1 ≤ a.count) && decide (a.count ≤ 8192)
      then 8 * a.count else 0
    | none => 0
  else 0

def refreshSave (s : State) (p : Nat) : State :=
  s.wr F.cluSave_free p (min 65536 (s.saveSlots p - (s.clu.saved.filter fun v => v.partition == p).length))

/-- The save areas that name an extent show their free slots anew (R191, Table 08-11). -/
def refreshSaves (s : State) (e : Nat) : State :=
  (List.range 16).foldl (fun s p => if s.flag F.cluSave_valid p && s.rd F.cluSave_extId p == e then s.refreshSave p else s) s

/-- Store an extent; HOM_EXT_STATUS shows the state of the last command's extent (Table 02-8), and CLU_SAVE what it leaves of a save area. -/
def setExt (s : State) (e : Nat) (x : Extent) : State :=
  let s := (s.uHome fun h => { h with ext := h.ext.putC {} e x }).refreshSaves e
  if s.rd F.homExtStatus_extId = e then s.wr F.homExtStatus_state 0 x.state.code else s

/-- EXTENT_STATE (R36, Table 21-2). -/
def extEvent (s : State) (e : Nat) (status : Nat) : State :=
  let x := s.getExt e
  s.raise { type := 0x0801, part := some x.attr.partition, status := status,
            arg := leBytes e 2 ++ [BitVec.ofNat 8 x.state.code] }

/-- The valid entries of HOM_EXT_RIGHTS (Table 02-7). -/
def stagedRights (s : State) : List Right :=
  ((List.range 32).filter fun i => s.flag F.homExtRights_valid i).map fun i =>
    ⟨s.rd F.homExtRights_group i, s.flag F.homExtRights_rd i, s.flag F.homExtRights_wr i, s.flag F.homExtRights_at i⟩

/-- The attributes that CREATE reads (Tables 02-5 to 02-7). -/
def stagedAttr (s : State) : ExtAttr :=
  { tier2 := s.flag F.homExtAttr_tier, oneDie := s.rd F.homExtAttr_place == 1, coherent := s.flag F.homExtAttr_coherent
    countEn := s.flag F.homExtAttr_countEn, partition := s.rd F.homExtAttr_partition, key := s.rd F.homExtAttr_keyId
    base := s.rd F.homExtCmd_base, count := s.rd F.homExtCmd_count, rights := s.stagedRights }

/-- Two granule runs share a quad position (R33). -/
def shareQuad (qg : Nat) (a b : ExtAttr) : Bool :=
  [0, 1, 2, 3].any fun q => [0, 1, 2, 3].any fun r =>
    let lo := max (max a.base (q * qg) - q * qg) (max b.base (r * qg) - r * qg)
    let hi := min (min (a.base + a.count) ((q + 1) * qg) - q * qg) (min (b.base + b.count) ((r + 1) * qg) - r * qg)
    decide (a.base < (q + 1) * qg) && decide (q * qg < a.base + a.count)
      && decide (b.base < (r + 1) * qg) && decide (r * qg < b.base + b.count) && decide (lo < hi)

/-- The granule rules of R37: within the tier, within a quarter, no granule taken, the quad rule. -/
def granulesOk (s : State) (e : Nat) (a : ExtAttr) : Bool :=
  let n := s.tierGranules a.tier2
  let qg := s.quarterGranules a.tier2
  let others := s.home.ext.filter fun x => x.1 ≠ e && x.2.state != .off && x.2.attr.tier2 == a.tier2
  decide (1 ≤ a.count) && decide (a.base + a.count ≤ n)
    && (!a.oneDie || decide (a.base / qg = (a.base + a.count - 1) / qg))
    && !(others.any fun x => decide (x.2.attr.base < a.base + a.count) && decide (a.base < x.2.attr.base + x.2.attr.count))
    && !(others.any fun x => x.2.attr.oneDie != a.oneDie && shareQuad qg x.2.attr a)

/-- The rules of R37 on a rights list: no group twice, no group of another partition. -/
def rightsOk (s : State) (p : Nat) (rights : List Right) : Bool :=
  let gs := rights.map (·.group)
  decide gs.Nodup && !(s.matchEntries.any fun m => gs.contains m.2.2.1 && m.2.2.2 != p)

/-- The checks of R37 and R319 on a CREATE. -/
def createOk (s : State) (e : Nat) (a : ExtAttr) : Bool :=
  decide (s.rd F.homExtAttr_place ≤ 1) && (s.partitioned || a.partition == 0)
    && s.rd F.secKeyStatus_state a.key != 0 && s.rd F.secKeyStatus_partition a.key == a.partition
    && s.rightsOk a.partition a.rights && s.granulesOk e a

/-- A right of the old list that the new one lacks (Table 02-9). -/
def removes (old new : List Right) : Bool :=
  old.any fun o =>
    let n := new.filter fun r => r.group == o.group
    (o.rd && !n.any (·.rd)) || (o.wr && !n.any (·.wr)) || (o.at_ && !n.any (·.at_))

/-- Steps 1 to 4 of Table 02-14 begin: the generation flips, losers' transactions abort, the homes walk. -/
def startWithdraw (s : State) (e : Nat) (new : List Right) (toOff : Bool) : State :=
  let x := s.getExt e
  let x' : Extent := { x with state := .withdrawing, prev := x.attr.rights, attr := { x.attr with rights := new },
                              gen := !x.gen, toOff := toOff, demoting := false }
  let s := s.setExt e x'
  let s := s.abortWhere Cause.withdrawn true fun _ t =>
    (t.lines.any fun l => l.ext == e) && s.loser x' t.opener
  s.startWalks (.withdraw e)

/-- The die whose reserve an extent is (R75). -/
def reserveDie (s : State) (e : Nat) : Option Nat :=
  [0, 1, 2, 3].find? fun d => s.flag F.homMigReserve_valid d && s.rd F.homMigReserve_extId d == e

/-- An extent holds a plan's buffer or its results. -/
def planUses (s : State) (e : Nat) (r : PlanRec) : Bool :=
  r.bufExt == e || (r.pool && ((s.findExt (fun st => st != .off) (r.result % 2 ^ 52)).map (·.1)) == some e)

/-- An accepted WITHDRAW has to wait before step 1 of Table 02-14: for promoted shares of a reserve to be demoted (R75), and for the abort of
the plans that use the extent to complete, with the tasks that it has stopped (Table 09-5). -/
def withdrawWaits (s : State) (e : Nat) : Bool :=
  ((s.reserveDie e).map fun d => s.usedFrames d != 0).getD false
    || (s.col.plans.any fun p => s.rd F.colPlanStatus_state p.1 != 0 && (p.2.record.map (s.planUses e)).getD false)
    || s.clu.ctx.any fun c => c.2.task.plan.isSome && c.2.task.partition == (s.getExt e).attr.partition
        && (match c.2.phase with
            | .stopping st _ _ | .ended st => st == St.planAbort
            | _ => false)

/-- Step 1 of Table 02-14 begins once nothing keeps it. -/
def withdrawGo (s : State) (e : Nat) : State :=
  if (s.getExt e).demoting && !s.withdrawWaits e then s.startWithdraw e [] true else s

/-- Every accepted WITHDRAW that waits looks again. -/
def withdrawsGo (s : State) : State := (s.home.ext.filter (·.2.demoting)).foldl (fun s e => s.withdrawGo e.1) s

/-- WITHDRAW on an extent in ON: a reserve first demotes every promoted share (R75). -/
def withdrawOn (s : State) (e : Nat) : State :=
  let s := s.setExt e { s.getExt e with demoting := true }
  let s := match s.reserveDie e with
    | some d => (s.mem.frames.filter fun (f : Nat × Frame) => f.1 / 2 ^ 24 == d).foldl (fun (s : State) (f : Nat × Frame) =>
        if s.moving d f.2.page f.2.share then s else s.startMove ⟨d, f.2.page, f.2.share, false, false⟩) s
    | none => s
  s.withdrawGo e

/-- An extent command (Table 02-9): its status, and the state it leaves. A command that meets a BUSY state of Table 02-9 gives BUSY though it
also breaks a case of R37: DESIGN CHOICE, log 68. -/
def extCommand (s : State) (op e : Nat) : Nat × State :=
  let x := s.getExt e
  match op with
  | 1 =>
    let a := s.stagedAttr
    match x.state with
    | .off => if s.createOk e a then (St.ok, s.setExt e { state := .starting, attr := a, prev := a.rights, gen := x.gen })
      else (St.badRequest, s)
    | .withdrawing =>
      if !x.toOff then (St.busy, s)
      else if s.createOk e a then (St.ok, s.setExt e { x with state := .pending, held := some a })
      else (St.badRequest, s)
    | _ => (St.busy, s)
  | 2 =>
    let new := s.stagedRights
    match x.state with
    | .off => (St.badRequest, s)
    | .on =>
      if x.demoting then (St.busy, s)
      else if !s.rightsOk x.attr.partition new then (St.badRequest, s)
      else if removes x.attr.rights new then (St.ok, s.startWithdraw e new false)
      else (St.ok, s.setExt e { x with attr := { x.attr with rights := new }, prev := new })
    | _ => (St.busy, s)
  | 3 =>
    match x.state with
    | .off => (St.ok, s)
    | .on => if x.demoting then (St.busy, s) else (St.ok, s.withdrawOn e)
    | .pending => (St.ok, s.setExt e { x with state := .withdrawing, held := none })
    | _ => (St.busy, s)
  | _ => (St.badRequest, s)

/-- A command of HOM_EXT_CMD, applied at all four homes (R36): BUSY stands only inside the step (log 12). -/
def runExtCommand (s : State) : State :=
  let e := s.rd F.homExtCmd_extId
  let (st, s) := s.extCommand (s.rd F.homExtCmd_op) e
  ((s.wr F.homExtStatus_extId 0 e).wr F.homExtStatus_state 0 (s.getExt e).state.code).wr F.homExtStatus_result 0 st

/-! ### Zero-fill (R35) -/

/-- Whether an extent's granules hold a line, under the extent's own placement. -/
def holdsLine (s : State) (a : ExtAttr) (k : Nat) : Bool :=
  match s.backed (s.offsetUnder a.oneDie k) with
  | some (t2, y) => a.holds t2 y
  | none => false

/-- Every line of an extent reads zero under the key's current generation, unpoisoned, uncached. -/
def zeroFill (s : State) (a : ExtAttr) : State :=
  let mine (k : Nat) : Bool := s.holdsLine a k
  let g := s.keyGen a.key
  let s := s.uMem fun m => { m with
    cells := m.cells.filter fun c => !mine (lineOfStored c.1)
    mds := m.mds.filter fun c => !mine (lineOfStored (c.1 * 128))
    msc := m.msc.filter fun c => !mine c.2.line
    devs := m.devs.filter fun c => !mine (lineOfStored (c.1 * 128))
    arrived := m.arrived.filter fun c => !mine c.1
    ctl := m.ctl.map fun c =>
      let keep (w : CtlWrite) : Bool := !mine (lineOfStored (storedAddr (c.1, w.addr)))
      (c.1, { c.2 with wq := c.2.wq.filter keep, wwait := c.2.wwait.filter keep }) }
  if !g then s
  else (List.range (a.count * 16384)).foldl (fun s n =>
    let k := s.lineAt a (tierOffset a.tier2 (a.base * 2 ^ 21 + n * 128))
    let p := unitAddr a.tier2 (lineDie k) (lineL k * 128)
    s.dramStore p.1 ⟨p.2, 0, (s.encrypted k {} true).coded 0, 0⟩) s

/-- The zero-fill of an extent in STARTING ends: ON (R35, R36). -/
def fillDone (s : State) (e : Nat) : State :=
  let x := s.getExt e
  if x.state = .starting then (((s.zeroFill x.attr).setExt e { x with state := .on }).extEvent e St.ok) else s

/-- A demoted reserve begins its withdrawal (R75). -/
def reserveDrained (s : State) (d : Nat) : State :=
  let e := s.rd F.homMigReserve_extId d
  if s.flag F.homMigReserve_valid d && s.usedFrames d == 0 then s.withdrawGo e else s

/-- An extent reaches OFF (Table 02-14, step 6): shares freed, a reserve's VALID cleared, a held CREATE acts (R38, R75, R80). -/
def extOff (s : State) (e : Nat) : State :=
  let x := s.getExt e
  let s := [0, 1, 2, 3].foldl reserveDrained (s.dropShares x.attr)
  let s := match s.reserveDie e with
    | some d => ((s.dropWaits d).wr F.homMigReserve_valid d 0).refreshFree d
    | none => s
  match x.held with
  | none => (s.setExt e { attr := x.attr, gen := x.gen }).extEvent e St.ok
  | some a =>
    let s := s.setExt e { attr := x.attr, gen := x.gen }
    if s.granulesOk e a then
      (s.extEvent e St.ok).setExt e { state := .starting, attr := a, prev := a.rights, gen := x.gen }
    else s.extEvent e St.badRequest

/-- Steps 4 and 5 of Table 02-14 have ended: the walks, their recalls, and the requests of the previous generation. -/
def withdrawDone (s : State) (e : Nat) : Bool :=
  let x := s.getExt e
  s.walksDone (.withdraw e)
    && !(s.home.rcl.any fun r => r.2.why == .walk && ((s.lineExt r.2.line).map (·.1) == some e))
    && !(s.home.req.any fun r => r.2.ext == e && r.2.gen != x.gen)

/-- Step 6 of Table 02-14; lines granted to losers behind the walk have it run again (R45). -/
def withdrawalDrained (s : State) (e : Nat) : State :=
  let x := s.getExt e
  if (x.state != .withdrawing && x.state != .pending) || !s.withdrawDone e then s
  else if s.walkMissed (.withdraw e) then s.startWalks (.withdraw e)
  else
    let s := s.dropWalks (.withdraw e)
    if x.toOff then s.extOff e
    else (s.setExt e { x with state := .on, prev := x.attr.rights }).extEvent e St.ok

/-! ### Groups (R40, R320) -/

/-- Two match entries overlap (R320). -/
def entriesOverlap (a b : Nat × Nat × Nat × Nat) : Bool := ((a.1 ^^^ b.1) &&& a.2.1 &&& b.2.1) == 0

/-- Groups of the rights lists in force, the previous generation's until a withdrawal ends (R40). -/
def groupsInForce (s : State) : List Nat :=
  (s.home.ext.filter fun x => x.2.state != .off).flatMap fun x =>
    (x.2.attr.rights ++ x.2.prev).map (·.group) ++ ((x.2.held.map fun a => a.rights.map (·.group)).getD [])

/-- A write of HOM_GRP_MATCH[m] from `old` to `new` takes effect (R40, R320). -/
def groupWriteOk (s : State) (old new : BitVec 128) : Bool :=
  let valid (v : BitVec 128) : Bool := bits v 63 1 == 1
  let entry (v : BitVec 128) : Nat × Nat × Nat × Nat := (bits v 0 20, bits v 20 20, bits v 40 8, bits v 48 4)
  if valid old then !valid new && !s.groupsInForce.contains (bits old 40 8)
  else if !valid new then true
  else
    (s.partitioned || bits new 48 4 == 0) &&
      (!s.partitioned || !(s.matchEntries.any fun e => e.2.2.2 != bits new 48 4 && entriesOverlap e (entry new)))

/-! ### Slots (R44) -/

/-- BIND takes effect (R44, R320). -/
def bindOk (s : State) (o : Nat) : Bool :=
  let ep := s.slotEndpoint o
  let p := s.rd F.dirSlot_partition o
  s.rd F.dirSlot_state o == 0 && (s.slotWhere (fun st => st ≠ 0) ep).isNone
    && (if s.partitioned then s.matchEntries.any fun e => e.2.2.2 == p && entryMatches e ep else p == 0)

/-- Recalled lines written back, nothing poisoned: RELEASING (R44, R97). -/
def releaseSlot (s : State) (o : Nat) : State := (s.wr F.dirSlot_state o 2).startWalks (.release o)

/-- A slot command: none when the state refuses it (R44). -/
def slotCommand (s : State) (o cmd : Nat) : Option State :=
  let st := s.rd F.dirSlot_state o
  match cmd with
  | 1 => if s.bindOk o then some (s.wr F.dirSlot_state o 1) else none
  | 2 => if st = 1 then some (s.releaseSlot o) else none
  | 3 => if st = 1 || st = 2 then some (s.startSweep o) else none
  | _ => some s

/-- TOP_NODE_ID may change: every extent OFF, every slot FREE (R28). -/
def nodeIdFree (s : State) : Bool :=
  (s.home.ext.all fun x => x.2.state == .off) &&
    (List.range 128).all fun o => s.rd F.dirSlot_state o == 0

end State

/-- EXTENT_FILL_DONE (R35, R36). -/
def execExtentFillDone (e : ExtId) (s : State) : Host.Outcome State Fault Refusal := .next (s.fillDone e.val).settle
/-- WITHDRAWAL_DRAINED (R38, R45, R80). -/
def execWithdrawalDrained (e : ExtId) (s : State) : Host.Outcome State Fault Refusal := .next (s.withdrawalDrained e.val).settle
/-- MIGRATION_MOVE_DONE (R77, R79); the last demotion of a withdrawn reserve begins its withdrawal (R75). -/
def execMigrationMoveDone (x : CopyEngine) (s : State) : Host.Outcome State Fault Refusal :=
  .next ((s.moveDone x.val).reserveDrained (x.val / 8)).settle

end Sys2Proof.Machine
end

