-- ==== Sys2Proof/Machine/Memory.lean ====
section
/-! DEFINITION. The memory controllers: training, scheduling, refresh, self-refresh, patrol, and the cache's flush (chapter 03). -/

namespace Sys2Proof.Machine

namespace State

/-! ### Addresses inside a unit (R50, R54) -/

/-- XOR of two numbers. -/
def xor (a b : Nat) : Nat := a ^^^ b

/-- Bank number and row of a stack-local address (Table 03-1); the bank number names channel, stack ID, bank and bank group. -/
def stackBank (a : Nat) : Nat × Nat :=
  let row := a / 2 ^ 21 % 2 ^ 15
  let bg := xor (a / 2 ^ 15 % 4) (row % 4)
  let bank := xor (a / 2 ^ 17 % 4) (row / 4 % 4)
  (((a / 128 % 32 * 4 + a / 2 ^ 19 % 4) * 4 + bank) * 4 + bg, row)

/-- Bank number and row of a channel-local address under an address-mapping order (Table 03-2): logical rank, bank, bank
group. -/
def dimmBank (map r a : Nat) : Nat × Nat :=
  let n := a / 128
  let row := n / 2 ^ (12 + r)
  let rank := n / 2 ^ 12 % 2 ^ r
  let bg := if map = 0 then n / 2 ^ 7 % 8 else if map = 1 then n % 8 else xor (n % 8) (row % 8)
  let bank := if map = 2 then xor (n / 2 ^ 10 % 4) (row / 8 % 4) else n / 2 ^ 10 % 4
  ((rank * 4 + bank) * 8 + bg, row)

/-- Bank number and row of a unit's address. -/
def bankRow (s : State) (u a : Nat) : Nat × Nat :=
  if u < 20 then stackBank a else dimmBank (s.rd F.dmcCtrl_map (u - 20)) (s.rd F.dmcStatus_rankLog2 (u - 20)) a

/-- The bank that a refresh names: a bank of a stack's channel, or the same bank of every bank group of a rank (R58). -/
def refreshBank (u b : Nat) : Nat := if u < 20 then b else b / 8

/-- A request meets an open row. -/
def rowHit (s : State) (u a : Nat) : Bool :=
  let (b, row) := s.bankRow u a
  (s.ctl u).rows.look b == some row

/-- A request opens its row. -/
def openRow (s : State) (u a : Nat) : State :=
  let (b, row) := s.bankRow u a
  s.uCtl u fun c => { c with rows := c.rows.put b row }

/-! ### Scheduling (R56) -/

/-- Drain start and stop of a unit (Table 03-3). -/
def drainLevels (s : State) (u : Nat) : Nat × Nat :=
  if u < 20 then (s.tab.drain.getD 0 96, s.tab.drain.getD 1 32) else (s.tab.drain.getD 2 48, s.tab.drain.getD 3 16)

/-- A queued request of a unit: whether it is a read, its place in its queue, its address, its place in the order of acceptance. -/
structure Queued where
  read : Bool
  pos : Nat
  addr : Nat
  seq : Nat
  deriving DecidableEq, Repr

/-- The queued writes of a controller. -/
def queuedWrites (c : Ctl) : List Queued := c.wq.zipIdx.map fun x => ⟨false, x.2, x.1.addr, x.1.seq⟩

/-- Its queued reads: on demand, or prefetch and patrol reads. -/
def queuedReads (c : Ctl) (demand : Bool) : List Queued :=
  (c.rq.zipIdx.filter fun x => CtlKind.onDemand x.1.kind == demand).map fun x => ⟨true, x.2, x.1.addr, x.1.seq⟩

/-- The request accepted first. -/
def oldest (l : List Queued) : Option Queued :=
  l.foldl (fun (a : Option Queued) q => match a with
    | some x => if q.seq < x.seq then some q else some x
    | none => some q) none

/-- Requests ready to issue (R56): while the unit drains, writes; else demand reads and writes, and without any, the other reads. -/
def readyRequests (c : Ctl) : List Queued :=
  if c.drain then queuedWrites c
  else
    let l := queuedReads c true ++ queuedWrites c
    if l.isEmpty then queuedReads c false else l

/-- The request that issues next (R56): of those that have waited longer than the starvation cap (the `starved` oldest of the queues), the
oldest; else the oldest row hit; else the oldest. -/
def nextIssue (s : State) (u starved : Nat) : Option Queued :=
  let c := s.ctl u
  let l := readyRequests c
  let seqs := c.rq.map (·.seq) ++ c.wq.map (·.seq)
  let late (q : Queued) : Bool := decide ((seqs.filter (· < q.seq)).length < starved)
  ((oldest (l.filter late)).orElse fun _ => oldest (l.filter fun q => s.rowHit u q.addr)).orElse fun _ => oldest l

/-- Issue a queued write. -/
def issueWriteAt (s : State) (u i : Nat) : State :=
  match (s.ctl u).wq[i]? with
  | none => s
  | some w => ((s.openRow u w.addr).dramStore u w).uCtl u fun c => { c with wq := c.wq.eraseIdx i }

/-- Issue a queued read. -/
def issueReadAt (s : State) (u i : Nat) : State :=
  match (s.ctl u).rq[i]? with
  | none => s
  | some r => (s.openRow u r.addr).uCtl u fun c => { c with rq := c.rq.eraseIdx i, issued := c.issued ++ [r] }

/-- Die of a unit. -/
def unitDie (u : Nat) : Nat := if u < 20 then u / 5 else (u - 20) / 3

/-- Requests that wait at the home enter queues with room; once no write waits, the home's lines of the unit go on (R56). -/
def letIn (s : State) (u : Nat) : State :=
  let c := s.ctl u
  let r := readLimit u - c.rq.length
  let w := writeLimit u - c.wq.length
  let s := s.uCtl u fun c => { c with
    rq := c.rq ++ c.rwait.take r, rwait := c.rwait.drop r, wq := c.wq ++ c.wwait.take w, wwait := c.wwait.drop w }
  if !c.wwait.isEmpty && (s.ctl u).wwait.isEmpty then s.wakeDie (unitDie u) else s

/-- One issue of a controller; the oldest `starved` requests of its queues have waited longer than the starvation cap. -/
def controllerIssue (s : State) (u starved : Nat) : State :=
  let (start, stop) := s.drainLevels u
  let n := (s.ctl u).wq.length
  let s := s.uCtl u fun c => { c with drain := if start ≤ n then true else if n ≤ stop then false else c.drain }
  if (s.ctl u).sr ≠ .awake then s
  else match s.nextIssue u starved with
    | none => s
    | some q => (if q.read then s.issueReadAt u q.pos else s.issueWriteAt u q.pos).letIn u

/-! ### Returned reads (R57, R63 to R65) -/

/-- The line that stored bytes serve or would serve: the share's line for a frame in use, else the line placed there. -/
def lineOfUnit (s : State) (u a : Nat) : Nat :=
  let k := lineOfStored (storedAddr (u, a))
  match s.frameOf (u, a) with
  | none => k
  | some (fk, n) => match s.mem.frames.look fk with
    | none => k
    | some fr => match s.findExt (fun e => e != .off) (fr.page * 2 ^ 16) with
      | some (_, e) => s.lineAt e.attr (shareOffset (fk / 2 ^ 24) fr.page fr.share n e.attr.oneDie)
      | none => k

/-- Unit p delivers the line read at its address for line k, checked (R61 to R63); an uncorrectable line poisons what has read it (R114). -/
def unitDeliver (s : State) (p : Nat × Nat) (k : Nat) (u : Upset) : LineData × LineMeta × State :=
  let was := s.unitRead p
  let (data, md, s) := s.unitCheck p was.1 was.2 u
  if md.poison && !was.2.poison then
    (data, md, (s.uMem fun m => { m with arrived := m.arrived.del k }).reportPoison k)
  else (data, md, s)

/-- A read returns after a write to its line has been accepted: an error is counted and reported; its write-back would come before that
write (R57, log 69). -/
def unitStale (s : State) (p : Nat × Nat) (u : Upset) : State :=
  match (decodeLine (decide (20 ≤ p.1)) u.flips).ecc with
  | .clean => s
  | .corrected => s.unitCorrected p.1
  | .uncorrectable => s.unitUncorr p

/-- What a patrol read finds (R65); `wrote`: the controller has accepted a write to the line after the read. -/
def patrolFound (s : State) (p : Nat × Nat) (wrote : Bool) (u : Upset) : State :=
  let k := s.lineOfUnit p.1 p.2
  match (decodeLine (decide (20 ≤ p.1)) u.flips).ecc with
  | .clean => s
  | .corrected => if wrote then s.unitCorrected p.1 else (s.unitDeliver p k u).2.2
  | .uncorrectable =>
    match s.mscFind k with
    | some (w, l) => s.mscPut w { l with dirty := true }
    | none =>
      match s.remap k with
      | some (fk, n) =>
        if decide (20 ≤ p.1) then
          s.uMem fun m => { m with frames := m.frames.upd fk fun f => { f with mask := f.mask ||| maskBit n } }
        else (s.unitDeliver p k u).2.2
      | none => (s.unitDeliver p k u).2.2

/-- What a prefetch read brings into the cache (R63, R67, R71). -/
def prefetchFound (s : State) (p : Nat × Nat) (k : Nat) (wrote : Bool) (u : Upset) : State :=
  if wrote then s.unitStale p u
  else
    let (data, md, s) := s.unitDeliver p k u
    if s.servedAt k ≠ p || (s.mscFind k).isSome then s else s.mscFill ⟨k, data, md, false, 3⟩

/-- A line read on demand reaches its home, which looks at the line's queue again; the home drops what is no longer its line's value. -/
def demandFound (s : State) (p : Nat × Nat) (k : Nat) (wrote : Bool) (u : Upset) : State :=
  if wrote then (s.unitStale p u).wakeLine k
  else
    let (data, md, s) := s.unitDeliver p k u
    if s.servedAt k ≠ p || (s.mscFind k).isSome then s.wakeLine k
    else (s.uMem fun m => { m with arrived := m.arrived.put k (data, md) }).wakeLine k

/-- The oldest issued read of a unit returns. -/
def dramReadDone (s : State) (u : Nat) (e : Upset) : State :=
  match (s.ctl u).issued with
  | [] => s
  | r :: rs =>
    let s := s.uCtl u fun c => { c with issued := rs }
    match r.kind with
    | .patrol => s.patrolFound (u, r.addr) r.before.isSome e
    | .prefetch k => s.prefetchFound (u, r.addr) k r.before.isSome e
    | .demand k => s.demandFound (u, r.addr) k r.before.isSome e

/-! ### Refresh (R58) -/

/-- A refresh of a bank falls due: postponed while demand requests to the bank wait, at most four times; a refresh closes the bank's row. -/
def refreshDue (s : State) (u b : Nat) : State :=
  let c := s.ctl u
  let mine (x : Nat) : Bool := refreshBank u x == b
  let reads := (c.rq ++ c.rwait).filter fun r => CtlKind.onDemand r.kind
  let demand := (reads.map (·.addr) ++ (c.wq ++ c.wwait).map (·.addr)).any fun a => mine (s.bankRow u a).1
  let n := c.postponed.lookD b 0
  if c.sr ≠ .awake then s
  else if demand && decide (n < 4) then s.uCtl u fun c => { c with postponed := c.postponed.putC 0 b (n + 1) }
  else s.uCtl u fun c => { c with postponed := c.postponed.putC 0 b 0, rows := c.rows.filter fun r => !mine r.1 }

/-- Multiplier of a refresh curve at a temperature. -/
def curveAt (curve : List Nat) (temp : Nat) : Nat := curve.getD (min (temp / 5) 25) 4

/-- A DIMM sensor reading of a channel: the larger of the curve's multiplier and the device's own rate; 95 °C is an event. -/
def dimmThermal (s : State) (c temp rate : Nat) : State :=
  let hot := decide (95 ≤ temp) && decide (s.rd F.dmcStatus_temp c < 95)
  let s := (s.wr F.dmcStatus_temp c temp).uCtl (20 + c) fun x => { x with refMult := max (curveAt s.tab.refreshDmc temp) (2 ^ rate) }
  if hot then s.raise { type := 0x0D03, sev := 1, die := c / 3, inst := c, arg := [BitVec.ofNat 8 c, BitVec.ofNat 8 temp] } else s

/-- A stack temperature reading sets its multiplier. -/
def stackThermal (s : State) (k temp : Nat) : State :=
  let m := curveAt s.tab.refreshStk temp
  ((s.wr F.stkStatus_temp k temp).wr F.stkStatus_refMult k (m / 2)).uCtl k fun x => { x with refMult := m }

/-! ### Self-refresh (R59, Table 03-4) -/

def setInSr (s : State) (u : Nat) (v : Nat) : State :=
  if u < 20 then s.wr F.stkStatus_inSr u v else s.wr F.dmcStatus_inSr (u - 20) v

def srIdleTime (s : State) (u : Nat) : Nat := if u < 20 then s.rd F.stkCtrl_srIdle u else s.rd F.dmcCtrl_srIdle (u - 20)

/-- No request waits or runs at a unit. -/
def ctlEmpty (s : State) (u : Nat) : Bool :=
  let c := s.ctl u
  c.rq.isEmpty && c.rwait.isEmpty && c.wq.isEmpty && c.wwait.isEmpty && c.issued.isEmpty

/-- The idle timer expires: all banks are precharged and entry begins. -/
def srIdle (s : State) (u : Nat) : State :=
  if (s.ctl u).sr = .awake && s.srIdleTime u ≠ 0 && s.ctlEmpty u then s.uCtl u fun c => { c with sr := .entering, rows := [] } else s

def srEntered (s : State) (u : Nat) : State :=
  if (s.ctl u).sr = .entering then (s.uCtl u fun c => { c with sr := .asleep }).setInSr u 1 else s

/-- A request waits, or scrub has fallen behind: exit begins. -/
def srExit (s : State) (u : Nat) (scrub : Bool) : State :=
  if (s.ctl u).sr = .asleep && (scrub || !s.ctlEmpty u) then s.uCtl u fun c => { c with sr := .exiting } else s

def srExited (s : State) (u : Nat) : State :=
  if (s.ctl u).sr = .exiting then (s.uCtl u fun c => { c with sr := .awake }).setInSr u 0 else s

/-! ### Patrol (R64) -/

/-- GB of a DIMM_CAP code (Table 03-12). -/
def dimmGB (cap : Nat) : Nat := if cap = 0 then 0 else 32 * 2 ^ cap

/-- Lines of a unit. -/
def unitLines (s : State) (u : Nat) : Nat :=
  if u < 20 then 2 ^ 29 else s.rd F.dmcStatus_dimms (u - 20) * dimmGB (s.rd F.dmcStatus_dimmCap (u - 20)) * 2 ^ 23

/-- The patrol reads its next line; a queued write to it returns at once (R57). A pass that ends hands its corrected errors to the rate
table (Table 03-7). -/
def patrolRead (s : State) (u : Nat) : State :=
  let c := s.ctl u
  let n := s.unitLines u
  let a := c.patrolAt * 128
  if c.sr ≠ .awake || n = 0 || readLimit u ≤ c.rq.length || !c.rwait.isEmpty then s
  else
    let s := if (s.queuedWrite (u, a)).isSome then s else s.unitAsk u a .patrol
    s.uCtl u fun c => { c with
      patrolAt := if c.patrolAt + 1 < n then c.patrolAt + 1 else 0
      patrolLast := if c.patrolAt + 1 < n then c.patrolLast else c.patrolCorr
      patrolCorr := if c.patrolAt + 1 < n then c.patrolCorr else 0 }

/-- Pass period in hours for the corrected errors of the previous pass (Table 03-7). -/
def patrolHours (s : State) (u : Nat) : Nat :=
  (s.tab.patrol.filter fun p => decide (p.1 ≤ (s.ctl u).patrolLast)).foldl (fun _ p => p.2) 24

/-! ### The cache's flush (R67) -/

/-- FLUSH of MSC_CTRL[d]: every dirty line is written back. -/
def mscFlush (s : State) (d : Nat) : State :=
  let dirty := s.mem.msc.filter fun e => lineDie e.2.line == d && e.2.dirty
  let s := dirty.foldl (fun s e => (s.lineStore e.2.line e.2.data e.2.md).mscPut e.1 { e.2 with dirty := false }) s
  s.wr F.mscCtrl_flushBusy d 1

/-- The flush ends once a controller has accepted its last write-back (R67). -/
def mscFlushed (s : State) (d : Nat) : State :=
  if (List.range 32).any fun u => unitDie u == d && !(s.ctl u).wwait.isEmpty then s else s.wr F.mscCtrl_flushBusy d 0

/-! ### Training (R49 to R52) -/

/-- A stack's training ends; a failure is a unit lost without a spare (R49). -/
def stackTrained (s : State) (k : Nat) (ok : Bool) : State :=
  if ok then s.wr F.stkStatus_trained k 1 else (s.wr F.stkStatus_trained k 0).histAdd 7 k 2 2

/-- A DIMM that R51 supports. -/
def dimmUsable (x : Option DimmSpd) : Option DimmSpd :=
  x.filter fun m => m.trained && m.supported && (m.capacity == 64 || m.capacity == 128 || m.capacity == 256)

/-- The DIMMs a channel uses: number, capacity of each, log2 of the channel's ranks; and whether a pair is mismatched (R52). A pair of one
capacity but two rank counts has twice slot 0's ranks, and a pair of more than 8 ranks (R51) runs on slot 0 alone without an event: DESIGN
CHOICE, log 69. -/
def dimmsUsed (a b : Option DimmSpd) : (Nat × Nat × Nat) × Bool :=
  match dimmUsable a, dimmUsable b with
  | some x, some y =>
    if x.capacity ≠ y.capacity then ((1, x.capacity, x.rankLog2.toNat), true)
    else if x.rankLog2.toNat < 3 then ((2, x.capacity, x.rankLog2.toNat + 1), false)
    else ((1, x.capacity, x.rankLog2.toNat), false)
  | some x, none => ((1, x.capacity, x.rankLog2.toNat), false)
  | none, some y => ((1, y.capacity, y.rankLog2.toNat), false)
  | none, none => ((0, 0, 0), false)

/-- DIMM_CAP code of a capacity. -/
def capCode (gb : Nat) : Nat := if gb = 64 then 1 else if gb = 128 then 2 else if gb = 256 then 3 else 0

/-- Channel capacity in GB, 0 without a usable DIMM. -/
def channelGB (s : State) (c : Nat) : Nat := s.rd F.dmcStatus_dimms c * dimmGB (s.rd F.dmcStatus_dimmCap c)

/-- C of R30: the smallest channel capacity, 0 when a channel has none. -/
def capacityC (s : State) : Nat := (List.range 12).foldl (fun m c => min m (s.channelGB c)) 512

/-- A channel's training ends (R52). -/
def dimmTrained (s : State) (c : Nat) (a b : Option DimmSpd) : State :=
  let ((n, cap, r), mismatch) := dimmsUsed a b
  let s := (((s.wr F.dmcStatus_dimms c n).wr F.dmcStatus_dimmCap c (capCode cap)).wr F.dmcStatus_rankLog2 c r).wr
    F.dmcStatus_trained c (if n = 0 then 0 else 1)
  let s := s.uMem fun m => { m with chanGB := s.capacityC }
  let ev (x : Nat) : State :=
    s.raise { type := 0x0D02, sev := 1, die := c / 3, inst := c, arg := [BitVec.ofNat 8 c, BitVec.ofNat 8 x] }
  if mismatch then ev 0 else if n = 0 then ev 1 else s

end State

/-- CONTROLLER_ISSUE (R56). -/
def execControllerIssue (u : MemUnit) (starved : Nat) (s : State) : Host.Outcome State Fault Refusal :=
  .next (s.controllerIssue u.val starved).settle
/-- DRAM_READ_DONE (R57, R63, R65). -/
def execDramReadDone (u : MemUnit) (ecc : Upset) (s : State) : Host.Outcome State Fault Refusal := .next (s.dramReadDone u.val ecc).settle
/-- REFRESH_DUE (R58). -/
def execRefreshDue (u : MemUnit) (b : Fin 2048) (s : State) : Host.Outcome State Fault Refusal := .next (s.refreshDue u.val b.val).settle
/-- DIMM_THERMAL_READ (R58, R402). -/
def execDimmThermalRead (c : Channel) (temp : Byte) (rate : Fin 3) (s : State) : Host.Outcome State Fault Refusal :=
  .next (s.dimmThermal c.val temp.toNat rate.val).settle
/-- SELF_REFRESH_IDLE_EXPIRY (R59). -/
def execSelfRefreshIdleExpiry (u : MemUnit) (s : State) : Host.Outcome State Fault Refusal := .next (s.srIdle u.val).settle
/-- SELF_REFRESH_ENTRY_DONE (R59). -/
def execSelfRefreshEntryDone (u : MemUnit) (s : State) : Host.Outcome State Fault Refusal := .next (s.srEntered u.val).settle
/-- SELF_REFRESH_EXIT (R59). -/
def execSelfRefreshExit (u : MemUnit) (scrub : Bool) (s : State) : Host.Outcome State Fault Refusal := .next (s.srExit u.val scrub).settle
/-- SELF_REFRESH_EXIT_DONE (R59). -/
def execSelfRefreshExitDone (u : MemUnit) (s : State) : Host.Outcome State Fault Refusal := .next (s.srExited u.val).settle
/-- PATROL_READ (R64). -/
def execPatrolRead (u : MemUnit) (s : State) : Host.Outcome State Fault Refusal := .next (s.patrolRead u.val).settle
/-- MSC_FLUSH_DONE (R67). -/
def execMscFlushDone (d : Die) (s : State) : Host.Outcome State Fault Refusal := .next (s.mscFlushed d.val).settle
/-- STACK_TRAINING_DONE (R49). -/
def execStackTrainingDone (k : Stack) (ok : Bool) (s : State) : Host.Outcome State Fault Refusal := .next (s.stackTrained k.val ok).settle
/-- DIMM_TRAINING_DONE (R51, R52). -/
def execDimmTrainingDone (c : Channel) (a b : Option DimmSpd) (s : State) : Host.Outcome State Fault Refusal :=
  .next (s.dimmTrained c.val a b).settle

end Sys2Proof.Machine
end

