-- ==== Sys2Proof/Machine/Cores.lean ====
section
/-! DEFINITION. Cores and their task contexts: translation lookup, the requests a context issues, stops, faults, ends and
completion records (R122, R149 to R151, R177, R183 to R192). -/

namespace Sys2Proof.Machine

namespace Context

/-- k bytes of the descriptor from byte i. -/
def fld (x : Context) (i k : Nat) : Nat := leNat x.task.desc i k

def kind (x : Context) : Nat := x.fld 0 1
def mode (x : Context) : Nat := x.fld 2 1
def kround (x : Context) : Nat := x.mode % 8
def stream (x : Context) : Bool := x.mode / 32 % 2 == 1
def txn (x : Context) : Bool := x.mode / 64 % 2 == 1

end Context

namespace State

/-! ### Contexts -/

def uClu (s : State) (f : Clu → Clu) : State := { s with clu := f s.clu }
def uPtu (s : State) (f : Ptu → Ptu) : State := { s with ptu := f s.ptu }

def ctxKey (n c : Nat) : Nat := n * 8 + c

def getCtx (s : State) (n c : Nat) : Option Context := s.clu.ctx.look (ctxKey n c)

def setCtx (s : State) (n c : Nat) (x : Context) : State := s.uClu fun u => { u with ctx := u.ctx.put (ctxKey n c) x }

def updCtx (s : State) (n c : Nat) (f : Context → Context) : State := s.uClu fun u => { u with ctx := u.ctx.upd (ctxKey n c) f }

/-- Contexts of core n that hold a task. -/
def ctxOf (s : State) (n : Nat) : List (Nat × Context) :=
  (s.clu.ctx.filter fun e => e.1 / 8 == n).map fun e => (e.1 % 8, e.2)

/-- COR_STATUS.CTX_USED of core n (Table 06-1). -/
def refreshUsed (s : State) (n : Nat) : State :=
  s.wr F.corStatus_ctxUsed n ((s.ctxOf n).foldl (fun a e => a + 2 ^ e.1) 0)

/-- Die of core n, and local ID of its cluster agent (R12, Table 02-1). -/
def coreDie (n : Nat) : Nat := n / 36
def coreLocal (n : Nat) : Nat := 0x80 + n / 9

/-- Outstanding requests of a context. -/
def ctxOuts (s : State) (n c : Nat) : List (Nat × Out) :=
  s.outs.filter fun o => match o.2.who with
    | .ctx n' c' => n'.val == n && c'.val == c
    | _ => false

def coreOuts (s : State) (n : Nat) : Nat :=
  (s.outs.filter fun o => match o.2.who with | .ctx n' _ => n'.val == n | _ => false).length

/-- Set sticky flags of a context (R142, Table 06-10). -/
def setFlags (s : State) (n c : Nat) (f : Flags) : State :=
  s.setReg .engFlags n (s.reg .engFlags n ||| (f.setWidth 128 <<< (4 * c)))

def ctxFlags (s : State) (n c : Nat) : Nat := bits (s.reg .engFlags n) (4 * c) 4

def clearFlags (s : State) (n c : Nat) : State := s.setReg .engFlags n (setBits (s.reg .engFlags n) (4 * c) 4 0)

/-! ### Reads and writes of the node's own units at the homes (R175, R184) -/

/-- What a read of a unit of the node brings. -/
inductive Rd where
  | data (d : LineData) (poison : Bool)
  /-- The home completes it with another status. -/
  | failed (status : Nat)
  /-- The line is not free, an owner holds it, it has to come from DRAM, or the request table is full: the unit asks again. -/
  | wait
  deriving DecidableEq, Repr

/-- The extent in state ON of a partition that covers an offset. -/
def onExtent (s : State) (p off : Nat) : Option (Nat × Extent) := (s.findExt (· == .on) off).filter fun x => x.2.attr.partition == p

/-- An operation that must come back for a line leaves the lines it has read where they were. -/
def comeBack (s s' : State) : State := s'.uMem fun m => { m with arrived := s.mem.arrived }

/-- Read the line at an offset as an uncached read without rights entry, never counted (R175, R184), in its place among the line's
requests (R89): the extent is one of the partition in a state that `pred` accepts. A line in E or M is recalled by such a request first. -/
def homeRead (s : State) (pred : ExtState → Bool) (p off : Nat) : Rd × State :=
  match (s.findExt pred off).filter fun x => x.2.attr.partition == p with
  | none => (.failed St.noRights, s)
  | some (e, x) =>
    let k := s.lineAt x.attr off
    let d := lineDie k
    if s.home.halted.contains d then (.failed St.internal, s)
    else if (s.home.req.freeKey (reqKey d 0) 4096).isNone then (.wait, s.bump F.dirRetry_full d)
    else
      let s := s.settleSwept k
      if !s.lineFree k then (.wait, s)
      else if (s.entry k).state = .e || (s.entry k).state = .m then
        (.wait, (s.unitEnter k e x (s.unitReq Op.rdUnc d off d 0 0)).getD s)
      else match s.demandRead k .clean with
        | (.data data md, s) => (.data data md.poison, s.lookedUp k)
        | (.waits, s) => (.wait, s)
        | (.stopped, s) => (.failed St.internal, s)

/-- Write bytes of a line at the home as an uncached write without rights entry and without response: the status. One that finds the request
table full is issued again (R92). -/
def homeWrite (s : State) (p die off : Nat) (data : LineData) (mask : Mask) : Nat × State :=
  match s.unitExtent p off with
  | none => (St.noRights, s)
  | some (e, x) =>
    let k := s.lineAt x.attr off
    let d := lineDie k
    if s.home.halted.contains d then (St.internal, s)
    else match s.unitEnter k e x (s.unitReq Op.wrUnc die off d data mask) with
      | some s => (St.ok, s)
      | none => (St.ok, (s.bump F.dirRetry_full d).uHome fun h => { h with posted := h.posted ++ [⟨die, p, off, data, mask⟩] })

/-- Bytes placed in a line from byte i, with their mask. -/
def placeBytes (i : Nat) (bs : List Byte) : LineData × Mask :=
  (lineOf (List.replicate i 0 ++ bs), BitVec.ofNat 128 (2 ^ bs.length - 1) <<< i)

/-! ### Translation lookup (R183, R186) -/

/-- log2 of the page size of a level. -/
def pageBits (level : Nat) : Nat := if level = 0 then 16 else if level = 1 then 21 else 30

/-- A cached translation covers an address with a right (0 R, 1 W, 2 A). -/
def TcEntry.covers (e : TcEntry) (asid va need : Nat) : Bool :=
  e.asid == asid && e.page == va / 2 ^ pageBits e.level && (if need = 0 then e.r else if need = 1 then e.w else e.a)

/-- Set of the die cache (R186). -/
def tcSet (asid va level : Nat) : Nat := (va / 2 ^ pageBits level % 1024) ^^^ (asid % 1024)

def tcWay (d set w : Nat) : Nat := (d * 1024 + set) * 8 + w

/-- The die cache's entry for an address, with its key: all three sets are probed. -/
def dieTc (s : State) (d asid va need : Nat) : Option (Nat × TcEntry) :=
  ([0, 1, 2].flatMap fun l => (List.range 8).map fun w => tcWay d (tcSet asid va l) w).findSome? fun k =>
    match s.ptu.tc.look k with
    | some e => if TcEntry.covers e asid va need then some (k, e) else none
    | none => none

/-- Pseudo-LRU of eight ways: the path of a way over seven tree bits. -/
def tcPath (w : Nat) : List (Nat × Bool) :=
  let b2 := w / 4 % 2
  let b1 := w / 2 % 2
  [(0, b2 == 1), (1 + b2, b1 == 1), (3 + 2 * b2 + b1, w % 2 == 1)]

def tcTouch (s : State) (k : Nat) : State :=
  let set := k / 8
  let t := (tcPath (k % 8)).foldl (fun (t : BitVec 8) n =>
    if n.2 then t &&& ~~~(1#8 <<< n.1) else t ||| (1#8 <<< n.1)) (s.ptu.plru.lookD set 0)
  s.uPtu fun u => { u with plru := u.plru.putC 0 set t }

/-- The way the tree bits of a set name. -/
def tcVictim (t : BitVec 8) : Nat :=
  let b2 := (t.getLsbD 0).toNat
  let b1 := (t.getLsbD (1 + b2)).toNat
  4 * b2 + 2 * b1 + (t.getLsbD (3 + 2 * b2 + b1)).toNat

/-- Fill a die cache. -/
def tcFill (s : State) (d : Nat) (e : TcEntry) : State :=
  let set := tcSet e.asid (e.page * 2 ^ pageBits e.level) e.level
  let w := match (List.range 8).find? fun w => match s.ptu.tc.look (tcWay d set w) with
      | some x => x.asid == e.asid && x.level == e.level && x.page == e.page
      | none => true with
    | some w => w
    | none => tcVictim (s.ptu.plru.lookD (d * 1024 + set) 0)
  (s.uPtu fun u => { u with tc := u.tc.put (tcWay d set w) e }).tcTouch (tcWay d set w)

/-- Fill a core cache of 64 entries; a free value picks the entry that leaves a full one (R186 names none, log 19). -/
def coreFill (s : State) (n : Nat) (e : TcEntry) : State :=
  if !s.flag F.ptuCtrl_coreTc then s
  else
    let l := (s.ptu.core.lookD n []).filter fun x => !(x.asid == e.asid && x.level == e.level && x.page == e.page)
    if l.length < 64 then s.uPtu fun u => { u with core := u.core.put n (l ++ [e]) }
    else s.draw.uPtu fun u => { u with core := u.core.put n (l.eraseIdx (s.freeVal.toNat % 64) ++ [e]) }

/-- The translation of an address that the caches of core n hold, as a fabric address. -/
def lookup (s : State) (n asid va need : Nat) : Option Nat × State :=
  let at_ (e : TcEntry) : Nat := e.addr + va % 2 ^ pageBits e.level
  let core := if s.flag F.ptuCtrl_coreTc then (s.ptu.core.lookD n []).find? fun e => TcEntry.covers e asid va need else none
  match core with
  | some e => (some (at_ e), s)
  | none => match s.dieTc (coreDie n) asid va need with
    | some (k, e) => (some (at_ e), (s.tcTouch k).coreFill n e)
    | none => (none, s)

/-! ### Walks (R184, R185) -/

/-- ASD line of an address space: local offset and partition. -/
def asdOf (s : State) (asid : Nat) : Nat × Nat := (s.rd F.ptuAs_asd asid * 128, s.rd F.ptuAs_partition asid)

/-- GEN and ROOT read from an ASD line; a reserved bit or a misaligned root is a TABLE fault. -/
inductive Asd where
  | ok (gen root : Nat)
  | fault (cause : Nat)
  | wait
  deriving DecidableEq, Repr

/-- Fault causes (Table 08-5). -/
def Fc.unmapped : Nat := 1
def Fc.noRights : Nat := 2
def Fc.table : Nat := 3
def Fc.busy : Nat := 4
def Fc.stale : Nat := 5
def Fc.poison : Nat := 6

/-- Status of a fault cause. -/
def faultStatus (cause : Nat) : Nat := if cause = 2 then St.noRights else St.unmapped

def readAsd (s : State) (asid : Nat) : Asd × State :=
  let (off, p) := s.asdOf asid
  if !s.flag F.ptuAs_valid asid then (.fault Fc.table, s)
  else match s.homeRead (· == .on) p off with
    | (.failed _, s) => (.fault Fc.table, s)
    | (.wait, s) => (.wait, s)
    | (.data l poison, s) =>
      if poison then (.fault Fc.poison, s)
      else
        let v := l.toNat
        let root := v / 2 ^ 64 % 2 ^ 64
        if v / 2 ^ 32 % 2 ^ 32 ≠ 0 || v / 2 ^ 128 ≠ 0 || root % 2 ^ 17 ≠ 0 || 2 ^ 52 ≤ root then (.fault Fc.table, s)
        else (.ok (v % 2 ^ 32) root, s)

/-- A waiter no longer waits for walks (R190). -/
def dropWaiter (s : State) (key : Nat) : State :=
  s.uPtu fun u => { u with walks := u.walks.map fun w => (w.1, { w.2 with waiters := w.2.waiters.filter fun t => t.1 != key }) }

/-- A waiter of a context or copy engine waits for some walk. -/
def walkWaits (s : State) (key : Nat) : Bool := s.ptu.walks.any fun w => w.2.waiters.any fun t => t.1 == key

/-- Register the walk count of a die. -/
def refreshWalks (s : State) (d : Nat) : State := s.wr F.ptuStatus_walks d (s.ptu.walks.count (d * 32) 32)

/-- A waiter that misses in the die cache (R196) asks for the page of an address: it joins the page's walk, starts one, or finds all 32
busy and asks again later (R186). A walk reads the ASD before its first table read (R185). -/
def askWalk (s : State) (d asid va need waiter : Nat) : State :=
  let page := va / 2 ^ 16
  match s.ptu.walks.find? fun w => w.1 / 32 == d && w.2.asid == asid && w.2.page == page with
  | some (k, w) =>
    if w.waiters.contains (waiter, va, need) then s
    else (s.uPtu fun u => { u with walks := u.walks.put k { w with waiters := w.waiters ++ [(waiter, va, need)] } }).bump F.ptuStat_misses d
  | none =>
    let s := s.bump F.ptuStat_misses d
    match s.ptu.walks.freeKey (d * 32) 32 with
    | none => s
    | some k =>
      let (g, s) := match s.readAsd asid with
        | (.ok g root, s) => (some (g, root), s)
        | (_, s) => (none, s)
      (s.uPtu fun u => { u with walks := u.walks.put k { asid := asid, page := page, waiters := [(waiter, va, need)], gen0 := g } }).refreshWalks d

/-- The die's current epoch (R187). -/
def epochOf (s : State) (d : Nat) : Bool := s.flag F.ptuStatus_epoch d

/-! ### Requests of a context (R149, R168, R170) -/

/-- A tag that its agent may use: neither in use nor kept from a timeout (R234). -/
def freeTag (s : State) (loc : Nat) : Option Nat :=
  (List.range 16383).find? fun t =>
    (s.outs.look (outKey loc t)).isNone && (s.deadTags.look (outKey loc t)).isNone

/-- Issue a request of a context and keep it outstanding. -/
def ctxSend (s : State) (n : Core) (c : Ctx) (x : Context) (q : Packet) (why : OutFor) (stream : Bool) : State :=
  let loc := coreLocal n.val
  let d := coreDie n.val
  match s.freeTag loc with
  | none => s
  | some t =>
    let q := { q with src := s.endpoint loc, principal := BitVec.ofNat 20 x.task.principal, tag := BitVec.ofNat 14 t
                      dlocal := BitVec.ofNat 8 (0xC0 + d) }
    let o : Out := { who := .ctx n c, pkt := q, die := d, partition := x.task.partition, epoch := s.epochOf d,
                     stream := stream, why := why }
    { s with outs := s.outs.put (outKey loc t) o }.send d q

/-- Tags that an agent has free (R234). -/
def tagRoom (s : State) (loc : Nat) : Nat := 16383 - (s.outs.count (outKey loc 0) 16383 + s.deadTags.count (outKey loc 0) 16383)

/-- A context may have 256 lines outstanding, a core 1,024 (R168), and each takes a tag. -/
def mayIssue (s : State) (n c k : Nat) : Bool :=
  decide ((s.ctxOuts n c).length + k ≤ 256) && decide (s.coreOuts n + k ≤ 1024) && decide (k ≤ s.tagRoom (coreLocal n))

/-- An earlier request of the context to a line is outstanding (R150). -/
def lineBusy (s : State) (n c fabric : Nat) : Bool :=
  (s.ctxOuts n c).any fun o => o.2.pkt.addr.toNat / 128 == fabric / 128

/-- What a transaction does to a request of its context (R170). -/
inductive TxUse where
  | plain
  | inTx (txid : BitVec 32)
  /-- The transaction has aborted: loads give zero, stores are dropped. -/
  | dead
  deriving DecidableEq, Repr

/-- The use a request to a fabric address makes of the context's transaction; a request that leaves the node aborts it. -/
def txUse (s : State) (n : Core) (c : Ctx) (x : Context) (fabric : Nat) : TxUse × State :=
  match x.tx with
  | none => (.plain, s)
  | some t =>
    if fabric / 2 ^ 52 = s.node then
      match t.cause, t.txid with
      | some _, _ => (.dead, s)
      | none, some id => (.inTx id, s)
      | none, none => (.plain, s)
    else
      match t.cause, t.txid with
      | none, some id =>
        let s := match s.txnOf id with
          | some k => s.abortTxn k 0xA
          | none => s
        (.plain, s.updCtx n.val c.val fun x => { x with tx := some { t with cause := some 0xA } })
      | _, _ => (.plain, s)

/-! ### Completion records (R176, R177) -/

/-- The rings of the node: host queues and copy queues, whose registers share one layout (Tables 08-9, 08-10, 10-5, 10-6). -/
inductive Ring where
  | host | copy
  deriving DecidableEq, Repr

def Ring.cfg : Ring → Reg | .host => .cluQcfg | .copy => .xfrQcfg
def Ring.ptr : Ring → Reg | .host => .cluQptr | .copy => .xfrQptr
def Ring.sub : Ring → Reg | .host => .cluQring | .copy => .xfrQring
def Ring.cpl : Ring → Reg | .host => .cluQcpl | .copy => .xfrQcpl
def Ring.size (r : Ring) : Fld := ⟨r.cfg, 0, 4⟩
def Ring.partition (r : Ring) : Fld := ⟨r.cfg, 4, 4⟩
def Ring.enable (r : Ring) : Fld := ⟨r.cfg, 8, 1⟩
def Ring.asid (r : Ring) : Fld := ⟨r.cfg, 12, 10⟩
def Ring.principal (r : Ring) : Fld := ⟨r.cfg, 32, 20⟩
def Ring.tail (r : Ring) : Fld := ⟨r.ptr, 0, 12⟩
def Ring.head (r : Ring) : Fld := ⟨r.ptr, 12, 12⟩
def Ring.chead (r : Ring) : Fld := ⟨r.ptr, 32, 12⟩
def Ring.ctail (r : Ring) : Fld := ⟨r.ptr, 44, 12⟩
def Ring.subOffset (r : Ring) : Fld := ⟨r.sub, 12, 40⟩
def Ring.cplOffset (r : Ring) : Fld := ⟨r.cpl, 12, 40⟩
/-- The key of queue q among both kinds. -/
def Ring.key (r : Ring) (q : Nat) : Nat := match r with | .host => q | .copy => 64 + q
/-- TASK_QUEUE_DISABLED and COPY_QUEUE_DISABLED (Table 21-2). -/
def Ring.failType : Ring → Nat | .host => 0x1001 | .copy => 0x0F01

/-- Entries of a queue's completion ring in use. -/
def cplUsed (s : State) (r : Ring) (q : Nat) : Nat :=
  let n := 2 ^ s.rd r.size q
  (s.rd r.ctail q + n - s.rd r.chead q % n) % n

/-- A completion record is free beyond the reserved ones; a ring holds one record less than its entries (log 20). -/
def cplFree (s : State) (r : Ring) (q : Nat) : Bool :=
  decide (s.cplUsed r q + s.clu.reserved.lookD (r.key q) 0 + 1 < 2 ^ s.rd r.size q)

def reserveRec (s : State) (r : Ring) (q : Nat) : State :=
  s.uClu fun u => { u with reserved := u.reserved.putC 0 (r.key q) (u.reserved.lookD (r.key q) 0 + 1) }

def unreserve (s : State) (r : Ring) (q : Nat) : State :=
  s.uClu fun u => { u with reserved := u.reserved.putC 0 (r.key q) (u.reserved.lookD (r.key q) 0 - 1) }

/-- A ring access failed: ENABLE clears and an event is raised (R175, R218). -/
def queueFail (s : State) (r : Ring) (q status : Nat) : State :=
  (s.wr r.enable q 0).raise
    { type := r.failType, sev := 2, part := some (s.rd r.partition q), status := status,
      arg := [BitVec.ofNat 8 q, BitVec.ofNat 8 status] }

/-- Write a record at CTAIL of a queue's completion ring, with its PHASE (R177). -/
def writeRec (s : State) (r : Ring) (q : Nat) (rec_ : List Byte) : State :=
  let tail := s.rd r.ctail q
  let n := 2 ^ s.rd r.size q
  let flip := s.clu.cphase.contains (r.key q)
  let rec_ := rec_.take 63 ++ [if flip then 0 else 1]
  let off := s.rd r.cplOffset q * 4096 + 64 * tail
  let (data, mask) := placeBytes (off % 128) rec_
  let (st, s) := s.homeWrite (s.rd r.partition q) 0 off data mask
  let next := (tail + 1) % n
  let s := s.wr r.ctail q next
  let s := s.uClu fun u => { u with cphase :=
    if next = 0 then (if flip then u.cphase.filter (· ≠ r.key q) else u.cphase ++ [r.key q]) else u.cphase }
  if st = St.ok then s else s.queueFail r q st

/-- What a dispatcher finds at HEAD of a submission ring (R175, R218). -/
inductive EntryRead where
  | entry (bytes : List Byte)
  | failed (status : Nat)
  | wait
  deriving DecidableEq, Repr

/-- Read entry HEAD of a ring, of `size` bytes. -/
def readEntry (s : State) (r : Ring) (q size : Nat) : EntryRead × State :=
  let off := s.rd r.subOffset q * 4096 + size * s.rd r.head q
  match s.homeRead ExtState.serves (s.rd r.partition q) off with
  | (.failed st, s) => (.failed st, s)
  | (.wait, s) => (.wait, s)
  | (.data _ true, s) => (.failed St.poison, s)
  | (.data l false, s) => (.entry (((lineBytes l).drop (off % 128)).take size), s)

/-- HEAD advances past an entry; a wrap begins the ring's next pass. -/
def advanceHead (s : State) (r : Ring) (q : Nat) : State :=
  let next := (s.rd r.head q + 1) % 2 ^ s.rd r.size q
  let s := s.wr r.head q next
  if next = 0 then s.uClu fun u => { u with pass := u.pass.putC 0 (r.key q) (u.pass.lookD (r.key q) 0 + 1) } else s

/-- Bytes of a completion record but its PHASE (Table 08-2). -/
def recBytes (type status detail flags taskId tag res0 res1 poisoned core va : Nat) : List Byte :=
  [BitVec.ofNat 8 type, BitVec.ofNat 8 status, BitVec.ofNat 8 detail, BitVec.ofNat 8 flags] ++ leBytes taskId 4 ++ leBytes tag 8
    ++ leBytes res0 8 ++ leBytes res1 8 ++ leBytes poisoned 4 ++ leBytes core 2 ++ leBytes 0 2 ++ leBytes va 8 ++ leBytes 0 15

/-! ### Drained cores (Table 16-5, step 3) -/

/-- Core n becomes TESTING for a reason and runs Table 16-6; what its contexts held went with them (Table 16-5, step 3). -/
def beginTest (s : State) (n : Nat) (why : TestFor) : State :=
  (((((s.wr F.rasCore_state n 4).wr F.corStatus_margined n 1).wr F.corStatus_role n 1).uRas fun r =>
    { r with draining := r.draining.del n, testing := r.testing.put n why }).uClu fun u =>
      { u with gated := u.gated.filter (· ≠ n), waking := u.waking.filter (· ≠ n) }).setVcore (n / 36)

/-- A draining core that holds no task is zeroed and begins its test. -/
def drainCheck (s : State) (n : Nat) : State :=
  if s.rd F.rasCore_state n = 3 && (s.ctxOf n).isEmpty then s.beginTest n (s.ras.draining.lookD n .swap) else s

/-! ### Cluster buffers (R9, R70) -/

/-- Lines of a cluster buffer of 8 MiB. -/
def bufLines : Nat := 65536

/-- Change the cluster buffer of core n's cluster. -/
def uBuf (s : State) (n : Nat) (f : List BufLine → List BufLine) : State :=
  s.uClu fun u => { u with buf := u.buf.putC [] (n / 9) (f (u.buf.lookD (n / 9) [])) }

/-- A prefetched line enters the buffer of its core's cluster; a full one loses its oldest line (log 72). -/
def bufPut (s : State) (n : Nat) (b : BufLine) : State :=
  s.uBuf n fun l => let l := (l.filter fun x => !(x.key == b.key && x.line == b.line)) ++ [b]; l.drop (l.length - bufLines)

/-- The buffered line of a context at a fabric address, read in the same way (R70). -/
def bufLine (s : State) (n c fabric : Nat) (tx : Option (BitVec 32)) : Option BufLine :=
  (s.clu.buf.lookD (n / 9) []).find? fun b => b.key == ctxKey n c && b.line == fabric / 128 && b.tx == tx

/-- The buffered line of a context at a fabric address leaves the buffer: a load has consumed it, or the context writes the line. -/
def bufDrop (s : State) (n c fabric : Nat) : State := s.uBuf n (·.filter fun b => !(b.key == ctxKey n c && b.line == fabric / 128))

/-- A context leaves no line behind in its cluster's buffer. -/
def bufClear (s : State) (n c : Nat) : State := s.uBuf n (·.filter fun b => b.key != ctxKey n c)

/-! ### Ends, stops and faults (R145, R151, R190 to R192) -/

/-- Free a context. -/
def freeCtx (s : State) (n c : Nat) : State :=
  ((((s.uClu fun u => { u with ctx := u.ctx.del (ctxKey n c) }).dropWaiter (ctxKey n c)).bufClear n c).refreshUsed n).drainCheck n

/-- The tag of a task's descriptor (R153). -/
def taskTag (t : Task) : Nat := leNat t.desc 8 8

/-- The result words of a task (Table 07-12): S1 and S2 of a USER task, the kernel's own otherwise. -/
def resultWords (x : Context) : Nat × Nat :=
  if leNat x.task.desc 0 1 = 0x10 && x.phase != .fetch then ((x.sreg.lookD 1 0).toNat, (x.sreg.lookD 2 0).toNat)
  else (x.res0, x.res1)

/-- The opener of a context's transaction is gone (R120): the transaction aborts with OPENER_LOST and no notice, and a record that has
aborted already is freed (Table 05-6). -/
def abortCtxTx (s : State) (x : Context) : State :=
  match x.tx.bind (·.txid) with
  | some id => match s.txnOf id with
    | some k => if (s.txn k).state = .aborted then s.freeTxn k else s.abortTxn k 9 false
    | none => s
  | none => s

/-- A task ends: END record, none when its partition is being torn down (Table 15-6), context freed; a plan's task waits for its
collective unit. -/
def endTask (s : State) (n c status detail : Nat) (killed : Bool) : State :=
  match s.getCtx n c with
  | none => s
  | some x =>
    let (r0, r1) := resultWords x
    match x.task.queue with
    | none => s.updCtx n c fun x => { x with phase := .ended status }
    | some q =>
      let flags := s.ctxFlags n c + 16 * killed.toNat
      let s := s.unreserve .host q
      let s := if s.revoking x.task.partition then s
        else s.writeRec .host q (recBytes 1 status detail flags x.task.id (taskTag x.task) r0 r1 x.poisoned n 0)
      (s.flightSub x.task.partition).freeCtx n c

/-- Whether a context's transaction is open. -/
def txIsOpen (x : Context) : Bool := match x.tx with | some t => t.txid.isSome && t.cause.isNone | none => false

/-- A stopped task whose requests are all performed ends. -/
def tidyCtx (s : State) (n c : Nat) : State :=
  match s.getCtx n c with
  | none => s
  | some x =>
    match x.phase with
    | .stopping st det k => if (s.ctxOuts n c).isEmpty then s.endTask n c st det k else s
    | _ => s

/-- A task stops with a status (R151): its open transaction aborts (R120), it issues nothing further and ends when its requests are
performed. -/
def stopCtx (s : State) (n c status detail : Nat) (killed : Bool := false) : State :=
  let s := match s.getCtx n c with
    | some x => s.abortCtxTx x
    | none => s
  ((s.updCtx n c fun x => { x with phase := .stopping status detail killed }).dropWaiter (ctxKey n c)).tidyCtx n c

/-- A fault stops a context (R190, Table 08-7). -/
def faultCtx (s : State) (n c cause va : Nat) : State :=
  ((s.updCtx n c fun x => { x with phase := .fault cause va false }).dropWaiter (ctxKey n c)).bump F.ptuStat_faults (coreDie n)

/-- What the addresses of one instruction come to (R190): all translated, waiting for a walk, or stopped. -/
inductive Xlat where
  | ok (fabric : List Nat)
  | wait
  | stopped
  deriving DecidableEq, Repr

/-- Translate every address of an instruction before any request issues; a plan's task carries fabric addresses (R208). -/
def translateAll (s : State) (n c : Nat) (x : Context) (vas : List Nat) (need : Nat) : Xlat × State :=
  if x.task.plan.isSome then (.ok vas, s)
  else if vas.any fun va => decide (2 ^ 57 ≤ va) then (.stopped, s.stopCtx n c St.badRequest 0)
  else
    vas.reverse.foldl (fun r va =>
      match r with
      | (.stopped, s) => (.stopped, s)
      | (acc, s) =>
        match s.lookup n x.task.asid va need with
        | (some a, s) => (match acc with | .ok l => .ok (a :: l) | y => y, s)
        | (none, s) => (.wait, s.askWalk (coreDie n) x.task.asid va need (ctxKey n c))) (Xlat.ok [], s)

end State

end Sys2Proof.Machine
end

