-- ==== Sys2Proof/Machine/MicroOps.lean ====
section
/-! DEFINITION. The micro-sequence instructions (R166 to R170, Table 07-14). -/

namespace Sys2Proof.Machine

/-! ### Operation codes (Table 07-14) -/

def Mo.nop : Nat := 0x00
def Mo.sli : Nat := 0x01
def Mo.sadd : Nat := 0x02
def Mo.ssub : Nat := 0x03
def Mo.smul : Nat := 0x04
def Mo.sand : Nat := 0x05
def Mo.sor : Nat := 0x06
def Mo.sxor : Nat := 0x07
def Mo.sshl : Nat := 0x08
def Mo.sshr : Nat := 0x09
def Mo.ssra : Nat := 0x0A
def Mo.beq : Nat := 0x10
def Mo.bne : Nat := 0x11
def Mo.blt : Nat := 0x12
def Mo.bge : Nat := 0x13
def Mo.sld : Nat := 0x18
def Mo.sst : Nat := 0x19
def Mo.sext : Nat := 0x1A
def Mo.wait : Nat := 0x1B
def Mo.atom : Nat := 0x1C
def Mo.endTask : Nat := 0x1D
def Mo.txopen : Nat := 0x20
def Mo.txcommit : Nat := 0x21
def Mo.txabort : Nat := 0x22
def Mo.txchk : Nat := 0x23
def Mo.vld : Nat := 0x28
def Mo.vst : Nat := 0x29
def Mo.vlds : Nat := 0x2A
def Mo.vsts : Nat := 0x2B
def Mo.vclr : Nat := 0x30
def Mo.vfma : Nat := 0x31
def Mo.wfma : Nat := 0x32
def Mo.wmax : Nat := 0x33
def Mo.wmin : Nat := 0x34
def Mo.wexp2 : Nat := 0x35
def Mo.wrcp : Nat := 0x36
def Mo.wrsq : Nat := 0x37
def Mo.wsqrt : Nat := 0x38
def Mo.wdiv : Nat := 0x39
def Mo.cvt : Nat := 0x3A
def Mo.qnt : Nat := 0x3B
def Mo.dot : Nat := 0x3C
def Mo.dotr : Nat := 0x3D
def Mo.wmac : Nat := 0x3E
def Mo.red : Nat := 0x3F
def Mo.wbc : Nat := 0x40

namespace State

/-! ### Registers of a context -/

/-- A scalar register; S0 reads as zero (R166). -/
def sGet (x : Context) (r : Nat) : DWord := if r % 64 = 0 then 0 else x.sreg.lookD (r % 32) 0

/-- A scalar register written; writes to S0 are discarded (R166). -/
def sPut (x : Context) (r : Nat) (v : DWord) : Context :=
  if r % 32 = 0 then x else { x with sreg := x.sreg.putC 0 (r % 32) v }

/-- Vector register r of engine e, with its poison bit. -/
def vGet (x : Context) (e r : Nat) : LineData × Bool := x.vreg.lookD (e * 64 + r % 64) (0, false)

def vPut (x : Context) (e r : Nat) (v : LineData × Bool) : Context :=
  { x with vreg := x.vreg.putC (0, false) (e * 64 + r % 64) v }

/-- A scalar register that waits for a response. -/
def busyS (s : State) (n c r : Nat) : Bool :=
  (s.ctxOuts n c).any fun o => match o.2.why with
    | .sload r' _ | .atom r' _ _ | .txOpen r' | .txCommit r' | .txAbort r' => r' % 32 == r % 32
    | _ => false

/-- A vector register that waits for a response. -/
def busyV (s : State) (n c e r : Nat) : Bool :=
  (s.ctxOuts n c).any fun o => match o.2.why with
    | .vload es r' => es.contains e && r' == r
    | .vload6 es r' _ _ _ => es.contains e && (r' == r || r' + 1 == r)
    | _ => false

/-- A transaction command of the context waits for its answer. -/
def busyTx (s : State) (n c : Nat) : Bool :=
  (s.ctxOuts n c).any fun o => match o.2.why with
    | .txOpen _ | .txCommit _ | .txAbort _ => true
    | _ => false

/-- Latched formats of a context. -/
def fmtsOf (x : Context) : List Fmt := x.task.fmts.map Fmt.ofReg

/-- The element format of a latched format index. -/
def elemOf (x : Context) (k : Nat) : Fmt :=
  let f := (fmtsOf x).getD k {}
  if f.cls = 2 then (fmtsOf x).getD f.elem {} else f

/-! ### Issue -/

/-- The core issues: it is neither gated nor waking, and its role lets it run tasks (Tables 16-5, 16-7, R408). -/
def coreRuns (s : State) (n : Nat) : Bool :=
  !s.clu.gated.contains n && !s.clu.waking.contains n && s.rd F.rasCore_state n != 2

/-- A context is ready whatever its instruction needs: its task runs, and it waits on no request and no walk (R122). -/
def ctxReady (s : State) (n c : Nat) : Bool :=
  match s.getCtx n c with
  | none => false
  | some x =>
    x.phase == .run && (x.kind != 0x10 || (x.stage != 0 && (x.task.prog[x.pc]?).isSome)) && (s.ctxOuts n c).isEmpty
      && !s.walkWaits (ctxKey n c)

/-- No context that is ready for certain stands between the one of core n that issued last and context c (R122, log 71). -/
def turnOf (s : State) (n c : Nat) : Bool :=
  let next := (s.clu.last.lookD n 7 + 1) % 8
  (List.range ((c + 8 - next) % 8)).all fun i => !s.ctxReady n ((next + i) % 8)

/-- Context c has issued. -/
def issued (s : State) (n c : Nat) : State := s.uClu fun u => { u with last := u.last.putC 7 n c }

/-- The context whose next instruction is this one, and whose turn it is: a running USER task whose sequence holds the word at its program
counter. -/
def due (s : State) (op : Nat) (n : Core) (c : Ctx) (w : Fetch) : Option Context :=
  match s.getCtx n.val c.val with
  | none => none
  | some x =>
    if x.phase = .run && x.kind == 0x10 && x.stage != 0 && x.task.prog[x.pc]? == some w.word && opOf w.word == op
        && s.coreRuns n.val && s.turnOf n.val c.val then some x
    else none

/-- An uncorrectable instruction stops its task and marks its handle invalid (R171). -/
def seqUncorr (s : State) (n : Core) (c : Ctx) (x : Context) : State :=
  let h := leNat x.task.desc 3 1
  let s := { s with seqs := s.seqs.upd h fun q => { q with invalid := true } }
  let s := s.raise { type := 0x1002, sev := 2, part := some x.task.partition, die := coreDie n.val, status := St.internal,
                     arg := [BitVec.ofNat 8 h] ++ leBytes x.pc 2 ++ [BitVec.ofNat 8 (coreDie n.val)] }
  s.stopCtx n.val c.val St.internal 0

/-- Run an instruction that is due. -/
def micro (s : State) (op : Nat) (n : Core) (c : Ctx) (w : Fetch) (f : Context → State) : State :=
  match s.due op n c w with
  | none => s
  | some x => if w.bad then s.seqUncorr n c x else f x

/-- The context goes on at the next instruction, with changes. -/
def goOn (s : State) (n : Core) (c : Ctx) (x : Context) (f : Context → Context) : State :=
  (s.setCtx n.val c.val (f { x with pc := x.pc + 1 })).issued n.val c.val

/-! ### Scalar instructions -/

/-- A line that holds a scalar result. -/
def lineOfWord (v : DWord) : LineData := v.setWidth 1024

/-- What the scalar unit's checker compares of a result: the residue modulo 21 (R335, R339). -/
def checkedScalar (l : List LineData) : List Nat := l.map fun v => (v.setWidth 64 : DWord).toNat % 21

/-- A parity error of a register read that the replay clears, or does not, is counted; a lost one is entered in the history (Table 06-2,
Table 16-4). -/
def parityCount (s : State) (n : Nat) (cleared : Bool) : State :=
  if cleared then s.bump F.engRfErr_corrected n else (s.bump F.engRfErr_uncorr n).histAdd 4 n 1 1

/-- Apply a scalar result by its check (R339, R341): a wrong result that the residues show is withheld and waits for the referee's scalar
unit; one that they do not show is written (R336). -/
def scalarOut (s : State) (n : Core) (c : Ctx) (x : Context) (w : DWord) (k : Check) (srcs : List Nat) (v : DWord) : State :=
  match k with
  | .pass => s.goOn n c x fun x => sPut x (dOf w) v
  | .parity p =>
    if p.cleared then (s.goOn n c x fun x => sPut x (dOf w) v).parityCount n.val true
    else (s.parityCount n.val false).stopCtx n.val c.val St.poison 0
  | .wrong _ first again checker =>
    let good := [lineOfWord v]
    let a := first.getD good
    if !checker && checkedScalar a == checkedScalar good then s.goOn n c x fun x => sPut x (dOf w) ((a.headD 0).setWidth 64)
    else
      let snap : Snapshot := { sregs := srcs.map fun r => (r, sGet x r) }
      (s.goOn n c x fun x => { x with phase := .dispute }).uRas fun r => { r with
        disputes := r.disputes ++ [{ core := n.val, ctx := c.val, eng := 0, op := w, snap := snap, good := good, e := again.getD good
                                     aEqE := a == again.getD good, checker := checker, dests := [dOf w], scalar := true, poison := false }] }

/-- A scalar instruction: its source registers, and its result. -/
def scalarOp (s : State) (op : Nat) (n : Core) (c : Ctx) (w : Fetch) (k : Check) (srcs : List Nat)
    (f : Context → DWord) : State :=
  s.micro op n c w fun x =>
    if (dOf w.word :: srcs).any (s.busyS n.val c.val) then s else s.scalarOut n c x w.word k srcs (f x)

/-- A branch: taken when its condition holds. -/
def branchOp (s : State) (op : Nat) (n : Core) (c : Ctx) (w : Fetch) (cond : DWord → DWord → Bool) : State :=
  s.micro op n c w fun x =>
    if [aOf w.word, bOf w.word].any (s.busyS n.val c.val) then s
    else if cond (sGet x (aOf w.word)) (sGet x (bOf w.word)) then
      (s.setCtx n.val c.val { x with pc := (BitVec.ofNat 64 x.pc + immOf w.word).toNat }).issued n.val c.val
    else s.goOn n c x id

/-- Shift amount (Sb + IMM) mod 64. -/
def shiftBy (x : Context) (w : DWord) : Nat := (sGet x (bOf w) + immOf w).toNat % 64

/-! ### The core prefetcher (R70) -/

/-- Train the core's streams on a load and fetch DIST strides ahead within the 64 KiB page into the cluster buffer, by the kind of read that
the load would issue. -/
def trainCore (s : State) (n : Core) (c : Ctx) (x : Context) (va fabric : Nat) : State :=
  if !s.flag F.corPfCtrl_en n.val then s
  else
    let line := va / 128
    let keys := (List.range 16).map (16 * n.val + ·)
    let tick := s.clu.tick + 1
    let s := s.uClu fun u => { u with tick := tick }
    let dist (h : CoreStream) : Int := (line : Int) - h.line
    let mine (h : CoreStream) : Bool :=
      h.ctx == c.val && h.line / 512 == line / 512 && dist h ≠ 0 && decide ((dist h).natAbs ≤ 32)
        && (h.hits == 1 || dist h == h.stride)
    match keys.findSome? fun i => match s.clu.streams.look i with
      | some h => if mine h then some (i, h) else none
      | none => none with
    | some (i, h) =>
      let hits := h.hits + 1
      let s := s.uClu fun u => { u with streams := u.streams.put i { h with line := line, stride := dist h, hits := hits, age := tick } }
      let target : Int := (line : Int) + dist h * (s.rd F.corPfCtrl_dist n.val : Nat)
      let dst := fabric / 128 * 128 + (target - line) * 128
      if decide (3 ≤ hits) && decide (0 ≤ target) && target.toNat / 512 == line / 512 && s.mayIssue n.val c.val 1
          && !s.lineBusy n.val c.val dst.toNat
          && !((s.clu.buf.lookD (n.val / 9) []).any fun b => b.key == ctxKey n.val c.val && b.line == dst.toNat / 128) then
        match s.txUse n c x fabric with
        | (.plain, s) =>
          s.ctxSend n c x { opcode := BitVec.ofNat 8 Op.rdUnc, addr := BitVec.ofNat 64 dst.toNat } .prefetch x.stream
        | (.inTx id, s) =>
          s.ctxSend n c x { opcode := BitVec.ofNat 8 Op.txRd, txid := id, addr := BitVec.ofNat 64 dst.toNat } .prefetch false
        | (.dead, s) => s
      else s
    | none =>
      let place := match keys.find? fun i => (s.clu.streams.look i).isNone with
        | some i => i
        | none => (keys.foldl (fun (a : Nat × Nat) i =>
            let g := ((s.clu.streams.look i).map (·.age)).getD 0
            if g < a.2 then (i, g) else a) (16 * n.val, tick)).1
      s.uClu fun u => { u with streams := u.streams.put place ⟨c.val, line, 0, 1, tick⟩ }

/-! ### Memory instructions (R168, R169) -/

/-- One request that a memory instruction needs: its virtual address, what to send, and what an aborted transaction gives. -/
structure MemReq where
  va : Nat
  /-- Opcodes outside and inside a transaction. -/
  plain : Nat
  tx : Nat
  pkt : Packet
  why : OutFor
  /-- The whole line is named, so the packet carries the line's address. -/
  line : Bool := true
  deriving DecidableEq, Repr

/-- The effect of a request of an aborted transaction on its context: zero data, or nothing (R170). -/
def deadEffect (why : OutFor) (x : Context) : Context :=
  match why with
  | .vload es r => es.foldl (fun x e => vPut x e r (0, false)) x
  | .vload6 es r _ _ _ => es.foldl (fun x e => vPut (vPut x e r (0, false)) e (r + 1) (0, false)) x
  | .sload r _ => sPut x r 0
  | .atom r _ _ => sPut x r 0
  | _ => x

/-- Bytes of a list replaced from a place. -/
def spliceBytes (old : List Byte) (pos : Nat) (new : List Byte) : List Byte := old.take pos ++ new ++ old.drop (pos + new.length)

/-- A piece of an FP6 load, bytes pos to pos + len of the 192: the pair is written when no other piece of it is to come (R133). A register
is poisoned when a line that holds its bytes is: the first takes bytes 0 to 95, the second the rest (R144). -/
def load6 (x : Context) (engs : List Nat) (r at_ pos len : Nat) (data : LineData) (poison more : Bool) : Context :=
  let k := (engs.headD 0) * 64 + r
  let (old, lo, hi) := x.parts.lookD k (List.replicate 192 0, false, false)
  let bytes := spliceBytes old pos (((lineBytes data).drop at_).take len)
  let lo := lo || (poison && decide (pos < 96))
  let hi := hi || (poison && decide (96 < pos + len))
  if more then { x with parts := x.parts.put k (bytes, lo, hi) }
  else
    let es := unpack 6 256 bytes
    engs.foldl (fun x e => vPut (vPut x e r (regOf 6 (es.take 128), lo)) e (r + 1) (regOf 6 (es.drop 128), hi)) { x with parts := x.parts.del k }

/-- What the line that a load brings does in its context; `more` says that another piece of the same FP6 load is to come. -/
def loadEffect (x : Context) (why : OutFor) (data : LineData) (poison more : Bool) : Context :=
  match why with
  | .vload es r => es.foldl (fun x e => vPut x e r (data, poison)) x
  | .vload6 es r at_ pos len => load6 x es r at_ pos len data poison more
  | .sload r b => sPut x r (BitVec.ofNat 64 (lineBits data b 64))
  | .kread l => { x with got := x.got.put l (data, poison) }
  | _ => x

/-- Another piece of the FP6 load of a request is outstanding. -/
def moreParts (s : State) (n c : Nat) (why : OutFor) : Bool :=
  (s.ctxOuts n c).any fun p => match p.2.why, why with
    | .vload6 es r _ _ _, .vload6 es' r' _ _ _ => es == es' && r == r'
    | _, _ => false

/-- A load takes its line from the cluster buffer, which it leaves; a poisoned one that goes to a scalar register stops the task (R70,
R145). -/
def bufTake (s : State) (n c : Nat) (b : BufLine) (why : OutFor) (more : Bool) : State :=
  let s := s.bufDrop n c (b.line * 128)
  match why, b.poison with
  | .sload _ _, true => s.stopCtx n c St.poison 0
  | _, _ => s.updCtx n c fun x => loadEffect x why b.data b.poison (more || s.moreParts n c why)

/-- A read of a context: from the cluster buffer where a prefetch has brought the line, else from its home. Any other request of the
context takes the line out of the buffer (R150). -/
def ctxAccess (s : State) (n : Core) (c : Ctx) (x : Context) (q : Packet) (tx : Option (BitVec 32)) (why : OutFor) (more : Bool) : State :=
  let a := q.addr.toNat
  if q.opcode.toNat = Op.rdUnc || q.opcode.toNat = Op.txRd then
    match s.bufLine n.val c.val a tx with
    | some b => s.bufTake n.val c.val b why more
    | none => s.ctxSend n c x q why (x.stream && q.opcode.toNat == Op.rdUnc)
  else (s.bufDrop n.val c.val a).ctxSend n c x q why false

/-- Issue the requests of an instruction, translated. -/
def issueAll (n : Core) (c : Ctx) : List (MemReq × Nat) → State → State
  | [], s => s
  | (m, fabric) :: rest, s =>
    match s.getCtx n.val c.val with
    | none => s
    | some x =>
      let addr := BitVec.ofNat 64 (if m.line then fabric / 128 * 128 else fabric)
      let more := rest.any fun r => match r.1.why, m.why with
        | .vload6 es r' _ _ _, .vload6 es' r'' _ _ _ => es == es' && r' == r''
        | _, _ => false
      issueAll n c rest (match s.txUse n c x fabric with
        | (.plain, s) => s.ctxAccess n c x { m.pkt with opcode := BitVec.ofNat 8 m.plain, addr := addr } none m.why more
        | (.inTx id, s) => s.ctxAccess n c x { m.pkt with opcode := BitVec.ofNat 8 m.tx, txid := id, addr := addr } (some id) m.why more
        | (.dead, s) => s.updCtx n.val c.val (deadEffect m.why))

/-- A memory instruction: alignment first, then every translation, then every request (R169, R183, R190). -/
def memOp (s : State) (n : Core) (c : Ctx) (x : Context) (align : Nat) (vas : List Nat) (need : Nat) (reqs : List MemReq)
    (f : Context → Context) (train : Bool := false) : State :=
  if vas.any fun va => va % align ≠ 0 then s.stopCtx n.val c.val St.badRequest 0
  else if s.busyTx n.val c.val then s
  else match s.translateAll n.val c.val x (reqs.map (·.va)) need with
    | (.stopped, s) => s
    | (.wait, s) => s
    | (.ok fs, s) =>
      if !s.mayIssue n.val c.val reqs.length || fs.any (s.lineBusy n.val c.val) then s
      else
        let s := issueAll n c (reqs.zip fs) (s.goOn n c x f)
        if train then (reqs.zip fs).foldl (fun s r => match s.getCtx n.val c.val with
          | some x => s.trainCore n c x r.1.va r.2
          | none => s) s
        else s

/-- Addresses of a vector memory operation by engine: offset by e × Sc under group issue (R168). -/
def vecAddrs (x : Context) (w : DWord) : List (List Nat × Nat) :=
  let base := sGet x (aOf w) + (immOf w) * 64
  if engOf w = 4 then
    if cOf w = 0 then [([0, 1, 2, 3], base.toNat)]
    else [0, 1, 2, 3].map fun e => ([e], (base + BitVec.ofNat 64 e * sGet x (cOf w)).toNat)
  else [([engOf w % 4], base.toNat)]

/-- Whether a vector memory operation moves FP6 pairs. -/
def isSix (x : Context) (w : DWord) : Bool := (elemOf x (fmtOf w)).width == 6

/-- The requests of a VLD: one line a register, two lines an FP6 pair (R133, R168). -/
def loadReqs (x : Context) (w : DWord) : List MemReq :=
  (vecAddrs x w).flatMap fun t =>
    if isSix x w then
      let b := t.2 % 128
      [⟨t.2, Op.rdUnc, Op.txRd, {}, .vload6 t.1 (dOf w) b 0 (128 - b), true⟩,
       ⟨t.2 + (128 - b), Op.rdUnc, Op.txRd, {}, .vload6 t.1 (dOf w) 0 (128 - b) (64 + b), true⟩]
    else [⟨t.2, Op.rdUnc, Op.txRd, {}, .vload t.1 (dOf w), true⟩]

/-- VLD (R168, R133). -/
def vld (s : State) (n : Core) (c : Ctx) (w : Fetch) : State :=
  s.micro Mo.vld n c w fun x =>
    let w := w.word
    let six := isSix x w
    let ts := vecAddrs x w
    let regs := if six then [dOf w, dOf w + 1] else [dOf w]
    if [aOf w, cOf w].any (s.busyS n.val c.val)
        || (ts.flatMap (·.1)).any fun e => regs.any fun r => s.busyV n.val c.val e r then s
    else s.memOp n c x (if six then 64 else 128) (ts.map (·.2)) 0 (loadReqs x w) id true

/-- The bytes that VST stores of a register, or of an FP6 pair (R133), each with the poison of its register; `lost` says that a parity
error of engine e's reads stays (R127). -/
def storeBytes (x : Context) (w : DWord) (e : Nat) (lost : Bool) : List (Byte × Bool) :=
  let a := vGet x e (aOf w)
  if isSix x w then
    let b := vGet x e (aOf w + 1)
    (packBytes 6 (regElems 6 a.1)).map (·, a.2 || lost) ++ (packBytes 6 (regElems 6 b.1)).map (·, b.2 || lost)
  else (lineBytes a.1).map (·, a.2 || lost)

/-- Requests that store bytes at a virtual address, one per line, poisoned where a byte of the line is (R144). -/
def storeReqs (va : Nat) (bs : List (Byte × Bool)) : List MemReq :=
  let b := va % 128
  let rest := bs.drop (128 - b)
  let one (va : Nat) (bs : List (Byte × Bool)) : MemReq :=
    let (data, mask) := placeBytes (va % 128) (bs.map (·.1))
    ⟨va, Op.wrUnc, Op.txWr, { len := if bs.length = 128 then 4 else 5, data := data, mask := mask, poison := bs.any (·.2) }, .store, true⟩
  one va (bs.take (128 - b)) :: (if rest.isEmpty then [] else [one (va + (128 - b)) rest])

/-- The addresses of a VST by engine: the address register of a store is B's scalar register, A names the vector register (log 21). -/
def storeAddrs (x : Context) (w : DWord) : List (List Nat × Nat) :=
  (vecAddrs x w).map fun t => (t.1, (BitVec.ofNat 64 t.2 - sGet x (aOf w) + sGet x (bOf w)).toNat)

/-- The requests of a VST; `rf` is a parity error of a register read. -/
def vstReqs (x : Context) (w : DWord) (rf : Option RfParity) : List MemReq :=
  (storeAddrs x w).flatMap fun t => t.1.flatMap fun e => storeReqs t.2 (storeBytes x w e (rf.any fun p => p.eng.val == e && !p.cleared))

/-- A parity error of a register read counts when one of the engines at work reads. -/
def countRf (s : State) (n : Nat) (engs : List Nat) (rf : Option RfParity) : State :=
  match rf with
  | some p => if engs.contains p.eng.val then s.parityCount n p.cleared else s
  | none => s

/-- VST (R144, R168). -/
def vst (s : State) (n : Core) (c : Ctx) (w : Fetch) (rf : Option RfParity) : State :=
  s.micro Mo.vst n c w fun x =>
    let w := w.word
    let six := isSix x w
    let regs := if six then [aOf w, aOf w + 1] else [aOf w]
    let ts := storeAddrs x w
    if [bOf w, cOf w].any (s.busyS n.val c.val)
        || (ts.flatMap (·.1)).any fun e => regs.any fun r => s.busyV n.val c.val e r then s
    else
      let t := s.memOp n c x (if six then 64 else 128) (ts.map (·.2)) 1 (vstReqs x w rf) id
      if (t.getCtx n.val c.val).any (·.pc != x.pc) then t.countRf n.val (ts.flatMap (·.1)) rf else t

/-- SLD. -/
def sld (s : State) (n : Core) (c : Ctx) (w : Fetch) : State :=
  s.micro Mo.sld n c w fun x =>
    let w := w.word
    let va := (sGet x (aOf w) + immOf w * 8).toNat
    if [aOf w, dOf w].any (s.busyS n.val c.val) then s
    else s.memOp n c x 8 [va] 0 [⟨va, Op.rdUnc, Op.txRd, {}, .sload (dOf w) (va % 128), true⟩] id true

/-- SST. -/
def sst (s : State) (n : Core) (c : Ctx) (w : Fetch) : State :=
  s.micro Mo.sst n c w fun x =>
    let w := w.word
    let va := (sGet x (aOf w) + immOf w * 8).toNat
    if [aOf w, bOf w].any (s.busyS n.val c.val) then s
    else s.memOp n c x 8 [va] 1 (storeReqs va ((leBytes (sGet x (bOf w)).toNat 8).map (·, false))) id

/-- ATOM (R238). -/
def atom (s : State) (n : Core) (c : Ctx) (w : Fetch) : State :=
  s.micro Mo.atom n c w fun x =>
    let w := w.word
    let va := (sGet x (aOf w)).toNat
    let sub := fieldOf w 52 6
    if [aOf w, bOf w, cOf w, eOf w, dOf w].any (s.busyS n.val c.val) then s
    else
      let opd := (sGet x (bOf w)).toNat
      let cmp := (sGet x (cOf w)).toNat
      let msk := (sGet x (eOf w)).toNat
      let data : LineData := if sub % 16 = 9 then BitVec.ofNat 1024 (opd + cmp * 2 ^ 64 + msk * 2 ^ 128) else BitVec.ofNat 1024 opd
      let pkt : Packet := { len := if sub % 16 = 9 then 3 else 1, sub := BitVec.ofNat 6 sub, data := data }
      s.memOp n c x 8 [va] 2 [⟨va, Op.atomic, Op.txAtomic, pkt, .atom (dOf w) (va % 128) (sub / 16 % 2 == 1), false⟩] id

/-- SEXT (R145): an element of a vector register of engine 0; a poisoned register, or one whose parity error stays, stops the task. -/
def sext (s : State) (n : Core) (c : Ctx) (w : Fetch) (rf : Option RfParity) : State :=
  s.micro Mo.sext n c w fun x =>
    let w := w.word
    let f := elemOf x (fmtOf w)
    let wide := f.width == 32 && f.cls == 1
    if [bOf w, dOf w].any (s.busyS n.val c.val) || s.busyV n.val c.val 0 (aOf w)
        || (wide && s.busyV n.val c.val 0 (aOf w + 1)) then s
    else
      let a := vGet x 0 (aOf w)
      let b := vGet x 0 (aOf w + 1)
      let s := s.countRf n.val [0] rf
      if a.2 || (wide && b.2) || rf.any (fun p => p.eng == 0 && !p.cleared) then s.stopCtx n.val c.val St.poison 0
      else
        let count := if wide then 64 else perReg f.width
        let i := (sGet x (bOf w) + immOf w).toNat % count
        let v := if wide then (wideElems a.1 b.1).getD i 0 else regElem f.width a.1 i
        let v := if f.cls = 1 && decide (2 ^ (f.width - 1) ≤ v) then v + (2 ^ 64 - 2 ^ f.width) else v
        s.goOn n c x fun x => sPut x (dOf w) (BitVec.ofNat 64 v)

/-- WAIT (R150): due once every earlier request is performed; later loads read anew, so no line stays in the cluster buffer. -/
def waitOp (s : State) (n : Core) (c : Ctx) (w : Fetch) : State :=
  s.micro Mo.wait n c w fun x => if (s.ctxOuts n.val c.val).isEmpty then (s.goOn n c x id).bufClear n.val c.val else s

/-- END (R145): POISON when the task stored poisoned lines. -/
def endOp (s : State) (n : Core) (c : Ctx) (w : Fetch) : State :=
  s.micro Mo.endTask n c w fun x =>
    if (s.ctxOuts n.val c.val).isEmpty then s.endTask n.val c.val (if x.poisoned = 0 then St.ok else St.poison) 0 false else s

/-! ### Transactions (R170) -/

/-- The refusal value of a transaction command: 2^63 + cause × 2^8 + status. -/
def txRefusal (cause status : Nat) : DWord := BitVec.ofNat 64 (2 ^ 63 + cause * 256 + status)

/-- A packet of a context to its die's home that names no line. -/
def toHome (s : State) (op : Nat) (txid : BitVec 32) (len data : Nat) : Packet :=
  { opcode := BitVec.ofNat 8 op, len := BitVec.ofNat 3 len, txid := txid, addr := BitVec.ofNat 64 (s.node * 2 ^ 52),
    data := BitVec.ofNat 1024 data }

/-- The coordinator's die that a TXID names. -/
def txidDie (id : BitVec 32) : Nat := id.toNat / 2 ^ 10 % 4

/-- Send a packet to the coordinator of a transaction. -/
def txSend (s : State) (n : Core) (c : Ctx) (x : Context) (op : Nat) (id : BitVec 32) (len data : Nat) (why : OutFor) : State :=
  let loc := coreLocal n.val
  match s.freeTag loc with
  | none => s
  | some t =>
    let q := { s.toHome op id len data with
      src := s.endpoint loc, principal := BitVec.ofNat 20 x.task.principal, tag := BitVec.ofNat 14 t
      dlocal := BitVec.ofNat 8 (0xC0 + (if op = Op.txOpen then coreDie n.val else txidDie id)) }
    let o : Out := { who := .ctx n c, pkt := q, die := coreDie n.val, partition := x.task.partition,
                     epoch := s.epochOf (coreDie n.val), why := why }
    { s with outs := s.outs.put (outKey loc t) o }.send (coreDie n.val) q

/-- TXOPEN: BUSY while a transaction is open, else, after an abort too, TX_OPEN to the die's home. -/
def txopen (s : State) (n : Core) (c : Ctx) (w : Fetch) : State :=
  s.micro Mo.txopen n c w fun x =>
    if s.busyS n.val c.val (dOf w.word) || s.busyTx n.val c.val || !s.mayIssue n.val c.val 1 then s
    else if txIsOpen x then s.goOn n c x fun x => sPut x (dOf w.word) (txRefusal 0 St.busy)
    else (s.goOn n c x fun x => { x with tx := some {} }).txSend n c x Op.txOpen 0 0 0 (.txOpen (dOf w.word))

/-- TXCOMMIT: once every earlier request is performed, with the count of OK completions. -/
def txcommit (s : State) (n : Core) (c : Ctx) (w : Fetch) : State :=
  s.micro Mo.txcommit n c w fun x =>
    if !(s.ctxOuts n.val c.val).isEmpty then s
    else match x.tx.bind (·.txid) with
      | none => s.goOn n c x fun x => { sPut x (dOf w.word) (txRefusal 0xA St.txAbort) with tx := none }
      | some id => (s.goOn n c x id_).txSend n c x Op.txCommit id 1 (((x.tx.map (·.ok)).getD 0) % 65536) (.txCommit (dOf w.word))
where
  id_ (x : Context) : Context := x

/-- TXABORT. -/
def txabort (s : State) (n : Core) (c : Ctx) (w : Fetch) : State :=
  s.micro Mo.txabort n c w fun x =>
    if s.busyS n.val c.val (dOf w.word) || s.busyTx n.val c.val || !s.mayIssue n.val c.val 1 then s
    else match x.tx.bind (·.txid) with
      | none => s.goOn n c x fun x => { sPut x (dOf w.word) 0 with tx := none }
      | some id => (s.goOn n c x fun x => x).txSend n c x Op.txAbort id 0 0 (.txAbort (dOf w.word))

/-- TXCHK: 0 while open, the cause once aborted. -/
def txchk (s : State) (n : Core) (c : Ctx) (w : Fetch) : State :=
  s.micro Mo.txchk n c w fun x =>
    if s.busyS n.val c.val (dOf w.word) then s
    else s.goOn n c x fun x => sPut x (dOf w.word) (BitVec.ofNat 64 ((x.tx.bind (·.cause)).getD 0))

/-! ### Scratch (R124, R180) -/

/-- Scratch block of a context's window: (Sa + IMM × 128) mod 1 MiB, taken into the window of 128 KiB. -/
def scratchBlock (x : Context) (w : DWord) (r : Nat) (e : Nat) : Nat :=
  let group := if engOf w = 4 then BitVec.ofNat 64 e * sGet x (cOf w) else 0
  (sGet x r + immOf w * 128 + group).toNat % 2 ^ 20 % 2 ^ 17

/-- VLDS, with what the scratch's code finds. -/
def vlds (s : State) (n : Core) (c : Ctx) (w : Fetch) (ecc : ScratchEcc) : State :=
  s.micro Mo.vlds n c w fun x =>
    let w := w.word
    if [aOf w, cOf w].any (s.busyS n.val c.val) || (enginesOf w).any fun e => s.busyV n.val c.val e (dOf w) then s
    else if (enginesOf w).any fun e => scratchBlock x w (aOf w) e % 128 ≠ 0 then s.stopCtx n.val c.val St.badRequest 0
    else
      let found (e : Nat) : Ecc := if e = 0 then ecc.e0 else if e = 1 then ecc.e1 else if e = 2 then ecc.e2 else ecc.e3
      let s := s.goOn n c x fun x => (enginesOf w).foldl (fun x e =>
        let v := x.scratch.lookD (scratchBlock x w (aOf w) e / 128) (0, false)
        vPut x e (dOf w) (v.1, v.2 || found e == .uncorrectable)) x
      (enginesOf w).foldl (fun s e => match found e with
        | .corrected => s.bump F.corScratchEcc_corrected n.val
        | .uncorrectable => (s.bump F.corScratchEcc_uncorr n.val).histAdd 4 n.val 0 1
        | .clean => s) s

/-- VSTS: the vector register A to scratch at Sb. -/
def vsts (s : State) (n : Core) (c : Ctx) (w : Fetch) (rf : Option RfParity) : State :=
  s.micro Mo.vsts n c w fun x =>
    let w := w.word
    if [bOf w, cOf w].any (s.busyS n.val c.val) || (enginesOf w).any fun e => s.busyV n.val c.val e (aOf w) then s
    else if (enginesOf w).any fun e => scratchBlock x w (bOf w) e % 128 ≠ 0 then s.stopCtx n.val c.val St.badRequest 0
    else (s.goOn n c x fun x => (enginesOf w).foldl (fun x e =>
      let v := vGet x e (aOf w)
      let v := (v.1, v.2 || rf.any fun p => p.eng.val == e && !p.cleared)
      { x with scratch := x.scratch.putC (0, false) (scratchBlock x w (bOf w) e / 128) v }) x).countRf n.val (enginesOf w) rf

/-! ### Engine instructions -/

/-- A wide pair's registers. -/
def pairOf (r : Nat) : List Nat := [r, r + 1]

/-- Registers of a DOT operand. -/
def dotRegs (f : Fmt) (r : Nat) : List Nat := if f.width = 6 then [r, r + 1] else [r]

/-- A scale register that an operand reads. -/
def scaleReg (mx : Bool) (r : Nat) : List Nat := if mx then [r] else []

/-- Operand B's registers. -/
def bRegs (w : DWord) : List Nat := pairOf (bOf w)

/-- Source registers of an engine operation (Table 07-14), from its formats: F of FMT, G of IMM[10:5], with their element formats. -/
def engSrcs (op : Nat) (f fe g ge : Fmt) (w : DWord) : List Nat :=
  if op = Mo.vfma then
    [aOf w] ++ (if bcastOf w then bRegs w else [bOf w]) ++ [cOf w]
  else if op = Mo.wfma then pairOf (aOf w) ++ bRegs w ++ pairOf (cOf w)
  else if op = Mo.wmax || op = Mo.wmin || op = Mo.wdiv then pairOf (aOf w) ++ bRegs w
  else if op = Mo.wexp2 || op = Mo.wrcp || op = Mo.wrsq || op = Mo.wsqrt || op = Mo.wbc then pairOf (aOf w)
  else if op = Mo.red then pairOf (aOf w) ++ pairOf (dOf w)
  else if op = Mo.cvt then
    let n := cvtCount fe ge
    let regs := if inPairs fe (bcastOf w) then n / 64 * 2 else n / perReg fe.width
    (List.range regs).map (aOf w + ·)
  else if op = Mo.qnt then (List.range (qntCount ge / 32)).map (aOf w + ·) ++ [cOf w]
  else if op = Mo.dot || op = Mo.dotr then
    dotRegs fe (aOf w) ++ dotRegs ge (bOf w) ++ scaleReg (f.cls == 2) (cOf w) ++ scaleReg (g.cls == 2) (eOf w) ++ pairOf (dOf w)
  else if op = Mo.wmac then
    [aOf w] ++ bRegs w ++ scaleReg (f.cls == 2) (cOf w) ++ pairOf (dOf w) ++ (if fe.width = 8 then pairOf (dOf w + 2) else [])
  else []

/-- Scale bytes that n elements of a format take from a start index stay below 128 (R134). -/
def scaleFits (f : Fmt) (n start : Nat) : Bool :=
  f.cls != 2 || decide (start + n / (if f.block = 0 then 32 else f.block) ≤ 128)

/-- The issue-time check of R169. -/
def scaleOk (op : Nat) (f fe g ge : Fmt) (i : EngIn) : Bool :=
  if op = Mo.dot || op = Mo.dotr then
    scaleFits f (dotElems i fe 0).length i.scaleA && scaleFits g (dotElems i ge 0).length i.scaleB
  else if op = Mo.wmac then scaleFits f (perReg fe.width) i.scaleA
  else if op = Mo.qnt then scaleFits g (qntCount ge) i.scaleA
  else true

/-- What engine e reads for an instruction. -/
def engIn (s : State) (x : Context) (w : DWord) (e k : Nat) : EngIn :=
  { reg := (List.range 64).map fun r => (vGet x e r).1, sx := (sGet x (sxOf w)).toNat, fmts := fmtsOf x,
    gens := x.gens.lookD e [], free := s.free + 128 * k }

/-- Write what an engine computed, each register with the poison of the sources. -/
def engWrite (x : Context) (e : Nat) (ws : List (Nat × LineData)) (poison : Bool) : Context :=
  ws.foldl (fun x p => vPut x e p.1 (p.2, poison)) x

/-- What the checker compares of the result of an operation, by the format of its destination (R335, Table 07-14). -/
def checkedOut (x : Context) (w : DWord) (l : List LineData) : List (List Nat) :=
  let op := opOf w
  let fe := elemOf x (fmtOf w)
  let ge := elemOf x (fmt2Of w)
  let f := (fmtsOf x).getD (fmtOf w) {}
  let g := (fmtsOf x).getD (fmt2Of w) {}
  if op = Mo.vfma then checkedRegs fe false l
  else if op = Mo.cvt then checkedRegs ge (inPairs ge (bcastOf w)) l
  else if op = Mo.qnt then checkedRegs ge false l.dropLast ++ checkedRegs { cls := 1, width := 8 } false (l.drop (l.length - 1))
  else if ((op = Mo.dot || op = Mo.dotr) && intDot f g) || (op = Mo.red && f.cls = 1) then checkedRegs Fmt.i32 true l
  else if op = Mo.vclr then checkedRegs { cls := 1, width := 16 } false l
  else checkedRegs Fmt.b32 true l

/-- The snapshot that an instruction's latch holds on one engine (R127, R337). -/
def snapshot (i : EngIn) (srcs : List Nat) : Snapshot :=
  { regs := srcs.map fun r => (r, i.v r), sx := i.sx, gens := i.gens, free := i.free }

/-- Apply the result of one engine by its check (R127, R335, R336, R341): a wrong result that the residues show is withheld until its
verdict; one that they do not show is written. -/
def engApply (s : State) (n : Core) (c : Ctx) (x : Context) (w : DWord) (k : Check) (e : Nat) (srcs : List Nat) (i : EngIn) (o : EngOut) : State :=
  let poison := srcs.any fun r => (vGet x e r).2
  let good := o.writes.map (·.2)
  let dests := o.writes.map (·.1)
  let keep (vs : List LineData) (p : Bool) : State :=
    (s.updCtx n.val c.val fun x => { engWrite x e (dests.zip vs) p with gens := x.gens.put e o.gens }).setFlags n.val c.val o.flags
  match k with
  | .pass => keep good poison
  | .parity p => if p.eng.val ≠ e then keep good poison else (keep good (poison || !p.cleared)).parityCount n.val p.cleared
  | .wrong eng first again checker =>
    let a := first.getD good
    if eng.val ≠ e then keep good poison
    else if !checker && checkedOut x w a == checkedOut x w good then keep a poison
    else
      let s := (s.updCtx n.val c.val fun x => { x with phase := .dispute, gens := x.gens.put e o.gens }).setFlags n.val c.val o.flags
      s.uRas fun r => { r with
        disputes := r.disputes ++ [{ core := n.val, ctx := c.val, eng := e, op := w, snap := snapshot i srcs, good := good
                                     e := again.getD good, aEqE := a == again.getD good, checker := checker, dests := dests, poison := poison }] }

/-- An engine instruction on the engines it names. -/
def engineOp (s : State) (op : Nat) (n : Core) (c : Ctx) (w : Fetch) (k : Check) (f : EngIn → DWord → EngOut) : State :=
  s.micro op n c w fun x =>
    let w := w.word
    let fs := fmtsOf x
    let fa := fs.getD (fmtOf w) {}
    let fb := fs.getD (fmt2Of w) {}
    let srcs := engSrcs op fa (elemOf x (fmtOf w)) fb (elemOf x (fmt2Of w)) w
    let engs := enginesOf w
    let i0 := s.engIn x w 0 0
    if s.busyS n.val c.val (sxOf w) then s
    else if engs.any fun e => (srcs ++ ((f i0 w).writes.map (·.1))).any fun r => s.busyV n.val c.val e r then s
    else if !scaleOk op fa (elemOf x (fmtOf w)) fb (elemOf x (fmt2Of w)) i0 then s.stopCtx n.val c.val St.badRequest 0
    else
      let s1 := s.goOn n c x fun x => x
      let s1 := { s1 with free := s1.free + 512 }
      engs.foldl (fun t e => t.engApply n c x w k e srcs (s.engIn x w e e) (f (s.engIn x w e e) w)) s1

end State

/-! ### Meanings -/

/-- NOP (R167). -/
def execNop (n : Core) (c : Ctx) (w : Fetch) (s : State) : Host.Outcome State Fault Refusal :=
  .next (s.micro Mo.nop n c w fun x => s.goOn n c x id).settle
/-- SLI (R167): the sign-extended 50-bit immediate. -/
def execSli (n : Core) (c : Ctx) (w : Fetch) (k : Check) (s : State) : Host.Outcome State Fault Refusal :=
  .next (s.scalarOp Mo.sli n c w k [] fun _ => (w.word.extractLsb' 14 50).signExtend 64).settle
/-- SADD (R167). -/
def execSadd (n : Core) (c : Ctx) (w : Fetch) (k : Check) (s : State) : Host.Outcome State Fault Refusal :=
  .next (s.scalarOp Mo.sadd n c w k [aOf w.word, bOf w.word] fun x =>
    State.sGet x (aOf w.word) + State.sGet x (bOf w.word) + immOf w.word).settle
/-- SSUB (R167). -/
def execSsub (n : Core) (c : Ctx) (w : Fetch) (k : Check) (s : State) : Host.Outcome State Fault Refusal :=
  .next (s.scalarOp Mo.ssub n c w k [aOf w.word, bOf w.word] fun x =>
    State.sGet x (aOf w.word) - State.sGet x (bOf w.word)).settle
/-- SMUL (R167). -/
def execSmul (n : Core) (c : Ctx) (w : Fetch) (k : Check) (s : State) : Host.Outcome State Fault Refusal :=
  .next (s.scalarOp Mo.smul n c w k [aOf w.word, bOf w.word] fun x =>
    State.sGet x (aOf w.word) * State.sGet x (bOf w.word)).settle
/-- SAND (R167). -/
def execSand (n : Core) (c : Ctx) (w : Fetch) (k : Check) (s : State) : Host.Outcome State Fault Refusal :=
  .next (s.scalarOp Mo.sand n c w k [aOf w.word, bOf w.word] fun x =>
    State.sGet x (aOf w.word) &&& State.sGet x (bOf w.word)).settle
/-- SOR (R167). -/
def execSor (n : Core) (c : Ctx) (w : Fetch) (k : Check) (s : State) : Host.Outcome State Fault Refusal :=
  .next (s.scalarOp Mo.sor n c w k [aOf w.word, bOf w.word] fun x =>
    State.sGet x (aOf w.word) ||| State.sGet x (bOf w.word)).settle
/-- SXOR (R167). -/
def execSxor (n : Core) (c : Ctx) (w : Fetch) (k : Check) (s : State) : Host.Outcome State Fault Refusal :=
  .next (s.scalarOp Mo.sxor n c w k [aOf w.word, bOf w.word] fun x =>
    State.sGet x (aOf w.word) ^^^ State.sGet x (bOf w.word)).settle
/-- SSHL (R167). -/
def execSshl (n : Core) (c : Ctx) (w : Fetch) (k : Check) (s : State) : Host.Outcome State Fault Refusal :=
  .next (s.scalarOp Mo.sshl n c w k [aOf w.word, bOf w.word] fun x =>
    State.sGet x (aOf w.word) <<< State.shiftBy x w.word).settle
/-- SSHR (R167): logical. -/
def execSshr (n : Core) (c : Ctx) (w : Fetch) (k : Check) (s : State) : Host.Outcome State Fault Refusal :=
  .next (s.scalarOp Mo.sshr n c w k [aOf w.word, bOf w.word] fun x =>
    State.sGet x (aOf w.word) >>> State.shiftBy x w.word).settle
/-- SSRA (R167): arithmetic. -/
def execSsra (n : Core) (c : Ctx) (w : Fetch) (k : Check) (s : State) : Host.Outcome State Fault Refusal :=
  .next (s.scalarOp Mo.ssra n c w k [aOf w.word, bOf w.word] fun x =>
    (State.sGet x (aOf w.word)).sshiftRight (State.shiftBy x w.word)).settle
/-- BEQ (R167). -/
def execBeq (n : Core) (c : Ctx) (w : Fetch) (s : State) : Host.Outcome State Fault Refusal :=
  .next (s.branchOp Mo.beq n c w fun a b => a == b).settle
/-- BNE (R167). -/
def execBne (n : Core) (c : Ctx) (w : Fetch) (s : State) : Host.Outcome State Fault Refusal :=
  .next (s.branchOp Mo.bne n c w fun a b => a != b).settle
/-- BLT (R167): signed. -/
def execBlt (n : Core) (c : Ctx) (w : Fetch) (s : State) : Host.Outcome State Fault Refusal :=
  .next (s.branchOp Mo.blt n c w fun a b => a.slt b).settle
/-- BGE (R167): signed. -/
def execBge (n : Core) (c : Ctx) (w : Fetch) (s : State) : Host.Outcome State Fault Refusal :=
  .next (s.branchOp Mo.bge n c w fun a b => !a.slt b).settle
/-- SLD (R168). -/
def execSld (n : Core) (c : Ctx) (w : Fetch) (s : State) : Host.Outcome State Fault Refusal := .next (s.sld n c w).settle
/-- SST (R168, R170). -/
def execSst (n : Core) (c : Ctx) (w : Fetch) (s : State) : Host.Outcome State Fault Refusal := .next (s.sst n c w).settle
/-- SEXT (R145, R167). -/
def execSext (n : Core) (c : Ctx) (w : Fetch) (rf : Option RfParity) (s : State) : Host.Outcome State Fault Refusal :=
  .next (s.sext n c w rf).settle
/-- WAIT (R150). -/
def execWait (n : Core) (c : Ctx) (w : Fetch) (s : State) : Host.Outcome State Fault Refusal := .next (s.waitOp n c w).settle
/-- ATOM (R238). -/
def execAtom (n : Core) (c : Ctx) (w : Fetch) (s : State) : Host.Outcome State Fault Refusal := .next (s.atom n c w).settle
/-- END (R145, R177). -/
def execEndTask (n : Core) (c : Ctx) (w : Fetch) (s : State) : Host.Outcome State Fault Refusal := .next (s.endOp n c w).settle
/-- TXOPEN (R170). -/
def execTxopen (n : Core) (c : Ctx) (w : Fetch) (s : State) : Host.Outcome State Fault Refusal := .next (s.txopen n c w).settle
/-- TXCOMMIT (R106, R170). -/
def execTxcommit (n : Core) (c : Ctx) (w : Fetch) (s : State) : Host.Outcome State Fault Refusal := .next (s.txcommit n c w).settle
/-- TXABORT (R170). -/
def execTxabort (n : Core) (c : Ctx) (w : Fetch) (s : State) : Host.Outcome State Fault Refusal := .next (s.txabort n c w).settle
/-- TXCHK (R170). -/
def execTxchk (n : Core) (c : Ctx) (w : Fetch) (s : State) : Host.Outcome State Fault Refusal := .next (s.txchk n c w).settle
/-- VLD (R168, R190). -/
def execVld (n : Core) (c : Ctx) (w : Fetch) (s : State) : Host.Outcome State Fault Refusal := .next (s.vld n c w).settle
/-- VST (R144, R168). -/
def execVst (n : Core) (c : Ctx) (w : Fetch) (rf : Option RfParity) (s : State) : Host.Outcome State Fault Refusal :=
  .next (s.vst n c w rf).settle
/-- VLDS (R124, R180). -/
def execVlds (n : Core) (c : Ctx) (w : Fetch) (ecc : ScratchEcc) (s : State) : Host.Outcome State Fault Refusal :=
  .next (s.vlds n c w ecc).settle
/-- VSTS (R124, R180). -/
def execVsts (n : Core) (c : Ctx) (w : Fetch) (rf : Option RfParity) (s : State) : Host.Outcome State Fault Refusal :=
  .next (s.vsts n c w rf).settle
/-- VCLR (R167). -/
def execVclr (n : Core) (c : Ctx) (w : Fetch) (k : Check) (s : State) : Host.Outcome State Fault Refusal :=
  .next (s.engineOp Mo.vclr n c w k engVclr).settle
/-- VFMA (R139). -/
def execVfma (n : Core) (c : Ctx) (w : Fetch) (k : Check) (s : State) : Host.Outcome State Fault Refusal :=
  .next (s.engineOp Mo.vfma n c w k engVfma).settle
/-- WFMA (R139). -/
def execWfma (n : Core) (c : Ctx) (w : Fetch) (k : Check) (s : State) : Host.Outcome State Fault Refusal :=
  .next (s.engineOp Mo.wfma n c w k engWfma).settle
/-- WMAX (R167). -/
def execWmax (n : Core) (c : Ctx) (w : Fetch) (k : Check) (s : State) : Host.Outcome State Fault Refusal :=
  .next (s.engineOp Mo.wmax n c w k (engMaxMin false)).settle
/-- WMIN (R167). -/
def execWmin (n : Core) (c : Ctx) (w : Fetch) (k : Check) (s : State) : Host.Outcome State Fault Refusal :=
  .next (s.engineOp Mo.wmin n c w k (engMaxMin true)).settle
/-- WEXP2 (R167). -/
def execWexp2 (n : Core) (c : Ctx) (w : Fetch) (k : Check) (s : State) : Host.Outcome State Fault Refusal :=
  .next (s.engineOp Mo.wexp2 n c w k engWexp2).settle
/-- WRCP (R167). -/
def execWrcp (n : Core) (c : Ctx) (w : Fetch) (k : Check) (s : State) : Host.Outcome State Fault Refusal :=
  .next (s.engineOp Mo.wrcp n c w k engWrcp).settle
/-- WRSQ (R167). -/
def execWrsq (n : Core) (c : Ctx) (w : Fetch) (k : Check) (s : State) : Host.Outcome State Fault Refusal :=
  .next (s.engineOp Mo.wrsq n c w k engWrsq).settle
/-- WSQRT (R167). -/
def execWsqrt (n : Core) (c : Ctx) (w : Fetch) (k : Check) (s : State) : Host.Outcome State Fault Refusal :=
  .next (s.engineOp Mo.wsqrt n c w k engWsqrt).settle
/-- WDIV (R167). -/
def execWdiv (n : Core) (c : Ctx) (w : Fetch) (k : Check) (s : State) : Host.Outcome State Fault Refusal :=
  .next (s.engineOp Mo.wdiv n c w k engWdiv).settle
/-- CVT (R140). -/
def execCvt (n : Core) (c : Ctx) (w : Fetch) (k : Check) (s : State) : Host.Outcome State Fault Refusal :=
  .next (s.engineOp Mo.cvt n c w k engCvt).settle
/-- QNT (R141). -/
def execQnt (n : Core) (c : Ctx) (w : Fetch) (k : Check) (s : State) : Host.Outcome State Fault Refusal :=
  .next (s.engineOp Mo.qnt n c w k engQnt).settle
/-- DOT (R134, R143). -/
def execDot (n : Core) (c : Ctx) (w : Fetch) (k : Check) (s : State) : Host.Outcome State Fault Refusal :=
  .next (s.engineOp Mo.dot n c w k engDot).settle
/-- DOTR (R143, R167). -/
def execDotr (n : Core) (c : Ctx) (w : Fetch) (k : Check) (s : State) : Host.Outcome State Fault Refusal :=
  .next (s.engineOp Mo.dotr n c w k engDotr).settle
/-- WMAC (R167). -/
def execWmac (n : Core) (c : Ctx) (w : Fetch) (k : Check) (s : State) : Host.Outcome State Fault Refusal :=
  .next (s.engineOp Mo.wmac n c w k engWmac).settle
/-- RED (R143, R167). -/
def execRed (n : Core) (c : Ctx) (w : Fetch) (k : Check) (s : State) : Host.Outcome State Fault Refusal :=
  .next (s.engineOp Mo.red n c w k engRed).settle
/-- WBC (R167). -/
def execWbc (n : Core) (c : Ctx) (w : Fetch) (k : Check) (s : State) : Host.Outcome State Fault Refusal :=
  .next (s.engineOp Mo.wbc n c w k engWbc).settle

end Sys2Proof.Machine
end

