-- ==== Sys2Proof/Machine/KernelPlans.lean ====
section
/-! DEFINITION. What the built-in kernels read and compute: descriptor checks (R148, R153, R154, Tables 07-1 to 07-11), the lines
each unit of work needs, and the bytes it stores (R155 to R163). -/

namespace Sys2Proof.Machine

/-! ### Descriptor fields -/

namespace Context

/-- A latched format. -/
def fmt (x : Context) (k : Nat) : Fmt := Fmt.ofReg (x.task.fmts.getD k 0)

/-- The element format of a latched format. -/
def elem (x : Context) (f : Fmt) : Fmt := if f.cls = 2 then x.fmt f.elem else f

/-- SAT of a conversion: the header's choice, or the destination descriptor's (Table 07-1). -/
def settle (x : Context) (f : Fmt) : Settle := .table (if x.mode / 8 % 2 = 1 then x.mode / 16 % 2 == 1 else f.sat)

end Context

/-- A tensor reference (R154). -/
structure TRef where
  addr : Nat
  scale : Nat
  deriving DecidableEq, Repr

def trefAt (b : List Byte) (i : Nat) : TRef := ⟨leNat b i 8, leNat b (i + 8) 8⟩

/-- Block size of an MX format (Table 06-7). -/
def Fmt.blk (f : Fmt) : Nat := if f.block = 0 then 32 else f.block

/-! ### Checks (R148) -/

/-- A format index names a descriptor with VALID = 1 that the kind accepts. -/
def fmtIs (x : Context) (k : Nat) (p : Fmt → Bool) : Bool := decide (k < 64) && (x.fmt k).valid && p (x.fmt k)

def notI32 (f : Fmt) : Bool := !(f.cls == 1 && f.width == 32)

/-- An address without reserved bits; a plan's descriptor carries fabric addresses (R154, R208). -/
def addrOk (x : Context) (a align : Nat) : Bool := a % align == 0 && (x.task.plan.isSome || decide (a < 2 ^ 57))

/-- A tensor reference that suits its format (R154). -/
def trefOk (x : Context) (t : TRef) (k : Nat) : Bool :=
  addrOk x t.addr 128 && (if (x.fmt k).cls = 2 then addrOk x t.scale 8 else t.scale == 0)

/-- A count from 1 to n; whole blocks for each MX format named. -/
def countOk (x : Context) (c n : Nat) (ks : List Nat) : Bool :=
  decide (1 ≤ c) && decide (c ≤ n) && ks.all fun k => (x.fmt k).cls != 2 || c % (x.fmt k).blk == 0

/-- Lines that n elements of a format take from a reference. -/
def elemLines (x : Context) (k : Nat) (scale n : Nat) : Nat :=
  let f := x.fmt k
  (n * (x.elem f).width / 8 + 127) / 128 + (if f.cls = 2 then (scale % 128 + n / f.blk + 127) / 128 else 0)

/-- Lines that a compare-and-swap sweep touches. -/
def sweepLines (x : Context) : Nat :=
  let stride := x.fld 20 4
  let count := x.fld 24 8
  let base := x.fld 32 8
  if stride ≤ 128 then (base + (count - 1) * stride) / 128 - base / 128 + 1 else count

/-- A descriptor of binary32, binary16 or bfloat16 (Table 06-6). -/
def floatIdx (k : Nat) : Bool := decide (k < 3)

/-- The checks of one kind beyond the header's. -/
def kindOk (s : State) (x : Context) : Bool :=
  let d := x.task.desc
  let b (i : Nat) : Nat := x.fld i 1
  match x.kind with
  | 0x01 =>
    let nsrc := x.fld 16 2
    x.fld 1 1 == 4 && decide (1 ≤ nsrc) && decide (nsrc ≤ 16) && decide (b 18 ≤ 3) && zeroBytes d 21 3 && zeroBytes d 56 8
      && fmtIs x (b 19) notI32
      && fmtIs x (b 20) (fun f => notI32 f || ((x.fmt (b 19)).cls == 1 && b 18 == 0))
      && countOk x (x.fld 24 8) (2 ^ 40) [b 19, b 20] && trefOk x (trefAt d 32) (b 20) && addrOk x (x.fld 48 8) 16
  | 0x02 =>
    x.fld 1 1 == 5 && zeroBytes d 26 2 && zeroBytes d 36 12 && fmtIs x (b 24) notI32 && fmtIs x (b 25) (fun f => f.cls != 1)
      && countOk x (x.fld 16 8) (2 ^ 40) [b 24, b 25] && trefOk x (trefAt d 48) (b 24) && trefOk x (trefAt d 64) (b 25)
  | 0x03 =>
    let chunk := x.fld 26 2
    let wout := b 25
    let noW := wout == 0xFF
    let wl := (chunk * 4 + 127) / 128
    x.fld 1 1 == 8 && zeroBytes d 29 3 && zeroBytes d 88 8 && decide (b 28 ≤ 15)
      && fmtIs x (b 24) (fun f => f.cls == 2 || floatIdx (b 24)) && (noW || fmtIs x wout (fun f => f.cls != 1))
      && countOk x (x.fld 16 8) (2 ^ 40) ([b 24] ++ if noW then [] else [wout])
      && [64, 72, 80].all (fun i => addrOk x (x.fld i 8) 128)
      && trefOk x (trefAt d 96) (b 24) && (if noW then zeroBytes d 112 16 else trefOk x (trefAt d 112) wout)
      && (if x.txn then
            decide (64 ≤ chunk) && decide (chunk ≤ 4096) && chunk % 64 == 0
              && decide (3 * wl + elemLines x (b 24) (x.fld 104 8) chunk ≤ 256)
              && decide (3 * wl + (if noW then 0 else elemLines x wout (x.fld 120 8) chunk) ≤ 64)
          else chunk == 0)
  | 0x04 =>
    let dd := x.fld 16 2
    let t := x.fld 18 2
    let np := x.fld 32 4
    x.fld 1 1 == 8 && zeroBytes d 36 4 && zeroBytes d 72 56 && [64, 128, 256].contains dd
      && decide (8 ≤ t) && decide (t ≤ 1024) && t % 8 == 0 && decide (2 * t * dd + 2 * (t * (dd / 32)) ≤ 65536)
      && [1, 2, 4, 8].contains (b 20) && fmtIs x (b 21) (fun _ => floatIdx (b 21))
      && (b 22 == 10 || b 22 == 11 || decide (16 ≤ b 22)) && fmtIs x (b 22) (fun f => f.cls == 2 && (x.elem f).width == 8 && f.blk == 32) && fmtIs x (b 23) (fun _ => floatIdx (b 23))
      && decide (1 ≤ np) && decide (np ≤ 65536) && decide (1 ≤ x.fld 28 4) && decide (x.fld 28 4 ≤ np * t)
      && addrOk x (x.fld 40 8) 8 && addrOk x (x.fld 48 8) 128 && addrOk x (x.fld 56 8) 128 && addrOk x (x.fld 64 8) 4
  | 0x05 =>
    let dim := x.fld 16 2
    let tf := x.fmt (b 18)
    x.fld 1 1 == 6 && zeroBytes d 21 3 && zeroBytes d 80 16 && decide (32 ≤ dim) && decide (dim ≤ 8192)
      && fmtIs x (b 18) (fun f => f.cls != 2 && (f.width == 8 || f.width == 16)) && dim * tf.width / 8 % 128 == 0
      && fmtIs x (b 19) (fun _ => floatIdx (b 19)) && decide (b 20 ≤ 2) && decide (1 ≤ x.fld 28 4) && decide (x.fld 28 4 ≤ 2 ^ 24)
      && addrOk x (x.fld 40 8) 128 && addrOk x (x.fld 48 8) 4 && addrOk x (x.fld 56 8) 4 && addrOk x (x.fld 64 8) 4
      && (b 20 != 2 || x.fld 64 8 == 0) && addrOk x (x.fld 72 8) 128
  | 0x06 =>
    x.fld 1 1 == 4 && zeroBytes d 26 6 && fmtIs x (b 24) notI32 && fmtIs x (b 25) notI32
      && countOk x (x.fld 16 8) (2 ^ 40) [b 24, b 25] && trefOk x (trefAt d 32) (b 24) && trefOk x (trefAt d 48) (b 25)
  | 0x07 =>
    let w := b 16
    x.fld 1 1 == 4 && (w == 4 || w == 8) && zeroBytes d 17 3 && decide (x.fld 20 4 ≠ 0) && x.fld 20 4 % w == 0
      && decide (1 ≤ x.fld 24 8) && decide (x.fld 24 8 ≤ 2 ^ 32) && addrOk x (x.fld 32 8) w
      && (!x.txn || decide (sweepLines x ≤ 64))
  | 0x10 =>
    x.fld 1 1 == 6 && (match s.seqs.look (b 3) with
      | some q => q.partition == x.task.partition && !q.invalid
      | none => false)
  | _ => false

/-- The whole descriptor check (R148). -/
def descOk (s : State) (x : Context) : Bool :=
  let k := x.kind
  x.mode / 128 == 0 && x.kround != 5 && x.kround != 6 && zeroBytes x.task.desc 4 4
    && (k == 0x10 || x.fld 3 1 == 0) && (!x.txn || k == 0x03 || k == 0x07) && kindOk s x

/-! ### Lines read -/

/-- Lines that n bytes from address a touch. -/
def spanLines (a n : Nat) : List Nat := if n = 0 then [] else (List.range ((a + n - 1) / 128 - a / 128 + 1)).map (a / 128 + ·)

/-- A line that a kernel has read for its unit, or once for the whole task. -/
def gotLine (x : Context) (l : Nat) : Option (LineData × Bool) := (x.kept.look l).or (x.got.look l)

/-- n bytes from address a of the lines a kernel has read. -/
def gotBytes (x : Context) (a n : Nat) : List Byte :=
  (List.range n).map fun j => lineByte ((gotLine x ((a + j) / 128)).getD (0, false)).1 ((a + j) % 128)

def gotNat (x : Context) (a k : Nat) : Nat := leNat (gotBytes x a k) 0 k

/-- A line read among those of n bytes from address a is poisoned. -/
def gotPoison (x : Context) (a n : Nat) : Bool := (spanLines a n).any fun l => ((gotLine x l).getD (0, false)).2

/-- Bytes of n elements of width w. -/
def elemBytes (w n : Nat) : Nat := (n * w + 7) / 8

/-- Lines of n elements from element i of a tensor, with their scales. -/
def tensorLines (x : Context) (f : Fmt) (t : TRef) (i n : Nat) : List Nat :=
  let w := (x.elem f).width
  spanLines (t.addr + i * w / 8) (elemBytes w n)
    ++ if f.cls = 2 then spanLines (t.scale + i / f.blk) ((n + f.blk - 1) / f.blk) else []

/-- The elements of a tensor as numbers (R132). -/
def tensorNums (x : Context) (f : Fmt) (t : TRef) (i n : Nat) : List Num :=
  let e := x.elem f
  let xs := unpack e.width n (gotBytes x (t.addr + i * e.width / 8) (elemBytes e.width n))
  if f.cls = 2 then
    (List.range n).map fun j =>
      match scaleExp (gotNat x (t.scale + (i + j) / f.blk) 1) with
      | none => .nan
      | some k => (e.decodeElem (xs.getD j 0)).scale k
  else xs.map e.decode

/-- Poison of each element: of the line that holds it or its scale. -/
def tensorPoison (x : Context) (f : Fmt) (t : TRef) (i n : Nat) : List Bool :=
  let w := (x.elem f).width
  (List.range n).map fun j =>
    gotPoison x (t.addr + (i + j) * w / 8) 1 || (f.cls == 2 && gotPoison x (t.scale + (i + j) / f.blk) 1)

/-! ### Bytes stored -/

/-- Bytes with their poison, from address a, line by line. -/
def bytePuts (a : Nat) (bs : List (Byte × Bool)) : List KPut :=
  (spanLines a bs.length).map fun l =>
    let lo := max a (l * 128)
    let part := (bs.drop (lo - a)).take (min (a + bs.length) (l * 128 + 128) - lo)
    let (d, m) := State.placeBytes (lo % 128) (part.map (·.1))
    ⟨l * 128, d, m, part.any (·.2)⟩

/-- Poison of the bytes of packed elements: a byte is poisoned when an element in it is. -/
def packPoison (w : Nat) (ps : List Bool) : List Bool :=
  (List.range (elemBytes w ps.length)).map fun b => ps.getD (8 * b / w) false || ps.getD ((8 * b + 7) / w) false

/-- What a unit of work stores, its flags, and the generators of the engine that rounds it. -/
structure Work where
  puts : List KPut
  flags : Flags := 0
  gens : List (BitVec 32)
  deriving DecidableEq, Repr

/-- Convert numbers into elements i, i + 1, … of a tensor (R140, R141). -/
def convertTo (x : Context) (f : Fmt) (t : TRef) (i : Nat) (gens : List (BitVec 32)) (xs : List (Num × Bool)) : Work :=
  let e := x.elem f
  let ps := xs.map (·.2)
  let mode := if x.kround = 7 then f.round else x.kround
  let nums := ((List.range xs.length).map fun j => laneOf e.width j % 64).zip (xs.map (·.1))
  if f.cls = 2 then
    let (scs, out, fl, g) := quantBlocks f e (x.settle f) mode f.blk ((xs.length + f.blk - 1) / f.blk) gens nums
    let sp := (List.range scs.length).map fun b => ((ps.drop (b * f.blk)).take f.blk).any id
    { puts := bytePuts (t.addr + i * e.width / 8) ((packBytes e.width out).zip (packPoison e.width ps))
        ++ bytePuts (t.scale + i / f.blk) ((scs.map (BitVec.ofNat 8)).zip sp), flags := fl, gens := g }
  else
    let (out, fl, g) := roundAll f (x.settle f) mode gens nums
    { puts := bytePuts (t.addr + i * e.width / 8) ((packBytes e.width out).zip (packPoison e.width ps)), flags := fl, gens := g }

/-- Binary32 values stored as they are. -/
def wordPuts (a : Nat) (xs : List (Nat × Bool)) : List KPut :=
  bytePuts a (xs.flatMap fun v => (State.leBytes v.1 4).map fun b => (b, v.2))

/-! ### binary32 arithmetic with RNE -/

/-- Round an exact result made of operands. -/
def f32 (ops : List Num) (n : Num) : Nat × Flags :=
  let (v, fl) := Fmt.b32.encode .ieee 0 0 n
  (v, fl ||| madeNan ops n)

def num32 (a : Nat) : Num := Fmt.b32.decode a
def fmul32 (a b : Nat) : Nat × Flags := f32 [num32 a, num32 b] ((num32 a).mul (num32 b))
def fsub32 (a b : Nat) : Nat × Flags := f32 [num32 a, num32 b] ((num32 a).add false (num32 b).neg)
def fdiv32 (a b : Nat) : Nat × Flags := f32 [num32 a, num32 b] (divNum (num32 a) (num32 b))
def fsqrt32 (a : Nat) : Nat × Flags := f32 [num32 a] (sqrtNum (num32 a))
def ffma32 (a b c : Nat) : Nat × Flags := Fmt.b32.fma 0 0 a b c

/-- The value 1 in binary32. -/
def one32 : Nat := 0x3F800000

/-- A number rounded to binary32. -/
def toB32 (n : Num) : Nat × Flags := f32 [n] n

/-- 1/n in binary32. -/
def recip32 (n : Nat) : Nat × Flags := f32 [] (divNum (.fin false 1 0) (.fin false n 0))

/-! ### Plans -/

/-- What a kernel does next for its unit: read lines, store what it has computed, or stop. -/
inductive KPlan where
  | need (lines : List Nat)
  /-- Work, the free values used, and what the unit adds to RESULT1 or leaves in it. -/
  | work (w : Work) (drawn aux : Nat)
  | stop (status : Nat)
  deriving DecidableEq, Repr

/-- Go on once every line is read. -/
def withLines (x : Context) (ls : List Nat) (k : Unit → KPlan) : KPlan :=
  let m := ls.filter fun l => (gotLine x l).isNone
  if m.isEmpty then k () else .need m

/-- Elements of a unit of the streaming kernels. -/
def unitElems : Nat := 512

/-- First element and number of elements of the unit. -/
def unitRange (x : Context) (count size : Nat) : Nat × Nat := (x.unit * size, min size (count - x.unit * size))

/-- Generators of the engine that rounds a unit. -/
def unitGens (x : Context) : List (BitVec 32) := x.gens.lookD (x.unit % 4) []

/-- REDUCE (R155). A plan's task carries its tensor references behind its descriptor (R208). -/
def planReduce (x : Context) (free : Nat) : KPlan :=
  let nsrc := x.fld 16 2
  let op := x.fld 18 1
  let f := x.fmt (x.fld 19 1)
  let g := x.fmt (x.fld 20 1)
  let list := x.fld 48 8
  let (i, n) := unitRange x (x.fld 24 8) unitElems
  let own := x.task.plan.isSome
  withLines x (if own then [] else spanLines list (16 * nsrc)) fun _ =>
    if !own && gotPoison x list (16 * nsrc) then .stop St.poison
    else
      let srcs := (List.range nsrc).map fun k => if own then trefAt x.task.desc (64 + 16 * k) else trefAt (gotBytes x (list + 16 * k) 16) 0
      if srcs.any fun t => !trefOk x t (x.fld 19 1) then .stop St.badRequest
      else withLines x (srcs.flatMap fun t => tensorLines x f t i n) fun _ =>
        let cols := srcs.map fun t => tensorNums x f t i n
        let pois := srcs.map fun t => tensorPoison x f t i n
        let int := f.cls == 1 && op == 0
        let kind := if op = 3 then 0 else op
        let inv := recip32 nsrc
        let one (j : Nat) : Num × Flags :=
          let vs := cols.map fun c =>
            if int then Fmt.i32.encodeInt 0 0 (c.getD j .nan) else toB32 (c.getD j .nan)
          let (r, fl) := combine (redOp int kind) nsrc (free + 32 * j) (vs.map (·.1))
          let (r, fl2) := if op = 3 then fmul32 r inv.1 else (r, 0)
          (if int then Fmt.i32.decode r else num32 r, fl ||| fl2 ||| orFlags (vs.map (·.2)))
        let rs := (List.range n).map one
        let w := convertTo x g (trefAt x.task.desc 32) i (unitGens x)
          ((List.range n).map fun j => ((rs.getD j (.nan, 0)).1, pois.any fun p => p.getD j false))
        .work { w with flags := w.flags ||| orFlags (rs.map (·.2)) } (32 * n) 0

/-- SCALE_ACC (R156). -/
def planScaleAcc (x : Context) : KPlan :=
  let f := x.fmt (x.fld 24 1)
  let g := x.fmt (x.fld 25 1)
  let tx := trefAt x.task.desc 48
  let ty := trefAt x.task.desc 64
  let alpha := x.fld 28 4
  let beta := x.fld 32 4
  let (i, n) := unitRange x (x.fld 16 8) unitElems
  let readY := decide (beta ≠ 0)
  withLines x (tensorLines x f tx i n ++ if readY then tensorLines x g ty i n else []) fun _ =>
    let xs := tensorNums x f tx i n
    let ys := if readY then tensorNums x g ty i n else []
    let px := tensorPoison x f tx i n
    let py := if readY then tensorPoison x g ty i n else []
    let one (j : Nat) : Nat × Flags :=
      let (a, f1) := toB32 (xs.getD j .nan)
      if readY then
        let (b, f2) := toB32 (ys.getD j .nan)
        let (c, f3) := fmul32 beta b
        let (r, f4) := ffma32 alpha a c
        (r, f1 ||| f2 ||| f3 ||| f4)
      else
        let (r, f4) := ffma32 alpha a 0
        (r, f1 ||| f4)
    let rs := (List.range n).map one
    let w := convertTo x g ty i (unitGens x)
      ((List.range n).map fun j => (num32 (rs.getD j (0, 0)).1, px.getD j false || py.getD j false))
    .work { w with flags := w.flags ||| orFlags (rs.map (·.2)) } 0 0

/-- QUANTIZE (R162). -/
def planQuantize (x : Context) : KPlan :=
  let f := x.fmt (x.fld 24 1)
  let g := x.fmt (x.fld 25 1)
  let ts := trefAt x.task.desc 32
  let (i, n) := unitRange x (x.fld 16 8) unitElems
  withLines x (tensorLines x f ts i n) fun _ =>
    .work (convertTo x g (trefAt x.task.desc 48) i (unitGens x) ((tensorNums x f ts i n).zip (tensorPoison x f ts i n))) 0 0

/-- One parameter of OPT_STEP (R157): new w, m and v. The grouping of the two chains of equal operators is a free choice (R146). -/
def optOne (x : Context) (gin w m v pick : Nat) : (Nat × Nat × Nat) × Flags :=
  let c (i : Nat) : Nat := x.fld i 4
  let (g, f0) := fmul32 (c 60) gin
  let (nb1, f1) := fsub32 one32 (c 36)
  let (nb2, f2) := fsub32 one32 (c 40)
  let (m1, f3) := fmul32 (c 36) m
  let (m2, f4) := fmul32 nb1 g
  let (m', f5) := fadd32 m1 m2
  let (v1, f6) := fmul32 (c 40) v
  let (v2, f7) :=
    if pick % 2 = 0 then let (a, e) := fmul32 nb2 g; let (b, e') := fmul32 a g; (b, e ||| e')
    else let (a, e) := fmul32 g g; let (b, e') := fmul32 nb2 a; (b, e ||| e')
  let (v', f8) := fadd32 v1 v2
  let (d1, f9) := fmul32 (c 56) v'
  let (d2, fa) := fsqrt32 d1
  let (d3, fb) := fadd32 d2 (c 44)
  let (q, fc) :=
    if pick / 2 % 2 = 0 then let (a, e) := fmul32 (c 52) m'; let (b, e') := fdiv32 a d3; (b, e ||| e')
    else let (a, e) := fdiv32 m' d3; let (b, e') := fmul32 (c 52) a; (b, e ||| e')
  let (wd, fd) := fmul32 (c 48) w
  let (t, fe) := fadd32 q wd
  let (u, ff) := fmul32 (c 32) t
  let (w', fg) := fsub32 w u
  ((w', m', v'), orFlags [f0, f1, f2, f3, f4, f5, f6, f7, f8, f9, fa, fb, fc, fd, fe, ff, fg])

/-- OPT_STEP over one unit of parameters (R157). -/
def planOpt (x : Context) (free : Nat) : KPlan :=
  let size := if x.txn then x.fld 26 2 else unitElems
  let (i, n) := unitRange x (x.fld 16 8) size
  let f := x.fmt (x.fld 24 1)
  let tg := trefAt x.task.desc 96
  let at_ (k : Nat) : Nat := x.fld k 8 + 4 * i
  withLines x ([64, 72, 80].flatMap (fun k => spanLines (at_ k) (4 * n)) ++ tensorLines x f tg i n) fun _ =>
    let gs := tensorNums x f tg i n
    let pg := tensorPoison x f tg i n
    let old (k j : Nat) : Nat := gotNat x (at_ k + 4 * j) 4
    let bad (j : Nat) : Bool := pg.getD j false || [64, 72, 80].any fun k => gotPoison x (at_ k + 4 * j) 4
    let pick := (Config.freeWord free).toNat
    let rs := (List.range n).map fun j =>
      let (g, fl) := toB32 (gs.getD j .nan)
      let (r, fl2) := optOne x g (old 64 j) (old 72 j) (old 80 j) pick
      (r, bad j, fl ||| fl2)
    let out (k : Nat) (sel : Nat × Nat × Nat → Nat) : List KPut := wordPuts (at_ k) (rs.map fun r => (sel r.1, r.2.1))
    let wout := x.fld 25 1
    let w : Work :=
      if wout = 0xFF then { puts := [], gens := unitGens x }
      else convertTo x (x.fmt wout) (trefAt x.task.desc 112) i (unitGens x) (rs.map fun r => (num32 r.1.1, r.2.1))
    .work { w with puts := out 64 (·.1) ++ out 72 (·.2.1) ++ out 80 (·.2.2) ++ w.puts
                   flags := w.flags ||| orFlags (rs.map (·.2.2)) } 1 0

/-- A sum of binary32 values in an order that free values pick; an empty sum is zero (R146). -/
def freeSum (free : Nat) (xs : List Nat) : Nat × Flags := if xs.isEmpty then (0, 0) else combine fadd32 xs.length free xs

/-- Lines of the query elements of a DECODE_ATTN task, which it reads once (R160). -/
def queryLines (x : Context) : List Nat := tensorLines x (x.fmt (x.fld 21 1)) ⟨x.fld 48 8, 0⟩ 0 (x.fld 20 1 * x.fld 16 2)

/-- One query head of DECODE_ATTN (R160). -/
def planAttn (x : Context) (free : Nat) : KPlan :=
  let d := x.fld 16 2
  let slots := x.fld 18 2
  let qf := x.fmt (x.fld 21 1)
  let kf := x.fmt (x.fld 22 1)
  let ofm := x.fmt (x.fld 23 1)
  let ntok := x.fld 28 4
  let pages := x.fld 40 8
  let used := (ntok + slots - 1) / slots
  let tq : TRef := ⟨x.fld 48 8, 0⟩
  withLines x (queryLines x ++ spanLines pages (8 * used)) fun _ =>
    if gotPoison x pages (8 * used) then .stop St.poison
    else
      let page (k : Nat) : Nat := gotNat x (pages + 8 * k) 8
      if (List.range used).any fun k => page k % 65536 ≠ 0 then .stop St.badRequest
      else
        let live (k : Nat) : Nat := min slots (ntok - k * slots)
        let keys (k : Nat) : TRef := ⟨page k, page k + 2 * slots * d⟩
        let vals (k : Nat) : TRef := ⟨page k + slots * d, page k + 2 * slots * d + slots * (d / 32)⟩
        withLines x ((List.range used).flatMap fun k =>
            tensorLines x kf (keys k) 0 (live k * d) ++ tensorLines x kf (vals k) 0 (live k * d)) fun _ =>
          let e := x.elem kf
          let q0 := tensorNums x qf tq (x.unit * d) d
          let (scs, qe, f0, _) := quantBlocks kf e (x.settle kf) 0 32 (d / 32) [] ((List.range d).map fun j => (j % 64, q0.getD j .nan))
          let q := (List.range d).map fun j =>
            match scaleExp (scs.getD (j / 32) 255) with
            | none => Num.nan
            | some k => (e.decodeElem (qe.getD j 0)).scale k
          let tok (f : Nat → TRef) (t : Nat) : List Num := tensorNums x kf (f (t / slots)) (t % slots * d) d
          let step : List (Nat × Flags) := (List.range ntok).map fun t =>
            let parts := (List.range ((d + 127) / 128)).map fun h =>
              accumulate false 0 (products ((q.drop (128 * h)).take 128) (((tok keys t).drop (128 * h)).take 128)) []
            let (dot, f1) := freeSum (free + 4 * t) (parts.map (·.1))
            let (sc, f2) := fmul32 (x.fld 24 4) dot
            (sc, orFlags (parts.map (·.2)) ||| f1 ||| f2)
          let ss := step.map (·.1)
          let big := (ss.drop 1).foldl (maxMin false) (ss.headD 0)
          let base := free + 4 * ntok
          let es := (List.range ntok).map fun t => (Config.expApprox (base + t) (BitVec.ofNat 32 (fsub32 (ss.getD t 0) big).1)).toNat
          let (tot, f3) := freeSum (base + ntok) es
          let out : List (Nat × Flags) := (List.range d).map fun j =>
            let ts : List (Nat × Flags) := (List.range ntok).map fun t =>
              let (v, a) := toB32 ((tok vals t).getD j .nan)
              let (p, b) := fmul32 (es.getD t 0) v
              (p, a ||| b)
            let (sum, a) := freeSum (base + 3 * ntok + 2 * ntok * j) (ts.map (·.1))
            let (r, b) := fdiv32 sum tot
            (r, orFlags (ts.map (·.2)) ||| a ||| b)
          let bad := gotPoison x (tq.addr + x.unit * d * qf.width / 8) (d * qf.width / 8)
            || (List.range used).any fun k =>
              (tensorLines x kf (keys k) 0 (live k * d) ++ tensorLines x kf (vals k) 0 (live k * d)).any fun l =>
                ((gotLine x l).getD (0, false)).2
          let w := convertTo x ofm ⟨x.fld 56 8, 0⟩ (x.unit * d) (unitGens x) (out.map fun r => (num32 r.1, bad))
          let ln := (Config.lnApprox (base + 2 * ntok) (BitVec.ofNat 32 tot)).toNat
          let (lse, f4) := fadd32 big ln
          let lputs := if x.fld 64 8 = 0 then [] else wordPuts (x.fld 64 8 + 4 * x.unit) [(lse, bad)]
          .work { w with puts := w.puts ++ lputs
                         flags := orFlags ([w.flags, f0, f3, f4] ++ step.map (·.2) ++ out.map (·.2)) }
            (7 * ntok + 2 * ntok * d) 0

/-- One bag of GATHER_REDUCE (R161). -/
def planGather (x : Context) (free : Nat) : KPlan :=
  let dim := x.fld 16 2
  let tf := x.fmt (x.fld 18 1)
  let op := x.fld 20 1
  let offs := x.fld 56 8 + 4 * x.unit
  let idx := x.fld 48 8
  let wts := x.fld 64 8
  withLines x (spanLines offs 8) fun _ =>
    if gotPoison x offs 8 then .stop St.poison
    else
      let lo := gotNat x offs 4
      let hi := gotNat x (offs + 4) 4
      let n := hi - lo
      if hi < lo then .stop St.badRequest
      else withLines x (spanLines (idx + 4 * lo) (4 * n) ++ if wts = 0 then [] else spanLines (wts + 4 * lo) (4 * n)) fun _ =>
        if gotPoison x (idx + 4 * lo) (4 * n) then .stop St.poison
        else
          let rows := (List.range n).map fun k => gotNat x (idx + 4 * (lo + k)) 4
          if rows.any fun r => decide (x.fld 32 8 ≤ r) then .stop St.badRequest
          else
            let t (r : Nat) : TRef := ⟨x.fld 40 8 + r * (dim * tf.width / 8), 0⟩
            withLines x (rows.flatMap fun r => tensorLines x tf (t r) 0 dim) fun _ =>
              let wt (k : Nat) : Nat := if wts = 0 then one32 else gotNat x (wts + 4 * (lo + k)) 4
              let wbad (k : Nat) : Bool := wts != 0 && gotPoison x (wts + 4 * (lo + k)) 4
              let coef : List (Nat × Flags) := (List.range n).map fun k =>
                let (a, f1) := if op = 1 then fmul32 (wt k) (recip32 n).1 else (wt k, 0)
                let (b, f2) := fmul32 a (x.fld 24 4)
                (b, f1 ||| f2)
              let data := rows.map fun r => tensorNums x tf (t r) 0 dim
              let pois := rows.map fun r => tensorPoison x tf (t r) 0 dim
              let one (j : Nat) : Nat × Bool × Flags :=
                let ts := (List.range n).map fun k => f32 [num32 (coef.getD k (0, 0)).1, (data.getD k []).getD j .nan]
                  ((num32 (coef.getD k (0, 0)).1).mul ((data.getD k []).getD j .nan))
                let (r, fl) := if op = 2 then (((ts.map (·.1)).drop 1).foldl (maxMin false) ((ts.map (·.1)).headD 0), 0)
                  else freeSum (free + 2 * n * j) (ts.map (·.1))
                (r, (List.range n).any (fun k => (pois.getD k []).getD j false || wbad k), fl ||| orFlags (ts.map (·.2)))
              let rs := (List.range dim).map one
              let w := convertTo x (x.fmt (x.fld 19 1)) ⟨x.fld 72 8, 0⟩ (x.unit * dim) (unitGens x)
                (rs.map fun r => (num32 r.1, r.2.1))
              .work { w with flags := w.flags ||| orFlags (coef.map (·.2) ++ rs.map (·.2.2)) } (2 * n * dim) n

/-! ### Ranges (R152) -/

/-- Bytes of n elements of a tensor, and of its scales: address and length of each range. -/
def tensorRanges (x : Context) (f : Fmt) (t : TRef) (n : Nat) : List (Nat × Nat) :=
  [(t.addr, elemBytes (x.elem f).width n)] ++ if f.cls = 2 then [(t.scale, (n + f.blk - 1) / f.blk)] else []

/-- Two ranges share a byte. -/
def rangesMeet (a b : Nat × Nat) : Bool := decide (a.1 < b.1 + b.2) && decide (b.1 < a.1 + a.2)

/-- An input range meets an output range; `same` allows a pair that coincides exactly. -/
def rangesClash (same : Bool) (ins outs : List (Nat × Nat)) : Bool :=
  ins.any fun a => outs.any fun b => rangesMeet a b && !(same && a == b)

/-- Input and output ranges of a descriptor overlap where they may not (R152, Table 07-2), as far as the unit at hand reads them. -/
def overlapped (x : Context) : Bool :=
  let count := x.fld 16 8
  let ten (k i n : Nat) : List (Nat × Nat) := tensorRanges x (x.fmt (x.fld k 1)) (trefAt x.task.desc i) n
  match x.kind with
  | 0x01 =>
    let n := x.fld 24 8
    let list := x.fld 48 8
    let outs := ten 20 32 n
    let src (k : Nat) : TRef := if x.task.plan.isSome then trefAt x.task.desc (64 + 16 * k) else trefAt (gotBytes x (list + 16 * k) 16) 0
    let ins := (List.range (x.fld 16 2)).flatMap fun k => tensorRanges x (x.fmt (x.fld 19 1)) (src k) n
    rangesClash true ins outs || (x.task.plan.isNone && rangesClash false [(list, 16 * x.fld 16 2)] outs)
  | 0x02 => rangesClash false (ten 24 48 count) (ten 25 64 count)
  | 0x03 =>
    let r (k : Nat) : Nat × Nat := (x.fld k 8, 4 * count)
    let wout := if x.fld 25 1 = 0xFF then [] else ten 25 112 count
    rangesClash false (ten 24 96 count) ([r 64, r 72, r 80] ++ wout) || rangesClash false [r 64, r 72, r 80] wout
      || rangesMeet (r 64) (r 72) || rangesMeet (r 64) (r 80) || rangesMeet (r 72) (r 80)
  | 0x04 =>
    let used := (x.fld 28 4 + x.fld 18 2 - 1) / x.fld 18 2
    let d := x.fld 16 2
    let bytes := 2 * x.fld 18 2 * d + 2 * (x.fld 18 2 * (d / 32))
    let ins := [(x.fld 40 8, 8 * used)] ++ tensorRanges x (x.fmt (x.fld 21 1)) ⟨x.fld 48 8, 0⟩ (x.fld 20 1 * d)
      ++ (List.range used).map fun k => (gotNat x (x.fld 40 8 + 8 * k) 8, bytes)
    rangesClash false ins (tensorRanges x (x.fmt (x.fld 23 1)) ⟨x.fld 56 8, 0⟩ (x.fld 20 1 * d)
      ++ if x.fld 64 8 = 0 then [] else [(x.fld 64 8, 4 * x.fld 20 1)])
  | 0x05 =>
    let offs := x.fld 56 8 + 4 * x.unit
    let lo := gotNat x offs 4
    let n := gotNat x (offs + 4) 4 - lo
    let dim := x.fld 16 2
    let ins := tensorRanges x (x.fmt (x.fld 18 1)) ⟨x.fld 40 8, 0⟩ (x.fld 32 8 * dim) ++ [(x.fld 56 8, 4 * (x.fld 28 4 + 1)), (x.fld 48 8 + 4 * lo, 4 * n)]
      ++ if x.fld 64 8 = 0 then [] else [(x.fld 64 8 + 4 * lo, 4 * n)]
    rangesClash false ins (tensorRanges x (x.fmt (x.fld 19 1)) ⟨x.fld 72 8, 0⟩ (x.fld 28 4 * dim))
  | 0x06 => rangesClash false (ten 24 32 count) (ten 25 48 count)
  | _ => false

/-- Work with free values in place of the bytes it stores (R152, log 65). -/
def Work.undefined (w : Work) (free : Nat) : Work :=
  { w with puts := w.puts.zipIdx.map fun p => { p.1 with data := Config.freeLine (free + p.2) } }

/-! ### Compare-and-swap sweeps (R163) -/

/-- Width, mask, compare and new value of a sweep, taken to the width. -/
def casW (x : Context) : Nat := x.fld 16 1
def casMask (x : Context) : Nat := x.fld 56 8 % 2 ^ (8 * casW x)
def casHit (x : Context) (old : Nat) : Bool := (old &&& casMask x) == (x.fld 40 8 % 2 ^ (8 * casW x) &&& casMask x)
def casAddr (x : Context) (i : Nat) : Nat := x.fld 32 8 + i * x.fld 20 4

/-- The replaced value. -/
def casNew (x : Context) (old : Nat) : Nat :=
  let m := 2 ^ (8 * casW x)
  (old &&& (m - 1 - casMask x)) ||| (x.fld 48 8 % m &&& casMask x)

/-- Elements from element i on that lie in the line of element i. -/
def casInLine (x : Context) (i : Nat) : Nat :=
  let room := 127 - casAddr x i % 128
  min (room / x.fld 20 4 + 1) (x.fld 24 8 - i)

/-- A transactional sweep: every line read, then every matching element's bytes staged (R163). -/
def planCas (x : Context) : KPlan :=
  let count := x.fld 24 8
  let w := casW x
  let lines := if x.fld 20 4 ≤ 128 then spanLines (casAddr x 0) ((count - 1) * x.fld 20 4 + 1)
    else (List.range count).map fun i => casAddr x i / 128
  withLines x lines fun _ =>
    if lines.any fun l => ((gotLine x l).getD (0, false)).2 then .stop St.poison
    else
    let hits := (List.range count).filter fun i => casHit x (gotNat x (casAddr x i) w)
    let puts := lines.filterMap fun l =>
      let mine := hits.filter fun i => casAddr x i / 128 == l
      if mine.isEmpty then none
      else
        let base := ((gotLine x l).getD (0, false)).1
        let data := mine.foldl (fun d i => lineSet d (casAddr x i % 128) w (casNew x (gotNat x (casAddr x i) w))) base
        let mask := mine.foldl (fun (m : Mask) i => m ||| (BitVec.ofNat 128 (2 ^ w - 1) <<< (casAddr x i % 128))) 0
        some (⟨l * 128, data, mask, false⟩ : KPut)
    .work { puts := puts, gens := [] } 0 hits.length

end Sys2Proof.Machine
end

