-- ==== Sys2Proof/Machine/Kernels.lean ====
section
/-! DEFINITION. The built-in kernels as they run in a context, and the start of a micro-sequence (R147 to R165). One command is one
advance of the kernel: it issues the reads its unit lacks, computes, stores, takes a step of its transaction, or ends. -/

namespace Sys2Proof.Machine

namespace State

/-- The context whose built-in kernel, or task, this is, and whose turn it is: running, with the command's KIND, on a core that runs. -/
def kernelDue (s : State) (kind : Nat) (n : Core) (c : Ctx) : Option Context :=
  match s.getCtx n.val c.val with
  | none => none
  | some x => if x.phase = .run && x.kind == kind && s.coreRuns n.val && s.turnOf n.val c.val then some x else none

/-- Issue one request of a kernel: a read or write of a line, or an atomic. False: it must wait. A request that leaves the node ends the
kernel's transaction and is not sent (R158, R170). -/
def kernelSend (s : State) (n : Core) (c : Ctx) (va need : Nat) (p : Packet) (plain tx : Nat) (why : OutFor) (line : Bool := true) :
    Bool × State :=
  match s.getCtx n.val c.val with
  | none => (false, s)
  | some x =>
    match s.translateAll n.val c.val x [va] need with
    | (.ok (a :: _), s) =>
      if !s.mayIssue n.val c.val 1 || s.lineBusy n.val c.val a then (false, s)
      else
        let addr := BitVec.ofNat 64 (if line then a / 128 * 128 else a)
        let s := match s.txUse n c x a with
          | (.inTx id, s) => s.ctxAccess n c x { p with opcode := BitVec.ofNat 8 tx, txid := id, addr := addr } (some id) why false
          | (.plain, s) => if txIsOpen x then s else s.ctxAccess n c x { p with opcode := BitVec.ofNat 8 plain, addr := addr } none why false
          | (.dead, s) => s
        (true, if plain = Op.rdUnc then s.trainCore n c x va a else s)
    | (_, s) => (false, s)

/-- Issue reads of the lines of a unit that are neither read nor outstanding. -/
def kernelReads (s : State) (n : Core) (c : Ctx) (ls : List Nat) : State :=
  (ls.dedup.foldl (fun (t : Bool × State) l =>
    if !t.1 || (t.2.ctxOuts n.val c.val).any (fun o => o.2.why == .kread l) then t
    else t.2.kernelSend n c (l * 128) 0 {} Op.rdUnc Op.txRd (.kread l)) (true, s)).2

/-- Put the work of a unit into its context; where ranges overlap partly the bytes it stores are free (R152). -/
def takeWork (s : State) (n : Core) (c : Ctx) (x : Context) (w : Work) (drawn stage : Nat) (f : Context → Context) : State :=
  let bad := overlapped x
  let w := if bad then w.undefined (s.free + drawn) else w
  let x := f { x with puts := w.puts, stage := stage
                      gens := if w.gens.isEmpty then x.gens else x.gens.put (x.unit % 4) w.gens }
  let s := (s.setCtx n.val c.val x).setFlags n.val c.val w.flags
  { s with free := s.free + drawn + if bad then w.puts.length else 0 }

/-- Store the next computed line of a context. -/
def kernelStore (s : State) (n : Core) (c : Ctx) (p : KPut) : State :=
  let pkt : Packet := { len := if p.mask = maskFull then 4 else 5, data := p.data, mask := p.mask, poison := p.poison }
  let (ok, s) := s.kernelSend n c p.va 1 pkt Op.wrUnc Op.txWr .store
  if ok then s.updCtx n.val c.val fun x => { x with puts := x.puts.tail } else s

/-- The status of a task that ends normally (R145). -/
def endStatus (x : Context) : Nat := if x.poisoned = 0 then St.ok else St.poison

/-- A unit is stored: the next one begins. -/
def nextUnit (x : Context) (res0 : Nat) : Context :=
  { x with unit := x.unit + 1, stage := 0, got := [], res0 := res0, retries := 0 }

/-- One advance of a kernel without transactions. -/
def kernelRun (s : State) (n : Core) (c : Ctx) (x : Context) (total : Nat) (plan : Context → Nat → KPlan)
    (done : Nat → Nat) : State :=
  let idle := (s.ctxOuts n.val c.val).isEmpty
  if x.stage = 0 then
    if total ≤ x.unit then (if idle then s.endTask n.val c.val (endStatus x) 0 false else s)
    else match plan x s.free with
      | .need ls => s.kernelReads n c ls
      | .stop st => s.stopCtx n.val c.val st 0
      | .work w drawn aux => s.takeWork n c x w drawn 1 fun x => { x with aux := aux }
  else match x.puts with
    | p :: _ => s.kernelStore n c p
    | [] =>
      if idle then s.setCtx n.val c.val { nextUnit x (done (x.unit + 1)) with res1 := x.res1 + x.aux } else s

/-- One advance of a kernel that runs each unit in a transaction (R158, R163): 0 opens, 1 waits, 2 reads, 3 writes, 4 waits for the
commit, 5 gives up the transaction, 6 has committed, 7 has aborted, 8 waits. -/
def kernelTxn (s : State) (n : Core) (c : Ctx) (x : Context) (total retries : Nat) (plan : Context → Nat → KPlan)
    (done : Context → Nat × Nat) : State :=
  let idle := (s.ctxOuts n.val c.val).isEmpty
  let lost := (x.tx.bind (·.cause)).isSome
  let txid := (x.tx.bind (·.txid)).getD 0
  if x.stage = 0 then
    if !idle then s
    else if total ≤ x.unit then s.endTask n.val c.val (endStatus x) 0 false
    else (s.setCtx n.val c.val { x with tx := some {}, stage := 1 }).txSend n c x Op.txOpen 0 0 0 .kopen
  else if x.stage = 2 then
    if lost then (if idle then s.setCtx n.val c.val { x with stage := 5 } else s)
    else match plan x s.free with
      | .need ls => s.kernelReads n c ls
      | .stop st => s.stopCtx n.val c.val st 0
      | .work w drawn aux => s.takeWork n c x w drawn 3 fun x => { x with aux := aux }
  else if x.stage = 3 then
    if lost then (if idle then s.setCtx n.val c.val { x with puts := [], stage := 5 } else s)
    else match x.puts with
      | p :: _ => s.kernelStore n c p
      | [] =>
        if idle then
          (s.setCtx n.val c.val { x with stage := 4 }).txSend n c x Op.txCommit txid 1 (((x.tx.map (·.ok)).getD 0) % 65536) .kcommit
        else s
  else if x.stage = 5 then
    if idle then (s.setCtx n.val c.val { x with stage := 8 }).txSend n c x Op.txAbort txid 0 0 .kabort else s
  else if x.stage = 6 then
    let (r0, r1) := done x
    s.setCtx n.val c.val { nextUnit x r0 with tx := none, res1 := r1 }
  else if x.stage = 7 then
    let cause := ((x.tx.bind (·.cause)).getD 0)
    let x := { x with tx := none, puts := [], got := [] }
    if cause % 16 = 1 && decide (x.retries < retries) then
      s.setCtx n.val c.val { x with stage := 0, retries := x.retries + 1, res1 := x.res1 + 1 }
    else (s.setCtx n.val c.val x).stopCtx n.val c.val St.txAbort cause
  else s

/-- Units of a count. -/
def unitsOf (count size : Nat) : Nat := (count + size - 1) / size

/-- A kernel that streams over COUNT elements at byte i of its descriptor. -/
def streamKernel (s : State) (kind i : Nat) (n : Core) (c : Ctx) (plan : Context → Nat → KPlan) : State :=
  match s.kernelDue kind n c with
  | none => s
  | some x => (s.issued n.val c.val).kernelRun n c x (unitsOf (x.fld i 8) unitElems) plan fun u => min (u * unitElems) (x.fld i 8)

/-- OPT_STEP, with or without a transaction for each chunk. -/
def optStep (s : State) (n : Core) (c : Ctx) : State :=
  match s.kernelDue 0x03 n c with
  | none => s
  | some x =>
    if x.txn then
      (s.issued n.val c.val).kernelTxn n c x (unitsOf (x.fld 16 8) (x.fld 26 2)) (x.fld 28 1) planOpt fun x => (x.unit + 1, x.res1)
    else (s.issued n.val c.val).kernelRun n c x (unitsOf (x.fld 16 8) unitElems) planOpt fun u => min (u * unitElems) (x.fld 16 8)

/-- DECODE_ATTN, head by head. -/
def decodeAttn (s : State) (n : Core) (c : Ctx) : State :=
  match s.kernelDue 0x04 n c with
  | none => s
  | some x => (s.issued n.val c.val).kernelRun n c { x with kept := (queryLines x).filterMap fun l => (gotLine x l).map (l, ·) } (x.fld 20 1) planAttn id

/-- GATHER_REDUCE, bag by bag. -/
def gatherReduce (s : State) (n : Core) (c : Ctx) : State :=
  match s.kernelDue 0x05 n c with
  | none => s
  | some x => (s.issued n.val c.val).kernelRun n c x (x.fld 28 4) planGather id

/-- CAS_SWEEP with TXN = 0: `unit` is the first element of the line at hand, `aux` the next one to look at (R163). -/
def casPlain (s : State) (n : Core) (c : Ctx) (x : Context) : State :=
  let idle := (s.ctxOuts n.val c.val).isEmpty
  let count := x.fld 24 8
  if count ≤ x.unit then (if idle then s.endTask n.val c.val (endStatus x) 0 false else s)
  else
    let l := casAddr x x.unit / 128
    match x.got.look l with
    | none => s.kernelReads n c [l]
    | some (data, bad) =>
      if bad then s.stopCtx n.val c.val St.poison 0
      else
        let m := casInLine x x.unit
        match (List.range m).find? fun j => decide (x.aux ≤ x.unit + j) && casHit x (lineBits data (casAddr x (x.unit + j) % 128) (8 * casW x)) with
        | some j =>
          let va := casAddr x (x.unit + j)
          let ops := x.fld 48 8 + x.fld 40 8 * 2 ^ 64 + x.fld 56 8 * 2 ^ 128
          let pkt : Packet := { len := 3, sub := BitVec.ofNat 6 (9 + 32 + if casW x = 8 then 16 else 0), data := BitVec.ofNat 1024 ops }
          let (ok, s) := s.kernelSend n c va 2 pkt Op.atomic Op.txAtomic (.kcas (va % 128)) false
          if ok then s.updCtx n.val c.val fun x => { x with aux := x.unit + j + 1 } else s
        | none =>
          if idle then
            s.setCtx n.val c.val { x with unit := x.unit + m, aux := x.unit + m, got := [], res1 := x.unit + m }
          else s

/-- CAS_SWEEP. -/
def casSweep (s : State) (n : Core) (c : Ctx) : State :=
  match s.kernelDue 0x07 n c with
  | none => s
  | some x =>
    if x.txn then (s.issued n.val c.val).kernelTxn n c x 1 0 (fun x _ => planCas x) fun x => (x.aux, x.fld 24 8)
    else (s.issued n.val c.val).casPlain n c x

/-- A started USER task begins the micro-sequence that it latched (R164). -/
def userStart (s : State) (n : Core) (c : Ctx) : State :=
  match s.kernelDue 0x10 n c with
  | none => s
  | some x => if x.stage ≠ 0 then s else (s.setCtx n.val c.val { x with stage := 1 }).issued n.val c.val

end State

/-- An advance of a REDUCE task (R155). -/
def execReduce (n : Core) (c : Ctx) (s : State) : Host.Outcome State Fault Refusal :=
  .next (s.streamKernel 0x01 24 n c planReduce).settle
/-- An advance of a SCALE_ACC task (R156). -/
def execScaleAcc (n : Core) (c : Ctx) (s : State) : Host.Outcome State Fault Refusal :=
  .next (s.streamKernel 0x02 16 n c fun x _ => planScaleAcc x).settle
/-- An advance of an OPT_STEP task (R157, R158). -/
def execOptStep (n : Core) (c : Ctx) (s : State) : Host.Outcome State Fault Refusal := .next (s.optStep n c).settle
/-- An advance of a DECODE_ATTN task (R159, R160). -/
def execDecodeAttn (n : Core) (c : Ctx) (s : State) : Host.Outcome State Fault Refusal := .next (s.decodeAttn n c).settle
/-- An advance of a GATHER_REDUCE task (R161). -/
def execGatherReduce (n : Core) (c : Ctx) (s : State) : Host.Outcome State Fault Refusal := .next (s.gatherReduce n c).settle
/-- An advance of a QUANTIZE task (R162). -/
def execQuantize (n : Core) (c : Ctx) (s : State) : Host.Outcome State Fault Refusal :=
  .next (s.streamKernel 0x06 16 n c fun x _ => planQuantize x).settle
/-- An advance of a CAS_SWEEP task (R163). -/
def execCasSweep (n : Core) (c : Ctx) (s : State) : Host.Outcome State Fault Refusal := .next (s.casSweep n c).settle
/-- A USER task begins its micro-sequence (R164). -/
def execUser (n : Core) (c : Ctx) (s : State) : Host.Outcome State Fault Refusal := .next (s.userStart n c).settle

end Sys2Proof.Machine
end

