-- ==== Sys2Proof/Machine/Tasks.lean ====
section
/-! DEFINITION. Pool tasks, translation and faults (chapter 08): dispatchers, placement, start, walks, invalidation, save and
resumption. -/

namespace Sys2Proof.Machine

namespace State

/-! ### Submission entries (Table 08-1) -/

/-- Fields of a submission entry. -/
def seType (b : List Byte) : Nat := leNat b 0 1
def sePlace (b : List Byte) : Nat := leNat b 1 1
def seTarget (b : List Byte) : Nat := leNat b 2 2
def seArg (b : List Byte) : Nat := leNat b 4 4
def seAddr (b : List Byte) : Nat := leNat b 8 8
def seValue (b : List Byte) : Nat := leNat b 16 8
def seTag (b : List Byte) : Nat := leNat b 24 8

/-- Reserved fields of an entry are zero and its fields lie in range (R6, Table 08-1). -/
def entryOk (b : List Byte) : Bool :=
  zeroBytes b 32 32 &&
  match seType b with
  | 1 =>
    let p := sePlace b
    decide (p < 4) && seArg b == 0 && seTag b == 0 && seAddr b % 16 == 0
      && (if p = 0 then seTarget b == 0 else if p = 1 then decide (seTarget b < 4) else if p = 2 then decide (seTarget b < 16)
          else decide (seTarget b < 144))
  | 2 =>
    let scope := sePlace b
    decide (scope < 2) && seTarget b == 0 && seArg b % 2 == 0
      && (if scope = 0 then seAddr b == 0 && seValue b == 0
          else seAddr b % 2 ^ 16 == 0 && decide (1 ≤ seValue b) && decide (seValue b ≤ 2 ^ 41))
  | 3 | 4 => sePlace b == 0 && seTarget b == 0 && seAddr b == 0 && seValue b == 0
  | _ => false

/-! ### Dispatchers (R175, R176) -/

/-- Queue q can be read: enabled, not empty, its window not full, a completion record free, its partition not being torn down. -/
def queueReady (s : State) (q : Nat) : Bool :=
  s.flag F.cluQcfg_enable q && s.rd F.cluQptr_head q != s.rd F.cluQptr_tail q % 2 ^ s.rd F.cluQcfg_size q
    && decide ((s.clu.window.lookD q []).length < 64) && s.cplFree .host q && !s.revoking (s.rd F.cluQcfg_partition q)

/-- The queue that die d's dispatcher reads next, by weighted round robin, with the entries its turn has taken. -/
def dispatchTurn (s : State) (d : Nat) : Option (Nat × Nat) :=
  let (q, taken) := s.clu.turn.lookD d (63, 15)
  if s.queueReady q && decide (taken < s.rd F.cluQcfg_weight q) then some (q, taken)
  else (((List.range 64).map fun i => (q + 1 + i) % 64).find? s.queueReady).map fun q => (q, 0)

/-- Read the entry at HEAD when queue q has die d's turn and the entry is of a type that `want` accepts; reserve a completion
record for it and advance HEAD. `f` acts on the entry and its ring index. -/
def dispatch (s : State) (d q : Nat) (want : Nat → Bool) (f : State → List Byte → Nat → State) : State :=
  match s.dispatchTurn d with
  | none => s
  | some (q', taken) =>
    if q' ≠ q then s
    else match s.readEntry .host q 64 with
      | (.wait, s) => s
      | (.failed st, s) => s.queueFail .host q st
      | (.entry b, s') =>
        if !want (seType b) then s
        else
          let idx := s.rd F.cluQptr_head q
          let s := (s'.uClu fun u => { u with turn := u.turn.put d (q, taken + 1) }).reserveRec .host q
          let s := f s b idx
          s.advanceHead .host q

/-- The COMMAND record of an entry (Table 08-2). -/
def commandRec (s : State) (q status tag : Nat) : State :=
  (s.unreserve .host q).writeRec .host q (recBytes 3 status 0 0 0 tag 0 0 0 0 0)

/-- TASK_ID of an entry (Table 08-2). -/
def taskId (s : State) (q idx : Nat) : Nat := idx + q * 2 ^ 12 + s.clu.pass.lookD q 0 % 2 ^ 14 * 2 ^ 18

/-- The END record of a task that never ran. -/
def unstartedEnd (s : State) (t : Task) (status flags : Nat) : State :=
  match t.queue with
  | none => s
  | some q => (s.unreserve .host q).writeRec .host q (recBytes 1 status 0 flags t.id (taskTag t) 0 0 0 0 0)

/-- A TASK entry joins its queue's window (R176); an entry of no known type completes with BAD_REQUEST. -/
def taskEntry (s : State) (q : Nat) (b : List Byte) (idx : Nat) : State :=
  if seType b ≠ 1 then s.commandRec q St.badRequest (seTag b)
  else
    let t : Task := { id := s.taskId q idx, queue := some q, partition := s.rd F.cluQcfg_partition q, asid := s.rd F.cluQcfg_asid q,
                      principal := s.rd F.cluQcfg_principal q, place := sePlace b, target := seTarget b, addr := seAddr b,
                      seed := seValue b % 2 ^ 32 }
    if !entryOk b then s.unstartedEnd t St.badRequest 0
    else s.uClu fun u => { u with window := u.window.put q (u.window.lookD q [] ++ [t]) }

/-! ### Placement (R178) -/

/-- Core n is assigned to partition p (Table 15-10). -/
def coreAssigned (s : State) (n p : Nat) : Bool :=
  bits (s.reg .secCoreMap (n / 9)) (5 * (n % 9)) 5 == p + 16

/-- Core n is eligible for a task of partition p with a PLACE and TARGET. -/
def eligible (s : State) (p place target n : Nat) : Bool :=
  s.rd F.rasCore_state n == 0 && s.coreAssigned n p
    && (place % 4 == 0 || (place % 4 == 1 && n / 36 == target) || (place % 4 == 2 && n / 9 == target) || (place % 4 == 3 && n == target))

/-- The eligible core with the most free contexts, the lowest on a tie, and its lowest free context. -/
def placeOn (s : State) (p place target : Nat) : Option (Nat × Nat) :=
  let best := (List.range 144).foldl (fun (a : Option (Nat × Nat)) n =>
    let free := 8 - (s.ctxOf n).length
    if s.eligible p place target n && decide (0 < free) && decide ((a.map (·.2)).getD 0 < free) then some (n, free) else a) none
  best.bind fun b => ((List.range 8).find? fun c => (s.getCtx b.1 c).isNone).map fun c => (b.1, c)

/-- A context enters a core; a gated core wakes first (R408). -/
def enterCore (s : State) (n c : Nat) (x : Context) : State :=
  let s := ((s.setCtx n c x).refreshUsed n).flightAdd x.task.partition
  if s.clu.gated.contains n then
    s.uClu fun u => { u with gated := u.gated.filter (· ≠ n), waking := u.waking ++ [n] }
  else s

/-- Lines of a task's descriptor that are known to be needed: its first line, then as many as LEN names (R153). -/
def descLines (x : Context) : List Nat :=
  let first := x.task.addr / 128
  match gotLine x first with
  | none => [first]
  | some (l, _) => spanLines x.task.addr (max 16 (16 * leNat (lineBytes l) (x.task.addr % 128 + 1) 1))

/-- Issue the reads of a task's descriptor (R179). -/
def fetchDesc (s : State) (n : Core) (c : Ctx) : State :=
  match s.getCtx n.val c.val with
  | none => s
  | some x => if x.phase = .fetch then s.kernelReads n c ((descLines x).filter fun l => (x.got.look l).isNone) else s

/-- A saved task that RESUME has released enters a free context, to be read back (R178, R193). -/
def placeSaved (s : State) (v : Saved) (n c : Nat) : State :=
  let x := { v.ctx with phase := .restoring v.slot }
  (s.enterCore n c x).uClu fun u => { u with saved := u.saved.map fun w => if w = v then { w with moving := false, ctx := x } else w }

/-- The head of queue q's window enters a context (R178). -/
def placeHead (s : State) (q : Nat) : State :=
  match s.clu.window.lookD q [] with
  | [] => s
  | t :: ts =>
    match s.placeOn t.partition t.place t.target with
    | none => s
    | some (n, c) =>
      if h : n < 144 ∧ c < 8 then
        let s := s.uClu fun u => { u with window := if ts.isEmpty then u.window.del q else u.window.put q ts }
        ((s.enterCore n c { task := t }).clearFlags n c).fetchDesc ⟨n, h.1⟩ ⟨c, h.2⟩
      else s

/-- A task of queue q enters a context: the first released saved task that finds one, else the head of the window (R178, R193). -/
def placement (s : State) (q : Nat) : State :=
  match (s.clu.saved.filter fun v => v.moving && v.ctx.task.queue == some q).findSome? fun v =>
      (s.placeOn v.partition v.ctx.task.place v.ctx.task.target).map fun p => (v, p) with
  | some (v, n, c) => s.placeSaved v n c
  | none => s.placeHead q

/-! ### Start (R148, R179) -/

/-- A lane generator's start value (R138). -/
def seedGen (seed e lane : Nat) : BitVec 32 :=
  let g := BitVec.ofNat 32 seed ^^^ BitVec.ofNat 32 (e * 64 + lane)
  if g = 0 then 1 else g

/-- A context as a task starts in it: registers, scratch and flags clear, generators seeded, formats latched; a USER task has its sequence
latched and its arguments in S1 to S10 (R164, R179, Table 07-11). The generators number a core's engines over the node: engine e of core n
is 4n + e (R12). -/
def startCtx (s : State) (n : Nat) (x : Context) (desc : List Byte) : Context :=
  let y : Context :=
    { task := { x.task with desc := desc, fmts := (List.range 64).map fun i => s.stageReg .engFmt i (coreDie n) }
      gens := [0, 1, 2, 3].map fun e => (e, (List.range 64).map fun l => seedGen x.task.seed (4 * n + e) l)
      phase := .run }
  match y.kind == 0x10, s.seqs.look (y.fld 3 1) with
  | true, some q =>
    (List.range 10).foldl (fun x i => sPut x (i + 1) (BitVec.ofNat 64 (x.fld (16 + 8 * i) 8))) { y with task := { y.task with prog := q.prog } }
  | _, _ => y

/-- The descriptor is read: the task starts, or ends with BAD_REQUEST; a poisoned descriptor stops it (R145, R148, R179). -/
def taskStart (s : State) (n : Core) (c : Ctx) : State :=
  match s.getCtx n.val c.val with
  | none => s
  | some x =>
    if x.phase ≠ .fetch || !s.coreRuns n.val then s
    else
      let ls := descLines x
      if ls.any fun l => (x.got.look l).isNone then s.fetchDesc n c
      else if ls.any fun l => (x.got.lookD l (0, false)).2 then s.stopCtx n.val c.val St.poison 0
      else
        let len := 16 * leNat (gotBytes x (x.task.addr + 1) 1) 0 1
        let y := s.startCtx n.val x (gotBytes x x.task.addr (max 16 len))
        let s := (s.setCtx n.val c.val y).clearFlags n.val c.val
        if descOk s y then s else (s.setCtx n.val c.val { y with sreg := [] }).stopCtx n.val c.val St.badRequest 0

/-! ### Walks (R183 to R186) -/

/-- What a walk of the tables comes to. -/
inductive WalkEnd where
  | leaf (e : TcEntry)
  | fault (cause : Nat)
  | wait
  deriving DecidableEq, Repr

/-- Index of an address at a level, and bits of alignment of a level's table (Table 08-3). -/
def levelIndex (va : Nat) : Nat → Nat
  | 3 => va / 2 ^ 43 % 16384
  | 2 => va / 2 ^ 30 % 8192
  | 1 => va / 2 ^ 21 % 512
  | _ => va / 2 ^ 16 % 32

def levelAlign : Nat → Nat
  | 2 => 2 ^ 16
  | 1 => 2 ^ 12
  | _ => 2 ^ 8

/-- Walk from the table of a level at a local offset (Tables 08-3, 08-4); every table line lies in an ON extent of the partition (R184). -/
def walkFrom (p asid va : Nat) : Nat → Nat → State → WalkEnd × State
  | level, table, s =>
    let off := table + 8 * levelIndex va level
    match s.homeRead (· == .on) p off with
    | (.failed _, s) => (.fault Fc.table, s)
    | (.wait, s) => (.wait, s)
    | (.data _ true, s) => (.fault Fc.poison, s)
    | (.data l false, s) =>
      let e := lineBits l (off % 128) 64
      let leaf := e / 2 % 2 == 1
      if e % 2 = 0 then (.fault Fc.unmapped, s)
      else if e / 2 ^ 5 % 8 ≠ 0 then (.fault Fc.table, s)
      else if leaf then
        if level = 3 || e / 2 ^ 8 % 256 ≠ 0 || e / 2 ^ 16 * 2 ^ 16 % 2 ^ pageBits level ≠ 0 then (.fault Fc.table, s)
        else (.leaf ⟨asid, level, va / 2 ^ pageBits level, e / 2 ^ 16 * 2 ^ 16, e / 4 % 2 == 1, e / 8 % 2 == 1, e / 16 % 2 == 1⟩, s)
      else match level with
        | 0 => (.fault Fc.table, s)
        | l + 1 =>
          let next := e / 2 ^ 8 % 2 ^ 44 * 2 ^ 8
          if e / 4 % 8 ≠ 0 || 2 ^ 52 ≤ e || next % levelAlign l ≠ 0 then (.fault Fc.table, s)
          else walkFrom p asid va l next s

/-- A waiter of a walk gets its answer: the page, or a fault with a cause. Waiters below 1,152 are contexts, those from 2,000 copy
engines. -/
def answerWaiter (s : State) (w : Nat × Nat × Nat) (r : Option TcEntry) (cause : Nat) : State :=
  let (key, va, need) := w
  let good := match r with | some e => TcEntry.covers e e.asid va need | none => false
  let cause := match r with | some _ => Fc.noRights | none => cause
  if 2000 ≤ key then
    let s := if good then s else s.bump F.ptuStat_faults ((key - 2000) / 8)
    let x : CopyXlat := { page := va / 2 ^ 16, need := need, cause := cause,
                          addr := if good then r.map fun e => e.addr + va / 2 ^ 16 * 2 ^ 16 % 2 ^ pageBits e.level else none }
    { s with xfr := { s.xfr with run := s.xfr.run.upd (key - 2000) fun u => { u with known := u.known ++ [x] } } }
  else if good then s
  else match s.getCtx (key / 8) (key % 8) with
    | some x => if x.phase = .run || x.phase = .fetch then s.faultCtx (key / 8) (key % 8) cause va else s
    | none => s

/-- A walk ends: its entry fills the caches when some waiter can use it, and every waiter is answered. -/
def endWalk (s : State) (k : Nat) (w : PWalk) (r : Option TcEntry) (cause : Nat) : State :=
  let d := k / 32
  let s := (s.uPtu fun u => { u with walks := u.walks.del k }).refreshWalks d
  let s := match r with
    | some e =>
      if w.waiters.any fun t => TcEntry.covers e w.asid t.2.1 t.2.2 then
        let s := s.tcFill d e
        (w.waiters.filter fun t => decide (t.1 < 2000) && TcEntry.covers e w.asid t.2.1 t.2.2).foldl (fun s t => s.coreFill (t.1 / 8) e) s
      else s
    | none => s
  w.waiters.foldl (fun s t => s.answerWaiter t r cause) s

/-- GEN is behind the expected generation: their 32-bit difference lies from 1 to 2^31 - 1 (R185). -/
def genBehind (expected gen : Nat) : Bool :=
  decide (gen < expected ∧ expected - gen < 2 ^ 31 ∨ 2 ^ 31 < gen - expected)

/-- What a reading of the ASD makes of a walk (R185): a GEN behind the expected one faults at once; an odd one, or one that differs from
the first reading, restarts the walk. -/
inductive GenCheck where
  | good | again
  | fault (cause : Nat)
  deriving DecidableEq, Repr

def genCheck (s : State) (asid gen : Nat) (first : Option Nat) : GenCheck :=
  if genBehind (s.ptu.gen.lookD asid 0) gen then .fault Fc.stale
  else if gen % 2 = 1 || first.any (· != gen) then .again else .good

/-- Change walk k. -/
def updWalk (s : State) (k : Nat) (f : PWalk → PWalk) : State := s.uPtu fun u => { u with walks := u.walks.upd k f }

/-- The ASD after the last table read: the walk is accepted, faults, or waits to restart; one whose tables failed faults only where GEN has
held (R185). -/
def walkCheck (s : State) (k : Nat) (w : PWalk) (gen : Nat) (r : Option TcEntry) (cause : Nat) (back : State) : State :=
  match s.readAsd w.asid with
  | (.wait, s) => comeBack back s
  | (.fault c, s) => s.endWalk k w none c
  | (.ok gen' _, s) =>
    match s.genCheck w.asid gen' (some gen) with
    | .fault c => s.endWalk k w none c
    | .again => s.updWalk k fun w => { w with again := true }
    | .good => s.endWalk k w r cause

/-- A walk reads the ASD, its tables and the ASD again, and is accepted, faults, or waits to restart (R185). A walk that has to wait for a
line goes on with the GEN and the root it read first. -/
def walkDone (s : State) (k : Nat) : State :=
  match s.ptu.walks.look k with
  | none => s
  | some w =>
    if w.again then s
    else
      let first : Asd × State := match w.gen0 with
        | some (g, root) => (.ok g root, s)
        | none => s.readAsd w.asid
      match first with
      | (.wait, s) => s
      | (.fault c, s) => s.endWalk k w none c
      | (.ok gen root, s') =>
        match s'.genCheck w.asid gen none with
        | .fault c => s'.endWalk k w none c
        | .again => s'.updWalk k fun w => { w with gen0 := some (gen, root), again := true }
        | .good =>
          let s' := s'.updWalk k fun w => { w with gen0 := some (gen, root) }
          match walkFrom (s.asdOf w.asid).2 w.asid (w.page * 2 ^ 16) 3 root s' with
          | (.wait, t) => comeBack s' t
          | (.fault c, t) => t.walkCheck k w gen none c s'
          | (.leaf e, t) => t.walkCheck k w gen (some e) 0 s'

/-- A walk restarts, or has used up its restarts (R185). -/
def walkRestart (s : State) (k : Nat) : State :=
  match s.ptu.walks.look k with
  | none => s
  | some w =>
    if !w.again then s
    else if s.rd F.ptuCtrl_genRetry ≤ w.restarts then s.endWalk k w none Fc.busy
    else match s.readAsd w.asid with
      | (.wait, s) => s
      | (.fault c, s) => s.endWalk k w none c
      | (.ok gen root, s) =>
        match s.genCheck w.asid gen none with
        | .fault c => s.endWalk k w none c
        | _ => s.updWalk k fun w => { w with again := false, restarts := w.restarts + 1, gen0 := some (gen, root) }

/-! ### Invalidation (R187 to R189, Table 08-6) -/

/-- An entry is named by a command. -/
def invNames (i : InvCmd) (e : TcEntry) : Bool :=
  e.asid == i.asid &&
    (i.all || (decide (e.page * 2 ^ pageBits e.level < (i.first + i.pages) * 2 ^ 16)
                && decide (i.first * 2 ^ 16 < (e.page + 1) * 2 ^ pageBits e.level)))

/-- A batch begins: expected generations, epochs, and the removal of entries (steps 2 and 3); walks in progress and tiles still being
translated begin again, and no cluster buffer keeps a line read before (log 72). -/
def startBatch (s : State) (batch : List InvCmd) : State :=
  let named (e : TcEntry) : Bool := batch.any fun i => invNames i e
  let s := s.uPtu fun u => { u with
    batch := batch
    gen := batch.foldl (fun g i => g.putC 0 i.asid i.gen) u.gen
    tc := u.tc.filter fun e => !named e.2
    core := u.core.map fun e => (e.1, e.2.filter fun x => !named x)
    walks := u.walks.map fun w => (w.1, { w.2 with gen0 := none, again := false }) }
  let s : State := { s with xfr := { s.xfr with run := s.xfr.run.map fun (r : Nat × CopyRun) =>
    (r.1, if r.2.phase = .translate || r.2.phase = .flag then { r.2 with known := [] } else r.2) } }
  let s := s.uClu fun u => { u with buf := [] }
  [0, 1, 2, 3].foldl (fun s d => (s.wr F.ptuStatus_epoch d (1 - s.rd F.ptuStatus_epoch d)).wr F.ptuStatus_invBusy d 1) s

/-- An INVALIDATE entry (step 1). -/
def invalidateEntry (s : State) (q : Nat) (b : List Byte) : State :=
  if !entryOk b then s.commandRec q St.badRequest (seTag b)
  else
    let i : InvCmd := { queue := q, asid := s.rd F.cluQcfg_asid q, gen := seArg b, all := sePlace b == 0, first := seAddr b / 2 ^ 16,
                        pages := seValue b, tag := seTag b }
    if s.ptu.batch.isEmpty then s.startBatch [i]
    else s.uPtu fun u => { u with next := u.next ++ [i] }

/-- A request or tile of the old epoch is in flight on some die (step 5). -/
def oldEpochBusy (s : State) : Bool :=
  (s.outs.any fun o => match o.2.who with
    | .ctx _ _ | .copy _ => o.2.epoch != s.epochOf o.2.die
    | _ => false)
  || s.xfr.run.any fun r => (r.2.phase = .run || r.2.phase = .flagRun) && r.2.epoch != s.epochOf (r.1 / 8)

/-- The running batch ends, and the next one begins with at most 64 of the waiting commands (step 6). -/
def nextBatch (s : State) : State :=
  let next := s.ptu.next.take 64
  let s := s.uPtu fun u => { u with batch := [], next := u.next.drop 64 }
  let s := [0, 1, 2, 3].foldl (fun s d => s.wr F.ptuStatus_invBusy d 0) s
  if next.isEmpty then s else s.startBatch next

/-- Steps 5 and 6: with the old epoch drained, the batch's records are written and the next batch begins. -/
def invalidateDrained (s : State) : State :=
  if s.ptu.batch.isEmpty || s.oldEpochBusy then s
  else (s.ptu.batch.foldl (fun s i => s.commandRec i.queue St.ok i.tag) s).nextBatch

/-- The commands of queues whose bindings are cleared leave the batches: no record is written for them (Table 15-6, steps 2 and 5). -/
def dropCommands (s : State) (queues : List Nat) : State :=
  let left (l : List InvCmd) : List InvCmd := l.filter fun i => !queues.contains i.queue
  let ran := !s.ptu.batch.isEmpty
  let s := s.uPtu fun u => { u with batch := left u.batch, next := left u.next }
  if ran && s.ptu.batch.isEmpty then s.nextBatch else s

/-! ### Save, resume and kill (R190 to R194, Table 08-7) -/

/-- The lowest free slot of a partition's save area. -/
def freeSlot (s : State) (p : Nat) : Option Nat :=
  (List.range (s.saveSlots p)).find? fun i => !(s.clu.saved.any fun v => v.partition == p && v.slot == i)

/-- Lines of a slot: 4 KiB of header, 32 KiB of vector registers, the 128 KiB scratch window (R191). -/
def slotLines : Nat := 1312

/-- Line i of a saved task's slot: the header, whose layout the spec leaves open, as free values; then the context's registers, engine by
engine, and its scratch, in address order (R191, log 73). -/
def slotLine (s : State) (x : Context) (i : Nat) : LineData :=
  if i < 32 then Config.freeLine (s.free + i)
  else if i < 288 then (x.vreg.lookD (i - 32) (0, false)).1
  else (x.scratch.lookD (i - 288) (0, false)).1

/-- The lines of a context's state reach the slot in the save extent: all of them, or the header alone when the descriptor's read has
faulted (R192). -/
def saveLines (s : State) (x : Context) (slot : Nat) : State :=
  let p := x.task.partition
  let n := if x.task.desc.isEmpty then 32 else slotLines
  match s.home.ext.look (s.rd F.cluSave_extId p) with
  | none => s
  | some e =>
    { s with
      mem := ((List.range n).foldl (fun t i =>
        t.writeLine (t.lineAt e.attr (tierOffset e.attr.tier2 (e.attr.base * 2 ^ 21 + slot * 2 ^ 18 + 128 * i))) false (s.slotLine x i) false false) s).mem
      free := s.free + 32 }

/-- Write the FAULT records that wait, as completion records become free (step 5). -/
def flushRecs (s : State) : State :=
  s.clu.recWait.foldl (fun s r =>
    if s.cplFree .host r.1 then s.writeRec .host r.1 r.2
    else s.uClu fun u => { u with recWait := u.recWait ++ [r] }) (s.uClu fun u => { u with recWait := [] })

/-- The FAULT record of a task. -/
def faultRec (s : State) (n : Nat) (x : Context) (cause va : Nat) (saved : Bool) (flags : Nat) : State :=
  match x.task.queue with
  | none => s
  | some q =>
    let (r0, r1) := resultWords x
    let b := recBytes 2 (faultStatus cause) cause (flags + 32 * saved.toNat) x.task.id (taskTag x.task) r0 r1 x.poisoned n va
    (s.uClu fun u => { u with recWait := u.recWait ++ [(q, b)] }).flushRecs

/-- The END of a killed task: OPENER_LOST when it had a transaction open (R193). -/
def killCtx (s : State) (n c : Nat) (x : Context) : State :=
  if txIsOpen x then s.stopCtx n c St.txAbort 9 true else s.stopCtx n c St.ok 0 true

/-- A faulted task's earlier requests are performed: it is saved, or stays in its context without a free slot (steps 2 to 5). -/
def saveDone (s : State) (n c : Nat) : State :=
  match s.getCtx n c with
  | none => s
  | some x =>
    match x.phase with
    | .fault cause va killed =>
      if !(s.ctxOuts n c).isEmpty then s
      else if killed then s.killCtx n c x
      else if x.task.plan.isSome then s.stopCtx n c (faultStatus cause) cause
      else
        let flags := s.ctxFlags n c
        match s.freeSlot x.task.partition with
        | none => (s.setCtx n c { x with phase := .waiting }).faultRec n x cause va false flags
        | some slot =>
          let v : Saved := { partition := x.task.partition, slot := slot, ctx := { x with phase := .waiting }, flags := BitVec.ofNat 4 flags }
          let s := ((s.saveLines x slot).uClu fun u => { u with saved := u.saved ++ [v] }).refreshSave x.task.partition
          ((s.flightSub x.task.partition).freeCtx n c).faultRec n x cause va true flags
    | _ => s

/-- A saved task's record has been written: it is at step 6. -/
def recorded (s : State) (id : Nat) : Bool := !(s.clu.recWait.any fun r => leNat r.2 4 4 == id)

/-- Phase in which a task goes on: its descriptor read, or its instruction. -/
def resumed (x : Context) : Context := { x with phase := if x.task.desc.isEmpty then .fetch else .run }

/-- The running or waiting context of a task of partition p. -/
def taskCtx (s : State) (p id : Nat) : Option (Nat × Nat × Context) :=
  (s.clu.ctx.find? fun e => e.2.task.queue.isSome && e.2.task.id == id && e.2.task.partition == p).map fun e => (e.1 / 8, e.1 % 8, e.2)

/-- RESUME (R193): it acts on a task of its queue's partition (log 23). -/
def resumeTask (s : State) (q : Nat) (b : List Byte) : State :=
  let p := s.rd F.cluQcfg_partition q
  let id := seArg b
  if !entryOk b then s.commandRec q St.badRequest (seTag b)
  else match s.clu.saved.find? fun v => v.partition == p && v.ctx.task.id == id with
    | some v =>
      if v.moving || (match v.ctx.phase with | .restoring _ => true | _ => false) || !s.recorded id then s.commandRec q St.badRequest (seTag b)
      else (s.uClu fun u => { u with saved := u.saved.map fun w => if w = v then { w with moving := true } else w }).commandRec q St.ok (seTag b)
    | none => match s.taskCtx p id with
      | some (n, c, x) =>
        if x.phase = .waiting && s.recorded id then (s.setCtx n c (resumed x)).commandRec q St.ok (seTag b)
        else s.commandRec q St.badRequest (seTag b)
      | none => s.commandRec q St.badRequest (seTag b)

/-- The END record of a saved task that leaves its slot. -/
def endSaved (s : State) (v : Saved) (status detail : Nat) (killed : Bool) : State :=
  let s := (s.uClu fun u => { u with saved := u.saved.filter fun w => w != v }).refreshSave v.partition
  match v.ctx.task.queue with
  | none => s
  | some q =>
    let (r0, r1) := resultWords v.ctx
    (s.unreserve .host q).writeRec .host q
      (recBytes 1 status detail (v.flags.toNat + 16 * killed.toNat) v.ctx.task.id (taskTag v.ctx.task) r0 r1 v.ctx.poisoned 0 0)

/-- A task that is being restored leaves its slot, and its sticky flags come back to its context. -/
def leaveSlot (s : State) (n c p slot : Nat) : State :=
  let flags := ((s.clu.saved.find? fun v => v.partition == p && v.slot == slot).map (·.flags)).getD 0
  let s := (s.uClu fun u => { u with saved := u.saved.filter fun v => !(v.partition == p && v.slot == slot) }).refreshSave p
  (s.clearFlags n c).setFlags n c flags

/-- KILL (R193). -/
def killTask (s : State) (q : Nat) (b : List Byte) : State :=
  let p := s.rd F.cluQcfg_partition q
  let id := seArg b
  let ok (s : State) : State := s.commandRec q St.ok (seTag b)
  if !entryOk b then s.commandRec q St.badRequest (seTag b)
  else match s.taskCtx p id with
    | some (n, c, x) =>
      match x.phase with
      | .fault cause va _ => ok (s.setCtx n c { x with phase := .fault cause va true })
      | .stopping _ _ _ => ok (s.setCtx n c { x with phase := if txIsOpen x then .stopping St.txAbort 9 true else .stopping St.ok 0 true })
      | .restoring slot => ok ((s.leaveSlot n c p slot).killCtx n c x)
      | _ => ok (s.killCtx n c x)
    | none => match s.clu.saved.find? fun v => v.partition == p && v.ctx.task.id == id with
      | some v =>
        let s := s.abortCtxTx v.ctx
        ok (if txIsOpen v.ctx then s.endSaved v St.txAbort 9 true else s.endSaved v St.ok 0 true)
      | none =>
        let qs := (List.range 64).filter fun k => (s.clu.window.lookD k []).any fun t => t.id == id && t.partition == p
        match qs.head?.bind fun k => ((s.clu.window.lookD k []).find? fun t => t.id == id).map fun t => (k, t) with
        | some (k, t) =>
          let left := (s.clu.window.lookD k []).filter fun u => u.id != id
          let s := s.uClu fun u => { u with window := if left.isEmpty then u.window.del k else u.window.put k left }
          ok (s.unstartedEnd t St.ok 16)
        | none => s.commandRec q St.badRequest (seTag b)

/-- A saved task has been read back: it goes on, or ends with INTERNAL when its slot's CRC fails (R193). -/
def restoreDone (s : State) (n c : Nat) (crcOk : Bool) : State :=
  match s.getCtx n c with
  | none => s
  | some x =>
    match x.phase with
    | .restoring slot =>
      let s := s.leaveSlot n c x.task.partition slot
      if crcOk then s.setCtx n c (resumed x) else s.stopCtx n c St.internal 0
    | _ => s

end State

/-- TASK (R176): the dispatcher of die d reads a TASK entry of queue q, or one of no known type. -/
def execTask (d : Die) (q : HostQueue) (s : State) : Host.Outcome State Fault Refusal :=
  .next (s.dispatch d.val q.val (fun t => !(t == 2 || t == 3 || t == 4)) fun s b i => s.taskEntry q.val b i).settle
/-- INVALIDATE (R188). -/
def execInvalidate (d : Die) (q : HostQueue) (s : State) : Host.Outcome State Fault Refusal :=
  .next (s.dispatch d.val q.val (· == 2) fun s b _ => s.invalidateEntry q.val b).settle
/-- RESUME (R193). -/
def execResume (d : Die) (q : HostQueue) (s : State) : Host.Outcome State Fault Refusal :=
  .next (s.dispatch d.val q.val (· == 3) fun s b _ => s.resumeTask q.val b).settle
/-- KILL (R193). -/
def execKill (d : Die) (q : HostQueue) (s : State) : Host.Outcome State Fault Refusal :=
  .next (s.dispatch d.val q.val (· == 4) fun s b _ => s.killTask q.val b).settle
/-- TASK_START (R148, R179). -/
def execTaskStart (n : Core) (c : Ctx) (s : State) : Host.Outcome State Fault Refusal := .next (s.taskStart n c).settle
/-- TRANSLATION_WALK_DONE (R185). -/
def execTranslationWalkDone (d : Die) (ix : Fin 32) (s : State) : Host.Outcome State Fault Refusal :=
  .next (s.walkDone (32 * d.val + ix.val)).settle
/-- WALK_RESTART (R185). -/
def execWalkRestart (d : Die) (ix : Fin 32) (s : State) : Host.Outcome State Fault Refusal :=
  .next (s.walkRestart (32 * d.val + ix.val)).settle
/-- TASK_SAVE_DONE (R192). -/
def execTaskSaveDone (n : Core) (c : Ctx) (s : State) : Host.Outcome State Fault Refusal := .next (s.saveDone n.val c.val).settle
/-- TASK_RESTORE_DONE (R193). -/
def execTaskRestoreDone (n : Core) (c : Ctx) (crcOk : Bool) (s : State) : Host.Outcome State Fault Refusal :=
  .next (s.restoreDone n.val c.val crcOk).settle
/-- INVALIDATE_DRAINED (R188, R189). -/
def execInvalidateDrained (s : State) : Host.Outcome State Fault Refusal := .next s.invalidateDrained.settle

end Sys2Proof.Machine
end

