-- ==== Sys2Proof/Machine/Sequences.lean ====
section
/-! DEFINITION. Loading user micro-sequences (R171, R172, Tables 07-15 to 07-18). -/

namespace Sys2Proof.Machine

/-! ### Validation (Table 07-15) -/

/-- What a register field of an instruction names: nothing, a scalar register, a vector register, a wide pair. -/
inductive Use where
  | none | s | v | w
  deriving DecidableEq, Repr

/-- The fields an operation uses (Tables 07-13, 07-14): its registers, FMT, RND, SAT, and the bits of IMM; `vec` says that ENG may be
0 to 4. -/
structure Form where
  d : Use := .none
  a : Use := .none
  b : Use := .none
  c : Use := .none
  e : Use := .none
  fmt : Bool := false
  rnd : Bool := false
  sat : Bool := false
  imm : Nat := 0
  vec : Bool := false
  deriving DecidableEq, Repr

/-- Masks of IMM: Sx, BCAST, second format. -/
def Form.sx : Nat := 0x1F
def Form.bc : Nat := 0x800
def Form.f2 : Nat := 0x7E0

/-- The rate class of an element width (R128, R136). -/
def rateClass (w : Nat) : Nat := if w = 6 then 4 else w

/-- The form of an instruction, by its operation and the formats it names (Table 07-14); none for a reserved OP. -/
def formOf (f g : Fmt) (x : DWord) : Option Form :=
  let op := opOf x
  let mx (h : Fmt) : Use := if h.cls = 2 then .v else .none
  if op = Mo.nop || op = Mo.wait || op = Mo.endTask then some {}
  else if op = Mo.sli then some { d := .s, imm := 0xFFF }
  else if op = Mo.sadd || op = Mo.sshl || op = Mo.sshr || op = Mo.ssra then some { d := .s, a := .s, b := .s, imm := 0xFFF }
  else if op = Mo.ssub || op = Mo.smul || op = Mo.sand || op = Mo.sor || op = Mo.sxor then some { d := .s, a := .s, b := .s }
  else if op = Mo.beq || op = Mo.bne || op = Mo.blt || op = Mo.bge || op = Mo.sst then some { a := .s, b := .s, imm := 0xFFF }
  else if op = Mo.sld then some { d := .s, a := .s, imm := 0xFFF }
  else if op = Mo.sext then
    some { d := .s, a := if f.width == 32 && f.cls == 1 then .w else .v, b := .s, fmt := true, imm := 0xFFF }
  else if op = Mo.atom then
    some { d := .s, a := .s, b := .s, c := .s, e := if fieldOf x 52 4 = 9 then .s else .none, imm := 0x3F }
  else if op = Mo.txopen || op = Mo.txcommit || op = Mo.txabort || op = Mo.txchk then some { d := .s }
  else if op = Mo.vld then some { d := .v, a := .s, c := .s, fmt := true, imm := 0xFFF, vec := true }
  else if op = Mo.vst then some { a := .v, b := .s, c := .s, fmt := true, imm := 0xFFF, vec := true }
  else if op = Mo.vlds then some { d := .v, a := .s, c := .s, imm := 0xFFF, vec := true }
  else if op = Mo.vsts then some { a := .v, b := .s, c := .s, imm := 0xFFF, vec := true }
  else if op = Mo.vclr then some { d := .v, vec := true }
  else if op = Mo.vfma then
    some { d := .v, a := .v, b := if bcastOf x then .w else .v, c := .v, fmt := true, rnd := true
           imm := Form.sx + Form.bc, vec := true }
  else if op = Mo.wfma then some { d := .w, a := .w, b := .w, c := .w, rnd := true, imm := Form.sx + Form.bc, vec := true }
  else if op = Mo.wmax || op = Mo.wmin then some { d := .w, a := .w, b := .w, imm := Form.sx + Form.bc, vec := true }
  else if op = Mo.wexp2 || op = Mo.wrcp || op = Mo.wrsq then some { d := .w, a := .w, vec := true }
  else if op = Mo.wsqrt then some { d := .w, a := .w, rnd := true, vec := true }
  else if op = Mo.wdiv then some { d := .w, a := .w, b := .w, rnd := true, imm := Form.sx + Form.bc, vec := true }
  else if op = Mo.cvt then
    some { d := if inPairs g (bcastOf x) then .w else .v, a := if inPairs f (bcastOf x) then .w else .v
           fmt := true, rnd := true, sat := true, imm := Form.f2 + Form.bc, vec := true }
  else if op = Mo.qnt then some { d := .v, a := .w, c := .v, rnd := true, sat := true, imm := Form.f2 + Form.sx, vec := true }
  else if op = Mo.dot then
    some { d := .w, a := .v, b := .v, c := mx f, e := mx g, fmt := true, rnd := true
           imm := Form.f2 + (if f.cls = 2 || g.cls = 2 then Form.sx else 0), vec := true }
  else if op = Mo.dotr then
    some { d := .w, a := .v, b := .v, c := mx f, e := mx g, fmt := true, rnd := true, imm := Form.f2 + Form.sx, vec := true }
  else if op = Mo.wmac then some { d := .w, a := .v, b := .w, c := mx f, fmt := true, rnd := true, imm := Form.sx, vec := true }
  else if op = Mo.red then some { d := .w, a := .w, fmt := true, imm := Form.sx + 0x60, vec := true }
  else if op = Mo.wbc then some { d := .w, a := .w, imm := Form.sx, vec := true }
  else none

/-- Bits of a register field that must be zero. -/
def Use.spare (u : Use) (r : Nat) : Bool :=
  match u with
  | .none => r != 0
  | .s => decide (32 ≤ r)
  | _ => false

/-- Rule 1: reserved bits and unused fields are zero. -/
def Form.spare (f : Form) (x : DWord) : Bool :=
  if opOf x = Mo.sli then f.d.spare (dOf x)
  else f.d.spare (dOf x) || f.a.spare (aOf x) || f.b.spare (bOf x) || f.c.spare (cOf x) || f.e.spare (eOf x)
    || (!f.fmt && fmtOf x != 0) || (!f.rnd && rndOf x != 0) || (!f.sat && satOf x) || fieldOf x 51 1 != 0
    || Nat.land (fieldOf x 52 12) f.imm != fieldOf x 52 12 || (opOf x == Mo.red && fieldOf x 57 2 == 3)

/-- Registers from V r on that a field's operand fills (rule 3). -/
def Form.groups (op : Nat) (f fe ge : Fmt) (x : DWord) : List (Nat × Nat) :=
  let six (h : Fmt) : Nat := if h.width = 6 then 2 else 1
  if op = Mo.vld then [(dOf x, six fe)]
  else if op = Mo.vst then [(aOf x, six fe)]
  else if op = Mo.dot || op = Mo.dotr then [(aOf x, six fe), (bOf x, six ge), (dOf x, 2)]
  else if op = Mo.wmac then [(dOf x, if fe.width = 8 then 4 else 2), (bOf x, 2)]
  else if op = Mo.qnt then [(aOf x, qntCount ge / 32), (dOf x, six ge)]
  else if op = Mo.cvt then
    let n := cvtCount fe ge
    let regs (h : Fmt) : Nat := if inPairs h (bcastOf x) then n / 64 * 2 else if h.width = 32 then n / 32 else n / perReg h.width
    [(aOf x, regs fe), (dOf x, regs ge)]
  else if op = Mo.vfma && bcastOf x then [(bOf x, 2)]
  else if op = Mo.sext && f.width = 32 && f.cls = 1 then [(aOf x, 2)]
  else []

/-- Rule 4: the format's class is one the operation takes (Tables 06-4, 07-14). -/
def classOk (op : Nat) (f fe g ge : Fmt) : Bool :=
  let plain (h : Fmt) : Bool := h.cls ≤ 1
  if op = Mo.vfma then f.cls == 0 && (f.width == 16 || f.width == 32)
  else if op = Mo.cvt then plain f && plain g
  else if op = Mo.qnt then g.cls == 2
  else if op = Mo.dot || op = Mo.dotr then fe.width != 32 && ge.width != 32
  else if op = Mo.red then f.width == 32 && plain f
  else true

/-- The rule of Table 07-15 that instruction i of a sequence of n breaks, the lowest first. -/
def brokenRule (fs : List Fmt) (n i : Nat) (x : DWord) : Option Nat :=
  let el (h : Fmt) : Fmt := if h.cls = 2 then fs.getD h.elem {} else h
  let f := fs.getD (fmtOf x) {}
  let g := fs.getD (fmt2Of x) {}
  let op := opOf x
  match formOf f g x with
  | none => some 1
  | some m =>
    let two := Nat.land m.imm Form.f2 == Form.f2 && op != Mo.sadd && m.vec && op != Mo.vld && op != Mo.vst && op != Mo.vlds && op != Mo.vsts
    let odd (u : Use) (r : Nat) : Bool := u == .w && r % 2 == 1
    let target : Int := (i : Int) + (immOf x).toInt
    if m.spare x then some 1
    else if op != Mo.sli && (if m.vec then decide (4 < engOf x) else engOf x != 0) then some 2
    else if odd m.d (dOf x) || odd m.a (aOf x) || odd m.b (bOf x) || odd m.c (cOf x)
        || (Form.groups op f (el f) (el g) x).any fun r => decide (64 < r.1 + r.2) then some 3
    else if (m.fmt && !f.valid) || (two && !g.valid) || !classOk op f (el f) g (el g) then some 4
    else if (op == Mo.dot || op == Mo.dotr) && rateClass (el f).width != rateClass (el g).width then some 5
    else if op == Mo.wmac && (el f).width != 8 && (el f).width != 16 then some 5
    else if m.rnd && (rndOf x == 5 || rndOf x == 6) then some 6
    else if (op == Mo.beq || op == Mo.bne || op == Mo.blt || op == Mo.bge) && (decide (target < 0) || decide ((n : Int) ≤ target)) then some 7
    else if i + 1 == n && op != Mo.endTask && !(op == Mo.beq && aOf x == 0 && bOf x == 0) then some 8
    else none

/-- The first refused instruction of a sequence and its rule. -/
def firstBroken (fs : List Fmt) (n : Nat) : Nat → List DWord → Option (Nat × Nat)
  | _, [] => none
  | i, x :: xs =>
    match brokenRule fs n i x with
    | some r => some (i, r)
    | none => firstBroken fs n (i + 1) xs

namespace State

/-! ### The store -/

/-- Slots that a sequence takes, in units of 64 (R171). -/
def seqSlots (prog : List DWord) : Nat := (prog.length + 63) / 64 * 64

/-- CLU_SEQ_STATUS after a command (Table 07-18). -/
def seqResult (s : State) (st idx rule : Nat) : State :=
  let used := s.seqs.foldl (fun a e => a + seqSlots e.2.prog) 0
  ((((s.wr F.cluSeqStatus_busy 0 0).wr F.cluSeqStatus_result 0 st).wr F.cluSeqStatus_failIndex 0 idx).wr F.cluSeqStatus_failRule 0 rule).wr
    F.cluSeqStatus_free 0 (32768 - used)

/-- Read n lines of a sequence, or of a plan record, from a local offset (R172, R203). -/
inductive SeqRead where
  | bytes (b : List Byte)
  | failed (status : Nat)
  | poison
  | wait
  deriving DecidableEq, Repr

def seqRead (p : Nat) : Nat → Nat → List Byte → State → SeqRead × State
  | 0, _, acc, s => (.bytes acc, s)
  | n + 1, off, acc, s =>
    match s.homeRead (· == .on) p off with
    | (.failed st, s) => (.failed st, s)
    | (.wait, s) => (.wait, s)
    | (.data l poison, s) => if poison then (.poison, s) else seqRead p n (off + 128) (acc ++ lineBytes l) s

/-- LOAD (R172). A source line that an owner holds is recalled first, and the command stays BUSY. -/
def seqLoad (s : State) : State :=
  let h := s.rd F.cluSeqCmd_handle
  let len := s.rd F.cluSeqCmd_length
  let p := s.rd F.cluSeqCmd_partition
  let off := s.rd F.cluSeqSrc_offset
  if len = 0 || 4096 < len || off % 128 ≠ 0 || (!s.partitioned && p ≠ 0) then s.seqResult St.badRequest 0 0
  else if (s.seqs.look h).isSome then s.seqResult St.busy 0 0
  else if s.rd F.cluSeqStatus_free < (len + 63) / 64 * 64 then s.seqResult St.capacity 0 0
  else match seqRead p ((len * 8 + 127) / 128) off [] s with
    | (.failed st, s) => s.seqResult st 0 0
    | (.poison, s) => s.seqResult St.poison 0 0
    | (.wait, t) => (comeBack s t).wr F.cluSeqStatus_busy 0 1
    | (.bytes b, s) =>
      let prog := (List.range len).map fun i => BitVec.ofNat 64 (leNat b (8 * i) 8)
      let fs := (List.range 64).map fun i => Fmt.ofReg (s.stageReg .engFmt i 0)
      match firstBroken fs len 0 prog with
      | some (i, r) => s.seqResult St.badRequest i r
      | none =>
        let old := s.rot.meas.lookD 6 0
        let own := Config.sha384 (b.take (len * 8))
        let log := Config.sha384 (leBytes old.toNat 48 ++ [BitVec.ofNat 8 h, BitVec.ofNat 8 p] ++ leBytes own.toNat 48)
        let s := { s with seqs := s.seqs.put h { partition := p, prog := prog }, rot := { s.rot with meas := s.rot.meas.put 6 log } }
        s.seqResult St.ok 0 0

/-- The line that holds a virtual address of an address space, as it stands; nothing changes (for UNLOAD). -/
def peekVa (s : State) (asid va : Nat) : Option LineData :=
  let p := (s.asdOf asid).2
  match (s.readAsd asid).1 with
  | .ok _ root =>
    match (walkFrom p asid va 3 root s).1 with
    | .leaf e =>
      let a := e.addr + va % 2 ^ pageBits e.level
      if a / 2 ^ 52 ≠ s.node then none
      else match (s.homeRead ExtState.serves p (a % 2 ^ 52)).1 with
        | .data l _ => some l
        | _ => none
    | _ => none
  | _ => none

/-- A task names a handle (R172): a USER descriptor, read already or where it lies. One that cannot be read there now, on another node among
others, counts as naming it (DESIGN CHOICE, log 71). -/
def taskNames (s : State) (t : Task) (h : Nat) : Bool :=
  if t.desc.isEmpty then
    match s.peekVa t.asid t.addr with
    | some l => leNat (lineBytes l) (t.addr % 128) 1 == 0x10 && leNat (lineBytes l) (t.addr % 128 + 3) 1 == h
    | none => true
  else leNat t.desc 0 1 == 0x10 && leNat t.desc 3 1 == h

/-- A queued or running task names a handle; a saved task counts as running (R172, R194). -/
def seqNamed (s : State) (h : Nat) : Bool :=
  (s.clu.ctx.any fun e => s.taskNames e.2.task h) || (s.clu.saved.any fun v => s.taskNames v.ctx.task h)
    || (s.clu.window.any fun w => w.2.any fun t => s.taskNames t h)

/-- UNLOAD (R172). -/
def seqUnload (s : State) : State :=
  let h := s.rd F.cluSeqCmd_handle
  if s.seqNamed h then s.seqResult St.busy 0 0
  else ({ s with seqs := s.seqs.del h } : State).seqResult St.ok 0 0

/-- A command of CLU_SEQ_CMD; `own` is the partition of the function that wrote it, if it has one (R172, R319). -/
def seqCommand (s : State) (op : Nat) (own : Option Nat) : State :=
  let p := s.rd F.cluSeqCmd_partition
  match op with
  | 0 => s
  | 1 => if own.any (· != p) then s.seqResult St.noRights 0 0 else s.seqLoad
  | 2 => if own.any (· != p) then s.seqResult St.noRights 0 0 else s.seqUnload
  | _ => s.seqResult St.badRequest 0 0

/-- A LOAD that waits for a recall goes on. -/
def seqRetry (s : State) : State := if s.flag F.cluSeqStatus_busy then s.seqLoad else s

end State

end Sys2Proof.Machine
end

