-- ==== Sys2Proof/Machine/Collectives.lean ====
section
/-! DEFINITION. Collective plans (chapter 09): the record, arming and disarming, runs, delivery, aborts, reservations. -/

namespace Sys2Proof.Machine

/-! ### Opcodes and causes (Tables 09-4, 09-5) -/

def Op.colArm : Nat := 0x50
def Op.colArmAck : Nat := 0x51
def Op.colDisarm : Nat := 0x52
def Op.colDisarmAck : Nat := 0x53
def Op.colPut : Nat := 0x54
def Op.colResult : Nat := 0x55
def Op.colDone : Nat := 0x56
def Op.colAbort : Nat := 0x57

def Pc.lost : Nat := 1
def Pc.path : Nat := 2
def Pc.timeout : Nat := 3
def Pc.explicit : Nat := 4
def Pc.protocol : Nat := 5
def Pc.task : Nat := 6
def Pc.rights : Nat := 7
def Pc.revoked : Nat := 8
def Pc.withdrawn : Nat := 9

/-! ### The record (R198 to R201) -/

namespace PlanRec

def fmt (r : PlanRec) (k : Nat) : Fmt := Fmt.ofReg (r.fmts.getD k 0)
def elem (r : PlanRec) (f : Fmt) : Fmt := if f.cls = 2 then r.fmt f.elem else f

/-- Bytes of the elements, and of the scale array, of n elements in a format (R200). -/
def elemBytes (r : PlanRec) (k n : Nat) : Nat := n * (r.elem (r.fmt k)).width / 8
def scaleBytes (r : PlanRec) (k n : Nat) : Nat := if (r.fmt k).cls = 2 then n / 32 else 0
def image (r : PlanRec) (k : Nat) : Nat := r.elemBytes k r.count + r.scaleBytes k r.count

/-- The SEND entries in order: sender rank → entry index (R199). -/
def senders (r : PlanRec) : List Nat := (List.range r.entries.length).filter fun i => ((r.entries[i]?).map (·.send)).getD false

def n0 (r : PlanRec) : Nat := r.senders.length
def broadcast (r : PlanRec) : Bool := r.kind == 3

/-- Groups of a level of the tree: n_ℓ (R201). -/
def groups (r : PlanRec) : Nat → Nat
  | 0 => r.n0
  | l + 1 => (groups r l + 15) / 16

/-- L: 1, 2 or 3 levels for up to 512 senders. -/
def levels (r : PlanRec) : Nat := if r.groups 1 = 1 then 1 else if r.groups 2 = 1 then 2 else 3

/-- A mean that ends in a SCALE_ACC (R201, R208). -/
def longMean (r : PlanRec) : Bool := r.op == 3 && decide (16 < r.n0)

/-- P of R201. -/
def partials (r : PlanRec) : Nat :=
  if r.broadcast then 0
  else ((List.range (r.levels - 1)).map fun l => r.groups (l + 1)).sum + r.longMean.toNat

/-- Number of the partial that group g of level l writes. -/
def partialIdx (r : PlanRec) (l g : Nat) : Nat := ((List.range (l - 1)).map fun k => r.groups (k + 1)).sum + g

/-- Bytes of the buffer layout. -/
def layout (r : PlanRec) : Nat := r.n0 * r.image r.inFmt + r.partials * (4 * r.count) + if r.pool then 0 else r.image r.outFmt

def chunks (r : PlanRec) : Nat := (r.count + r.chunk - 1) / r.chunk

/-- Elements of chunk c. -/
def chunkLen (r : PlanRec) (c : Nat) : Nat := min r.chunk (r.count - c * r.chunk)

/-- Lines of chunk c of a contribution. -/
def chunkLines (r : PlanRec) (c : Nat) : Nat :=
  (r.elemBytes r.inFmt (r.chunkLen c) + r.scaleBytes r.inFmt (r.chunkLen c)) / 128

/-- The chunk of the line at a byte offset of a contribution image. -/
def chunkOf (r : PlanRec) (off : Nat) : Nat :=
  let eb := r.elemBytes r.inFmt r.count
  if off < eb then off / r.elemBytes r.inFmt r.chunk else (off - eb) / r.scaleBytes r.inFmt r.chunk

/-- A participant entry of 16 bytes (Table 09-2). -/
def entryOf (b : List Byte) : PlanEntry :=
  let v := leNat b 0 4
  ⟨BitVec.ofNat 20 v, v / 2 ^ 20 % 2 == 1, v / 2 ^ 21 % 2 == 1, leNat b 8 8⟩

/-- The record that a header and its entries name. -/
def ofBytes (b : List Byte) (fmts : List (BitVec 128)) : PlanRec :=
  let n := leNat b 4 2
  { kind := leNat b 0 1, op := leNat b 1 1, inFmt := leNat b 2 1, outFmt := leNat b 3 1, mode := leNat b 6 1
    push := leNat b 7 1 % 2 == 1, pool := leNat b 7 1 / 2 % 2 == 1, chunk := leNat b 8 2 * 4096, conc := leNat b 10 1
    partition := leNat b 11 1 % 16, principal := leNat b 12 4 % 2 ^ 20, count := leNat b 16 8, bufExt := leNat b 24 4 % 4096
    runTimeout := leNat b 28 4, result := leNat b 32 8
    entries := (List.range n).map fun i => entryOf (b.drop (128 + 16 * i)), fmts := fmts }

end PlanRec

namespace State

/-- A format index of a record names a valid descriptor that p accepts. -/
def recFmt (r : PlanRec) (k : Nat) (p : Fmt → Bool) : Bool := decide (k < 64) && (r.fmt k).valid && p (r.fmt k)

/-- INT8 as a contribution format (Table 09-1). -/
def isInt8 (f : Fmt) : Bool := f.cls == 1 && f.width == 8

/-- The checks of R199 on a record's bytes. -/
def recordOk (s : State) (pl : Nat) (b : List Byte) (r : PlanRec) : Bool :=
  let int := isInt8 (r.fmt r.inFmt)
  let part := r.count / r.entries.length
  zeroBytes b 40 88 && leNat b 6 1 / 32 == 0 && leNat b 7 1 / 4 == 0 && leNat b 11 1 / 16 == 0 && leNat b 12 4 / 2 ^ 20 == 0
    && leNat b 24 4 / 4096 == 0 && decide (1 ≤ r.kind) && decide (r.kind ≤ 3) && decide (r.op ≤ 3)
    && (!r.broadcast || (r.op == 0 && r.outFmt == r.inFmt)) && r.mode % 8 != 5 && r.mode % 8 != 6
    && recFmt r r.inFmt (fun f => f.cls != 1 || int)
    && recFmt r r.outFmt (fun f => r.broadcast || (if int then f.cls == 1 && f.width == 32 && r.op == 0 else f.cls != 1))
    && decide (1 ≤ r.entries.length) && decide (r.entries.length ≤ 512) && (r.push || r.pool)
    && decide (1 ≤ leNat b 8 2) && decide (leNat b 8 2 ≤ 256) && decide (1 ≤ r.conc) && decide (r.conc ≤ 32)
    && r.count % 4096 == 0 && decide (4096 ≤ r.count) && decide (r.count ≤ 2 ^ 32)
    && decide (100 ≤ r.runTimeout) && decide (r.runTimeout ≤ 1000000)
    && (List.range r.entries.length).all (fun i =>
        let e := b.drop (128 + 16 * i)
        leNat e 0 4 / 2 ^ 22 == 0 && zeroBytes e 4 4
          && (if (leNat e 0 4 / 2 ^ 21 % 2 == 1) && r.push then leNat e 8 8 % 128 == 0 else leNat e 8 8 == 0))
    && decide (r.entries.map (·.id)).Nodup && decide (1 ≤ r.n0) && (!r.broadcast || r.n0 == 1)
    && (r.kind != 2 || (r.entries.all (fun e => e.send && e.recv) && r.count % r.entries.length == 0 && part % r.chunk == 0))
    && (match s.home.ext.look r.bufExt with
        | some x => x.state == .on && x.attr.oneDie && !x.attr.coherent && !x.attr.countEn && x.attr.rights.isEmpty
            && x.attr.partition == r.partition && decide (r.layout ≤ x.attr.count * 2 ^ 21)
            && (s.place x.attr.tier2 true (x.attr.base * 2 ^ 21)).1 == pl / 16
        | none => false)
    && (if r.pool then
          r.result % 128 == 0 && r.result / 2 ^ 52 == s.node
            && (match s.onExtent r.partition (r.result % 2 ^ 52), s.onExtent r.partition (r.result % 2 ^ 52 + r.image r.outFmt - 1) with
                | some a, some b => a.1 == b.1
                | _, _ => false)
        else r.result == 0)

/-! ### Plans -/

def getPlan (s : State) (p : Nat) : Plan := s.col.plans.lookD p {}
def uCol (s : State) (f : Col → Col) : State := { s with col := f s.col }
def setPlan (s : State) (p : Nat) (x : Plan) : State := s.uCol fun c => { c with plans := c.plans.putC {} p x }

/-- State codes of COL_PLAN_STATUS (Table 09-9). -/
def planState (s : State) (p : Nat) : Nat := s.rd F.colPlanStatus_state p

/-- PLAN_STATE (R202, Table 21-2). -/
def planEvent (s : State) (p : Nat) : State :=
  s.raise { type := 0x1301, part := ((s.getPlan p).record).map (·.partition), die := p / 16, inst := p,
            status := s.rd F.colPlanStatus_result p,
            arg := [BitVec.ofNat 8 p, BitVec.ofNat 8 (s.planState p), BitVec.ofNat 8 (s.rd F.colPlanStatus_gen p)] }

/-- COLTAG of entry i (R205). -/
def colTag (s : State) (p i run : Nat) : BitVec 32 :=
  BitVec.ofNat 32 (p + s.rd F.colPlanStatus_gen p * 2 ^ 6 + i % 512 * 2 ^ 14 + run % 512 * 2 ^ 23)

/-- A packet of plan p's unit to entry i: MGT or COL, with a status and a cause or address. -/
def colSend (s : State) (p i : Nat) (op chan : Nat) (status addr : Nat) (len : Nat := 0) (data : LineData := 0) (poison : Bool := false)
    (fence : Bool := false) : State :=
  match (s.getPlan p).record with
  | none => s
  | some r => match r.entries[i]? with
    | none => s
    | some e =>
      let a := if op = Op.colResult then addr else e.id.toNat / 256 * 2 ^ 52 + addr
      s.send (p / 16) { opcode := BitVec.ofNat 8 op, chan := BitVec.ofNat 3 chan, src := s.endpoint (0xD0 + p / 16),
                        principal := BitVec.ofNat 20 r.principal, dlocal := BitVec.ofNat 8 e.id.toNat, len := BitVec.ofNat 3 len,
                        sub := BitVec.ofNat 6 status, fence := fence, txid := s.colTag p i (s.rd F.colPlanStatus_run p),
                        addr := BitVec.ofNat 64 a, data := data, poison := poison }

/-- COL_ARM's payload (R236): the participant entry, KIND, OUT_FMT and COUNT. -/
def armPayload (r : PlanRec) (e : PlanEntry) : LineData :=
  BitVec.ofNat 1024 (e.id.toNat + e.send.toNat * 2 ^ 20 + e.recv.toNat * 2 ^ 21 + e.dest * 2 ^ 64 + r.kind * 2 ^ 128
    + r.outFmt * 2 ^ 136 + r.count * 2 ^ 192)

/-- Step 1 of Table 09-3 for a plan in STARTING without its record: copy and check it, then send COL_ARM to every participant. A line
that an owner holds is recalled first, and the copy goes on when it has come. -/
def copyRecord (s : State) (p : Nat) : State :=
  if s.planState p ≠ 1 || (s.getPlan p).record.isSome then s
  else
    let off := (s.getPlan p).src
    let part := match s.findExt (· == .on) off with
      | some (_, x) => x.attr.partition
      | none => 0
    let fail (s : State) : State := ((s.wr F.colPlanStatus_state p 0).wr F.colPlanStatus_result p St.badRequest).planEvent p
    match seqRead part 1 off [] s with
    | (.wait, s) => s
    | (.bytes h, s) =>
      match seqRead part ((16 * min 512 (leNat h 4 2) + 127) / 128) (off + 128) h s with
      | (.wait, s) => s
      | (.bytes b, s) =>
        let fmts := (List.range 64).map fun i => s.stageReg .engFmt i (p / 16)
        let r := PlanRec.ofBytes b fmts
        if leNat b 4 2 > 512 || off % 128 ≠ 0 || !s.recordOk p b r then fail s
        else
          let s := s.setPlan p { s.getPlan p with record := some r }
          (List.range r.entries.length).foldl (fun s i => match r.entries[i]? with
            | some e => s.colSend p i Op.colArm 4 0 0 3 (armPayload r e)
            | none => s) s
      | (_, s) => fail s
    | (_, s) => fail s

/-- ARM of a plan in OFF, with the record it names: STARTING under the next GEN. -/
def startArm (s : State) (p src : Nat) : State :=
  let s := s.setPlan p { src := src, floor := s.rd F.colCtrl_floor }
  let s := (s.wr F.colPlanStatus_state p 1).wr F.colPlanStatus_gen p (s.rd F.colPlanStatus_gen p + 1)
  ((s.wr F.colPlanStatus_run p 0).wr F.colPlanStatus_running p 0).copyRecord p

/-- A plan whose disarm answers are in, or have been waited for, reaches OFF; a held ARM begins. -/
def planOff (s : State) (p : Nat) : State :=
  let again := s.planState p == 4
  let src := (s.getPlan p).src
  let s := (s.wr F.colPlanStatus_state p 0).planEvent p
  let s := (s.setPlan p {}).withdrawsGo
  if again then s.startArm p src else s

/-- Disarm by R204, telling the participants of some entries. -/
def disarmOf (s : State) (p : Nat) (told : PlanRec → List Nat) : State :=
  let x := s.getPlan p
  let s := (s.wr F.colPlanStatus_running p 0).wr F.colPlanStatus_state p 3
  match x.record with
  | none => s.planOff p
  | some r =>
    let s := s.setPlan p { x with run := none, answered := [], leaving := told r }
    if (told r).isEmpty then s.planOff p else (told r).foldl (fun s i => s.colSend p i Op.colDisarm 4 0 0) s

/-- Disarm by R204. -/
def disarm (s : State) (p : Nat) : State := s.disarmOf p fun r => List.range r.entries.length

/-- Running tasks of a plan, with their contexts. -/
def planTasks (s : State) (p : Nat) : List (Nat × Context) := s.clu.ctx.filter fun e => e.2.task.plan == some p

/-- Fabric address of a byte of the plan's buffer. -/
def bufAddr (s : State) (r : PlanRec) (b : Nat) : Nat :=
  match s.home.ext.look r.bufExt with
  | some x => s.node * 2 ^ 52 + tierOffset x.attr.tier2 (x.attr.base * 2 ^ 21) + b
  | none => 0

/-- The image of sender rank k, partial j, and the result, as tensor references of a chunk's first element. -/
def slotRef (s : State) (r : PlanRec) (k i : Nat) : TRef :=
  let b := k * r.image r.inFmt
  ⟨s.bufAddr r (b + r.elemBytes r.inFmt i), if (r.fmt r.inFmt).cls = 2 then s.bufAddr r (b + r.elemBytes r.inFmt r.count + r.scaleBytes r.inFmt i) else 0⟩

def partialRef (s : State) (r : PlanRec) (j i : Nat) : TRef :=
  ⟨s.bufAddr r (r.n0 * r.image r.inFmt + j * (4 * r.count) + 4 * i), 0⟩

/-- Fabric address of the result image: RESULT, or the buffer's last part. -/
def resultBase (s : State) (r : PlanRec) : Nat :=
  if r.pool then r.result else s.bufAddr r (r.n0 * r.image r.inFmt + r.partials * (4 * r.count))

def resultRef (s : State) (r : PlanRec) (i : Nat) : TRef :=
  let b := s.resultBase r
  ⟨b + r.elemBytes r.outFmt i, if (r.fmt r.outFmt).cls = 2 then b + r.elemBytes r.outFmt r.count + r.scaleBytes r.outFmt i else 0⟩

/-- The last step of a chunk: its level and group. -/
def lastStep (r : PlanRec) : Nat := if r.longMean then r.levels + 1 else r.levels

/-- Byte offsets, in an image of n elements in a format, of the lines of elements i to i + k − 1. -/
def imageLines (r : PlanRec) (fmt n i k : Nat) : List Nat :=
  (List.range (r.elemBytes fmt k / 128)).map (fun j => r.elemBytes fmt i + 128 * j)
    ++ (List.range (r.scaleBytes fmt k / 128)).map fun j => r.elemBytes fmt n + r.scaleBytes fmt i + 128 * j

/-- Fabric addresses of the lines of the buffer and at RESULT that an open run has touched (R207, R208, R212). -/
def touched (s : State) (p : Nat) (r : PlanRec) (x : PlanRun) : List Nat :=
  let image (b fmt c : Nat) : List Nat := (imageLines r fmt r.count (c * r.chunk) (r.chunkLen c)).map (b + ·)
  let slots := (x.lines.filter fun e => e.2 != 0).flatMap fun e =>
    image (s.bufAddr r (e.1 / 2 ^ 21 * r.image r.inFmt)) r.inFmt (e.1 % 2 ^ 21)
      ++ if r.broadcast && r.pool then image r.result r.inFmt (e.1 % 2 ^ 21) else []
  let out (t : Nat × Nat × Nat) : List Nat :=
    if t.2.1 = lastStep r then image (s.resultBase r) r.outFmt t.1
    else (List.range (r.chunkLen t.1 * 4 / 128)).map fun i => (s.partialRef r (r.partialIdx t.2.1 t.2.2) (t.1 * r.chunk)).addr + 128 * i
  let running := (s.planTasks p).map fun t => (t.2.task.id, t.2.task.place, t.2.task.target)
  let whole := x.delivered.flatMap fun c => (List.range (lastStep r)).flatMap fun j =>
    (List.range (if j + 1 = r.levels + 1 then 1 else r.groups (j + 1))).map fun g => (c, j + 1, g)
  slots ++ if r.broadcast then [] else (x.done ++ running ++ whole).dedup.flatMap out

/-- A principal may write an extent under its rights, or could before the last change (Table 02-11). -/
def mayWrite (s : State) (p : Nat) (x : Extent) : Bool :=
  (s.rightsOf x.attr.partition x.attr.rights (BitVec.ofNat 20 p)).2.1 || (s.rightsOf x.attr.partition x.prev (BitVec.ofNat 20 p)).2.1

/-- A line of an extent that `may` admits holds an undefined value: a free one, poisoned or not (R8, log 65). -/
def spoilLine (s : State) (may : Nat → Extent → Bool) (a : Nat) : State :=
  match s.findExt (fun e => e != .off) (a % 2 ^ 52) with
  | some (i, x) =>
    if may i x then
      let k := s.lineAt x.attr (a % 2 ^ 52)
      (s.reportWrite k).freeLineAt k
    else s
  | none => s

/-- What an open run has touched holds undefined values once its plan aborts: its buffer, and what its principal may write at RESULT (R212). -/
def spoilRun (s : State) (p : Nat) : State :=
  match (s.getPlan p).record, (s.getPlan p).run with
  | some r, some x => (s.touched p r x).foldl (fun s a => s.spoilLine (fun i e => i == r.bufExt || s.mayWrite r.principal e) a) s
  | _, _ => s

/-- Abort a plan that is STARTING or ON (R212, Table 09-6); `failed` is the entry it names. In STARTING only the participants that have
answered hear of it. -/
def abortPlan (s : State) (p cause : Nat) (failed : Option Nat := none) : State :=
  if s.planState p ≠ 1 && s.planState p ≠ 2 then s
  else
    let s := s.spoilRun p
    let x := s.getPlan p
    let heard (r : PlanRec) : List Nat := (List.range r.entries.length).filter fun i => s.planState p == 2 || x.answered.contains i
    let tell := ((x.record.map heard).getD []).filter fun i => some i != failed
    let s := (s.planTasks p).foldl (fun s t =>
      if t.2.phase = .run then s.stopCtx (t.1 / 8) (t.1 % 8) St.planAbort 0 true else s) s
    let s := tell.foldl (fun s i => s.colSend p i Op.colAbort 3 St.planAbort cause) s
    let s := ((s.wr F.colPlanStatus_result p St.planAbort).wr F.colPlanStatus_cause p cause).bump F.colStat_aborts p
    let s := (s.wr F.colPlanStatus_failed p (failed.getD 0)).wrB F.colPlanStatus_failedValid p failed.isSome
    let s := s.raise { type := 0x1302, sev := 2, part := x.record.map (·.partition), die := p / 16, inst := p, status := St.planAbort,
                       arg := [BitVec.ofNat 8 p, BitVec.ofNat 8 cause] ++ leBytes (failed.getD 0xFFFF) 2 }
    s.disarmOf p heard

/-- Abort every plan that pred picks, naming the entry it gives. -/
def abortPlans (s : State) (cause : Nat) (pred : Nat → Plan → Option (Option Nat)) : State :=
  s.col.plans.foldl (fun s e => match pred e.1 e.2 with
    | some failed => s.abortPlan e.1 cause failed
    | none => s) s

/-- The entry of a plan whose endpoint p picks. -/
def entryWhere (x : Plan) (p : Endpoint → Bool) : Option Nat :=
  x.record.bind fun r => (List.range r.entries.length).find? fun i => ((r.entries[i]?).map fun e => p e.id).getD false

/-- Plans with an entry whose endpoint pred picks abort with PARTICIPANT_LOST (Table 09-5). -/
def loseParticipants (s : State) (pred : Endpoint → Bool) : State :=
  s.abortPlans Pc.lost fun _ x => (entryWhere x pred).map some

/-- WITHDRAW is issued for an extent: plans whose buffers or results it holds abort (Table 09-5). -/
def plansOfExtent (s : State) (e : Nat) : State :=
  s.abortPlans Pc.withdrawn fun _ x => if (x.record.map (s.planUses e)).getD false then some none else none

/-- COL_PLAN_CMD (Tables 09-6, 17-11). An ARM held in STOPPING keeps the record that it names (R202) and gives OK: DESIGN CHOICE, log 74. -/
def planCommand (s : State) (p op : Nat) : State :=
  let st := s.planState p
  let open_ := s.flag F.colPlanStatus_running p
  let res (s : State) (v : Nat) : State := s.wr F.colPlanStatus_result p v
  let src := s.rd F.colPlanSrc_offset
  if op = 1 then
    if st = 0 then (res s St.ok).startArm p src
    else if st = 3 then ((res s St.ok).setPlan p { s.getPlan p with src := src }).wr F.colPlanStatus_state p 4
    else res s St.busy
  else if op = 2 then
    if st = 1 || (st = 2 && open_) then s.abortPlan p Pc.explicit
    else if st = 2 then (res s St.ok).disarm p
    else if st = 4 then res (s.wr F.colPlanStatus_state p 3) St.ok
    else res s St.ok
  else if op = 3 then
    if st = 1 || (st = 2 && open_) then s.abortPlan p Pc.explicit else res s St.ok
  else s

/-! ### Answers (R203, R204) -/

/-- The plan and entry that a COLTAG of this node names under the current GEN. -/
def tagOf (s : State) (t : BitVec 32) : Option (Nat × Nat) :=
  let n := t.toNat
  let p := n % 64
  if n / 2 ^ 6 % 256 = s.rd F.colPlanStatus_gen p then some (p, n / 2 ^ 14 % 512) else none

/-- An entry of the plan has the endpoint that a packet comes from. -/
def isEntry (s : State) (p i : Nat) (src : Endpoint) : Bool :=
  match (s.getPlan p).record.bind fun r => r.entries[i]? with
  | some e => e.id == src
  | none => false

/-- The arm ends with a failing status: RESULT, and a disarm (R203). -/
def endArm (s : State) (p status : Nat) : State := (s.wr F.colPlanStatus_result p status).disarm p

/-- COL_ARM_ACK at the unit: the participant's answer, or that of a port in its place. -/
def armAnswer (s : State) (q : Packet) : State :=
  match s.tagOf q.txid with
  | none => s
  | some (p, i) =>
    let st := takenStatus (q.sub.toNat % 32)
    if s.planState p ≠ 1 then s
    else match (s.getPlan p).record with
      | none => s
      | some r =>
        if st ≠ 0 then s.endArm p st
        else if !s.isEntry p i q.src then s
        else
          let x := s.getPlan p
          let s := s.setPlan p { x with answered := if x.answered.contains i then x.answered else x.answered ++ [i] }
          if (s.getPlan p).answered.length = r.entries.length then
            ((s.wr F.colPlanStatus_state p 2).wr F.colPlanStatus_result p St.ok).planEvent p
          else s

/-- COL_DISARM_ACK at the unit. -/
def disarmAnswer (s : State) (q : Packet) : State :=
  match s.tagOf q.txid with
  | none => s
  | some (p, i) =>
    if (s.planState p ≠ 3 && s.planState p ≠ 4) || !s.isEntry p i q.src then s
    else
      let x := s.getPlan p
      let left := x.leaving.filter (· ≠ i)
      let s := s.setPlan p { x with leaving := left }
      if left.isEmpty && !x.leaving.isEmpty then s.planOff p else s

/-- ARM_TIMEOUT (R203, R204). -/
def armTimeout (s : State) (p : Nat) : State :=
  if s.planState p = 1 && (s.getPlan p).record.isSome then s.endArm p St.timeout
  else if s.planState p = 3 || s.planState p = 4 then s.planOff p
  else s

/-! ### Tree tasks (R207, R208) -/

/-- Bytes of a tensor reference. -/
def trefBytes (t : TRef) : List Byte := leBytes t.addr 8 ++ leBytes t.scale 8

/-- Format of partials: INT32 for an INT8 sum, else binary32. -/
def partialFmt (r : PlanRec) : Nat := if isInt8 (r.fmt r.inFmt) then 9 else 0

/-- The REDUCE of a group for a chunk (Table 07-3). -/
def reduceDesc (s : State) (r : PlanRec) (c l g : Nat) : List Byte :=
  let i := c * r.chunk
  let n := min 16 (r.groups (l - 1) - 16 * g)
  let last := l == r.levels && !r.longMean
  let op := if r.op = 3 then (if r.longMean then 0 else 3) else r.op
  let srcs := (List.range n).map fun k => if l = 1 then s.slotRef r (16 * g + k) i else s.partialRef r (r.partialIdx (l - 1) (16 * g + k)) i
  let out := if last then s.resultRef r i else s.partialRef r (r.partialIdx l g) i
  [0x01, 4, BitVec.ofNat 8 (if last then r.mode % 32 else 0), 0] ++ leBytes 0 12 ++ leBytes n 2 ++ [BitVec.ofNat 8 op,
    BitVec.ofNat 8 (if l = 1 then r.inFmt else partialFmt r), BitVec.ofNat 8 (if last then r.outFmt else partialFmt r), 0, 0, 0]
    ++ leBytes (r.chunkLen c) 8 ++ trefBytes out ++ leBytes 0 16 ++ srcs.flatMap trefBytes

/-- The SCALE_ACC that ends a long mean (R201, Table 07-4). -/
def scaleDesc (s : State) (r : PlanRec) (c : Nat) : List Byte :=
  let i := c * r.chunk
  [0x02, 5, BitVec.ofNat 8 (r.mode % 32), 0] ++ leBytes 0 12 ++ leBytes (r.chunkLen c) 8 ++ [0, BitVec.ofNat 8 r.outFmt, 0, 0]
    ++ leBytes (recip32 r.n0).1 4 ++ leBytes 0 16 ++ trefBytes (s.partialRef r (r.partialIdx r.levels 0) i) ++ trefBytes (s.resultRef r i)

/-- A step of a chunk can start: everything beneath it is done. -/
def stepReady (r : PlanRec) (x : PlanRun) (c l g : Nat) : Bool :=
  if l = 1 then
    (List.range (min 16 (r.n0 - 16 * g))).all fun k => x.lines.lookD ((16 * g + k) * 2 ^ 21 + c) 0 == r.chunkLines c
  else if l = r.levels + 1 then x.done.contains (c, r.levels, 0)
  else (List.range (min 16 (r.groups (l - 1) - 16 * g))).all fun k => x.done.contains (c, l - 1, 16 * g + k)

/-- The steps of a plan's open run that are ready and neither done nor running, by chunk and level. -/
def readySteps (s : State) (p : Nat) (r : PlanRec) (x : PlanRun) : List (Nat × Nat × Nat) :=
  let running := (s.planTasks p).map fun t => (t.2.task.id, t.2.task.place, t.2.task.target)
  (List.range r.chunks).flatMap fun c =>
    if x.delivered.contains c then []
    else (List.range (lastStep r)).flatMap fun j =>
      let l := j + 1
      (List.range (if l = r.levels + 1 then 1 else r.groups l)).filterMap fun g =>
        if stepReady r x c l g && !x.done.contains (c, l, g) && !running.contains (c, l, g) then some (c, l, g) else none

/-- Start the ready steps of a plan in free contexts, at most CONC at once (R208). -/
def launch (s : State) (p : Nat) : State :=
  match (s.getPlan p).record, (s.getPlan p).run with
  | some r, some x =>
    if r.broadcast || s.planState p ≠ 2 then s
    else (s.readySteps p r x).foldl (fun s (t : Nat × Nat × Nat) =>
      if r.conc ≤ (s.planTasks p).length then s
      else match s.placeOn r.partition 1 (p / 16) with
        | none => s
        | some (n, c) =>
          let desc := if t.2.1 = r.levels + 1 then s.scaleDesc r t.1 else s.reduceDesc r t.1 t.2.1 t.2.2
          let task : Task := { id := t.1, plan := some p, partition := r.partition, principal := r.principal, place := t.2.1,
                               target := t.2.2, seed := s.freeVal.toNat % 2 ^ 32, desc := desc, fmts := r.fmts }
          let y : Context := { startCtx s n { task := task } desc with task := task }
          (s.draw.enterCore n c y).clearFlags n c) s
  | _, _ => s

/-- Start what is ready in every plan. -/
def launchAll (s : State) : State := (s.col.plans.map (·.1)).foldl launch s

/-! ### Delivery (R209, R210) -/

/-- The line at a fabric address of this node, as the unit reads it. -/
def unitLine (s : State) (a : Nat) : LineData × Bool :=
  match s.findExt (fun e => e != .off) (a % 2 ^ 52) with
  | some (_, x) =>
    let (d, md) := s.peekLine (s.lineAt x.attr (a % 2 ^ 52))
    (d, md.poison)
  | none => (0, true)

/-- Lines delivered, to a receiver or at RESULT, count for the period (Table 09-10). -/
def countOut (s : State) (p n : Nat) : State := s.uCol fun c => { c with outLines := c.outLines.putC 0 p (c.outLines.lookD p 0 + n) }

/-- Deliver one result line to entry e, at an offset of what it receives. -/
def deliverLine (s : State) (p e dest : Nat) (data : LineData) (poison : Bool) : State :=
  let s := (s.colSend p e Op.colResult 3 0 dest 4 data poison).countOut p 1
  if poison then
    let x := s.getPlan p
    s.setPlan p { x with run := x.run.map fun r => { r with poisoned := if r.poisoned.contains e then r.poisoned else r.poisoned ++ [e] } }
  else s

/-- Receivers of an element under PUSH, with the entry's DEST (R210). -/
def receivers (r : PlanRec) (elem : Nat) : List (Nat × Nat) :=
  let all := (List.range r.entries.length).filterMap fun i => (r.entries[i]?).bind fun e => if e.recv then some (i, e.dest) else none
  if r.kind = 2 then all.filter fun e => e.1 == elem / (r.count / r.entries.length) else all

/-- Deliver a complete chunk. -/
def deliverChunk (s : State) (p c : Nat) (r : PlanRec) : State :=
  let i := c * r.chunk
  let n := r.chunkLen c
  let base := s.resultBase r
  let lines := imageLines r r.outFmt r.count i n
  let part := if r.kind = 2 then r.count / r.entries.length else r.count
  let outs := imageLines r r.outFmt part (i % part) n
  let s := if r.push then
      (receivers r i).foldl (fun s e =>
        (lines.zip outs).foldl (fun s l =>
          let (d, bad) := s.unitLine (base + l.1)
          s.deliverLine p e.1 (e.2 + l.2) d bad) s) s
    else s
  let x := s.getPlan p
  let bad := r.pool && lines.any fun l => (s.unitLine (base + l)).2
  let s := if r.pool then s.countOut p lines.length else s
  s.setPlan p { x with run := x.run.map fun u =>
    { u with delivered := u.delivered ++ [c], poolPoison := u.poolPoison || bad, done := u.done.filter fun t => t.1 != c } }

/-- Writes at RESULT of plan p that have not been answered, or not been issued. -/
def resultOpen (s : State) (p : Nat) : Bool :=
  (s.outs.any fun o => o.2.why == .result p) || (((s.getPlan p).run.map (!·.unsent.isEmpty)).getD false)

/-- A run whose last chunk is delivered is complete: COL_DONE to every entry (R210). -/
def finishRun (s : State) (p : Nat) : State :=
  match (s.getPlan p).record, (s.getPlan p).run with
  | some r, some x =>
    if x.delivered.length < r.chunks || s.resultOpen p then s
    else
      let s := (List.range r.entries.length).foldl (fun s i =>
        s.colSend p i Op.colDone 3 (if x.poolPoison || x.poisoned.contains i then St.poison else St.ok) 0 0 0 false true) s
      let s := s.setPlan p { s.getPlan p with run := none }
      ((s.wr F.colPlanStatus_running p 0).wr F.colPlanStatus_run p ((s.rd F.colPlanStatus_run p + 1) % 512)).bump F.colStat_runs p
  | _, _ => s

/-- What the open run of plan p becomes. -/
def updRun (s : State) (p : Nat) (f : PlanRun → PlanRun) : State := s.setPlan p { s.getPlan p with run := (s.getPlan p).run.map f }

/-- Write a line at RESULT for a BROADCAST under POOL, as the unit's own request (R208, R210); it waits where the unit has no free tag. -/
def writeResult (s : State) (p : Nat) (r : PlanRec) (off : Nat) (data : LineData) (poison : Bool) : State :=
  let d := p / 16
  let loc := 0xD0 + d
  match s.freeTag loc with
  | none => s.updRun p fun u => { u with unsent := u.unsent ++ [(off, data, poison)] }
  | some t =>
    let q : Packet := { opcode := BitVec.ofNat 8 Op.wrUnc, len := 4, src := s.endpoint loc, principal := BitVec.ofNat 20 r.principal,
                        tag := BitVec.ofNat 14 t, dlocal := BitVec.ofNat 8 (0xC0 + d), addr := BitVec.ofNat 64 (r.result + off),
                        data := data, poison := poison }
    let o : Out := { who := .coll (Fin.ofNat 4 d), pkt := q, die := d, partition := r.partition, why := .result p }
    ({ s with outs := s.outs.put (outKey loc t) o }.countOut p 1).send d q

/-- A tag of die d's unit is free: the first line that waits for one is written. -/
def resultNext (s : State) (d : Nat) : State :=
  let first (e : Nat × Plan) : Option (Nat × PlanRec × Nat × LineData × Bool) :=
    match e.2.record, e.2.run with
    | some r, some u => if e.1 / 16 = d then u.unsent.head?.map fun l => (e.1, r, l) else none
    | _, _ => none
  match s.col.plans.findSome? first with
  | some (p, r, off, data, poison) => (s.updRun p fun u => { u with unsent := u.unsent.tail }).writeResult p r off data poison
  | none => s

/-- Write a line of the plan's buffer, allocating in the memory-side cache (R207). -/
def bufWrite (s : State) (r : PlanRec) (b : Nat) (data : LineData) (poison : Bool) : State :=
  match s.home.ext.look r.bufExt with
  | some x => s.writeLine (s.lineAt x.attr (s.bufAddr r b % 2 ^ 52)) true data poison false
  | none => s

/-- COL_PUT at the unit (R207, R209). -/
def colPut (s : State) (q : Packet) : State :=
  let s := s.taken q
  let p := q.txid.toNat % 64
  let i := q.txid.toNat / 2 ^ 14 % 512
  let drop (s : State) : State := s.bump F.colStat_discards p
  let x := s.getPlan p
  match x.record with
  | none => drop s
  | some r =>
    if (s.tagOf q.txid).isNone || !s.isEntry p i q.src || s.planState p ≠ 2 then drop s
    else
      let off := q.offset
      let rank := (r.senders.idxOf i)
      let c := r.chunkOf off
      let key := rank * 2 ^ 21 + c
      let run := x.run.getD {}
      let have_ := run.lines.lookD key 0
      if q.txid.toNat / 2 ^ 23 ≠ s.rd F.colPlanStatus_run p || off % 128 ≠ 0 || r.image r.inFmt ≤ off || !r.senders.contains i
          || r.chunkLines c ≤ have_ then s.abortPlan p Pc.protocol (some i)
      else
        let run := { run with lines := run.lines.put key (have_ + 1), accepted := run.accepted + 1 }
        let s := (s.setPlan p { x with run := some run }).wr F.colPlanStatus_running p 1
        let s := s.uCol fun v => { v with inLines := v.inLines.putC 0 p (v.inLines.lookD p 0 + 1) }
        let s := s.bufWrite r (rank * r.image r.inFmt + off) q.data q.poison
        if r.broadcast then
          let s := if r.push then (receivers r 0).foldl (fun s e => s.deliverLine p e.1 (e.2 + off) q.data q.poison) s else s
          let s := if r.pool then s.writeResult p r off q.data q.poison else s
          let x := s.getPlan p
          let done := have_ + 1 == r.chunkLines c
          let s := s.setPlan p { x with run := x.run.map fun u =>
            { u with delivered := if done then u.delivered ++ [c] else u.delivered, poolPoison := u.poolPoison || (r.pool && q.poison) } }
          s.finishRun p
        else s.launch p

/-- COL_ABORT from a participant (Table 09-5). -/
def colAbort (s : State) (q : Packet) : State :=
  let s := s.taken q
  match s.tagOf q.txid with
  | none => s
  | some (p, i) => if s.isEntry p i q.src then s.abortPlan p Pc.explicit else s

/-- The end with status `st` of task t of plan p, once its context is freed. -/
def planTaskEnded (s : State) (t : Context) (p st : Nat) : State :=
  match (s.getPlan p).record, (s.getPlan p).run with
  | some r, some u =>
    if s.planState p ≠ 2 then s
    else if st = St.noRights || st = St.withdrawn then s.abortPlan p Pc.rights
    else if st ≠ St.ok && st ≠ St.poison then s.abortPlan p Pc.task
    else
      let l := t.task.place
      let s := s.setPlan p { s.getPlan p with run := some { u with done := u.done ++ [(t.task.id, l, t.task.target)] } }
      let s := if l = lastStep r then (s.deliverChunk p t.task.id r).finishRun p else s
      s.launchAll
  | _, _ => s.launchAll

/-- The end of a plan's task (R210, R212). -/
def taskEnded (s : State) (n c : Nat) : State :=
  match s.getCtx n c with
  | none => s
  | some t =>
    match t.phase, t.task.plan with
    | .ended st, some p => ((s.flightSub t.task.partition).freeCtx n c).withdrawsGo.planTaskEnded t p st
    | _, _ => s

/-- RUN_TIMEOUT (Table 09-5). -/
def runTimeout (s : State) (p : Nat) : State := if s.flag F.colPlanStatus_running p then s.abortPlan p Pc.timeout else s

/-! ### Reservations (R203, R204) -/

/-- COL_PORT_RSV of a port (Table 09-11). -/
def refreshRsv (s : State) (n : Nat) : State :=
  let l := s.col.rsv.lookD n []
  (s.wr F.colPortRsv_entries n l.length).wr F.colPortRsv_floors n (l.map (·.floor)).sum

def setRsv (s : State) (n : Nat) (l : List Rsv) : State :=
  (s.uCol fun c => { c with rsv := if l.isEmpty then c.rsv.del n else c.rsv.put n l }).refreshRsv n

/-- The port on which a plan's packets towards an endpoint are reserved. -/
def rsvPort (s : State) (planNode plan gen : Nat) (dst : Endpoint) : Option Nat :=
  (s.col.rsv.find? fun e => e.2.any fun r => r.planNode == planNode && r.plan == plan && r.gen == gen && r.dst == dst).map (·.1)

/-- FLOOR as an arm took it: at its ARM for a plan of this node, else when the first entry of the arm came to this node (Table 09-7,
log 74). -/
def armFloor (s : State) (planNode plan gen : Nat) : Nat :=
  if planNode = s.node then (s.getPlan plan).floor
  else (s.col.rsv.findSome? fun e => (e.2.find? fun r => r.planNode == planNode && r.plan == plan && r.gen == gen).map (·.floor)).getD
    (s.rd F.colCtrl_floor)

/-- Install an entry on a port; `credits` is what the port's COL buffers give. False: the port cannot. -/
def installRsv (s : State) (n planNode plan gen : Nat) (dst : Endpoint) (credits : Nat) : Bool × State :=
  let l := s.col.rsv.lookD n []
  let floor := s.armFloor planNode plan gen
  if (l.any fun r => r.planNode == planNode && r.plan == plan && r.gen == gen && r.dst == dst) then (true, s)
  else if 1024 ≤ l.length || credits < 2 * ((l.map (·.floor)).sum + floor) then (false, s)
  else (true, s.setRsv n (l ++ [⟨planNode, plan, gen, dst, floor⟩]))

/-- Remove the entries of a plan towards a participant and towards its unit, on every port (R204). -/
def removeRsv (s : State) (planNode plan gen : Nat) (dst unit : Endpoint) : State :=
  (s.col.rsv.map (·.1)).foldl (fun s n =>
    s.setRsv n ((s.col.rsv.lookD n []).filter fun r =>
      !(r.planNode == planNode && r.plan == plan && r.gen == gen && (r.dst == dst || r.dst == unit)))) s

/-- Whether the arm of an entry still stands. Of another node's plan the node knows it where an entry of another arm has come; else the answer
is free (log 74). -/
def armed (s : State) (r : Rsv) (free : Nat) : Bool :=
  if r.planNode = s.node then r.gen == s.rd F.colPlanStatus_gen r.plan && (s.planState r.plan == 1 || s.planState r.plan == 2)
  else
    let later := s.col.rsv.any fun e => e.2.any fun x =>
      x.planNode == r.planNode && x.plan == r.plan && x.gen != r.gen && decide ((x.gen + 256 - r.gen) % 256 < 128)
    !later && (Config.freeWord free).getLsbD 0

/-- PURGE removes the entries of plans whose node and GEN are no longer armed (Table 09-11). -/
def purgeRsv (s : State) (n : Nat) : State :=
  let l := s.col.rsv.lookD n []
  ({ s with free := s.free + l.length } : State).setRsv n ((l.zipIdx.filter fun e => s.armed e.1 (s.free + e.2)).map (·.1))

end State

/-- COL_PUT (R207). -/
def execColPut (q : Packet) (s : State) : Host.Outcome State Fault Refusal :=
  .next (s.colPut { q with opcode := BitVec.ofNat 8 Op.colPut }).settle
/-- COL_ABORT of a participant (R212). -/
def execColAbort (q : Packet) (s : State) : Host.Outcome State Fault Refusal :=
  .next (s.colAbort { q with opcode := BitVec.ofNat 8 Op.colAbort }).settle
/-- COL_DISARM_ACK at the unit (R204). -/
def execColDisarmAck (q : Packet) (s : State) : Host.Outcome State Fault Refusal :=
  let q := { q with opcode := BitVec.ofNat 8 Op.colDisarmAck }
  .next ((s.taken q).disarmAnswer q).settle
/-- COL_TASK_END (R210). -/
def execColTaskEnd (n : Core) (c : Ctx) (s : State) : Host.Outcome State Fault Refusal := .next (s.taskEnded n.val c.val).settle
/-- COL_ARM_TIMEOUT (R203, R204). -/
def execColArmTimeout (pl : PlanId) (s : State) : Host.Outcome State Fault Refusal := .next (s.armTimeout pl.val).settle
/-- TASK_PLACEMENT (R178): ready steps of plans take free contexts before any queue entry does (R208). -/
def execTaskPlacement (q : HostQueue) (s : State) : Host.Outcome State Fault Refusal := .next (s.launchAll.placement q.val).settle
/-- COL_RUN_TIMEOUT (R212). -/
def execColRunTimeout (pl : PlanId) (s : State) : Host.Outcome State Fault Refusal := .next (s.runTimeout pl.val).settle

end Sys2Proof.Machine
end

