-- ==== Sys2Proof/Machine/Copies.lean ====
section
/-! DEFINITION. Copy engines and copy queues (chapter 10). -/

namespace Sys2Proof.Machine

def Op.xfrRing : Nat := 0x60

/-! ### The descriptor (Table 10-2) -/

namespace CopyRun

def fld (u : CopyRun) (i k : Nat) : Nat := leNat u.desc i k

def dims (u : CopyRun) : Nat := u.fld 1 1
def placeMode (u : CopyRun) : Nat := u.fld 2 1 % 4
def stream (u : CopyRun) : Bool := u.fld 2 1 / 4 % 2 == 1
def hasFlag (u : CopyRun) : Bool := u.fld 2 1 / 16 % 2 == 1
def ext (u : CopyRun) (k : Nat) : Nat := u.fld (4 + 4 * k) 4
def tileExt (u : CopyRun) (k : Nat) : Nat := u.fld (64 + 4 * k) 4

/-- Tiles along dimension k, and N (R222). -/
def tiles (u : CopyRun) (k : Nat) : Nat := (u.ext k + u.tileExt k - 1) / u.tileExt k
def count (u : CopyRun) : Nat := u.tiles 0 * u.tiles 1 * u.tiles 2

/-- The checks of R221. -/
def ok (u : CopyRun) : Bool :=
  let b := u.desc
  let dim (k : Nat) : Bool := decide (k < u.dims)
  let multi (v : Nat) : Bool := v % 128 == 0
  u.fld 0 1 == 1 && decide (1 ≤ u.dims) && decide (u.dims ≤ 3) && u.placeMode != 3 && u.fld 2 1 / 32 == 0 && zeroBytes b 3 1 && zeroBytes b 104 24
    && multi (u.ext 0) && decide (128 ≤ u.ext 0) && decide (u.ext 0 ≤ 2 ^ 31)
    && [1, 2].all (fun k => decide (1 ≤ u.ext k) && decide (u.ext k ≤ 2 ^ 20) && (dim k || u.ext k == 1))
    && multi (u.fld 16 8) && multi (u.fld 24 8)
    && (if dim 1 then multi (u.fld 32 8) && decide (u.ext 0 ≤ u.fld 48 8) else u.fld 32 8 == 0 && u.fld 48 8 == 0)
    && (if dim 2 then multi (u.fld 40 8) && decide (u.ext 1 * u.fld 48 8 ≤ u.fld 56 8) else u.fld 40 8 == 0 && u.fld 56 8 == 0)
    && multi (u.tileExt 0) && decide (128 ≤ u.tileExt 0)
    && [0, 1, 2].all (fun k => decide (1 ≤ u.tileExt k) && decide (u.tileExt k ≤ u.ext k))
    && decide (u.tileExt 0 * u.tileExt 1 * u.tileExt 2 ≤ 1048576)
    && (if u.hasFlag then u.fld 88 8 % 8 == 0 && decide (u.fld 76 4 ≤ u.count) else u.fld 88 8 == 0 && decide (u.fld 76 4 < u.count))

/-- Virtual source and destination addresses of the lines of the tile at hand (R222). -/
def vlines (u : CopyRun) : List (Nat × Nat) :=
  let t := u.tile
  let o (k : Nat) : Nat := (if k = 0 then t % u.tiles 0 else if k = 1 then t / u.tiles 0 % u.tiles 1 else t / u.tiles 0 / u.tiles 1) * u.tileExt k
  let n (k : Nat) : Nat := min (u.tileExt k) (u.ext k - o k)
  (List.range (n 2)).flatMap fun z => (List.range (n 1)).flatMap fun y => (List.range (n 0 / 128)).map fun i =>
    let x := o 0 + 128 * i
    (u.fld 16 8 + (o 2 + z) * u.fld 40 8 + (o 1 + y) * u.fld 32 8 + x, u.fld 24 8 + (o 2 + z) * u.fld 56 8 + (o 1 + y) * u.fld 48 8 + x)

/-- The source shares a byte with the destination (R221): row by row, where the two spans meet. -/
def overlaps (u : CopyRun) : Bool :=
  let span (zs ys : Nat) : Nat := (u.ext 2 - 1) * zs + (u.ext 1 - 1) * ys + u.ext 0
  let rows (base zs ys : Nat) : List (Nat × Nat) :=
    (List.range (u.ext 2)).flatMap fun z => (List.range (u.ext 1)).map fun y => (base + z * zs + y * ys, u.ext 0)
  rangesMeet (u.fld 16 8, span (u.fld 40 8) (u.fld 32 8)) (u.fld 24 8, span (u.fld 56 8) (u.fld 48 8))
    && rangesClash false (rows (u.fld 16 8) (u.fld 40 8) (u.fld 32 8)) (rows (u.fld 24 8) (u.fld 56 8) (u.fld 48 8))

/-- Read and write windows (Table 10-3). -/
def windows (u : CopyRun) : Nat × Nat := if u.placeMode = 0 then (768, 256) else if u.placeMode = 1 then (256, 768) else (512, 512)

end CopyRun

namespace State

def uRun (s : State) (x : Nat) (f : CopyRun → CopyRun) : State := { s with xfr := { s.xfr with run := s.xfr.run.upd x f } }

def copyDie (x : Nat) : Nat := x / 8

/-- Outstanding requests of copy engine x. -/
def copyOuts (s : State) (x : Nat) : List (Nat × Out) :=
  s.outs.filter fun o => match o.2.who with | .copy y => y.val == x | _ => false

/-- A tag of die d's copy agent that carries x mod 8 and is free (R217, R234). -/
def copyTag (s : State) (x : Nat) : Option Nat :=
  let loc := 0xD4 + copyDie x
  ((List.range 2047).map fun i => 8 * i + x % 8).find? fun t =>
    (s.outs.look (outKey loc t)).isNone && (s.deadTags.look (outKey loc t)).isNone

/-- Tags of copy engine x that are free. -/
def copyRoom (s : State) (x : Nat) : Nat :=
  let mine (k : Nat) : Bool := k / 16384 == 0xD4 + copyDie x && k % 8 == x % 8
  2047 - ((s.outs.filter fun o => mine o.1).length + (s.deadTags.filter fun o => mine o.1).length)

/-- Issue a request of copy engine x. -/
def copySend (s : State) (x : CopyEngine) (u : CopyRun) (q : Packet) (why : OutFor) : State :=
  let d := copyDie x.val
  let loc := 0xD4 + d
  match s.copyTag x.val with
  | none => s
  | some t =>
    let q := { q with src := s.endpoint loc, principal := BitVec.ofNat 20 (s.rd F.xfrQcfg_principal u.queue), tag := BitVec.ofNat 14 t
                      dlocal := BitVec.ofNat 8 (0xC0 + d) }
    let o : Out := { who := .copy x, pkt := q, die := d, partition := s.rd F.xfrQcfg_partition u.queue, epoch := u.epoch,
                     stream := u.stream && q.opcode.toNat == Op.rdUnc, why := why }
    { s with outs := s.outs.put (outKey loc t) o }.send d q

/-- Reads of the tile that wait for an answer, and writes. -/
def copyReads (s : State) (x : Nat) : Nat :=
  ((s.copyOuts x).filter fun o => match o.2.why with | .copyRead _ => true | _ => false).length
def copyWrites (s : State) (x : Nat) : Nat :=
  ((s.copyOuts x).filter fun o => match o.2.why with | .copyWrite _ => true | _ => false).length

/-- A line that has been read, as it is written: free where source and destination overlap (R221, log 65). -/
def copyData (s : State) (u : CopyRun) (i : Nat) (data : LineData) : LineData :=
  if u.overlaps then Config.freeLine (s.free + i) else data

/-- Issue what the windows allow: writes of lines that are in, then reads (R217, Table 10-3). -/
def copyPump (s : State) (x : CopyEngine) : State :=
  match s.xfr.run.look x.val with
  | none => s
  | some u =>
    if u.phase ≠ .run || u.stop.isSome then s
    else
      let ws := u.toWrite.take (min (s.copyRoom x.val) (u.windows.2 - s.copyWrites x.val))
      let rs := min (s.copyRoom x.val - ws.length) (min (u.windows.1 - s.copyReads x.val) (u.lines.length - u.nextRead))
      let s := ws.foldl (fun s w =>
        let dst := ((u.lines[w.1]?).map (·.2)).getD 0
        s.copySend x u { opcode := BitVec.ofNat 8 Op.wrUnc, len := 4, addr := BitVec.ofNat 64 dst, data := s.copyData u w.1 w.2.1, poison := w.2.2 }
          (.copyWrite w.1)) s
      let s := (List.range rs).foldl (fun s i =>
        let src := ((u.lines[u.nextRead + i]?).map (·.1)).getD 0
        s.copySend x u { opcode := BitVec.ofNat 8 Op.rdUnc, addr := BitVec.ofNat 64 src } (.copyRead (u.nextRead + i))) s
      let s := if u.overlaps then { s with free := s.free + u.lines.length } else s
      s.uRun x.val fun u => { u with toWrite := u.toWrite.drop ws.length, nextRead := u.nextRead + rs
                                     poisoned := u.poisoned + (ws.filter (·.2.2)).length }

/-! ### Queues (R218 to R220) -/

/-- Copy queue q can start a descriptor on die d's engines. -/
def copyReady (s : State) (d q : Nat) : Bool :=
  s.flag F.xfrQcfg_enable q && s.rd F.xfrQcfg_die q == d
    && s.rd F.xfrQptr_head q != s.rd F.xfrQptr_tail q % 2 ^ s.rd F.xfrQcfg_size q
    && decide ((s.xfr.run.filter fun r => r.2.queue == q).length < s.rd F.xfrQcfg_maxeng q)
    && s.cplFree .copy q && !s.revoking (s.rd F.xfrQcfg_partition q)

/-- The copy queue whose turn it is on die d (R220). -/
def copyTurn (s : State) (d : Nat) : Option Nat :=
  let p := s.xfr.turn.lookD d 0
  ((List.range 128).map fun i => (p + i) % 128).find? (s.copyReady d)

/-- The COPY record of a descriptor (R226), none when its partition is being torn down. -/
def copyRec (s : State) (x : Nat) (u : CopyRun) (status detail va : Nat) (killed : Bool) : State :=
  let s := s.unreserve .copy u.queue
  if s.revoking (s.rd F.xfrQcfg_partition u.queue) then s
  else s.writeRec .copy u.queue (recBytes 4 status detail (16 * killed.toNat) u.id (u.fld 80 8) u.tile u.bytes u.poisoned x va)

/-- A descriptor's engine becomes idle; a waiting move goes before any descriptor (R230). -/
def copyEnd (s : State) (x : Nat) (u : CopyRun) (status detail va : Nat) (killed : Bool) : State :=
  let s := s.copyRec x u status detail va killed
  let s := { s with xfr := { s.xfr with run := s.xfr.run.del x } }
  ((s.wr F.xfrStatus_use x 0).flightSub (s.rd F.xfrQcfg_partition u.queue)).tryWaits

/-- Engine x takes the descriptor at HEAD of queue q (R220, R221). -/
def copyTake (s : State) (x q : Nat) : State :=
  let d := copyDie x
  if (s.xfr.run.look x).isSome || (s.mem.moves.look x).isSome || s.ras.disabled.contains x || s.copyTurn d ≠ some q then s
  else match s.readEntry .copy q 128 with
    | (.wait, s) => s
    | (.failed st, s) => s.queueFail .copy q st
    | (.entry b, s) =>
      let s := { s with xfr := { s.xfr with turn := s.xfr.turn.put d ((q + 1) % 128) } }
      let head := s.rd F.xfrQptr_head q
      let pass := s.clu.pass.lookD (Ring.key .copy q) 0
      let u : CopyRun := { queue := q, id := head + q * 2 ^ 12 + pass % 2 ^ 13 * 2 ^ 19, desc := b, tile := leNat b 76 4 }
      if u.fld 2 1 / 8 % 2 = 1 && (s.xfr.run.any fun r => r.2.queue == q) then s
      else
        let s := (s.reserveRec .copy q).advanceHead .copy q
        if !u.ok then s.copyRec x { u with tile := 0 } St.badRequest 0 0 false
        else
          let u := { u with phase := if u.tile = u.count then .flag else .translate }
          let s := { s with xfr := { s.xfr with run := s.xfr.run.put x u } }
          ((s.wr F.xfrStatus_use x 1).wr F.xfrStatus_queue x q).flightAdd (s.rd F.xfrQcfg_partition q)

/-! ### Tiles (R223) -/

/-- What is known of a page for a right: of the answers of walks, or of the die cache, where the lookup counts as a use (R186). -/
def pageKnown (s : State) (x : Nat) (u : CopyRun) (asid page need : Nat) : Option CopyXlat × State :=
  match u.known.find? fun k => k.page == page && k.need == need with
  | some k => (some k, s)
  | none => match s.dieTc (copyDie x) asid (page * 2 ^ 16) need with
    | some (w, e) => (some { page := page, need := need, addr := some (e.addr + page * 2 ^ 16 % 2 ^ pageBits e.level) }, s.tcTouch w)
    | none => (none, s)

/-- Pages that addresses touch, each once, in rising order. -/
def pagesOf (vas : List Nat) : List Nat := ((vas.map (· / 2 ^ 16)).dedup).mergeSort (· ≤ ·)

/-- Look up pages for a right, asking for walks of the unknown ones. -/
def askPages (s : State) (x : Nat) (u : CopyRun) (asid need : Nat) (pages : List Nat) : List CopyXlat × Bool × State :=
  pages.foldl (fun (a : List CopyXlat × Bool × State) p =>
    let (l, all, s) := a
    match s.pageKnown x u asid p need with
    | (some k, s) => (l ++ [k], all, s)
    | (none, s) => (l, false, s.askWalk (copyDie x) asid (p * 2 ^ 16) need (2000 + x))) ([], true, s)

/-- The stop of the lowest failing page: status, cause, lowest address the tile touches in it. -/
def pageFault (ks : List CopyXlat) (vas : List Nat) : Option (Nat × Nat × Nat) :=
  (ks.find? fun k => k.addr.isNone).map fun k =>
    let mine := vas.filter fun v => v / 2 ^ 16 == k.page
    (faultStatus k.cause, k.cause, mine.foldl min (mine.headD 0))

def addrOf (ks : List CopyXlat) (va : Nat) : Nat :=
  match ks.find? fun k => k.page == va / 2 ^ 16 with
  | some k => k.addr.getD 0 + va % 2 ^ 16
  | none => 0

/-- Stop a descriptor: it issues nothing further (Table 10-4). -/
def copyStop (s : State) (x : Nat) (st detail va : Nat) : State :=
  s.uRun x fun u => if u.stop.isSome then u else { u with stop := some (st, detail, va) }

/-- The tile's placement suits the descriptor (Table 10-3). -/
def placeFits (s : State) (u : CopyRun) (lines : List (Nat × Nat)) : Bool :=
  let own (a : Nat) : Bool := a / 2 ^ 52 == s.node
  (u.placeMode != 0 || lines.all fun l => own l.2) && (u.placeMode != 1 || lines.all fun l => own l.1)

/-- Translate the tile at hand, or the flag's page, and issue it, or stop the descriptor with no byte moved. -/
def tileTranslate (s : State) (x : CopyEngine) : State :=
  match s.xfr.run.look x.val with
  | none => s
  | some u =>
    if u.stop.isSome || u.killed then s
    else
      let asid := s.rd F.xfrQcfg_asid u.queue
      let d := copyDie x.val
      let epoch := s.epochOf d
      let go (s : State) (u : CopyRun) : State :=
        { s with xfr := { s.xfr with run := s.xfr.run.put x.val u } }.wrB F.xfrStatus_epoch x.val epoch
      match u.phase with
      | .translate =>
        let vl := u.vlines
        if vl.any fun l => decide (2 ^ 57 ≤ l.1) || decide (2 ^ 57 ≤ l.2) then s.copyStop x.val St.badRequest 0 0
        else
          let (src, all1, s) := s.askPages x.val u asid 0 (pagesOf (vl.map (·.1)))
          let (dst, all2, s) := s.askPages x.val u asid 1 (pagesOf (vl.map (·.2)))
          if !all1 || !all2 then s
          else match (pageFault src (vl.map (·.1))).orElse fun _ => pageFault dst (vl.map (·.2)) with
            | some (st, c, va) => s.copyStop x.val st c va
            | none =>
              let lines := vl.map fun l => (addrOf src l.1, addrOf dst l.2)
              if !s.placeFits u lines then s.copyStop x.val St.badRequest 0 0
              else (go s { u with phase := .run, epoch := epoch, lines := lines, nextRead := 0, toWrite := [], known := [] }).copyPump x
      | .flag =>
        let va := u.fld 88 8
        if 2 ^ 57 ≤ va then s.copyStop x.val St.badRequest 0 0
        else
          let (dst, all, s) := s.askPages x.val u asid 1 [va / 2 ^ 16]
          if !all then s
          else match pageFault dst [va] with
            | some (st, c, va) => s.copyStop x.val st c va
            | none =>
              let a := addrOf dst va
              if u.placeMode = 0 && a / 2 ^ 52 ≠ s.node then s.copyStop x.val St.badRequest 0 0
              else if (s.copyTag x.val).isNone then s
              else
                let u := { u with phase := .flagRun, epoch := epoch, known := [] }
                let (data, mask) := placeBytes (a % 128) (leBytes (u.fld 96 8) 8)
                (go s u).copySend x u { opcode := BitVec.ofNat 8 Op.wrUnc, len := 5, addr := BitVec.ofNat 64 (a / 128 * 128), data := data,
                                        mask := mask } .copyFlag
      | _ => s

/-- The destination lines of a tile that stops, those of this node that the queue's principal may write, hold undefined values (Table 10-4,
log 65). -/
def spoilTile (s : State) (u : CopyRun) : State :=
  ((u.lines.map (·.2)).filter fun a => a / 2 ^ 52 == s.node).foldl
    (fun s a => s.spoilLine (fun _ e => s.mayWrite (s.rd F.xfrQcfg_principal u.queue) e) a) s

/-- The tile's last response is in, or the descriptor stops at this boundary: the next tile, the flag, or the record (R222 to R226). -/
def tileDone (s : State) (x : Nat) : State :=
  match s.xfr.run.look x with
  | none => s
  | some u =>
    if !(s.copyOuts x).isEmpty then s
    else
      let next (s : State) (u : CopyRun) : State :=
        if u.killed then s.copyEnd x u St.ok 0 0 true
        else { s with xfr := { s.xfr with run := s.xfr.run.put x u } }
      match u.stop with
      | some (st, det, va) => ((s.spoilTile u).bump F.xfrStat_stops x).copyEnd x u st det va u.killed
      | none =>
        match u.phase with
        | .translate | .flag => if u.killed then s.copyEnd x u St.ok 0 0 true else s
        | .run =>
          if u.nextRead < u.lines.length || !u.toWrite.isEmpty then s
          else
            let u := { u with tile := u.tile + 1, bytes := u.bytes + 128 * u.lines.length, lines := [], nextRead := 0 }
            if u.tile < u.count then next s { u with phase := .translate }
            else if u.hasFlag then next s { u with phase := .flag }
            else s.copyEnd x u (if u.poisoned = 0 then St.ok else St.poison) 0 0 u.killed
        | .flagRun => s.copyEnd x u (if u.poisoned = 0 then St.ok else St.poison) 0 0 u.killed

/-! ### Ringing and aborting (R219, R229) -/

/-- A new TAIL does not pass CHEAD, and lies in the ring. -/
def tailOk (s : State) (q t : Nat) : Bool :=
  let n := 2 ^ s.rd F.xfrQcfg_size q
  let old := s.rd F.xfrQptr_tail q % n
  decide (t < n) && decide ((t + n - old) % n ≤ (s.rd F.xfrQptr_chead q % n + 2 * n - 1 - old) % n)

/-- XFR_RING at a die's copy agent (Table 10-1). -/
def xfrRing (s : State) (q : Packet) : State :=
  let s := s.taken q
  let loc := 0xD4 + (q.dlocal.toNat - 0xD4) % 4
  let d := loc - 0xD4
  let v := lineBits q.data 0 64
  let k := v % 128
  let say (s : State) (st : Nat) : State := if st = 0 then s.respond d loc q Op.done St.ok else s.respond d loc q Op.status st
  if q.len ≠ 1 || q.chan ≠ 0 || q.resv || v / 2 ^ 7 % 2 ^ 25 ≠ 0 || v / 2 ^ 44 ≠ 0 then say s St.badRequest
  else
    let m := s.rd F.xfrRinger_mask k
    if q.src.toNat &&& m ≠ s.rd F.xfrRinger_id k &&& m || !s.flag F.xfrQcfg_enable k then say s St.noRights
    else if !s.tailOk k (v / 2 ^ 32 % 2 ^ 12) then say s St.badRequest
    else say (s.wr F.xfrQptr_tail k (v / 2 ^ 32 % 2 ^ 12)) St.ok

/-- ABORT of a copy queue (R229). -/
def abortQueue (s : State) (q : Nat) : State :=
  let s := { s with xfr := { s.xfr with run := s.xfr.run.map fun (r : Nat × CopyRun) => (r.1, if r.2.queue = q then { r.2 with killed := true } else r.2) } }
  s.wr F.xfrQptr_head q (s.rd F.xfrQptr_tail q % 2 ^ s.rd F.xfrQcfg_size q)

end State

/-- XFR_RING (R219). -/
def execXfrRing (q : Packet) (s : State) : Host.Outcome State Fault Refusal :=
  .next (s.xfrRing { q with opcode := BitVec.ofNat 8 Op.xfrRing }).settle
/-- COPY (R220, R221). -/
def execCopy (x : CopyEngine) (q : CopyQueue) (s : State) : Host.Outcome State Fault Refusal := .next (s.copyTake x.val q.val).settle
/-- COPY_TILE_TRANSLATED (R223). -/
def execCopyTileTranslated (x : CopyEngine) (s : State) : Host.Outcome State Fault Refusal := .next (s.tileTranslate x).settle
/-- COPY_TILE_DONE (R222). -/
def execCopyTileDone (x : CopyEngine) (s : State) : Host.Outcome State Fault Refusal := .next (s.tileDone x.val).settle

end Sys2Proof.Machine
end

