-- ==== Sys2Proof/Machine/Ports.lean ====
section
/-! DEFINITION. Packet sizes and forms (R232, R236, R237), ports and their transmit queues, credits (R268 to R270), the counts of
packets in flight (R254) and the bridges (R17, R18). -/

namespace Sys2Proof

/-- Payload bytes of a length code (Table 11-3). -/
def lenBytes (l : Nat) : Nat := [0, 8, 16, 32, 128, 144, 0, 0].getD l 0

/-- Header and payload bytes (R232, R260). -/
def Packet.bytes (p : Packet) : Nat :=
  if p.chan = 1 then 16 + (if p.dataFlag then 128 else 0) else 24 + lenBytes p.len.toNat
/-- Slots of a flit that it fills (R260). -/
def Packet.slots (p : Packet) : Nat := (p.bytes + 15) / 16
/-- Credits that it costs (R268). -/
def Packet.cost (p : Packet) : Nat := (p.bytes + 63) / 64
/-- The receive buffer of its channel and class (R239, Table 12-1). -/
def Packet.buf (p : Packet) : Nat := 4 * p.chan.toNat + p.hop.toNat
/-- It can be framed (R260). -/
def Packet.framable (p : Packet) : Bool := decide (p.chan.toNat ≤ 4) && (p.chan == 1 || decide (p.len.toNat ≤ 5))
/-- A MGT packet for the node at the far end of a link (R233). -/
def Packet.toNeighbour (p : Packet) : Bool := p.chan == 4 && p.destNode == 0xFFF

end Sys2Proof

namespace Sys2Proof.Machine

def Op.fenceProbe : Nat := 0x01
def Op.mgtRd : Nat := 0x70
def Op.mgtWr : Nat := 0x71
def Op.mgtData : Nat := 0x72
def Op.mgtDone : Nat := 0x73

/-- The channel of an opcode that the map assigns (Tables 04-3, 05-3, 09-4, 11-4). -/
def opChannel (op : Nat) : Option Nat :=
  if op = 0x01 then none
  else if 0x10 ≤ op && op ≤ 0x17 then some 0
  else if 0x20 ≤ op && op ≤ 0x24 then some 2
  else if 0x30 ≤ op && op ≤ 0x3B then some 1
  else if 0x40 ≤ op && op ≤ 0x45 then some 0
  else if op = 0x46 || op = 0x47 then some 1
  else if 0x50 ≤ op && op ≤ 0x53 then some 4
  else if 0x54 ≤ op && op ≤ 0x57 then some 3
  else if op = 0x60 then some 0
  else if 0x70 ≤ op && op ≤ 0x73 then some 4
  else none

/-- An opcode of the map (R237). -/
def opKnown (op : Nat) : Bool := op == 0x01 || (opChannel op).isSome

/-- The channel and the length codes that an opcode allows (R236). -/
def formOk (q : Packet) : Bool :=
  let op := q.opcode.toNat
  let l := q.len.toNat
  if op = 0x01 then (q.chan == 0 || q.chan == 3) && l == 0
  else opChannel op == some q.chan.toNat &&
    (if q.chan = 1 then q.dataFlag == (op == 0x30 || op == 0x31 || op == 0x32 || op == 0x34 || op == 0x38)
     else if q.chan = 0 && op < 0x50 then State.lenOk q
     else if op = 0x50 then l == 3
     else if op = 0x54 || op = 0x55 then l == 4
     else if op = 0x60 || op = 0x71 || op = 0x72 then l == 1
     else l == 0)

namespace State

/-! ### Ports -/

def getLink (s : State) (n : Nat) : PortLink := s.link.lookD n {}
def setLink (s : State) (n : Nat) (p : PortLink) : State := { s with link := s.link.putC {} n p }
def uLink (s : State) (n : Nat) (f : PortLink → PortLink) : State := s.setLink n (f (s.getLink n))
def uQos (s : State) (f : Qos → Qos) : State := { s with qos := f s.qos }

def portDie (n : Nat) : Nat := n / 16
def portUp (s : State) (n : Nat) : Bool := s.flag F.rtePort_up n
def isAccess (s : State) (n : Nat) : Bool := s.rd F.rtePort_type n == 1
def isTrunk (s : State) (n : Nat) : Bool := s.rd F.rtePort_type n == 2

/-- Free credits of a far buffer (R269). -/
def credits (p : PortLink) (b : Nat) : Nat :=
  p.farSizes.getD b 0 - (p.debited.lookD b 0 + 2048 - p.farFreed.lookD b 0) % 2048

/-- COL credits that a port gives (R270). -/
def colCredits (p : PortLink) : Nat := ([12, 13, 14, 15].map fun b => p.farSizes.getD b 0).sum / 3

/-! ### Counts in flight (R254) -/

/-- Packets of a list in a given bank leave a die's count. -/
def inflightSubs (s : State) (d : Nat) (banks : List Bool) : State := banks.foldl (fun s b => s.inflightSub d b) s

/-- A packet in a trunk port's receive side counts on its die under the bank it carries. -/
def arrived (s : State) (n : Nat) (q : Packet) : State := if s.isTrunk n then s.inflightAdd (portDie n) q.bank else s
def unarrived (s : State) (n : Nat) (q : Packet) : State := if s.isTrunk n then s.inflightSub (portDie n) q.bank else s

/-! ### Bridges (R17, R18) -/

/-- Bridges crossed from die a to die b, in order: 0 H0, 1 H1, 2 V0, 3 V1, and the direction toward the higher-numbered die. -/
def bridges (a b : Nat) : List (Nat × Bool) :=
  (if a % 2 = b % 2 then [] else [(a / 2, decide (a % 2 < b % 2))]) ++
  (if a / 2 = b / 2 then [] else [(2 + b % 2, decide (a / 2 < b / 2))])

/-- What a bridge's ECC finds (R18): a double-bit error raises BRIDGE_UNCORR and counts in the history, a single-bit error is corrected and
counted. -/
def bridgeErr (s : State) (h : Nat) (up double : Bool) : State :=
  if double then
    (s.raise { type := 0x0001, sev := 2, status := St.poison, arg := [BitVec.ofNat 8 h, BitVec.ofNat 8 up.toNat] }).histAdd 8 h 0 1
  else s.uFab fun v => { v with corrected := v.corrected.putC 0 (2 * h + up.toNat) (v.corrected.lookD (2 * h + up.toNat) 0 + 1) }

/-- A packet crosses from die a to die b: with a double-bit error it goes on poisoned. -/
def cross (s : State) (a b : Nat) (e : BridgeErr) (q : Packet) : Packet × State :=
  let hit := match e with
    | .first double => (bridges a b).head?.map (·, double)
    | .last double => (bridges a b).getLast?.map (·, double)
    | _ => Option.none
  match hit with
  | Option.none => (q, s)
  | some ((h, up), double) => ({ q with poison := q.poison || double }, s.bridgeErr h up double)

/-! ### Latency (R308) -/

/-- A response is handed to an access port's transmit queue: the request it answers is counted in the bucket of its latency, which
the model leaves open. -/
def latency (s : State) (n : Nat) (p : Packet) : State :=
  match s.qos.asked.find? fun a => a.port == n && a.src == p.dest && a.tag == p.tag with
  | some a =>
    let k := n * 64 + a.cls * 16 + s.freeVal.toNat % 16
    (s.draw).uQos fun v => { v with asked := v.asked.erase a, hist := v.hist.put k (v.hist.lookD k 0 + 1) }
  | none => s

/-- Slots of a channel that a list of packets fills in a FIFO of a port (Table 01-5: 32 flits per channel). -/
def fifoSlots (l : List Packet) (chan : BitVec 3) : Nat := ((l.filter fun q => q.chan == chan).map (·.slots)).sum

/-- A FIFO has room for a packet: 32 flits of 15 slots per channel. -/
def fifoRoom (l : List Packet) (q : Packet) : Bool := decide (fifoSlots l q.chan + q.slots ≤ 480)

/-- The mesh-to-flit FIFO of port n, which feeds its transmit queue, has room for a packet; without it the packet waits in the mesh (R22). -/
def portRoom (s : State) (n : Nat) (q : Packet) : Bool := fifoRoom (s.getLink n).txq q

/-- A packet of die d enters port n's transmit queue; on a trunk port its HOP rises by one (R240). -/
def toPort (s : State) (n : Nat) (p : Packet) : State :=
  let p := if s.isTrunk n then { p with hop := p.hop + 1 } else p
  let s := if p.chan = 1 && s.isAccess n then s.latency n p else s
  (s.uLink n fun l => { l with txq := l.txq ++ [p] }).inflightAdd (portDie n) p.bank

/-! ### The fence store (R250 to R252) -/

/-- A request for the homes of its node (R233). -/
def forHomes (q : Packet) : Bool := decide (0xC0 ≤ q.dlocal.toNat) && decide (q.dlocal.toNat ≤ 0xC3)

/-- The destination of a request-format packet's flow (R250). -/
def flowDst (q : Packet) : Endpoint :=
  BitVec.ofNat 20 (q.destNode * 256 + if forHomes q then 0xC0 else q.dlocal.toNat)

/-- Two packets belong to one flow. -/
def sameFlow (a b : Packet) : Bool := a.src == b.src && a.chan == b.chan && flowDst a == flowDst b

/-- The die of the home that serves a packet (R32, R233). -/
def homeDieOf (s : State) (q : Packet) : Nat :=
  if q.offset = 0 then q.dlocal.toNat % 4
  else match s.findExt (fun st => st != .off) q.offset with
    | some (_, e) => lineDie (s.lineAt e.attr q.offset)
    | none => q.dlocal.toNat % 4

def refreshFence (s : State) (d : Nat) : State := s.wr F.rteFence_used d (s.fab.fences.count (d * 1024) 1024)

/-- An entry that ends unfulfilled: RETRY for a REQ, discard for a COL packet (R252). -/
def fenceLost (s : State) (d : Nat) (p : Option Packet) : State :=
  let s := s.bump F.rteFence_expired d
  match p with
  | some q => if q.chan = 0 then s.respond d 0xF0 q Op.status St.retry else s
  | none => s

/-- Deliver P once every share is in: to its local agent, or onto its access port. -/
def fenceDone (s : State) (d : Nat) (p : Packet) (port : Option Nat) : State :=
  match port with
  | some n => s.toPort n p
  | none => s.reach d none p

/-- A share of w/256 reaches die d's store for a flow, with P itself when `p` is given. A probe of a flow whose entry has ended unfulfilled
is discarded until the flow's next P (log 41). -/
def fenceAdd (s : State) (d : Nat) (src dst : Endpoint) (col : Bool) (w : Nat) (p : Option (Packet × Option Nat)) : State :=
  if p.isNone && s.fab.late.contains (d, src, dst, col) then s else
  let s := s.uFab fun v => { v with late := v.late.filter (· != (d, src, dst, col)) };
  let mine (e : Nat × FenceEntry) : Bool := e.1 / 1024 == d && e.2.src == src && e.2.dst == dst && e.2.col == col
  let found := s.fab.fences.find? mine
  let old : FenceEntry := (found.map (·.2)).getD { src := src, dst := dst, col := col }
  let new : FenceEntry := { old with weight := old.weight + w, pkt := if p.isSome then p else old.pkt }
  let key := match found with
    | some (k, _) => some k
    | none => s.fab.fences.freeKey (d * 1024) 1024
  match key, new.pkt with
  | none, _ => s.fenceLost d (p.map (·.1))
  | some k, some (q, port) =>
    if 256 ≤ new.weight then ((s.uFab fun v => { v with fences := v.fences.del k }).refreshFence d).fenceDone d q port
    else (s.uFab fun v => { v with fences := v.fences.put k new }).refreshFence d
  | some k, none => (s.uFab fun v => { v with fences := v.fences.put k new }).refreshFence d

/-- The weight of a packet in 256ths (R251). -/
def fenceWeight (q : Packet) : Nat := 256 / 2 ^ q.fw.toNat

/-- Exponents of the shares for k next hops (R251). -/
def shares (k e : Nat) : List Nat :=
  if k = 1 then [e] else if k = 2 then [e + 1, e + 1] else if k = 3 then [e + 1, e + 2, e + 2] else [e + 2, e + 2, e + 2, e + 2]

/-- A probe made from a packet's header. -/
def probeOf (q : Packet) (e : Nat) : Packet :=
  { q with opcode := BitVec.ofNat 8 Op.fenceProbe, fence := false, len := 0, fw := BitVec.ofNat 3 e, data := 0, mask := 0, poison := false }

/-- P or a probe goes out on port n: an access port is its flow's egress, where the fence store gathers the shares. -/
def fenceOut (s : State) (n : Nat) (q : Packet) : State :=
  if s.isAccess n then
    s.fenceAdd (portDie n) q.src (flowDst q) (q.chan == 3) (fenceWeight q) (if q.fence then some (q, some n) else none)
  else s.toPort n q

end State

end Sys2Proof.Machine
end

