-- ==== Sys2Proof/Machine/Fabric.lean ====
section
/-! DEFINITION. Arrival at a port, leashes, delivery, next hops, fences, hold limit (chapters 10, 11 and 14: R215, R241 to R254, R301 to
R305). -/

namespace Sys2Proof.Machine

namespace State

/-! ### Delivery (R26, R233, R236, R237) -/

/-- A packet on a channel other than REQ is discarded as malformed. -/
def malformed (s : State) (d : Nat) : State := s.bump F.rteDrop_malformed d

/-- The management endpoint of die d answers a REQ. -/
def mgmtStatus (s : State) (d : Nat) (q : Packet) (status : Nat) : State := s.respond d 0xF0 q Op.status status

/-- The agents that take an opcode, by local ID (Table 02-1): none of the others serves it. -/
def agentTakes (loc op : Nat) : Bool :=
  let home := 0xC0 ≤ loc && loc ≤ 0xC3
  let coll := 0xD0 ≤ loc && loc ≤ 0xD3
  let copy := 0xD4 ≤ loc && loc ≤ 0xD7
  let cluster := 0x80 ≤ loc && loc ≤ 0x8F
  let ptu := 0xE0 ≤ loc && loc ≤ 0xE3
  if op = 0x01 then home || coll || copy
  else if op = Op.invAck || op = Op.fwdAck || op = Op.fwdData || op = Op.complete then home
  else if op = Op.dataUnc || op = Op.done || op = Op.status then cluster || coll || copy || ptu || home
  else if op = Op.txOpened || op = Op.txNotice then cluster
  else if op < 0x50 then home && (opChannel op == some 0)
  else if op = Op.colPut || op = Op.colAbort || op = Op.colArmAck || op = Op.colDisarmAck then coll
  else if op = Op.xfrRing then copy
  else if op = Op.mgtRd || op = Op.mgtWr || op = Op.mgtData || op = Op.mgtDone then loc == 0xF0
  else false

/-- Die of a local agent. -/
def agentDie (loc : Nat) : Nat := if loc < 0x40 then loc / 16 else if 0x80 ≤ loc && loc ≤ 0x8F then (loc - 0x80) / 4 else if loc = 0xF0 then 0 else loc % 4

/-- P with FENCE, or a probe, reaches its egress at a local agent: a flow to the homes divides its weight over them, any other goes to
its agent's die (R252). -/
def fenceArrive (s : State) (d : Nat) (q : Packet) : State :=
  let p := if q.fence then some (q, none) else none
  if forHomes q && q.chan == 0 then
    let h := s.homeDieOf q
    let s := if q.fence then s.fenceAdd h q.src (flowDst q) false 0 p else s
    [0, 1, 2, 3].foldl (fun s k => s.reach d none { probeOf q q.fw.toNat with dlocal := BitVec.ofNat 8 (0xC0 + k) }) s
  else s.fenceAdd (agentDie q.dlocal.toNat) q.src (flowDst q) (q.chan == 3) (fenceWeight q) p

/-- A packet for this node that arrived on die d, on port `n` when a port brought it. -/
def deliver (s : State) (d : Nat) (n : Option Nat) (q : Packet) : State :=
  let op := q.opcode.toNat
  if !formOk q || !agentTakes q.destLocal op then
    if q.chan = 0 then s.mgmtStatus d q St.badRequest else if opKnown op then s.malformed d else s
  else if op = Op.mgtRd || op = Op.mgtWr then
    match n with
    | some n => if s.fab.mgtq.length < Config.mgtDepth then s.uFab fun v => { v with mgtq := v.mgtq ++ [(q, n)] } else s.bump F.rteDrop_mgt d
    | none => s
  else if op = Op.mgtData || op = Op.mgtDone then s
  else if op = Op.fenceProbe || (q.fence && (q.chan == 0 || q.chan == 3)) then s.fenceArrive d q
  else s.reach d n q

/-- A packet that passed its ingress checks at port n goes to its agent, or waits for a next hop (R215). -/
def enter (s : State) (n : Nat) (q : Packet) : State :=
  let d := portDie n
  if q.destNode = s.node || q.toNeighbour then s.deliver d (some n) q
  else (s.uFab fun v => { v with held := v.held ++ [⟨q, d, some n⟩] }).inflightAdd d q.bank

/-! ### Leashes (R300 to R305) -/

/-- Length charged to a leash (Table 14-1); none: the packet is not leashed. -/
def leashLen (q : Packet) : Option Nat :=
  let op := q.opcode.toNat
  if q.chan ≠ 0 || op = Op.wbDirty || op = Op.wbClean || op = Op.fenceProbe then none
  else if op = Op.rdShared || op = Op.rdOwn || op = Op.rdUnc || op = Op.txRd || op = Op.wrUnc || op = Op.txWr then some 128
  else if op = Op.atomic || op = Op.txAtomic then some (subSize q.sub.toNat)
  else some 0

/-- The bucket of a request on port n: its leash, else the port's catch-all (R301). -/
def bucket (s : State) (n : Nat) (q : Packet) : Option Nat :=
  match s.qos.cfg.find? fun c => c.1 < 256 && c.2.port == n && c.2.src == q.src && c.2.cls == q.cls.toNat with
  | some (i, _) => some i
  | none => (s.qos.cfg.look (256 + n)).map fun _ => 256 + n

/-- Requests of a port's leash queue. -/
def leashQueue (s : State) (n : Nat) : List Packet := s.qos.queue.lookD n []

/-- Leashed mode at port n (R300, R365). -/
def leashed (s : State) (n : Nat) : Bool := s.stg F.qosCtrl_mode 0 (portDie n) true == 1

/-- A request may be admitted, with `ahead` waiting before it (R303, R304). -/
def admits (s : State) (n : Nat) (q : Packet) (len : Nat) (ahead : List Packet) : Bool :=
  !(q.fence && ahead.any (sameFlow q)) &&
    (len == 0 || !s.leashed n || match s.bucket n q with
      | none => true
      | some b => decide (len ≤ s.qos.tokens.lookD b 0) &&
          !(ahead.any fun a => s.bucket n a == some b && (leashLen a).getD 0 != 0))

/-- Admission: the bucket pays, QOS_LSTAT counts, the request goes on. -/
def admitReq (s : State) (n : Nat) (q : Packet) (len : Nat) : State :=
  let s := match s.bucket n q with
    | none => s
    | some b => s.uQos fun v => { v with
        tokens := v.tokens.put b (v.tokens.lookD b 0 - len)
        bytes := if b < 256 then v.bytes.put b (v.bytes.lookD b 0 + len) else v.bytes }
  s.enter n q

/-- Admit, in arrival order, what may go of a port's queue. -/
def drainLeash (s : State) (n : Nat) : State :=
  let r := (s.leashQueue n).foldl (fun (a : List Packet × State) q =>
    let len := (leashLen q).getD 0
    if a.2.admits n q len a.1 then (a.1, a.2.admitReq n q len) else (a.1 ++ [q], a.2)) ([], s)
  r.2.uQos fun v => { v with queue := if r.1.isEmpty then v.queue.del n else v.queue.put n r.1 }

/-! ### Arrival (R215, R241) -/

/-- A packet leaves the flit-to-mesh FIFO. -/
def unfifo (s : State) (n : Nat) (q : Packet) : State :=
  if (s.getLink n).fifo.contains q then (s.uLink n fun l => { l with fifo := l.fifo.erase q }).unarrived n q else s

/-- Discard at ingress for a wrong source or a disabled port. -/
def spoof (s : State) (n : Nat) : State := s.bump F.rteDrop_spoof (portDie n)

/-- The principal of a request matches entries of another partition than p (R320). -/
def foreign (s : State) (p : Nat) (q : Packet) : Bool :=
  s.partitioned && (s.matchEntries.any fun e => entryMatches e q.principal && e.2.2.2 != p)

/-- The request takes its place in the latency measurement of an access port (R308). -/
def ask (s : State) (n : Nat) (q : Packet) : State :=
  if q.opcode.toNat = Op.fenceProbe then s
  else s.uQos fun v => { v with asked := v.asked ++ [⟨n, q.src, q.tag, q.cls.toNat⟩] }

/-- A packet that passed the form checks of an access port: rewritten, then leashed. `s0` is the state before it arrived, which a full
leash queue leaves as it was (R304). -/
def accessIn (s0 s : State) (n : Nat) (q : Packet) : State :=
  let d := portDie n
  let q := { q with hop := 0, bank := s.injBank d true, principal := if q.chan = 0 || q.chan = 3 then q.src else q.principal
                    fw := if q.chan = 1 then q.fw else 0 }
  if q.chan = 0 && s.foreign (s.rd F.secPortMap_partition n) q then (s.ask n q).mgmtStatus d q St.noRights
  else if q.chan ≠ 0 then s.enter n q
  else match leashLen q with
    | none => (s.ask n q).enter n q
    | some len =>
      let ahead := s.leashQueue n
      if s.admits n q len ahead then (s.ask n q).admitReq n q len
      else if 32 ≤ (ahead.filter fun a => a.cls == q.cls).length then s0
      else
        let s := match s.bucket n q with
          | some b => if b < 256 then s.uQos fun v => { v with waits := v.waits.put b (v.waits.lookD b 0 + 1) } else s
          | none => s
        (s.ask n q).uQos fun v => { v with queue := v.queue.put n (ahead ++ [q]) }

/-- Die of the agent that takes a packet for this node. -/
def takerDie (s : State) (q : Packet) : Nat := if forHomes q && q.chan == 0 then s.homeDieOf q else agentDie q.destLocal

/-- An error on a bridge that packet i from one of the node's agents to another crosses (R18). -/
def insideErr (s : State) (e : BridgeErr) : State :=
  match e with
  | .inside i h up double =>
    match (s.fab.came.filter fun c => c.port.isNone)[i]? with
    | none => s
    | some c =>
      if (bridges c.die (s.takerDie c.pkt)).contains (h.val, up) then
        let q := { c.pkt with poison := c.pkt.poison || double }
        (s.uFab fun v => { v with
          inbox := v.inbox.replace c.pkt q
          came := v.came.replace c { c with pkt := q } }).bridgeErr h.val up double
      else s
  | _ => s

/-- A packet arrives at port n and crosses to the die where it goes on. -/
def arrive (s0 : State) (n : Nat) (q0 : Packet) (e : BridgeErr) : State :=
  let s := (s0.insideErr e).unfifo n q0
  let d := portDie n
  if s.node = 0xFFF then (if q0.toNeighbour then s.enter n q0 else s)
  else if !s.isAccess n && !s.isTrunk n then (if q0.toNeighbour then s.enter n q0 else s.spoof n)
  else
    let (q, s) := s.cross d (if q0.destNode = s.node then s.takerDie q0 else d) e q0
    if s.isTrunk n then s.enter n q
    else if q.src.toNat / 256 ≠ s.rd F.rtePort_peer n then s.spoof n
    else if !opKnown q.opcode.toNat || !formOk q then
      if q.chan = 0 then s.mgmtStatus d q St.badRequest
      else if opKnown q.opcode.toNat then s.malformed d else s
    else accessIn s0 s n q

/-! ### Next hops (R243, R244) -/

/-- The RTE_ROUTE instance of a bank and node. -/
def routeIdx (bank : Bool) (node : Nat) : Nat := bank.toNat * 4096 + node

/-- Slots of a packet's route: port of each valid slot, in order. -/
def routeSlots (s : State) (bank : Bool) (node : Nat) : List (Nat × Nat) :=
  let r := s.reg .rteRoute (routeIdx bank node)
  [0, 1, 2, 3].filterMap fun j => if bits r (8 * j + 6) 1 = 1 then some (j, bits r (8 * j) 6) else none

/-- Eligible slots of a packet (R243). -/
def eligibleHops (s : State) (q : Packet) : List (Nat × Nat) :=
  (s.routeSlots q.bank q.destNode).filter fun e =>
    s.portUp e.2 && (s.isAccess e.2 || (s.isTrunk e.2 && decide (q.hop.toNat < 3)))

/-- Credits left on a port for a packet, when not negative. -/
def hopRoom (s : State) (q : Packet) (n : Nat) : Option Nat :=
  let cls := q.hop.toNat + if s.isTrunk n then 1 else 0
  let c := credits (s.getLink n) (4 * q.chan.toNat + cls)
  if q.cost ≤ c then some (c - q.cost) else none

def tieKey (d : Nat) (q : Packet) : Nat := d * 8192 + routeIdx q.bank q.destNode

/-- The hop of an unfenced packet: the most credit left, ties by the pointer of the die's entry. -/
def bestHop (s : State) (d : Nat) (q : Packet) (hops : List (Nat × Nat)) : Option Nat :=
  let rooms := hops.filterMap fun e => (s.hopRoom q e.2).map fun r => (e, r)
  let top := rooms.foldl (fun m e => max m e.2) 0
  let tied := (rooms.filter fun e => e.2 == top).map (·.1)
  let ptr := s.fab.ties.lookD (tieKey d q) 0
  ([0, 1, 2, 3].findSome? fun i => tied.find? fun e => e.1 == (ptr + i) % 4).map (·.2)

/-- Node, plan and GEN that a COL packet is of (R205). -/
def colPlan (q : Packet) : Nat × Nat × Nat :=
  let t := q.txid.toNat
  let toUnit := q.opcode.toNat = Op.colPut || (q.opcode.toNat = Op.colAbort && forColl q.dlocal.toNat)
  (if toUnit then q.destNode else q.src.toNat / 256, t % 64, t / 2 ^ 6 % 256)
where
  /-- Local IDs of collective units. -/
  forColl (l : Nat) : Bool := decide (0xD0 ≤ l) && decide (l ≤ 0xD3)

/-- The reserved port of a COL packet of a plan (R203). -/
def colPort (s : State) (q : Packet) : Option Nat :=
  let (planNode, plan, gen) := colPlan q
  if q.chan = 3 then s.rsvPort planNode plan gen (BitVec.ofNat 20 (q.destNode * 256 + q.dlocal.toNat)) else none

/-- What a plan of this node learns when a packet to a participant has no route (R203, Table 09-5). -/
def planNoRoute (s : State) (q : Packet) : State :=
  if q.src.toNat / 256 ≠ s.node then s
  else match s.tagOf q.txid with
    | none => s
    | some (p, i) =>
      if q.opcode.toNat = Op.colArm then (if s.planState p = 1 then s.endArm p St.nodeLost else s)
      else if q.opcode.toNat = Op.colResult || q.opcode.toNat = Op.colDone then s.abortPlan p Pc.lost (some i)
      else s

/-- A packet without a next hop (R244). -/
def noRoute (s : State) (d : Nat) (q : Packet) : State :=
  let s := s.bump F.rteDrop_noRoute d
  if q.chan = 0 then s.mgmtStatus d q St.nodeLost else s.planNoRoute q

/-- A held packet leaves the mesh. -/
def unhold (s : State) (i : Nat) (h : Held) : State :=
  (s.uFab fun v => { v with held := v.held.eraseIdx i }).inflightSub h.die h.pkt.bank

/-- P and its probes, or a probe, leave die d over the eligible hops (R251), each over the bridges to its port. -/
def splitOut (s : State) (d : Nat) (e : BridgeErr) (q : Packet) (hops : List (Nat × Nat)) : State :=
  ((hops.zip (shares hops.length q.fw.toNat)).zipIdx).foldl (fun s x =>
    let ((slot, w), i) := x
    let (p, s) := s.cross d (portDie slot.2) e (if i = 0 then { q with fw := BitVec.ofNat 3 w } else probeOf q w)
    s.fenceOut slot.2 p) s

/-- Rows of their own take the plan's MGT packets onward (R203, R204). -/
def ownRow (q : Packet) : Bool :=
  q.chan == 4 && (q.opcode.toNat == Op.colArm || q.opcode.toNat == Op.colArmAck || q.opcode.toNat == Op.colDisarm)

/-- Held packet i takes its next hop (R243), or is handled without one (R244). -/
def nextHop (s : State) (i : Nat) (e : BridgeErr) : State :=
  let s := s.insideErr e;
  match s.fab.held[i]? with
  | none => s
  | some h =>
    let q := h.pkt
    let fence := q.fence && (q.chan == 0 || q.chan == 3)
    if ownRow q then s
    else if fence && ((s.fab.held.take i).any fun a => sameFlow a.pkt q) then s
    else
      let go (n : Nat) : State :=
        if !s.portRoom n q then s
        else
          let (q, s) := (s.unhold i h).cross h.die (portDie n) e q
          if fence then s.fenceOut n q else s.toPort n q
      match s.colPort q with
      | some n => go n
      | none =>
        let hops := s.eligibleHops q
        if hops.isEmpty then (s.unhold i h).noRoute h.die q
        else if fence then (if hops.all fun e => s.portRoom e.2 q then (s.unhold i h).splitOut h.die e q hops else s)
        else match s.bestHop h.die q hops with
          | none => s
          | some n =>
            let k := tieKey h.die q
            (go n).uFab fun v => if s.portRoom n q then { v with ties := v.ties.putC 0 k ((v.ties.lookD k 0 + 1) % 4) } else v

/-! ### Probes (R251, R252) -/

/-- A probe arrives at port n; one from an access port meets the checks of any packet from there (R215, R320). -/
def probeArrive (s : State) (n : Nat) (q : Packet) (e : BridgeErr) : State :=
  let d := portDie n
  let s := (s.insideErr e).unfifo n q
  if !(s.isAccess n || s.isTrunk n) || s.node = 0xFFF then s
  else if s.isAccess n && q.src.toNat / 256 ≠ s.rd F.rtePort_peer n then s.spoof n
  else if s.isAccess n && !formOk q then (if q.chan = 0 then s.mgmtStatus d q St.badRequest else s.malformed d)
  else
    let q := if s.isAccess n then { q with hop := 0, bank := s.injBank d true, principal := q.src } else q
    if s.isAccess n && q.chan = 0 && s.foreign (s.rd F.secPortMap_partition n) q then s.mgmtStatus d q St.noRights
    else if q.destNode = s.node then
      let (q, s) := s.cross d (s.takerDie q) e q
      s.deliver d (some n) q
    else
      match s.colPort q with
      | some m =>
        let (q, s) := s.cross d (portDie m) e q
        s.fenceOut m q
      | none =>
        let hops := s.eligibleHops q
        if hops.isEmpty then s.noRoute d q else s.splitOut d e q hops

/-- Packets of its flow that must leave before a probe does: held ones when it is in transit. -/
def probeWaits (s : State) (q : Packet) : Bool := s.fab.held.any fun h => h.pkt.chan == q.chan && h.pkt.src == q.src && flowDst h.pkt == flowDst q

/-- An internal probe at home d passes its quarter share to P's home, once the requests ahead of it have been taken. -/
def internalProbe (s : State) (d : Nat) (q : Packet) : State :=
  match s.fab.inbox.findIdx? fun p => p == q with
  | none => s
  | some i =>
    if q.opcode.toNat ≠ Op.fenceProbe || q.dlocal.toNat ≠ 0xC0 + d then s
    else if (s.fab.inbox.take i).any fun a => a.opcode.toNat != Op.fenceProbe && sameFlow a q && s.homeDieOf a == d then s
    else (s.taken q).fenceAdd (s.homeDieOf { q with dlocal := q.dlocal }) q.src (flowDst q) false
      (fenceWeight q / 4) none

/-- An entry of a die's fence store ends unfulfilled: it is freed, and what comes late for its flow goes on (R252). -/
def fenceFree (s : State) (d k : Nat) (e : FenceEntry) : State :=
  ((s.uFab fun v => { v with fences := v.fences.del k, late := v.late ++ [(d, e.src, e.dst, e.col)] }).refreshFence d).fenceLost d
    (e.pkt.map (·.1))

/-- FENCE_HOLD passes for the entry of a flow (R252). -/
def fenceExpire (s : State) (d : Nat) (src dst : Endpoint) (col : Bool) : State :=
  match s.fab.fences.find? fun e => e.1 / 1024 == d && e.2.src == src && e.2.dst == dst && e.2.col == col with
  | none => s
  | some (k, e) => s.fenceFree d k e

/-! ### The hold limit (R247) -/

/-- Count a discarded packet; a REQ is answered TIMEOUT. -/
def heldTooLong (s : State) (d : Nat) (q : Packet) : State :=
  let s := s.bump F.rteDrop_hold d
  if q.chan = 0 then s.mgmtStatus d q St.timeout else s

def holdLimit (s : State) (a : HoldAt) : State :=
  match a with
  | .mesh i => match s.fab.held[i]? with
    | some h => (s.unhold i h).heldTooLong h.die h.pkt
    | none => s
  | .leash n i => match (s.leashQueue n.val)[i]? with
    | some q => (s.uQos fun v => { v with queue :=
        (let l := (s.leashQueue n.val).eraseIdx i; if l.isEmpty then v.queue.del n.val else v.queue.put n.val l) }).heldTooLong (portDie n.val) q
    | none => s
  | .transmit n i => match (s.getLink n.val).txq[i]? with
    | some q => ((s.uLink n.val fun l => { l with txq := l.txq.eraseIdx i }).inflightSub (portDie n.val) q.bank).heldTooLong (portDie n.val) q
    | none => s
  | .fifo n i => match (s.getLink n.val).fifo[i]? with
    | some q => (s.unfifo n.val q).heldTooLong (portDie n.val) q
    | none => s
  | .receive n i => match (s.getLink n.val).rx[i]? with
    | some q => ((s.uLink n.val fun l => { l with
        rx := l.rx.eraseIdx i, freed := l.freed.putC 0 q.buf ((l.freed.lookD q.buf 0 + q.cost) % 2048)
        changed := if l.changed.contains q.buf then l.changed else l.changed ++ [q.buf] }).unarrived n.val q).heldTooLong (portDie n.val) q
    | none => s
  | .agent i => match s.fab.inbox[i]? with
    | some q => (s.taken q).heldTooLong (agentDie q.destLocal) q
    | none => s

/-! ### Reservations in transit (R203, R204) -/

/-- Held packet with a given opcode, header and way in. -/
def findHeld (s : State) (q : Packet) (inPort : Nat) : Option (Nat × Held) :=
  (s.fab.held.zipIdx.find? fun e => e.1.pkt == q && (e.1.inPort == none || e.1.inPort == some inPort)).map fun e => (e.2, e.1)

/-- Take a plan's MGT packet out on a port that R243 allows. -/
def forward (s : State) (i : Nat) (h : Held) (n : Nat) : State :=
  if !s.portRoom n h.pkt then s else
  let (q, s) := (s.unhold i h).cross h.die (portDie n) .none h.pkt
  s.toPort n q

/-- A port R243 may choose for a packet. -/
def mayTake (s : State) (q : Packet) (n : Nat) : Bool :=
  ((s.eligibleHops q).any fun e => e.2 == n) && (s.hopRoom q n).isSome

/-- The unit of a plan's MGT packet is its source, or its destination. -/
def endpointOf (q : Packet) : Endpoint := BitVec.ofNat 20 (q.destNode * 256 + q.dlocal.toNat)

/-- COL_ARM passes: an entry towards the participant on the port it leaves, or CAPACITY in the participant's place. -/
def passArm (s : State) (q : Packet) (inPort outPort : Nat) : State :=
  match s.findHeld q inPort with
  | none => s
  | some (i, h) =>
    if (s.eligibleHops q).isEmpty then (s.unhold i h).noRoute h.die q
    else if !s.mayTake q outPort then s
    else
      let t := q.txid.toNat
      match s.installRsv outPort (q.src.toNat / 256) (t % 64) (t / 2 ^ 6 % 256) (endpointOf q) (colCredits (s.getLink outPort)) with
      | (true, s) => s.forward i h outPort
      | (false, s) =>
        (s.unhold i h).send h.die
          { opcode := BitVec.ofNat 8 Op.colArmAck, chan := 4, sub := BitVec.ofNat 6 St.capacity, src := endpointOf q, principal := endpointOf q,
            tag := q.tag, txid := q.txid, dlocal := BitVec.ofNat 8 (q.src.toNat % 256), addr := BitVec.ofNat 64 (q.src.toNat / 256 * 2 ^ 52) }

/-- COL_ARM_ACK passes: an entry towards the plan's node on the port it leaves. -/
def passArmAck (s : State) (q : Packet) (inPort outPort : Nat) : State :=
  match s.findHeld q inPort with
  | none => s
  | some (i, h) =>
    if (s.eligibleHops q).isEmpty then (s.unhold i h).noRoute h.die q
    else if !s.mayTake q outPort then s
    else
      let t := q.txid.toNat
      if q.sub.toNat % 32 ≠ 0 then s.forward i h outPort
      else match s.installRsv outPort q.destNode (t % 64) (t / 2 ^ 6 % 256) (endpointOf q) (colCredits (s.getLink outPort)) with
        | (true, s) => s.forward i h outPort
        | (false, s) => (s.unhold i h).toPort outPort { q with sub := BitVec.ofNat 6 St.capacity }

/-- COL_DISARM passes: it leaves on its plan's reserved port, and the entries go. -/
def passDisarm (s : State) (q : Packet) (inPort : Nat) : State :=
  match s.findHeld q inPort with
  | none => s
  | some (i, h) =>
    let t := q.txid.toNat
    let planNode := q.src.toNat / 256
    let rsv := s.rsvPort planNode (t % 64) (t / 2 ^ 6 % 256) (endpointOf q)
    let out := match rsv with
      | some n => some n
      | none => s.bestHop h.die q (s.eligibleHops q)
    let gone := s.removeRsv planNode (t % 64) (t / 2 ^ 6 % 256) (endpointOf q) q.src
    match out with
    | some n => if s.portUp n then gone.forward i h n else (gone.unhold i h).noRoute h.die q
    | none => if (s.eligibleHops q).isEmpty then (gone.unhold i h).noRoute h.die q else s

/-! ### Banks in flight (R254) -/

/-- HELD_b clears when no die counts a packet of bank b and the time has passed since the node last injected under it. -/
def heldClear (s : State) (b : Bool) : State :=
  let f := if b then F.rteInflight_bank1 else F.rteInflight_bank0
  let h := if b then F.rteBank_held_1 else F.rteBank_held_0
  if [0, 1, 2, 3].any fun d => s.rd f d != 0 then s else s.wr h 0 0

/-! ### Lost nodes (R249) -/

/-- Mark or clear a node in RTE_LOST. -/
def markLost (s : State) (n : Nat) (v : Bool) : State :=
  s.setReg .rteLost (n / 32) (setBits (s.reg .rteLost (n / 32)) (n % 32) 1 v.toNat)

def isLost (s : State) (n : Nat) : Bool := bits (s.reg .rteLost (n / 32)) (n % 32) 1 == 1

end State

/-- PACKET_ARRIVAL (R215). A probe is FENCE_PROBE's. -/
def execPacketArrival (n : Port) (q : Packet) (e : BridgeErr) (s : State) : Host.Outcome State Fault Refusal :=
  .next (if q.opcode.toNat = Op.fenceProbe then s else s.arrive n.val q e).settle
/-- NEXT_HOP_CHOICE (R243). -/
def execNextHopChoice (ix : Nat) (e : BridgeErr) (s : State) : Host.Outcome State Fault Refusal := .next (s.nextHop ix e).settle
/-- FENCE_PROBE (R251, R252). -/
def execFenceProbe (n : Port) (q : Packet) (e : BridgeErr) (s : State) : Host.Outcome State Fault Refusal :=
  let q := { q with opcode := BitVec.ofNat 8 Op.fenceProbe }
  .next (if s.probeWaits q then s else s.probeArrive n.val q e).settle
/-- INTERNAL_PROBE (R252). -/
def execInternalProbe (d : Die) (q : Packet) (s : State) : Host.Outcome State Fault Refusal :=
  .next (s.internalProbe d.val { q with opcode := BitVec.ofNat 8 Op.fenceProbe }).settle
/-- FENCE_HOLD_EXPIRY (R252). -/
def execFenceHoldExpiry (d : Die) (src dst : Endpoint) (col : Bool) (s : State) : Host.Outcome State Fault Refusal :=
  .next (s.fenceExpire d.val src dst col).settle
/-- HOLD_LIMIT_EXPIRY (R247). -/
def execHoldLimitExpiry (a : HoldAt) (s : State) : Host.Outcome State Fault Refusal := .next (s.holdLimit a).settle
/-- COL_ARM at a forwarding node (R203). -/
def execColArm (q : Packet) (inPort outPort : Port) (s : State) : Host.Outcome State Fault Refusal :=
  .next (s.passArm { q with opcode := BitVec.ofNat 8 Op.colArm } inPort.val outPort.val).settle
/-- COL_ARM_ACK at the unit, or at a forwarding node (R203). -/
def execColArmAck (q : Packet) (inPort outPort : Port) (s : State) : Host.Outcome State Fault Refusal :=
  let q := { q with opcode := BitVec.ofNat 8 Op.colArmAck }
  .next (if q.destNode = s.node then (s.taken q).armAnswer q else s.passArmAck q inPort.val outPort.val).settle
/-- COL_DISARM at a forwarding node (R204). -/
def execColDisarm (q : Packet) (inPort : Port) (s : State) : Host.Outcome State Fault Refusal :=
  .next (s.passDisarm { q with opcode := BitVec.ofNat 8 Op.colDisarm } inPort.val).settle
/-- BANK_HELD_CLEAR (R254). -/
def execBankHeldClear (b : Bool) (s : State) : Host.Outcome State Fault Refusal := .next (s.heldClear b).settle

end Sys2Proof.Machine
end

