-- ==== Sys2Proof/Machine/Arrays.lean ====
section
/-! DEFINITION. The scrub of a die's directory slice (R84) and uncorrectable errors of the die's other arrays (R10, Table 01-2). -/

namespace Sys2Proof.Machine

namespace State

/-- An uncorrectable entry of the request table completes its request with INTERNAL (Table 01-2). A request that its line is busy for leaves
the line with the holders that it would have left; where an owner's data is then lost, the stored line is poisoned: DESIGN CHOICE, log 75. -/
def requestLost (s : State) (d i : Nat) : State :=
  match s.getReq d i with
  | none => s
  | some r =>
    if !r.active then s.failReq d i St.internal
    else
      let lost := r.fwd.isSome && r.got.isNone
      let left (st : DirState) (m : Mask) : State :=
        (if lost then s.poisonLine r.line else s).updEntry r.line fun e => { e with state := if m = 0 then .i else st, sharers := m }
      match (s.entry r.line).state with
      | .bGrant => s.leaveBusy d i r
      | .bWb => (left .m (s.entry r.line).sharers).failReq d i St.internal
      | .bInv => (left .s ((s.entry r.line).sharers &&& ~~~r.invs)).failReq d i St.internal
      | _ => (left r.next r.nextSharers).failReq d i St.internal

/-- An uncorrectable record of the hot-page queue is dropped and counted (Table 01-2); the records behind it close up (log 75). -/
def hotLost (s : State) (d j : Nat) : State :=
  let head := s.rd F.homHotqPtr_head d
  let tail := s.rd F.homHotqPtr_tail d
  let at_ := (j + 4096 - head) % 4096
  let n := (tail + 4096 - head) % 4096
  if n ≤ at_ then s
  else
    let s := (List.range (n - 1 - at_)).foldl (fun s i =>
      s.setReg .homHotqEntry (d * 4096 + (j + i) % 4096) (s.reg .homHotqEntry (d * 4096 + (j + i + 1) % 4096))) s
    (s.wr F.homHotqPtr_tail d ((tail + 4095) % 4096)).bump F.homHotqDrop_drops d

/-- A check of die d finds an error that it cannot correct (Table 01-2). -/
def arrayHit (s : State) (d : Nat) : ArrayHit → State
  | .request i => s.requestLost d i.val
  | .recall i => if (s.home.rcl.look (d * 4096 + i.val)).isSome then s.dirHalt d else s
  | .staged c i line =>
    let hit (l : TxnLine) : Bool := l.line == line && lineDie l.line == d && l.staged.isSome
    s.updTxn (txnKey c.val i.val) fun t => { t with lines := t.lines.map fun l => if hit l then { l with spoiled := true } else l }
  | .readSet c i =>
    let k := txnKey c.val i.val
    if (s.txn k).lines.any fun l => l.inRead && lineDie l.line == d then s.abortTxn k 4 else s
  | .counter i => s.uMem fun m => { m with counts := m.counts.del (d * 16384 + i.val) }
  | .hotRecord j => s.hotLost d j.val
  | .dieTranslation i => s.uPtu fun u => { u with tc := u.tc.del (d * 8192 + i.val) }
  | .coreTranslation n i =>
    if coreDie n.val = d then
      match s.ptu.core.look n.val with
      | some l => s.uPtu fun u => { u with core := u.core.put n.val (l.eraseIdx i.val) }
      | none => s
    else s
  | .buffer k i =>
    match s.clu.buf.look k.val with
    | some l =>
      if k.val / 4 = d && decide (i < l.length) then
        (s.uClu fun u => { u with buf := u.buf.put k.val (l.modify i fun b => { b with poison := true }) }).histAdd 5 k.val 1 1
      else s
    | none => s
  | .transfer n c eng reg =>
    match s.getCtx n.val c.val with
    | some x =>
      if coreDie n.val = d then (s.setCtx n.val c.val (vPut x eng.val reg.val ((vGet x eng.val reg.val).1, true))).histAdd 5 (clusterOf n.val) 2 1
      else s
    | none => s
  | .fenceEntry i =>
    match s.fab.fences.look (d * 1024 + i.val) with
    | some e => s.fenceFree d (d * 1024 + i.val) e
    | none => s

/-- The next set of a die's directory slice is scrubbed (R84); `hits` are the errors that the checks of the die's other arrays find. -/
def dirScrub (s : State) (d : Nat) (ecc : Ecc) (hits : List ArrayHit) : State :=
  let at_ := s.home.scrubAt.lookD d 0
  let s := s.uHome fun h => { h with scrubAt := h.scrubAt.putC 0 d ((at_ + 1) % dirSets) }
  let s := match ecc with
    | .clean => s
    | .corrected => s.dirCorrected d
    | .uncorrectable => s.dirHalt d
  hits.foldl (fun s h => s.arrayHit d h) s

end State

/-- DIRECTORY_SCRUB (R84, R10). -/
def execDirectoryScrub (d : Die) (ecc : Ecc) (hits : List ArrayHit) (s : State) : Host.Outcome State Fault Refusal :=
  .next (s.dirScrub d.val ecc hits).settle

end Sys2Proof.Machine
end

