-- ==== Sys2Proof/Machine/ImageFile.lean ====
section
/-! DEFINITION. The configuration image as its slot holds it: header, section directory and sections read and rated (R357, R358, R361,
Tables 17-2 to 17-6). -/

namespace Sys2Proof.Machine

/-- A slot's bytes from its offset 0; a byte that is not listed reads as zero. -/
abbrev SlotBytes := List Byte

/-- n bytes from an offset, little-endian (R5). -/
def SlotBytes.le (l : SlotBytes) (off n : Nat) : Nat :=
  ((l.drop off).take n).foldr (fun (b : Byte) (a : Nat) => a * 256 + b.toNat) 0

/-- Bytes `a` to `b - 1` are zero. -/
def SlotBytes.zero (l : SlotBytes) (a b : Nat) : Bool := ((l.drop a).take (b - a)).all (· == 0)

/-- The n bytes from an offset. -/
def SlotBytes.cut (l : SlotBytes) (off n : Nat) : List Byte := let x := (l.drop off).take n; x ++ List.replicate (n - x.length) 0

/-- A directory entry (Table 17-3). -/
structure Section where
  kind : Nat
  version : Nat
  off : Nat
  len : Nat
  count : Nat
  deriving DecidableEq, Repr

/-- The directory. -/
def imageDir (l : SlotBytes) : List Section :=
  (List.range (l.le 6 2)).map fun i =>
    let a := 128 + 16 * i
    ⟨l.le a 2, l.le (a + 2) 2, l.le (a + 4) 4, l.le (a + 8) 4, l.le (a + 12) 4⟩

/-- LENGTH and COUNT of a section are what Table 17-6 fixes for its kind; false for an unknown kind. -/
def sectionSized (s : Section) : Bool :=
  match s.kind with
  | 0x01 => decide (1 ≤ s.count) && decide (s.count ≤ 65536) && s.len == 12 * s.count
  | 0x02 => s.len == 768 && s.count == 0
  | 0x03 => s.len == 576 && s.count == 0
  | 0x04 => s.len == 64 && s.count == 0
  | 0x05 => s.len == 64 && s.count == 0
  | 0x06 => s.len == 32 && s.count == 0
  | 0x07 => decide (1 ≤ s.count) && decide (s.count ≤ 8) && s.len == 8 * s.count
  | 0x08 => s.len == 224 && s.count == 0
  | 0x09 => s.len == 96 && s.count == 0
  | 0x0A => s.len == 16 && s.count == 0
  | 0x0B => s.len == 1992 && s.count == 0
  | _ => false

/-- The reserved bytes of a section are zero (Tables 17-6, 17-10). -/
def sectionClean (l : SlotBytes) (s : Section) : Bool :=
  let z (a b : Nat) : Bool := l.zero (s.off + a) (s.off + b)
  match s.kind with
  | 0x03 => z 60 64
  | 0x04 => z 26 32 && z 58 64
  | 0x06 => z 28 32
  | 0x08 => (List.range 14).all fun k => z (16 * k + 3) (16 * k + 4)
  | 0x09 => (List.range 6).all fun k => z (16 * k + 1) (16 * k + 4)
  | 0x0A => z 8 16
  | 0x0B => z 1 4
  | _ => true

/-- Two spans of bytes share none. -/
def apart (a n b m : Nat) : Bool := decide (a + n ≤ b) || decide (b + m ≤ a)

/-- The signed region and its directory keep the rules of R358, and so do the reserved bytes of the signature block (Table 17-4). -/
def imageFormed (l : SlotBytes) : Bool :=
  let n := l.le 20 4
  let k := l.le 6 2
  let d := imageDir l
  l.le 0 4 == 0x4854524D && l.le 4 2 == 1 && decide (1 ≤ k) && decide (k ≤ 16) && decide (512 ≤ n) && decide (n ≤ 2097152) && n % 16 == 0
    && decide (l.le 16 4 < 2) && l.zero 52 128 && l.zero (n + 5373) (n + 5376)
    && d.all (fun s => s.version == 1 && sectionSized s && sectionClean l s && s.off % 16 == 0 && decide (128 + 16 * k ≤ s.off) &&
        decide (s.off + s.len ≤ n))
    && (List.range k).all (fun i => (List.range i).all fun j =>
        match d[i]?, d[j]? with
        | some a, some b => a.kind != b.kind && apart a.off a.len b.off b.len
        | _, _ => true)

/-- A signed byte. -/
def signedByte (b : Nat) : Int := if b < 128 then b else (b : Int) - 256

/-- The sections of a formed image (Table 17-6). -/
def readImage (l : SlotBytes) : ImageInfo :=
  let d := imageDir l
  let at_ (kind : Nat) : Option Section := d.find? (·.kind == kind)
  let take {α : Type} (kind : Nat) (f : (Nat → Nat → Nat) → Section → List α) : List α := match at_ kind with
    | some s => f (fun o n => l.le (s.off + o) n) s
    | none => []
  let n := l.le 20 4
  { version := BitVec.ofNat 32 (l.le 8 4), svn := BitVec.ofNat 32 (l.le 12 4), autoAdvance := l.le 16 4 % 2 == 1
    crcRef := (List.range 4).map fun k => BitVec.ofNat 32 (l.le (24 + 4 * k) 4)
    security := (at_ 0x0B).map fun s => (l.le s.off 1 == 1, BitVec.ofNat 32 (l.le (s.off + 4) 4))
    modeBad := match at_ 0x0B with
      | some s => decide (1 < l.le s.off 1)
      | none => false
    drain := take 0x0A fun b _ => (List.range 4).map fun k => b (2 * k) 2
    refresh := take 0x04 fun b _ => (List.range 52).map fun k => b (if k < 26 then k else k + 6) 1
    selfRefresh := take 0x05 fun b _ => (List.range 32).map fun k => b (2 * k) 2
    patrol := take 0x07 fun b s => (List.range s.count).map fun k => (b (8 * k) 4, b (8 * k + 4) 4)
    history := take 0x08 fun b _ => (List.range 14).map fun k =>
      (b (16 * k) 2, b (16 * k + 2) 1, (List.range 6).map fun j => b (16 * k + 4 + 2 * j) 2)
    funcSeq := take 0x09 fun b _ => (List.range 6).map fun k =>
      (if b (16 * k) 1 = k + 1 then b (16 * k + 4) 4 else 2 ^ 32, b (16 * k + 8) 4, b (16 * k + 12) 4)
    formats := take 0x02 fun b _ => (List.range 48).map fun k => BitVec.ofNat 128 (b (16 * k) 16)
    bark := take 0x06 fun b _ => (List.range 14).map fun k => b (2 * k) 2
    lanePreset := take 0x03 fun b _ => (List.range 15).map fun k =>
      if b (4 * k) 4 = 0 then [] else
        [signedByte (b (4 * k) 1), signedByte (b (4 * k + 1) 1), signedByte (b (4 * k + 2) 1), (b (4 * k + 3) 1 : Int)]
    portLists := take 0x03 fun b _ => (List.range 64).map fun p =>
      ((List.range 8).map fun k => b (64 + 8 * p + k) 1).takeWhile (· != 0xFF)
    registers := take 0x01 fun b s => (List.range s.count).map fun k =>
      (b (12 * k) 4, BitVec.ofNat 32 (b (12 * k + 4) 4), BitVec.ofNat 32 (b (12 * k + 8) 4))
    kinds := d.map (·.kind)
    digest := Config.sha384 (SlotBytes.cut l (128 + 16 * d.length) (n - 128 - 16 * d.length))
    headerDigest := Config.sha384 (SlotBytes.cut l 0 128 ++ SlotBytes.cut l n 2000) }

/-- A slot's image where R314 and R358 rate it valid but for its SVN. -/
def slotImage (f : SlotFacts) : Option ImageInfo := if f.signed && imageFormed f.bytes then some (readImage f.bytes) else none

end Sys2Proof.Machine
end

