-- ==== Sys2Proof/Machine/Wire.lean ====
section
/-! DEFINITION. What is on the wires of a Luax port: packets and flits as bytes (R232, R258, R260, R261), scrambled blocks and their
spread over the lanes (R281 to R283), the FEC of a lane (R284) and its PAM4 symbols (R280). -/

namespace Sys2Proof.Machine

/-! ### Symbols (R280) -/

/-- The level of a bit pair, its first-sent bit first (Table 13-1). -/
def levelOf : Bool → Bool → Level
  | false, false => .minus3
  | false, true => .minus1
  | true, true => .plus1
  | true, false => .plus3

/-- The bit pair of a level, its first-sent bit first. -/
def levelBits : Level → Bool × Bool
  | .minus3 => (false, false)
  | .minus1 => (false, true)
  | .plus1 => (true, true)
  | .plus3 => (true, false)

/-- The level that a swapped pair of wires makes of a level. -/
def mirror : Level → Level
  | .minus3 => .plus3
  | .minus1 => .plus1
  | .plus1 => .minus1
  | .plus3 => .minus3

/-- The symbols of a frame's bits, bit i the i-th sent. -/
def symbolsOf (b : BitVec 2800) : List Level := (List.range 1400).map fun i => levelOf (b.getLsbD (2 * i)) (b.getLsbD (2 * i + 1))

/-- A frame's bits from its symbols. -/
def bitsOf (l : List Level) : BitVec 2800 :=
  l.reverse.foldl (fun a x =>
    let p := levelBits x
    (a <<< 2) ||| (if p.1 then 1 else 0) ||| (if p.2 then 2 else 0)) 0

/-! ### Packets and flits as bytes (Tables 11-1, 11-2, 12-1, 12-5) -/

/-- The header of a packet on REQ, FWD, COL or MGT (Table 11-1). -/
def requestHeader (p : Packet) : BitVec 192 :=
  p.addr ++ p.txid ++ p.dlocal ++ 0#2 ++ p.tag ++ p.principal ++ p.src ++ 0#2 ++ p.fw ++ p.sub ++ p.cls ++ p.len ++
    BitVec.ofBool p.fence ++ BitVec.ofBool p.poison ++ BitVec.ofBool p.bank ++ p.hop ++ p.chan ++ p.opcode

/-- The header of a packet on RSP (Table 11-2). -/
def responseHeader (p : Packet) : BitVec 128 :=
  p.txid ++ p.detail ++ 0#2 ++ p.bark ++ p.status ++ p.tag ++ p.src ++ p.dest ++ BitVec.ofBool p.dataFlag ++ BitVec.ofBool p.poison ++
    BitVec.ofBool p.bank ++ p.hop ++ p.chan ++ p.opcode

/-- A packet as its slots hold it: header, payload, and `pad` after its last byte where half a slot is left (R260). -/
def packetImage (p : Packet) (pad : BitVec 64) : BitVec 1408 :=
  let whole : BitVec 1408 :=
    if p.chan = 1 then (p.data ++ responseHeader p).setWidth 1408
    else ((p.mask.setWidth 128 : BitVec 128) ++ p.data ++ requestHeader p).setWidth 1408
  let bits := 8 * p.bytes
  (whole &&& (BitVec.allOnes 1408 >>> (1408 - bits))) ||| (if p.bytes % 16 = 0 then 0 else pad.setWidth 1408 <<< bits)

/-- Slot k of a packet. -/
def packetSlot (p : Packet) (pad : BitVec 64) (k : Nat) : BitVec 128 := (packetImage p pad).extractLsb' (128 * k) 128

/-- The slots of a body (R260): `lead` is the packet begun in an earlier flit with the slots it still has; `fill k` is what slot k holds
where the spec leaves its bytes open. -/
def bodySlotList (fill : Nat → BitVec 128) (lead : Option (Packet × Nat)) (items : List BodyItem) : List (BitVec 128) :=
  (items.foldl (fun (a : List (BitVec 128)) i =>
    let at_ := a.length
    match i with
    | .start q m => a ++ (List.range m).map (packetSlot q ((fill at_).setWidth 64))
    | .more m => match lead with
      | some (q, left) => a ++ (List.range m).map fun k => packetSlot q ((fill at_).setWidth 64) (q.slots - left + k)
      | none => a
    | .empty => a ++ [fill at_ <<< 8]) [])

/-- A body of n slots: those that hold nothing are empty (R260). -/
def bodyBits (fill : Nat → BitVec 128) (lead : Option (Packet × Nat)) (items : List BodyItem) (n : Nat) : BitVec 1920 :=
  let l := bodySlotList fill lead items
  (List.range n).foldl (fun (a : BitVec 1920) k => a ||| ((l.getD k (fill k <<< 8)).setWidth 1920 <<< (128 * k))) 0

/-- A body that the receiver ignores (Table 12-2). -/
def openBody (fill : Nat → BitVec 128) (n : Nat) : BitVec 1920 :=
  (List.range n).foldl (fun (a : BitVec 1920) k => a ||| ((fill k).setWidth 1920 <<< (128 * k))) 0

/-- The link header (Table 12-1). -/
def linkHeader (f : Flit) : BitVec 64 := f.crdB ++ f.cselB ++ f.crdA ++ f.cselA ++ f.ack ++ f.seq ++ f.type

/-- Values of w bits, two bytes each, the first lowest. -/
def halfWords (l : List (BitVec 11)) : BitVec 320 :=
  (List.range 20).foldl (fun (a : BitVec 320) k => a ||| ((l.getD k 0).setWidth 320 <<< (16 * k))) 0

/-- The body of an INIT flit (Table 12-5). -/
def initBits (b : InitBody) : BitVec 1920 :=
  let flags : BitVec 8 := 0#4 ++ BitVec.ofBool b.keywait ++ BitVec.ofBool b.resume ++ BitVec.ofBool b.protect ++ BitVec.ofBool b.seen
  0#1024 ++ b.echo ++ b.ts ++ b.flitctr ++ halfWords b.freed ++ halfWords b.size ++ 0#48 ++ 0#2 ++ b.expect ++ 0#8 ++ b.port ++
    0#4 ++ b.node ++ flags ++ b.width ++ b.version

/-- The CRC-64 register after one more bit, `g` the generator without its leading term (R261). -/
def crc64Bit (r : BitVec 64) (b : Bool) : BitVec 64 :=
  if r.getMsbD 0 == b then r <<< 1 else (r <<< 1) ^^^ 0x42F0E1EBA9EA3693

/-- The CRC-64 of bytes in rising address order, bit 7 of each first (R261). -/
def crc64 (bytes : List Byte) : BitVec 64 :=
  ~~~(bytes.foldl (fun r b => (List.range 8).foldl (fun r i => crc64Bit r (b.getLsbD (7 - i))) r) (BitVec.allOnes 64))

/-- A flit: header, body, CRC-64 trailer (R258). -/
def flitBits (head : BitVec 64) (body : BitVec 1920) : BitVec 2048 :=
  let front : BitVec 1984 := body ++ head
  crc64 ((List.range 248).map fun i => front.extractLsb' (8 * i) 8) ++ front

/-- The CRC of a flit passes (R261). -/
def crcPasses (f : BitVec 2048) : Bool :=
  crc64 ((List.range 248).map fun i => f.extractLsb' (8 * i) 8) == f.extractLsb' 1984 64

/-- The nonce of a sealed flit (R262). -/
def sealNonce (port : Endpoint) (counter : BitVec 64) : BitVec 96 := counter ++ 0#12 ++ port

/-! ### Blocks (R281 to R283) -/

/-- A 66-bit block, bit i the i-th sent: header bits 0 and 1, then the payload. -/
abbrev Block := BitVec 66

/-- A data block: header 01 in sending order. -/
def dataBlock (payload : BitVec 64) : Block := payload ++ 0b10#2
/-- A control block: header 10 in sending order. -/
def controlBlock (payload : BitVec 64) : Block := payload ++ 0b01#2

def Block.payload (b : Block) : BitVec 64 := b.extractLsb' 2 64
def Block.isData (b : Block) : Bool := b.extractLsb' 0 2 == 0b10#2
/-- A control block with a type of Table 13-2. -/
def Block.isControl (b : Block) : Bool :=
  b.extractLsb' 0 2 == 0b01#2 && [0x33#8, 0x4B#8, 0x78#8, 0x87#8].contains (b.extractLsb' 2 8)
/-- Header 00 or 11, or a control block with another type byte (R281). -/
def Block.bad (b : Block) : Bool := !b.isData && !b.isControl

/-- The EI_ENTER block (Table 13-2). -/
def eiEnterBlock : Block := controlBlock 0x87

/-- The scrambler after one payload bit: `h` holds the last 58 bits sent, the newest in bit 0 (R282). -/
def scrambleBit (h : BitVec 58) (d : Bool) : Bool × BitVec 58 :=
  let o := d ^^ h.getLsbD 38 ^^ h.getLsbD 57
  (o, (h <<< 1) ||| (if o then 1 else 0))

/-- The descrambler after one payload bit (R282). -/
def descrambleBit (h : BitVec 58) (o : Bool) : Bool × BitVec 58 :=
  (o ^^ h.getLsbD 38 ^^ h.getLsbD 57, (h <<< 1) ||| (if o then 1 else 0))

/-- A payload through the scrambler or the descrambler, bit 0 first. -/
def throughPayload (f : BitVec 58 → Bool → Bool × BitVec 58) (h : BitVec 58) (p : BitVec 64) : BitVec 64 × BitVec 58 :=
  (List.range 64).foldl (fun (a : BitVec 64 × BitVec 58) i =>
    let r := f a.2 (p.getLsbD i)
    (if r.1 then a.1 ||| (1#64 <<< i) else a.1, r.2)) (0, h)

/-- The 32 data blocks of a flit, and the scrambler after them (R283). -/
def flitBlocks (h : BitVec 58) (f : BitVec 2048) : List Block × BitVec 58 :=
  (List.range 32).foldl (fun (a : List Block × BitVec 58) j =>
    let r := throughPayload scrambleBit a.2 (f.extractLsb' (64 * j) 64)
    (a.1 ++ [dataBlock r.1], r.2)) ([], h)

/-- n more bits of PRBS31, x^31 + x^28 + 1, the first in bit 0 (R297, Table 13-2). -/
def prbs31 (g : BitVec 31) (n : Nat) : BitVec 56 × BitVec 31 :=
  (List.range n).foldl (fun (a : BitVec 56 × BitVec 31) i =>
    let o := a.2.getLsbD 30 ^^ a.2.getLsbD 27
    (if o then a.1 ||| (1#56 <<< i) else a.1, (a.2 <<< 1) ||| (if o then 1 else 0))) (0, g)

/-- n IDLE blocks, and the generator after them (Table 13-2). -/
def idleBlocks (g : BitVec 31) (n : Nat) : List Block × BitVec 31 :=
  (List.range n).foldl (fun (a : List Block × BitVec 31) _ =>
    let r := prbs31 a.2 56
    (a.1 ++ [controlBlock (r.1 ++ 0x33#8)], r.2)) ([], g)

/-! ### The FEC of a lane: RS(280,264) over GF(2^10) (R284) -/

abbrev Sym := BitVec 10

/-- x times a field element, modulo x^10 + x^3 + 1. -/
def symTimesX (a : Sym) : Sym := (a <<< 1) ^^^ (if a.getLsbD 9 then 9 else 0)

def symMul (a b : Sym) : Sym :=
  ((List.range 10).foldl (fun (r : Sym × Sym) i => (if b.getLsbD i then r.1 ^^^ r.2 else r.1, symTimesX r.2)) (0, a)).1

def symPow (a : Sym) : Nat → Sym
  | 0 => 1
  | n + 1 => symMul a (symPow a n)

/-- The inverse of a nonzero element: its power 1,022. -/
def symInv (a : Sym) : Sym := 
  let h := (List.range 8).foldl (fun (r : Sym) _ => symMul (symMul r r) a) a
  symMul h h

def symAlpha (n : Nat) : Sym := symPow 2 n

/-- The value at x of a polynomial, its highest coefficient first. -/
def symEval (p : List Sym) (x : Sym) : Sym := p.foldl (fun a c => symMul a x ^^^ c) 0

/-- Coefficients of the generator, the highest (1) first: the product of (x − α^i) for i < n. -/
def symGen : Nat → List Sym
  | 0 => [1]
  | n + 1 =>
    let p := symGen n
    List.zipWith (· ^^^ ·) (p ++ [0]) (0 :: p.map (symMul (symAlpha n)))

/-- Symbol m of a bit string: its first-sent bit is symbol bit 9. -/
def symAt {w : Nat} (b : BitVec w) (m : Nat) : Sym := (b.extractLsb' (10 * m) 10).reverse

/-- Symbols as bits, symbol 0 lowest. -/
def symBits (l : List Sym) : BitVec 2800 := l.reverse.foldl (fun (a : BitVec 2800) x => (a <<< 10) ||| x.reverse.setWidth 2800) 0

/-- The 16 parity symbols of a message, in sending order. -/
def parity (msg : List Sym) : List Sym :=
  let g := (symGen 16).drop 1
  msg.foldl (fun (r : List Sym) m =>
    let f := m ^^^ r.headD 0
    List.zipWith (fun c q => c ^^^ symMul f q) (r.drop 1 ++ [0]) g) (List.replicate 16 0)

/-- The frame of a lane's 40 blocks: the message, then the parity. -/
def fecEncode (msg : BitVec 2640) : BitVec 2800 :=
  let m := (List.range 264).map (symAt msg)
  symBits (m ++ parity m)

/-- The 16 syndromes of a received word. -/
def syndromes (r : List Sym) : List Sym := (List.range 16).map fun i => symEval r (symAlpha i)

/-- An error locator being built: connection polynomial and its predecessor (lowest coefficient first), length, gap, last discrepancy. -/
structure Locator where
  c : List Sym := [1]
  b : List Sym := [1]
  len : Nat := 0
  gap : Nat := 1
  last : Sym := 1
  deriving DecidableEq, Repr

/-- c minus f·x^k·b. -/
def symSub (c b : List Sym) (f : Sym) (k : Nat) : List Sym :=
  let t := List.replicate k 0 ++ b.map (symMul f)
  (List.range (max c.length t.length)).map fun i => c.getD i 0 ^^^ t.getD i 0

/-- One syndrome more (Berlekamp and Massey). -/
def Locator.step (s : List Sym) (l : Locator) (n : Nat) : Locator :=
  let d := (List.range (l.len + 1)).foldl (fun (a : Sym) i => a ^^^ symMul (l.c.getD i 0) (s.getD (n - i) 0)) 0
  if d = 0 then { l with gap := l.gap + 1 }
  else
    let c := symSub l.c l.b (symMul d (symInv l.last)) l.gap
    if 2 * l.len ≤ n then { c := c, b := l.c, len := n + 1 - l.len, gap := 1, last := d }
    else { l with c := c, gap := l.gap + 1 }

/-- Value of the error at symbol k of a word whose locator and syndromes are c and s (Forney); 0: the symbol holds none. -/
def symbolError (s c : List Sym) (k : Nat) : Sym :=
  let x := symAlpha (279 - k)
  let y := symInv x
  let at_ (p : List Sym) : Sym := symEval p.reverse y
  if at_ c = 0 then
    let omega := (List.range 16).map fun n => (List.range (n + 1)).foldl (fun (a : Sym) i => a ^^^ symMul (c.getD i 0) (s.getD (n - i) 0)) 0
    let slope := (List.range c.length).map fun i => if i % 2 = 0 then c.getD (i + 1) 0 else 0
    symMul x (symMul (at_ omega) (symInv (at_ slope)))
  else 0

/-- The codeword within 8 symbols of a received frame, and how many it corrects; none: there is no such codeword (R284, R285). -/
def fecDecode (f : BitVec 2800) : Option (Nat × BitVec 2800) :=
  let r := (List.range 280).map (symAt f)
  let s := syndromes r
  if s.all (· == 0) then some (0, f)
  else
    let l := (List.range 16).foldl (Locator.step s) {}
    if 8 < l.len then none
    else
      let e := (List.range 280).map (symbolError s l.c)
      let fixed := List.zipWith (· ^^^ ·) r e
      if (syndromes fixed).all (· == 0) then some ((e.filter (· != 0)).length, symBits fixed) else none

/-! ### The transmitter's and the receiver's streams (R283 to R285) -/

/-- Block j of a lane's message. -/
def blockAt (msg : BitVec 2640) (j : Nat) : Block := msg.extractLsb' (66 * j) 66

/-- A lane's message from its blocks. -/
def messageOf (l : List Block) : BitVec 2640 := l.reverse.foldl (fun (a : BitVec 2640) b => (a <<< 66) ||| b.setWidth 2640) 0

/-- Frames leave on the lanes of a set when 40 blocks lie ready on each: aggregate block k on lane k mod W (R283). -/
def PortWire.frame (lanes : List Nat) (w : PortWire) : PortWire :=
  let n := lanes.length
  if n = 0 || w.row.length < 40 * n then w
  else
    let sent := lanes.zipIdx.foldl (fun (m : SMap (List Level)) e =>
      m.put e.1 (symbolsOf (fecEncode (messageOf ((List.range 40).map fun r => w.row.getD (r * n + e.2) 0))))) w.sent
    { w with sent := sent, row := w.row.drop (40 * n) }

/-- Blocks enter the aggregate stream. -/
def PortWire.push (lanes : List Nat) (bs : List Block) (w : PortWire) : PortWire :=
  if lanes.isEmpty then w else PortWire.frame lanes { w with row := w.row ++ bs }

/-- A flit leaves. -/
def PortWire.sendFlit (lanes : List Nat) (f : BitVec 2048) (w : PortWire) : PortWire :=
  let r := flitBlocks w.scr f
  PortWire.push lanes r.1 { w with scr := r.2 }

/-- n IDLE blocks leave. -/
def PortWire.sendIdle (lanes : List Nat) (n : Nat) (w : PortWire) : PortWire :=
  let r := idleBlocks w.prbs n
  PortWire.push lanes r.1 { w with prbs := r.2 }

/-- Entry to electrical idle: IDLE blocks up to block 39 of a frame, and EI_ENTER there on every lane (R294). A frame that already carries
part of its last row is completed first. -/
def PortWire.enterIdle (lanes : List Nat) (w : PortWire) : PortWire :=
  let n := lanes.length
  let w := if 39 * n < w.row.length then w.sendIdle lanes (40 * n - w.row.length) else w
  (w.sendIdle lanes (39 * n - w.row.length)).push lanes (List.replicate n eiEnterBlock)

/-- One received block of the aggregate stream: data is descrambled into its flit, a control block restarts the count (R283). `marked`
says that its frame was uncorrectable. A block with an invalid header counts as a data block and marks its flit (R285). -/
def PortWire.take (w : PortWire) (b : Block × Bool) : PortWire :=
  if b.1.isControl then { w with count := 0, part := 0, mark := false }
  else
    let r := throughPayload descrambleBit w.descr b.1.payload
    let part := w.part ||| (r.1.setWidth 2048 <<< (64 * w.count))
    let mark := w.mark || b.2 || b.1.bad
    if w.count = 31 then { w with descr := r.2, count := 0, part := 0, mark := false, flits := w.flits ++ [{ bits := part, marked := mark }] }
    else { w with descr := r.2, count := w.count + 1, part := part, mark := mark }

/-- A decoded frame of a lane; when every lane of the set has one, their 40 rows are delivered (R285). -/
def PortWire.deliver (lanes : List Nat) (l : Nat) (f : RxFrame) (w : PortWire) : PortWire :=
  if !lanes.contains l then w
  else
    let came := w.came.put l (w.came.lookD l [] ++ [f])
    if lanes.all fun k => !(came.lookD k []).isEmpty then
      let heads := lanes.map fun k => (came.lookD k []).headD {}
      let blocks := (List.range 40).flatMap fun r => heads.map fun h => (blockAt h.message r, h.marked)
      let came := lanes.foldl (fun (m : SMap (List RxFrame)) k => m.putC [] k ((m.lookD k []).drop 1)) came
      blocks.foldl PortWire.take { w with came := came }
    else { w with came := came }

/-- A bring-up or the start of framing: no frame is under way in either direction; what was delivered stays (R287, R292). -/
def PortWire.restart (w : PortWire) : PortWire := { w with row := [], came := [], count := 0, part := 0, mark := false }

end Sys2Proof.Machine
end

