-- ==== Sys2Proof/Machine/Link.lean ====
section
/-! DEFINITION. The link layer (chapter 12): states, INIT exchange, flits, acknowledgement and replay, credits. -/

namespace Sys2Proof.Machine

/-- DOWN causes (Table 12-4). -/
def Dc.command : Nat := 1
def Dc.los : Nat := 2
def Dc.retrainFail : Nat := 3
def Dc.protocol : Nat := 4
def Dc.mode : Nat := 5
def Dc.replayEcc : Nat := 6

/-- Flit types (Table 12-2). -/
def Ft.data : Nat := 1
def Ft.idle : Nat := 2
def Ft.nak : Nat := 3

/-- Numbers modulo 16,384 (R259). -/
def seqSub (a b : Nat) : Nat := (a + 16384 - b % 16384) % 16384

namespace State

/-- LNK_STATUS.STATE (Table 12-4a): 0 DISABLED, 1 TRAINING, 2 INIT, 3 ACTIVE, 4 RETRAIN, 5 DOWN. -/
def linkState (s : State) (n : Nat) : Nat := s.rd F.lnkStatus_state n
def setLinkState (s : State) (n v : Nat) : State := (s.wr F.lnkStatus_state n v).wrB F.rtePort_up n (v == 3)

def setStage (s : State) (n v : Nat) : State := s.wr F.lanStatus_stage n v

/-! ### What goes out on the lanes (R262, R283) -/

/-- Transmit lanes in use, in rising number (R283). -/
def sendLanes (s : State) (n : Nat) : List Nat := (List.range 8).filter (s.lane.lookD n {}).txSet.getLsbD

/-- Bytes of slot k of port n's next flit where the spec leaves them open. -/
def slotFill (s : State) (n k : Nat) : BitVec 128 := Config.slotFill n (s.getLink n).ctrTx k

/-- The body of port n's next flit as it is sent: sealed on a protected port, where it holds 14 slots (R262). -/
def sentBody (s : State) (n : Nat) (head : BitVec 64) (clear : Nat → BitVec 1920) : BitVec 1920 :=
  let p := s.getLink n
  match s.flag F.lnkStatus_protectLive n, p.keyLive with
  | true, some key => Config.sealBody key (sealNonce (BitVec.ofNat 20 (s.node * 256 + n)) p.ctrTx) head ((clear 14).setWidth 1792)
  | _, _ => clear 15

/-- The bytes of a flit as port n sends it (R258 to R262). -/
def sentFlit (s : State) (n : Nat) (f : Flit) (lead : Option (Packet × Nat)) : BitVec 2048 :=
  let head := linkHeader f
  flitBits head (s.sentBody n head fun k => if f.type = 1 then bodyBits (s.slotFill n) lead f.body k else openBody (s.slotFill n) k)

/-- Bytes of a flit enter the aggregate stream. -/
def sendOut (s : State) (n : Nat) (f : BitVec 2048) : State :=
  s.uLink n fun p => { p with wire := p.wire.sendFlit (s.sendLanes n) f }

/-- A flit slot with nothing ready: IDLE blocks (R283). -/
def sendIdle (s : State) (n : Nat) : State :=
  s.uLink n fun p => { p with wire := p.wire.sendIdle (s.sendLanes n) 32 }

/-- The flit that the lanes delivered first is taken; true: it fails, for its mark or its CRC (R264, R285). -/
def takeFront (s : State) (n : Nat) : Bool × State :=
  match (s.getLink n).wire.flits with
  | [] => (false, s)
  | f :: fs => (f.marked || !crcPasses f.bits, s.uLink n fun p => { p with wire := { p.wire with flits := fs } })

/-- Lanes start at a bring-up stage: what the earlier bring-up found is forgotten; unretired lanes return (R287, R296). -/
def startStages (s : State) (n stage : Nat) : State :=
  let l := s.lane.lookD n {}
  let s := s.wr F.lanStatus_retired n (s.rd F.lanStatus_retired n &&& (255 - l.returning.toNat))
  let s := if stage = 1 then s.wr F.lanStatus_detected n 0 else s
  let l' : PortLanes := { wins := l.wins, margins := l.margins, eyes := l.eyes, reqT := l.reqT, ack := l.ack }
  let s := { s with lane := s.lane.putC {} n l' }
  let s := s.uLink n fun p => { p with wire := p.wire.restart }
  ((s.wr F.lanStatus_txEi n 0).wr F.lanStatus_rxEi n 0).setStage n stage

/-! ### DOWN and RETRAIN (R273, R276) -/

/-- The port's discards on entry to DOWN (R276), counted; what the mesh already holds stays. -/
def discardPort (s : State) (n : Nat) : State :=
  let p := s.getLink n
  let d := portDie n
  let cur := (p.cur.map fun c => c.1.bank).toList
  let ends := p.replay.flatMap (·.ends)
  let count := p.txq.length + cur.length + ends.length + p.rx.length + p.rxCur.toList.length + (s.leashQueue n).length
  let s := s.inflightSubs d (p.txq.map (·.bank) ++ cur ++ ends)
  let s := p.rx.foldl (fun s q => s.unarrived n q) s
  let s := s.uQos fun v => { v with queue := v.queue.del n, asked := v.asked.filter fun a => a.port ≠ n }
  let s := s.setLink n { fifo := p.fifo, keyWings := if p.keyWings.isSome then p.keyWings else p.keyNext, keyLive := p.keyLive, out := p.out,
                          wire := { p.wire.restart with flits := [] } }
  let s := ((s.setReg .lnkSeq n 0).wr F.rteDrop_noRoute d (min (s.rd F.rteDrop_noRoute d + count) 65535))
  s

/-- Plans of this node with a reservation entry on port n abort with PATH_LOST (Table 09-5). -/
def pathLost (s : State) (n : Nat) : State :=
  let mine := (s.col.rsv.lookD n []).filter fun r => r.planNode == s.node && r.gen == s.rd F.colPlanStatus_gen r.plan
  s.abortPlans Pc.path fun p _ => if mine.any (·.plan == p) then some none else none

/-- The link of port n goes DOWN: its plans abort, and its node is lost when no other port to it is up (R249). -/
def goDown (s : State) (n cause : Nat) : State :=
  let s := (s.setLinkState n 5).wr F.lnkStatus_downCause n cause
  let s := (s.bump F.lnkEvents_downs n).raise { type := 0x0602, sev := 1, arg := [BitVec.ofNat 8 n, BitVec.ofNat 8 cause] }
  let s := ((s.discardPort n).wr F.lnkStatus_width n 0).setStage n 0
  let peer := s.rd F.rtePort_peer n
  let s := if s.isAccess n then s.loseParticipants fun e => e.toNat / 256 == peer else s
  let s := s.pathLost n
  if peer ≠ 0xFFF && (List.range 64).all fun m => s.rd F.rtePort_peer m != peer || !s.portUp m then s.markLost peer true else s

/-- RETRAIN from ACTIVE or INIT: sequence and replay state stay (R273). The width after it is open at its entry. -/
def enterRetrain (s : State) (n : Nat) : State :=
  let s := (s.setLinkState n 4).bump F.lnkEvents_retrains n
  let w := s.freeVal.toNat % 4
  let s := s.draw.raise { type := 0x0601, sev := 0, arg := [BitVec.ofNat 8 n, BitVec.ofNat 8 w] }
  let s := s.uLink n fun p => { p with
    attempts := 1, replays := 0, resend := none, nakQueued := false, nakPending := false, farInit := none, sentSeen := false }
  s.startStages n 2

/-- A protocol error of Table 12-4. -/
def protocolError (s : State) (n : Nat) : State := s.goDown n Dc.protocol

/-! ### The INIT exchange (R274, R329) -/

/-- INIT flits are exchanged: state INIT, or RETRAIN once its lanes are up. -/
def exchanging (s : State) (n : Nat) : Bool :=
  s.rd F.lanStatus_stage n == 9 && (s.linkState n == 2 || s.linkState n == 4)

/-- This end could resume (R274). -/
def resumes (s : State) (n : Nat) : Bool := s.linkState n == 4 && (s.getLink n).begun

/-- As far as this end knows, the exchange ends in a fresh start. -/
def freshStart (s : State) (n : Nat) : Bool :=
  !s.resumes n || match (s.getLink n).farInit with
    | some b => !b.resume
    | none => false

/-- The mode the port announces: the selected one for a fresh start, else the one in use (R262). -/
def initProtect (s : State) (n : Nat) : Bool :=
  if s.freshStart n then s.flag F.lnkCtrl_protect n else s.flag F.lnkStatus_protectLive n

/-- A protected port that starts fresh without a key (R329). -/
def keyWait (s : State) (n : Nat) : Bool := s.freshStart n && s.initProtect n && (s.getLink n).keyNext.isNone

/-- The receive-buffer sizes set for a port, buffers 0 to 19. -/
def setSizes (s : State) (n : Nat) : List Nat :=
  (List.range 20).map fun b => bits (s.reg .lnkCrdSize (n * 8 + b / 4)) (16 * (b % 4)) 11

/-- A key waits in the port's wings (Table 15-10). -/
def refreshKey (s : State) (n : Nat) : State :=
  (s.wrB F.secLinkStat_pending n (s.getLink n).keyWings.isSome).wrB F.secLinkStat_live n (s.getLink n).keyLive.isSome

/-- The lanes are up: the port enters the INIT exchange and adopts its wings key (R273, R329). -/
def enterInit (s : State) (n : Nat) : State :=
  let s := if s.linkState n = 1 then s.setLinkState n 2 else s
  let s := s.uLink n fun p => { p with
    farInit := none, sentSeen := false, mismatch := false, keyAsked := false
    keyNext := if p.keyWings.isSome then p.keyWings else p.keyNext, keyWings := none }
  (s.setStage n 9).refreshKey n

/-- Free the first k flits of the replay buffer (R266). -/
def freeFlits (s : State) (n k : Nat) : State :=
  let p := s.getLink n
  let s := s.inflightSubs (portDie n) ((p.replay.take k).flatMap (·.ends))
  let s := s.uLink n fun p => { p with replay := p.replay.drop k }
  (s.wr F.lnkSeq_txOldest n ((s.rd F.lnkSeq_txOldest n + k) % 16384)).wr F.lnkSeq_outstanding n (p.replay.length - k)

/-- The exchange is complete: resume or fresh start, then ACTIVE (R274). -/
def linkUp (s : State) (n : Nat) (b : InitBody) : State :=
  let finish (s : State) (protect : Bool) : State :=
    let s := s.uLink n fun p => { p with
      begun := true, attempts := 0, keyLive := if p.keyNext.isSome then p.keyNext else p.keyLive, keyNext := none, farInit := none, sentSeen := false }
    let s := (((s.setLinkState n 3).setStage n 0).wrB F.lnkStatus_protectLive n protect).refreshKey n
    let peer := s.rd F.rtePort_peer n
    if peer = 0xFFF then s else s.markLost peer false
  let protect := s.initProtect n
  let old := s.rd F.lnkSeq_txOldest n
  if s.resumes n && b.resume then
    let k := seqSub b.expect.toNat old
    if (s.getLink n).replay.length < k then s.protocolError n
    else
      let s := s.freeFlits n k
      let p := s.getLink n
      let back := p.replay.flatMap fun f => if f.owed then [] else f.debits
      let debited := back.foldl (fun m e => m.putC 0 e.1 ((m.lookD e.1 0 + 2048 - e.2) % 2048)) p.debited
      let farFreed := b.freed.zipIdx.foldl (fun (m : SMap Nat) e => m.putC 0 e.2 e.1.toNat) []
      let replay := p.replay.map fun f => { f with owed := true }
      let s := s.setLink n { p with
        replay := replay, debited := debited, farFreed := farFreed, ctrRx := b.flitctr, resentFrom := b.expect.toNat
        resend := if replay.isEmpty then none else some b.expect.toNat }
      finish (if replay.isEmpty then s else s.bump F.lnkErr_replays n) protect
  else
    let p := s.getLink n
    let cur := (p.cur.map fun c => c.1.bank).toList
    let s := s.inflightSubs (portDie n) (p.replay.flatMap (·.ends) ++ cur)
    let sizes := s.setSizes n
    let s := s.setLink n { txq := p.txq, fifo := p.fifo ++ p.rx, sizes := sizes, farSizes := b.size.map (·.toNat), keyNext := p.keyNext,
                           keyWings := p.keyWings, keyLive := p.keyLive, lastTs := p.lastTs, slots := p.slots, out := p.out, wire := p.wire }
    finish (s.setReg .lnkSeq n 0) protect

/-- Both ends have sent and received INIT with SEEN = 1 (R274). -/
def tryUp (s : State) (n : Nat) : State :=
  match (s.getLink n).farInit with
  | some b => if b.seen && (s.getLink n).sentSeen && !s.keyWait n && !b.keywait then s.linkUp n b else s
  | none => s

/-- Lanes in use (LNK_STATUS.WIDTH). -/
def lanesInUse (s : State) (n : Nat) : Nat := [0, 2, 4, 8].getD (s.rd F.lnkStatus_width n) 0

/-- Send an INIT flit. -/
def sendInit (s : State) (n : Nat) : State :=
  let p := s.getLink n
  let wait := s.keyWait n
  let body : InitBody := {
    width := BitVec.ofNat 8 (s.lanesInUse n), seen := p.farInit.isSome && !wait, protect := s.initProtect n, resume := s.resumes n
    keywait := wait, node := BitVec.ofNat 12 s.node, port := BitVec.ofNat 8 n, expect := BitVec.ofNat 14 (s.rd F.lnkSeq_rxExpect n)
    size := (if s.freshStart n then s.setSizes n else p.sizes).map (BitVec.ofNat 11)
    freed := (List.range 20).map fun b => BitVec.ofNat 11 (p.freed.lookD b 0)
    flitctr := p.ctrTx, ts := s.freeVal.setWidth 32, echo := p.lastTs }
  let s := if wait && !p.keyAsked then s.raise { type := 0x0604, sev := 1, arg := [BitVec.ofNat 8 n] } else s
  let s := s.draw.uLink n fun p => { p with out := some (.init body), sentSeen := p.sentSeen || body.seen, keyAsked := p.keyAsked || wait }
  (s.sendOut n (flitBits (linkHeader { type := 4 }) (initBits body))).tryUp n

/-- An INIT flit arrives (R274, R275). -/
def initFlit (s : State) (n : Nat) (b : InitBody) : State :=
  if s.linkState n = 3 then (if b.version ≠ 1 then s.protocolError n else s.enterRetrain n)
  else if !s.exchanging n then s
  else if b.version ≠ 1 then s.protocolError n
  else if b.protect ≠ s.initProtect n then s.goDown n Dc.mode
  else
    let differs := s.rd F.rtePort_peer n != 0xFFF && s.rd F.rtePort_peer n != b.node.toNat
    let s := if differs && !(s.getLink n).mismatch then
        s.raise { type := 0x0603, sev := 1, arg := BitVec.ofNat 8 n :: leBytes b.node.toNat 2 } else s
    let s := (s.wr F.lnkStatus_peerNode n b.node.toNat).wr F.lnkStatus_peerPort n b.port.toNat
    let s := if b.echo = 0 then s else (s.draw).wr F.lnkStatus_rtt n (s.freeVal.toNat % 65536)
    (s.uLink n fun p => { p with farInit := some b, lastTs := b.ts, mismatch := differs }).tryUp n

/-- A key is awaited at either end (R329). -/
def keyAwaited (s : State) (n : Nat) : Bool :=
  s.exchanging n && (s.keyWait n || ((s.getLink n).farInit.map (·.keywait)).getD false)

/-- Link key words written: the key goes to the wings, or at once to the port that waits for it (R329). -/
def linkKey (s : State) (n : Nat) : State :=
  let key : BitVec 256 := (List.range 8).foldl (fun k w =>
    k ||| (BitVec.ofNat 256 (bits (s.reg .secLinkKey (n * 8 + w)) 0 32) <<< (32 * w))) 0
  let s := (List.range 8).foldl (fun s w => s.setReg .secLinkKey (n * 8 + w) 0) s
  (if s.exchanging n && s.keyWait n then s.uLink n fun p => { p with keyNext := some key }
   else s.uLink n fun p => { p with keyWings := some key }).refreshKey n

/-! ### Acknowledgement, credits, replay (R264 to R269) -/

/-- Take an acknowledgement; none: it lies beyond the window. -/
def takeAck (s : State) (n a : Nat) : Option State :=
  let p := s.getLink n
  let k := seqSub (a + 1) (s.rd F.lnkSeq_txOldest n)
  if p.replay.length < k then none
  else if k = 0 then some s
  else
    let s := s.freeFlits n k
    let old := s.rd F.lnkSeq_txOldest n
    let left := p.replay.length - k
    some (s.uLink n fun p => { p with
      replays := 0
      resend := p.resend.bind fun r => if left = 0 then none else if seqSub r old < left then some r else some old })

/-- A credit slot's count (R269); none: a reserved selector. -/
def takeCredit (s : State) (n sel count : Nat) : Option State :=
  if sel < 20 then some (s.uLink n fun p => { p with farFreed := p.farFreed.putC 0 sel count })
  else if sel = 31 then some s else none

/-- The acknowledgement and both credit slots of a flit; none: a protocol error. -/
def takeHead (s : State) (n : Nat) (f : Flit) : Option State :=
  ((s.takeAck n f.ack.toNat).bind fun s => s.takeCredit n f.cselA.toNat f.crdA.toNat).bind fun s => s.takeCredit n f.cselB.toNat f.crdB.toNat

def sendNak (s : State) (n : Nat) : State :=
  s.uLink n fun p => if p.nakPending then p else { p with nakQueued := true, nakPending := true }

/-- A replay from flit `start` begins, or the link retrains (R266). -/
def replayFrom (s : State) (n start : Nat) : State :=
  let s := s.uLink n fun p => { p with replays := p.replays + 1 }
  if s.rd F.lnkCtrl_replayLimit n < (s.getLink n).replays then s.enterRetrain n
  else (s.uLink n fun p => { p with resentFrom := start, resend := if p.replay.isEmpty then none else some start }).bump F.lnkErr_replays n

/-- A whole packet is in the receive buffer. -/
def received (s : State) (n : Nat) (q : Packet) : State := (s.uLink n fun p => { p with rx := p.rx ++ [q] }).arrived n q

/-- One piece of an accepted body (R260); none: a packet that cannot be framed. -/
def takeItem (s : State) (n : Nat) : BodyItem → Option State
  | .empty => some s
  | .more k => match (s.getLink n).rxCur with
    | some (q, left) =>
      if left ≤ k then some ((s.uLink n fun p => { p with rxCur := none }).received n q)
      else some (s.uLink n fun p => { p with rxCur := some (q, left - k) })
    | none => some s
  | .start q k =>
    if q.opcode = 0 then some s
    else if !q.framable then none
    else if q.slots ≤ k then some (s.received n q)
    else some (s.uLink n fun p => { p with rxCur := some (q, q.slots - k) })

def takeBody (s : State) (n : Nat) : List BodyItem → Option State
  | [] => some s
  | b :: bs => match s.takeItem n b with
    | some s => s.takeBody n bs
    | none => none

/-- Every received slot counts on a protected port (R262). -/
def slotIn (s : State) (n : Nat) : State := s.uLink n fun p => { p with ctrRx := p.ctrRx + 1 }

/-- The gap that an IDLE or NAK flit shows (R264). -/
def gapNak (s : State) (n : Nat) (f : Flit) : State :=
  let d := seqSub f.seq.toNat (s.rd F.lnkSeq_rxExpect n)
  if 0 < d && d < 8192 then s.sendNak n else s

/-- A DATA flit (R264). -/
def dataFlit (s : State) (n : Nat) (f : Flit) : State :=
  if s.linkState n ≠ 3 then s
  else match (s.slotIn n).takeHead n f with
    | none => s.protocolError n
    | some s =>
      let e := s.rd F.lnkSeq_rxExpect n
      let d := seqSub f.seq.toNat e
      if d = 0 then
        match s.takeBody n f.body with
        | none => s.protocolError n
        | some s => (s.wr F.lnkSeq_rxExpect n ((e + 1) % 16384)).uLink n fun p => { p with nakPending := false, ackNew := true }
      else if d < 8192 then s.sendNak n
      else s

/-- An IDLE flit. -/
def idleFlit (s : State) (n : Nat) (f : Flit) : State :=
  if s.linkState n ≠ 3 then s
  else match (s.slotIn n).takeHead n f with
    | none => s.protocolError n
    | some s => s.gapNak n f

/-- A NAK flit (R264, R266, R267). -/
def nakFlit (s : State) (n : Nat) (f : Flit) (ecc : Ecc) : State :=
  if s.linkState n ≠ 3 then s
  else match (s.slotIn n).takeHead n f with
    | none => s.protocolError n
    | some s =>
      let s := s.gapNak n f
      let start := (f.ack.toNat + 1) % 16384
      let p := s.getLink n
      if p.resend.isSome && p.resentFrom = start then s
      else if ecc = .uncorrectable && !p.replay.isEmpty then s.goDown n Dc.replayEcc
      else s.replayFrom n start

/-- A flit whose CRC or tag fails (R262, R264). -/
def badFlit (s : State) (n : Nat) (tag : Bool) : State :=
  if s.linkState n ≠ 3 then s
  else
    let s := s.slotIn n
    (if tag && s.flag F.lnkStatus_protectLive n then s.bump F.lnkEvents_authFail n else s.bump F.lnkErr_crcErr n).sendNak n

/-- The next flit of the lanes reaches the link layer: one that the lanes delivered marked, or with a wrong CRC, is a failed one (R285). -/
def flitIn (s : State) (n : Nat) (go : State → State) : State :=
  let r := s.takeFront n
  if r.1 then r.2.badFlit n false else go r.2

/-- ACK_TIMEOUT (R266, R267). -/
def ackTimeout (s : State) (n : Nat) (ecc : Ecc) : State :=
  if s.linkState n ≠ 3 || (s.getLink n).replay.isEmpty then s
  else if ecc = .uncorrectable then s.goDown n Dc.replayEcc
  else s.replayFrom n (s.rd F.lnkSeq_txOldest n)

/-! ### Transmission (R265, R268, R306) -/

/-- Slots of a body. -/
def bodySlots (s : State) (n : Nat) : Nat := if s.flag F.lnkStatus_protectLive n then 14 else 15

/-- DATA flits among a port's last 1,024 slots. -/
def utilisation (p : PortLink) : Nat := ((List.range 1024).filter p.slots.getLsbD).length

/-- A packet may start: it has its buffer's credit, and what it leaves of the port's COL credits covers the floors of the reservations that
are not of its plan (R203, R268). -/
def mayStart (s : State) (n : Nat) (p : PortLink) (q : Packet) : Bool :=
  let own (r : Rsv) : Bool := s.colPort q == some n && (r.planNode, r.plan, r.gen) == colPlan q
  let floors := (((s.col.rsv.lookD n []).filter fun r => !own r).map (·.floor)).sum
  decide (q.cost ≤ credits p q.buf) &&
    (q.chan != 3 || decide (3 * floors + q.cost ≤ ([12, 13, 14, 15].map (credits p)).sum))

/-- The packet whose turn it is: round robin over the 20 buffers. -/
def nextTx (s : State) (n : Nat) (p : PortLink) : Option Packet :=
  (List.range 20).findSome? fun i =>
    (p.txq.find? fun q => q.buf == (p.turn + i) % 20).bind fun q => if s.mayStart n p q then some q else none

/-- A body being filled. -/
structure Fill where
  p : PortLink
  left : Nat
  items : List BodyItem := []
  debits : List (Nat × Nat) := []
  ends : List Bool := []
  barks : List Nat := []
  deriving DecidableEq, Repr

/-- Fill the slots left. `lvl` is the port's utilisation level. -/
def fill (s : State) (n lvl : Nat) : Nat → Fill → Fill
  | 0, k => k
  | fuel + 1, k =>
    if k.left = 0 then k
    else match k.p.cur with
      | some (q, r) =>
        let m := min r k.left
        fill s n lvl fuel { k with
          p := { k.p with cur := if r ≤ k.left then none else some (q, r - m) }
          left := k.left - m, items := k.items ++ [.more m], ends := if r ≤ k.left then k.ends ++ [q.bank] else k.ends }
      | none => match s.nextTx n k.p with
        | none => k
        | some q0 =>
          let q := if q0.chan = 1 then { q0 with bark := BitVec.ofNat 3 (max q0.bark.toNat lvl) } else q0
          let m := min q.slots k.left
          let b := q.buf
          let whole := q.slots ≤ k.left
          fill s n lvl fuel { k with
            p := { k.p with txq := k.p.txq.erase q0, turn := (b + 1) % 20, debited := k.p.debited.putC 0 b ((k.p.debited.lookD b 0 + q.cost) % 2048)
                            cur := if whole then none else some (q, q.slots - m) }
            left := k.left - m, items := k.items ++ [.start q m], debits := k.debits ++ [(b, q.cost)]
            ends := if whole then k.ends ++ [q.bank] else k.ends
            barks := if q.chan = 1 then k.barks ++ [q.bark.toNat] else k.barks }

/-- A flit leaves: acknowledgement and credit slots as they stand (R265, R269). -/
def emit (s : State) (n type seq : Nat) (body : List BodyItem) (lead : Option (Packet × Nat) := none) : State :=
  let e := s.rd F.lnkSeq_rxExpect n
  let p := s.getLink n
  let a := match p.changed with
    | [] => (p.lastA + 1) % 20
    | c :: cs => cs.foldl min c
  let b := (p.lastB + 1) % 20
  let f : Flit := {
    type := BitVec.ofNat 4 type, seq := BitVec.ofNat 14 seq, ack := BitVec.ofNat 14 (seqSub e 1)
    cselA := BitVec.ofNat 5 a, crdA := BitVec.ofNat 11 (p.freed.lookD a 0), cselB := BitVec.ofNat 5 b, crdB := BitVec.ofNat 11 (p.freed.lookD b 0)
    body := body }
  (s.sendOut n (s.sentFlit n f lead)).uLink n fun p => { p with
      out := some (.flit f), lastA := a, lastB := b, changed := p.changed.filter fun c => c ≠ a && c ≠ b, ackNew := false
      ctrTx := p.ctrTx + 1, slots := (p.slots <<< 1) ||| (if type = Ft.data then 1 else 0) }

/-- Resend one flit of a running replay (R266). -/
def resendFlit (s : State) (n r : Nat) : State :=
  let p := s.getLink n
  match p.replay.find? fun f => f.seq == r with
  | none => s.uLink n fun p => { p with resend := none }
  | some f =>
    let last := (r + 1) % 16384 == s.rd F.lnkSeq_txNext n
    let s := s.uLink n fun p => { p with
      debited := if f.owed then f.debits.foldl (fun m e => m.putC 0 e.1 ((m.lookD e.1 0 + e.2) % 2048)) p.debited else p.debited
      replay := p.replay.map fun g => if g.seq = r then { g with owed := false } else g
      resend := if last then none else some ((r + 1) % 16384) }
    s.emit n Ft.data r f.body f.lead

/-- The sender fills the next flit slot (R265, R268). -/
def transmit (s : State) (n : Nat) : State :=
  if s.linkState n ≠ 3 || s.flag F.lanStatus_txEi n then s
  else
    let p := s.getLink n
    let next := s.rd F.lnkSeq_txNext n
    if p.nakQueued then ((s.uLink n fun p => { p with nakQueued := false }).emit n Ft.nak next []).bump F.lnkErr_nakTx n
    else match p.resend with
      | some r => s.resendFlit n r
      | none =>
        let lvl := s.level F.qosBarkU_thresh (portDie n) true (utilisation p)
        let k := if p.replay.length < 2048 then s.fill n lvl 40 { p := p, left := s.bodySlots n } else { p := p, left := 0 }
        if k.items.isEmpty then
          if p.ackNew || !p.changed.isEmpty then s.emit n Ft.idle next []
          else (s.uLink n fun p => { p with slots := p.slots <<< 1 }).sendIdle n
        else
          let flit : SentFlit := { seq := next, body := k.items, lead := p.cur, debits := k.debits, ends := k.ends }
          let s := s.setLink n { k.p with replay := k.p.replay ++ [flit] }
          let s := (s.wr F.lnkSeq_txNext n ((next + 1) % 16384)).wr F.lnkSeq_outstanding n (p.replay.length + 1)
          let s := k.barks.foldl (fun s v => s.uQos fun u => { u with barks := u.barks.put (n * 8 + v) (u.barks.lookD (n * 8 + v) 0 + 1) }) s
          s.emit n Ft.data next k.items p.cur

/-- IDLE_ACK passes without a flit: an IDLE flit, or the reason to leave electrical idle (R264, R265, R295). -/
def idleAck (s : State) (n : Nat) : State :=
  if s.linkState n ≠ 3 then s
  else
    let s := s.uLink n fun p => { p with nakPending := false }
    if s.flag F.lanStatus_txEi n then s.uLink n fun p => { p with ackNew := true }
    else s.emit n Ft.idle (s.rd F.lnkSeq_txNext n) []

/-- The oldest packet of buffer b leaves the receive buffer and frees its credits (R268, R272). -/
def rxRelease (s : State) (n b : Nat) (e : RxErr) : State :=
  let p := s.getLink n
  match p.rx.find? fun q => q.buf == b with
  | none => s
  | some q =>
    let give (s : State) : State := s.uLink n fun p => { p with
      rx := p.rx.erase q, freed := p.freed.putC 0 b ((p.freed.lookD b 0 + q.cost) % 2048)
      changed := if p.changed.contains b then p.changed else p.changed ++ [b] }
    match e with
    | .header => ((give s).unarrived n q).malformed (portDie n)
    | .payload => if fifoRoom p.fifo q then (give s).uLink n fun p => { p with fifo := p.fifo ++ [{ q with poison := true }] } else s
    | .none => if fifoRoom p.fifo q then (give s).uLink n fun p => { p with fifo := p.fifo ++ [q] } else s

/-- CRD_TIMEOUT: a packet still waits for buffer b's credit (R271). -/
def crdTimeout (s : State) (n b : Nat) : State :=
  let p := s.getLink n
  let waits := p.txq.any fun q => q.buf == b && decide (credits p b < q.cost)
  if s.linkState n = 3 && waits then (s.bump F.lnkEvents_crdTimeouts n).enterRetrain n else s

/-! ### Timers and commands (R273, Table 12-6) -/

def initTimeout (s : State) (n : Nat) : State := if s.linkState n = 2 && !s.keyAwaited n then s.enterRetrain n else s

def retrainTimeout (s : State) (n : Nat) : State :=
  if s.linkState n ≠ 4 || s.keyAwaited n then s
  else if s.rd F.lnkCtrl_retrainMax n ≤ (s.getLink n).attempts then s.goDown n Dc.retrainFail
  else (s.uLink n fun p => { p with attempts := p.attempts + 1, farInit := none, sentSeen := false }).startStages n 2

def lossOfSignal (s : State) (n : Nat) : State :=
  if s.linkState n = 2 || s.linkState n = 3 || s.linkState n = 4 then s.goDown n Dc.los else s

/-- A tap of LAN_EQ as a number. -/
def tapVal (x : Nat) : Int := if x < 32 then x else (x : Int) - 64
def tapBits (x : Int) : Nat := (x % 64).toNat

/-- A preset in force on transmit lane t (R293): entry k of the lane preset table. False: the table has none. -/
def usePreset (s : State) (n t k : Nat) : Bool × State :=
  match s.tab.lanePreset[k]? with
  | some [a, b, c, m] =>
    let i := n * 8 + t
    (true, ((((s.wr F.lanEq_preset i k).wr F.lanEq_pre2 i (tapBits a)).wr F.lanEq_pre1 i (tapBits b)).wr F.lanEq_post1 i (tapBits c)).wr
      F.lanEq_main i m.toNat)
  | _ => (false, s)

/-- TRAINING from stage 1, every transmit lane at entry 0 of the port's preset list (Table 13-4); DOWN while the die's lane reference is
lost (R405). -/
def startTraining (s : State) (n : Nat) : State :=
  if s.pwr.lanesLost.contains (portDie n) then s.setLinkState n 5 else
  let first := ((s.tab.portLists[n]?).bind List.head?).getD 0
  (List.range 8).foldl (fun s t => (s.usePreset n t first).2) ((s.setLinkState n 1).startStages n 1)

def downHold (s : State) (n : Nat) : State := if s.linkState n = 5 && s.flag F.lnkCtrl_enable n then s.startTraining n else s

/-- LNK_CTRL has been written: ENABLE and RETRAIN act (Table 12-4a). -/
def linkCommand (s : State) (n : Nat) (retrain : Bool) : State :=
  if s.flag F.lnkCtrl_enable n then
    if s.linkState n = 0 then s.startTraining n
    else if retrain && s.linkState n = 3 then s.enterRetrain n
    else s
  else if s.linkState n = 0 then s
  else if s.linkState n = 5 then s.setLinkState n 0
  else (s.goDown n Dc.command).setLinkState n 0

end State

/-- DATA_FLIT (R264). -/
def execDataFlit (n : Port) (f : Flit) (s : State) : Host.Outcome State Fault Refusal := .next (s.flitIn n.val fun s => s.dataFlit n.val f).settle
/-- IDLE_FLIT (R264). -/
def execIdleFlit (n : Port) (f : Flit) (s : State) : Host.Outcome State Fault Refusal := .next (s.flitIn n.val fun s => s.idleFlit n.val f).settle
/-- NAK_FLIT (R266). -/
def execNakFlit (n : Port) (f : Flit) (bufferEcc : Ecc) (s : State) : Host.Outcome State Fault Refusal :=
  .next (s.flitIn n.val fun s => s.nakFlit n.val f bufferEcc).settle
/-- INIT_FLIT (R274). -/
def execInitFlit (n : Port) (b : InitBody) (s : State) : Host.Outcome State Fault Refusal := .next (s.flitIn n.val fun s => s.initFlit n.val b).settle
/-- FLIT_TRANSMIT (R265). -/
def execFlitTransmit (n : Port) (s : State) : Host.Outcome State Fault Refusal := .next (s.transmit n.val).settle
/-- RX_BUFFER_RELEASE (R268, R272). -/
def execRxBufferRelease (n : Port) (b : Fin 20) (e : RxErr) (s : State) : Host.Outcome State Fault Refusal := .next (s.rxRelease n.val b.val e).settle
/-- IDLE_ACK_EXPIRY (R264, R265). -/
def execIdleAckExpiry (n : Port) (s : State) : Host.Outcome State Fault Refusal := .next (s.idleAck n.val).settle
/-- ACK_TIMEOUT_EXPIRY (R266). -/
def execAckTimeoutExpiry (n : Port) (bufferEcc : Ecc) (s : State) : Host.Outcome State Fault Refusal := .next (s.ackTimeout n.val bufferEcc).settle
/-- CRD_TIMEOUT_EXPIRY (R271). -/
def execCrdTimeoutExpiry (n : Port) (b : Fin 20) (s : State) : Host.Outcome State Fault Refusal := .next (s.crdTimeout n.val b.val).settle
/-- INIT_RESEND (R274). -/
def execInitResend (n : Port) (s : State) : Host.Outcome State Fault Refusal := .next (if s.exchanging n.val then s.sendInit n.val else s).settle
/-- INIT_TIMEOUT_EXPIRY (R273). -/
def execInitTimeoutExpiry (n : Port) (s : State) : Host.Outcome State Fault Refusal := .next (s.initTimeout n.val).settle
/-- RETRAIN_TIMEOUT_EXPIRY (R273). -/
def execRetrainTimeoutExpiry (n : Port) (s : State) : Host.Outcome State Fault Refusal := .next (s.retrainTimeout n.val).settle
/-- LOSS_OF_SIGNAL (R273). -/
def execLossOfSignal (n : Port) (s : State) : Host.Outcome State Fault Refusal := .next (s.lossOfSignal n.val).settle
/-- DOWN_HOLD_EXPIRY (R273). -/
def execDownHoldExpiry (n : Port) (s : State) : Host.Outcome State Fault Refusal := .next (s.downHold n.val).settle
/-- FAILED_CRC_FLIT (R264). -/
def execFailedCrcFlit (n : Port) (tagFailed : Bool) (s : State) : Host.Outcome State Fault Refusal := .next ((s.takeFront n.val).2.badFlit n.val tagFailed).settle
/-- RESERVED_TYPE_FLIT (R275). -/
def execReservedTypeFlit (n : Port) (f : Flit) (s : State) : Host.Outcome State Fault Refusal :=
  .next (s.flitIn n.val fun s =>
    if s.linkState n.val = 3 && !(f.type == 1 || f.type == 2 || f.type == 3 || f.type == 4) then s.protocolError n.val else s).settle

end Sys2Proof.Machine
end

