-- ==== Sys2Proof/Machine/Lanes.lean ====
section
/-! DEFINITION. Lanes (chapter 13): bring-up, equaliser requests, FEC and block lock, electrical idle, health, tests. -/

namespace Sys2Proof.Machine

namespace State

def getLanes (s : State) (n : Nat) : PortLanes := s.lane.lookD n {}
def uLanes (s : State) (n : Nat) (f : PortLanes → PortLanes) : State := { s with lane := s.lane.putC {} n (f (s.getLanes n)) }

def laneBit (l : Nat) : BitVec 8 := 1#8 <<< l
def laneIn (m : BitVec 8) (l : Nat) : Bool := m.getLsbD l
def laneCount (m : BitVec 8) : Nat := ((List.range 8).filter m.getLsbD).length
def subset (a b : BitVec 8) : Bool := a &&& ~~~b == 0

def laneStage (s : State) (n : Nat) : Nat := s.rd F.lanStatus_stage n
def retiredLanes (s : State) (n : Nat) : BitVec 8 := BitVec.ofNat 8 (s.rd F.lanStatus_retired n)
def detected (s : State) (n : Nat) : BitVec 8 := BitVec.ofNat 8 (s.rd F.lanStatus_detected n)

/-- Lanes that this bring-up may still use. -/
def usable (s : State) (n : Nat) : BitVec 8 := s.detected n &&& ~~~(s.retiredLanes n) &&& ~~~(s.getLanes n).dead

/-! ### Bring-up (R287 to R293) -/

/-- A stage fails: in TRAINING every lane returns to stage 1; in RETRAIN its timeout decides (R287). -/
def stageFails (s : State) (n : Nat) : State :=
  if s.linkState n = 1 then (s.bump F.lanStatus_trainFails n).startTraining n else s

/-- Stage 1 (Table 13-4). -/
def electrical (s : State) (n : Nat) (seen : BitVec 8) (timedOut : Bool) : State :=
  if s.laneStage n ≠ 1 then s
  else
    let s := s.wr F.lanStatus_detected n seen.toNat
    let want := ~~~(s.retiredLanes n)
    if subset want seen || (timedOut && decide (2 ≤ laneCount seen)) then s.setStage n 2
    else if timedOut then s.stageFails n else s

/-- Stage 2 ends when every detected lane is locked; lanes that fail it are unusable. -/
def clockLock (s : State) (n : Nat) (locked failed : BitVec 8) : State :=
  if s.laneStage n ≠ 2 then s
  else
    let s := s.wr F.lanStatus_detected n (s.detected n ||| locked).toNat
    let s := s.uLanes n fun l => { l with locked := l.locked ||| (locked &&& ~~~failed), dead := l.dead ||| failed }
    if s.usable n ≠ 0 && subset (s.usable n) (s.getLanes n).locked then s.setStage n 3 else s

/-- Stage 3 on a lane (R288). -/
def blockLock (s : State) (n l : Nat) (inv : Option Bool) : State :=
  if s.laneStage n ≠ 3 || !laneIn (s.usable n) l then s
  else
    let b := laneBit l
    let s := s.uLanes n fun x => match inv with
      | none => { x with dead := x.dead ||| b }
      | some i => { x with blocked := x.blocked ||| b, provisional := if i then x.provisional ||| b else x.provisional &&& ~~~b }
    if s.usable n ≠ 0 && subset (s.usable n) (s.getLanes n).blocked then s.setStage n 4 else s

/-- Stage 4 on a lane (R289). -/
def polarity (s : State) (n l : Nat) (type : Byte) : State :=
  if s.laneStage n ≠ 4 || !laneIn (s.usable n) l then s
  else
    let b := laneBit l
    let inv := laneIn (s.getLanes n).provisional l
    if (type == 0x1E && inv) || (type == 0x4B && !inv) then
      let old := BitVec.ofNat 8 (s.rd F.lanStatus_inverted n)
      let s := s.wr F.lanStatus_inverted n (if inv then old ||| b else old &&& ~~~b).toNat
      let s := s.uLanes n fun x => { x with fixed := x.fixed ||| b }
      if subset (s.usable n) (s.getLanes n).fixed then s.setStage n 5 else s
    else (s.uLanes n fun x => { x with blocked := x.blocked &&& ~~~b, fixed := x.fixed &&& ~~~b }).setStage n 3

/-- Lane sets by width, in order of preference (R290). -/
def laneSets : List (Nat × List (BitVec 8)) :=
  [(3, [0xFF]), (2, [0x0F, 0xF0]), (1, [0x03, 0x0C, 0x30, 0xC0])]

/-- The sets in use: width code, receive set, transmit set. -/
def chooseSets (own far : BitVec 8) : Option (Nat × BitVec 8 × BitVec 8) :=
  laneSets.findSome? fun w =>
    match w.2.find? fun m => subset m own, w.2.find? fun m => subset m far with
    | some r, some t => some (w.1, r, t)
    | _, _ => none

/-- Index of a set in the order of R290. -/
def setIndex (m : BitVec 8) : Nat := ([0xFF, 0x0F, 0xF0, 0x03, 0x0C, 0x30, 0xC0] : List (BitVec 8)).findIdx (· == m)

/-- Stage 5 (R290): `lanes` gives LANE as each physical lane reads it, `far` the far mask. -/
def mapLanes (s : State) (n : Nat) (lanes : List (Option (Fin 8))) (far : BitVec 8) : State :=
  if s.laneStage n ≠ 5 then s
  else
    let use := (List.range 8).filter fun p => laneIn (s.usable n) p
    let fits (f : Nat → Nat) : List Nat := use.filter fun p => (lanes.getD p none).map (·.val) == some (f p)
    let ident := fits fun p => p
    let rev := fits fun p => 7 - p
    let reversed := decide (ident.length < rev.length)
    let good := if reversed then rev else ident
    let gone := (use.filter fun p => !good.contains p).foldl (fun m p => m ||| laneBit p) 0
    let rxok := good.foldl (fun m p => m ||| laneBit (if reversed then 7 - p else p)) 0
    let s := (s.wrB F.lanStatus_reversed n reversed).wr F.lanStatus_farRxok n far.toNat
    let s := s.uLanes n fun x => { x with dead := x.dead ||| gone, rxok := rxok }
    match chooseSets rxok far with
    | none => s.stageFails n
    | some (w, r, t) =>
      let narrower := s.linkState n == 4 && decide (w < s.rd F.lnkStatus_width n)
      let s := (s.wr F.lnkStatus_width n w).wr F.lanStatus_set n (setIndex r)
      let s := (s.uLanes n fun x => { x with rxSet := r, txSet := t }).setStage n 6
      if narrower then s.pathLost n else s

/-- Stage 6 (R291). -/
def deskewed (s : State) (n : Nat) (ok : Bool) : State :=
  if s.laneStage n ≠ 6 then s else if ok then s.setStage n 7 else s.stageFails n

/-- Stage 7 (R292). -/
def fecLocked (s : State) (n : Nat) : State := if s.laneStage n = 7 then s.setStage n 8 else s

/-- Stage 8 ends: the waiting eye runs begin, and the link initialises (R293, R298). -/
def equalised (s : State) (n : Nat) : State :=
  if s.laneStage n ≠ 8 then s
  else (s.uLanes n fun x => { x with eyes := x.eyes ++ x.margins, margins := [] }).enterInit n

/-- A stage's timeout in TRAINING (R287). -/
def stageTimeout (s : State) (n : Nat) : State :=
  let st := s.laneStage n
  if s.linkState n ≠ 1 || st = 0 || st = 9 then s
  else if st = 1 && decide (2 ≤ laneCount (s.detected n)) then s.setStage n 2
  else s.stageFails n

/-- A tap step on transmit lane t (R293): the sum rule is kept by main. False: refused. -/
def stepTap (s : State) (n t tap : Nat) (down : Bool) : Bool × State :=
  let i := n * 8 + t
  let f := if tap = 1 then F.lanEq_pre2 else if tap = 2 then F.lanEq_pre1 else F.lanEq_post1
  let v := tapVal (s.rd f i) + if down then -1 else 1
  let s' := s.wr f i (tapBits v)
  let sum := (tapVal (s'.rd F.lanEq_pre2 i)).natAbs + (tapVal (s'.rd F.lanEq_pre1 i)).natAbs + (tapVal (s'.rd F.lanEq_post1 i)).natAbs
  if v < -31 || 31 < v || 32 < sum then (false, s)
  else (true, (s'.wr F.lanEq_main i (64 - sum)).wr F.lanEq_preset i 15)

/-- A TRAIN block on physical lane l (Table 13-3, R290, R292, R293). -/
def trainBlock (s : State) (n l : Nat) (p : DWord) : State :=
  let f (lo w : Nat) : Nat := p.toNat / 2 ^ lo % 2 ^ w
  if f 0 8 ≠ 0x4B || f 56 8 ≠ 0xA5 || s.laneStage n = 0 then s
  else
    let t := f 8 3
    let s := s.wr F.lanStatus_farRxok n (f 15 8)
    let s := s.uLanes n fun x => { x with farStage := x.farStage.put l (f 11 4) }
    let x := s.getLanes n
    let start := !x.framing && x.txSet != 0 && (List.range 8).all fun k => !laneIn x.rxSet k || decide (6 ≤ x.farStage.lookD k 0)
    let s := if start then (s.uLanes n fun x => { x with framing := true }).uLink n fun p => { p with wire := { p.wire with row := [] } } else s
    let toggle := f 30 1 == 1
    if (f 23 4 = 15 && f 27 2 = 0) || x.reqT.lookD t false == toggle then s
    else
      let r := if f 23 4 ≠ 15 then s.usePreset n t (f 23 4) else s.stepTap n t (f 27 2) (f 29 1 == 1)
      r.2.uLanes n fun x => { x with reqT := x.reqT.put t toggle, ack := x.ack.put t (if r.1 then 1 else 2) }

/-! ### Frames (R285, R288, R291, R292) -/

/-- Ones of a word. -/
def ones (w : BitVec 64) : Nat := ((List.range 64).filter w.getLsbD).length

/-- Whether, as the 40 headers of a frame shift in, any 64 in a row hold 16 invalid ones. -/
def badRun (h : BitVec 64) (bad : BitVec 40) : Nat → Bool × BitVec 64
  | 0 => (false, h)
  | k + 1 =>
    let r := badRun h bad k
    let h' := (r.2 <<< 1) ||| (if bad.getLsbD k then 1 else 0)
    (r.1 || decide (16 ≤ ones h'), h')

/-- The physical lane that carries a far transmit lane. -/
def physLane (s : State) (n t : Nat) : Nat := if s.flag F.lanStatus_reversed n then 7 - t else t

/-- Physical lanes of the receive set, in rising far transmit lane (R283). -/
def takeLanes (s : State) (n : Nat) : List Nat := ((List.range 8).filter fun t => laneIn (s.getLanes n).rxSet t).map (s.physLane n)

/-- Bits of a frame of physical lane l from its symbols: the first bit of every pair flips on an inverted lane (R280, R289). -/
def frameBits (s : State) (n l : Nat) (symbols : List Level) : BitVec 2800 :=
  bitsOf (if s.rd F.lanStatus_inverted n / 2 ^ l % 2 = 1 then symbols.map mirror else symbols)

/-- Blocks of a frame that have an invalid header, bit k for block k. -/
def badBlocks (f : BitVec 2640) : BitVec 40 :=
  (List.range 40).foldl (fun (m : BitVec 40) k => if (blockAt f k).bad then m ||| (1#40 <<< k) else m) 0

/-- A frame of lane l as decoded: `drift` says that its boundary is off by more than 4 unit intervals. -/
def frameIn (s : State) (n l corrected : Nat) (f : RxFrame) (drift : Bool) : State :=
  if s.linkState n ≠ 3 && s.laneStage n < 7 then s
  else
    let i := n * 8 + l
    let uncorr := f.marked
    let bad := badBlocks f.message
    let s := s.uLink n fun p => { p with wire := p.wire.deliver (s.takeLanes n) l f }
    let s := if uncorr then s.bump F.lanFec_uncorr i else s.bump F.lanFec_corrected i corrected
    let s := s.wr F.lanStatus_rxEi n 0
    let x := s.getLanes n
    let fr := (x.frames.lookD l 0 <<< 1) ||| (if uncorr then 1 else 0)
    let (lost, hd) := badRun (x.headers.lookD l 0) bad 40
    let lost := lost || decide (8 ≤ ones fr)
    let active := s.linkState n == 3
    let w := x.wins.lookD l {}
    let w : LaneWin := if active then { uncorr := w.uncorr + uncorr.toNat, corr := w.corr + (if uncorr then 0 else corrected), locks := w.locks + lost.toNat } else w
    let s := s.uLanes n fun x => { x with frames := x.frames.put l fr, headers := x.headers.put l hd, wins := x.wins.putC {} l w }
    let s := if lost then s.bump F.lanFec_lockloss i else s
    if active && (lost || drift) then s.enterRetrain n else s

/-- A frame of lane l arrives (R285): an uncorrectable one is delivered unchanged and marked. -/
def fecFrame (s : State) (n l : Nat) (symbols : List Level) (drift : Bool) : State :=
  let b := s.frameBits n l symbols
  match fecDecode b with
  | some (k, c) => s.frameIn n l k { message := c.setWidth 2640 } drift
  | none => s.frameIn n l 0 { message := b.setWidth 2640, marked := true } drift

/-! ### Electrical idle (R294, R295) -/

/-- The transmitter has something to send. -/
def txReady (s : State) (n : Nat) : Bool :=
  let p := s.getLink n
  !p.txq.isEmpty || p.cur.isSome || p.resend.isSome || p.nakQueued || p.ackNew || !p.changed.isEmpty

def eiIdle (s : State) (n : Nat) : State :=
  if s.linkState n = 3 && s.flag F.lanCtrl_eiEn n && !s.txReady n then
    (s.uLink n fun p => { p with wire := p.wire.enterIdle (s.sendLanes n) }).wr F.lanStatus_txEi n 1 else s

def eiEnter (s : State) (n : Nat) : State := if s.linkState n = 3 then s.wr F.lanStatus_rxEi n 1 else s

/-- An announced idle passes its limit: the signal counts as lost (R294). -/
def idleLimit (s : State) (n : Nat) : State :=
  if s.flag F.lanStatus_rxEi n then (s.wr F.lanStatus_rxEi n 0).wr F.lanStatus_detected n 0 else s

def eiExit (s : State) (n : Nat) : State := if s.flag F.lanStatus_txEi n && s.txReady n then s.wr F.lanStatus_txEi n 0 else s

/-! ### Health (R296) -/

/-- The trigger that a lane's window reaches: 1 uncorrectable, 2 corrected, 3 lock. -/
def laneTrigger (s : State) (n : Nat) (w : LaneWin) : Option Nat :=
  if s.rd F.lanCtrl_uncLimit n ≤ w.uncorr then some 1
  else if 2 ^ s.rd F.lanCtrl_corrLog2 n ≤ w.corr then some 2
  else if s.rd F.lanCtrl_lockLimit n ≤ w.locks then some 3 else none

/-- Retire a receive lane. -/
def retireLane (s : State) (n l why : Nat) : State :=
  let s := s.wr F.lanStatus_retired n (s.rd F.lanStatus_retired n ||| 2 ^ l)
  (s.raise { type := 0x0501, sev := 1, arg := [BitVec.ofNat 8 n, BitVec.ofNat 8 l, BitVec.ofNat 8 why] }).histAdd 13 (n * 8 + l) 0 1

/-- A health window closes on the lanes of the set in use. -/
def healthWindow (s : State) (n : Nat) : State :=
  let x := s.getLanes n
  let hit := (s.takeLanes n).filterMap fun l => if laneIn (s.retiredLanes n) l then none else (s.laneTrigger n (x.wins.lookD l {})).map fun w => (l, w)
  let s := hit.foldl (fun s h => s.retireLane n h.1 h.2) s
  let s := s.uLanes n fun x => { x with wins := [] }
  if hit.isEmpty || s.linkState n ≠ 3 then s else s.enterRetrain n

/-- UNRETIRE: lanes return at the next bring-up. -/
def unretire (s : State) (n mask : Nat) : State :=
  s.uLanes n fun x => { x with returning := x.returning ||| BitVec.ofNat 8 mask }

/-! ### Tests (R297, R298) -/

/-- The checker synchronises itself, and counts the errors that follow. -/
def prbsSync (s : State) (n l errors : Nat) : State :=
  let i := n * 8 + l
  if s.rd F.lanTest_rxPat i = 0 || s.flag F.lnkCtrl_enable n then s
  else (s.wr F.lanTest_sync i 1).bump F.lanTest_errors i errors

/-- LAN_EYE GO: a run starts, or waits while stage 8 adapts. -/
def eyeGo (s : State) (n l : Nat) : State :=
  let s := (s.wr F.lanEye_done (n * 8 + l) 0).wr F.lanEye_mismatch (n * 8 + l) 0
  s.uLanes n fun x =>
    if x.eyes.contains l || x.margins.contains l then x
    else if s.laneStage n = 8 then { x with margins := x.margins ++ [l] } else { x with eyes := x.eyes ++ [l] }

def eyeDone (s : State) (n l mismatch : Nat) : State :=
  if (s.getLanes n).eyes.contains l then
    ((s.uLanes n fun x => { x with eyes := x.eyes.erase l }).wr F.lanEye_mismatch (n * 8 + l) mismatch).wr F.lanEye_done (n * 8 + l) 1
  else s

end State

/-- ELECTRICAL_DETECT (R287). -/
def execElectricalDetect (n : Port) (detected : Byte) (timedOut : Bool) (s : State) : Host.Outcome State Fault Refusal :=
  .next (s.electrical n.val detected timedOut).settle
/-- CLOCK_RECOVERY_LOCK (R287). -/
def execClockRecoveryLock (n : Port) (locked failed : Byte) (s : State) : Host.Outcome State Fault Refusal :=
  .next (s.clockLock n.val locked failed).settle
/-- BLOCK_LOCK (R288). -/
def execBlockLock (n : Port) (l : Lane) (inverted : Option Bool) (s : State) : Host.Outcome State Fault Refusal :=
  .next (s.blockLock n.val l.val inverted).settle
/-- POLARITY_DETECT (R289). -/
def execPolarityDetect (n : Port) (l : Lane) (typeByte : Byte) (s : State) : Host.Outcome State Fault Refusal :=
  .next (s.polarity n.val l.val typeByte).settle
/-- LANE_MAPPING (R290). -/
def execLaneMapping (n : Port) (lanes : List (Option (Fin 8))) (farOk : Byte) (s : State) : Host.Outcome State Fault Refusal :=
  .next (s.mapLanes n.val lanes farOk).settle
/-- DESKEW (R291). -/
def execDeskew (n : Port) (skewOk : Bool) (s : State) : Host.Outcome State Fault Refusal := .next (s.deskewed n.val skewOk).settle
/-- FEC_LOCK (R292). -/
def execFecLock (n : Port) (s : State) : Host.Outcome State Fault Refusal := .next (s.fecLocked n.val).settle
/-- EQUALISATION (R293). -/
def execEqualisation (n : Port) (s : State) : Host.Outcome State Fault Refusal := .next (s.equalised n.val).settle
/-- STAGE_TIMEOUT (R287). -/
def execStageTimeout (n : Port) (s : State) : Host.Outcome State Fault Refusal := .next (s.stageTimeout n.val).settle
/-- TRAIN_BLOCK (R286, R293). -/
def execTrainBlock (n : Port) (l : Lane) (payload : DWord) (s : State) : Host.Outcome State Fault Refusal :=
  .next (s.trainBlock n.val l.val payload).settle
/-- FEC_FRAME (R285). -/
def execFecFrame (n : Port) (l : Lane) (symbols : List Level) (drift : Bool) (s : State) : Host.Outcome State Fault Refusal :=
  .next (s.fecFrame n.val l.val symbols drift).settle
/-- EI_IDLE_EXPIRY (R294). -/
def execEiIdleExpiry (n : Port) (s : State) : Host.Outcome State Fault Refusal := .next (s.eiIdle n.val).settle
/-- EI_ENTER (R294). -/
def execEiEnter (n : Port) (s : State) : Host.Outcome State Fault Refusal := .next (s.eiEnter n.val).settle
/-- ANNOUNCED_IDLE_LIMIT (R294). -/
def execAnnouncedIdleLimit (n : Port) (s : State) : Host.Outcome State Fault Refusal := .next (s.idleLimit n.val).settle
/-- EI_EXIT (R295). -/
def execEiExit (n : Port) (s : State) : Host.Outcome State Fault Refusal := .next (s.eiExit n.val).settle
/-- LANE_HEALTH_WINDOW (R296). -/
def execLaneHealthWindow (n : Port) (s : State) : Host.Outcome State Fault Refusal := .next (s.healthWindow n.val).settle
/-- EYE_MARGIN_DONE (R298). -/
def execEyeMarginDone (n : Port) (l : Lane) (mismatch : Word) (s : State) : Host.Outcome State Fault Refusal :=
  .next (s.eyeDone n.val l.val mismatch.toNat).settle
/-- PRBS_CHECKER_SYNC (R297). -/
def execPrbsCheckerSync (n : Port) (l : Lane) (errors : Word) (s : State) : Host.Outcome State Fault Refusal :=
  .next (s.prbsSync n.val l.val errors.toNat).settle

end Sys2Proof.Machine
end

