-- ==== Sys2Proof/Machine/Periods.lean ====
section
/-! DEFINITION. Leash refills, statistics periods and the curtain (chapters 14 and 17: R303 to R310, R362 to R364). -/

namespace Sys2Proof.Machine

namespace State

/-- The listed instances of a register with their values. -/
def instances (s : State) (r : Reg) : List (Nat × BitVec 128) :=
  (s.regs.filter fun e => e.1 / 32768 == r.code).map fun e => (e.1 % 32768, e.2)

/-- Every instance of a register takes its reset value. -/
def clearReg (s : State) (r : Reg) : State := { s with regs := s.regs.filter fun e => e.1 / 32768 != r.code }

/-! ### Refill (R303, R305) -/

/-- The bucket settings that the registers hold. -/
def leashCfgs (s : State) : SMap LeashCfg :=
  ((s.instances .qosLeash).filterMap fun e =>
    if bits e.2 28 1 = 1 then
      some (e.1, { port := bits e.2 22 6, src := BitVec.ofNat 20 (bits e.2 0 20), cls := bits e.2 20 2, rate := bits e.2 32 12, burst := bits e.2 48 16 })
    else none) ++
  ((s.instances .qosCatch).filterMap fun e =>
    if bits e.2 0 1 = 1 then some (256 + e.1, { port := e.1, rate := bits e.2 32 12, burst := bits e.2 48 16 }) else none)

/-- Bytes of a bucket's BURST. -/
def burstBytes (c : LeashCfg) : Nat := c.burst * 128

/-- Bytes that a refill tick adds: RATE in 0.1 GB/s, the tick in 0.1 µs. -/
def refillBytes (s : State) (c : LeashCfg) : Nat := c.rate * s.qos.refill * 10

/-- The refill tick: written settings take effect, a new entry starts full, waiting requests are admitted in order. -/
def leashRefill (s : State) : State :=
  let new := s.leashCfgs
  let tokens := new.map fun e => (e.1, match s.qos.cfg.look e.1 with
    | some o =>
      if o.port = e.2.port && o.src = e.2.src && o.cls = e.2.cls then min (s.qos.tokens.lookD e.1 0 + s.refillBytes e.2) (burstBytes e.2)
      else burstBytes e.2
    | none => burstBytes e.2)
  let s := s.uQos fun v => { v with cfg := new, tokens := tokens }
  (s.qos.queue.map (·.1)).foldl drainLeash s

/-! ### The curtain (R362 to R364) -/

/-- The registers with wings and the instances that have them (Table 17-7). -/
def wingRegs : List (Reg × Nat) :=
  ((List.range 48).map fun i => (Reg.engFmt, 16 + i)) ++
  ((List.range 7).map fun k => (Reg.qosBarkQ, k + 1)) ++
  ((List.range 7).map fun k => (Reg.qosBarkU, k + 1)) ++ [(.qosCtrl, 0), (.rteBank, 0)]

/-- Rank and side of a register's units: homes 0, internal agents 1, ports 2 (Tables 17-7, 17-8). -/
def wingUnits : Reg → List (Nat × Bool)
  | .engFmt => [(1, false)]
  | .qosBarkQ => [(0, false)]
  | .qosBarkU => [(2, true)]
  | .qosCtrl => [(2, true)]
  | .rteBank => [(1, false), (2, true)]
  | _ => []

/-- The cue: the wings as they stand are what this curtain commits. -/
def curtainCue (s : State) : State :=
  let num := (s.rd F.cfgCurtain_num + 1) % 65536
  let s := (((s.dirty 0).wr F.cfgCurtain_req 0 0).wr F.cfgCurtain_num 0 num).raise { type := 0x1601, sev := 0, arg := leBytes num 2 }
  s.uQos fun v => { v with
    cue := wingRegs.foldl (fun m w => m.put (w.1.key w.2) (s.reg w.1 w.2)) []
    left := [(0, 0), (0, 1), (0, 2), (0, 3), (1, 0), (1, 1), (1, 2), (1, 3), (2, 0), (2, 1), (2, 2), (2, 3)] }

/-- Leashed mode is entered or left at the ports of a die (R300). -/
def modeChange (s : State) (d : Nat) (was : Bool) : State :=
  let now := s.leashed (16 * d)
  if was = now then s
  else if now then
    s.uQos fun v => { v with tokens := v.tokens.map fun (t : Nat × Nat) => match v.cfg.look t.1 with
      | some c => (t.1, if portDie c.port = d then burstBytes c else t.2)
      | none => t }
  else ((List.range 16).map (16 * d + ·)).foldl drainLeash s

/-- Units of rank r on die d commit their wings fields (R364); the LIVE fields follow the last port agents (R362). -/
def curtainCommit (s : State) (r d : Nat) : State :=
  if !s.qos.left.contains (r, d) || s.qos.left.any fun u => u.1 < r then s
  else
    let was := s.leashed (16 * d)
    let mine := wingRegs.flatMap fun w => (wingUnits w.1).filterMap fun u => if u.1 = r then some (w, u.2) else none
    let new (w : (Reg × Nat) × Bool) : BitVec 128 := s.qos.cue.lookD (w.1.1.key w.1.2) (s.stageReg w.1.1 w.1.2 d w.2)
    let changed := mine.any fun w => new w != s.stageReg w.1.1 w.1.2 d w.2
    let s' := mine.foldl (fun t w => t.putStage w.1.1 w.1.2 d w.2 (new w)) s
    let s' := s'.uQos fun v => { v with left := v.left.erase (r, d) }
    let s' := if changed then s'.dirty d else s'
    let s' := if s'.qos.left.any fun u => u.1 == 2 then s'
      else (s'.wr F.rteBank_injLive 0 (s'.stg F.rteBank_inj 0 d true)).wr F.qosCtrl_modeLive 0 (s'.stg F.qosCtrl_mode 0 d true)
    if r = 2 then s'.modeChange d was else s'

/-! ### Statistics periods (R309, R310) -/

/-- The latched register of a counter, saturating. -/
def latch (s : State) (f : Fld) (m : SMap Nat) : State := m.foldl (fun s e => s.wr f e.1 (min e.2 (2 ^ f.width - 1))) s

/-- A statistics period ends. -/
def periodTick (s : State) : State :=
  let v := s.qos
  let s := ((((s.clearReg .qosLstat).clearReg .qosBarkCnt).clearReg .qosHist).clearReg .colPstat)
  let s := (((s.latch F.qosLstat_bytes v.bytes).latch F.qosLstat_waits v.waits).latch F.qosBarkCnt_count v.barks).latch F.qosHist_count v.hist
  let s := (s.latch F.colPstat_inLines s.col.inLines).latch F.colPstat_outLines s.col.outLines
  let s := s.uQos fun v => { v with bytes := [], waits := [], barks := [], hist := [] }
  let s := s.uCol fun c => { c with inLines := [], outLines := [] }
  let s := s.wr F.staPeriod_num 0 ((s.rd F.staPeriod_num + 1) % 2 ^ 32)
  let s := if s.flag F.cfgCurtain_req then s.curtainCue else s
  let done := s.qos.period
  let s := s.uQos fun v => { v with period := s.rd F.staCtrl_period, refill := s.rd F.qosCtrl_refill }
  let s := { s with deadTags := (s.deadTags.filter fun (e : Nat × Nat) => done < e.2).map fun (e : Nat × Nat) => (e.1, e.2 - done) }
  (s.uMem fun m => { m with moved := [], hotSent := [] }).tryWaits

end State

/-- LEASH_REFILL (R303). -/
def execLeashRefill (s : State) : Host.Outcome State Fault Refusal := .next s.leashRefill.settle
/-- STATS_PERIOD_TICK (R309). -/
def execStatsPeriodTick (s : State) : Host.Outcome State Fault Refusal := .next s.periodTick.settle
/-- CURTAIN_COMMIT (R364). -/
def execCurtainCommit (r : Fin 3) (d : Die) (s : State) : Host.Outcome State Fault Refusal := .next (s.curtainCommit r.val d.val).settle

end Sys2Proof.Machine
end

