-- ==== Sys2Proof/Machine/Responses.lean ====
section
/-! DEFINITION. Responses to the node's own requesters, their retries and time-outs (R92, R151, R170, R195, R224, R234, R248). -/

namespace Sys2Proof.Machine

namespace State

/-- What a response brings: status, detail, data with its poison, TXID. -/
structure Answer where
  status : Nat
  detail : Nat := 0
  data : LineData := 0
  poison : Bool := false
  txid : BitVec 32 := 0
  deriving DecidableEq, Repr

/-- The answer that a response packet carries (R429). -/
def answerOf (q : Packet) : Answer :=
  ⟨takenStatus q.status.toNat, q.detail.toNat, q.data, q.poison || q.status.toNat == St.poison, q.txid⟩

/-- The effect of a performed request on its context; `more` says that another piece of the same FP6 load is outstanding. A poisoned line
counts once it is stored: at once, or, staged in a transaction, at its commit (R145). -/
def ctxEffect (x : Context) (o : Out) (a : Answer) (more : Bool) : Context :=
  match o.why with
  | .atom r b wide => sPut x r (BitVec.ofNat 64 (lineBits a.data b (if wide then 64 else 32)))
  | .kcas b => if casHit x (lineBits a.data b (8 * casW x)) then { x with res0 := x.res0 + 1 } else x
  | .store =>
    if !o.pkt.poison then x
    else if o.pkt.opcode.toNat = Op.txWr then { x with tx := x.tx.map fun t => { t with spoiled := t.spoiled + 1 } }
    else { x with poisoned := x.poisoned + 1 }
  | why => loadEffect x why a.data a.poison more

/-- A request of a context inside its transaction. -/
def isTxReq (o : Out) : Bool :=
  let op := o.pkt.opcode.toNat
  op == Op.txRd || op == Op.txWr || op == Op.txAtomic

/-- A context's transaction is the one a request belongs to. -/
def ownTx (x : Context) (o : Out) : Bool := (x.tx.bind (·.txid)) == some o.pkt.txid

/-- A context's transaction is committed: its staged poisoned lines are stored (R145). -/
def txDone (x : Context) : Context := { x with poisoned := x.poisoned + ((x.tx.map (·.spoiled)).getD 0) }

/-- The transaction of a context has aborted with a cause (R170). -/
def txLost (x : Context) (cause : Nat) : Context :=
  { x with tx := x.tx.map fun t => { t with cause := if t.cause.isSome then t.cause else some cause } }

/-- The outcome of a context's transaction command (R158, R170). -/
def txOutcome (s : State) (n : Core) (c : Ctx) (why : OutFor) (a : Answer) : State :=
  let upd (f : Context → Context) : State := s.updCtx n.val c.val f
  match why with
  | .txOpen r =>
    if a.status = St.ok then upd fun x => sPut { x with tx := some { txid := some a.txid } } r (a.txid.setWidth 64)
    else upd fun x => sPut { x with tx := none } r (txRefusal 0 a.status)
  | .txCommit r =>
    upd fun x => sPut { (if a.status = St.ok then txDone x else x) with tx := none } r (if a.status = St.ok then 0 else txRefusal a.detail a.status)
  | .txAbort r => upd fun x => sPut { x with tx := none } r 0
  | .kopen =>
    if a.status = St.ok then upd fun x => { x with tx := some { txid := some a.txid }, stage := 2 }
    else s.stopCtx n.val c.val a.status a.detail
  | .kcommit =>
    if a.status = St.ok then upd fun x => { txDone x with stage := 6 }
    else if a.status = St.txAbort then upd fun x => { txLost x a.detail with stage := 7 }
    else s.stopCtx n.val c.val a.status a.detail
  | _ => upd fun x => { x with stage := 7 }

/-- Transaction commands. -/
def isTxCommand : OutFor → Bool
  | .txOpen _ | .txCommit _ | .txAbort _ | .kopen | .kcommit | .kabort => true
  | _ => false

/-- Whether a scalar register takes the data, where a poisoned value stops the task (R145). -/
def takesScalar : OutFor → Bool
  | .sload _ _ | .atom _ _ _ | .kcas _ => true
  | _ => false

/-- A core prefetch has been answered: its line goes into the cluster buffer, poisoned or not; one that fails is dropped (R70). One in a
transaction counts among the OK completions of OPS (R170). -/
def prefetched (s : State) (n : Core) (c : Ctx) (o : Out) (a : Answer) : State :=
  if a.status = St.ok || a.status = St.poison then
    let tx := if isTxReq o then some o.pkt.txid else none
    let s := s.bufPut n.val ⟨ctxKey n.val c.val, o.pkt.addr.toNat / 128, tx, a.data, a.poison⟩
    s.updCtx n.val c.val fun x =>
      if isTxReq o && a.status = St.ok && ownTx x o then { x with tx := x.tx.map fun t => { t with ok := t.ok + 1 } } else x
  else s

/-- A context's request has completed (R195). -/
def ctxAnswered (s : State) (n : Core) (c : Ctx) (o : Out) (a : Answer) : State :=
  let (n', c') := (n.val, c.val)
  match s.getCtx n' c' with
  | none => s
  | some x =>
    let running := match x.phase with | .stopping _ _ _ | .ended _ => false | _ => true
    let s :=
      if !running then s
      else if o.why == .prefetch then s.prefetched n c o a
      else if isTxCommand o.why then s.txOutcome n c o.why a
      else if a.status = St.ok || a.status = St.poison then
        if a.poison && takesScalar o.why then s.stopCtx n' c' St.poison 0
        else
          let more := s.moreParts n' c' o.why
          let s := s.updCtx n' c' fun x => ctxEffect x o a more
          if isTxReq o && a.status = St.ok then
            s.updCtx n' c' fun x => if ownTx x o then { x with tx := x.tx.map fun t => { t with ok := t.ok + 1 } } else x
          else s
      else if a.status = St.txAbort then s.updCtx n' c' fun x => deadEffect o.why (if ownTx x o then txLost x a.detail else x)
      else s.stopCtx n' c' a.status a.detail
    s.tidyCtx n' c'

/-- A copy engine's request has completed (Table 10-4). -/
def copyAnswered (s : State) (x : CopyEngine) (o : Out) (a : Answer) : State :=
  if a.status = St.ok || a.status = St.poison then
    match o.why with
    | .copyRead i => (s.uRun x.val fun u => { u with toWrite := u.toWrite ++ [(i, a.data, a.poison)] }).copyPump x
    | .copyWrite _ => (s.bump F.xfrStat_bytes x.val 128).copyPump x
    | _ => s
  else s.copyStop x.val a.status a.detail 0

/-- A collective unit's write at RESULT has completed (R210, Table 09-5). -/
def collAnswered (s : State) (o : Out) (a : Answer) : State :=
  match o.why with
  | .result p =>
    let s := s.resultNext (p / 16)
    if a.status = St.ok || a.status = St.poison then s.finishRun p else s.abortPlan p Pc.rights
  | _ => s

/-- The agent's local ID. -/
def requesterLocal : Requester → Nat
  | .ctx n _ => coreLocal n.val
  | .copy x => 0xD4 + copyDie x.val
  | .coll d => 0xD0 + d.val
  | .home d => 0xC0 + d.val

/-- An outstanding request has completed; it leaves the table (R234). -/
def completeOut (s : State) (k : Nat) (o : Out) (a : Answer) : State :=
  let s := { s with outs := s.outs.del k }
  match o.who with
  | .ctx n c => s.ctxAnswered n c o a
  | .copy x => s.copyAnswered x o a
  | .coll _ => s.collAnswered o a
  | .home _ => s

/-- RETRY: the request waits 1 µs, and twice as long at each further RETRY, to 16 µs (R92). -/
def backOff (s : State) (k : Nat) (o : Out) : State :=
  { s with outs := s.outs.put k { o with stalled := true, wait := if o.wait = 0 then 1 else min (2 * o.wait) 16 } }

/-- A response for one of the node's requesters; without its request it is discarded (R248). -/
def response (s : State) (q : Packet) : State :=
  let s := s.taken q
  let k := outKey (q.dest.toNat % 256) q.tag.toNat
  match s.outs.look k with
  | none => s
  | some o =>
    if q.destNode ≠ s.node || o.stalled then s
    else if q.status.toNat = St.retry then s.backOff k o
    else s.completeOut k o (answerOf q)

/-- The back-off ends: the request is issued again. -/
def reissue (s : State) (r : Requester) (tag : Nat) : State :=
  let k := outKey (requesterLocal r) tag
  match s.outs.look k with
  | none => s
  | some o =>
    let s' := { s with outs := s.outs.put k { o with stalled := false } }
    if o.stalled && o.who == r then s'.send o.die o.pkt else s

/-- CPL_TIMEOUT: NODE_LOST to a node marked lost, else TIMEOUT; the tag stays unused (R234, R248). -/
def cplTimeout (s : State) (r : Requester) (tag : Nat) : State :=
  let k := outKey (requesterLocal r) tag
  match s.outs.look k with
  | none => s
  | some o =>
    if o.who != r then s
    else
      let st := if s.isLost o.pkt.destNode then St.nodeLost else St.timeout
      let s := { s with deadTags := s.deadTags.put k (40 * s.rd F.rteCtrl_cplTimeout) }
      s.completeOut k o { status := st }

/-- TX_NOTICE: the task whose transaction has aborted learns the cause, in whichever context it runs or saved (R107, R194). -/
def txNotice (s : State) (q : Packet) : State :=
  let s := s.taken q
  if q.destNode ≠ s.node then s
  else
    let tell (x : Context) : Context := if (x.tx.bind (·.txid)) == some q.txid then txLost x q.detail.toNat else x
    s.uClu fun u => { u with ctx := u.ctx.map fun e => (e.1, tell e.2), saved := u.saved.map fun v => { v with ctx := tell v.ctx } }

end State

/-- DATA_UNC at a requester of the node (R86, R195). -/
def execDataUnc (q : Packet) (s : State) : Host.Outcome State Fault Refusal :=
  .next (s.response { q with opcode := BitVec.ofNat 8 Op.dataUnc }).settle
/-- DONE at a requester of the node. -/
def execDone (q : Packet) (s : State) : Host.Outcome State Fault Refusal := .next (s.response { q with opcode := BitVec.ofNat 8 Op.done }).settle
/-- STATUS at a requester of the node (R92, R195). -/
def execStatus (q : Packet) (s : State) : Host.Outcome State Fault Refusal :=
  .next (s.response { q with opcode := BitVec.ofNat 8 Op.status }).settle
/-- TX_OPENED at its opener (R104, R170). -/
def execTxOpened (q : Packet) (s : State) : Host.Outcome State Fault Refusal :=
  .next (s.response { q with opcode := BitVec.ofNat 8 Op.txOpened }).settle
/-- TX_NOTICE at its opener (R107). -/
def execTxNotice (q : Packet) (s : State) : Host.Outcome State Fault Refusal := .next (s.txNotice { q with opcode := BitVec.ofNat 8 Op.txNotice }).settle
/-- RETRY_BACKOFF_EXPIRY (R92). -/
def execRetryBackoffExpiry (r : Requester) (tag : BitVec 14) (s : State) : Host.Outcome State Fault Refusal := .next (s.reissue r tag.toNat).settle
/-- CPL_TIMEOUT_EXPIRY (R248). -/
def execCplTimeoutExpiry (r : Requester) (tag : BitVec 14) (s : State) : Host.Outcome State Fault Refusal := .next (s.cplTimeout r tag.toNat).settle

end Sys2Proof.Machine
end

