-- ==== Sys2Proof/Machine/Resets.lean ====
section
/-! DEFINITION. Host ports, resets and power-up: what a host port's loss, a warm or cold reset and a lost supply clear (R350, R376,
R391 to R393, R406, R407, R410). -/

namespace Sys2Proof.Machine

namespace State

def uRot (s : State) (f : Rot → Rot) : State := { s with rot := f s.rot }
def uPwr (s : State) (f : Pwr → Pwr) : State := { s with pwr := f s.pwr }

/-! ### Event queues and host ports -/

/-- ENABLE of a queue clears: 0 after a failed write, 1 with its host port (R391). -/
def evqOff (s : State) (e : Nat) : State :=
  let s := if s.flag F.mgtEvqCfg_enable e then s.dirty 0 else s
  (s.wr F.mgtEvqCfg_enable e 0).uEvt fun v => { v with
    armed := v.armed.filter (· ≠ e), waiting := v.waiting.filter (· ≠ e), quiet := v.quiet.filter (· ≠ e) }

def evqDisable (s : State) (qs : List Nat) (cause : Nat) : State :=
  qs.foldl (fun s e => s.raise { type := 0x0102, sev := 2, arg := [BitVec.ofNat 8 e, BitVec.ofNat 8 cause] }) (qs.foldl evqOff s)

/-- Index of a function's entry in SEC_FN; entry 16h keeps the secure status of a physical function, which no register shows. -/
def fnIdx (h f : Nat) : Nat := h * 16 + f

/-- A function starts in its reset state, without secure status (R322). -/
def fnReset (s : State) (h f : Nat) : State :=
  let s := { s with pci := { s.pci with bme := s.pci.bme.filter (· ≠ fnIdx h f) } }
  let s := s.wr F.secFn_secure (fnIdx h f) 0
  if f = 0 then (s.wr F.pciStatus_numVfs h 0).uRot fun r => { r with spdm := r.spdm.del h } else s

/-- Whether the secure-function list names a function (Table 17-6). -/
def listed (s : State) (h f : Nat) : Bool := s.rot.secure.getLsbD (16 * h + f)

/-- A function regains secure status when its reset completes (R322). -/
def fnSecure (s : State) (h f : Nat) : State := s.wrB F.secFn_secure (fnIdx h f) (s.listed h f)

/-- Every function of a host port. -/
def portFns (s : State) (h : Nat) (f : State → Nat → Nat → State) : State := (List.range 16).foldl (fun s k => f s h k) s

/-- A host port's link is lost (R376). -/
def hostDown (s : State) (h : Nat) : State :=
  if !s.flag F.pciStatus_linkUp h then s
  else
    let s := ((s.wr F.pciStatus_linkUp h 0).wr F.pciStatus_speed h 0).wr F.pciStatus_width h 0
    let s := (s.bump F.pciStatus_surpriseDowns h).portFns h fnReset
    s.evqDisable ((List.range 17).filter fun e => s.flag F.mgtEvqCfg_enable e && s.rd F.mgtEvqCfg_host e == h) 1

/-- A host port's link returns (R376, R322). -/
def hostUp (s : State) (h speed width : Nat) : State :=
  let st := s.rd F.pwrStatus_state
  let serves := st = 3 || st = 4 || (h = 0 && s.rd F.rotStatus_cause ≠ 0)
  if !s.flag F.pciCtrl_enable h || s.flag F.pciStatus_linkUp h || !serves then s
  else
    let s := ((s.wr F.pciStatus_linkUp h 1).wr F.pciStatus_speed h speed).wr F.pciStatus_width h width
    (s.portFns h fnReset).portFns h fnSecure

/-! ### What resets clear (R407) -/

/-- Registers of the management island, which a warm reset leaves (R392, Table 19-5), and the counts since cold reset. -/
def islandRegs : List Reg :=
  [.mgtViol, .mgtViolSrc, .mgtTrust, .mgtEvqBase, .mgtEvqCfg, .mgtEvqPtr, .mgtEvqDrop, .rotStatus, .rotMboxCmd, .rotMboxStatus,
   .rotMboxData, .rasCmd, .rasStatus, .rasHistIdx, .rasHistData, .rasVerdict, .cfgLoad, .cfgRangeErr, .cfgCurtain, .pwrCtrl, .pwrCap,
   .pwrCmd, .pwrStatus, .pwrRail]

/-- The part of a register's value that fields marked RWS and ROS keep. -/
def sticky (r : Reg) (i : Nat) (v : BitVec 128) : BitVec 128 :=
  r.fields.foldl (fun a f => if f.acc = .ros || f.acc = .rws then setBits a f.lo f.width (bits v f.lo f.width) else a) (r.reset i)

/-- What a warm reset leaves of a register. -/
def keptReg (k : Nat) (v : BitVec 128) : BitVec 128 :=
  let r := Reg.all.getD (k / 32768) .topNodeId
  if islandRegs.contains r then v else sticky r (k % 32768) v

/-- The register store after a warm reset. -/
def keptRegs (m : SMap (BitVec 128)) : SMap (BitVec 128) :=
  m.foldl (fun a e => a.putC ((Reg.all.getD (e.1 / 32768) .topNodeId).reset (e.1 % 32768)) e.1 (keptReg e.1 e.2)) []

/-- The referee of a cluster (R340): its understudy, else the active core of lowest index other than `asking`. -/
def referee (s : State) (c asking : Nat) : Option Nat :=
  let cores := (List.range 9).map (c * 9 + ·)
  match cores.find? fun n => s.rd F.rasCore_state n == 1 with
  | some n => some n
  | none => cores.find? fun n => s.rd F.rasCore_state n == 0 && n != asking

/-- RAS_CORE.REFEREE of a cluster. A core that becomes the referee is not gated (R408). -/
def refreshReferee (s : State) (c : Nat) : State :=
  let r := s.referee c 144
  let s := if (r.map s.clu.gated.contains).getD false then s.uClu fun u => { u with gated := u.gated.filter fun n => r != some n } else s
  ((List.range 9).map (c * 9 + ·)).foldl (fun s n => s.wrB F.rasCore_referee n (r == some n)) s

/-- Whether a core is in the kennel by its records (R350). -/
def kennel (s : State) (n : Nat) : Bool := s.ras.hist.any fun h => h.fenced && HistRec.core h == some n

/-- Roles of a cluster after a reset (R12, R350). -/
def clusterRoles (s : State) (c : Nat) : State :=
  let cores := (List.range 9).map (c * 9 + ·)
  let lost := cores.filter s.kennel
  let spare := c * 9 + 8
  let s := lost.foldl (fun s n => (s.wr F.corStatus_role n 2).wr F.rasCore_state n 2) s
  let s := if lost.any (· ≠ spare) && !lost.contains spare then (s.wr F.corStatus_role spare 0).wr F.rasCore_state spare 0 else s
  (cores.foldl refreshHist s).refreshReferee c

/-- Roles, kennel and retirement after a reset (R350, R352). -/
def roles (s : State) : State :=
  let s := (List.range 16).foldl clusterRoles s
  let s := s.wr F.rasStatus_fenced 0 s.fencedCores.length
  match s.ras.hist.find? (·.retired) with
  | none => s
  | some h =>
    if s.flag F.rasStatus_retired then s
    else
      let pair := (List.range 16).any fun c => decide (2 ≤ (s.fencedCores.filter fun n => clusterOf n == c).length)
      (s.wr F.rasStatus_retired 0 1).wr F.rasStatus_cause 0 (if (HistRec.core h).isNone then 2 else if pair then 1 else 3)

/-- Every unit outside the management island loses its state (Table 19-5, warm); a stopped home waits for a cold reset (R69, R84). -/
def clearUnits (s : State) : State :=
  { regs := keptRegs s.regs, pending := s.pending, free := s.free, evt := s.evt, rot := s.rot, pwr := { s.pwr with vcore := [] }
    home := { halted := s.home.halted }
    ras := { s.ras with fencing := [], fenceWait := [], testing := [], draining := [], disputes := [] } }

/-- The clock and feed inputs are what they were: no reset changes them. -/
def keepInputs (s old : State) : State :=
  let s := [0, 1, 2, 3].foldl (fun s d => ((s.wr F.clkStatus_refSys d (old.rd F.clkStatus_refSys d)).wr F.clkStatus_refLane d
    (old.rd F.clkStatus_refLane d)).wr F.clkStatus_refPci d (old.rd F.clkStatus_refPci d)) s
  (s.wr F.rasStatus_feedAOk 0 (old.rd F.rasStatus_feedAOk)).wr F.rasStatus_feedBOk 0 (old.rd F.rasStatus_feedBOk)

/-- A warm reset begins (R407): host ports first (R392), then every unit; every key is erased. -/
def warmBegin (s : State) : State :=
  let s0 := (s.hostDown 0).hostDown 1
  let s := s0.clearUnits.keepInputs s0
  let s := [0, 1, 2, 3].foldl (fun s d => s.wr F.dirStatus_halted d (s0.rd F.dirStatus_halted d)) s
  let s := s.uRot fun r => { r with spdm := r.spdm.filter fun e => e.1 ≥ 2 }
  let s := (s.wr F.cfgCurtain_req 0 0).roles
  (s.wr F.pwrStatus_state 0 1).uPwr fun p => { p with step := 0, down := false, stretch := [], restoring := [] }

/-- The sequence of a warm reset runs from step 4 of Table 19-4. -/
def warmRun (s : State) : State := s.uPwr fun p => { p with step := 4, pin := none }

/-- A cold reset begins: everything on chip is cleared; what lies in flash, the inputs and what the outside has received stay. -/
def coldBegin (s : State) : State :=
  let fresh : State := {
    pending := s.pending, free := s.free
    ras := { copies := s.ras.copies }
    rot := { flash := s.rot.flash, bound := s.rot.bound, counter := s.rot.counter, nonces := s.rot.nonces, mctp := s.rot.mctp
             answers := s.rot.answers, made := s.rot.made }
    evt := { written := s.evt.written, msix := s.evt.msix } }
  (fresh.keepInputs s).wr F.pwrStatus_state 0 1

/-- The sequence of a cold reset runs from step 1; step 1 ends at once, and the root of trust boots (Table 15-1). -/
def coldRun (s : State) : State := s.uPwr fun p => { p with step := 2, pin := none }

/-- Every main rail is off. -/
def railsOff (s : State) : State :=
  (List.range 36).foldl (fun s k => s.wr F.pwrRail_pg (k / 9 * 16 + k % 9) 0) s

/-- The main rails turn off: every unit but the management island loses its state, the host ports among them. -/
def powerOff (s : State) (state : Nat) : State :=
  let s0 := (s.hostDown 0).hostDown 1
  let s := ({ s0.clearUnits with home := {} }.keepInputs s0).railsOff
  (s.wr F.pwrStatus_state 0 state).uPwr fun p => { p with step := 0, down := false, stretch := [], restoring := [] }

/-- The node trips (R402, R405): THERMTRIP_N low, rails off, cause recorded, history to be committed. -/
def trip (s : State) (cause die page : Nat) : State :=
  if s.rd F.pwrStatus_state = 0 || s.rd F.pwrStatus_state = 5 then s
  else
    let s := s.raise { type := 0x1701, sev := 3, die := die, arg := [BitVec.ofNat 8 cause, BitVec.ofNat 8 die, BitVec.ofNat 8 page] }
    let s := (s.powerOff 5).wr F.pwrStatus_lastOff 0 cause
    (s.uRas fun r => { r with commitDue := true }).uPwr fun p => { p with thermtrip := true }

/-- POWER_STATE (Table 21-2). -/
def powerEvent (s : State) (state step : Nat) : State :=
  s.raise { type := 0x1704, sev := 0, arg := [BitVec.ofNat 8 state, BitVec.ofNat 8 step] }

/-- A PWR_CMD (R407, R410): its status, none where it is ignored because a reset or power-down is in progress. -/
def powerCommand (s : State) (op : Nat) : State :=
  if s.pwr.down || s.pwr.pin.isSome || s.rd F.pwrStatus_state ≠ 4 then s
  else
    match op with
    | 1 => (s.warmBegin.warmRun).wr F.pwrCmd_result 0 St.ok
    | 2 => s.coldBegin.coldRun
    | 3 | 4 =>
      if op = 3 && ((s.home.ext.any fun x => x.2.state != .off) || (List.range 128).any fun o => s.rd F.dirSlot_state o != 0) then
        s.wr F.pwrCmd_result 0 St.busy
      else
        let s := (s.uRas fun r => { r with commitDue := true }).powerEvent 0 0
        let s := (s.wr F.pwrStatus_lastOff 0 (op - 2)).wr F.pwrCmd_result 0 St.ok
        let s := (List.range 64).foldl (fun s n =>
          if s.linkState n = 0 then s else if s.linkState n = 5 then s else s.goDown n Dc.command) s
        ((s.hostDown 0).hostDown 1).uPwr fun p => { p with down := true }
    | _ => s

end State

/-! ### Host-port rows -/

/-- HOST_LINK_DOWN (R376). -/
def execHostLinkDown (h : Fin 2) (s : State) : Host.Outcome State Fault Refusal := .next (s.hostDown h.val).settle
/-- HOST_LINK_UP (R376, R322). -/
def execHostLinkUp (h : Fin 2) (speed : BitVec 3) (width : BitVec 4) (s : State) : Host.Outcome State Fault Refusal :=
  .next (s.hostUp h.val speed.toNat width.toNat).settle
/-- HOST_PORT_RESET (R407): the port's link goes down with its functions (R376); it returns with HOST_LINK_UP. -/
def execHostPortReset (h : Fin 2) (s : State) : Host.Outcome State Fault Refusal := .next (s.hostDown h.val).settle
/-- FUNCTION_LEVEL_RESET (R322): the reset completes within the step. -/
def execFunctionLevelReset (h : Fin 2) (f : Fin 16) (s : State) : Host.Outcome State Fault Refusal :=
  .next (if s.flag F.pciStatus_linkUp h.val then (s.fnReset h.val f.val).fnSecure h.val f.val else s).settle
/-- EVQ_WRITE_ERROR (R391). -/
def execEvqWriteError (e : Fin 17) (s : State) : Host.Outcome State Fault Refusal :=
  .next (if s.flag F.mgtEvqCfg_enable e.val then s.evqDisable [e.val] 0 else s).settle
/-- MSIX_MODERATION_EXPIRY (R393). -/
def execMsixModerationExpiry (e : Fin 17) (s : State) : Host.Outcome State Fault Refusal :=
  .next (if !s.evt.quiet.contains e.val then s
    else if s.evt.waiting.contains e.val then
      s.uEvt fun v => { v with msix := v.msix ++ [e.val], waiting := v.waiting.filter (· ≠ e.val) }
    else s.uEvt fun v => { v with quiet := v.quiet.filter (· ≠ e.val) }).settle

/-! ### Reset pins (R419) and power-down (R410) -/

/-- COLD_RESET_N has been low for 1 µs: it acts in every state and overrides WARM_RESET_N. -/
def execColdResetN (s : State) : Host.Outcome State Fault Refusal :=
  .next (if s.pwr.pin = some true then s else s.coldBegin.uPwr fun p => { p with pin := some true }).settle
/-- WARM_RESET_N has been low for 1 µs; outside READY the low is ignored whole. -/
def execWarmResetN (s : State) : Host.Outcome State Fault Refusal :=
  .next (if s.pwr.pin.isSome || s.pwr.down || s.rd F.pwrStatus_state ≠ 4 then s
    else s.warmBegin.uPwr fun p => { p with pin := some false }).settle
/-- RESET_PIN_RELEASE: the sequence runs from the rising edge. -/
def execResetPinRelease (cold : Bool) (s : State) : Host.Outcome State Fault Refusal :=
  .next (if s.pwr.pin = some cold then (if cold then s.coldRun else s.warmRun) else s).settle
/-- POWER_DOWN_DONE (Table 19-6, steps 3 and 4). -/
def execPowerDownDone (s : State) : Host.Outcome State Fault Refusal := .next (if s.pwr.down then s.powerOff 0 else s).settle

end Sys2Proof.Machine
end

