-- ==== Sys2Proof/Machine/Power.lean ====
section
/-! DEFINITION. Power-up, rails, droop, the power cap, temperatures, references, standby feeds and core gating (R313 to R317, R346,
R354, R399 to R408). -/

namespace Sys2Proof.Machine

namespace State

/-! ### Power-up (Table 19-4) -/

/-- A standby feed and REFCLK_SYS have come good on a node without standby power: the island leaves reset, the root of trust boots. -/
def powerUp (s : State) (a b : Bool) : State :=
  if s.flag F.rasStatus_feedAOk || s.flag F.rasStatus_feedBOk || !(a || b) then s
  else
    let s := (s.wrB F.rasStatus_feedAOk 0 a).wrB F.rasStatus_feedBOk 0 b
    let s := [0, 1, 2, 3].foldl (fun s d => s.wr F.clkStatus_refSys d 1) s
    (s.wr F.pwrStatus_state 0 1).coldRun

/-- A history record as flash holds it (Table 16-3). -/
def histOfBits (v : BitVec 128) : HistRec :=
  { inst := bits v 0 12, cls := bits v 12 4, kind := bits v 16 8, fenced := bits v 24 1 == 1, retired := bits v 25 1 == 1
    repeated := bits v 26 1 == 1, count := bits v 32 16, total := bits v 48 16, last := bits v 64 32 }

/-- The valid copy of the history is loaded; without one the history starts empty (R346). -/
def loadHistory (s : State) (b : BootFacts) : State :=
  let s := s.uRas fun r => { r with hours := b.hours }
  match b.hist with
  | none => s.raise { type := 0x1504, sev := 1, arg := [0] }
  | some l => (s.uRas fun r => { r with hist := (r.copies.getLast?).getD (l.map histOfBits) })

/-- Recovery with a cause (R316). -/
def recovery (s : State) (cause : Nat) : State :=
  let s := (s.wr F.rotStatus_cause 0 cause).wr F.rotStatus_svn 0 s.rot.counter
  s.uRot (fun r => { r with meas := (r.meas.put 1 Config.romDigest).put 4 (Config.measureBoot 0 0 r.counter true) })
    |>.uPwr fun p => { p with step := 0 }

/-- The slot that runs: the valid one of higher version, slot A on a tie (R314, R316); false is slot A. -/
def pickSlot (counter : Nat) (a b : Option ImageInfo) : Option (Bool × ImageInfo) :=
  let valid (x : Option ImageInfo) : Option ImageInfo := x.filter fun i => decide (counter ≤ i.svn.toNat)
  match valid a, valid b with
  | some x, some y => if x.version.toNat < y.version.toNat then some (true, y) else some (false, x)
  | some x, none => some (false, x)
  | none, some y => some (true, y)
  | none, none => none

/-- The running image (R359): the staged copy of the loaded slot. -/
def image (s : State) : Option ImageInfo := if s.flag F.rotStatus_slot then s.rot.slotB else s.rot.slotA

/-- Measurements 4 and 5 are recorded anew (Table 15-2). -/
def measure (s : State) : State :=
  let m4 := Config.measureBoot (s.rd F.rotStatus_slot) s.rot.svn s.rot.counter (s.rd F.rotStatus_cause != 0)
  let mode := ((s.image.bind (·.security)).map (·.1)).getD false
  s.uRot fun r => { r with meas := (r.meas.put 4 m4).put 5 (Config.measureSecurity mode r.secure (s.rd F.rotStatus_debug)) }

/-- Steps 2 to 6 of Table 15-1 have ended. -/
def bootDone (s : State) (b : BootFacts) : State :=
  if s.pwr.step ≠ 2 then s
  else if !b.seedOk then ({ b with hist := none } |> s.loadHistory).recovery 1
  else
    let s := s.loadHistory b
    if !b.counterOk then s.recovery 2
    else
      let s := s.uRot fun r => { r with counter := b.counter.toNat }
      let slotA := slotImage b.slotA
      let slotB := slotImage b.slotB
      let s := s.uRot fun r => { r with flash := Memory.setBytes (Memory.setBytes r.flash 0x01000000 b.slotA.bytes) 0x02000000 b.slotB.bytes }
      match pickSlot b.counter.toNat slotA slotB with
      | none => s.recovery 3
      | some (slot, i) =>
        let counter := if i.autoAdvance then max s.rot.counter i.svn.toNat else s.rot.counter
        let s := ((s.wrB F.rotStatus_slot 0 slot).wr F.rotStatus_cause 0 0).wr F.rotStatus_svn 0 (counter % 2 ^ 24)
        let log := ((s.rot.meas.put 1 Config.romDigest).put 2 i.headerDigest).put 3 i.digest
        let s := s.uRot fun r => { r with
          slotA := slotA, slotB := slotB, svn := i.svn.toNat, counter := counter, security := i.security.isSome
          secure := (i.security.map (·.2)).getD 0, meas := log.put 6 0 }
        s.measure.uPwr fun p => { p with step := 3 }

/-- Every rail page reports power-good; VDD_PCI lies on dies 0 and 1 only (Table 19-1). -/
def railsGood (s : State) : State :=
  if s.pwr.step ≠ 3 then s
  else
    let s := (List.range 36).foldl (fun s k =>
      if k % 9 = 5 && 2 ≤ k / 9 then s else s.wr F.pwrRail_pg (k / 9 * 16 + k % 9) 1) s
    s.uPwr fun p => { p with step := 4 }

/-- Every PLL locks: its reference is good; the units leave logic reset in hold. -/
def pllLocked (s : State) : State :=
  if s.pwr.step ≠ 4 then s
  else
    let s := [0, 1, 2, 3].foldl (fun s d =>
      let s := ((s.wr F.clkStatus_lock d 31).wr F.clkStatus_refSys d 1).wr F.clkStatus_refLane d 1
      if d < 2 then (s.wr F.clkStatus_lockPci d 1).wr F.clkStatus_refPci d 1 else s) s
    (s.wr F.pwrStatus_state 0 2).uPwr fun p => { p with step := 5, lanesLost := [] }

/-- Stacks, DIMMs and the start-up test are done: READY (Table 19-4, step 7). -/
def ready (s : State) : State :=
  if s.pwr.step ≠ 6 || (List.range 144).any fun n => s.rd F.rasCore_state n == 5 then s
  else ((s.wr F.pwrStatus_state 0 4).uPwr fun p => { p with step := 0 }).powerEvent 4 0

/-- A step misses its limit: rails off, cause SEQUENCE, an event that names the step (R406). -/
def stepLimit (s : State) : State :=
  let k := s.pwr.step
  if k = 0 then s else ((s.powerOff 0).wr F.pwrStatus_lastOff 0 6).powerEvent 0 k

/-! ### Droop (R399) -/

/-- A clock domain (die d as d, cluster k as 4 + k) is lengthened, and the event is counted. -/
def droop (s : State) (x d : Nat) : State :=
  if s.pwr.stretch.contains x && !s.pwr.restoring.contains x then s
  else
    (s.bump F.pwrRail_droops (d * 16)).uPwr fun p => { p with
      stretch := if p.stretch.contains x then p.stretch else p.stretch ++ [x], restoring := p.restoring.filter (· ≠ x) }

/-- The delay before a domain's restoration begins. -/
def droopEnds (s : State) (x : Nat) : State :=
  if s.pwr.stretch.contains x && !s.pwr.restoring.contains x then s.uPwr fun p => { p with restoring := p.restoring ++ [x] } else s

/-- The die of a clock domain. -/
def domainDie (x : Nat) : Nat := if x < 4 then x else (x - 4) / 4

/-- The delay has passed: the domains of the die that wait are restored. -/
def droopRestore (s : State) (d : Nat) : State :=
  let done := s.pwr.restoring.filter fun x => domainDie x == d
  s.uPwr fun p => { p with stretch := p.stretch.filter (!done.contains ·), restoring := p.restoring.filter (!done.contains ·) }

/-! ### Rails and the cap (R400, R401) -/

/-- The node runs: its units have left logic reset. -/
def running (s : State) : Bool := let st := s.rd F.pwrStatus_state; st == 2 || st == 3 || st == 4

/-- A poll of one page (R400). -/
def railPoll (s : State) (d r : Nat) (v : PollResult) : State :=
  if r = 5 && 2 ≤ d then s
  else
    let i := d * 16 + r
    match v with
    | .ok vout iout temp => ((s.wr F.pwrRail_vout i vout.toNat).wr F.pwrRail_iout i iout.toNat).wr F.pwrRail_temp i temp.toNat
    | .failed => (s.wr F.pwrRail_fault i 1).raise { type := 0x1703, sev := 2, die := d, arg := [BitVec.ofNat 8 d, BitVec.ofNat 8 r] }
    | .fault => let s := s.wr F.pwrRail_fault i 1; if s.running then s.trip 4 d r else s

/-- A duty one step lower or higher, within 8 to 64. -/
def dutyDown (k : Nat) : Nat := max (k - 1) 8
def dutyUp (k : Nat) : Nat := min (k + 1) 64

/-- A throttle acts from its threshold until the sensor is 3 °C below it (R402). -/
def throttles (was : Bool) (temp limit : Nat) : Bool := decide (limit ≤ temp) || (was && decide (limit < temp + 3))

/-- A millisecond of the power cap and the throttles (R401, R402): hottest die sensor, each stack, hottest DIMM. A stack's reading sets its
refresh multiplier (R58). -/
def capTick (s : State) (watts : Nat) (hottest stackHot dimmHot : List Nat) : State :=
  if !s.running then s
  else
    let stkHot := [0, 1, 2, 3].map fun d => ((List.range 5).map fun i => stackHot.getD (5 * d + i) 0).foldl max 0
    let s := (List.range 20).foldl (fun s k => s.stackThermal k (stackHot.getD k 0)) s
    let act (k d : Nat) (l : List Nat) (limit : Nat) : Bool := throttles (s.pwr.hot.contains (4 * k + d)) (l.getD d 0) limit
    let hotAt (x : Nat) : Bool :=
      if x < 4 then act 0 x hottest (s.rd F.pwrCtrl_throttle)
      else if x < 8 then act 1 (x - 4) stkHot (s.rd F.pwrCtrl_stkHot)
      else act 2 (x - 8) dimmHot (s.rd F.pwrCtrl_dimmHot)
    let hot := (List.range 12).filter hotAt
    let limit := s.rd F.pwrCap_limit
    let cap := if limit < watts then dutyDown s.pwr.capDuty else if 100 * watts < 97 * limit then dutyUp s.pwr.capDuty else s.pwr.capDuty
    let heat := if hot.any (· < 4) then dutyDown s.pwr.heatDuty else dutyUp s.pwr.heatDuty
    let floor := if cap = 8 then s.pwr.floor + 1 else 0
    let low := cap = 8 && decide (10 * s.rd F.pwrCap_window ≤ floor) && decide (limit < watts)
    let said := cap = 8 && s.pwr.floorSaid
    let s := [0, 1, 2, 3].foldl (fun s d =>
      let s := ((s.wr F.pwrTemp_dieMax d (hottest.getD d 0)).wr F.pwrTemp_stkMax d (stkHot.getD d 0)).wr F.pwrTemp_dimmMax d (dimmHot.getD d 0)
      s.wrB F.pwrTemp_throttling d (hot.any fun x => x % 4 == d)) s
    let duty := min cap heat
    let s := ((s.wr F.pwrStatus_power 0 watts).wr F.pwrCap_duty 0 duty).wrB F.pwrCap_capping 0 (decide (duty < 64))
    let s := s.uPwr fun p => { p with capDuty := cap, heatDuty := heat, hot := hot, floor := floor, floorSaid := said || low }
    if low && !said then s.raise { type := 0x1702, sev := 1, arg := leBytes watts 2 } else s

/-- A sensor at its trip point (Table 19-2). -/
def thermalTrip (s : State) : TripSensor → State
  | .die d temp => if 110 ≤ temp then s.trip 3 d.val 0 else s
  | .stack k temp => if 105 ≤ temp then s.trip 3 (k.val / 5) 0 else s

/-! ### Reference clocks (R405) -/

/-- One reference of a die: whether it has just been lost, and the state with the loss counted. -/
def refSeen (s : State) (f : Fld) (code d : Nat) (good : Bool) : Bool × State :=
  let lost := s.flag f d && !good
  let s := s.wrB f d good
  if lost then (true, (s.bump F.clkStatus_losses d).raise
    { type := 0x1801, sev := 2, die := d, arg := [BitVec.ofNat 8 code, BitVec.ofNat 8 d] })
  else (false, s)

/-- A die checks its references. -/
def refCheck (s : State) (d : Nat) (sys lane pci : Bool) : State :=
  let lanesBit (s : State) (v : Nat) : State := s.wr ⟨.clkStatus, 7, 1⟩ d v
  let (lostSys, s) := s.refSeen F.clkStatus_refSys 0 d sys
  let (lostLane, s) := s.refSeen F.clkStatus_refLane 1 d lane
  let (lostPci, s) := if d < 2 then s.refSeen F.clkStatus_refPci 2 d pci else (false, s)
  let s :=
    if lostLane then
      let s := (lanesBit s 0).uPwr fun p => { p with lanesLost := p.lanesLost ++ [d] }
      ((List.range 16).map (16 * d + ·)).foldl (fun s n =>
        if s.linkState n = 0 || s.linkState n = 5 then s else s.goDown n Dc.los) s
    else if lane && s.pwr.lanesLost.contains d then
      (if s.running then lanesBit s 1 else s).uPwr fun p => { p with lanesLost := p.lanesLost.filter (· ≠ d) }
    else s
  let s :=
    if lostPci then (s.hostDown d).wr F.clkStatus_lockPci d 0
    else if d < 2 && pci && s.running then s.wr F.clkStatus_lockPci d 1
    else s
  if lostSys then s.trip 5 d 0 else s

/-! ### Standby feeds (R354, R403) -/

/-- FEED_CHANGE of a feed (Table 21-2). -/
def feedEvent (s : State) (b good : Bool) : State :=
  s.raise { type := 0x1503, sev := 1, arg := [BitVec.ofNat 8 b.toNat, BitVec.ofNat 8 good.toNat] }

def feedFld (b : Bool) : Fld := if b then F.rasStatus_feedBOk else F.rasStatus_feedAOk

/-- A feed is lost; the node runs on from the other one, or loses all that is not in flash. -/
def feedLost (s : State) (b : Bool) : State :=
  if !s.flag (feedFld b) then s
  else if s.flag (feedFld !b) then
    (((s.wr (feedFld b) 0 0).feedEvent b false).histAdd 14 b.toNat 1 1).uRas fun r => { r with commitDue := true }
  else
    let s := ((s.hostDown 0).hostDown 1).coldBegin
    ((s.wr F.rasStatus_feedAOk 0 0).wr F.rasStatus_feedBOk 0 0).wr F.pwrStatus_state 0 0

/-- A lost feed has returned while the other one carried the island. -/
def feedRestored (s : State) (b : Bool) : State :=
  if s.flag (feedFld b) || !s.flag (feedFld !b) then s else (s.wr (feedFld b) 0 1).feedEvent b true

/-! ### Core gating (R408) -/

/-- A core that holds no task is gated; referees and cores under test never are. -/
def gateCore (s : State) (n : Nat) : State :=
  if s.rd F.pwrCtrl_coreIdle = 0 || s.rd F.rasCore_state n ≠ 0 || s.flag F.rasCore_referee n || !(s.ctxOf n).isEmpty
      || s.clu.gated.contains n then s
  else s.uClu fun u => { u with gated := u.gated ++ [n] }

end State

/-! ### Meanings -/

/-- POWER_UP (R406, step 1). -/
def execPowerUp (a b : Bool) (s : State) : Host.Outcome State Fault Refusal := .next (s.powerUp a b).settle
/-- ROT_BOOT_DONE (Table 15-1). -/
def execRotBootDone (b : BootFacts) (s : State) : Host.Outcome State Fault Refusal := .next (s.bootDone b).settle
/-- MAIN_RAILS_GOOD (R406, step 3). -/
def execMainRailsGood (s : State) : Host.Outcome State Fault Refusal := .next s.railsGood.settle
/-- PLL_LOCKED (R406, step 4). -/
def execPllLocked (s : State) : Host.Outcome State Fault Refusal := .next s.pllLocked.settle
/-- POWER_UP_READY (R406, step 7). -/
def execPowerUpReady (s : State) : Host.Outcome State Fault Refusal := .next s.ready.settle
/-- POWER_UP_STEP_LIMIT (R406). -/
def execPowerUpStepLimit (s : State) : Host.Outcome State Fault Refusal := .next s.stepLimit.settle
/-- DROOP_ASSERT (R399). -/
def execDroopAssert (d : Die) (s : State) : Host.Outcome State Fault Refusal := .next (s.droop d.val d.val).settle
/-- DROOP_DEASSERT (R399). -/
def execDroopDeassert (d : Die) (s : State) : Host.Outcome State Fault Refusal := .next (s.droopEnds d.val).settle
/-- DROOP_RESTORE_EXPIRY (R399). -/
def execDroopRestoreExpiry (d : Die) (s : State) : Host.Outcome State Fault Refusal := .next (s.droopRestore d.val).settle
/-- CLUSTER_DROOP_ASSERT (R399). -/
def execClusterDroopAssert (k : Cluster) (s : State) : Host.Outcome State Fault Refusal := .next (s.droop (4 + k.val) (k.val / 4)).settle
/-- CLUSTER_DROOP_DEASSERT (R399). -/
def execClusterDroopDeassert (k : Cluster) (s : State) : Host.Outcome State Fault Refusal := .next (s.droopEnds (4 + k.val)).settle
/-- PMBUS_POLL (R400). -/
def execPmbusPoll (d : Die) (r : Fin 9) (v : PollResult) (s : State) : Host.Outcome State Fault Refusal := .next (s.railPoll d.val r.val v).settle
/-- POWER_CAP_TICK (R401, R402). -/
def execPowerCapTick (watts : Nat) (hottest stackHot dimmHot : List Nat) (s : State) : Host.Outcome State Fault Refusal :=
  .next (s.capTick watts hottest stackHot dimmHot).settle
/-- THERMAL_TRIP (R402). -/
def execThermalTrip (t : TripSensor) (s : State) : Host.Outcome State Fault Refusal := .next (s.thermalTrip t).settle
/-- REFERENCE_CHECK (R405). -/
def execReferenceCheck (d : Die) (sys lane pci : Bool) (s : State) : Host.Outcome State Fault Refusal :=
  .next (s.refCheck d.val sys lane pci).settle
/-- FEED_LOST (R354). -/
def execFeedLost (b : Bool) (s : State) : Host.Outcome State Fault Refusal := .next (s.feedLost b).settle
/-- FEED_RESTORED (R354). -/
def execFeedRestored (b : Bool) (s : State) : Host.Outcome State Fault Refusal := .next (s.feedRestored b).settle
/-- CORE_IDLE_EXPIRY (R408). -/
def execCoreIdleExpiry (n : Core) (s : State) : Host.Outcome State Fault Refusal := .next (s.gateCore n.val).settle
/-- CORE_WAKE_DONE (R408). -/
def execCoreWakeDone (n : Core) (s : State) : Host.Outcome State Fault Refusal :=
  .next (s.uClu fun u => { u with waking := u.waking.filter (· ≠ n.val) }).settle

end Sys2Proof.Machine
end

