-- ==== Sys2Proof/Machine/Protection.lean ====
section
/-! DEFINITION. Where registers lie (R378, R379, Tables 18-3, 18-9), the protected fields and the walker that sums them (R367 to R370), and
the function timers (R372). -/

namespace Sys2Proof.Machine

/-! ### Places -/

/-- Index and byte of a register that an offset from its base reaches. -/
def dimIdx : List Dim → Nat → Option (Nat × Nat)
  | [], rel => some (0, rel)
  | d :: ds, rel =>
    let i := rel / d.stride
    if d.first ≤ i && i < d.first + d.count then (dimIdx ds (rel % d.stride)).map fun x => (i * d.weight + x.1, x.2) else none

/-- A register's index (before the die of a per-die register) and 32-bit word at a die offset. -/
def Reg.at_ (r : Reg) (x : Nat) : Option (Nat × Nat) :=
  if x < r.place.base then none
  else match dimIdx r.place.dims (x - r.place.base) with
    | some (i, b) => if b < r.place.bytes && b % 4 == 0 then some (i, b / 4) else none
    | none => none

/-- What a die offset reaches: a register, its index and its word. -/
def locate (x : Nat) : Option (Reg × Nat × Nat) :=
  Reg.all.foldl (fun a r => match a with
    | some _ => a
    | none => (r.at_ x).map fun y => (r, y.1, y.2)) none

/-- The instance of a register that an index names in a die's window. -/
def Reg.inst (r : Reg) (d i : Nat) : Nat := match r.place.window with
  | .perDie => d * r.place.dieWeight + i
  | _ => i

/-- Indices of a register with their offsets from its base. -/
def dimAll : List Dim → List (Nat × Nat)
  | [] => [(0, 0)]
  | d :: ds => (List.range d.count).flatMap fun k => (dimAll ds).map fun x => ((d.first + k) * d.weight + x.1, (d.first + k) * d.stride + x.2)

/-- The die in whose window an instance lies, for registers of one window. -/
def Reg.homeDie (r : Reg) (i : Nat) : Nat := match r.place.window with
  | .unit => r.dieOf i
  | .perDie => if r.place.dieWeight = 0 then 0 else i / r.place.dieWeight
  | _ => 0

/-- Die offset of an instance (the inverse of `locate`). -/
def Reg.offsetOf (r : Reg) (i : Nat) : Nat :=
  let k := match r.place.window with
    | .perDie => if r.place.dieWeight = 0 then i else i % r.place.dieWeight
    | _ => i
  match (dimAll r.place.dims).find? fun x => x.1 == k with
  | some x => r.place.base + x.2
  | none => r.place.base

/-! ### Protected fields (R367) -/

/-- Registers whose name ends in _CMD, _PTR, _SRC or _KILL, and those whose fields the rule excepts whole. CFG_CRC_REF, which holds the
reference itself, is not summed (log 29). -/
def Reg.unprotected : Reg → Bool
  | .rotMboxCmd | .secPartCmd | .secKeyCmd | .homMigCmd | .cluSeqCmd | .colPlanCmd | .rasCmd | .pwrCmd | .homExtCmd
  | .mgtEvqPtr | .homHotqPtr | .cluQptr | .xfrQptr | .mgtViolSrc | .cluSeqSrc | .colPlanSrc | .txnKill | .colKill
  | .rteLost | .cfgCrcRef => true
  | _ => false

/-- A field of a register is protected; for one with wings its stage is. -/
def Reg.guards (r : Reg) (f : Field) : Bool :=
  if r = .engFmt then true
  else !r.unprotected && f.sec && (f.acc == .rw || f.acc == .rws)
    && !((r == .cluQcfg || r == .xfrQcfg) && f.lo == 8) && !((r == .homMigReserve || r == .cluSave) && f.lo == 12)

/-- The protected fields of a register. -/
def Reg.guarded (r : Reg) : List Field := r.fields.filter r.guards

namespace State

/-- A register's protected bits on a die, every other bit zero. -/
def guardedReg (s : State) (r : Reg) (i d : Nat) : BitVec 128 :=
  let port := ((wingUnits r).getLast?.map (·.2)).getD false
  r.guarded.foldl (fun v f =>
    let src := if f.wings || r = .engFmt then s.stageReg r i d port else s.reg r i
    setBits v f.lo f.width (bits src f.lo f.width)) 0

/-- The words that the walker of a die reads, with their die offsets. -/
def walkerWords (s : State) (d : Nat) : List (Nat × Nat) :=
  (Reg.all.filter fun r => !r.guarded.isEmpty).flatMap fun r =>
    let mine := (dimAll r.place.dims).filter fun x => match r.place.window with
      | .zero => d == 0
      | .unit => r.dieOf x.1 == d
      | _ => true
    mine.flatMap fun x => (List.range (r.place.bytes / 4)).map fun w =>
      (r.place.base + x.2 + 4 * w, bits (s.guardedReg r (r.inst d x.1) d) (32 * w) 32)

/-- Insert a word by its offset. -/
def insertWord (x : Nat × Nat) : List (Nat × Nat) → List (Nat × Nat)
  | [] => [x]
  | y :: ys => if x.1 ≤ y.1 then x :: y :: ys else y :: insertWord x ys

/-- One bit, and one byte, of CRC-32C with reflected input and output (R368). -/
def crcBit (c : BitVec 32) : BitVec 32 := if c.getLsbD 0 then (c >>> 1) ^^^ 0x82F63B78 else c >>> 1
def crcByte (c : BitVec 32) (b : Nat) : BitVec 32 :=
  (List.range 8).foldl (fun c _ => crcBit c) (c ^^^ BitVec.ofNat 32 (b % 256))

/-- CRC-32C of 32-bit words, low byte first. -/
def crcWords (ws : List Nat) : BitVec 32 :=
  ~~~ (ws.foldl (fun c w => (List.range 4).foldl (fun c k => crcByte c (w / 256 ^ k)) c) 0xFFFFFFFF)

/-- The sum of a die's protected fields as they stand. -/
def walkerSum (s : State) (d : Nat) : Nat :=
  (crcWords (((s.walkerWords d).foldr insertWord []).map (·.2))).toNat

/-- A pass of the walker of die d completes, and the next begins (R368 to R370). A pass in which a protected field changed has read it
before or after the change: its result is open. -/
def crcPass (s : State) (d : Nat) : State :=
  let x := s.crc.lookD d {}
  let v := if x.changed then s.freeVal.toNat % 2 ^ 32 else s.walkerSum d
  let s := if x.changed then s.draw else s
  let s := (s.wr F.cfgCrcLive_live d v).wr F.cfgCrcStatus_passes d ((s.rd F.cfgCrcStatus_passes d + 1) % 65536)
  let s :=
    if x.armed then
      let s := s.wr F.cfgCrcStatus_commitBusy d 0
      if x.changed then s else (s.wr F.cfgCrcRef_ref d v).wr F.cfgCrcStatus_dirty d 0
    else if x.dirty || s.flag F.cfgCrcStatus_dirty d || s.rd F.cfgCrcRef_ref d == v then s
    else (s.wr F.cfgCrcStatus_mismatch d 1).raise { type := 0x1602, sev := 2, die := d, arg := [BitVec.ofNat 8 d] }
  let next : CrcPass := { dirty := s.flag F.cfgCrcStatus_dirty d, armed := s.flag F.cfgCrcStatus_commitBusy d }
  { s with crc := s.crc.put d next }

/-- CFG_CRC_STATUS COMMIT has been written (R369). -/
def crcCommit (s : State) (d : Nat) : State := s.wr F.cfgCrcStatus_commitBusy d 1

/-- CFG_CRC_REF has been written: the first pass that starts now is compared (R369). -/
def crcRefWritten (s : State) (d : Nat) : State :=
  ({ s with crc := s.crc.put d { s.crc.lookD d {} with dirty := true } }).wr F.cfgCrcStatus_dirty d 0

/-! ### Function timers (R372, Table 17-10) -/

/-- Whether a function is starting, and whether it is stopping (Table 17-11). -/
def funcPhase (s : State) (k : FuncKind) (i : Nat) : Bool × Bool :=
  match k with
  | .port => if 64 ≤ i then (false, false) else (s.rd F.lnkStatus_state i == 1 || s.rd F.lnkStatus_state i == 2, false)
  | .core =>
    if 144 ≤ i then (false, false)
    else (s.rd F.rasCore_state i == 5 || s.clu.waking.contains i,
          (s.ras.draining.look i).isSome || s.ras.fencing.any fun f => f.1 == i)
  | .copyEngine => (false, match s.xfr.run.look i with
    | some u => u.stop.isSome || u.killed
    | none => false)
  | .extent =>
    let st := (s.home.ext.lookD i {}).state
    (st == .starting, st == .withdrawing || st == .pending)
  | .partition => if 16 ≤ i then (false, false) else (s.rd F.secPartStatus_state i == 1, s.rd F.secPartStatus_state i == 3 || s.rd F.secPartStatus_state i == 4)
  | .plan => if 64 ≤ i then (false, false) else (s.rd F.colPlanStatus_state i == 1, s.rd F.colPlanStatus_state i == 3 || s.rd F.colPlanStatus_state i == 4)

/-- KIND of Table 17-10. -/
def kindCode : FuncKind → Nat
  | .port => 1 | .core => 2 | .copyEngine => 3 | .extent => 4 | .partition => 5 | .plan => 6

/-- A timer of FUNC_SEQ runs out: only an event (R372). -/
def funcTimer (s : State) (k : FuncKind) (i : Nat) : State :=
  let (_, start, stop) := s.tab.funcSeq.getD (kindCode k - 1) (0, 0, 0)
  let (starting, stopping) := s.funcPhase k i
  let say (which : Nat) : State :=
    s.raise { type := 0x1604, sev := 1, inst := i, arg := [BitVec.ofNat 8 (kindCode k), BitVec.ofNat 8 which] ++ leBytes i 2 }
  if starting && start ≠ 0 then say 0
  else if stopping && stop ≠ 0 then say 1
  else s

end State

/-- CRC_PASS (R368, R370). -/
def execCrcPass (d : Die) (s : State) : Host.Outcome State Fault Refusal := .next (s.crcPass d.val).settle
/-- FUNC_TIMER (R372). -/
def execFuncTimer (k : FuncKind) (i : Fin 4096) (s : State) : Host.Outcome State Fault Refusal := .next (s.funcTimer k i.val).settle

end Sys2Proof.Machine
end

