-- ==== Sys2Proof/Machine/Kennel.lean ====
section
/-! DEFINITION. Verdicts, canaries, tests, role swaps and the fencing of cores (R339 to R351). -/

namespace Sys2Proof.Machine

namespace State

/-- A core's entry in SEC_CORE_MAP: partition and VALID, as its 5 bits. -/
def coreMap (s : State) (n : Nat) : Nat := bits (s.reg .secCoreMap (n / 9)) (5 * (n % 9)) 5

def setCoreMap (s : State) (n v : Nat) : State :=
  (if s.coreMap n = v then s else s.dirty (n / 36)).setReg .secCoreMap (n / 9) (setBits (s.reg .secCoreMap (n / 9)) (5 * (n % 9)) 5 v)

/-- The cores of a cluster. -/
def coresOf (c : Nat) : List Nat := (List.range 9).map (c * 9 + ·)

/-! ### Tests (R347 to R349) -/

/-- A core starts draining for a test; one without tasks begins it at once (Table 16-5, steps 1 to 3). -/
def startDrain (s : State) (n : Nat) (why : TestFor) : State :=
  ((s.wr F.rasCore_state n 3).uRas fun r => { r with draining := r.draining.put n why }).drainCheck n
    |>.refreshReferee (clusterOf n)

/-- A core begins the stress test. -/
def startTest (s : State) (n : Nat) (why : TestFor) : State :=
  (s.beginTest n why).refreshReferee (clusterOf n)

/-- A core takes a state with the role it goes with. -/
def setRole (s : State) (n state : Nat) : State := (s.wr F.rasCore_state n state).wr F.corStatus_role n state

/-- A core leaves the kennel as UNDERSTUDY (R351). -/
def unfenced (s : State) (n : Nat) : State :=
  let s := s.uRas fun r => { r with hist := r.hist.map fun h => if HistRec.core h == some n then { h with fenced := false } else h }
  let s := s.setRole n 1
  s.wr F.rasStatus_fenced 0 s.fencedCores.length

/-- A stress test ends (Tables 16-5, 16-6, R349, R351). -/
def testDone (s : State) (n : Nat) (rating : TestRating) (margin : Nat) : State :=
  if s.rd F.rasCore_state n ≠ 4 then s
  else
    let why := s.ras.testing.lookD n .swap
    let code := match rating with | .pass => 1 | .marginal => 2 | .fail => 3
    let s := (s.uRas fun r => { r with testing := r.testing.del n }).setVcore (n / 36)
    let s := ((s.wr F.corStatus_margined n 0).wr F.rasCore_margin n (if rating = .pass then 0 else margin)).wr F.rasCore_lastTest n code
    let s := if why = .command || why = .spare || why = .unfence then
        (s.wr F.rasStatus_busy 0 0).wr F.rasStatus_result 0 St.ok else s
    let s := if why = .unfence then (s.setRole n 2) else s
    let s := match rating with
      | .pass => s
      | .marginal => s.histAdd 6 n 2 2
      | .fail => s.histAdd 6 n 1 1
    let s :=
      if why = .unfence then (if rating = .pass then s.unfenced n else s)
      else if s.rd F.rasCore_state n = 2 then s
      else if rating = .fail then s.fence n 6
      else if why = .swap || why = .spare then s.setRole n 1
      else s.setRole n 0
    s.refreshReferee (clusterOf n)

/-- The start-up signatures of a cluster are compared (R349). -/
def startupDone (s : State) (c : Nat) (sigs : List DWord) : State :=
  let cores := (coresOf c).filter fun n => s.rd F.rasCore_state n == 5
  let sig (n : Nat) : DWord := sigs.getD (n % 9) 0
  let agree (n : Nat) : Nat := (cores.filter fun m => m != n && sig m == sig n).length
  let bad : List Nat := match cores.find? fun n => s.rd F.corStatus_role n == 1 with
    | none => []
    | some u =>
      let differ := cores.filter fun n => n != u && sig n != sig u
      differ.filter (fun n => decide (agree n < 5)) ++ (if differ.any fun n => decide (5 ≤ agree n) then [u] else [])
  let s := cores.foldl (fun s n =>
    if bad.contains n then s.wr F.rasCore_lastTest n 3
    else (s.wr F.rasCore_lastTest n 1).wr F.rasCore_state n (s.rd F.corStatus_role n)) s
  let s := bad.foldl (fun s n => (s.histAdd 6 n 1 1).fence n 6) s
  s.refreshReferee c

/-! ### Role swaps (R347, Table 16-5) -/

/-- The target of a cluster's next swap: the next active slot after the previous target, in slot order. -/
def swapTarget (s : State) (c : Nat) : Option Nat :=
  let last := s.ras.lastTarget.lookD c 8
  (((List.range 9).map fun k => c * 9 + (last + 1 + k) % 9)).find? fun n => s.rd F.rasCore_state n == 0

/-- A cluster's swap begins. -/
def roleSwap (s : State) (c : Nat) : State :=
  if s.rd F.rasCtrl_swapH = 0 || s.ras.disputes.any fun d => clusterOf d.core == c then s
  else
    match (coresOf c).find? fun n => s.rd F.rasCore_state n == 1, s.swapTarget c with
    | some u, some t =>
      let (mu, mt) := (s.coreMap u, s.coreMap t)
      let s := ((s.setRole u 0).setCoreMap u mt).setCoreMap t mu
      (s.uRas fun r => { r with lastTarget := r.lastTarget.put c (t % 9) }).startDrain t .swap
    | _, _ => s

/-- SWAP_DRAIN has passed first: an event, and the wait goes on. -/
def swapSlow (s : State) (c : Nat) : State :=
  if (coresOf c).any fun n => s.rd F.rasCore_state n == 3 && s.ras.draining.look n == some .swap then
    s.raise { type := 0x1505, sev := 1, arg := [BitVec.ofNat 8 c] }
  else s

/-! ### Fencing (Table 16-7) -/

/-- The tasks of a fenced core stop with INTERNAL; open transactions abort with OPENER_LOST (step 2). -/
def stopFenced (s : State) (n : Nat) : State :=
  (s.ctxOf n).foldl (fun s e =>
    let stop (s : State) : State := s.stopCtx n e.1 St.internal 0
    match e.2.phase with
    | .stopping _ _ _ | .ended _ => s
    | .restoring slot =>
      stop (s.uClu fun u => { u with saved := u.saved.filter fun v => !(v.partition == e.2.task.partition && v.slot == slot) })
    | _ => stop s) s

/-- Steps 3 and 4, once every record is written: the core is off, its cluster's understudy takes its place for good. -/
def fenceDoneCore (s : State) (n cls : Nat) : State :=
  let c := clusterOf n
  let own := s.coreMap n
  let s := (s.setCoreMap n 0).uClu fun u => { u with
    gated := u.gated.filter (· ≠ n), waking := u.waking.filter (· ≠ n), streams := u.streams.filter fun e => e.1 / 16 != n }
  let s := s.uPtu fun p => { p with core := p.core.del n }
  let s := match (coresOf c).find? fun m => s.rd F.rasCore_state m == 1 with
    | some m => (s.setRole m 0).setCoreMap m own
    | none => s
  let s := (s.uRas fun r => { r with fencing := r.fencing.filter (·.1 ≠ n), commitDue := true }).refreshReferee c
  let s := if cls = 0 then (s.wr F.rasStatus_busy 0 0).wr F.rasStatus_result 0 St.ok else s
  s.raise { type := 0x1501, sev := 2, inst := n, arg := leBytes n 2 ++ [BitVec.ofNat 8 cls] }

/-- FENCE_RECORDS_WRITTEN is due when no task of the core is left. -/
def fenceRecords (s : State) (n : Nat) : State :=
  match s.ras.fencing.find? (·.1 == n) with
  | none => s
  | some f =>
    let s := s.stopFenced n
    if (s.ctxOf n).isEmpty then s.fenceDoneCore n f.2 else s

/-- A RAS_CMD (R349, R351): TEST, FENCE, UNFENCE. -/
def rasCommand (s : State) (op n : Nat) : State :=
  let res (s : State) (v : Nat) : State := s.wr F.rasStatus_result 0 v
  let busy (s : State) : State := s.wr F.rasStatus_busy 0 1
  let st := s.rd F.rasCore_state n
  if s.flag F.rasStatus_busy || op = 0 || 4 ≤ op then s
  else if 144 ≤ n then res s St.badRequest
  else match op with
    | 1 =>
      if st = 0 then (busy s).startDrain n .command
      else if st = 1 then (busy s).startTest n .spare
      else if st = 2 then res s St.badRequest
      else res s St.busy
    | 2 => if st = 2 then res s St.ok else ((busy s).fence n 0).stopFenced n
    | _ =>
      if st = 2 && !(s.ras.fencing.any (·.1 == n)) then (busy s).startTest n .unfence
      else if st = 2 then res s St.busy
      else res s St.badRequest

/-! ### Verdicts (R340 to R343) -/

/-- After a verdict without a majority the asking core is drained and tested (R342, R349). -/
def recoveryTest (s : State) (n : Nat) : State := if s.rd F.rasCore_state n = 0 then s.startDrain n .recovery else s

/-- The destination registers of a dispute take values. -/
def settleDispute (s : State) (d : Dispute) (vals : Option (List LineData)) : State :=
  match s.getCtx d.core d.ctx with
  | none => s
  | some x =>
    if x.phase ≠ .dispute then s
    else match vals with
      | some l =>
        let x := { x with phase := .run }
        let x := if d.scalar then sPut x (d.dests.headD 0) ((l.headD 0).setWidth 64)
          else (d.dests.zip l).foldl (fun x p => vPut x d.eng p.1 (p.2, d.poison)) x
        s.setCtx d.core d.ctx x
      | none =>
        if d.scalar then s.stopCtx d.core d.ctx St.poison 0
        else s.setCtx d.core d.ctx (d.dests.foldl (fun x r => vPut x d.eng r ((vGet x d.eng r).1, true)) { x with phase := .run })

/-- Who loses a verdict (Table 16-2). -/
inductive Loser where
  | checker | transient | engine | referee | none
  deriving DecidableEq, Repr

/-- Table 16-2: whether E matches P, whether U is there and equals E, whether U matches P. -/
def verdictOf (eMatches : Bool) (u : Option Bool) (uMatches : Bool) : Loser :=
  match eMatches, u, uMatches with
  | _, none, _ => .none
  | false, some true, _ => .checker
  | false, some false, true => .engine
  | true, some true, _ => .transient
  | true, some false, false => .referee
  | _, some false, _ => .none

/-- Values of a dispute's destination registers match the prediction P: the checker does not predict wrong residues, and they agree with
those of what the snapshot gives modulo 3 and 7 (R336, R342). -/
def Dispute.fits (d : Dispute) (x : Context) (v : List LineData) : Bool :=
  !d.checker && (if d.scalar then checkedScalar v == checkedScalar d.good else checkedOut x d.op v == checkedOut x d.op d.good)

/-- What the referee's run of a dispute's snapshot brings: U, when it is there (Table 16-1, step 3). -/
def refereeValue (d : Dispute) : RefereeRun → Option (List LineData)
  | .absent => none
  | .right => some d.good
  | .wrong v => some v

/-- The referee's result arrives; the requests of one referee are settled in arrival order (R341 to R343, R345). -/
def verdict (s : State) (n c : Nat) (r : RefereeRun) : State :=
  let k := clusterOf n
  match s.ras.disputes.find? fun d => clusterOf d.core == k && s.referee k d.core == s.referee k n with
  | none => s
  | some d =>
    if d.core ≠ n || d.ctx ≠ c then s
    else
      let x := (s.getCtx n c).getD { task := {} }
      let u := refereeValue d r
      let s := s.uRas fun r => { r with disputes := r.disputes.erase d }
      let unit (n : Nat) : Nat := if d.scalar then n else 4 * n + d.eng
      let ref := (s.referee k n).getD n
      let blame (s : State) (cls n w : Nat) (rep : Bool) : State := s.histAdd (if d.scalar then 3 else cls) (unit n) 1 w rep
      match verdictOf (Dispute.fits d x d.e) (u.map (· == d.e)) (u.any (Dispute.fits d x)) with
      | .checker => (((s.settleDispute d (some d.e)).bump F.rasVerdict_checker k).histAdd (if d.scalar then 3 else 2) (unit n) 1 1)
      | .transient => blame ((s.settleDispute d (some d.e)).bump F.rasVerdict_engine k) 1 n 1 false
      | .engine =>
        blame ((s.settleDispute d u).bump F.rasVerdict_engine k) 1 n (if d.aEqE && !d.scalar then 2 else 1) d.aEqE
      | .referee => blame ((s.settleDispute d (some d.e)).bump F.rasVerdict_referee k) 1 ref 1 false
      | .none =>
        let s := blame (blame ((s.settleDispute d none).bump F.rasVerdict_none k) 1 n 1 false) 1 ref 1 false
        s.recoveryTest n

/-! ### Canaries (R344) -/

/-- Whether a core runs canaries: it is powered, and neither fenced nor under test. -/
def runsCanaries (s : State) (n : Nat) : Bool :=
  let st := s.rd F.rasCore_state n
  !s.clu.gated.contains n && (st == 0 || st == 1 || st == 3)

/-- A canary of two engines; the referee runs it when they differ. -/
def canary (s : State) (n a b : Nat) (ra rb : LineData) (u : Option LineData) : State :=
  if a = b || ra = rb || !s.runsCanaries n then s
  else
    let k := clusterOf n
    let lose (s : State) (e : Nat) : State := s.histAdd 1 (4 * n + e) 3 3
    if u = some ra then lose (s.bump F.rasVerdict_engine k) b
    else if u = some rb then lose (s.bump F.rasVerdict_engine k) a
    else (lose (lose (s.bump F.rasVerdict_none k) a) b).recoveryTest n

/-- A scalar canary. -/
def scalarCanary (s : State) (n : Nat) (sig ref : DWord) : State :=
  if sig = ref || !s.runsCanaries n then s else s.histAdd 3 n 2 2

/-! ### Commits (R346) -/

/-- The keeper's records go to flash, at once where a commit is due, else once per power-on hour. -/
def histCommit (s : State) (written : Bool) : State :=
  let s := if s.ras.commitDue then s else s.uRas fun r => { r with hours := r.hours + 1 }
  if written then
    s.uRas fun r => { r with commitDue := false, copies := (r.copies ++ [r.hist]).drop (r.copies.length - 1) }
  else
    ((s.wr F.rasStatus_histStale 0 1).uRas fun r => { r with commitDue := false }).raise { type := 0x1504, sev := 1, arg := [1] }

end State

/-! ### Meanings -/

/-- REFEREE_VERDICT (R342). -/
def execRefereeVerdict (n : Core) (c : Ctx) (u : RefereeRun) (s : State) : Host.Outcome State Fault Refusal :=
  .next (s.verdict n.val c.val u).settle
/-- CANARY (R344). -/
def execCanary (n : Core) (a b : Fin 4) (ra rb : LineData) (u : Option LineData) (s : State) : Host.Outcome State Fault Refusal :=
  .next (s.canary n.val a.val b.val ra rb u).settle
/-- SCALAR_CANARY (R344). -/
def execScalarCanary (n : Core) (sig refSig : DWord) (s : State) : Host.Outcome State Fault Refusal := .next (s.scalarCanary n.val sig refSig).settle
/-- ROLE_SWAP (R347). -/
def execRoleSwap (k : Cluster) (s : State) : Host.Outcome State Fault Refusal := .next (s.roleSwap k.val).settle
/-- SWAP_DRAIN_EXPIRY (R347). -/
def execSwapDrainExpiry (k : Cluster) (s : State) : Host.Outcome State Fault Refusal := .next (s.swapSlow k.val).settle
/-- STRESS_TEST_DONE (R348). -/
def execStressTestDone (n : Core) (r : TestRating) (margin : Fin 9) (s : State) : Host.Outcome State Fault Refusal :=
  .next (s.testDone n.val r margin.val).settle
/-- STARTUP_TEST_DONE (R349). -/
def execStartupTestDone (k : Cluster) (sigs : List DWord) (s : State) : Host.Outcome State Fault Refusal := .next (s.startupDone k.val sigs).settle
/-- FENCE_RECORDS_WRITTEN (R351). -/
def execFenceRecordsWritten (n : Core) (s : State) : Host.Outcome State Fault Refusal := .next (s.fenceRecords n.val).settle
/-- HISTORY_COMMIT (R346). -/
def execHistoryCommit (written : Bool) (s : State) : Host.Outcome State Fault Refusal := .next (s.histCommit written).settle
/-- HISTORY_HALVING (R345). -/
def execHistoryHalving (s : State) : Host.Outcome State Fault Refusal := .next s.histHalve.settle

end Sys2Proof.Machine
end

