-- ==== Sys2Proof/Machine/Trust.lean ====
section
/-! DEFINITION. Partitions, memory keys and the root of trust's mailbox (R312 to R334). -/

namespace Sys2Proof.Machine

namespace State

/-! ### Memory keys (R325 to R328) -/

/-- A key ID with its generations and its status fields. -/
def setKey (s : State) (k : Nat) (x : KeyState) (state gen part : Nat) : State :=
  (({ s with keys := s.keys.putC {} k x }.wr F.secKeyStatus_state k state).wr F.secKeyStatus_gen k gen).wr F.secKeyStatus_partition k part

/-- The root of trust generates a key: its number (R325). -/
def newKey (s : State) : Nat × State := (s.rot.made + 1, s.uRot fun r => { r with made := r.made + 1 })

/-- Both generations of a key ID are erased. -/
def eraseKey (s : State) (k : Nat) : State := s.setKey k {} 0 0 0

/-- The sweep of a key ID's rotation on a die: its extents in extent-ID order (Table 15-5, step 2). -/
def sweepRuns (s : State) (k d : Nat) : List (Nat × Nat × Nat) :=
  s.home.ext.filterMap fun e =>
    if e.2.state.serves && e.2.attr.key == k && e.2.attr.count != 0
        && (!e.2.attr.oneDie || (s.place e.2.attr.tier2 true (e.2.attr.base * 2 ^ 21)).1 == d) then
      some (e.1, 0, e.2.attr.count * 32) else none

/-- The previous key is erased on every die (Table 15-5, step 3). -/
def rotationDone (s : State) (k : Nat) : State :=
  let g := s.keyGen k
  let p := s.rd F.secKeyStatus_partition k
  let x := s.keys.lookD k {}
  (s.setKey k { has0 := !g, has1 := g, num0 := x.num0, num1 := x.num1 } 1 g.toNat p).raise
    { type := 0x0302, sev := 0, part := some p, arg := [BitVec.ofNat 8 k, BitVec.ofNat 8 g.toNat] }

/-- A sweep with nothing left on any die ends. -/
def sweepCheck (s : State) (k : Nat) : State :=
  if s.rd F.secKeyStatus_state k = 2 && ((s.keys.lookD k {}).sweep.all fun e => e.2.isEmpty) then s.rotationDone k else s

/-- SEC_KEY_CMD (Table 15-4a): the status it completes with, and the state. -/
def keyCommand (s : State) (op k p : Nat) : Nat × State :=
  let st := s.rd F.secKeyStatus_state k
  match op with
  | 1 =>
    if st ≠ 0 then (St.busy, s)
    else if !s.partitioned && p ≠ 0 then (St.badRequest, s)
    else
      let (n, s) := s.newKey
      (St.ok, s.setKey k { has0 := true, num0 := n } 1 0 p)
  | 2 =>
    if st = 0 then (St.badRequest, s)
    else if st = 2 then (St.busy, s)
    else
      let g := !s.keyGen k
      let (n, s) := s.newKey
      let old := s.keys.lookD k {}
      let x : KeyState := { has0 := true, has1 := true, num0 := if g then old.num0 else n, num1 := if g then n else old.num1, sweep := [0, 1, 2, 3].map fun d => (d, s.sweepRuns k d) }
      (St.ok, (s.setKey k x 2 g.toNat (s.rd F.secKeyStatus_partition k)).sweepCheck k)
  | _ =>
    if st = 0 then (St.ok, s)
    else if s.home.ext.any fun e => e.2.state != .off && e.2.attr.key == k then (St.busy, s)
    else (St.ok, s.eraseKey k)

/-- A swept line is stored under the current generation; a cached copy is then clean. A line that is not at hand is read from its unit,
whose codes find `u`; an uncorrectable one is written back poisoned (R63, Table 15-6a) and aborts its readers (R114). -/
def sweepLine (s : State) (k : Nat) (g : Bool) (u : Upset) : State :=
  match s.mscFind k with
  | some (w, l) =>
    if l.md.keygen = g then s
    else
      let md := (s.encrypted k l.md g).coded l.data
      (s.lineStore k l.data md).mscPut w { l with md := md, dirty := false }
  | none =>
    let (data, md, s) := match s.atHand k with
      | some x => (x.1, x.2, s)
      | none => s.unitDeliver (s.servedAt k) k u
    if md.keygen = g then s
    else
      (s.uMem fun m => { m with arrived := m.arrived.del k }).lineStore k data ((s.encrypted k md g).coded data)

/-- The lines of page n of an extent that die d holds. -/
def unitLines64 (s : State) (a : ExtAttr) (n d : Nat) : List Nat :=
  ((List.range 512).map fun i => s.lineAt a (tierOffset a.tier2 (a.base * 2 ^ 21 + n * 65536 + i * 128))).filter fun k => lineDie k == d

/-- One sweep unit of a die (R327); `u` is what its first line that is read from its unit meets, or lost tags of the cache (R69). A
stopped home sweeps nothing (R84), nor does any once the key's partition enters REVOKING (Table 15-6a). -/
def keySweep (s : State) (d k : Nat) (u : Upset) : State :=
  if s.rd F.secKeyStatus_state k ≠ 2 || s.home.halted.contains d || s.revoking (s.rd F.secKeyStatus_partition k) then s
  else if u.tags then (s.cacheHalt d).stopHome d
  else
    let x := s.keys.lookD k {}
    let setRuns (s : State) (r : List (Nat × Nat × Nat)) : State :=
      { s with keys := s.keys.put k { x with sweep := x.sweep.put d r } }
    match x.sweep.lookD d [] with
    | [] => s
    | (e, page, left) :: rest =>
      let ext := s.getExt e
      if !ext.state.serves || ext.attr.key ≠ k || left = 0 then (setRuns s rest).sweepCheck k
      else
        let lines := s.unitLines64 ext.attr page d
        let first := lines.find? fun l => !s.held l
        let s := lines.foldl (fun s l => s.sweepLine l (s.keyGen k) (if first == some l then u else .clean)) s
        (setRuns s (if left = 1 then rest else (e, page + 1, left - 1) :: rest)).sweepCheck k

/-! ### Partitions (R323, R330) -/

/-- PARTITION_STATE (Table 21-2). -/
def partEvent (s : State) (p state : Nat) : State :=
  s.raise { type := 0x0301, sev := 0, part := some p, inst := p, arg := [BitVec.ofNat 8 state, BitVec.ofNat 8 p] }

/-- The tasks of a partition stop: windows and saved tasks are dropped, running tasks and descriptors stop, no records (step 2). -/
def stopTasks (s : State) (p : Nat) : State :=
  let mine := (List.range 64).filter fun q => s.rd F.cluQcfg_partition q == p
  let s := mine.foldl (fun s q => ((s.clu.window.lookD q []).foldl (fun s _ => s.unreserve .host q) s).uClu fun u =>
    { u with window := u.window.del q }) s
  let gone := s.clu.saved.filter fun v => v.partition == p
  let s := gone.foldl (fun s v => match v.ctx.task.queue with
    | some q => s.unreserve .host q
    | none => s) s
  let s := (s.uClu fun u => { u with saved := u.saved.filter fun v => v.partition != p }).refreshSave p
  let s := (s.clu.ctx.filter fun e => e.2.task.partition == p).foldl (fun s e => match e.2.phase with
    | .stopping _ _ _ | .ended _ => s
    | _ => s.stopCtx (e.1 / 8) (e.1 % 8) St.revoked 0) s
  s.xfr.run.foldl (fun s e => if s.rd F.xfrQcfg_partition e.2.queue = p then s.copyStop e.1 St.revoked 0 0 else s) s

/-- REVOKE of a partition that is ON: steps 1 to 4 of Table 15-6 begin. -/
def revoke (s : State) (p : Nat) : State :=
  let s := s.wr F.secPartStatus_state p 3
  let s := s.abortWhere Cause.revoked true fun _ t => t.partition == p
  let s := s.abortPlans Pc.revoked fun _ x => if (x.record.map (·.partition)) == some p then some none else none
  let s := s.stopTasks p
  ((List.range 128).filter fun o => s.rd F.dirSlot_partition o == p && (s.rd F.dirSlot_state o == 1 || s.rd F.dirSlot_state o == 2)).foldl
    startSweep s

/-- SEC_PART_CMD (R323): 1 CREATE, 2 REVOKE. -/
def partCommand (s : State) (op p : Nat) : State :=
  let res (s : State) (v : Nat) : State := s.wr F.secPartStatus_result p v
  let st := s.rd F.secPartStatus_state p
  if op ≠ 1 && op ≠ 2 then s
  else if !s.partitioned && p ≠ 0 then res s St.badRequest
  else if op = 1 then
    if st = 0 then (res s St.ok).wr F.secPartStatus_state p 1
    else if st = 3 then (res s St.ok).wr F.secPartStatus_state p 4
    else res s St.busy
  else if st = 2 then (res s St.ok).revoke p
  else if st = 4 then (res s St.ok).wr F.secPartStatus_state p 3
  else res s St.busy

/-- A partition's start completes at every unit (R323). -/
def partStarted (s : State) (p : Nat) : State :=
  if s.rd F.secPartStatus_state p = 1 then (s.wr F.secPartStatus_state p 2).partEvent p 2 else s

/-- Step 4 of Table 15-6 has ended. -/
def revokeDrainedOk (s : State) (p : Nat) : Bool :=
  s.revoking p && s.rd F.secPartStatus_inflight p == 0
    && (List.range 128).all (fun o => s.rd F.dirSlot_partition o != p || s.rd F.dirSlot_state o == 0)
    && !(s.clu.ctx.any fun e => e.2.task.partition == p)
    && !(s.xfr.run.any fun e => s.rd F.xfrQcfg_partition e.2.queue == p)
    && !(s.txns.any fun t => t.2.partition == p && (t.2.state == .preparing || t.2.state == .committed))

/-- An extent enters OFF in a teardown; a CREATE held on it is dropped. -/
def extRevoked (s : State) (e : Nat) : State :=
  let x := s.getExt e
  ((s.setExt e { x with held := none }).dropWalks (.withdraw e)).extOff e

/-- A register instance takes its reset value. -/
def clearInst (s : State) (r : Reg) (i : Nat) : State := s.setReg r i (r.reset i)

/-- Bindings of a partition are cleared: match entries, queues, address spaces, plans (Table 15-6, step 5). -/
def clearBindings (s : State) (p : Nat) : State :=
  let s := s.dirtyAll
  let groups := (List.range 1024).filter fun m => s.flag F.homGrpMatch_valid m && s.rd F.homGrpMatch_partition m == p
  let s := groups.foldl (fun s m => s.clearInst .homGrpMatch m) s
  let hq := (List.range 64).filter fun q => s.rd F.cluQcfg_partition q == p
  let s := hq.foldl (fun s q =>
    let s := [Reg.cluQcfg, .cluQring, .cluQcpl, .cluQptr].foldl (fun s r => s.clearInst r q) s
    s.uClu fun u => { u with
      reserved := u.reserved.del q, cphase := u.cphase.filter (· ≠ q), pass := u.pass.del q, recWait := u.recWait.filter (·.1 ≠ q) }) s
  let cq := (List.range 128).filter fun q => s.rd F.xfrQcfg_partition q == p
  let s := cq.foldl (fun s q =>
    let s := [Reg.xfrQcfg, .xfrQring, .xfrQcpl, .xfrRinger, .xfrQptr].foldl (fun s r => s.clearInst r q) s
    s.uClu fun u => { u with
      reserved := u.reserved.del (64 + q), cphase := u.cphase.filter (· ≠ 64 + q), pass := u.pass.del (64 + q)
      recWait := u.recWait.filter (·.1 ≠ 64 + q) }) s
  let s := s.dropCommands hq
  let spaces := (List.range 1024).filter fun a => s.flag F.ptuAs_valid a && s.rd F.ptuAs_partition a == p
  let s := spaces.foldl (fun s a => s.clearInst .ptuAs a) s
  let old (e : TcEntry) : Bool := spaces.contains e.asid
  let s := s.uPtu fun t => { t with
    tc := t.tc.filter fun e => !old e.2, core := t.core.map fun (e : Nat × List TcEntry) => (e.1, e.2.filter fun x => !old x)
    gen := t.gen.filter fun e => !spaces.contains e.1 }
  s.col.plans.foldl (fun s e => if (e.2.record.map (·.partition)) == some p then s.planOff e.1 else s) s

/-- Steps 5 and 6 of Table 15-6: the partition's state is gone, its keys are destroyed, and it enters OFF, or STARTING for a held CREATE. -/
def revokeDrained (s : State) (p : Nat) : State :=
  if !s.revokeDrainedOk p then s
  else
    let again := s.rd F.secPartStatus_state p == 4
    let s := (s.home.ext.filter fun e => e.2.state != .off && e.2.attr.partition == p).foldl (fun s e => s.extRevoked e.1) s
    let s := s.clearBindings p
    let s := ((List.range 256).filter fun k => s.rd F.secKeyStatus_state k != 0 && s.rd F.secKeyStatus_partition k == p).foldl eraseKey s
    let s := (s.wr F.secPartStatus_state p 0).partEvent p 0
    let waits := s.ras.fenceWait.filter fun f => s.coreMap f.1 == p + 16
    let s := s.uRas fun r => { r with fenceWait := r.fenceWait.filter fun f => !waits.contains f }
    let s := waits.foldl (fun s f => (s.fence f.1 f.2).stopFenced f.1) s
    if again then s.wr F.secPartStatus_state p 1 else s

/-! ### The mailbox (Table 15-4, R334) -/

/-- Recovery (R316). -/
def inRecovery (s : State) : Bool := s.rd F.rotStatus_cause != 0

/-- Bytes in ROT_MBOX_DATA from byte 0. -/
def putMbox (s : State) (b : List Byte) : State :=
  (List.range ((b.length + 3) / 4)).foldl (fun s w =>
    let word := (List.range 4).foldl (fun a i => a + ((b.getD (4 * w + i) 0).toNat) * 256 ^ i) 0
    s.wr F.rotMboxData_data w word) s

/-- The answer of a request. -/
def mboxAnswer (s : State) (q : MboxReq) (status : Nat) (b : List Byte) : State :=
  if q.mctp then s.uRot fun r => { r with mctp := r.mctp ++ [(status, b)] }
  else ((((s.putMbox b).wr F.rotMboxStatus_busy 0 0).wr F.rotMboxStatus_result 0 status).wr F.rotMboxStatus_len 0 b.length)

/-- Whether a request is allowed, by the status that refuses it (Table 15-4, R334). -/
def mboxRefused (s : State) (q : MboxReq) : Option Nat :=
  if q.mctp && !(2 ≤ q.cmd && q.cmd ≤ 7) then some St.noRights
  else if q.cmd = 0 || 7 < q.cmd then some St.badRequest
  else if q.cmd = 1 && s.inRecovery then some St.badRequest
  else if q.cmd = 7 && !q.mctp && !s.inRecovery then some St.badRequest
  else none

/-- A token names this device and the outstanding nonce, and both its signatures verify (R315, R331). -/
def tokenOk (s : State) (b : List Byte) : Bool :=
  let (id, nonce, _) := Config.tokenFields b
  decide (id = Config.identityDigest) && decide (s.rot.nonce = some nonce)
    && Config.tokenSigned ((s.image.map (·.digest)).getD 0) b

/-- Debug level 2 is granted once every partition is OFF (R331). -/
def grantInvasive (s : State) (q : MboxReq) : State :=
  let s := ((List.range 256).filter fun k => s.rd F.secKeyStatus_state k != 0).foldl eraseKey s
  let blind (p : PortLink) : PortLink := { p with keyWings := none, keyNext := none, keyLive := none }
  let s := { s with link := s.link.map fun (e : Nat × PortLink) => (e.1, blind e.2) }
  let s := (List.range 64).foldl (fun s n => s.setReg .secLinkStat n 0) s
  let s := (s.uRot fun r => { r with noKeys := true, unlocking := none }).wr F.rotStatus_debug 0 2
  s.measure.mboxAnswer q St.ok []

/-- A level 2 unlock that waits goes on when the last partition is OFF. -/
def unlockCheck (s : State) : State :=
  match s.rot.unlocking with
  | none => s
  | some q => if (List.range 16).all fun p => s.rd F.secPartStatus_state p == 0 then s.grantInvasive q else s

/-- A failed unlock attempt. -/
def unlockFailed (s : State) (q : MboxReq) : State :=
  let s := s.uRot fun r => { r with fails := r.fails + 1 }
  (s.wr F.rotStatus_fails 0 (min s.rot.fails 7)).mboxAnswer q St.noRights []

/-- DEBUG_UNLOCK (R331). -/
def debugUnlock (s : State) (q : MboxReq) : State :=
  let ok := s.rot.security && decide (s.rot.fails < 8) && s.tokenOk q.body
  let level := (Config.tokenFields q.body).2.2
  let s := s.uRot fun r => { r with nonce := none }
  if !ok || (level ≠ 1 && level ≠ 2) then s.unlockFailed q
  else if level = 1 then
    let s := s.wr F.rotStatus_debug 0 (max 1 (s.rd F.rotStatus_debug))
    s.measure.mboxAnswer q St.ok []
  else
    let s := (List.range 16).foldl (fun s p =>
      let st := s.rd F.secPartStatus_state p
      if st = 1 || st = 2 then s.revoke p else if st = 4 then s.wr F.secPartStatus_state p 3 else s) s
    (if q.mctp then s else s.wr F.rotMboxStatus_busy 0 1).uRot (fun r => { r with unlocking := some q }) |>.unlockCheck

/-- The flash areas of slots A and B (Table 17-1); the slot that FLASH_WRITE may reach. -/
def inSlot (b : Bool) (off n : Nat) : Bool :=
  let base := if b then 0x02000000 else 0x01000000
  decide (base ≤ off) && decide (off + n ≤ base + 0x01000000)

/-- A mailbox request is served (Table 15-4). -/
def mboxServe (s : State) (q : MboxReq) : State :=
  match s.mboxRefused q with
  | some st => s.mboxAnswer q st []
  | none =>
    match q.cmd with
    | 1 =>
      let s := s.uRot fun r => { r with counter := max r.counter r.svn }
      (s.wr F.rotStatus_svn 0 (s.rot.counter % 2 ^ 24)).measure.mboxAnswer q St.ok []
    | 2 =>
      let n := (List.range 32).map fun i => (Config.nonce s.rot.nonces).getD i 0
      (s.uRot fun r => { r with nonces := r.nonces + 1, nonce := some n }).mboxAnswer q St.ok n
    | 3 => s.debugUnlock q
    | 4 =>
      let ok := s.tokenOk q.body
      let s := s.uRot fun r => { r with nonce := none }
      if s.rot.bound then s.mboxAnswer q St.badRequest []
      else if ok then (s.uRot fun r => { r with bound := true }).mboxAnswer q St.ok []
      else s.mboxAnswer q St.noRights []
    | 5 =>
      let (off, n) := Config.flashSpan q.body
      if 4096 < n then s.mboxAnswer q St.badRequest [] else s.mboxAnswer q St.ok (Memory.bytes s.rot.flash off n)
    | 6 =>
      let (off, b) := Config.flashData q.body
      if 4096 < b.length then s.mboxAnswer q St.badRequest []
      else
        let mayA := s.inRecovery || s.flag F.rotStatus_slot
        let mayB := s.inRecovery || !s.flag F.rotStatus_slot
        if (mayA && inSlot false off b.length) || (mayB && inSlot true off b.length) then
          (s.uRot fun r => { r with flash := Memory.setBytes r.flash off b }).mboxAnswer q St.ok []
        else s.mboxAnswer q St.noRights []
    | _ => (s.mboxAnswer q St.ok []).coldBegin.coldRun

/-- Requests are served one at a time in arrival order (R334). -/
def mailbox (s : State) (q : MboxReq) : State :=
  if s.rot.unlocking.isSome then s.uRot fun r => { r with queue := r.queue ++ [q] } else s.mboxServe q

/-- Requests that waited for a level 2 unlock are served. -/
def mboxDrain (s : State) : State :=
  if s.rot.unlocking.isSome then s else s.rot.queue.foldl mailbox (s.uRot fun r => { r with queue := [] })

/-! ### Attestation (R318) -/

/-- Transports as numbers: DOE of host port 0 and 1, MCTP. -/
def transportNo : Transport → Nat
  | .doe h => h.val
  | .mctp => 2

/-- What an answer depends on beside its body: requests answered before in the transport, debug level, recovery. -/
def spdmState (s : State) (t : Nat) : Nat :=
  (s.rot.spdm.lookD t 0 * 4 + s.rd F.rotStatus_debug) * 2 + (s.inRecovery).toNat

/-- The root of trust answers a request; DOE needs the host port's link. -/
def attest (s : State) (t : Transport) (answer : List Byte) : State :=
  let n := transportNo t
  if n < 2 && !s.flag F.pciStatus_linkUp n then s
  else s.uRot fun r => { r with spdm := r.spdm.put n (r.spdm.lookD n 0 + 1), answers := r.answers ++ [(n, answer)] }

end State

/-! ### Meanings -/

/-- PARTITION_START_DONE (R323). -/
def execPartitionStartDone (p : Partition) (s : State) : Host.Outcome State Fault Refusal := .next (s.partStarted p.val).settle
/-- REVOKE_DRAINED (R330). -/
def execRevokeDrained (p : Partition) (s : State) : Host.Outcome State Fault Refusal :=
  .next (s.revokeDrained p.val).unlockCheck.mboxDrain.settle
/-- KEY_SWEEP_UNIT (R327). -/
def execKeySweepUnit (d : Die) (k : KeyId) (ecc : Upset) (s : State) : Host.Outcome State Fault Refusal :=
  .next (s.keySweep d.val k.val ecc).settle
/-- SPDM_REQUEST (R318). -/
def execSpdmRequest (t : Transport) (body : List Byte) (s : State) : Host.Outcome State Fault Refusal :=
  .next (s.attest t (Config.spdmAnswer (s.spdmState (State.transportNo t)) body)).settle
/-- PQ_SIGN (R318); with its keys cleared the root of trust can no longer sign (R331). -/
def execPqSign (t : Transport) (body : List Byte) (s : State) : Host.Outcome State Fault Refusal :=
  .next (s.attest t (if s.rot.noKeys then Config.spdmAnswer (s.spdmState (State.transportNo t)) body else Config.pqSignature body)).settle

end Sys2Proof.Machine
end

