-- ==== Sys2Proof/Machine/RegisterBus.lean ====
section
/-! DEFINITION. Register accesses (R6, R7, R374 to R389): who reaches a register, what a write of one word changes, what it starts,
and what a read returns. -/

namespace Sys2Proof.Machine

/-! ### Fields -/

/-- A value that a field's range admits (R7). -/
def Field.admits (f : Field) (v : Nat) : Bool :=
  (f.zeroOk && v == 0) ||
    (decide (f.min ≤ v) && (match f.max with | some m => decide (v ≤ m) | none => true) && f.excl != some v)

/-- The bits of a register that a field takes. -/
def Field.mask (f : Field) : BitVec 128 := BitVec.ofNat 128 ((2 ^ f.width - 1) * 2 ^ f.lo)

/-- A field that a write stores (Table 00-3). -/
def Field.stored (f : Field) : Bool := f.acc == .rw || f.acc == .rws

/-- A field that a write changes in some way. -/
def Field.writable (f : Field) : Bool := f.stored || f.acc == .wo || f.acc == .w1c

/-- The bits of a register's fields that `q` picks. -/
def Reg.bitsOf (r : Reg) (q : Field → Bool) : BitVec 128 :=
  r.fields.foldl (fun m f => if q f then m ||| f.mask else m) 0

/-- The bits of word k of a register. -/
def wordBits (k : Nat) : BitVec 128 := BitVec.ofNat 128 (0xFFFFFFFF * 2 ^ (32 * k))

/-- A write of one word: its path and node offset, the register's instance and word, the bits written and their values. A masked
write comes through an alias; `loader` marks an entry of the image. -/
structure WordWrite where
  path : Path
  off : Nat
  viaAlias : Bool := false
  loader : Bool := false
  reg : Reg
  inst : Nat
  word : Nat
  mask : BitVec 128
  data : BitVec 128
  deriving DecidableEq, Repr

/-- What a write makes of a register's value by the kinds of its fields (Tables 00-3, 18-4): stored fields take the bits written,
W1C fields lose them, WO fields hold them while the write acts. -/
def merge (r : Reg) (loader : Bool) (base mask data : BitVec 128) : BitVec 128 :=
  let rw := r.bitsOf fun f => f.stored || (loader && f.image)
  let w1c := r.bitsOf fun f => f.acc == .w1c
  let wo := r.bitsOf fun f => f.acc == .wo
  (base &&& ~~~(rw ||| w1c ||| wo)) ||| (((base &&& ~~~mask) ||| (data &&& mask)) &&& rw)
    ||| (base &&& ~~~(data &&& mask) &&& w1c) ||| (data &&& mask &&& wo)

/-- A field of `v` as it was in `old`. -/
def keepField (f : Nat × Nat) (old v : BitVec 128) : BitVec 128 := State.setBits v f.1 f.2 (State.bits old f.1 f.2)

/-- A field whose range a write is judged by: stored, or a command whose table marks the other values "ignored" (R7). -/
def Field.judged (f : Field) (loader : Bool) : Bool := f.stored || f.acc == .wo || (loader && f.image)

/-- Fields out of range keep their value; whether there was one (R7). -/
def judge (w : WordWrite) (base cand : BitVec 128) : BitVec 128 × Bool :=
  w.reg.fields.foldl (fun a f =>
    if f.judged w.loader && (f.mask &&& w.mask) != 0 && !f.admits (State.bits a.1 f.lo f.width)
    then (keepField (f.lo, f.width) base a.1, true) else a) (cand, false)

namespace State

/-! ### Records (R371, R389) -/

/-- An access is logged in MGT_VIOL (Table 18-6); accesses of the root of trust and the loader have no path there. -/
def logViol (s : State) (p : Path) (off : Nat) (write viaAlias : Bool) (cause : Nat) : State :=
  if p = .root then s
  else if s.flag F.mgtViol_valid then s.bump F.mgtViol_count 0
  else
    let (c, f, src) := pathCode p
    let s := ((s.wr F.mgtViol_offset 0 off).wrB F.mgtViol_write 0 write).wrB F.mgtViol_alias 0 viaAlias
    let s := ((s.wr F.mgtViol_cause 0 cause).wr F.mgtViol_path 0 c).wr F.mgtViol_function 0 f
    ((s.wr F.mgtViol_valid 0 1).wr F.mgtViol_count 0 1).wr F.mgtViolSrc_endpoint 0 src

/-- CFG_RANGE_ERR records a write that R7 leaves wholly or partly unapplied (R371). -/
def rangeErr (s : State) (p : Path) (off : Nat) : State :=
  if s.flag F.cfgRangeErr_valid then s.bump F.cfgRangeErr_count 0
  else
    let (c, f, _) := pathCode p
    let s := ((s.wr F.cfgRangeErr_offset 0 off).wr F.cfgRangeErr_source 0 c).wr F.cfgRangeErr_function 0 f
    (s.wr F.cfgRangeErr_valid 0 1).wr F.cfgRangeErr_count 0 1

/-! ### Masters (R381, R385 to R387) -/

/-- A fabric endpoint matches a valid MGT_TRUST entry, as in R39. -/
def trusted (s : State) (ep : Nat) : Bool :=
  (List.range 8).any fun i => s.flag F.mgtTrust_valid i && ((ep ^^^ s.rd F.mgtTrust_id i) &&& s.rd F.mgtTrust_mask i) == 0

/-- Registers of the root of trust. -/
def isRot : Reg → Bool
  | .rotStatus | .rotMboxCmd | .rotMboxStatus | .rotMboxData => true
  | _ => false

/-- The path is a secure master for a register (R386); in recovery the PF of host port 0 is one for the mailbox (R316). -/
def secure (s : State) (p : Path) (r : Reg) : Bool :=
  match p with
  | .root => true
  | .mgt src => s.trusted src.toNat
  | .host h f => s.flag F.secFn_secure (fnIdx h.val f.val) || (s.inRecovery && h == 0 && f == 0 && isRot r)

/-- An access that gets no further than its port (R376, R387, R388, Table 19-4): the state that it leaves. -/
def turnedAway (s : State) (p : Path) (off : Nat) (write : Bool) : Option State :=
  let st := s.rd F.pwrStatus_state
  let up := st == 3 || st == 4
  match p with
  | .root => none
  | .mgt src => if !up then some s else if s.trusted src.toNat then none else some (s.logViol p off write false 1)
  | .host h f =>
    if !up && !(s.inRecovery && h == 0 && f == 0) then some s
    else if f != 0 && !s.flag F.secFn_secure (fnIdx h.val f.val) then some (s.logViol p off write false 6)
    else none

/-- A register of a unit that is held in reset, or of a fenced core (R381). -/
def unitOff (s : State) (r : Reg) (i : Nat) : Bool :=
  let st := s.rd F.pwrStatus_state
  (!islandRegs.contains r && (st == 0 || st == 1 || st == 5)) ||
    (match r with
      | .corStatus | .corPfCtrl | .corScratchEcc | .engFlags | .engRfErr => s.kennel i
      | _ => false)

/-! ### Bounds between fields (R7) -/

/-- BURST of a bucket holds RATE × tick bytes (R303). -/
def burstOk (v : BitVec 128) (refill : Nat) : Bool := decide (bits v 32 12 * refill * 10 ≤ bits v 48 16 * 128)

/-- Credits of a port's 20 receive buffers, register `i` taken as `v` (R268). -/
def creditSum (s : State) (i : Nat) (v : BitVec 128) : Nat :=
  (List.range 5).foldl (fun a k =>
    let c := i / 8 * 8 + k
    let x := if c = i then v else s.reg .lnkCrdSize c
    a + bits x 0 11 + bits x 16 11 + bits x 32 11 + bits x 48 11) 0

/-- Fields of a register that a bound names which the value breaks. -/
def boundBroken (s : State) (r : Reg) (i : Nat) (v : BitVec 128) : List (Nat × Nat) :=
  match r with
  | .rteCtrl => if bits v 0 14 < 4 * bits v 14 10 then [(0, 14), (14, 10)] else []
  | .lnkAckTimeout => if 10 * bits v 0 7 < 2 * bits v 8 7 then [(0, 7), (8, 7)] else []
  | .lnkCrdSize => if 6144 < s.creditSum i v then [(0, 11), (16, 11), (32, 11), (48, 11)] else []
  | .homMigCtrl => if bits v 56 8 ≤ bits v 48 8 then [(48, 8), (56, 8)] else []
  | .qosLeash | .qosCatch => if burstOk v (s.rd F.qosCtrl_refill) then [] else [(32, 12), (48, 16)]
  | .qosCtrl =>
    if ((List.range 256).all fun k => burstOk (s.reg .qosLeash k) (bits v 8 7))
        && ((List.range 64).all fun k => burstOk (s.reg .qosCatch k) (bits v 8 7)) then [] else [(8, 7)]
  | _ => []

/-! ### Storing a value -/

/-- A protected field of a register instance has changed (R369). -/
def dirtyReg (s : State) (r : Reg) (i : Nat) : State :=
  match r.place.window with
  | .copied => s.dirtyAll
  | _ => s.dirty (r.homeDie i)

/-- A write takes effect: WO fields go back to zero, link key words are kept for the port. -/
def store (s : State) (w : WordWrite) (cand : BitVec 128) : State :=
  let v := if w.reg = .secLinkKey then cand else cand &&& ~~~(w.reg.bitsOf fun f => f.acc == .wo)
  let guard := w.reg.bitsOf fun f => w.reg.guards f && !f.wings && w.reg != .engFmt
  let changed := ((v ^^^ s.reg w.reg w.inst) &&& guard) != 0
  let s' := s.setReg w.reg w.inst v
  if changed then s'.dirtyReg w.reg w.inst else s'

/-- The write is ignored and raises WRITE_REFUSED (R432). -/
def refused (s : State) (w : WordWrite) : State := s.refuseWrite w.path w.off

/-! ### Registers with conditions (Table 17-9) -/

/-- A value names a partition that whole-device mode does not have (R319). -/
def otherPartition (s : State) (p : Nat) : Bool := !s.partitioned && p != 0

/-- A write of DIR_SLOT (R44). In a state other than FREE, a write that repeats the ENDPOINT and PARTITION that the slot holds is not refused for
them: DESIGN CHOICE, log 68. -/
def slotWrite (s : State) (w : WordWrite) (base cand : BitVec 128) : State :=
  let o := w.inst
  if s.otherPartition (bits cand 20 4) then s
  else
    let bound := s.rd F.dirSlot_state o != 0
    let moved := bits cand 0 24 != bits base 0 24
    let s := if bound then (if moved then s.refused w else s) else s.store w cand
    let cmd := bits cand 28 2
    if cmd = 0 then s
    else match s.slotCommand o cmd with
      | some t => t
      | none => s.refused w

/-- A write of HOM_GRP_MATCH (R40, R320). -/
def groupWrite (s : State) (w : WordWrite) (base cand : BitVec 128) : State :=
  if s.groupWriteOk base cand then s.store w cand
  else if s.partitioned && bits base 63 1 == 0 then s.refused w
  else s

/-- MAP of DMC_CTRL changes only while every tier-2 extent is OFF (R55). -/
def dmcWrite (s : State) (w : WordWrite) (base cand : BitVec 128) : State :=
  let held := s.home.ext.any fun x => x.2.state != .off && x.2.attr.tier2
  s.store w (if held then keepField (14, 2) base cand else cand)

/-- A write of HOM_MIG_RESERVE (R75). -/
def reserveWrite (s : State) (w : WordWrite) (cand : BitVec 128) : State :=
  let d := w.inst
  if s.usedFrames d != 0 then s
  else if bits cand 12 1 == 1 && !s.reserveOk d (bits cand 0 12) then s.refused w
  else (s.store w cand).refreshFree d

/-- An enabled queue names an address space (R182). -/
def spaceInUse (s : State) (a : Nat) : Bool :=
  ((List.range 64).any fun q => s.flag F.cluQcfg_enable q && s.rd F.cluQcfg_asid q == a)
    || (List.range 128).any fun q => s.flag F.xfrQcfg_enable q && s.rd F.xfrQcfg_asid q == a

/-- A write of PTU_AS (R182). -/
def spaceWrite (s : State) (w : WordWrite) (base cand : BitVec 128) : State :=
  let a := w.inst
  if s.otherPartition (bits cand 52 4) then s
  else if bits base 63 1 == 1 && s.spaceInUse a then s
  else
    let s := s.store w cand
    if bits cand 63 1 == 1 && w.mask.getLsbD 63 then s.uPtu fun u => { u with gen := u.gen.del a } else s

/-- A task of a host queue has not ended (R175). -/
def hostBusy (s : State) (q : Nat) : Bool :=
  !(s.clu.window.lookD q []).isEmpty || (s.clu.ctx.any fun e => e.2.task.queue == some q)
    || s.clu.saved.any fun v => v.ctx.task.queue == some q

/-- A descriptor of a copy queue has not ended (R218). -/
def copyBusy (s : State) (q : Nat) : Bool := s.xfr.run.any fun r => r.2.queue == q

/-- A ring of n bytes lies in extents in ON of a partition (R175). -/
def ringOn (s : State) (p off n : Nat) : Bool := (s.onExtent p off).isSome && (s.onExtent p (off + n - 1)).isSome

/-- Enabling a queue takes effect (R175): its address space, and both its rings. -/
def enableOk (s : State) (part asid size ring entry cpl : Nat) : Bool :=
  s.flag F.ptuAs_valid asid && s.rd F.ptuAs_partition asid == part
    && s.ringOn part (ring * 4096) (entry * 2 ^ size) && s.ringOn part (cpl * 4096) (64 * 2 ^ size)

/-- A write of CLU_QCFG or XFR_QCFG; `ok` judges the value under which the queue would be enabled (R175, R218). -/
def queueWrite (s : State) (w : WordWrite) (base cand : BitVec 128) (busy : Bool) (ok : BitVec 128 → Bool) : State :=
  let on (v : BitVec 128) : Bool := bits v 8 1 == 1
  if s.otherPartition (bits cand 4 4) then s
  else
    let new := if on base || busy then setBits base 8 1 (bits cand 8 1) else cand
    if on new && !on base && !ok new then s.refused w else s.store w new

def hostQueueWrite (s : State) (w : WordWrite) (base cand : BitVec 128) : State :=
  let q := w.inst
  s.queueWrite w base cand (s.hostBusy q) fun v =>
    s.enableOk (bits v 4 4) (bits v 12 10) (bits v 0 4) (s.rd F.cluQring_offset q) 64 (s.rd F.cluQcpl_offset q)

def copyQueueWrite (s : State) (w : WordWrite) (base cand : BitVec 128) : State :=
  let q := w.inst
  s.queueWrite w base cand (s.copyBusy q) fun v =>
    s.enableOk (bits v 4 4) (bits v 12 10) (bits v 0 4) (s.rd F.xfrQring_offset q) 128 (s.rd F.xfrQcpl_offset q)

/-- A write of CLU_SAVE (R191). -/
def saveWrite (s : State) (w : WordWrite) (cand : BitVec 128) : State :=
  let p := w.inst
  if s.otherPartition p || s.clu.saved.any fun v => v.partition == p then s else (s.store w cand).refreshSave p

/-- A route entry's bank is the stage bank of some unit, or is held (R254). -/
def bankInUse (s : State) (b : Nat) : Bool :=
  ([0, 1, 2, 3].any fun d => s.stg F.rteBank_inj 0 d false == b || s.stg F.rteBank_inj 0 d true == b)
    || s.flag (if b = 0 then F.rteBank_held_0 else F.rteBank_held_1)

/-- A write of RTE_ROUTE (R254). -/
def routeWrite (s : State) (w : WordWrite) (cand : BitVec 128) : State :=
  let b := w.inst / 4096
  if s.bankInUse b then s.raise { type := 0x0701, sev := 1, arg := BitVec.ofNat 8 b :: leBytes (w.inst % 4096) 2 }
  else s.store w cand

/-- A write of SEC_CORE_MAP (R319): a core moves only while it holds no task. -/
def coreMapWrite (s : State) (w : WordWrite) (base cand : BitVec 128) : State :=
  let k := w.inst
  let moved := (List.range 9).filter fun j => bits base (5 * j) 5 != bits cand (5 * j) 5
  if (List.range 9).any fun j => s.otherPartition (bits cand (5 * j) 4) then s
  else if moved.any fun j => !(s.ctxOf (9 * k + j)).isEmpty then s.refused w
  else s.store w cand

/-- A write of SEC_PORT_MAP (R319): a port moves only while its link is DISABLED or DOWN. -/
def portMapWrite (s : State) (w : WordWrite) (base cand : BitVec 128) : State :=
  let st := s.linkState w.inst
  if s.otherPartition (bits cand 0 4) then s
  else if cand != base && st != 0 && st != 5 then s.refused w
  else s.store w cand

/-- A write of SEC_FN (R319): a function moves only while its Bus Master Enable is 0. -/
def fnMapWrite (s : State) (w : WordWrite) (base cand : BitVec 128) : State :=
  if s.otherPartition (bits cand 0 4) then s
  else if cand != base && s.pci.bme.contains w.inst then s.refused w
  else s.store w cand

/-- Two valid leashes would share port, endpoint and class (R301). -/
def leashTwice (s : State) (i : Nat) (v : BitVec 128) : Bool :=
  bits v 28 1 == 1 && (List.range 256).any fun k =>
    k != i && s.flag F.qosLeash_valid k && bits (s.reg .qosLeash k) 0 28 == bits v 0 28

/-! ### Event queues (R390, R393) -/

/-- Setting ENABLE of an event queue takes effect. -/
def evqEnableOk (s : State) (e : Nat) (v : BitVec 128) : Bool :=
  let h := bits v 5 1
  let f := bits v 6 4
  s.flag F.pciStatus_linkUp h && decide (bits v 10 6 < if f = 0 then 64 else 8)
    && (e == 16 || f == 0 || (s.flag F.secFn_valid (fnIdx h f) && s.rd F.secFn_partition (fnIdx h f) == e))

/-- A write of MGT_EVQ_CFG (R390). -/
def evqCfgWrite (s : State) (w : WordWrite) (base cand : BitVec 128) : State :=
  let e := w.inst
  let on (v : BitVec 128) : Bool := bits v 4 1 == 1
  if on base then (if on cand then s else s.evqOff e)
  else if !on cand then s.store w cand
  else if !s.evqEnableOk e cand then s.refused w
  else ((s.store w cand).uEvt fun v => { v with armed := if v.armed.contains e then v.armed else v.armed ++ [e] }).evqDeliver

/-- A write of HEAD arms the queue; records still unread bring a further message (R393). -/
def evqHead (s : State) (w : WordWrite) (cand : BitVec 128) : State :=
  let e := w.inst
  let s := s.store w cand
  if !s.flag F.mgtEvqCfg_enable e then s
  else
    let s := s.uEvt fun v => { v with armed := if v.armed.contains e then v.armed else v.armed ++ [e] }
    if s.rd F.mgtEvqPtr_head e = s.rd F.mgtEvqPtr_tail e then s else s.evqMessage e false

/-! ### Commands -/

/-- Bytes 0 to n - 1 of ROT_MBOX_DATA. -/
def mboxBody (s : State) (n : Nat) : List Byte :=
  (List.range n).map fun i => BitVec.ofNat 8 (s.rd F.rotMboxData_data (i / 4) / 256 ^ (i % 4))

/-- ROT_MBOX_CMD: GO sends the request (R334). -/
def mboxGo (s : State) (cand : BitVec 128) : State :=
  if bits cand 31 1 = 1 then ((s.mailbox ⟨false, bits cand 0 8, s.mboxBody (min (bits cand 8 13) 4096)⟩)).mboxDrain else s

/-- SEC_KEY_CMD (R326). -/
def keyGo (s : State) (cand : BitVec 128) : State :=
  let op := bits cand 12 2
  if op = 0 then s
  else
    let (st, s) := s.keyCommand op (bits cand 0 8) (bits cand 8 4)
    s.wr F.secKeyResult_result 0 st

/-- HOM_EXT_CMD: a write of its high word runs the command (R36, R38, R212); before READY it completes with BUSY (Table 19-4). -/
def extGo (s : State) : State :=
  if s.flag F.homExtStatus_busy then s
  else if s.rd F.pwrStatus_state ≠ 4 then
    let e := s.rd F.homExtCmd_extId
    ((s.wr F.homExtStatus_extId 0 e).wr F.homExtStatus_state 0 (s.getExt e).state.code).wr F.homExtStatus_result 0 St.busy
  else (if s.rd F.homExtCmd_op = 3 then s.plansOfExtent (s.rd F.homExtCmd_extId) else s).runExtCommand

/-- The partition of the function that writes, where it has one (R319). -/
def pathPartition (s : State) : Path → Option Nat
  | .host h f => if f != 0 && s.flag F.secFn_valid (fnIdx h.val f.val) then some (s.rd F.secFn_partition (fnIdx h.val f.val)) else none
  | _ => none

/-- LAN_TEST is accepted only on a disabled link (R297). -/
def lanTestWrite (s : State) (w : WordWrite) (base cand : BitVec 128) : State :=
  let i := w.inst
  if s.flag F.lnkCtrl_enable (i / 8) then s
  else
    let s := s.store w cand
    let s := if bits cand 4 1 = 1 then s.wr F.lanTest_errors i 0 else s
    if bits cand 2 2 = bits base 2 2 then s else s.wr F.lanTest_sync i 0

/-- What a write does that passed R7: its conditions, its storing, and what it starts. -/
def perform (s : State) (w : WordWrite) (base cand : BitVec 128) : State :=
  let i := w.inst
  match w.reg with
  | .topNodeId => if s.nodeIdFree then s.store w cand else s
  | .homGrpMatch => s.groupWrite w base cand
  | .dirSlot => s.slotWrite w base cand
  | .dmcCtrl => s.dmcWrite w base cand
  | .homMigReserve => s.reserveWrite w cand
  | .ptuAs => s.spaceWrite w base cand
  | .cluQcfg => s.hostQueueWrite w base cand
  | .cluQring | .cluQcpl => if s.flag F.cluQcfg_enable i || s.hostBusy i then s else s.store w cand
  | .xfrQcfg => s.copyQueueWrite w base cand
  | .xfrQring | .xfrQcpl => if s.flag F.xfrQcfg_enable i || s.copyBusy i then s else s.store w cand
  | .cluSave => s.saveWrite w cand
  | .rteRoute => s.routeWrite w cand
  | .secCoreMap => s.coreMapWrite w base cand
  | .secPortMap => s.portMapWrite w base cand
  | .secFn => s.fnMapWrite w base cand
  | .qosLeash => if s.leashTwice i cand then s.refused w else s.store w cand
  | .mgtEvqBase => if s.flag F.mgtEvqCfg_enable i then s else s.store w cand
  | .mgtEvqCfg => s.evqCfgWrite w base cand
  | .mgtEvqPtr => s.evqHead w cand
  | .lanTest => s.lanTestWrite w base cand
  | .mgtViol => if (bits (w.mask &&& w.data) 31 1) = 1 then (s.setReg .mgtViol 0 0).setReg .mgtViolSrc 0 0 else s
  | .cfgRangeErr => if (bits (w.mask &&& w.data) 31 1) = 1 then s.setReg .cfgRangeErr 0 0 else s
  | .cluSeqCmd =>
    if s.flag F.cluSeqStatus_busy then s else (s.store w cand).seqCommand (bits cand 28 2) (s.pathPartition w.path)
  | .rotMboxCmd => (s.store w cand).mboxGo cand
  | .secPartCmd => (s.store w cand).partCommand (bits cand 4 2) (bits cand 0 4)
  | .secKeyCmd => (s.store w cand).keyGo cand
  | .secLinkKey => if i % 8 = 7 then (s.store w cand).linkKey (i / 8) else s.store w cand
  | .lanCtrl => (s.store w cand).unretire i (bits cand 10 8)
  | .lanEye => if bits cand 19 1 = 1 then (s.store w cand).eyeGo (i / 8) (i % 8) else s.store w cand
  | .lnkCtrl => (s.store w cand).linkCommand i (bits cand 1 1 == 1)
  | .homExtCmd => if w.word = 1 then (s.store w cand).extGo else s.store w cand
  | .homMigCmd =>
    if w.word = 1 then (s.store w cand).migCommand i (bits cand 0 36) (bits cand 36 2) (bits cand 38 2) else s.store w cand
  | .txnKill => if bits cand 31 1 = 1 then (s.store w cand).openerLost (BitVec.ofNat 20 (bits cand 0 20)) else s.store w cand
  | .mscCtrl => if bits cand 16 1 = 1 then (s.store w cand).mscFlush i else s.store w cand
  | .xfrQcmd => if bits cand 8 2 = 1 then (s.store w cand).abortQueue (bits cand 0 7) else s.store w cand
  | .cluQptr => if w.word = 1 then (s.store w cand).flushRecs else s.store w cand
  | .colKill =>
    if bits cand 31 1 = 1 then (s.store w cand).loseParticipants (fun e => e.toNat == bits cand 0 20) else s.store w cand
  | .colPlanCmd => if bits cand 8 2 = 0 then s.store w cand else (s.store w cand).planCommand (bits cand 0 6) (bits cand 8 2)
  | .colPortRsv => if bits cand 31 1 = 1 then (s.store w cand).purgeRsv i else s.store w cand
  | .rasCmd => if bits cand 8 3 = 0 then s.store w cand else (s.store w cand).rasCommand (bits cand 8 3) (bits cand 0 8)
  | .cfgCrcRef => (s.store w cand).crcRefWritten i
  | .cfgCrcStatus => if bits cand 2 1 = 1 then (s.store w cand).crcCommit i else s.store w cand
  | .pwrCmd => (s.store w cand).powerCommand (bits cand 0 3)
  | _ => s.store w cand

/-! ### Format descriptors (R135, R136) -/

/-- A user entry that meets Table 06-8a. -/
def formatOk (s : State) (v : BitVec 128) : Bool :=
  let cls := bits v 0 4
  let width := bits v 8 5
  let exp := bits v 16 4
  let man := bits v 20 5
  let spec := bits v 40 2
  bits v 4 1 == 1 &&
    (match cls with
      | 0 =>
        (width == 4 || width == 6 || width == 8 || width == 16) && width == 1 + exp + man
          && (if width = 16 then decide (5 ≤ exp) && decide (exp ≤ 8) else decide (1 ≤ exp) && decide (exp ≤ 5))
          && spec != 3 && (spec != 0 || decide (2 ≤ exp)) && (spec != 1 || decide (1 ≤ man))
      | 1 => width == 8 && exp == 0 && man == 7 && bits v 32 8 == 0 && spec == 2
      | 2 =>
        let e := s.reg .engFmt (bits v 48 6)
        bits e 4 1 == 1 && (bits e 0 4 == 0 || bits e 0 4 == 1)
          && (bits e 8 5 == 4 || bits e 8 5 == 6 || bits e 8 5 == 8)
          && (bits v 56 7 == 16 || bits v 56 7 == 32 || bits v 56 7 == 64)
          && width == 0 && exp == 0 && man == 0 && bits v 32 8 == 0 && spec != 3
      | _ => false)

/-- Words 0 to 2 of an entry as a submission would take them. -/
def formatWord (s : State) (i k : Nat) : Word := s.fmtBuf.lookD (4 * i + k) (BitVec.ofNat 32 (bits (s.reg .engFmt i) (32 * k) 32))

/-- FORMAT_REJECTED (Table 21-2). -/
def formatRejected (s : State) (i : Nat) : State :=
  s.raise { type := 0x1201, sev := 1, status := St.badRequest, arg := [BitVec.ofNat 8 i] }

/-- Word 3 submits the entry to the wings (R135, R136). -/
def formatSubmit (s : State) (i : Nat) : State :=
  let v := BitVec.ofNat 128 ((s.formatWord i 0).toNat + (s.formatWord i 1).toNat * 2 ^ 32 + (s.formatWord i 2).toNat * 2 ^ 64)
  if s.formatOk v then
    ({ s with fmtBuf := ((s.fmtBuf.del (4 * i)).del (4 * i + 1)).del (4 * i + 2) } : State).setReg .engFmt i v
  else s.formatRejected i

/-- A write of a word of ENG_FMT: entries 0 to 15 are read-only. -/
def formatWrite (s : State) (w : WordWrite) : State :=
  let i := w.inst
  if i < 16 then s
  else if w.word = 3 then s.formatSubmit i
  else
    let base := BitVec.ofNat 128 ((s.formatWord i w.word).toNat * 2 ^ (32 * w.word))
    let (cand, bad) := judge w base (merge .engFmt false base w.mask w.data)
    let s := { s with fmtBuf := s.fmtBuf.put (4 * i + w.word) (BitVec.ofNat 32 (bits cand (32 * w.word) 32)) }
    if bad then (s.rangeErr w.path w.off).refused w else s

/-! ### A write of one word (R7, R383 to R385) -/

/-- The value a write starts from: WO fields read zero (Table 00-3). -/
def writeBase (s : State) (w : WordWrite) : BitVec 128 := s.reg w.reg w.inst &&& ~~~(w.reg.bitsOf fun f => f.acc == .wo)

/-- A write of one word of a register, at its unit. -/
def writeWord (s : State) (w : WordWrite) : State :=
  if w.mask = 0 || s.unitOff w.reg w.inst then s
  else
    let base := s.writeBase w
    let sec := w.reg.bitsOf (·.sec)
    let barred := !s.secure w.path w.reg
    let touches := ((merge w.reg false base w.mask w.data ^^^ base) &&& sec) != 0 || (w.viaAlias && (w.mask &&& sec) != 0)
    let s := if barred && touches then s.logViol w.path w.off true w.viaAlias 1 else s
    let w := if barred then { w with mask := w.mask &&& ~~~sec } else w
    if w.reg = .engFmt then s.formatWrite w
    else if barred && (w.reg.bitsOf (fun f => f.writable && !f.sec) &&& wordBits w.word) == 0 then s
    else
      let (cand, bad) := judge w base (merge w.reg false base w.mask w.data)
      let broken := s.boundBroken w.reg w.inst cand
      let cand := broken.foldl (fun v f => keepField f base v) cand
      let s := if bad || !broken.isEmpty then (s.rangeErr w.path w.off).refused w else s
      s.perform w base cand

/-! ### Ways to a register (R378 to R380, R383, R387, R388) -/

/-- Die and die offset of a node offset (R378). -/
def dieSpan : Nat := 2 ^ 26

/-- A word write at a node offset, by the windows of Table 18-3. -/
def windowWrite (s : State) (p : Path) (off : Nat) (viaAlias : Bool) (mask data : Nat) : State :=
  let d := off / dieSpan
  match locate (off % dieSpan) with
  | none => s.logViol p off true viaAlias 3
  | some (r, i, k) =>
    let cause := match r.place.window with
      | .copied => if d = 0 then 0 else 2
      | .zero => if d = 0 then 0 else 3
      | .unit => if r.dieOf i = d then 0 else 3
      | .perDie => 0
    if cause ≠ 0 then s.logViol p off true viaAlias cause
    else s.writeWord { path := p, off := off, viaAlias := viaAlias, reg := r, inst := r.inst d i, word := k
                       mask := BitVec.ofNat 128 (mask * 2 ^ (32 * k)), data := BitVec.ofNat 128 (data * 2 ^ (32 * k)) }

/-- An ordinary write of 4 or 8 bytes (R380). -/
def busWrite (s : State) (p : Path) (off bytes : Nat) (data : DWord) : State :=
  match s.turnedAway p off true with
  | some t => t
  | none =>
    if bytes = 4 && off % 4 == 0 then s.windowWrite p off false 0xFFFFFFFF (data.toNat % 2 ^ 32)
    else if bytes = 8 && off % 8 == 0 then
      (s.windowWrite p off false 0xFFFFFFFF (data.toNat % 2 ^ 32)).windowWrite p (off + 4) false 0xFFFFFFFF (data.toNat / 2 ^ 32)
    else s.logViol p off true false 4

/-- A masked write through an alias of a physical function's BAR2 (R383); no other path has one. -/
def aliasWrite (s : State) (p : Path) (off : Nat) (high : Bool) (bytes : Nat) (data : Word) : State :=
  match p with
  | .host _ f =>
    if f != 0 then s
    else match s.turnedAway p off true with
      | some t => t
      | none =>
        if bytes ≠ 4 || off % 4 != 0 then s.logViol p off true true 4
        else
          let sh := if high then 65536 else 1
          let mask := data.toNat / 65536
          if mask = 0 then s else s.windowWrite p off true (mask * sh) (data.toNat % 65536 * sh)
  | _ => s

/-- Node offset of a register's word. -/
def nodeOffset (r : Reg) (i k : Nat) : Nat := r.homeDie i * dieSpan + r.offsetOf i + 4 * k

/-- A write of one register's word by its name, as its row in the table commands it. -/
def regWrite (s : State) (p : Path) (r : Reg) (i k : Nat) (data : Nat) : State :=
  let off := nodeOffset r i k
  match s.turnedAway p off true with
  | some t => t
  | none => s.writeWord { path := p, off := off, reg := r, inst := i, word := k, mask := wordBits k
                          data := BitVec.ofNat 128 (data % 2 ^ 32 * 2 ^ (32 * k)) }

/-- Both words of a 64-bit register, the low word first (R380). -/
def regWrite2 (s : State) (p : Path) (r : Reg) (i : Nat) (data : DWord) : State :=
  (s.regWrite p r i 0 (data.toNat % 2 ^ 32)).regWrite p r i 1 (data.toNat / 2 ^ 32)

/-! ### The partition page (R388, Table 18-5) -/

/-- The register of a page offset, with its word and the partition that owns it. -/
def pageReg (s : State) (part off : Nat) : Option (Reg × Nat × Nat × Bool) :=
  if off < 0x200 then some (.cluQptr, off / 8, off % 8 / 4, s.rd F.cluQcfg_partition (off / 8) == part)
  else if 0x400 ≤ off && off < 0x800 then
    some (.xfrQptr, (off - 0x400) / 8, off % 8 / 4, s.rd F.xfrQcfg_partition ((off - 0x400) / 8) == part)
  else if off = 0x1000 then some (.mgtEvqPtr, part, 0, true)
  else if off = 0x1004 then some (.mgtEvqDrop, part, 0, true)
  else if off = 0x1008 then some (.staPeriod, 0, 0, true)
  else none

/-- A word write of a VF through its page. -/
def pageWrite (s : State) (h : Fin 2) (f : Fin 16) (off data : Nat) : State :=
  let p : Path := .host h f
  let x := s.pageReg (s.rd F.secFn_partition (fnIdx h.val f.val)) off
  let at' := match x with
    | some (r, i, k, _) => nodeOffset r i k
    | none => off
  if !s.flag F.secFn_valid (fnIdx h.val f.val) then s.logViol p at' true false 5
  else match x with
    | none => s.logViol p at' true false 3
    | some (r, i, k, mine) =>
      if !mine then s.logViol p at' true false 5
      else s.writeWord { path := p, off := at', reg := r, inst := i, word := k, mask := wordBits k
                         data := BitVec.ofNat 128 (data % 2 ^ 32 * 2 ^ (32 * k)) }

/-- A virtual function's page is served. -/
def pageServed (s : State) (f : Fin 16) : Bool := f != 0 && (s.rd F.pwrStatus_state == 3 || s.rd F.pwrStatus_state == 4)

/-- A write through the page: 4 or 8 bytes, as in an ordinary window. -/
def pageAccess (s : State) (p : Path) (off bytes : Nat) (data : DWord) : State :=
  match p with
  | .host h f =>
    if !s.pageServed f then s
    else if bytes = 4 && off % 4 == 0 then s.pageWrite h f off (data.toNat % 2 ^ 32)
    else if bytes = 8 && off % 8 == 0 then
      (s.pageWrite h f off (data.toNat % 2 ^ 32)).pageWrite h f (off + 4) (data.toNat / 2 ^ 32)
    else s.logViol p off true false 4
  | _ => s

/-- A write of a register that partitions share: a VF without secure status reaches it through its page, at `page`. -/
def ringWrite (s : State) (p : Path) (r : Reg) (i k page : Nat) (data : Nat) : State :=
  match p with
  | .host h f =>
    if f != 0 && !s.flag F.secFn_secure (fnIdx h.val f.val) then (if s.pageServed f then s.pageWrite h f page data else s)
    else s.regWrite p r i k data
  | _ => s.regWrite p r i k data

/-! ### Reads (R379, R381, R385) -/

/-- A history record as RAS_HIST_DATA shows it (Table 16-3). -/
def histBits (h : HistRec) : Nat :=
  h.inst % 2 ^ 12 + h.cls % 16 * 2 ^ 12 + h.kind % 256 * 2 ^ 16 + h.fenced.toNat * 2 ^ 24 + h.retired.toNat * 2 ^ 25
    + h.repeated.toNat * 2 ^ 26 + h.count % 2 ^ 16 * 2 ^ 32 + h.total % 2 ^ 16 * 2 ^ 48 + h.last % 2 ^ 32 * 2 ^ 64

/-- The value of a register of a unit that is off: its reset value, with the role that R350 gives a core (Table 06-1). -/
def offValue (s : State) (r : Reg) (i : Nat) : BitVec 128 :=
  if r = .corStatus then
    if s.kennel i then 2
    else if i % 9 = 8 && !((List.range 8).any fun k => s.kennel (i / 9 * 9 + k)) then 1
    else 0
  else r.reset i

/-- The whole value that a register shows: WO fields read zero. -/
def shown (s : State) (r : Reg) (i : Nat) : BitVec 128 :=
  if s.unitOff r i then s.offValue r i
  else if r = .rasHistData then
    match s.ras.hist[s.rd F.rasHistIdx_index]? with
    | some h => BitVec.ofNat 128 (histBits h / 2 ^ (32 * i) % 2 ^ 32)
    | none => 0
  else s.reg r i &&& ~~~(r.bitsOf fun f => f.acc == .wo)

/-- A read of the word at a node offset: its value, and the state with the access logged. -/
def readWord (s : State) (p : Path) (off : Nat) : Word × State :=
  let d := off / dieSpan
  match locate (off % dieSpan) with
  | none => (0, s)
  | some (r, i, k) =>
    let here := match r.place.window with
      | .zero => d == 0
      | .unit => r.dieOf i == d
      | _ => true
    if !here then (0, s)
    else
      let sec := r.bitsOf (·.sec)
      let v := s.shown r (r.inst d i)
      let barred := !s.secure p r && (sec &&& wordBits k) != 0
      (BitVec.ofNat 32 (bits (if barred then v &&& ~~~sec else v) (32 * k) 32), if barred then s.logViol p off false false 1 else s)

/-! ### MGT_RD and MGT_WR (R387) -/

/-- The answer to a management request, back over the link that brought it when the request was link-local (R233). -/
def mgtAnswer (s : State) (n : Nat) (q : Packet) (op status : Nat) (data : Word) : State :=
  let far := q.destNode == 0xFFF
  let node := if far then 0xFFF else q.src.toNat / 256
  let a : Packet := { opcode := BitVec.ofNat 8 op, chan := 4, src := s.endpoint 0xF0, tag := q.tag, cls := q.cls
                      dlocal := BitVec.ofNat 8 q.src.toNat, addr := BitVec.ofNat 64 (node * 2 ^ 52), sub := BitVec.ofNat 6 status
                      len := if op = Op.mgtData then 1 else 0, data := data.setWidth 1024 }
  if far then
    let b := s.injBank (portDie n) true
    (s.uLink n fun l => { l with txq := l.txq ++ [{ a with bank := b }] }).inflightAdd (portDie n) b
  else s.send 0 a

/-- A management request from port n. -/
def mgtAccess (s : State) (n : Nat) (q : Packet) (write : Bool) : State :=
  let s := s.uFab fun v => { v with mgtq := v.mgtq.erase (q, n) }
  let st := s.rd F.pwrStatus_state
  let p : Path := .mgt q.src
  let off := q.addr.toNat % 2 ^ 28
  let op := if write then Op.mgtDone else Op.mgtData
  if st ≠ 3 && st ≠ 4 then s
  else if !formOk q || q.resv then s.malformed 0
  else if !s.trusted q.src.toNat then (s.logViol p off write false 1).mgtAnswer n q op St.noRights 0
  else if (locate (off / 4 * 4 % dieSpan)).isNone then
    (if write then s.logViol p off true false 3 else s).mgtAnswer n q op St.badRequest 0
  else if off % 4 ≠ 0 then (s.logViol p off write false 4).mgtAnswer n q op St.ok 0
  else if write then (s.windowWrite p off false 0xFFFFFFFF (bits (q.data.setWidth 128) 0 32)).mgtAnswer n q op St.ok 0
  else
    let (v, s) := s.readWord p off
    s.mgtAnswer n q op St.ok v

end State

end Sys2Proof.Machine
end

