-- ==== Sys2Proof/Machine/Image.lean ====
section
/-! DEFINITION. The configuration loader (R359 to R361) and the release of the node (Table 19-4, steps 5 and 6). -/

namespace Sys2Proof.Machine

/-- Every unit of a wings register: rank side and die. -/
def wingHolders (r : Reg) : List (Nat × Bool) := (State.wingUnits r).flatMap fun u => [0, 1, 2, 3].map fun d => (d, u.2)

namespace State

/-- IMAGE_ENTRY (Table 21-2). -/
def imageEntry (s : State) (kind i : Nat) : State :=
  s.raise { type := 0x1603, sev := 1, status := St.badRequest, arg := leBytes kind 2 ++ leBytes i 2 }

/-- The entries of a section that are out of range are named by an event each (R361). -/
def nameBad (s : State) (kind : Nat) (bad : List Nat) : State := bad.foldl (fun s i => s.imageEntry kind i) s

/-- Entries of a list, each replaced by its default where it is out of range; and the places replaced. -/
def takeEntries {α : Type} (ok : Nat → α → Bool) (l : List α) (dflt : Nat → Option α) : List α × List Nat :=
  let n := (List.range l.length).zip l
  (n.filterMap (fun e => if ok e.1 e.2 then some e.2 else dflt e.1), (n.filter fun e => !ok e.1 e.2).map (·.1))

/-- A wings register takes a value in its wings and in every stage. -/
def loadWings (s : State) (r : Reg) (i : Nat) (v : BitVec 128) : State :=
  (wingHolders r).foldl (fun s u => s.putStage r i u.1 u.2 v) (s.setReg r i v)

/-! ### Sections (Tables 17-5, 17-6) -/

/-- SECURITY: the isolation mode with the ownership that goes with it, and secure status (R319, R322). -/
def loadSecurity (s : State) (i : ImageInfo) : State :=
  let mode := (i.security.map (·.1)).getD false
  let s := s.wrB F.secCtrl_mode 0 mode
  let s := if i.modeBad then s.imageEntry 0x0B 0 else s
  let s := [0, 1].foldl (fun s h => s.portFns h fnSecure) s
  if mode then
    let s := s.setReg .secPartStatus 0 0
    (List.range 16).foldl (fun s k => s.setReg .secCoreMap k 0) s
  else s

/-- CONTROLLER: drain levels; a stop lies below its start (Table 03-3). -/
def loadDrain (s : State) (i : ImageInfo) : State :=
  let v (k : Nat) : Nat := i.drain.getD k 0
  let a := if decide (16 ≤ v 0) && decide (v 0 ≤ 127) then v 0 else 96
  let b := if v 1 < a then v 1 else min 32 (a - 1)
  let c := if decide (8 ≤ v 2) && decide (v 2 ≤ 63) then v 2 else 48
  let d := if v 3 < c then v 3 else min 16 (c - 1)
  let bad := ((List.range 4).zip [a, b, c, d]).filterMap fun e => if v e.1 = e.2 then none else some e.1
  ({ s with tab := { s.tab with drain := [a, b, c, d] } } : State).nameBad 0x0A bad

/-- REFRESH: both curves. -/
def loadRefresh (s : State) (i : ImageInfo) : State :=
  let dflt := s.tab.refreshStk ++ s.tab.refreshDmc
  let (l, bad) := takeEntries (fun _ x => x == 1 || x == 2 || x == 4) i.refresh (fun k => dflt[k]?)
  ({ s with tab := { s.tab with refreshStk := l.take 26, refreshDmc := l.drop 26 } } : State).nameBad 0x04 bad

/-- SELF_REFRESH: the idle times of stacks and channels. -/
def loadSelfRefresh (s : State) (i : ImageInfo) : State :=
  ((List.range 32).zip i.selfRefresh).foldl (fun s e =>
    if e.2 ≤ 10000 then (if e.1 < 20 then s.wr F.stkCtrl_srIdle e.1 e.2 else s.wr F.dmcCtrl_srIdle (e.1 - 20) e.2)
    else s.imageEntry 0x05 e.1) s

/-- PATROL: rows with rising counts, 0 in row 0, and periods of 1 to 168 hours. -/
def loadPatrol (s : State) (i : ImageInfo) : State :=
  let ok (k : Nat) (e : Nat × Nat) : Bool :=
    decide (1 ≤ e.2) && decide (e.2 ≤ 168) &&
      (if k = 0 then e.1 == 0 else decide (((i.patrol.getD (k - 1) (0, 0)).1) < e.1))
  let (l, bad) := takeEntries ok i.patrol (fun k => s.tab.patrol[k]?)
  ({ s with tab := { s.tab with patrol := l } } : State).nameBad 0x07 bad

/-- HISTORY: thresholds, actions and weights of the 14 classes. -/
def loadHist (s : State) (i : ImageInfo) : State :=
  let (l, bad) := takeEntries (fun _ (e : Nat × Nat × List Nat) => decide (e.2.1 ≤ 3)) i.history (fun k => s.tab.history[k]?)
  ({ s with tab := { s.tab with history := l } } : State).nameBad 0x08 bad

/-- FUNC_SEQ: the timers of the six kinds (Table 17-10). -/
def loadFuncSeq (s : State) (i : ImageInfo) : State :=
  let (l, bad) := takeEntries (fun _ (e : Nat × Nat × Nat) => decide (e.1 ≤ 1000) && decide (e.2.1 ≤ 600000) && decide (e.2.2 ≤ 600000))
    i.funcSeq (fun k => s.tab.funcSeq[k]?)
  ({ s with tab := { s.tab with funcSeq := l } } : State).nameBad 0x09 bad

/-- The bits of a descriptor that Table 06-7 reserves. -/
def formatReserved : BitVec 128 := ~~~(Reg.engFmt.bitsOf fun f => f.writable)

/-- FORMAT: entries 16 to 63, those that MX entries name first; an entry that breaks R136 or has a reserved bit set stays invalid (R6), and
so does one whose SR_BITS is out of range, which the section's event names (R361). -/
def loadFormats (s : State) (i : ImageInfo) : State :=
  let l := (List.range 48).zip i.formats
  let put (mx : Bool) (s : State) (e : Nat × BitVec 128) : State :=
    let n := 16 + e.1
    let without := s.loadWings .engFmt n (Reg.reset .engFmt n)
    if (bits e.2 0 4 == 2) != mx then s
    else if !s.formatOk e.2 || (e.2 &&& formatReserved) != 0 then without.formatRejected n
    else if !Reg.engFmt.fields.all fun f => f.admits (bits e.2 f.lo f.width) then without.imageEntry 0x02 e.1
    else s.loadWings .engFmt n e.2
  l.foldl (put true) (l.foldl (put false) s)

/-- BARK: both curves (Table 14-5). -/
def loadBark (s : State) (i : ImageInfo) : State :=
  ((List.range 14).zip i.bark).foldl (fun s e =>
    let r : Reg := if e.1 < 7 then .qosBarkQ else .qosBarkU
    if r.fields.all fun f => f.admits e.2 then s.loadWings r (e.1 % 7 + 1) (BitVec.ofNat 128 e.2) else s.imageEntry 0x06 e.1) s

/-- A preset keeps the bounds of R293. -/
def presetOk (t : List Int) : Bool :=
  match t with
  | [a, b, c, m] =>
    decide (a.natAbs + b.natAbs + c.natAbs + m.natAbs = 64) && decide (32 ≤ m) && [a, b, c].all fun x => decide (x.natAbs ≤ 31)
  | _ => false

/-- LANE_PRESET: a preset out of range is none. -/
def loadPresets (s : State) (i : ImageInfo) : State :=
  let n := (List.range 15).zip i.lanePreset
  let bad := (n.filter fun e => !presetOk e.2 && !e.2.isEmpty).map (·.1)
  let s' : State := { s with tab := { s.tab with
    lanePreset := i.lanePreset.map fun t => if presetOk t then t else []
    portLists := i.portLists.map fun l => if l.isEmpty then [0] else l.take 8 } }
  s'.nameBad 0x03 bad

/-! ### REGISTER entries (R360) -/

/-- What becomes of an entry: the write it is, or that it is skipped, and whether for its range. -/
inductive Entry where
  | write (w : WordWrite) (cand : BitVec 128)
  | skip
  | range
  deriving DecidableEq, Repr

/-- An entry judged whole. -/
def judgeEntry (s : State) (off : Nat) (mask value : Word) : Entry :=
  if 2 ^ 28 ≤ off || off % 4 ≠ 0 then .skip
  else match locate (off % dieSpan) with
    | none => .skip
    | some (r, i, k) =>
      let d := off / dieSpan
      let here := match r.place.window with
        | .copied | .zero => d == 0
        | .unit => r.dieOf i == d
        | .perDie => true
      let m := BitVec.ofNat 128 (mask.toNat * 2 ^ (32 * k))
      let w : WordWrite := { path := .root, off := off, loader := true, reg := r, inst := r.inst d i, word := k, mask := m
                             data := BitVec.ofNat 128 (value.toNat * 2 ^ (32 * k)) }
      if !here || (m &&& ~~~(r.bitsOf fun f => f.writable || f.image)) != 0 then .skip
      else
        let base := s.writeBase w
        let cand := merge r true base w.mask w.data
        if (judge w base cand).2 || !(s.boundBroken r w.inst cand).isEmpty then .range else .write w cand

/-- An entry takes effect: wings with every stage; routes without the limits of R254; links train only at the release. -/
def applyEntry (s : State) (w : WordWrite) (cand : BitVec 128) : State :=
  if w.mask = 0 then s
  else if w.reg = .engFmt then s.formatWrite w
  else if !(wingUnits w.reg).isEmpty then s.loadWings w.reg w.inst cand
  else match w.reg with
    | .rteRoute | .lnkCtrl => s.store w cand
    | _ => s.perform w (s.writeBase w) cand

/-- One entry of the REGISTER section. -/
def loadEntry (s : State) (n : Nat) (e : Nat × Word × Word) : State :=
  let skipped (s : State) : State :=
    let s := if s.rd F.cfgLoad_skips = 0 then s.wr F.cfgLoad_first 0 (min n 65535) else s
    (s.bump F.cfgLoad_skips 0).imageEntry 0x01 n
  match s.judgeEntry e.1 e.2.1 e.2.2 with
  | .write w cand => s.applyEntry w cand
  | .skip => skipped s
  | .range => skipped (s.rangeErr .root e.1)

/-- A section is applied where the directory holds it; an absent one leaves the defaults (R359). -/
def ifHeld (i : ImageInfo) (kind : Nat) (f : State → ImageInfo → State) (s : State) : State :=
  if i.kinds.contains kind then f s i else s

/-- Every section in the order of Table 17-5. -/
def loadSections (s : State) (i : ImageInfo) : State :=
  let s := ifHeld i 0x0B loadSecurity s
  let s := ifHeld i 0x0A loadDrain s
  let s := ifHeld i 0x04 loadRefresh s
  let s := ifHeld i 0x05 loadSelfRefresh s
  let s := ifHeld i 0x07 loadPatrol s
  let s := ifHeld i 0x08 loadHist s
  let s := ifHeld i 0x09 loadFuncSeq s
  let s := ifHeld i 0x02 loadFormats s
  let s := ifHeld i 0x06 loadBark s
  let s := ifHeld i 0x03 loadPresets s
  ifHeld i 0x01 (fun s i => (((List.range i.registers.length).zip i.registers).foldl (fun s e => s.loadEntry e.1 e.2) s)) s

/-- CRC_REF is written last; the walkers begin (R359, R369). -/
def loadCrcRef (s : State) (i : ImageInfo) : State :=
  let s := [0, 1, 2, 3].foldl (fun s d =>
    (s.wr F.cfgCrcRef_ref d ((i.crcRef.getD d 0).toNat)).wr F.cfgCrcStatus_dirty d 0) s
  { s with crc := [] }

/-- Step 6 begins: roles, the start-up test of every core outside the kennel, training of enabled ports (Table 19-4). -/
def release (s : State) : State :=
  let s := s.roles
  let s := (List.range 144).foldl (fun s n => if s.rd F.rasCore_state n = 2 then s else s.wr F.rasCore_state n 5) s
  let s := (s.wr F.rteBank_injLive 0 (s.stg F.rteBank_inj 0 0 true)).wr F.qosCtrl_modeLive 0 (s.stg F.qosCtrl_mode 0 0 true)
  let s := (s.wr F.pwrStatus_state 0 3).uPwr fun p => { p with step := 6 }
  (List.range 64).foldl (fun s n => if s.flag F.lnkCtrl_enable n then s.startTraining n else s) s

/-- The loader has applied every section (Table 15-1, step 7). -/
def imageApplied (s : State) : State :=
  if s.pwr.step ≠ 5 then s
  else match s.image with
    | none => s
    | some i => ((s.loadSections i).loadCrcRef i).release

end State

/-- IMAGE_APPLIED (R359). -/
def execImageApplied (s : State) : Host.Outcome State Fault Refusal := .next s.imageApplied.settle

end Sys2Proof.Machine
end

