-- ==== Sys2Proof/Machine/RegisterRows.lean ====
section
/-! DEFINITION. The rows of the table that are accesses to registers: each names its register and sets the bits that its name means;
the path and every other bit are the sender's. -/

namespace Sys2Proof.Machine

/-- A 32-bit word with bits lo to lo + n - 1 set to v. -/
def fieldIn (data : Word) (lo n v : Nat) : Nat := (State.setBits (data.setWidth 128) lo n v).toNat

/-- The same in 64 bits. -/
def fieldIn2 (data : DWord) (lo n v : Nat) : DWord := (State.setBits (data.setWidth 128) lo n v).setWidth 64

namespace State

/-- The root of trust serves MCTP while a standby feed is good. -/
def islandUp (s : State) : Bool := s.flag F.rasStatus_feedAOk || s.flag F.rasStatus_feedBOk

/-- A mailbox request: through the ROT registers, its bytes first, or over MCTP (R334). -/
def mboxRow (s : State) (v : Via) (cmd : Nat) (body : List Byte) : State :=
  match v with
  | .regs p =>
    let b := body.take 4096
    let s := (List.range ((b.length + 3) / 4)).foldl (fun s w =>
      s.regWrite p .rotMboxData w 0 ((List.range 4).foldl (fun a i => a + (b.getD (4 * w + i) 0).toNat * 256 ^ i) 0)) s
    s.regWrite p .rotMboxCmd 0 0 (cmd + b.length * 2 ^ 8 + 2 ^ 31)
  | .mctp => if s.islandUp then (s.mailbox ⟨true, cmd, body⟩).mboxDrain else s

/-- A command of HOM_EXT_CMD: both words, OP set. -/
def extRow (s : State) (p : Path) (op : Nat) (data : DWord) : State := s.regWrite2 p .homExtCmd 0 (fieldIn2 data 12 4 op)

/-- A command of HOM_MIG_CMD[d]. -/
def migRow (s : State) (p : Path) (d op : Nat) (data : DWord) : State := s.regWrite2 p .homMigCmd d (fieldIn2 data 38 2 op)

/-- A command of DIR_SLOT[o]. -/
def slotRow (s : State) (p : Path) (o cmd : Nat) (data : Word) : State := s.regWrite p .dirSlot o 0 (fieldIn data 28 2 cmd)

/-- HEAD of a partition's event queue: a VF without secure status reaches only its own partition's. -/
def evqHeadRow (s : State) (p : Path) (e : Nat) (data : Nat) : State :=
  match p with
  | .host h f =>
    if f != 0 && !s.flag F.secFn_secure (fnIdx h.val f.val) && s.rd F.secFn_partition (fnIdx h.val f.val) != e then s
    else s.ringWrite p .mgtEvqPtr e 0 0x1000 data
  | _ => s.regWrite p .mgtEvqPtr e 0 data

/-- SEC_FN[h][f]; no register stands at entry 0, which would be the physical function's. -/
def fnRow (s : State) (p : Path) (h f : Nat) (data : Nat) : State :=
  if f = 0 then s.busWrite p (h * dieSpan + 0x300A00 + 64 * h) 4 (BitVec.ofNat 64 data)
  else s.regWrite p .secFn (fnIdx h f) 0 data

end State

open State

/-! ### Extents, groups, slots (chapter 02) -/

/-- TOP_NODE_ID_WRITE (R28). -/
def execTopNodeIdWrite (p : Path) (data : Word) (s : State) : Host.Outcome State Fault Refusal :=
  .next (s.regWrite p .topNodeId 0 0 data.toNat).settle
/-- EXTENT_CREATE (R36, R38). -/
def execExtentCreate (p : Path) (data : DWord) (s : State) : Host.Outcome State Fault Refusal := .next (s.extRow p 1 data).settle
/-- SET_RIGHTS (R38, R45). -/
def execSetRights (p : Path) (data : DWord) (s : State) : Host.Outcome State Fault Refusal := .next (s.extRow p 2 data).settle
/-- WITHDRAW (R45). -/
def execWithdraw (p : Path) (data : DWord) (s : State) : Host.Outcome State Fault Refusal := .next (s.extRow p 3 data).settle
/-- GRP_MATCH_WRITE (R40). -/
def execGrpMatchWrite (p : Path) (m : Fin 1024) (hi : Bool) (data : Word) (s : State) : Host.Outcome State Fault Refusal :=
  .next (s.regWrite p .homGrpMatch m.val hi.toNat data.toNat).settle
/-- BIND (R44). -/
def execBind (p : Path) (o : Slot) (data : Word) (s : State) : Host.Outcome State Fault Refusal := .next (s.slotRow p o.val 1 data).settle
/-- RELEASE (R44). -/
def execRelease (p : Path) (o : Slot) (data : Word) (s : State) : Host.Outcome State Fault Refusal := .next (s.slotRow p o.val 2 data).settle
/-- DECLARE_DEAD (R44, R96). -/
def execDeclareDead (p : Path) (o : Slot) (data : Word) (s : State) : Host.Outcome State Fault Refusal :=
  .next (s.slotRow p o.val 3 data).settle

/-! ### Memory and migration (chapter 03) -/

/-- MSC_FLUSH (R67). -/
def execMscFlush (p : Path) (d : Die) (data : Word) (s : State) : Host.Outcome State Fault Refusal :=
  .next (s.regWrite p .mscCtrl d.val 0 (fieldIn data 16 1 1)).settle
/-- HOTQ_HEAD_WRITE (R73). -/
def execHotqHeadWrite (p : Path) (d : Die) (data : Word) (s : State) : Host.Outcome State Fault Refusal :=
  .next (s.regWrite p .homHotqPtr d.val 0 data.toNat).settle
/-- MIG_RESERVE_WRITE (R75). -/
def execMigReserveWrite (p : Path) (d : Die) (data : Word) (s : State) : Host.Outcome State Fault Refusal :=
  .next (s.regWrite p .homMigReserve d.val 0 data.toNat).settle
/-- PROMOTE (R79). -/
def execPromote (p : Path) (d : Die) (data : DWord) (s : State) : Host.Outcome State Fault Refusal := .next (s.migRow p d.val 1 data).settle
/-- DEMOTE (R79). -/
def execDemote (p : Path) (d : Die) (data : DWord) (s : State) : Host.Outcome State Fault Refusal := .next (s.migRow p d.val 2 data).settle
/-- DMC_CTRL_WRITE (R55). -/
def execDmcCtrlWrite (p : Path) (c : Channel) (data : Word) (s : State) : Host.Outcome State Fault Refusal :=
  .next (s.regWrite p .dmcCtrl c.val 0 data.toNat).settle

/-! ### Transactions, formats, sequences, queues (chapters 05 to 08) -/

/-- TXN_KILL (R120). -/
def execTxnKill (p : Path) (data : Word) (s : State) : Host.Outcome State Fault Refusal :=
  .next (s.regWrite p .txnKill 0 0 (fieldIn data 31 1 1)).settle
/-- ENG_FMT_SUBMIT (R136). -/
def execEngFmtSubmit (p : Path) (i : Fin 64) (data : Word) (s : State) : Host.Outcome State Fault Refusal :=
  .next (s.regWrite p .engFmt i.val 3 data.toNat).settle
/-- LOAD (R172). -/
def execLoad (p : Path) (data : Word) (s : State) : Host.Outcome State Fault Refusal :=
  .next (s.regWrite p .cluSeqCmd 0 0 (fieldIn data 28 2 1)).settle
/-- UNLOAD (R172). -/
def execUnload (p : Path) (data : Word) (s : State) : Host.Outcome State Fault Refusal :=
  .next (s.regWrite p .cluSeqCmd 0 0 (fieldIn data 28 2 2)).settle
/-- CLU_QCFG_WRITE (R175). -/
def execCluQcfgWrite (p : Path) (q : HostQueue) (hi : Bool) (data : Word) (s : State) : Host.Outcome State Fault Refusal :=
  .next (s.regWrite p .cluQcfg q.val hi.toNat data.toNat).settle
/-- TASK_QUEUE_RING (R176). -/
def execTaskQueueRing (p : Path) (q : HostQueue) (data : Word) (s : State) : Host.Outcome State Fault Refusal :=
  .next (s.ringWrite p .cluQptr q.val 0 (8 * q.val) data.toNat).settle
/-- TASK_QUEUE_CHEAD_WRITE (R176). -/
def execTaskQueueCheadWrite (p : Path) (q : HostQueue) (data : Word) (s : State) : Host.Outcome State Fault Refusal :=
  .next (s.ringWrite p .cluQptr q.val 1 (8 * q.val + 4) data.toNat).settle
/-- PTU_AS_WRITE (R182). -/
def execPtuAsWrite (p : Path) (a : Fin 1024) (hi : Bool) (data : Word) (s : State) : Host.Outcome State Fault Refusal :=
  .next (s.regWrite p .ptuAs a.val hi.toNat data.toNat).settle
/-- CLU_SAVE_WRITE (R191). -/
def execCluSaveWrite (p : Path) (pt : Partition) (data : Word) (s : State) : Host.Outcome State Fault Refusal :=
  .next (s.regWrite p .cluSave pt.val 0 data.toNat).settle

/-! ### Plans and copies (chapters 09 and 10) -/

/-- ARM (R203). -/
def execArm (p : Path) (data : Word) (s : State) : Host.Outcome State Fault Refusal :=
  .next (s.regWrite p .colPlanCmd 0 0 (fieldIn data 8 2 1)).settle
/-- DISARM (R204). -/
def execDisarm (p : Path) (data : Word) (s : State) : Host.Outcome State Fault Refusal :=
  .next (s.regWrite p .colPlanCmd 0 0 (fieldIn data 8 2 2)).settle
/-- ABORT (R212). -/
def execAbort (p : Path) (data : Word) (s : State) : Host.Outcome State Fault Refusal :=
  .next (s.regWrite p .colPlanCmd 0 0 (fieldIn data 8 2 3)).settle
/-- COL_KILL (R212). -/
def execColKill (p : Path) (data : Word) (s : State) : Host.Outcome State Fault Refusal :=
  .next (s.regWrite p .colKill 0 0 (fieldIn data 31 1 1)).settle
/-- PURGE (R204). -/
def execPurge (p : Path) (n : Port) (data : Word) (s : State) : Host.Outcome State Fault Refusal :=
  .next (s.regWrite p .colPortRsv n.val 0 (fieldIn data 31 1 1)).settle
/-- XFR_QPTR_TAIL_WRITE (R219). -/
def execXfrQptrTailWrite (p : Path) (q : CopyQueue) (data : Word) (s : State) : Host.Outcome State Fault Refusal :=
  .next (s.ringWrite p .xfrQptr q.val 0 (0x400 + 8 * q.val) data.toNat).settle
/-- COPY_QUEUE_CHEAD_WRITE (R220). -/
def execCopyQueueCheadWrite (p : Path) (q : CopyQueue) (data : Word) (s : State) : Host.Outcome State Fault Refusal :=
  .next (s.ringWrite p .xfrQptr q.val 1 (0x400 + 8 * q.val + 4) data.toNat).settle
/-- XFR_QCFG_WRITE (R218). -/
def execXfrQcfgWrite (p : Path) (q : CopyQueue) (hi : Bool) (data : Word) (s : State) : Host.Outcome State Fault Refusal :=
  .next (s.regWrite p .xfrQcfg q.val hi.toNat data.toNat).settle
/-- QUEUE_ABORT (R229). -/
def execQueueAbort (p : Path) (data : Word) (s : State) : Host.Outcome State Fault Refusal :=
  .next (s.regWrite p .xfrQcmd 0 0 (fieldIn data 8 2 1)).settle

/-! ### Management requests, routes, links, lanes (chapters 11 to 13) -/

/-- MGT_RD (R387). -/
def execMgtRd (n : Port) (q : Packet) (s : State) : Host.Outcome State Fault Refusal :=
  .next (s.mgtAccess n.val { q with opcode := BitVec.ofNat 8 Op.mgtRd } false).settle
/-- MGT_WR (R387). -/
def execMgtWr (n : Port) (q : Packet) (s : State) : Host.Outcome State Fault Refusal :=
  .next (s.mgtAccess n.val { q with opcode := BitVec.ofNat 8 Op.mgtWr } true).settle
/-- RTE_ROUTE_WRITE (R254). -/
def execRteRouteWrite (p : Path) (b : Bool) (n : BitVec 12) (data : Word) (s : State) : Host.Outcome State Fault Refusal :=
  .next (s.regWrite p .rteRoute (b.toNat * 4096 + n.toNat) 0 data.toNat).settle
/-- LINK_ENABLE (R273). -/
def execLinkEnable (p : Path) (n : Port) (data : Word) (s : State) : Host.Outcome State Fault Refusal :=
  .next (s.regWrite p .lnkCtrl n.val 0 (fieldIn data 0 1 1)).settle
/-- LINK_DISABLE (R273). -/
def execLinkDisable (p : Path) (n : Port) (data : Word) (s : State) : Host.Outcome State Fault Refusal :=
  .next (s.regWrite p .lnkCtrl n.val 0 (fieldIn data 0 1 0)).settle
/-- LINK_RETRAIN_CMD (R273). -/
def execLinkRetrainCmd (p : Path) (n : Port) (data : Word) (s : State) : Host.Outcome State Fault Refusal :=
  .next (s.regWrite p .lnkCtrl n.val 0 (fieldIn data 1 1 1)).settle
/-- UNRETIRE (R296). -/
def execUnretire (p : Path) (n : Port) (data : Word) (s : State) : Host.Outcome State Fault Refusal :=
  .next (s.regWrite p .lanCtrl n.val 0 data.toNat).settle
/-- LAN_TEST_WRITE (R297). -/
def execLanTestWrite (p : Path) (n : Port) (l : Lane) (data : Word) (s : State) : Host.Outcome State Fault Refusal :=
  .next (s.regWrite p .lanTest (n.val * 8 + l.val) 0 data.toNat).settle
/-- EYE_MARGIN_GO (R298). -/
def execEyeMarginGo (p : Path) (n : Port) (l : Lane) (data : Word) (s : State) : Host.Outcome State Fault Refusal :=
  .next (s.regWrite p .lanEye (n.val * 8 + l.val) 0 (fieldIn data 19 1 1)).settle

/-! ### Leashes and the curtain (chapters 14 and 17) -/

/-- QOS_LEASH_WRITE (R301, R303, R305). -/
def execQosLeashWrite (p : Path) (t : LeashSel) (hi : Bool) (data : Word) (s : State) : Host.Outcome State Fault Refusal :=
  .next (match t with
    | .leash i => s.regWrite p .qosLeash i.val hi.toNat data.toNat
    | .catchAll n => s.regWrite p .qosCatch n.val hi.toNat data.toNat).settle
/-- CURTAIN_REQUEST (R363). -/
def execCurtainRequest (p : Path) (data : Word) (s : State) : Host.Outcome State Fault Refusal :=
  .next (s.regWrite p .cfgCurtain 0 0 (fieldIn data 0 1 1)).settle

/-! ### The root of trust, partitions, keys (chapter 15) -/

/-- ADVANCE_SVN (Table 15-4). -/
def execAdvanceSvn (v : Via) (body : List Byte) (s : State) : Host.Outcome State Fault Refusal := .next (s.mboxRow v 1 body).settle
/-- DEBUG_CHALLENGE (R331). -/
def execDebugChallenge (v : Via) (body : List Byte) (s : State) : Host.Outcome State Fault Refusal := .next (s.mboxRow v 2 body).settle
/-- DEBUG_UNLOCK (R331). -/
def execDebugUnlock (v : Via) (body : List Byte) (s : State) : Host.Outcome State Fault Refusal := .next (s.mboxRow v 3 body).settle
/-- BIND_FLASH (R315). -/
def execBindFlash (v : Via) (body : List Byte) (s : State) : Host.Outcome State Fault Refusal := .next (s.mboxRow v 4 body).settle
/-- FLASH_READ (Table 15-4). -/
def execFlashRead (v : Via) (body : List Byte) (s : State) : Host.Outcome State Fault Refusal := .next (s.mboxRow v 5 body).settle
/-- FLASH_WRITE (Table 15-4). -/
def execFlashWrite (v : Via) (body : List Byte) (s : State) : Host.Outcome State Fault Refusal := .next (s.mboxRow v 6 body).settle
/-- RESET (Table 15-4). -/
def execReset (v : Via) (body : List Byte) (s : State) : Host.Outcome State Fault Refusal := .next (s.mboxRow v 7 body).settle
/-- PARTITION_CREATE (R323). -/
def execPartitionCreate (p : Path) (data : Word) (s : State) : Host.Outcome State Fault Refusal :=
  .next (s.regWrite p .secPartCmd 0 0 (fieldIn data 4 2 1)).settle
/-- REVOKE (R323, R330). -/
def execRevoke (p : Path) (data : Word) (s : State) : Host.Outcome State Fault Refusal :=
  .next (s.regWrite p .secPartCmd 0 0 (fieldIn data 4 2 2)).settle
/-- ALLOCATE (R326). -/
def execAllocate (p : Path) (data : Word) (s : State) : Host.Outcome State Fault Refusal :=
  .next (s.regWrite p .secKeyCmd 0 0 (fieldIn data 12 2 1)).settle
/-- ROTATE (R327). -/
def execRotate (p : Path) (data : Word) (s : State) : Host.Outcome State Fault Refusal :=
  .next (s.regWrite p .secKeyCmd 0 0 (fieldIn data 12 2 2)).settle
/-- DESTROY (R326). -/
def execDestroy (p : Path) (data : Word) (s : State) : Host.Outcome State Fault Refusal :=
  .next (s.regWrite p .secKeyCmd 0 0 (fieldIn data 12 2 3)).settle
/-- LINK_KEY_SUBMIT (R329). -/
def execLinkKeySubmit (p : Path) (n : Port) (data : Word) (s : State) : Host.Outcome State Fault Refusal :=
  .next (s.regWrite p .secLinkKey (n.val * 8 + 7) 0 data.toNat).settle
/-- SEC_CORE_MAP_WRITE (R319). -/
def execSecCoreMapWrite (p : Path) (k : Cluster) (hi : Bool) (data : Word) (s : State) : Host.Outcome State Fault Refusal :=
  .next (s.regWrite p .secCoreMap k.val hi.toNat data.toNat).settle
/-- SEC_PORT_MAP_WRITE (R319). -/
def execSecPortMapWrite (p : Path) (n : Port) (data : Word) (s : State) : Host.Outcome State Fault Refusal :=
  .next (s.regWrite p .secPortMap n.val 0 data.toNat).settle
/-- SEC_FN_WRITE (R319). -/
def execSecFnWrite (p : Path) (h : Fin 2) (f : Fin 16) (data : Word) (s : State) : Host.Outcome State Fault Refusal :=
  .next (s.fnRow p h.val f.val data.toNat).settle

/-! ### The kennel (chapter 16) -/

/-- TEST (R349). -/
def execTest (p : Path) (data : Word) (s : State) : Host.Outcome State Fault Refusal :=
  .next (s.regWrite p .rasCmd 0 0 (fieldIn data 8 3 1)).settle
/-- FENCE (R351). -/
def execFence (p : Path) (data : Word) (s : State) : Host.Outcome State Fault Refusal :=
  .next (s.regWrite p .rasCmd 0 0 (fieldIn data 8 3 2)).settle
/-- UNFENCE (R351). -/
def execUnfence (p : Path) (data : Word) (s : State) : Host.Outcome State Fault Refusal :=
  .next (s.regWrite p .rasCmd 0 0 (fieldIn data 8 3 3)).settle

/-! ### Configuration, the register bus, events, power (chapters 17 to 19) -/

/-- CRC_COMMIT (R369). -/
def execCrcCommit (p : Path) (d : Die) (data : Word) (s : State) : Host.Outcome State Fault Refusal :=
  .next (s.regWrite p .cfgCrcStatus d.val 0 (fieldIn data 2 1 1)).settle
/-- CRC_REF_WRITE (R369). -/
def execCrcRefWrite (p : Path) (d : Die) (data : Word) (s : State) : Host.Outcome State Fault Refusal :=
  .next (s.regWrite p .cfgCrcRef d.val 0 data.toNat).settle
/-- ERROR_RECORD_CLEAR (R389). -/
def execErrorRecordClear (p : Path) (r : ErrRecord) (data : Word) (s : State) : Host.Outcome State Fault Refusal :=
  .next (s.regWrite p (match r with | .rangeErr => .cfgRangeErr | .viol => .mgtViol) 0 0 (fieldIn data 31 1 1)).settle
/-- REGISTER_WRITE (R7, R380, R388). -/
def execRegisterWrite (p : Path) (page : Bool) (off : BitVec 28) (bytes : Nat) (data : DWord) (s : State) :
    Host.Outcome State Fault Refusal :=
  .next (if page then s.pageAccess p off.toNat bytes data else s.busWrite p off.toNat bytes data).settle
/-- MASKED_WRITE (R383, R384). -/
def execMaskedWrite (p : Path) (off : BitVec 28) (high : Bool) (bytes : Nat) (data : Word) (s : State) : Host.Outcome State Fault Refusal :=
  .next (s.aliasWrite p off.toNat high bytes data).settle
/-- EVQ_ENABLE (R390). -/
def execEvqEnable (p : Path) (e : Fin 17) (data : Word) (s : State) : Host.Outcome State Fault Refusal :=
  .next (s.regWrite p .mgtEvqCfg e.val 0 (fieldIn data 4 1 1)).settle
/-- EVQ_HEAD_WRITE (R393). -/
def execEvqHeadWrite (p : Path) (e : Fin 17) (data : Word) (s : State) : Host.Outcome State Fault Refusal :=
  .next (s.evqHeadRow p e.val data.toNat).settle
/-- WARM (R407). -/
def execWarm (p : Path) (data : Word) (s : State) : Host.Outcome State Fault Refusal :=
  .next (s.regWrite p .pwrCmd 0 0 (fieldIn data 0 3 1)).settle
/-- COLD (R407). -/
def execCold (p : Path) (data : Word) (s : State) : Host.Outcome State Fault Refusal :=
  .next (s.regWrite p .pwrCmd 0 0 (fieldIn data 0 3 2)).settle
/-- OFF (R410). -/
def execOff (p : Path) (data : Word) (s : State) : Host.Outcome State Fault Refusal :=
  .next (s.regWrite p .pwrCmd 0 0 (fieldIn data 0 3 3)).settle
/-- FORCE_OFF (R410). -/
def execForceOff (p : Path) (data : Word) (s : State) : Host.Outcome State Fault Refusal :=
  .next (s.regWrite p .pwrCmd 0 0 (fieldIn data 0 3 4)).settle

end Sys2Proof.Machine
end

