-- ==== Sys2Proof/Machine/Dispatch.lean ====
section
/-! DEFINITION. The effect of each command: one arm per row of the table. -/

namespace Sys2Proof.Machine

open Sys2Proof

/-- The effect of a command on everything but the queue. -/
def exec (i : Instr) (s : State) : Host.Outcome State Fault Refusal :=
  match i with
  | .topNodeIdWrite p data => Sys2Proof.Machine.execTopNodeIdWrite p data s
  | .extentCreate p data => Sys2Proof.Machine.execExtentCreate p data s
  | .setRights p data => Sys2Proof.Machine.execSetRights p data s
  | .withdraw p data => Sys2Proof.Machine.execWithdraw p data s
  | .extentFillDone e => Sys2Proof.Machine.execExtentFillDone e s
  | .withdrawalDrained e => Sys2Proof.Machine.execWithdrawalDrained e s
  | .grpMatchWrite p m hi data => Sys2Proof.Machine.execGrpMatchWrite p m hi data s
  | .bind p so data => Sys2Proof.Machine.execBind p so data s
  | .release p so data => Sys2Proof.Machine.execRelease p so data s
  | .declareDead p so data => Sys2Proof.Machine.execDeclareDead p so data s
  | .slotReleased so => Sys2Proof.Machine.execSlotReleased so s
  | .controllerIssue u starved => Sys2Proof.Machine.execControllerIssue u starved s
  | .dramReadDone u ecc => Sys2Proof.Machine.execDramReadDone u ecc s
  | .refreshDue u bank => Sys2Proof.Machine.execRefreshDue u bank s
  | .dimmThermalRead c temp rate => Sys2Proof.Machine.execDimmThermalRead c temp rate s
  | .selfRefreshIdleExpiry u => Sys2Proof.Machine.execSelfRefreshIdleExpiry u s
  | .selfRefreshEntryDone u => Sys2Proof.Machine.execSelfRefreshEntryDone u s
  | .selfRefreshExit u scrubBehind => Sys2Proof.Machine.execSelfRefreshExit u scrubBehind s
  | .selfRefreshExitDone u => Sys2Proof.Machine.execSelfRefreshExitDone u s
  | .patrolRead u => Sys2Proof.Machine.execPatrolRead u s
  | .mscFlush p d data => Sys2Proof.Machine.execMscFlush p d data s
  | .mscFlushDone d => Sys2Proof.Machine.execMscFlushDone d s
  | .accessCountAging d => Sys2Proof.Machine.execAccessCountAging d s
  | .hotqHeadWrite p d data => Sys2Proof.Machine.execHotqHeadWrite p d data s
  | .migReserveWrite p d data => Sys2Proof.Machine.execMigReserveWrite p d data s
  | .promote p d data => Sys2Proof.Machine.execPromote p d data s
  | .demote p d data => Sys2Proof.Machine.execDemote p d data s
  | .migrationLineMove x ecc maskLost => Sys2Proof.Machine.execMigrationLineMove x ecc maskLost s
  | .migrationMoveDone x => Sys2Proof.Machine.execMigrationMoveDone x s
  | .frameSweep d => Sys2Proof.Machine.execFrameSweep d s
  | .dmcCtrlWrite p c data => Sys2Proof.Machine.execDmcCtrlWrite p c data s
  | .stackTrainingDone so ok => Sys2Proof.Machine.execStackTrainingDone so ok s
  | .dimmTrainingDone c slot0 slot1 => Sys2Proof.Machine.execDimmTrainingDone c slot0 slot1 s
  | .rdShared q entry ecc => Sys2Proof.Machine.execRdShared q entry ecc s
  | .rdOwn q entry ecc => Sys2Proof.Machine.execRdOwn q entry ecc s
  | .upgrade q entry ecc => Sys2Proof.Machine.execUpgrade q entry ecc s
  | .rdUnc q entry ecc => Sys2Proof.Machine.execRdUnc q entry ecc s
  | .wrUnc q entry ecc => Sys2Proof.Machine.execWrUnc q entry ecc s
  | .atomic q entry ecc => Sys2Proof.Machine.execAtomic q entry ecc s
  | .wbDirty q entry => Sys2Proof.Machine.execWbDirty q entry s
  | .wbClean q entry => Sys2Proof.Machine.execWbClean q entry s
  | .invAck q => Sys2Proof.Machine.execInvAck q s
  | .fwdAck q => Sys2Proof.Machine.execFwdAck q s
  | .fwdData q => Sys2Proof.Machine.execFwdData q s
  | .complete q => Sys2Proof.Machine.execComplete q s
  | .dataUnc q => Sys2Proof.Machine.execDataUnc q s
  | .done q => Sys2Proof.Machine.execDone q s
  | .status q => Sys2Proof.Machine.execStatus q s
  | .retryBackoffExpiry r tag => Sys2Proof.Machine.execRetryBackoffExpiry r tag s
  | .forwardTimeout d idx so => Sys2Proof.Machine.execForwardTimeout d idx so s
  | .directoryScrub d ecc hits => Sys2Proof.Machine.execDirectoryScrub d ecc hits s
  | .walkSet d so e => Sys2Proof.Machine.execWalkSet d so e s
  | .sweepEnd so => Sys2Proof.Machine.execSweepEnd so s
  | .txOpen q => Sys2Proof.Machine.execTxOpen q s
  | .txRd q entry ecc => Sys2Proof.Machine.execTxRd q entry ecc s
  | .txWr q entry => Sys2Proof.Machine.execTxWr q entry s
  | .txAtomic q entry ecc => Sys2Proof.Machine.execTxAtomic q entry ecc s
  | .txCommit q => Sys2Proof.Machine.execTxCommit q s
  | .txAbort q => Sys2Proof.Machine.execTxAbort q s
  | .prepare leg c ix => Sys2Proof.Machine.execPrepare leg c ix s
  | .ready leg c ix => Sys2Proof.Machine.execReady leg c ix s
  | .apply leg c ix => Sys2Proof.Machine.execApply leg c ix s
  | .applyLine leg c ix ecc => Sys2Proof.Machine.execApplyLine leg c ix ecc s
  | .applied leg c ix => Sys2Proof.Machine.execApplied leg c ix s
  | .txOpened q => Sys2Proof.Machine.execTxOpened q s
  | .txNotice q => Sys2Proof.Machine.execTxNotice q s
  | .txLifetimeExpiry c ix => Sys2Proof.Machine.execTxLifetimeExpiry c ix s
  | .txRecordExpiry c ix => Sys2Proof.Machine.execTxRecordExpiry c ix s
  | .txnKill p data => Sys2Proof.Machine.execTxnKill p data s
  | .nop n c w => Sys2Proof.Machine.execNop n c w s
  | .sli n c w k => Sys2Proof.Machine.execSli n c w k s
  | .sadd n c w k => Sys2Proof.Machine.execSadd n c w k s
  | .ssub n c w k => Sys2Proof.Machine.execSsub n c w k s
  | .smul n c w k => Sys2Proof.Machine.execSmul n c w k s
  | .sand n c w k => Sys2Proof.Machine.execSand n c w k s
  | .sor n c w k => Sys2Proof.Machine.execSor n c w k s
  | .sxor n c w k => Sys2Proof.Machine.execSxor n c w k s
  | .sshl n c w k => Sys2Proof.Machine.execSshl n c w k s
  | .sshr n c w k => Sys2Proof.Machine.execSshr n c w k s
  | .ssra n c w k => Sys2Proof.Machine.execSsra n c w k s
  | .beq n c w => Sys2Proof.Machine.execBeq n c w s
  | .bne n c w => Sys2Proof.Machine.execBne n c w s
  | .blt n c w => Sys2Proof.Machine.execBlt n c w s
  | .bge n c w => Sys2Proof.Machine.execBge n c w s
  | .sld n c w => Sys2Proof.Machine.execSld n c w s
  | .sst n c w => Sys2Proof.Machine.execSst n c w s
  | .sext n c w rf => Sys2Proof.Machine.execSext n c w rf s
  | .wait n c w => Sys2Proof.Machine.execWait n c w s
  | .atom n c w => Sys2Proof.Machine.execAtom n c w s
  | .endTask n c w => Sys2Proof.Machine.execEndTask n c w s
  | .txopen n c w => Sys2Proof.Machine.execTxopen n c w s
  | .txcommit n c w => Sys2Proof.Machine.execTxcommit n c w s
  | .txabort n c w => Sys2Proof.Machine.execTxabort n c w s
  | .txchk n c w => Sys2Proof.Machine.execTxchk n c w s
  | .vld n c w => Sys2Proof.Machine.execVld n c w s
  | .vst n c w rf => Sys2Proof.Machine.execVst n c w rf s
  | .vlds n c w ecc => Sys2Proof.Machine.execVlds n c w ecc s
  | .vsts n c w rf => Sys2Proof.Machine.execVsts n c w rf s
  | .vclr n c w k => Sys2Proof.Machine.execVclr n c w k s
  | .vfma n c w k => Sys2Proof.Machine.execVfma n c w k s
  | .wfma n c w k => Sys2Proof.Machine.execWfma n c w k s
  | .wmax n c w k => Sys2Proof.Machine.execWmax n c w k s
  | .wmin n c w k => Sys2Proof.Machine.execWmin n c w k s
  | .wexp2 n c w k => Sys2Proof.Machine.execWexp2 n c w k s
  | .wrcp n c w k => Sys2Proof.Machine.execWrcp n c w k s
  | .wrsq n c w k => Sys2Proof.Machine.execWrsq n c w k s
  | .wsqrt n c w k => Sys2Proof.Machine.execWsqrt n c w k s
  | .wdiv n c w k => Sys2Proof.Machine.execWdiv n c w k s
  | .cvt n c w k => Sys2Proof.Machine.execCvt n c w k s
  | .qnt n c w k => Sys2Proof.Machine.execQnt n c w k s
  | .dot n c w k => Sys2Proof.Machine.execDot n c w k s
  | .dotr n c w k => Sys2Proof.Machine.execDotr n c w k s
  | .wmac n c w k => Sys2Proof.Machine.execWmac n c w k s
  | .red n c w k => Sys2Proof.Machine.execRed n c w k s
  | .wbc n c w k => Sys2Proof.Machine.execWbc n c w k s
  | .refereeVerdict n c u => Sys2Proof.Machine.execRefereeVerdict n c u s
  | .canary n a b ra rb u => Sys2Proof.Machine.execCanary n a b ra rb u s
  | .scalarCanary n sig refSig => Sys2Proof.Machine.execScalarCanary n sig refSig s
  | .engFmtSubmit p ix data => Sys2Proof.Machine.execEngFmtSubmit p ix data s
  | .reduce n c => Sys2Proof.Machine.execReduce n c s
  | .scaleAcc n c => Sys2Proof.Machine.execScaleAcc n c s
  | .optStep n c => Sys2Proof.Machine.execOptStep n c s
  | .decodeAttn n c => Sys2Proof.Machine.execDecodeAttn n c s
  | .gatherReduce n c => Sys2Proof.Machine.execGatherReduce n c s
  | .quantize n c => Sys2Proof.Machine.execQuantize n c s
  | .casSweep n c => Sys2Proof.Machine.execCasSweep n c s
  | .user n c => Sys2Proof.Machine.execUser n c s
  | .load p data => Sys2Proof.Machine.execLoad p data s
  | .unload p data => Sys2Proof.Machine.execUnload p data s
  | .cluQcfgWrite p q hi data => Sys2Proof.Machine.execCluQcfgWrite p q hi data s
  | .taskQueueRing p q data => Sys2Proof.Machine.execTaskQueueRing p q data s
  | .task d q => Sys2Proof.Machine.execTask d q s
  | .invalidate d q => Sys2Proof.Machine.execInvalidate d q s
  | .resume d q => Sys2Proof.Machine.execResume d q s
  | .kill d q => Sys2Proof.Machine.execKill d q s
  | .taskPlacement q => Sys2Proof.Machine.execTaskPlacement q s
  | .taskStart n c => Sys2Proof.Machine.execTaskStart n c s
  | .translationWalkDone d ix => Sys2Proof.Machine.execTranslationWalkDone d ix s
  | .walkRestart d ix => Sys2Proof.Machine.execWalkRestart d ix s
  | .taskSaveDone n c => Sys2Proof.Machine.execTaskSaveDone n c s
  | .taskRestoreDone n c crcOk => Sys2Proof.Machine.execTaskRestoreDone n c crcOk s
  | .invalidateDrained => Sys2Proof.Machine.execInvalidateDrained s
  | .ptuAsWrite p a hi data => Sys2Proof.Machine.execPtuAsWrite p a hi data s
  | .cluSaveWrite p pt data => Sys2Proof.Machine.execCluSaveWrite p pt data s
  | .arm p data => Sys2Proof.Machine.execArm p data s
  | .disarm p data => Sys2Proof.Machine.execDisarm p data s
  | .abort p data => Sys2Proof.Machine.execAbort p data s
  | .colArm q inPort outPort => Sys2Proof.Machine.execColArm q inPort outPort s
  | .colArmAck q inPort outPort => Sys2Proof.Machine.execColArmAck q inPort outPort s
  | .colDisarm q inPort => Sys2Proof.Machine.execColDisarm q inPort s
  | .colDisarmAck q => Sys2Proof.Machine.execColDisarmAck q s
  | .colPut q => Sys2Proof.Machine.execColPut q s
  | .colAbort q => Sys2Proof.Machine.execColAbort q s
  | .colTaskEnd n c => Sys2Proof.Machine.execColTaskEnd n c s
  | .colArmTimeout pl => Sys2Proof.Machine.execColArmTimeout pl s
  | .colRunTimeout pl => Sys2Proof.Machine.execColRunTimeout pl s
  | .colKill p data => Sys2Proof.Machine.execColKill p data s
  | .purge p n data => Sys2Proof.Machine.execPurge p n data s
  | .xfrRing q => Sys2Proof.Machine.execXfrRing q s
  | .xfrQptrTailWrite p q data => Sys2Proof.Machine.execXfrQptrTailWrite p q data s
  | .xfrQcfgWrite p q hi data => Sys2Proof.Machine.execXfrQcfgWrite p q hi data s
  | .copy x q => Sys2Proof.Machine.execCopy x q s
  | .copyTileTranslated x => Sys2Proof.Machine.execCopyTileTranslated x s
  | .copyTileDone x => Sys2Proof.Machine.execCopyTileDone x s
  | .queueAbort p data => Sys2Proof.Machine.execQueueAbort p data s
  | .packetArrival n q e => Sys2Proof.Machine.execPacketArrival n q e s
  | .nextHopChoice ix e => Sys2Proof.Machine.execNextHopChoice ix e s
  | .fenceProbe n q e => Sys2Proof.Machine.execFenceProbe n q e s
  | .internalProbe d q => Sys2Proof.Machine.execInternalProbe d q s
  | .fenceHoldExpiry d src dst col => Sys2Proof.Machine.execFenceHoldExpiry d src dst col s
  | .holdLimitExpiry a => Sys2Proof.Machine.execHoldLimitExpiry a s
  | .cplTimeoutExpiry r tag => Sys2Proof.Machine.execCplTimeoutExpiry r tag s
  | .mgtRd n q => Sys2Proof.Machine.execMgtRd n q s
  | .mgtWr n q => Sys2Proof.Machine.execMgtWr n q s
  | .rteRouteWrite p b n data => Sys2Proof.Machine.execRteRouteWrite p b n data s
  | .bankHeldClear b => Sys2Proof.Machine.execBankHeldClear b s
  | .dataFlit n f => Sys2Proof.Machine.execDataFlit n f s
  | .idleFlit n f => Sys2Proof.Machine.execIdleFlit n f s
  | .nakFlit n f bufferEcc => Sys2Proof.Machine.execNakFlit n f bufferEcc s
  | .initFlit n b => Sys2Proof.Machine.execInitFlit n b s
  | .flitTransmit n => Sys2Proof.Machine.execFlitTransmit n s
  | .rxBufferRelease n b e => Sys2Proof.Machine.execRxBufferRelease n b e s
  | .idleAckExpiry n => Sys2Proof.Machine.execIdleAckExpiry n s
  | .ackTimeoutExpiry n bufferEcc => Sys2Proof.Machine.execAckTimeoutExpiry n bufferEcc s
  | .crdTimeoutExpiry n b => Sys2Proof.Machine.execCrdTimeoutExpiry n b s
  | .initResend n => Sys2Proof.Machine.execInitResend n s
  | .initTimeoutExpiry n => Sys2Proof.Machine.execInitTimeoutExpiry n s
  | .retrainTimeoutExpiry n => Sys2Proof.Machine.execRetrainTimeoutExpiry n s
  | .lossOfSignal n => Sys2Proof.Machine.execLossOfSignal n s
  | .downHoldExpiry n => Sys2Proof.Machine.execDownHoldExpiry n s
  | .linkEnable p n data => Sys2Proof.Machine.execLinkEnable p n data s
  | .linkDisable p n data => Sys2Proof.Machine.execLinkDisable p n data s
  | .linkRetrainCmd p n data => Sys2Proof.Machine.execLinkRetrainCmd p n data s
  | .electricalDetect n detected timedOut => Sys2Proof.Machine.execElectricalDetect n detected timedOut s
  | .clockRecoveryLock n locked failed => Sys2Proof.Machine.execClockRecoveryLock n locked failed s
  | .blockLock n l inverted => Sys2Proof.Machine.execBlockLock n l inverted s
  | .polarityDetect n l typeByte => Sys2Proof.Machine.execPolarityDetect n l typeByte s
  | .laneMapping n lanes farOk => Sys2Proof.Machine.execLaneMapping n lanes farOk s
  | .deskew n skewOk => Sys2Proof.Machine.execDeskew n skewOk s
  | .fecLock n => Sys2Proof.Machine.execFecLock n s
  | .equalisation n => Sys2Proof.Machine.execEqualisation n s
  | .stageTimeout n => Sys2Proof.Machine.execStageTimeout n s
  | .trainBlock n l payload => Sys2Proof.Machine.execTrainBlock n l payload s
  | .fecFrame n l symbols drift => Sys2Proof.Machine.execFecFrame n l symbols drift s
  | .eiIdleExpiry n => Sys2Proof.Machine.execEiIdleExpiry n s
  | .eiEnter n => Sys2Proof.Machine.execEiEnter n s
  | .announcedIdleLimit n => Sys2Proof.Machine.execAnnouncedIdleLimit n s
  | .eiExit n => Sys2Proof.Machine.execEiExit n s
  | .laneHealthWindow n => Sys2Proof.Machine.execLaneHealthWindow n s
  | .unretire p n data => Sys2Proof.Machine.execUnretire p n data s
  | .lanTestWrite p n l data => Sys2Proof.Machine.execLanTestWrite p n l data s
  | .eyeMarginGo p n l data => Sys2Proof.Machine.execEyeMarginGo p n l data s
  | .eyeMarginDone n l mismatch => Sys2Proof.Machine.execEyeMarginDone n l mismatch s
  | .leashRefill => Sys2Proof.Machine.execLeashRefill s
  | .qosLeashWrite p t hi data => Sys2Proof.Machine.execQosLeashWrite p t hi data s
  | .statsPeriodTick => Sys2Proof.Machine.execStatsPeriodTick s
  | .curtainCommit r d => Sys2Proof.Machine.execCurtainCommit r d s
  | .curtainRequest p data => Sys2Proof.Machine.execCurtainRequest p data s
  | .advanceSvn v body => Sys2Proof.Machine.execAdvanceSvn v body s
  | .debugChallenge v body => Sys2Proof.Machine.execDebugChallenge v body s
  | .debugUnlock v body => Sys2Proof.Machine.execDebugUnlock v body s
  | .bindFlash v body => Sys2Proof.Machine.execBindFlash v body s
  | .flashRead v body => Sys2Proof.Machine.execFlashRead v body s
  | .flashWrite v body => Sys2Proof.Machine.execFlashWrite v body s
  | .reset v body => Sys2Proof.Machine.execReset v body s
  | .spdmRequest t body => Sys2Proof.Machine.execSpdmRequest t body s
  | .pqSign t body => Sys2Proof.Machine.execPqSign t body s
  | .partitionCreate p data => Sys2Proof.Machine.execPartitionCreate p data s
  | .revoke p data => Sys2Proof.Machine.execRevoke p data s
  | .revokeDrained pt => Sys2Proof.Machine.execRevokeDrained pt s
  | .allocate p data => Sys2Proof.Machine.execAllocate p data s
  | .rotate p data => Sys2Proof.Machine.execRotate p data s
  | .destroy p data => Sys2Proof.Machine.execDestroy p data s
  | .keySweepUnit d k ecc => Sys2Proof.Machine.execKeySweepUnit d k ecc s
  | .linkKeySubmit p n data => Sys2Proof.Machine.execLinkKeySubmit p n data s
  | .secCoreMapWrite p k hi data => Sys2Proof.Machine.execSecCoreMapWrite p k hi data s
  | .secPortMapWrite p n data => Sys2Proof.Machine.execSecPortMapWrite p n data s
  | .secFnWrite p h f data => Sys2Proof.Machine.execSecFnWrite p h f data s
  | .functionLevelReset h f => Sys2Proof.Machine.execFunctionLevelReset h f s
  | .roleSwap k => Sys2Proof.Machine.execRoleSwap k s
  | .swapDrainExpiry k => Sys2Proof.Machine.execSwapDrainExpiry k s
  | .stressTestDone n r margin => Sys2Proof.Machine.execStressTestDone n r margin s
  | .startupTestDone k sigs => Sys2Proof.Machine.execStartupTestDone k sigs s
  | .test p data => Sys2Proof.Machine.execTest p data s
  | .fence p data => Sys2Proof.Machine.execFence p data s
  | .fenceRecordsWritten n => Sys2Proof.Machine.execFenceRecordsWritten n s
  | .unfence p data => Sys2Proof.Machine.execUnfence p data s
  | .historyCommit written => Sys2Proof.Machine.execHistoryCommit written s
  | .historyHalving => Sys2Proof.Machine.execHistoryHalving s
  | .feedLost b => Sys2Proof.Machine.execFeedLost b s
  | .feedRestored b => Sys2Proof.Machine.execFeedRestored b s
  | .crcPass d => Sys2Proof.Machine.execCrcPass d s
  | .crcCommit p d data => Sys2Proof.Machine.execCrcCommit p d data s
  | .crcRefWrite p d data => Sys2Proof.Machine.execCrcRefWrite p d data s
  | .funcTimer k ix => Sys2Proof.Machine.execFuncTimer k ix s
  | .errorRecordClear p r data => Sys2Proof.Machine.execErrorRecordClear p r data s
  | .registerWrite p page off bytes data => Sys2Proof.Machine.execRegisterWrite p page off bytes data s
  | .maskedWrite p off high bytes data => Sys2Proof.Machine.execMaskedWrite p off high bytes data s
  | .evqEnable p e data => Sys2Proof.Machine.execEvqEnable p e data s
  | .evqHeadWrite p e data => Sys2Proof.Machine.execEvqHeadWrite p e data s
  | .msixModerationExpiry e => Sys2Proof.Machine.execMsixModerationExpiry e s
  | .evqWriteError e => Sys2Proof.Machine.execEvqWriteError e s
  | .hostLinkDown h => Sys2Proof.Machine.execHostLinkDown h s
  | .hostLinkUp h speed width => Sys2Proof.Machine.execHostLinkUp h speed width s
  | .hostPortReset h => Sys2Proof.Machine.execHostPortReset h s
  | .droopAssert d => Sys2Proof.Machine.execDroopAssert d s
  | .droopDeassert d => Sys2Proof.Machine.execDroopDeassert d s
  | .droopRestoreExpiry d => Sys2Proof.Machine.execDroopRestoreExpiry d s
  | .pmbusPoll d r v => Sys2Proof.Machine.execPmbusPoll d r v s
  | .powerCapTick watts hottest stackHot dimmHot => Sys2Proof.Machine.execPowerCapTick watts hottest stackHot dimmHot s
  | .thermalTrip t => Sys2Proof.Machine.execThermalTrip t s
  | .referenceCheck d sys lane pci => Sys2Proof.Machine.execReferenceCheck d sys lane pci s
  | .powerUp feedA feedB => Sys2Proof.Machine.execPowerUp feedA feedB s
  | .rotBootDone b => Sys2Proof.Machine.execRotBootDone b s
  | .mainRailsGood => Sys2Proof.Machine.execMainRailsGood s
  | .pllLocked => Sys2Proof.Machine.execPllLocked s
  | .imageApplied => Sys2Proof.Machine.execImageApplied s
  | .powerUpReady => Sys2Proof.Machine.execPowerUpReady s
  | .powerUpStepLimit => Sys2Proof.Machine.execPowerUpStepLimit s
  | .coldResetN => Sys2Proof.Machine.execColdResetN s
  | .warmResetN => Sys2Proof.Machine.execWarmResetN s
  | .warm p data => Sys2Proof.Machine.execWarm p data s
  | .cold p data => Sys2Proof.Machine.execCold p data s
  | .off p data => Sys2Proof.Machine.execOff p data s
  | .forceOff p data => Sys2Proof.Machine.execForceOff p data s
  | .powerDownDone => Sys2Proof.Machine.execPowerDownDone s
  | .coreIdleExpiry n => Sys2Proof.Machine.execCoreIdleExpiry n s
  | .coreWakeDone n => Sys2Proof.Machine.execCoreWakeDone n s
  | .failedCrcFlit n tagFailed => Sys2Proof.Machine.execFailedCrcFlit n tagFailed s
  | .reservedTypeFlit n f => Sys2Proof.Machine.execReservedTypeFlit n f s
  | .taskQueueCheadWrite p q data => Sys2Proof.Machine.execTaskQueueCheadWrite p q data s
  | .copyQueueCheadWrite p q data => Sys2Proof.Machine.execCopyQueueCheadWrite p q data s
  | .partitionStartDone pt => Sys2Proof.Machine.execPartitionStartDone pt s
  | .resetPinRelease cold => Sys2Proof.Machine.execResetPinRelease cold s
  | .clusterDroopAssert k => Sys2Proof.Machine.execClusterDroopAssert k s
  | .clusterDroopDeassert k => Sys2Proof.Machine.execClusterDroopDeassert k s
  | .prbsCheckerSync n l errors => Sys2Proof.Machine.execPrbsCheckerSync n l errors s

end Sys2Proof.Machine
end

