-- ==== Sys2Proof/Machine/Idle.lean ====
section
/-! DEFINITION. What the block does on an empty queue: work of its own that waits goes on (log 2). -/

namespace Sys2Proof.Machine

namespace State

/-- A LOAD waits for a line, a plan for its record, or a run for a context. -/
def waits (s : State) : Bool :=
  s.flag F.cluSeqStatus_busy
    || (List.range 64).any fun p => (s.getPlan p).run.isSome || ((s.getPlan p).record.isNone && s.planState p == 1)

/-- A step on an empty queue. -/
def idle (s : State) : State :=
  if s.waits then (((List.range 64).foldl copyRecord s.seqRetry).launchAll).settle else s

end State

end Sys2Proof.Machine
end

