-- ==== Sys2Proof/Safety.lean ====
section
/-! DEFINITION. What counts as a well-formed state and a safe step, and the terms in which claims speak of register writes. -/

namespace Sys2Proof.Machine

/-- The register store is canonical: instances strictly rising. -/
abbrev State.regsSorted (s : State) : Bool := SMap.sorted s.regs

/-- The state's sparse tables keep their canonical form: stored bytes, registers and stage copies. -/
abbrev State.wf (s : State) : Bool :=
  Memory.wf s.mem.cells && SMap.sorted s.regs && SMap.sorted s.stage

/-- No line queue of a home waits to be looked at, as at every command's end. -/
abbrev State.quiet (s : State) : Prop := s.home.wake = []

/-- A step that ends in a next state. -/
def State.safe (s : State) : Prop := ∃ t, step s = .next t

/-- A command runs on s and leaves a state of which E holds. -/
def Completes (c : Instr) (s : State) (E : State → Prop) : Prop := ∃ t, exec c s = .next t ∧ E t

/-- The write by path p of all 32 bits of word k of instance i of a register. -/
def wordWrite (p : Path) (r : Reg) (i k data : Nat) : WordWrite :=
  { path := p, off := State.nodeOffset r i k, reg := r, inst := i, word := k, mask := wordBits k
    data := BitVec.ofNat 128 (data % 2 ^ 32 * 2 ^ (32 * k)) }

/-- The value that a write makes of its register, before ranges and bounds are judged. -/
def State.newVal (s : State) (w : WordWrite) : BitVec 128 := merge w.reg false (s.writeBase w) w.mask w.data

/-- A write comes from a secure master to a unit out of reset, with every field in range and every bound kept. -/
abbrev State.accepts (s : State) (w : WordWrite) : Prop :=
  s.turnedAway w.path w.off true = none ∧ s.secure w.path w.reg = true ∧ s.unitOff w.reg w.inst = false
    ∧ judge w (s.writeBase w) (s.newVal w) = (s.newVal w, false) ∧ s.boundBroken w.reg w.inst (s.newVal w) = []

/-- The state in which a register holds what the write makes of it: no other register changes but CFG_CRC_STATUS.DIRTY. -/
def State.stored (s : State) (w : WordWrite) : State := s.store w (s.newVal w)

end Sys2Proof.Machine
end

