-- ==== Sys2Proof/Certificates/Slice0/Obligations.lean ====
section
/-! DEFINITION. What the provers are asked to prove about the model. -/

namespace Sys2Proof.Machine

/-- A row of the table writes its register and does nothing else. -/
abbrev Stores (c : Instr) (s : State) (p : Path) (r : Reg) (i k data : Nat) : Prop :=
  exec c s = .next (s.stored (wordWrite p r i k data))

/-- A command that a rule gives to a write of both words of a 64-bit register: the low word, then the high one (R380). -/
def lowFirst (s : State) (p : Path) (r : Reg) (i : Nat) (data : DWord) : State := s.stored (wordWrite p r i 0 (data.toNat % 2 ^ 32))

def bothWords (s : State) (p : Path) (r : Reg) (i : Nat) (data : DWord) : State :=
  (lowFirst s p r i data).stored (wordWrite p r i 1 (data.toNat / 2 ^ 32))

abbrev acceptsBoth (s : State) (p : Path) (r : Reg) (i : Nat) (data : DWord) : Prop :=
  s.accepts (wordWrite p r i 0 (data.toNat % 2 ^ 32))
    ∧ (lowFirst s p r i data).accepts (wordWrite p r i 1 (data.toNat / 2 ^ 32))

/-- One packet that f describes was sent between s and t, to the node itself or towards a port. -/
def Sent (s t : State) (f : Packet → Prop) : Prop :=
  (∃ p, t.fab.inbox = s.fab.inbox ++ [p] ∧ t.fab.held = s.fab.held ∧ f p)
    ∨ ∃ h, t.fab.inbox = s.fab.inbox ∧ t.fab.held = s.fab.held ++ [h] ∧ f h.pkt

/-- Packet q left the node's inbox, and one packet that f describes was sent. -/
def Sends (q : Packet) (s t : State) (f : Packet → Prop) : Prop := Sent (s.taken q) t f

end Sys2Proof.Machine

open Sys2Proof Sys2Proof.Machine

/-! ## The machine -/

/-- A step runs the command at the front of the queue on the state with the queue's rest. -/
def Obligations.StepRunsFront : Prop :=
  ∀ (c : Instr) (rest : List Instr) (s : State),
    step { s with pending := c :: rest } = exec c { s with pending := rest }

/-- On an empty queue the block idles; only a LOAD, a plan's record copy or a run that waits goes on. The model's choice (log 2). -/
def Obligations.EmptyQueueIdles : Prop :=
  ∀ s : State, s.pending = [] →
    step s = .next s.idle ∧ (s.waits = false → s.idle = s) ∧ s.idle.pending = [] ∧ (s.quiet → s.idle.quiet)

/-- Every command ends in a next state, with the queue as it was and no line queue left to look at. -/
def Obligations.EveryCommandEnds : Prop :=
  ∀ (c : Instr) (s : State), ∃ t, exec c s = .next t ∧ t.pending = s.pending ∧ t.quiet

/-- Every step keeps the canonical form of stored bytes, registers and stages, and leaves no line queue to look at. -/
def Obligations.StepKeepsForm : Prop :=
  ∀ s t : State, s.wf = true → s.quiet → step s = .next t → t.wf = true ∧ t.quiet

/-- The state after reset: the form that every step keeps, no command waiting, every register at its reset value, among them the defaults
that the rules name: no node number, links DISABLED, STANDBY, slots FREE, no extent, and memory with nothing stored. -/
def Obligations.ResetState : Prop :=
  let r := State.reset
  r.wf = true ∧ r.quiet ∧ r.pending = [] ∧ (∀ q i, r.reg q i = q.reset i) ∧ r.mem = {} ∧ r.home.ext = []
    ∧ r.rd F.topNodeId_node = 0xFFF ∧ r.rd F.pwrStatus_state = 0 ∧ r.rd F.pwrCap_limit = 1750
    ∧ (∀ n < 64, r.linkState n = 0 ∧ r.rd F.rtePort_up n = 0) ∧ (∀ o < 128, r.rd F.dirSlot_state o = 0)
    ∧ (∀ n < 144, r.rd F.rasCore_state n = if n % 9 = 8 then 1 else 0) ∧ r.rd F.colCtrl_armTimeout = 100 ∧ r.rd F.colCtrl_floor = 4

/-- A write of one stored byte changes that byte and no other, and keeps the canonical form; equal contents are equal lists. -/
def Obligations.StoredBytes : Prop :=
  ∀ (m n : List Host.Cell) (a : Nat) (b : Byte), Memory.wf m = true → Memory.wf n = true →
    Memory.wf (Memory.setByte m a b) = true ∧ Memory.byte (Memory.setByte m a b) a = b
      ∧ (∀ a', a' ≠ a → Memory.byte (Memory.setByte m a b) a' = Memory.byte m a')
      ∧ ((∀ a', Memory.byte m a' = Memory.byte n a') → m = n)

/-! ## Register writes (chapters 00 and 18) -/

/-- What a word write leaves in its register, bit by bit, by the kind of the field (Table 00-3): a stored field takes the bits
written, a W1C field loses them, a WO field reads zero, a read-only field and every bit outside the word stay; every other register
but CFG_CRC_STATUS, the stored bytes and the queue stay. -/
def Obligations.WordWriteLeaves : Prop :=
  ∀ (s : State) (p : Path) (r : Reg) (i k data : Nat), SMap.sorted s.regs = true → k < 4 → r ≠ .secLinkKey → i < 32768 →
    let w := wordWrite p r i k data
    let t := s.stored w
    (∀ f ∈ r.fields, ∀ j, f.lo ≤ j → j < f.lo + f.width →
      (t.reg r i).getLsbD j =
        let old := (s.reg r i).getLsbD j
        let here := decide (32 * k ≤ j) && decide (j < 32 * k + 32)
        let new := Nat.testBit data (j - 32 * k)
        if f.stored then (if here then new else old)
        else if f.acc = .w1c then old && !(here && new)
        else if f.acc = .wo then false
        else old)
      ∧ (∀ r' i', r' ≠ .cfgCrcStatus → (r' ≠ r ∨ i' % 32768 ≠ i) → t.reg r' i' = s.reg r' i')
      ∧ t.mem = s.mem ∧ t.home = s.home ∧ t.fab = s.fab ∧ t.evt = s.evt ∧ t.pending = s.pending

/-- R7, field by field: a stored field, or one that carries a command, that the write touches keeps its value when the new one is out of
range, and takes it otherwise; the write is reported when a field was kept. -/
def Obligations.RangesJudgedByField : Prop :=
  ∀ (w : WordWrite) (base cand : BitVec 128), w.loader = false →
    let bad (f : Field) : Bool := (f.stored || f.acc == .wo) && (f.mask &&& w.mask) != 0 && !f.admits (State.bits cand f.lo f.width)
    (∀ f ∈ w.reg.fields, State.bits (judge w base cand).1 f.lo f.width =
        if bad f then State.bits base f.lo f.width else State.bits cand f.lo f.width)
      ∧ (judge w base cand).2 = w.reg.fields.any bad

/-- Writes of the rows whose effect is to store their register, alone or with one count or list beside it. Writes of the rows whose effect
is to store their register, where their own condition holds: the node number while every extent is OFF and every slot FREE (R28), the hot
queue's HEAD, MAP of a controller, a route on a bank not in use (R254), ring pointers, the maps of cores, ports and functions (R319), a
leash, a catch-all, the low word of an address space, and queues that are off and idle (R175, R218). Rows that store their register and one
thing beside it: a reserve and its free count (R75), a save area and its free count (R191), the high word of an address space and its
expected generation (R182), CHEAD of a task ring and the records that waited (R176). -/
def Obligations.RowsThatStore : Prop :=
  (∀ (s : State) (p : Path) (data : Word), s.quiet →
    let n := data.toNat
    let w (r : Reg) (i k : Nat) : WordWrite := wordWrite p r i k n
    let new (r : Reg) (i k : Nat) : BitVec 128 := s.newVal (w r i k)
    let old (r : Reg) (i k : Nat) : BitVec 128 := s.writeBase (w r i k)
    (s.accepts (w .topNodeId 0 0) →
        ((∀ e ∈ s.home.ext, e.2.state = .off) → (∀ o < 128, s.rd F.dirSlot_state o = 0) → Stores (.topNodeIdWrite p data) s p .topNodeId 0 0 n)
        ∧ ((∃ e ∈ s.home.ext, e.2.state ≠ .off) ∨ (∃ o < 128, s.rd F.dirSlot_state o ≠ 0) → exec (.topNodeIdWrite p data) s = .next s))
    ∧ (∀ d : Die, s.accepts (w .homHotqPtr d 0) → Stores (.hotqHeadWrite p d data) s p .homHotqPtr d 0 n)
    ∧ (∀ c : Channel, s.accepts (w .dmcCtrl c 0) → (∀ x ∈ s.home.ext, x.2.attr.tier2 = true → x.2.state = .off) →
        Stores (.dmcCtrlWrite p c data) s p .dmcCtrl c 0 n)
    ∧ (∀ (b : Bool) (e : BitVec 12), s.accepts (w .rteRoute (b.toNat * 4096 + e.toNat) 0) → s.bankInUse b.toNat = false →
        Stores (.rteRouteWrite p b e data) s p .rteRoute (b.toNat * 4096 + e.toNat) 0 n)
    ∧ (∀ q : HostQueue, s.accepts (w .cluQptr q 0) → Stores (.taskQueueRing p q data) s p .cluQptr q 0 n)
    ∧ (∀ q : CopyQueue, s.accepts (w .xfrQptr q 0) → Stores (.xfrQptrTailWrite p q data) s p .xfrQptr q 0 n)
    ∧ (∀ q : CopyQueue, s.accepts (w .xfrQptr q 1) → Stores (.copyQueueCheadWrite p q data) s p .xfrQptr q 1 n)
    ∧ (∀ m : Port, s.accepts (w .secPortMap m 0) → s.otherPartition (State.bits (new .secPortMap m 0) 0 4) = false →
        (s.linkState m = 0 ∨ s.linkState m = 5 ∨ new .secPortMap m 0 = old .secPortMap m 0) →
        Stores (.secPortMapWrite p m data) s p .secPortMap m 0 n)
    ∧ (∀ (k : Cluster) (hi : Bool), s.accepts (w .secCoreMap k hi.toNat) →
        (∀ j < 9, s.otherPartition (State.bits (new .secCoreMap k hi.toNat) (5 * j) 4) = false) →
        (∀ j < 9, State.bits (old .secCoreMap k hi.toNat) (5 * j) 5 ≠ State.bits (new .secCoreMap k hi.toNat) (5 * j) 5 →
          s.ctxOf (9 * k + j) = []) →
        Stores (.secCoreMapWrite p k hi data) s p .secCoreMap k hi.toNat n)
    ∧ (∀ (h : Fin 2) (f : Fin 16), f ≠ 0 → s.accepts (w .secFn (State.fnIdx h f) 0) →
        s.otherPartition (State.bits (new .secFn (State.fnIdx h f) 0) 0 4) = false → s.pci.bme.contains (State.fnIdx h f) = false →
        Stores (.secFnWrite p h f data) s p .secFn (State.fnIdx h f) 0 n)
    ∧ (∀ (i : Fin 256) (hi : Bool), s.accepts (w .qosLeash i hi.toNat) → s.leashTwice i (new .qosLeash i hi.toNat) = false →
        Stores (.qosLeashWrite p (.leash i) hi data) s p .qosLeash i hi.toNat n)
    ∧ (∀ (m : Port) (hi : Bool), s.accepts (w .qosCatch m hi.toNat) →
        Stores (.qosLeashWrite p (.catchAll m) hi data) s p .qosCatch m hi.toNat n)
    ∧ (∀ (m : Fin 1024) (hi : Bool), s.accepts (w .homGrpMatch m hi.toNat) →
        s.groupWriteOk (old .homGrpMatch m hi.toNat) (new .homGrpMatch m hi.toNat) = true →
        Stores (.grpMatchWrite p m hi data) s p .homGrpMatch m hi.toNat n)
    ∧ (∀ a : Fin 1024, s.accepts (w .ptuAs a 0) → s.otherPartition (State.bits (new .ptuAs a 0) 52 4) = false →
        State.bits (old .ptuAs a 0) 63 1 = 0 → Stores (.ptuAsWrite p a false data) s p .ptuAs a 0 n)
    ∧ (∀ (q : HostQueue) (hi : Bool), s.accepts (w .cluQcfg q hi.toNat) →
        s.otherPartition (State.bits (new .cluQcfg q hi.toNat) 4 4) = false → State.bits (old .cluQcfg q hi.toNat) 8 1 = 0 →
        State.bits (new .cluQcfg q hi.toNat) 8 1 = 0 → s.hostBusy q = false →
        Stores (.cluQcfgWrite p q hi data) s p .cluQcfg q hi.toNat n)
    ∧ (∀ (q : CopyQueue) (hi : Bool), s.accepts (w .xfrQcfg q hi.toNat) →
        s.otherPartition (State.bits (new .xfrQcfg q hi.toNat) 4 4) = false → State.bits (old .xfrQcfg q hi.toNat) 8 1 = 0 →
        State.bits (new .xfrQcfg q hi.toNat) 8 1 = 0 → s.copyBusy q = false →
        Stores (.xfrQcfgWrite p q hi data) s p .xfrQcfg q hi.toNat n))
    ∧ (∀ (s : State) (p : Path) (data : Word), s.quiet →
    let n := data.toNat
    let w (r : Reg) (i k : Nat) : WordWrite := wordWrite p r i k n
    let new (r : Reg) (i k : Nat) : BitVec 128 := s.newVal (w r i k)
    (∀ d : Die, s.accepts (w .homMigReserve d 0) → s.usedFrames d = 0 →
        (State.bits (new .homMigReserve d 0) 12 1 = 1 → s.reserveOk d (State.bits (new .homMigReserve d 0) 0 12) = true) →
        exec (.migReserveWrite p d data) s = .next ((s.stored (w .homMigReserve d 0)).refreshFree d))
    ∧ (∀ m : Partition, s.accepts (w .cluSave m 0) → s.otherPartition m = false → (∀ v ∈ s.clu.saved, v.partition ≠ m) →
        exec (.cluSaveWrite p m data) s = .next ((s.stored (w .cluSave m 0)).refreshSave m))
    ∧ (∀ a : Fin 1024, s.accepts (w .ptuAs a 1) → s.otherPartition (State.bits (new .ptuAs a 1) 52 4) = false →
        s.spaceInUse a = false → State.bits (new .ptuAs a 1) 63 1 = 1 →
        exec (.ptuAsWrite p a true data) s = .next ((s.stored (w .ptuAs a 1)).uPtu fun u => { u with gen := u.gen.del a }))
    ∧ (∀ q : HostQueue, s.accepts (w .cluQptr q 1) → s.clu.recWait = [] →
        exec (.taskQueueCheadWrite p q data) s = .next (s.stored (w .cluQptr q 1))))

/-- A 4-byte write at a register's offset from a secure master stores the word (R380), and a masked write through an alias changes
only the 16 bits that its mask selects (R383); the register is one that no rule gives a condition or a command. -/
def Obligations.BusWrites : Prop :=
  ∀ (s : State) (p : Path) (off : BitVec 28) (r : Reg) (i k : Nat), s.quiet →
    locate (off.toNat % State.dieSpan) = some (r, i, k) → r.place.window = .copied → off.toNat / State.dieSpan = 0 →
    [Reg.rteCtrl, .qosBarkQ, .qosBarkU, .lnkCrdSize, .mgtTrust, .staCtrl, .colCtrl, .xfrCtrl, .ptuCtrl].contains r →
    (∀ data : DWord, off.toNat % 4 = 0 →
      let w : WordWrite := { path := p, off := off.toNat, reg := r, inst := i, word := k
                             mask := BitVec.ofNat 128 (0xFFFFFFFF * 2 ^ (32 * k))
                             data := BitVec.ofNat 128 (data.toNat % 2 ^ 32 * 2 ^ (32 * k)) }
      k < 4 → s.accepts w → exec (.registerWrite p false off 4 data) s = .next (s.stored w))
    ∧ (∀ (h : Fin 2) (high : Bool) (data : Word), p = .host h 0 → off.toNat % 4 = 0 →
      let sh := if high then 65536 else 1
      let w : WordWrite := { path := p, off := off.toNat, viaAlias := true, reg := r, inst := i, word := k
                             mask := BitVec.ofNat 128 (data.toNat / 65536 * sh * 2 ^ (32 * k))
                             data := BitVec.ofNat 128 (data.toNat % 65536 * sh * 2 ^ (32 * k)) }
      s.accepts w → (w.mask ≠ 0 → data.toNat / 65536 ≠ 0 → exec (.maskedWrite p off high 4 data) s = .next (s.stored w))
        ∧ (data.toNat / 65536 = 0 → exec (.maskedWrite p off high 4 data) s = .next s))

/-- Error records are filled by their events, cleared by a write of 1 to VALID, and kept by a warm reset (R389). A write of 1 to VALID
clears the whole of an error record: CFG_RANGE_ERR, or MGT_VIOL with MGT_VIOL_SRC (R389). Error records (R389): the first event fills every
field of the record with COUNT 1, a further one only counts, and COUNT saturates. The event is a write that R7 leaves unapplied (R371), or
an access that is logged (Table 18-6); the record of accesses has no path for the root of trust. A warm reset leaves both error records, and
every ROS field but those of RAS_STATUS (whose RETIRED follows the history), as they were (R389). -/
def Obligations.ErrorRecords : Prop :=
  (∀ (s : State) (p : Path) (data : Word), s.quiet →
    (s.accepts (wordWrite p .cfgRangeErr 0 0 (fieldIn data 31 1 1)) →
      exec (.errorRecordClear p .rangeErr data) s = .next (s.setReg .cfgRangeErr 0 0))
    ∧ (s.accepts (wordWrite p .mgtViol 0 0 (fieldIn data 31 1 1)) →
      exec (.errorRecordClear p .viol data) s = .next ((s.setReg .mgtViol 0 0).setReg .mgtViolSrc 0 0)))
    ∧ (∀ (s : State) (p : Path) (off : Nat) (wr al : Bool) (cause : Nat), SMap.sorted s.regs = true → off < 2 ^ 28 → cause < 8 →
    (let t := s.rangeErr p off;
      (s.rd F.cfgRangeErr_valid = 0 → t.rd F.cfgRangeErr_valid = 1 ∧ t.rd F.cfgRangeErr_count = 1 ∧ t.rd F.cfgRangeErr_offset = off
          ∧ t.rd F.cfgRangeErr_source = (State.pathCode p).1 ∧ t.rd F.cfgRangeErr_function = (State.pathCode p).2.1)
      ∧ (s.rd F.cfgRangeErr_valid = 1 → t = s.wr F.cfgRangeErr_count 0
          (min (s.rd F.cfgRangeErr_count + 1) (2 ^ F.cfgRangeErr_count.width - 1))))
    ∧ (p ≠ .root → let t := s.logViol p off wr al cause;
      (s.rd F.mgtViol_valid = 0 → t.rd F.mgtViol_valid = 1 ∧ t.rd F.mgtViol_count = 1 ∧ t.rd F.mgtViol_offset = off
          ∧ t.rd F.mgtViol_write = wr.toNat ∧ t.rd F.mgtViol_alias = al.toNat ∧ t.rd F.mgtViol_cause = cause
          ∧ t.rd F.mgtViol_path = (State.pathCode p).1 ∧ t.rd F.mgtViol_function = (State.pathCode p).2.1
          ∧ t.rd F.mgtViolSrc_endpoint = (State.pathCode p).2.2)
      ∧ (s.rd F.mgtViol_valid = 1 → t = s.wr F.mgtViol_count 0
          (min (s.rd F.mgtViol_count + 1) (2 ^ F.mgtViol_count.width - 1)))))
    ∧ (∀ (s : State) (p : Path) (data : Word), s.wf = true → s.quiet → s.rd F.pwrStatus_state = 4 → s.pwr.down = false → s.pwr.pin = none →
    s.flag F.pciStatus_linkUp 0 = false → s.flag F.pciStatus_linkUp 1 = false →
    let kept (t : State) : Prop := t.reg .cfgRangeErr 0 = s.reg .cfgRangeErr 0 ∧ t.reg .mgtViol 0 = s.reg .mgtViol 0
      ∧ t.reg .mgtViolSrc 0 = s.reg .mgtViolSrc 0
      ∧ ∀ r i, r ≠ .rasStatus → i < 32768 → ∀ f ∈ r.fields, f.acc = .ros → State.bits (t.reg r i) f.lo f.width = State.bits (s.reg r i) f.lo f.width
    Completes .warmResetN s kept ∧ (s.accepts (wordWrite p .pwrCmd 0 0 (fieldIn data 0 3 1)) → Completes (.warm p data) s kept))

/-- An access by MGT_WR or MGT_RD whose source matches no MGT_TRUST entry changes no register but MGT_VIOL, and is answered with
NO_RIGHTS; a trusted read answers the word that the register shows (R387). -/
def Obligations.ManagementAccess : Prop :=
  ∀ (s : State) (n : Port) (q : Packet), s.quiet → s.fab.mgtq = [(q, n.val)] →
    (s.rd F.pwrStatus_state = 3 ∨ s.rd F.pwrStatus_state = 4) → q.resv = false →
    let r : Packet := { q with opcode := BitVec.ofNat 8 Op.mgtRd }
    let wr : Packet := { q with opcode := BitVec.ofNat 8 Op.mgtWr }
    let off := q.addr.toNat % 2 ^ 28
    (q = r → formOk r = true →
      (s.trusted q.src.toNat = false → exec (.mgtRd n q) s =
        .next (((s.uFab fun v => { v with mgtq := [] }).logViol (.mgt q.src) off false false 1).mgtAnswer n q Op.mgtData St.noRights 0))
      ∧ (s.trusted q.src.toNat = true → off % 4 = 0 → (locate (off % State.dieSpan)).isSome = true →
        let a := (s.uFab fun v => { v with mgtq := [] }).readWord (.mgt q.src) off
        exec (.mgtRd n q) s = .next (a.2.mgtAnswer n q Op.mgtData St.ok a.1)))
    ∧ (q = wr → formOk wr = true →
      (s.trusted q.src.toNat = false → exec (.mgtWr n q) s =
        .next (((s.uFab fun v => { v with mgtq := [] }).logViol (.mgt q.src) off true false 1).mgtAnswer n q Op.mgtDone St.noRights 0))
      ∧ (s.trusted q.src.toNat = true → off % 4 = 0 → (locate (off % State.dieSpan)).isSome = true →
        exec (.mgtWr n q) s = .next (((s.uFab fun v => { v with mgtq := [] }).windowWrite (.mgt q.src) off false 0xFFFFFFFF
          (State.bits (q.data.setWidth 128) 0 32)).mgtAnswer n q Op.mgtDone St.ok 0).settle))

/-! ## Extents, groups and slots (chapter 02) -/

/-- Extent commands take effect in the states that allow them, and complete with their status in the others. CREATE on an extent in OFF that
meets R37 starts it with the staged attributes; SET_RIGHTS that removes no right replaces the list of an extent in ON; SET_RIGHTS that
removes one and WITHDRAW start a withdrawal: the old list stays as the previous one and the homes walk. The command completes with OK and
touches no other extent. A command outside the states that take it changes no extent: CREATE on an extent that is not OFF and not leaving
answers BUSY, SET_RIGHTS on one in OFF answers BAD_REQUEST (Table 02-9). -/
def Obligations.ExtentCommands : Prop :=
  (∀ (s : State) (p : Path) (data : DWord), s.wf = true → s.quiet → s.rd F.pwrStatus_state = 4 → s.rd F.homExtStatus_busy = 0 →
    let u (op : Nat) : State := bothWords s p .homExtCmd 0 (fieldIn2 data 12 4 op)
    let e (op : Nat) : Nat := (u op).rd F.homExtCmd_extId
    let x (op : Nat) : Extent := (u op).getExt (e op)
    let ok (op : Nat) (t : State) : Prop :=
      t.rd F.homExtStatus_result = St.ok ∧ t.rd F.homExtStatus_extId = e op
        ∧ t.rd F.homExtStatus_state = (t.getExt (e op)).state.code ∧ ∀ e', e' ≠ e op → t.getExt e' = s.getExt e'
    let withdraws (op : Nat) (new : List Right) (off : Bool) (t : State) : Prop :=
      t.getExt (e op) = { x op with state := .withdrawing, prev := (x op).attr.rights, attr := { (x op).attr with rights := new },
                                    gen := !(x op).gen, toOff := off, demoting := false }
        ∧ ∀ d < 4, (⟨d, .withdraw (e op), 0⟩ : Walk) ∈ t.home.walks
    (acceptsBoth s p .homExtCmd 0 (fieldIn2 data 12 4 1) → (x 1).state = .off → (u 1).createOk (e 1) (u 1).stagedAttr = true →
      Completes (.extentCreate p data) s fun t => ok 1 t ∧ t.mem = s.mem ∧
        t.getExt (e 1) = { state := .starting, attr := (u 1).stagedAttr, prev := (u 1).stagedAttr.rights, gen := (x 1).gen })
    ∧ (acceptsBoth s p .homExtCmd 0 (fieldIn2 data 12 4 2) → (x 2).state = .on → (x 2).demoting = false →
      (u 2).rightsOk (x 2).attr.partition (u 2).stagedRights = true →
      (State.removes (x 2).attr.rights (u 2).stagedRights = false → Completes (.setRights p data) s fun t => ok 2 t ∧ t.mem = s.mem ∧
        t.getExt (e 2) = { x 2 with attr := { (x 2).attr with rights := (u 2).stagedRights }, prev := (u 2).stagedRights })
      ∧ (State.removes (x 2).attr.rights (u 2).stagedRights = true → Completes (.setRights p data) s fun t => ok 2 t ∧
        withdraws 2 (u 2).stagedRights false t))
    ∧ (acceptsBoth s p .homExtCmd 0 (fieldIn2 data 12 4 3) → (x 3).state = .on → (x 3).demoting = false → (u 3).reserveDie (e 3) = none →
      (u 3).withdrawWaits (e 3) = false →
      Completes (.withdraw p data) s fun t => ok 3 t ∧ withdraws 3 [] true t))
    ∧ (∀ (s : State) (p : Path) (data : DWord), s.wf = true → s.quiet → s.rd F.pwrStatus_state = 4 → s.rd F.homExtStatus_busy = 0 →
    let u (op : Nat) : State := bothWords s p .homExtCmd 0 (fieldIn2 data 12 4 op)
    let st (op : Nat) : ExtState := ((u op).getExt ((u op).rd F.homExtCmd_extId)).state
    (acceptsBoth s p .homExtCmd 0 (fieldIn2 data 12 4 1) → st 1 = .on ∨ st 1 = .starting →
      Completes (.extentCreate p data) s fun t => t.rd F.homExtStatus_result = St.busy ∧ t.home = s.home ∧ t.mem = s.mem)
    ∧ (acceptsBoth s p .homExtCmd 0 (fieldIn2 data 12 4 2) → st 2 = .off →
      Completes (.setRights p data) s fun t => t.rd F.homExtStatus_result = St.badRequest ∧ t.home = s.home ∧ t.mem = s.mem))

/-- The zero-fill ends: the extent is ON and, under a key of generation 0, none of its stored bytes is left and every other stored byte
stays (R35). The walks and requests of a withdrawal end: the extent is ON under its new rights, or OFF, unless a loser still holds a line,
for which the homes walk again (Table 02-14). -/
def Obligations.ExtentTransitions : Prop :=
  ∀ (s : State) (e : ExtId), s.quiet →
    let x := s.getExt e
    (x.state = .starting → Completes (.extentFillDone e) s fun t =>
      t.getExt e = { x with state := .on }
        ∧ (s.keyGen x.attr.key = false → t.mem.cells = s.mem.cells.filter fun c => !s.holdsLine x.attr (lineOfStored c.1)))
    ∧ (x.state = .withdrawing → s.withdrawDone e = true → s.walkMissed (.withdraw e) = true → Completes (.withdrawalDrained e) s fun t =>
        t.getExt e = x ∧ ∀ d < 4, (⟨d, .withdraw e, 0⟩ : Walk) ∈ t.home.walks)
    ∧ (x.state = .withdrawing → s.withdrawDone e = true → s.walkMissed (.withdraw e) = false → x.attr.count ≠ 0 → x.demoting = false →
      (x.toOff = false → Completes (.withdrawalDrained e) s fun t => t.getExt e = { x with state := .on, prev := x.attr.rights })
      ∧ (x.toOff = true → x.held = none → Completes (.withdrawalDrained e) s fun t => t.getExt e = { attr := x.attr, gen := x.gen }))

/-- Slot commands, and the events that free a slot. BIND on a free slot that R44 admits, RELEASE of a bound one and DECLARE_DEAD: the slot's
state, and the walks that begin on every die; the slot's endpoint and partition stay once it is bound. A slot whose walks have ended and
whom nothing awaits is FREE: after RELEASE when no directory entry names it, after a sweep at its step 5 (R97, Table 04-8). One set of a
walk is visited; a stable entry that the walk must clear begins a recall (R97). -/
def Obligations.SlotCommands : Prop :=
  (∀ (s : State) (p : Path) (o : Slot) (data : Word), s.wf = true → s.quiet →
    let w (cmd : Nat) : WordWrite := wordWrite p .dirSlot o 0 (fieldIn data 28 2 cmd)
    let whole (cmd : Nat) : Prop := s.otherPartition (State.bits (s.newVal (w cmd)) 20 4) = false
    let same (cmd : Nat) : Prop := State.bits (s.newVal (w cmd)) 0 24 = State.bits (s.writeBase (w cmd)) 0 24
    (s.accepts (w 1) → whole 1 → s.rd F.dirSlot_state o = 0 → (s.stored (w 1)).bindOk o = true →
      exec (.bind p o data) s = .next ((s.stored (w 1)).wr F.dirSlot_state o 1))
    ∧ (s.accepts (w 2) → whole 2 → same 2 → s.rd F.dirSlot_state o = 1 →
      Completes (.release p o data) s fun t => t.rd F.dirSlot_state o = 2 ∧ t.rd F.dirSlot_endpoint o = s.rd F.dirSlot_endpoint o
        ∧ (∀ d < 4, (⟨d, .release o, 0⟩ : Walk) ∈ t.home.walks) ∧ t.home.dir = s.home.dir ∧ t.mem = s.mem)
    ∧ (s.accepts (w 3) → whole 3 → same 3 → s.rd F.dirSlot_state o = 1 ∨ s.rd F.dirSlot_state o = 2 → s.home.req = [] → s.home.rcl = [] →
      Completes (.declareDead p o data) s fun t => t.rd F.dirSlot_state o = 3 ∧ t.rd F.dirSlot_endpoint o = s.rd F.dirSlot_endpoint o
        ∧ ∀ d < 4, (⟨d, .sweep o, 0⟩ : Walk) ∈ t.home.walks))
    ∧ (∀ (s : State) (o : Slot), s.wf = true → s.quiet →
    (s.rd F.dirSlot_state o = 2 → s.walksDone (.release o) = true → s.owed o = false → (∀ e ∈ s.home.dir, e.2.sharers.getLsbD o = false) →
      exec (.slotReleased o) s = .next ((s.wr F.dirSlot_state o 0).dropWalks (.release o)))
    ∧ (s.rd F.dirSlot_state o = 3 → s.walksDone (.sweep o) = true → s.owed o = false →
      Completes (.sweepEnd o) s fun t => t.rd F.dirSlot_state o = 0 ∧ ∀ w ∈ t.home.walks, w.kind ≠ .sweep o)
    ∧ (∀ (d : Die) (e : ExtId) (n : Nat), s.home.walks = [⟨d, .release o, n⟩] → n + 1 < State.dirSets →
      (s.setWays (d * State.dirSets + n) = [] → Completes (.walkSet d o e) s fun t =>
        t.home.walks = [⟨d, .release o, n + 1⟩] ∧ t.home.dir = s.home.dir ∧ t.mem = s.mem)
      ∧ (∀ k en, s.setWays (d * State.dirSets + n) = [(k, en)] → en.sharers.getLsbD o = true → en.state = .s →
        (∀ m ∈ maskMembers en.sharers, s.slotSweeping m = false) → s.dirFind en.line = some (State.dirWay en.line k, en) → lineDie en.line = d → s.home.rcl = [] →
        Completes (.walkSet d o e) s fun t => t.home.walks = [⟨d, .release o, n + 1⟩]
          ∧ t.home.dir.look (State.dirWay en.line k) = some { en with state := .bRcl }
          ∧ t.home.rcl.look (d * 4096) = some { line := en.line, why := .walk, invs := en.sharers })))

/-! ## Memory (chapter 03) -/

/-- A controller issues the request that R56 names: while it drains a write, else the oldest of those past the starvation cap, else the
oldest row hit, else the oldest; a write reaches DRAM, a read is issued. A read that returns leaves the issued reads (R57): a prefetch
fills the cache, a line read on demand is at hand for its home, and the patrol goes on to its next line (R64, R71). -/
def Obligations.ControllerTraffic : Prop :=
  ∀ (s : State) (u : MemUnit), s.quiet → SMap.sorted s.mem.ctl = true →
    let c := s.ctl u
    (∀ k : Nat,
      let n := c.wq.length
      let v := s.uCtl u fun c => { c with drain := if (s.drainLevels u).1 ≤ n then true else if n ≤ (s.drainLevels u).2 then false else c.drain }
      let ready := State.readyRequests (v.ctl u)
      let late (x : State.Queued) : Prop := (((c.rq.map (·.seq) ++ c.wq.map (·.seq)).filter (· < x.seq)).length < k)
      ∀ q, v.nextIssue u k = some q →
        (q ∈ ready ∧ ∀ x ∈ ready, (late x → late q ∧ q.seq ≤ x.seq)
          ∧ ((∀ y ∈ ready, ¬ late y) → v.rowHit u x.addr = true → v.rowHit u q.addr = true ∧ q.seq ≤ x.seq)
          ∧ ((∀ y ∈ ready, ¬ late y ∧ v.rowHit u y.addr = false) → q.seq ≤ x.seq))
        ∧ (c.sr = .awake → c.rwait = [] → c.wwait = [] →
          (∀ w, q.read = false → c.wq[q.pos]? = some w → Completes (.controllerIssue u k) s fun t =>
            t.mem.cells = Memory.setLine s.mem.cells (storedAddr (u, w.addr)) w.data ∧ t.mem.msc = s.mem.msc ∧ t.regs = s.regs
              ∧ (t.ctl u).wq = c.wq.eraseIdx q.pos ∧ (t.ctl u).rq = c.rq)
          ∧ (∀ r, q.read = true → c.rq[q.pos]? = some r → Completes (.controllerIssue u k) s fun t =>
            (t.ctl u).rq = c.rq.eraseIdx q.pos ∧ (t.ctl u).issued = c.issued ++ [r] ∧ (t.ctl u).wq = c.wq ∧ t.mem.cells = s.mem.cells
              ∧ t.regs = s.regs)))
    ∧ (∀ r rs, c.issued = r :: rs →
      let line := s.unitRead (u, r.addr)
      (r.kind = .patrol → exec (.dramReadDone u .clean) s = .next (s.uCtl u fun c => { c with issued := rs }))
      ∧ (∀ k w, r.kind = .prefetch k → r.before = none → s.servedAt k = (u.val, r.addr) → s.mscFind k = none →
        (List.range 16).find? (fun w => (s.mem.msc.look (State.mscWay k w)).isNone) = some w →
        Completes (.dramReadDone u .clean) s fun t =>
          t.mem.msc.look (State.mscWay k w) = some ⟨k, line.1, line.2, false, 3⟩ ∧ (t.ctl u).issued = rs ∧ t.mem.cells = s.mem.cells)
      ∧ (∀ k, r.kind = .demand k → r.before = none → s.servedAt k = (u.val, r.addr) → s.mscFind k = none → s.home.queue.look k = none →
        Completes (.dramReadDone u .clean) s fun t =>
          t.mem.arrived.look k = some line ∧ (t.ctl u).issued = rs ∧ t.mem.cells = s.mem.cells ∧ t.regs = s.regs))
    ∧ (∀ n, c.sr = .awake → s.unitLines u ≠ 0 → c.rq.length < State.readLimit u → c.rwait = [] → c.patrolAt = n → n + 1 < s.unitLines u →
      Completes (.patrolRead u) s fun t => (t.ctl u).patrolAt = n + 1 ∧ t.mem.cells = s.mem.cells ∧ t.regs = s.regs
        ∧ (t.ctl u).rq = if (s.queuedWrite (u, n * 128)).isSome then c.rq else c.rq ++ [⟨n * 128, .patrol, c.seq, none⟩])

/-- Upkeep of controllers, memory-side cache and access counters. A refresh closes its bank's rows; while demand requests to the bank wait
it is postponed, at most four times (R58). Temperature sets the refresh rate, self-refresh goes through its four states (R59), and training
records what R51 and R52 use: REFRESH_DUE, DIMM_THERMAL_READ, the SELF_REFRESH rows, STACK_TRAINING_DONE and DIMM_TRAINING_DONE each
complete. FLUSH writes every dirty cached line of its die back and marks it clean; FLUSH_BUSY stands until a controller has accepted the
last of them (R67). Ageing halves a die's access counters (R72). -/
def Obligations.MemoryUpkeep : Prop :=
  (∀ (s : State) (u : MemUnit), s.wf = true → s.quiet → SMap.sorted s.mem.ctl = true →
    let c := s.ctl u
    (∀ b : Fin 2048, c.sr = .awake →
      let reads := (c.rq ++ c.rwait).filter fun r => CtlKind.onDemand r.kind
      let waits := (reads.map (·.addr) ++ (c.wq ++ c.wwait).map (·.addr)).any fun a => State.refreshBank u (s.bankRow u a).1 == b.val
      Completes (.refreshDue u b) s fun t => t.mem.cells = s.mem.cells ∧ t.regs = s.regs
        ∧ if waits = true ∧ c.postponed.lookD b 0 < 4 then (t.ctl u).postponed.lookD b 0 = c.postponed.lookD b 0 + 1 ∧ (t.ctl u).rows = c.rows
          else (t.ctl u).rows = c.rows.filter (fun r => !(State.refreshBank u r.1 == b.val))
            ∧ (SMap.sorted c.postponed = true → (t.ctl u).postponed.lookD b 0 = 0))
    ∧ (c.sr = .awake → s.srIdleTime u ≠ 0 → s.ctlEmpty u = true →
      Completes (.selfRefreshIdleExpiry u) s fun t => (t.ctl u).sr = .entering ∧ (t.ctl u).rows = [] ∧ t.mem.cells = s.mem.cells)
    ∧ (c.sr = .entering → Completes (.selfRefreshEntryDone u) s fun t => (t.ctl u).sr = .asleep ∧ t.mem.cells = s.mem.cells)
    ∧ (∀ scrub, c.sr = .asleep → scrub = true ∨ s.ctlEmpty u = false →
      Completes (.selfRefreshExit u scrub) s fun t => (t.ctl u).sr = .exiting ∧ t.regs = s.regs ∧ t.mem.cells = s.mem.cells)
    ∧ (c.sr = .exiting → Completes (.selfRefreshExitDone u) s fun t => (t.ctl u).sr = .awake ∧ t.mem.cells = s.mem.cells)
    ∧ (∀ (k : Channel) (temp : Byte) (rate : Fin 3), u.val = 20 + k.val → Completes (.dimmThermalRead k temp rate) s fun t =>
      t.rd F.dmcStatus_temp k = temp.toNat % 2 ^ F.dmcStatus_temp.width ∧ t.mem.cells = s.mem.cells
        ∧ (t.ctl u).refMult = max (State.curveAt s.tab.refreshDmc temp.toNat) (2 ^ rate.val))
    ∧ (∀ k : Stack, exec (.stackTrainingDone k true) s = .next (s.wr F.stkStatus_trained k 1)
      ∧ Completes (.stackTrainingDone k false) s fun t => t.rd F.stkStatus_trained k = 0)
    ∧ (∀ (k : Channel) (a b : DimmSpd), State.dimmUsable (some a) = some a → State.dimmUsable (some b) = some b →
      a.capacity = b.capacity → Completes (.dimmTrainingDone k (some a) (some b)) s fun t =>
        t.rd F.dmcStatus_dimms k = (if a.rankLog2.toNat < 3 then 2 else 1) ∧ t.rd F.dmcStatus_trained k = 1
          ∧ t.rd F.dmcStatus_dimmCap k = State.capCode a.capacity ∧ t.rd F.dmcStatus_rankLog2 k = min 3 (a.rankLog2.toNat + 1)))
    ∧ (∀ (s : State) (d : Die), s.wf = true → s.quiet →
    (∀ (p : Path) (data : Word),
      let w := wordWrite p .mscCtrl d 0 (fieldIn data 16 1 1)
      s.accepts w → ((s.mem.msc.filter fun e => lineDie e.2.line == d.val && e.2.dirty).map (·.1)).Nodup →
      Completes (.mscFlush p d data) s fun t => t.rd F.mscCtrl_flushBusy d = 1 ∧ t.home = s.home
        ∧ ∀ e ∈ s.mem.msc, lineDie e.2.line = d → e.2.dirty = true → t.mem.msc.look e.1 = some { e.2 with dirty := false })
    ∧ ((∀ u < 32, State.unitDie u = d.val → (s.ctl u).wwait = []) → exec (.mscFlushDone d) s = .next (s.wr F.mscCtrl_flushBusy d 0))
    ∧ ((∃ u < 32, State.unitDie u = d.val ∧ (s.ctl u).wwait ≠ []) → exec (.mscFlushDone d) s = .next s)
    ∧ Completes (.accessCountAging d) s fun t => t.regs = s.regs ∧ t.mem.cells = s.mem.cells ∧ t.mem.msc = s.mem.msc
        ∧ t.mem.counts.map (fun e => (e.1, e.2.page, e.2.principal)) = s.mem.counts.map (fun e => (e.1, e.2.page, e.2.principal))
        ∧ ∀ k c, s.mem.counts.look k = some c →
          t.mem.counts.look k = some { c with count := if k / 16384 = d then c.count / 2 else c.count })

/-- PROMOTE and DEMOTE start the move of a share on an idle copy engine; the move copies its next line, once it is read, and ends with its
last one, which frees the engine; a frame sweep clears the reference bit it meets and steps its hand (R77 to R79). -/
def Obligations.Migration : Prop :=
  ∀ (s : State), s.wf = true → s.quiet →
    (∀ (p : Path) (d : Die) (data : DWord) (op : Nat) (c : Instr), (op = 1 ∧ c = .promote p d data ∨ op = 2 ∧ c = .demote p d data) →
      let x := fieldIn2 data 38 2 op
      let u := bothWords s p .homMigCmd d x
      let page := u.rd F.homMigCmd_page d
      let share := u.rd F.homMigCmd_share d
      acceptsBoth s p .homMigCmd d x → s.rd F.homMigStatus_busy d = 0 → u.moveRefused d page share op = none →
      (op = 1 → u.reserveLeaving d = false) → u.movedNow d < u.rd F.homMigCtrl_rate → u.moveRoom d = true → ∀ g, u.idleEngine d = some g →
      Completes c s fun t => (∃ m, t.mem.moves.look g = some m ∧ m.die = d ∧ m.page = page ∧ m.share = share ∧ m.promote = (op == 1)
          ∧ m.cursor = 0 ∧ m.cmd = true) ∧ t.rd F.homMigStatus_busy d = 1 ∧ t.rd F.xfrStatus_use g = 2 ∧ t.mem.cells = s.mem.cells)
    ∧ (∀ (g : CopyEngine) (m : Move) (n e : Nat) (x : Extent), s.mem.moves.look g = some m → s.moveNext m = some n →
      s.findExt (fun e => e != .off) (m.page * 2 ^ 16) = some (e, x) →
      let k := s.lineAt x.attr (State.shareOffset m.die m.page m.share n x.attr.oneDie)
      let dst := if m.promote then s.frameAddr m.die (m.frame % 2 ^ 24) n else unitAddr true m.die (lineL k * 128)
      s.lineFree k = true → (s.ctl dst.1).wwait = [] → SMap.sorted s.mem.ctl = true →
      (s.held k = true → Completes (.migrationLineMove g .clean false) s fun t => t.mem.moves.look g = some { m with cursor := n + 1 }
        ∧ t.unitRead dst = s.peekLine k ∧ t.home = s.home ∧ t.regs = s.regs)
      ∧ (s.held k = false → Completes (.migrationLineMove g .clean false) s fun t => t.mem.moves.look g = some { m with cursor := n }
        ∧ (∃ r ∈ t.unitReads (t.servedAt k).1, r.kind = .demand k ∧ r.addr = (t.servedAt k).2) ∧ t.mem.cells = s.mem.cells ∧ t.home = s.home
        ∧ t.regs = s.regs))
    ∧ (∀ (g : CopyEngine) (m : Move), s.mem.moves.look g = some m → s.moveNext m = none → s.mem.waits = [] → m.cmd = true →
      s.flag F.homMigReserve_valid (g.val / 8) = false →
      s.flag F.homMigReserve_valid m.die = false → Completes (.migrationMoveDone g) s fun t =>
        t.mem.moves = s.mem.moves.del g ∧ t.mem.frames = (if m.promote then s.mem.frames else s.mem.frames.del m.frame)
          ∧ t.rd F.homMigStatus_busy m.die = 0 ∧ t.rd F.homMigStatus_result m.die = St.ok ∧ t.rd F.xfrStatus_use g = 0)
    ∧ (∀ (d : Die) (f : Frame), s.mem.sweeping.contains d.val = true →
      (s.frameCount d - s.usedFrames d) * 1000 < s.rd F.homMigCtrl_highWm * s.frameCount d →
      let hand := s.mem.hand.lookD d 0
      hand + 1 < s.frameCount d → s.mem.frames.look (State.frameKey d hand) = some f → f.ref = true → s.moveKnown d f.page f.share = false →
      Completes (.frameSweep d) s fun t => t.mem.frames.look (State.frameKey d hand) = some { f with ref := false }
        ∧ t.mem.hand.lookD d 0 = hand + 1 ∧ t.regs = s.regs ∧ t.mem.cells = s.mem.cells)

/-! ## Coherence (chapter 04) -/

namespace Sys2Proof.Machine

/-- Request q of opcode op passes every check at line p of a home at rest: its turn has come, nothing waits for the line, for its unit's
write queue or for an entry of the request table, of which one is free, neither counters nor prefetches run, and the line's key is held. -/
abbrev Rests (s : State) (q : Packet) (op : Nat) (p : State.Placed) : Prop :=
  s.quiet ∧ q.opcode.toNat = op ∧ s.inTurn q = true ∧ s.check q = (St.ok, some p) ∧ s.home.halted = [] ∧ s.home.posted = [] ∧ s.blocked p.line = false ∧ p.rec_.attr.countEn = false
    ∧ s.flag F.mscCtrl_pfEn (lineDie p.line) = false ∧ s.home.queue.look p.line = none ∧ s.internalReq q = false
    ∧ (s.home.req.freeKey (State.reqKey (lineDie p.line) 0) 4096).isSome = true
    ∧ s.keyHas (s.lineKeyId p.line).1 (s.peekLine p.line).2.keygen = true ∧ ((s.peekLine p.line).2.poison = true → s.txns = [])

/-- The home's memory when a request for line k has left its request table: a line read for it and not used is dropped. -/
def memLeft (k : Nat) (m : Mem) : Mem := { m with arrived := m.arrived.del k }

/-- No line of the set of line k has a directory entry. -/
abbrev Unheld (s : State) (k : Nat) : Prop := s.setWays (State.dirSetKey k) = []

/-- What a response carries. -/
def Answers (q p : Packet) (op status : Nat) (payload : Option (LineData × Bool)) : Prop :=
  p.opcode = BitVec.ofNat 8 op ∧ p.chan = 1 ∧ p.dest = q.src ∧ p.tag = q.tag ∧ p.status = BitVec.ofNat 5 status
    ∧ p.dataFlag = payload.isSome ∧ ∀ d, payload = some d → p.data = d.1 ∧ p.poison = d.2

/-- A line is granted: request i of its home awaits COMPLETE, after which the line is in state st with holders sh (R90, R235). -/
def Grants (q : Packet) (k : Nat) (s t : State) (op : Nat) (payload : Option (LineData × Bool)) (st : DirState) (sh : Mask) : Prop :=
  ∃ i < 4096, Sends q s t (fun p => Answers q p op St.ok payload ∧ p.detail = BitVec.ofNat 16 (i + lineDie k * 4096))
    ∧ (t.entry k).state = .bGrant ∧ ∃ r, t.getReq (lineDie k) i = some r ∧ r.pkt = q ∧ r.line = k ∧ r.active = true ∧ r.compl = true
      ∧ r.next = st ∧ r.nextSharers = sh

/-- Registers that a home's service of a request may change beside those of its event queues. -/
def homeRegs : List Reg := [.dirStatus, .secPartStatus, .rteInflight, .rteBank]

/-- Every register but those named is as it was. -/
def RegsBut (l : List Reg) (s t : State) : Prop := ∀ r i, r ∉ l → t.reg r i = s.reg r i

end Sys2Proof.Machine

/-- Reads of a line that no slot holds (Table 04-4): RD_UNC is answered with the line's data and leaves the directory as it was;
RD_SHARED grants E or, without grants of E or on a hinted line, S; RD_OWN and UPGRADE grant M with the data. UPGRADE of a line that its
slot shares alone grants M without data. A read of a line that the home does not hold asks the line's unit for it and waits. -/
def Obligations.ReadsServed : Prop :=
  ∀ (s : State) (q : Packet) (d : Die) (p : State.Placed) (o : Nat),
    let k := p.line
    let l := s.peekLine k
    let data := some (l.1, l.2.poison)
    (Rests s q Op.rdUnc p → Unheld s k → s.held k = true → Completes (.rdUnc q d .clean) s fun t =>
        Sends q s t (fun r => Answers q r Op.dataUnc (if l.2.poison then St.poison else St.ok) data) ∧ t.home.dir = s.home.dir
          ∧ t.home.req = s.home.req ∧ t.mem = memLeft k (s.readLine k (s.mscAlloc k && !s.streaming q) .clean).2.mem ∧ RegsBut homeRegs s t)
    ∧ (Rests s q Op.rdUnc p → Unheld s k → s.held k = false → Completes (.rdUnc q d .clean) s fun t =>
        t.fab = (s.taken q).fab ∧ t.home.dir = s.home.dir ∧ (∃ i < 4096, (t.getReq (lineDie k) i).map (·.pkt) = some q)
          ∧ ∃ c ∈ t.unitReads (s.servedAt k).1, c.kind = .demand k ∧ c.addr = (s.servedAt k).2)
    ∧ (Rests s q Op.rdShared p → Unheld s k → s.held k = true → s.boundSlot q.principal = some o →
        let asE := s.flag F.dirCtrl_grantE && !(s.flag F.dirCtrl_hintEn && l.2.hint)
        Completes (.rdShared q d .clean) s fun t => RegsBut homeRegs s t ∧
          if asE then Grants q k s t Op.dataE data .e (maskBit o) else Grants q k s t Op.dataS data .s (maskBit o))
    ∧ (Rests s q Op.rdOwn p → Unheld s k → s.held k = true → s.boundSlot q.principal = some o → Completes (.rdOwn q d .clean) s fun t =>
        RegsBut homeRegs s t ∧ Grants q k s t Op.dataM data .m (maskBit o))
    ∧ (Rests s q Op.upgrade p → s.boundSlot q.principal = some o →
      (Unheld s k → s.held k = true → Completes (.upgrade q d .clean) s fun t => RegsBut homeRegs s t ∧ Grants q k s t Op.dataM data .m (maskBit o))
      ∧ (o < 128 → s.slotSweeping o = false → (s.dirFind k).map (·.2) = some { line := k, sharers := maskBit o, state := .s } →
        Completes (.upgrade q d .clean) s fun t =>
          RegsBut homeRegs s t ∧ Grants q k s t Op.grantM none .m (maskBit o) ∧ t.mem.cells = s.mem.cells))

/-- Writes of a line that no slot holds (Table 04-4): WR_UNC merges its bytes under its mask into the line and answers DONE, ATOMIC
applies its operation and answers the old value or DONE; no other line's data changes and the directory stays. -/
def Obligations.WritesServed : Prop :=
  ∀ (s : State) (q : Packet) (d : Die) (p : State.Placed),
    let k := p.line
    let l := s.peekLine k
    let put (data : LineData) (poison : Bool) : Mem := memLeft k (s.writeLine k (s.mscAlloc k) data poison false).mem
    let read : State := (s.readLine k (s.mscAlloc k && !s.streaming q) .clean).2
    let putRead (data : LineData) (poison : Bool) : Mem := memLeft k (read.writeLine k (s.mscAlloc k) data poison false false).mem
    let same (t : State) : Prop := t.home.dir = s.home.dir ∧ t.home.req = s.home.req ∧ RegsBut homeRegs s t
    (Rests s q Op.wrUnc p → Unheld s k → s.txns = [] →
      ((q.len = 4 ∨ q.len = 5 ∧ q.mask = maskFull) → Completes (.wrUnc q d .clean) s fun t =>
        Sends q s t (fun r => Answers q r Op.done St.ok none) ∧ t.mem = put (mergeLine 0 q.data maskFull) q.poison ∧ same t)
      ∧ (q.len = 5 → q.mask ≠ maskFull → s.held k = true → Completes (.wrUnc q d .clean) s fun t =>
        Sends q s t (fun r => Answers q r Op.done St.ok none) ∧ same t
          ∧ t.mem = putRead (mergeLine l.1 q.data q.mask) (q.poison || l.2.poison)))
    ∧ (Rests s q Op.atomic p → Unheld s k → s.held k = true → s.txns = [] → Completes (.atomic q d .clean) s fun t =>
        Sends q s t (fun r => if subRet q
          then Answers q r Op.dataUnc (if l.2.poison then St.poison else St.ok) (some (atomicReturn q (atomicApply q l.1).2, l.2.poison))
          else Answers q r Op.done St.ok none)
        ∧ t.mem = putRead (atomicApply q l.1).1 (q.poison || l.2.poison) ∧ same t)

/-- A line that another slot owns (Table 04-4): the home sends the forward of the request to the owner and awaits its answer, the line
is busy, and neither memory nor any other entry changes. -/
def Obligations.OwnedLines : Prop :=
  ∀ (s : State) (q : Packet) (d : Die) (p : State.Placed) (w o : Nat) (en : DirEntry),
    let k := p.line
    let fwds (op : Nat) (st : DirState) (t : State) : Prop :=
      (t.entry k).state = st ∧ t.mem = s.mem ∧ RegsBut homeRegs s t ∧ ∃ i < 4096,
        Sends q s t (fun f => f.opcode = BitVec.ofNat 8 op ∧ f.chan = 2 ∧ f.txid = BitVec.ofNat 32 i ∧ f.principal = q.src
          ∧ f.tag = q.tag ∧ f.dlocal.toNat = (s.slotEndpoint o).toNat % 256)
        ∧ ∃ r, t.getReq (lineDie k) i = some r ∧ r.pkt = q ∧ r.active = true ∧ r.fwd = some o
    s.dirFind k = some (w, en) → en.state = .e ∨ en.state = .m → maskMembers en.sharers = [o] → en.pins = 0 → en.lock = false →
    s.slotSweeping o = false → s.boundSlot q.principal ≠ some o →
    (Rests s q Op.rdShared p → Completes (.rdShared q d .clean) s (fwds Op.fwdShared .bFwd))
    ∧ (Rests s q Op.rdOwn p → Completes (.rdOwn q d .clean) s (fwds Op.fwdOwn .bFwd))
    ∧ (Rests s q Op.rdUnc p → Completes (.rdUnc q d .clean) s (fwds Op.fwdHomeShared .bFwdh))
    ∧ (Rests s q Op.wrUnc p → Completes (.wrUnc q d .clean) s (fwds Op.fwdHomeInv .bFwdh))
    ∧ (Rests s q Op.atomic p → Completes (.atomic q d .clean) s (fwds Op.fwdHomeInv .bFwdh))

/-- A writeback of its owner's line (Table 04-4): WB_DIRTY writes the line to memory, WB_CLEAN does not; the line's entry goes and the
slot gets WB_ACK. -/
def Obligations.Writebacks : Prop :=
  ∀ (s : State) (q : Packet) (d : Die) (e : Nat) (x : Extent) (o w : Nat) (en : DirEntry),
    let k := s.lineAt x.attr q.offset
    s.quiet → s.home.halted = [] → s.findExt ExtState.serves q.offset = some (e, x) → s.answerSlot q = some o → q.chan = 0 →
    q.offset % 128 = 0 → q.poison = false → s.dirFind k = some (w, en) → en.state = .e ∨ en.state = .m → maskMembers en.sharers = [o] →
    en.pins = 0 → en.lock = false → s.slotSweeping o = false → s.home.queue.look k = none →
    let acked (t : State) : Prop := t.home.dir = s.home.dir.del w ∧ Sends q s t (fun r => Answers q r Op.wbAck St.ok none)
      ∧ RegsBut homeRegs s t ∧ t.home.req = s.home.req
    (q.len = 4 → Completes (.wbDirty q d) s fun t => acked t ∧ t.mem = (s.writeLine k (s.mscAlloc k) q.data false false).mem)
    ∧ (q.len = 0 → Completes (.wbClean q d) s fun t => acked t ∧ t.mem = s.mem)

/-- Answers to a home (R90, R91): an INV_ACK with others still awaited only leaves the awaited slots; a plain FWD_ACK and the owner's
data settle the forward of a three-hop flow, the data in memory; the owner's data of an RD_UNC goes to memory and to the requester;
COMPLETE puts the line into its next state and frees the request. -/
def Obligations.HomeAnswers : Prop :=
  ∀ (s : State) (q : Packet) (o i : Nat) (r : Req),
    let d := State.homeOf q
    let k := r.line
    let u := s.taken q
    s.quiet → s.home.posted = [] → q.tag.toNat = i → i < 4096 → s.getReq d i = some r → r.active = true → lineDie k = d → r.wb = none → r.acks = [] →
    (s.answerSlot q = some o → r.invs &&& ~~~(maskBit o) ≠ 0 →
      exec (.invAck q) s = .next (u.updReq d i fun r => { r with invs := r.invs &&& ~~~(maskBit o) }))
    ∧ (s.answerSlot q = some o → r.fwd = some o → r.compl = true → (s.entry k).state = .bFwd →
      (q.detail.getLsbD 0 = false → q.detail.getLsbD 1 = false →
        exec (.fwdAck q) s = .next (u.updReq d i fun r => { r with fwd := none, wb := none }))
      ∧ (q.poison = false → exec (.fwdData q) s =
        .next ((u.writeLine k (s.mscAlloc k) q.data false false).updReq d i fun r => { r with fwd := none })))
    ∧ (s.answerSlot q = some o → r.fwd = some o → r.compl = false → r.invs = 0 → (s.entry k).state = .bFwdh →
      r.pkt.opcode.toNat = Op.rdUnc → q.poison = false → s.internalReq r.pkt = false →
      ((s.partitionOf r.pkt).map s.revoking).getD false = false → s.lineQueue k = [.req i] →
      SMap.sorted s.home.queue = true → SMap.sorted s.home.req = true →
      Completes (.fwdData q) s fun t => Sends q s t (fun p => Answers r.pkt p Op.dataUnc St.ok (some (q.data, false)))
        ∧ t.mem = memLeft k (s.writeLine k (s.mscAlloc k) q.data false false).mem ∧ t.getReq d i = none)
    ∧ (r.invs = 0 → r.fwd = none → r.compl = true → r.pkt.src = q.src → (s.entry k).state = .bGrant → r.nextSharers ≠ 0 → r.next ≠ .i →
      s.lineQueue k = [.req i] →
      SMap.sorted s.home.queue = true → SMap.sorted s.home.req = true →
      Completes (.complete q) s fun t => t.getReq d i = none ∧ t.mem = memLeft k s.mem ∧ t.fab = u.fab ∧ RegsBut homeRegs s t
        ∧ ∀ w en, s.dirFind k = some (w, en) → t.home.dir = s.home.dir.put w { en with state := r.next, sharers := r.nextSharers })

/-- A slot that does not answer within the limit is swept: what the request awaits of it is settled, TIMEOUTS counts, the slot goes to
SWEEPING and every die walks (R95, R96). The directory scrub goes on to the next set; a corrected error counts, an uncorrectable one
stops the home, whose requests complete with INTERNAL (R84). -/
def Obligations.HomeUpkeep : Prop :=
  ∀ (s : State) (d : Die), s.wf = true → s.quiet →
    (∀ (idx : Fin 8192) (o : Slot) (r : Req), idx.val < 4096 → s.home.req = [(State.reqKey d idx, r)] → s.home.rcl = [] →
      r.active = true → r.invs.getLsbD o = true → r.invs &&& ~~~(maskBit o) ≠ 0 → r.fwd = none → r.wb = none → r.compl = false →
      s.slotSweeping o = false → Completes (.forwardTimeout d idx o) s fun t =>
        t.rd F.dirSlot_state o = 3 ∧ t.rd F.dirEcc_timeouts d = min (s.rd F.dirEcc_timeouts d + 1) (2 ^ F.dirEcc_timeouts.width - 1)
          ∧ t.getReq d idx = some { r with invs := r.invs &&& ~~~(maskBit o) } ∧ t.mem = s.mem ∧ t.home.dir = s.home.dir
          ∧ ∀ d' < 4, (⟨d', .sweep o, 0⟩ : Walk) ∈ t.home.walks)
    ∧ (∀ n, s.home.scrubAt.look d = some n → n + 1 < State.dirSets →
      (exec (.directoryScrub d .clean []) s = .next (s.uHome fun h => { h with scrubAt := h.scrubAt.put d (n + 1) }))
      ∧ (Completes (.directoryScrub d .corrected []) s fun t => t.home.scrubAt.look d = some (n + 1) ∧ t.home.dir = s.home.dir
          ∧ t.rd F.dirEcc_corrected d = min (s.rd F.dirEcc_corrected d + 1) (2 ^ F.dirEcc_corrected.width - 1))
      ∧ (s.txns = [] → (∀ e ∈ s.home.req, e.1 / 4096 ≠ d) → Completes (.directoryScrub d .uncorrectable []) s fun t => d.val ∈ t.home.halted
          ∧ t.rd F.dirStatus_halted d = 1 ∧ t.home.dir = s.home.dir ∧ t.mem = s.mem)
      ∧ (∀ (i : Fin 4096) (r : Req), s.txns = [] → s.home.posted = [] → s.home.req = [(State.reqKey d i, r)] → lineDie r.line = d →
        s.internalReq r.pkt = false → ((s.partitionOf r.pkt).map s.revoking).getD false = false →
        Completes (.directoryScrub d .uncorrectable []) s fun t => d.val ∈ t.home.halted ∧ t.home.req = []
          ∧ Sent s t fun p => Answers r.pkt p Op.status St.internal none))

/-- Responses at the node's requesters (R195, R234, R248): an answered store or prefetch of a running context leaves the table of
outstanding requests, a prefetched line enters the cluster buffer, an answered load writes its register, an opened transaction's TXID goes to the context; RETRY backs the
request off, from 1 to 16 microseconds; the back-off's end sends it again; CPL_TIMEOUT keeps the tag unused; TX_NOTICE tells the task
the cause. A response without its request changes nothing but the inbox. -/
def Obligations.ResponsesAct : Prop :=
  ∀ (s : State) (q : Packet) (n : Core) (c : Ctx) (x : Context) (o : Out), s.quiet →
    let as (op : Nat) : Packet := { q with opcode := BitVec.ofNat 8 op }
    let k := State.outKey (q.dest.toNat % 256) q.tag.toNat
    let took (op : Nat) : State := { s.taken (as op) with outs := s.outs.del k }
    let ready (op : Nat) : Prop := (as op).destNode = s.node ∧ s.outs.look k = some o ∧ o.stalled = false ∧ o.who = .ctx n c
      ∧ s.getCtx n c = some x ∧ x.phase = .run
    (∀ b r, ready Op.dataUnc → q.status = 0 → q.poison = false → o.why = .sload r b → o.pkt.opcode.toNat = Op.rdUnc →
      exec (.dataUnc q) s = .next ((took Op.dataUnc).setCtx n c (State.sPut x r (BitVec.ofNat 64 (lineBits q.data b 64)))))
    ∧ (ready Op.done → q.status = 0 → q.poison = false → o.why = .store → o.pkt.opcode.toNat = Op.wrUnc → o.pkt.poison = false →
      Completes (.done q) s fun t => t.getCtx n c = some x ∧ t.outs = s.outs.del k ∧ t.regs = s.regs ∧ t.mem = s.mem)
    ∧ (ready Op.dataUnc → q.status = 0 → q.poison = false → o.why = .prefetch → o.pkt.opcode.toNat = Op.rdUnc →
      Completes (.dataUnc q) s fun t => t.getCtx n c = some x ∧ t.outs = s.outs.del k ∧ t.regs = s.regs ∧ t.mem = s.mem
        ∧ t.clu.buf = (s.bufPut n ⟨State.ctxKey n c, o.pkt.addr.toNat / 128, none, q.data, false⟩).clu.buf)
    ∧ (∀ r, ready Op.txOpened → q.status = 0 → q.poison = false → o.why = .txOpen r → x.phase = .run →
      exec (.txOpened q) s = .next ((took Op.txOpened).setCtx n c (State.sPut { x with tx := some { txid := some q.txid } } r (q.txid.setWidth 64))))
    ∧ ((as Op.status).destNode = s.node → s.outs.look k = some o → o.stalled = false → q.status.toNat = St.retry →
      exec (.status q) s = .next { s.taken (as Op.status) with
        outs := s.outs.put k { o with stalled := true, wait := if o.wait = 0 then 1 else min (2 * o.wait) 16 } })
    ∧ (s.outs.look k = none → exec (.dataUnc q) s = .next (s.taken (as Op.dataUnc)) ∧ exec (.done q) s = .next (s.taken (as Op.done))
        ∧ exec (.status q) s = .next (s.taken (as Op.status)) ∧ exec (.txOpened q) s = .next (s.taken (as Op.txOpened)))
    ∧ (∀ (who : Requester) (tag : BitVec 14),
      let key := State.outKey (State.requesterLocal who) tag.toNat
      s.outs.look key = some o → o.who = who →
      (o.stalled = true → exec (.retryBackoffExpiry who tag) s =
        .next ({ s with outs := s.outs.put key { o with stalled := false } }.send o.die o.pkt))
      ∧ (∀ d, who = .home d → exec (.cplTimeoutExpiry who tag) s =
        .next { s with outs := s.outs.del key, deadTags := s.deadTags.put key (40 * s.rd F.rteCtrl_cplTimeout) }))
    ∧ ((as Op.txNotice).destNode = s.node → Completes (.txNotice q) s fun t =>
        t.clu.ctx.map (·.1) = s.clu.ctx.map (·.1) ∧ t.regs = s.regs ∧ t.mem = s.mem ∧ t.home = s.home
          ∧ ∀ k y, s.clu.ctx.look k = some y → t.clu.ctx.look k =
              some (if y.tx.bind (·.txid) = some q.txid then State.txLost y q.detail.toNat else y))
/-! ## Transactions (chapter 05) -/

namespace Sys2Proof.Machine

/-- Registers that the homes change for a transaction. -/
def txnRegs : List Reg := [.txnStatus, .txnCount, .txnAbortCnt, .dirStatus, .secPartStatus, .rteInflight, .rteBank]

/-- Request q of opcode op reaches the home of line p in its turn, for open transaction k of its opener, which does not hold the line yet and
meets no limit (R109, Table 05-1); neither its line nor an entry of the request table has anything waiting. -/
abbrev Joins (s : State) (q : Packet) (op : Nat) (p : State.Placed) (k : Nat) : Prop :=
  s.quiet ∧ q.opcode.toNat = op ∧ s.inTurn q = true ∧ State.wellFormedReq q = true ∧ s.checkRights q = (St.ok, some p) ∧ s.findExt ExtState.serves q.offset = some (p.ext, p.rec_)
    ∧ p.line = s.lineAt p.rec_.attr q.offset ∧ p.rec_.attr.coherent = true ∧ p.rec_.attr.countEn = false ∧ s.flag F.mscCtrl_pfEn (lineDie p.line) = false ∧ s.home.halted = [] ∧ s.home.posted = []
    ∧ s.blocked p.line = false
    ∧ s.home.queue.look p.line = none ∧ Unheld s p.line ∧ s.internalReq q = false
    ∧ (s.home.req.freeKey (State.reqKey (lineDie p.line) 0) 4096).isSome = true
    ∧ s.keyHas (s.lineKeyId p.line).1 (s.peekLine p.line).2.keygen = true ∧ (s.peekLine p.line).2.poison = false
    ∧ s.txnFor q = some k ∧ (s.txn k).state = .open ∧ State.txnLine (s.txn k) p.line = none
    ∧ s.txCapacity k (s.txn k) (lineDie p.line) p.line op = none

end Sys2Proof.Machine

/-- TX_OPEN takes a free record of its coordinator and answers its TXID (R103, R104). -/
def Obligations.TransactionOpens : Prop :=
  ∀ (s : State) (q : Packet) (i : Nat),
    let d := State.homeDie q
    let k := State.txnKey d i
    s.quiet → s.inTurn q = true → s.home.halted = [] → q.len = 0 → q.chan = 0 → q.resv = false → ((s.partitionOf q).map s.revoking).getD false = false →
    (List.range 1024).find? (fun i => (s.txn (State.txnKey d i)).state == .free) = some i → s.txnLive d < 1024 →
    Completes (.txOpen q) s fun t =>
      t.txn k = { gen := (s.txn k).gen, state := .open, opener := q.principal, source := q.src, partition := (s.partitionOf q).getD 0 }
        ∧ Sends q s t (fun p => p.opcode = BitVec.ofNat 8 Op.txOpened ∧ p.dest = q.src ∧ p.tag = q.tag ∧ p.txid = t.txidOf k)
        ∧ t.mem = s.mem ∧ t.home = s.home ∧ RegsBut txnRegs s t

/-- The first access of an open transaction to a line (R109 to R111): TX_RD answers the line's data and puts it into the read set, TX_WR
stages its bytes, TX_ATOMIC does both and answers as ATOMIC does; the line is pinned, the count of OK completions goes up, and stored
data stay. -/
def Obligations.TransactionAccess : Prop :=
  ∀ (s : State) (q : Packet) (d : Die) (p : State.Placed) (k : Nat),
    let T := s.txn k
    let l := (s.peekLine p.line).1
    let m := if q.len = 4 then maskFull else q.mask
    let am : Mask := BitVec.ofNat 128 (2 ^ subSize q.sub.toNat - 1) <<< (q.offset % 128)
    let joined (inRead : Bool) (staged : Option (LineData × Mask)) (spoiled : Bool) (t : State) : Prop :=
      t.txn k = { T with ok := T.ok + 1, lines := T.lines ++ [⟨p.line, p.ext, inRead, staged, false, spoiled⟩] }
        ∧ (t.entry p.line).pins = 1 ∧ (t.entry p.line).state = .i ∧ t.home.req = s.home.req ∧ RegsBut txnRegs s t
    let read : State := (s.readLine p.line (s.mscAlloc p.line && !s.streaming q) .clean).2
    (Joins s q Op.txRd p k → s.held p.line = true → Completes (.txRd q d .clean) s fun t => joined true none false t
        ∧ t.mem = memLeft p.line read.mem
        ∧ Sends q s t (fun r => Answers q r Op.dataUnc St.ok (some (l, false))))
    ∧ (Joins s q Op.txWr p k → Completes (.txWr q d) s fun t => joined false (some (mergeLine 0 q.data m, m)) q.poison t
        ∧ t.mem = memLeft p.line s.mem
        ∧ Sends q s t (fun r => Answers q r Op.done St.ok none))
    ∧ (Joins s q Op.txAtomic p k → s.held p.line = true → Completes (.txAtomic q d .clean) s fun t =>
        joined true (some (mergeLine 0 (atomicApply q l).1 am, am)) q.poison t ∧ t.mem = memLeft p.line read.mem
        ∧ Sends q s t (fun r => if subRet q then Answers q r Op.dataUnc St.ok (some (atomicReturn q (atomicApply q l).2, false))
          else Answers q r Op.done St.ok none))

/-- The commit of a transaction by its legs (R115 to R117, Table 05-5): PREPARE locks a leg's line, READY of the last leg is the commit
point, APPLY releases what was only read, APPLY_LINE writes the staged bytes over the line, APPLIED of the last leg answers TX_COMMIT. -/
def Obligations.CommitPhases : Prop :=
  ∀ (s : State) (leg c : Die) (i : Fin 1024),
    let k := State.txnKey c i
    let T := s.txn k
    let here (l : TxnLine) : Bool := lineDie l.line == leg.val
    s.wf = true → s.quiet → SMap.sorted s.txns = true → s.home.queue = [] → s.home.halted = [] →
    (∀ l w en, T.state = .preparing → State.phase T leg = some .idle → (T.phases.all fun p => p.1 ≥ leg.val || p.2 == .acked) = true →
      T.lines.filter here = [l] → l.locked = false → s.dirFind l.line = some (w, en) → en.state = .i → en.sharers = 0 → en.lock = false →
      s.blocked l.line = false →
      Completes (.prepare leg c i) s fun t => (t.entry l.line).lock = true ∧ State.phase (t.txn k) leg = some .ready
        ∧ (t.txn k).state = .preparing ∧ t.regs = s.regs ∧ t.mem = s.mem ∧ t.home.queue = [])
    ∧ (T.state = .preparing → State.phase T leg = some .ready → ((T.phases.put leg .acked).all (·.2 == .acked)) = true →
      Completes (.ready leg c i) s fun t => t.txn k = { T with state := .committed, phases := T.phases.put leg .acked }
        ∧ t.regs = s.regs ∧ t.mem = s.mem ∧ t.home = s.home)
    ∧ (T.state = .committed → State.phase T leg = some .acked → Completes (.apply leg c i) s fun t =>
        (t.txn k).lines = T.lines.filter (fun l => !(here l && l.staged.isNone)) ∧ RegsBut [.txnStatus] s t ∧ t.mem = s.mem
          ∧ State.phase (t.txn k) leg = some (if T.lines.any (fun l => here l && l.staged.isSome) then .applying else .applied))
    ∧ (∀ l data mask, T.state = .committed → State.phase T leg = some .applying → State.nextStaged T leg = some l →
      l.staged = some (data, mask) → l.spoiled = false → s.blocked l.line = false → mask = maskFull ∨ s.held l.line = true →
      s.keyHas (s.lineKeyId l.line).1 (s.peekLine l.line).2.keygen = true →
      (∀ x ∈ s.txns, x.1 ≠ k → ∀ y ∈ x.2.lines, y.line ≠ l.line) →
      let whole := mask == maskFull
      let read : State := if whole then s else (s.readLine l.line (s.mscAlloc l.line) .clean).2
      let old := if whole then 0 else (s.peekLine l.line).1
      Completes (.applyLine leg c i .clean) s fun t => (t.txn k).lines = T.lines.filter (fun x => x.line != l.line) ∧ RegsBut [.txnStatus] s t
        ∧ t.mem = (read.writeLine l.line (s.mscAlloc l.line) (mergeLine old data mask) (!whole && (s.peekLine l.line).2.poison) false whole).mem)
    ∧ (∀ q, T.state = .committed → T.phases = [(leg.val, .applied)] → T.commit = some q → s.internalReq q = false →
      ((s.partitionOf q).map s.revoking).getD false = false →
      Completes (.applied leg c i) s fun t => t.txn k = { gen := T.gen + 1 } ∧ t.mem = s.mem ∧ RegsBut txnRegs s t
        ∧ t.rd F.txnCount_commits c = min (s.rd F.txnCount_commits c + 1) (2 ^ F.txnCount_commits.width - 1)
        ∧ Sent s t (fun r => Answers q r Op.done St.ok none))

/-- A transaction ends by its commands, and by its limits. TX_COMMIT with the right count begins the commit in phases, or closes a
transaction without lines at once; with a wrong count it aborts (R106, Table 05-5). TX_ABORT releases what an open transaction holds and
frees its record (Table 05-6). A transaction past its lifetime aborts with TIMEOUT and notice, and its record is freed one lifetime later
(R118, Table 05-6); TXN_KILL aborts every transaction of its opener and no other (R120). -/
def Obligations.TransactionEnds : Prop :=
  (∀ (s : State) (q : Packet) (k : Nat),
    let T := s.txn k
    let freed (t : State) : Prop := t.txn k = { gen := T.gen + 1 } ∧ Sends q s t (fun r => Answers q r Op.done St.ok none)
    s.quiet → s.inTurn q = true → s.home.halted = [] → q.chan = 0 → q.resv = false → s.txnFor q = some k → SMap.sorted s.txns = true → State.homeDie q = State.txnDie k →
    s.internalReq q = false → ((s.partitionOf q).map s.revoking).getD false = false →
    (q.len = 1 → lineBits q.data 2 48 = 0 → T.state = .open → T.commit = none →
      (T.ok % 65536 = lineBits q.data 0 16 →
        (State.legDies T ≠ [] → Completes (.txCommit q) s fun t => t.regs = s.regs ∧ t.mem = s.mem ∧ t.home = s.home
          ∧ t.txn k = { T with commit := some q, state := .preparing, phases := (State.legDies T).map fun d => (d, .idle) })
        ∧ (State.legDies T = [] → Completes (.txCommit q) s fun t => freed t ∧ t.mem = s.mem ∧ t.home = s.home ∧ RegsBut txnRegs s t))
      ∧ (T.ok % 65536 ≠ lineBits q.data 0 16 → s.home.queue = [] → Completes (.txCommit q) s fun t =>
        t.txn k = { T with state := .aborted, cause := 10, lines := [], phases := [], commit := none } ∧ t.mem = s.mem
          ∧ Sends q s t (fun r => Answers q r Op.status St.txAbort none ∧ r.detail = 10)))
    ∧ (q.len = 0 → T.state = .open ∧ T.commit = none ∨ T.state = .aborted → s.home.queue = [] →
      Completes (.txAbort q) s fun t => freed t ∧ t.mem = s.mem ∧ RegsBut txnRegs s t))
    ∧ (∀ (s : State), s.wf = true → s.quiet → SMap.sorted s.txns = true → s.home.queue = [] →
    (∀ (c : Die) (i : Fin 1024),
      let k := State.txnKey c i
      let T := s.txn k
      (T.state = .open → T.commit = none → Completes (.txLifetimeExpiry c i) s fun t =>
        t.txn k = { T with state := .aborted, cause := 3, lines := [], phases := [] } ∧ t.mem = s.mem
          ∧ Sent s t (fun r => r.opcode = BitVec.ofNat 8 Op.txNotice ∧ r.dest = T.source ∧ r.detail = 3 ∧ r.txid = s.txidOf k)
          ∧ t.rd F.txnCount_aborts c = min (s.rd F.txnCount_aborts c + 1) (2 ^ F.txnCount_aborts.width - 1))
      ∧ (T.state = .aborted → Completes (.txRecordExpiry c i) s fun t => t.txn k = { gen := T.gen + 1 } ∧ t.fab = s.fab
          ∧ t.mem = s.mem ∧ t.home = s.home ∧ RegsBut [.txnStatus] s t))
    ∧ (∀ (p : Path) (data : Word),
      let w := wordWrite p .txnKill 0 0 (fieldIn data 31 1 1)
      let ep : Endpoint := BitVec.ofNat 20 (State.bits (s.newVal w) 0 20)
      s.accepts w → Completes (.txnKill p data) s fun t => t.mem = s.mem ∧ ∀ k T, s.txns.look k = some T →
        (T.opener = ep → T.state = .open ∨ T.state = .preparing → (t.txn k).state = .aborted ∧ (t.txn k).cause = 9 ∧ (t.txn k).lines = [])
        ∧ (T.opener ≠ ep → t.txn k = T)))
/-! ## Micro-sequences and engines (chapters 06 and 07) -/

namespace Sys2Proof.Machine

/-- Instruction word w of operation op is due at context c of core n, which is x. -/
abbrev Due (s : State) (op : Nat) (n : Core) (c : Ctx) (w : Fetch) (x : Context) : Prop :=
  s.quiet ∧ w.bad = false ∧ s.due op n c w = some x

/-- What a scalar instruction with source registers srcs and result v leaves, by the check of its result (R335, R336, R339, R341). -/
def ScalarEnds (s : State) (n : Core) (c : Ctx) (x : Context) (w : DWord) (srcs : List Nat) (v : DWord) (k : Check)
    (out : Host.Outcome State Fault Refusal) : Prop :=
  let next (v : DWord) : State := (s.setCtx n c (State.sPut { x with pc := x.pc + 1 } (dOf w) v)).issued n c
  match k with
  | .pass => out = .next (next v)
  | .parity p => out = if p.cleared then .next ((next v).bump F.engRfErr_corrected n)
      else .next ((s.parityCount n false).stopCtx n c St.poison 0).settle
  | .wrong _ first again checker =>
    let good := [State.lineOfWord v]
    let a := first.getD good
    out = if checker = false ∧ State.checkedScalar a = State.checkedScalar good then .next (next ((a.headD 0).setWidth 64))
      else .next (((s.setCtx n c { x with pc := x.pc + 1, phase := .dispute }).issued n c).uRas fun r => { r with
        disputes := r.disputes ++ [{ core := n, ctx := c, eng := 0, op := w, snap := { sregs := srcs.map fun r => (r, State.sGet x r) }
                                     good := good, e := again.getD good, aEqE := a == again.getD good, checker := checker, dests := [dOf w]
                                     scalar := true, poison := false }] })

/-- A scalar row: when it is due and none of its registers waits, its result goes to D by the check, and the context goes on. -/
def ScalarRow (row : Core → Ctx → Fetch → Check → Instr) (op : Nat) (srcs : DWord → List Nat) (v : Context → DWord → DWord) : Prop :=
  ∀ (s : State) (n : Core) (c : Ctx) (w : Fetch) (x : Context) (k : Check), Due s op n c w x →
    (dOf w.word :: srcs w.word).any (s.busyS n c) = false →
    ScalarEnds s n c x w.word (srcs w.word) (v x w.word) k (exec (row n c w k) s)

/-- A branch row: the program counter goes to its target when the condition on Sa and Sb holds, else to the next instruction. -/
def BranchRow (row : Core → Ctx → Fetch → Instr) (op : Nat) (cond : DWord → DWord → Prop) : Prop :=
  ∀ (s : State) (n : Core) (c : Ctx) (w : Fetch) (x : Context), Due s op n c w x →
    [aOf w.word, bOf w.word].any (s.busyS n c) = false →
    let a := State.sGet x (aOf w.word)
    let b := State.sGet x (bOf w.word)
    (cond a b → exec (row n c w) s = .next ((s.setCtx n c { x with pc := (BitVec.ofNat 64 x.pc + immOf w.word).toNat }).issued n c))
      ∧ (¬ cond a b → exec (row n c w) s = .next ((s.setCtx n c { x with pc := x.pc + 1 }).issued n c))

/-- A context that issues its memory instruction's requests: no transaction is open, its prefetcher is off, the addresses have the
alignment and translate, the requests keep the limits and wait for no line (R150, R168, R169). -/
abbrev Issues (s : State) (n : Core) (c : Ctx) (x : Context) (align : Nat) (vas : List Nat) (need : Nat) (reqs : List State.MemReq)
    (fs : List Nat) (u : State) : Prop :=
  s.flag F.corPfCtrl_en n = false ∧ (vas.any fun va => va % align ≠ 0) = false ∧ s.busyTx n c = false
    ∧ s.translateAll n c x (reqs.map (·.va)) need = (.ok fs, u) ∧ u.flag F.corPfCtrl_en n = false
    ∧ u.mayIssue n c reqs.length = true ∧ fs.any (u.lineBusy n c) = false

/-- The state in which request m of a context to a fabric address is outstanding under tag t and sent from its die (R149, R234). -/
def Issued (s : State) (n : Core) (c : Ctx) (x : Context) (m : State.MemReq) (fabric t : Nat) : State :=
  let q : Packet := { m.pkt with
    opcode := BitVec.ofNat 8 m.plain, addr := BitVec.ofNat 64 (if m.line then fabric / 128 * 128 else fabric)
    src := s.endpoint (State.coreLocal n), principal := BitVec.ofNat 20 x.task.principal, tag := BitVec.ofNat 14 t
    dlocal := BitVec.ofNat 8 (0xC0 + State.coreDie n) }
  let o : Out := { who := .ctx n c, pkt := q, die := State.coreDie n, partition := x.task.partition, epoch := s.epochOf (State.coreDie n)
                   stream := x.stream && m.plain == Op.rdUnc, why := m.why }
  ({ s with outs := s.outs.put (State.outKey (State.coreLocal n) t) o } : State).send (State.coreDie n) q

/-- An engine row on one engine (R167): when it is due, waits for no register and its scales fit, the engine's results go to its
registers, poisoned when a source was (R144) or when a parity error of its reads stays (R127), the sticky flags join those of the context
(R142), and nothing else changes. A wrong result whose residues agree is written (R336); any other is withheld with its snapshot and waits
for the referee (R335, R337, R341). -/
def EngineRow (row : Core → Ctx → Fetch → Check → Instr) (op : Nat) (f : EngIn → DWord → EngOut) : Prop :=
  ∀ (s : State) (n : Core) (c : Ctx) (w : Fetch) (x : Context) (e : Nat), s.wf = true → Due s op n c w x → enginesOf w.word = [e] →
    let fa := (State.fmtsOf x).getD (fmtOf w.word) {}
    let fb := (State.fmtsOf x).getD (fmt2Of w.word) {}
    let srcs := State.engSrcs op fa (State.elemOf x (fmtOf w.word)) fb (State.elemOf x (fmt2Of w.word)) w.word
    let i := s.engIn x w.word e e
    let o := f i w.word
    let dests := o.writes.map (·.1)
    let good := o.writes.map (·.2)
    let poison := srcs.any fun r => (State.vGet x e r).2
    let next := { x with pc := x.pc + 1 }
    let kept (t : State) : Prop := t.mem = s.mem ∧ t.home = s.home ∧ t.outs = s.outs ∧ RegsBut [.engFlags, .engRfErr] s t
      ∧ t.ctxFlags n c = s.ctxFlags n c ||| o.flags.toNat
    let writes (t : State) (vs : List LineData) (p : Bool) : Prop :=
      t.getCtx n c = some { State.engWrite next e (dests.zip vs) p with gens := x.gens.put e o.gens }
    s.busyS n c (sxOf w.word) = false →
    ((srcs ++ (f (s.engIn x w.word 0 0) w.word).writes.map (·.1)).any fun r => s.busyV n c e r) = false →
    State.scaleOk op fa (State.elemOf x (fmtOf w.word)) fb (State.elemOf x (fmt2Of w.word)) (s.engIn x w.word 0 0) = true →
    Completes (row n c w .pass) s (fun t => kept t ∧ writes t good poison)
    ∧ (∀ p : RfParity, Completes (row n c w (.parity p)) s fun t => t.mem = s.mem ∧
        if p.eng.val = e ∧ p.cleared = false then writes t good true else kept t ∧ writes t good poison)
    ∧ (∀ g first again checker, Completes (row n c w (.wrong g first again checker)) s fun t =>
        let a := first.getD good
        kept t ∧
        if g.val ≠ e then writes t good poison
        else if checker = false ∧ State.checkedOut x w.word a = State.checkedOut x w.word good then writes t a poison
        else t.getCtx n c = some { next with phase := .dispute, gens := x.gens.put e o.gens }
          ∧ t.ras.disputes = s.ras.disputes ++ [{ core := n, ctx := c, eng := e, op := w.word, snap := State.snapshot i srcs, good := good
                                                  e := again.getD good, aEqE := a == again.getD good, checker := checker, dests := dests
                                                  poison := poison }])

end Sys2Proof.Machine

/-- Scalar instructions (Table 07-14): the value that goes to D. -/
def Obligations.ScalarRows : Prop :=
  let ab (w : DWord) : List Nat := [aOf w, bOf w]
  let a (x : Context) (w : DWord) : DWord := State.sGet x (aOf w)
  let b (x : Context) (w : DWord) : DWord := State.sGet x (bOf w)
  let sh (x : Context) (w : DWord) : Nat := (b x w + immOf w).toNat % 64
  ScalarRow .sli Mo.sli (fun _ => []) (fun _ w => (w.extractLsb' 14 50).signExtend 64)
  ∧ ScalarRow .sadd Mo.sadd ab (fun x w => a x w + b x w + immOf w)
  ∧ ScalarRow .ssub Mo.ssub ab (fun x w => a x w - b x w)
  ∧ ScalarRow .smul Mo.smul ab (fun x w => a x w * b x w)
  ∧ ScalarRow .sand Mo.sand ab (fun x w => a x w &&& b x w)
  ∧ ScalarRow .sor Mo.sor ab (fun x w => a x w ||| b x w)
  ∧ ScalarRow .sxor Mo.sxor ab (fun x w => a x w ^^^ b x w)
  ∧ ScalarRow .sshl Mo.sshl ab (fun x w => a x w <<< sh x w)
  ∧ ScalarRow .sshr Mo.sshr ab (fun x w => a x w >>> sh x w)
  ∧ ScalarRow .ssra Mo.ssra ab (fun x w => (a x w).sshiftRight (sh x w))

/-- Loads, stores and atomics of the cores: what a row issues, and what an issued request is. Memory instructions send one request for each
line they need, at its translated address, and the context goes on (R149, R168 to R170): VLD and SLD read, VST and SST write what their
registers hold, ATOM carries its operands. One request of a memory instruction: outside a transaction it goes out under a free tag of its
cluster's agent and stays outstanding, but a load takes a line that a prefetch has brought into the cluster buffer; a register store of 128
aligned bytes is one request of the whole line; a request inside an aborted transaction sends nothing (R70, R149, R170, R234). -/
def Obligations.MemoryRows : Prop :=
  (∀ (s : State) (n : Core) (c : Ctx) (w : Fetch) (x : Context) (u : State) (fs : List Nat), x.tx = none →
    let i := w.word
    let a := State.sGet x (aOf i)
    let b := State.sGet x (bOf i)
    let six := State.isSix x i
    let next := { x with pc := x.pc + 1 }
    let va8 := (a + immOf i * 8).toNat
    let ld : State.MemReq := ⟨va8, Op.rdUnc, Op.txRd, {}, .sload (dOf i) (va8 % 128), true⟩
    let went (reqs : List State.MemReq) : Host.Outcome State Fault Refusal :=
      .next (State.issueAll n c (reqs.zip fs) ((u.setCtx n c next).issued n c)).settle
    let words := State.storeReqs va8 ((State.leBytes b.toNat 8).map (·, false))
    (Due s Mo.sld n c w x → [aOf i, dOf i].any (s.busyS n c) = false → Issues s n c x 8 [va8] 0 [ld] fs u → exec (.sld n c w) s = went [ld])
    ∧ (Due s Mo.sst n c w x → [aOf i, bOf i].any (s.busyS n c) = false → Issues s n c x 8 [va8] 1 words fs u →
      exec (.sst n c w) s = went words)
    ∧ (let sub := fieldOf i 52 6
      let data : LineData := if sub % 16 = 9
        then BitVec.ofNat 1024 (b.toNat + (State.sGet x (cOf i)).toNat * 2 ^ 64 + (State.sGet x (eOf i)).toNat * 2 ^ 128)
        else BitVec.ofNat 1024 b.toNat
      let at' : State.MemReq := ⟨a.toNat, Op.atomic, Op.txAtomic, { len := if sub % 16 = 9 then 3 else 1, sub := BitVec.ofNat 6 sub, data := data },
                                 .atom (dOf i) (a.toNat % 128) (sub / 16 % 2 == 1), false⟩
      Due s Mo.atom n c w x → [aOf i, bOf i, cOf i, eOf i, dOf i].any (s.busyS n c) = false → Issues s n c x 8 [a.toNat] 2 [at'] fs u →
      exec (.atom n c w) s = went [at'])
    ∧ (Due s Mo.vld n c w x → [aOf i, cOf i].any (s.busyS n c) = false →
      (((State.vecAddrs x i).flatMap (·.1)).any fun e => (if six then [dOf i, dOf i + 1] else [dOf i]).any fun r => s.busyV n c e r) = false →
      Issues s n c x (if six then 64 else 128) ((State.vecAddrs x i).map (·.2)) 0 (State.loadReqs x i) fs u →
      exec (.vld n c w) s = went (State.loadReqs x i))
    ∧ (Due s Mo.vst n c w x → [bOf i, cOf i].any (s.busyS n c) = false →
      (((State.storeAddrs x i).flatMap (·.1)).any fun e => (if six then [aOf i, aOf i + 1] else [aOf i]).any fun r => s.busyV n c e r) = false →
      Issues s n c x (if six then 64 else 128) ((State.storeAddrs x i).map (·.2)) 1 (State.vstReqs x i none) fs u →
      exec (.vst n c w none) s = went (State.vstReqs x i none)))
    ∧ (∀ (s : State) (n : Core) (c : Ctx) (x : Context) (m : State.MemReq) (fabric : Nat), s.getCtx n c = some x →
    let a := (BitVec.ofNat 64 (if m.line then fabric / 128 * 128 else fabric)).toNat
    (∀ t, x.tx = none → s.freeTag (State.coreLocal n) = some t →
      (m.plain = Op.rdUnc → s.bufLine n c a none = none → State.issueAll n c [(m, fabric)] s = Issued s n c x m fabric t)
      ∧ ((m.plain = Op.wrUnc ∨ m.plain = Op.atomic) → State.issueAll n c [(m, fabric)] s = Issued (s.bufDrop n c a) n c x m fabric t)
      ∧ Sent s (Issued s n c x m fabric t) (fun p => p.opcode = BitVec.ofNat 8 m.plain ∧ p.tag = BitVec.ofNat 14 t
          ∧ p.principal = BitVec.ofNat 20 x.task.principal))
    ∧ (∀ b r k, x.tx = none → m.plain = Op.rdUnc → m.why = .sload r k → s.bufLine n c a none = some b → b.poison = false →
      State.issueAll n c [(m, fabric)] s =
        (s.bufDrop n c (b.line * 128)).updCtx n c fun x => State.sPut x r (BitVec.ofNat 64 (lineBits b.data k 64)))
    ∧ (∀ t cause, x.tx = some t → t.cause = some cause → fabric / 2 ^ 52 = s.node →
      State.issueAll n c [(m, fabric)] s = s.setCtx n c (State.deadEffect m.why x))
    ∧ ∀ va (bs : List (Byte × Bool)), va % 128 = 0 → bs.length = 128 → ∃ r : State.MemReq, State.storeReqs va bs = [r]
        ∧ r.va = va ∧ r.plain = Op.wrUnc ∧ r.pkt.len = 4 ∧ r.pkt.poison = bs.any (·.2)
        ∧ ∀ i < 128, lineByte r.pkt.data i = (bs.getD i (0, false)).1)

/-- Transaction commands of a context (R170): TXOPEN, TXCOMMIT and TXABORT send their packet to the coordinator and wait for its answer;
without a transaction they finish at once. -/
def Obligations.TxRows : Prop :=
  ∀ (s : State) (n : Core) (c : Ctx) (w : Fetch) (x : Context),
    let d := dOf w.word
    let next := { x with pc := x.pc + 1 }
    let sent (t : State) (op : Nat) (id : BitVec 32) (die data : Nat) (why : OutFor) : Prop :=
      Sent s t (fun p => p.opcode = BitVec.ofNat 8 op ∧ p.txid = id ∧ p.dlocal = BitVec.ofNat 8 (0xC0 + die)
        ∧ p.data = BitVec.ofNat 1024 data ∧ p.principal = BitVec.ofNat 20 x.task.principal)
      ∧ ∃ tag o, s.freeTag (State.coreLocal n) = some tag ∧ t.outs.look (State.outKey (State.coreLocal n) tag) = some o
        ∧ o.who = .ctx n c ∧ o.why = why
    (Due s Mo.txopen n c w x → s.busyS n c d = false → s.busyTx n c = false → s.mayIssue n c 1 = true →
      (State.txIsOpen x = false → (s.freeTag (State.coreLocal n)).isSome = true → Completes (.txopen n c w) s fun t =>
        t.getCtx n c = some { next with tx := some {} } ∧ sent t Op.txOpen 0 (State.coreDie n) 0 (.txOpen d))
      ∧ (State.txIsOpen x = true →
        exec (.txopen n c w) s = .next ((s.setCtx n c (State.sPut next d (State.txRefusal 0 St.busy))).issued n c)))
    ∧ (Due s Mo.txcommit n c w x → s.ctxOuts n c = [] →
      (∀ id T, x.tx = some T → T.txid = some id → (s.freeTag (State.coreLocal n)).isSome = true → Completes (.txcommit n c w) s fun t =>
        t.getCtx n c = some next ∧ sent t Op.txCommit id (State.txidDie id) (T.ok % 65536) (.txCommit d))
      ∧ (x.tx = none → exec (.txcommit n c w) s =
        .next ((s.setCtx n c { State.sPut next d (State.txRefusal 0xA St.txAbort) with tx := none }).issued n c)))
    ∧ (Due s Mo.txabort n c w x → s.busyS n c d = false → s.busyTx n c = false → s.mayIssue n c 1 = true →
      (∀ id T, x.tx = some T → T.txid = some id → (s.freeTag (State.coreLocal n)).isSome = true → Completes (.txabort n c w) s fun t =>
        t.getCtx n c = some next ∧ sent t Op.txAbort id (State.txidDie id) 0 (.txAbort d))
      ∧ (x.tx = none → exec (.txabort n c w) s = .next ((s.setCtx n c { State.sPut next d 0 with tx := none }).issued n c)))

/-- Branches and waits, and moves within a core. NOP, branches, WAIT and TXCHK (Table 07-14, R150, R170). SEXT, VLDS and VSTS move elements
and registers inside the core (R124, R145, R180): scratch is read and written in 128-byte blocks; a corrected scratch error counts. -/
def Obligations.ControlRows : Prop :=
  (BranchRow .beq Mo.beq (fun a b => a = b) ∧ BranchRow .bne Mo.bne (fun a b => a ≠ b)
  ∧ BranchRow .blt Mo.blt (fun a b => a.toInt < b.toInt) ∧ BranchRow .bge Mo.bge (fun a b => b.toInt ≤ a.toInt)
  ∧ ∀ (s : State) (n : Core) (c : Ctx) (w : Fetch) (x : Context),
    (Due s Mo.nop n c w x → exec (.nop n c w) s = .next ((s.setCtx n c { x with pc := x.pc + 1 }).issued n c))
    ∧ (Due s Mo.wait n c w x → s.ctxOuts n c = [] →
      exec (.wait n c w) s = .next (((s.setCtx n c { x with pc := x.pc + 1 }).issued n c).bufClear n c))
    ∧ (Due s Mo.wait n c w x → s.ctxOuts n c ≠ [] → exec (.wait n c w) s = .next s)
    ∧ (Due s Mo.txchk n c w x → s.busyS n c (dOf w.word) = false → exec (.txchk n c w) s = .next
        ((s.setCtx n c (State.sPut { x with pc := x.pc + 1 } (dOf w.word) (BitVec.ofNat 64 ((x.tx.bind (·.cause)).getD 0)))).issued n c)))
    ∧ (∀ (s : State) (n : Core) (c : Ctx) (w : Fetch) (x : Context) (e : Nat),
    let i := w.word
    let next := { x with pc := x.pc + 1 }
    (∀ f, Due s Mo.sext n c w x → State.elemOf x (fmtOf i) = f → f.cls = 0 → f.width ≠ 0 → [bOf i, dOf i].any (s.busyS n c) = false →
      s.busyV n c 0 (aOf i) = false → (State.vGet x 0 (aOf i)).2 = false →
      exec (.sext n c w none) s = .next ((s.setCtx n c (State.sPut next (dOf i) (BitVec.ofNat 64 (regElem f.width (State.vGet x 0 (aOf i)).1
        ((State.sGet x (bOf i) + immOf i).toNat % perReg f.width))))).issued n c))
    ∧ (enginesOf i = [e] → Due s Mo.vlds n c w x → [aOf i, cOf i].any (s.busyS n c) = false → s.busyV n c e (dOf i) = false →
      State.scratchBlock x i (aOf i) e % 128 = 0 →
      let v := x.scratch.lookD (State.scratchBlock x i (aOf i) e / 128) (0, false)
      ∀ ecc : ScratchEcc,
      let found := if e = 0 then ecc.e0 else if e = 1 then ecc.e1 else if e = 2 then ecc.e2 else ecc.e3
      let read : State := (s.setCtx n c (State.vPut next e (dOf i) v)).issued n c
      (found = .clean → exec (.vlds n c w ecc) s = .next read)
        ∧ (found = .corrected → exec (.vlds n c w ecc) s = .next (read.bump F.corScratchEcc_corrected n))
        ∧ (found = .uncorrectable → Completes (.vlds n c w ecc) s fun t => t.getCtx n c = some (State.vPut next e (dOf i) (v.1, true))
          ∧ t.mem = s.mem))
    ∧ (enginesOf i = [e] → Due s Mo.vsts n c w x → [bOf i, cOf i].any (s.busyS n c) = false → s.busyV n c e (aOf i) = false →
      State.scratchBlock x i (bOf i) e % 128 = 0 →
      exec (.vsts n c w none) s = .next ((s.setCtx n c { next with
        scratch := x.scratch.putC (0, false) (State.scratchBlock x i (bOf i) e / 128) (State.vGet x e (aOf i)) }).issued n c)))

/-- The engine rows and the results they leave. Engine instructions (Table 07-14) write what their function of the registers gives. Results
of engine functions, element by element of the wide pair (R126, R139): VCLR gives zero, WBC the element that Sx names, WMAX and WMIN the
larger and the smaller, WFMA under round to nearest even the one rounding of the exact a × b + c. The residues that the checkers compare
tell two integer elements apart unless their difference is a multiple of 21 (R336). -/
def Obligations.EngineRows : Prop :=
  (EngineRow .vclr Mo.vclr engVclr ∧ EngineRow .vfma Mo.vfma engVfma ∧ EngineRow .wfma Mo.wfma engWfma
  ∧ EngineRow .wmax Mo.wmax (engMaxMin false) ∧ EngineRow .wmin Mo.wmin (engMaxMin true) ∧ EngineRow .wexp2 Mo.wexp2 engWexp2
  ∧ EngineRow .wrcp Mo.wrcp engWrcp ∧ EngineRow .wrsq Mo.wrsq engWrsq ∧ EngineRow .wsqrt Mo.wsqrt engWsqrt
  ∧ EngineRow .wdiv Mo.wdiv engWdiv ∧ EngineRow .cvt Mo.cvt engCvt ∧ EngineRow .qnt Mo.qnt engQnt ∧ EngineRow .dot Mo.dot engDot
  ∧ EngineRow .dotr Mo.dotr engDotr ∧ EngineRow .wmac Mo.wmac engWmac ∧ EngineRow .red Mo.red engRed ∧ EngineRow .wbc Mo.wbc engWbc)
    ∧ (∀ (i : EngIn) (w : DWord) (j : Nat), j < 64 →
    let pairAt (o : EngOut) : Option Nat := match o.writes with
      | [(r, lo), (r', hi)] => if r = dOf w ∧ r' = dOf w + 1 then (wideElems lo hi)[j]? else none
      | _ => none
    let a := (i.wide (aOf w)).getD j 0
    let b := if bcastOf w then (i.wide (bOf w)).getD i.elemK 0 else (i.wide (bOf w)).getD j 0
    (engVclr i w).writes = [(dOf w, 0)]
    ∧ pairAt (engWbc i w) = some ((i.wide (aOf w)).getD i.elemK 0)
    ∧ pairAt (engMaxMin false i w) = some (maxMin false a b)
    ∧ pairAt (engMaxMin true i w) = some (maxMin true a b)
    ∧ (rndOf w = 0 → pairAt (engWfma i w) =
        some ((Fmt.b32.encode .ieee 0 0 (fmaNum false (Fmt.b32.decode a) (Fmt.b32.decode b)
          (Fmt.b32.decode ((i.wide (cOf w)).getD j 0)))).1 % 2 ^ 32) ∧ (engWfma i w).gens = i.gens)
    ∧ ∀ (f : Fmt) (u v : Nat), f.cls = 1 → 0 < f.width → u < 2 ^ f.width → v < 2 ^ f.width →
        (checkedElem f u = checkedElem f v ↔ (BitVec.ofNat f.width u).toInt % 21 = (BitVec.ofNat f.width v).toInt % 21))
/-! ## Kernels, sequences, formats (chapters 06 and 07) -/

namespace Sys2Proof.Machine

/-- A kernel row that runs unit after unit when its turn has come (R122, R147): the work of a unit whose lines are read goes into the context
with its flags and the free values it drew, and what it stores is free where ranges overlap in part (R152, log 65); a stored unit gives way
to the next; the task of a plan ends after its last unit. `look` is the context as the kernel looks at it. -/
def KernelRow (row : Core → Ctx → Instr) (kind : Nat) (is : Context → Prop) (look : Context → Context) (total : Context → Nat)
    (plan : Context → Nat → KPlan) (done : Context → Nat → Nat) : Prop :=
  ∀ (s : State) (n : Core) (c : Ctx) (x : Context), s.quiet → s.kernelDue kind n c = some x → is x →
    let y := look x
    let u : State := s.issued n c
    (∀ (w : Work) (drawn aux : Nat), x.stage = 0 → x.unit < total x → plan y s.free = .work w drawn aux →
      let z := { y with puts := (if overlapped y then w.undefined (s.free + drawn) else w).puts, stage := 1, aux := aux
                        gens := if w.gens.isEmpty then x.gens else x.gens.put (x.unit % 4) w.gens }
      exec (row n c) s = .next { (u.setCtx n c z).setFlags n c w.flags with
        free := s.free + drawn + if overlapped y then w.puts.length else 0 })
    ∧ (x.stage ≠ 0 → x.puts = [] → s.ctxOuts n c = [] → exec (row n c) s = .next (u.setCtx n c
        { y with unit := x.unit + 1, stage := 0, got := [], retries := 0, res0 := done x (x.unit + 1), res1 := x.res1 + x.aux }))
    ∧ (x.stage = 0 → total x ≤ x.unit → s.ctxOuts n c = [] → x.task.queue = none → exec (row n c) s = .next (u.setCtx n c
        { x with phase := .ended (if x.poisoned = 0 then St.ok else St.poison) }))

end Sys2Proof.Machine

/-- The streaming kernels, the heads of DECODE_ATTN and the bags of GATHER_REDUCE (R155 to R162). -/
def Obligations.KernelRows : Prop :=
  let stream (i : Nat) (x : Context) : Nat := State.unitsOf (x.fld i 8) unitElems
  let elems (i : Nat) (x : Context) (u : Nat) : Nat := min (u * unitElems) (x.fld i 8)
  let query (x : Context) : Context := { x with kept := (queryLines x).filterMap fun l => (gotLine x l).map (l, ·) }
  KernelRow .reduce 0x01 (fun _ => True) (fun x => x) (stream 24) planReduce (elems 24)
  ∧ KernelRow .scaleAcc 0x02 (fun _ => True) (fun x => x) (stream 16) (fun x _ => planScaleAcc x) (elems 16)
  ∧ KernelRow .optStep 0x03 (fun x => x.txn = false) (fun x => x) (stream 16) planOpt (elems 16)
  ∧ KernelRow .decodeAttn 0x04 (fun _ => True) query (fun x => x.fld 20 1) planAttn (fun _ u => u)
  ∧ KernelRow .gatherReduce 0x05 (fun _ => True) (fun x => x) (fun x => x.fld 28 4) planGather (fun _ u => u)
  ∧ KernelRow .quantize 0x06 (fun _ => True) (fun x => x) (stream 16) (fun x _ => planQuantize x) (elems 16)

/-- CAS_SWEEP goes on to its next line when no element of the line is left to swap, and swaps an element that matches by an atomic of its
width (R163); a kernel that runs its units in transactions opens one for each (R158, R163); a task of kind USER begins the sequence that it has latched (R164). -/
def Obligations.SweepAndUser : Prop :=
  ∀ (s : State) (n : Core) (c : Ctx) (x : Context), s.quiet →
    (∀ data, s.kernelDue 0x07 n c = some x → x.txn = false → x.unit < x.fld 24 8 → x.got.look (casAddr x x.unit / 128) = some (data, false) →
      (∀ j < casInLine x x.unit, x.aux ≤ x.unit + j →
        casHit x (lineBits data (casAddr x (x.unit + j) % 128) (8 * casW x)) = false) → s.ctxOuts n c = [] →
      exec (.casSweep n c) s = .next ((s.issued n c).setCtx n c { x with
        unit := x.unit + casInLine x x.unit, aux := x.unit + casInLine x x.unit, got := [], res1 := x.unit + casInLine x x.unit }))
    ∧ (∀ data j a u t, s.kernelDue 0x07 n c = some x → x.txn = false → x.tx = none → x.unit < x.fld 24 8 →
      x.got.look (casAddr x x.unit / 128) = some (data, false) →
      (List.range (casInLine x x.unit)).find? (fun j => decide (x.aux ≤ x.unit + j)
        && casHit x (lineBits data (casAddr x (x.unit + j) % 128) (8 * casW x))) = some j →
      (s.issued n c).translateAll n c x [casAddr x (x.unit + j)] 2 = (.ok [a], u) → u.mayIssue n c 1 = true → u.lineBusy n c a = false →
      u.getCtx n c = some x → u.quiet → u.freeTag (State.coreLocal n) = some t →
      Completes (.casSweep n c) s fun v => v.getCtx n c = some { x with aux := x.unit + j + 1 }
        ∧ Sent u v (fun p => p.opcode = BitVec.ofNat 8 Op.atomic ∧ p.addr = BitVec.ofNat 64 a ∧ p.len = 3 ∧ p.tag = BitVec.ofNat 14 t
            ∧ p.sub.toNat % 16 = 9))
    ∧ (∀ opt : Bool,
      let i : Instr := match opt with | true => .optStep n c | false => .casSweep n c
      s.kernelDue (match opt with | true => 3 | false => 7) n c = some x → x.txn = true →
      (x.stage = 0 → x.unit < (match opt with | true => State.unitsOf (x.fld 16 8) (x.fld 26 2) | false => 1) → s.ctxOuts n c = [] →
        (s.freeTag (State.coreLocal n)).isSome = true →
        Completes i s fun v => v.getCtx n c = some { x with tx := some {}, stage := 1 }
          ∧ Sent s v (fun p => p.opcode = BitVec.ofNat 8 Op.txOpen))
      ∧ (x.stage = 6 → Completes i s fun v => ∃ y, v = (s.issued n c).setCtx n c y ∧ y.unit = x.unit + 1 ∧ y.stage = 0 ∧ y.tx = none ∧ y.got = []))
    ∧ (s.kernelDue 0x10 n c = some x → x.stage = 0 → exec (.user n c) s = .next ((s.setCtx n c { x with stage := 1 }).issued n c))

/-- LOAD stores a sequence that keeps every rule of Table 07-15 and names the first broken one of another; UNLOAD removes a handle that no
task names (R171, R172). Word 3 of a user format submits it when it meets Table 06-8a, and raises FORMAT_REJECTED otherwise (R135,
R136). -/
def Obligations.SequenceAndFormatCommands : Prop :=
  ∀ (s : State) (p : Path) (data : Word), s.wf = true → s.quiet →
    let w (op : Nat) : WordWrite := wordWrite p .cluSeqCmd 0 0 (fieldIn data 28 2 op)
    let u (op : Nat) : State := s.stored (w op)
    let h (op : Nat) : Nat := (u op).rd F.cluSeqCmd_handle
    let part (op : Nat) : Nat := (u op).rd F.cluSeqCmd_partition
    let len := (u 1).rd F.cluSeqCmd_length
    let off := (u 1).rd F.cluSeqSrc_offset
    let own (op : Nat) : Prop := s.pathPartition p = none ∨ s.pathPartition p = some (part op)
    (∀ b v, s.accepts (w 1) → s.flag F.cluSeqStatus_busy = false → own 1 → 1 ≤ len → len ≤ 4096 → off % 128 = 0 →
      ((u 1).partitioned = true ∨ part 1 = 0) → (u 1).seqs.look (h 1) = none → (len + 63) / 64 * 64 ≤ (u 1).rd F.cluSeqStatus_free →
      State.seqRead (part 1) ((len * 8 + 127) / 128) off [] (u 1) = (.bytes b, v) → v.quiet →
      let prog := (List.range len).map fun i => BitVec.ofNat 64 (leNat b (8 * i) 8)
      let fs := (List.range 64).map fun i => Fmt.ofReg (v.stageReg .engFmt i 0)
      (firstBroken fs len 0 prog = none → Completes (.load p data) s fun t =>
        t.seqs = s.seqs.put (h 1) { partition := part 1, prog := prog } ∧ t.rd F.cluSeqStatus_result = St.ok
          ∧ t.rd F.cluSeqStatus_busy = 0 ∧ t.mem = v.mem ∧ t.home = v.home)
      ∧ (∀ i r, firstBroken fs len 0 prog = some (i, r) → Completes (.load p data) s fun t =>
        t.seqs = s.seqs ∧ t.rd F.cluSeqStatus_result = St.badRequest ∧ t.rd F.cluSeqStatus_failIndex = i % 2 ^ F.cluSeqStatus_failIndex.width
          ∧ t.rd F.cluSeqStatus_failRule = r % 2 ^ F.cluSeqStatus_failRule.width ∧ t.mem = v.mem))
    ∧ (s.accepts (w 2) → s.flag F.cluSeqStatus_busy = false → own 2 →
      ((u 2).seqNamed (h 2) = false → Completes (.unload p data) s fun t =>
        t.seqs = s.seqs.del (h 2) ∧ t.rd F.cluSeqStatus_result = St.ok ∧ t.mem = s.mem ∧ t.clu = s.clu)
      ∧ ((u 2).seqNamed (h 2) = true → Completes (.unload p data) s fun t =>
        t.seqs = s.seqs ∧ t.rd F.cluSeqStatus_result = St.busy ∧ t.mem = s.mem ∧ t.clu = s.clu))
    ∧ (∀ i : Fin 64, 16 ≤ i.val → s.turnedAway p (State.nodeOffset .engFmt i 3) true = none → s.secure p .engFmt = true →
      s.unitOff .engFmt i = false →
      let v := BitVec.ofNat 128 ((s.formatWord i 0).toNat + (s.formatWord i 1).toNat * 2 ^ 32 + (s.formatWord i 2).toNat * 2 ^ 64)
      (s.formatOk v = true → exec (.engFmtSubmit p i data) s = .next
        (({ s with fmtBuf := ((s.fmtBuf.del (4 * i)).del (4 * i + 1)).del (4 * i + 2) } : State).setReg .engFmt i v))
      ∧ (s.formatOk v = false → Completes (.engFmtSubmit p i data) s fun t => t.reg .engFmt i = s.reg .engFmt i ∧ t.fmtBuf = s.fmtBuf
        ∧ t = s.raise { type := 0x1201, sev := 1, status := St.badRequest, arg := [BitVec.ofNat 8 i] }))

/-! ## Tasks and translation (chapter 08) -/

namespace Sys2Proof.Machine

/-- Die d's dispatcher reads entry b at HEAD of queue q, whose turn it is (R175, R176). -/
abbrev Reads (s : State) (d q : Nat) (b : List Byte) (u : State) : Prop :=
  s.wf = true ∧ s.quiet ∧ (s.dispatchTurn d).map (·.1) = some q ∧ s.readEntry .host q 64 = (.entry b, u) ∧ u.quiet
    ∧ s.rd F.cluQcfg_size q ≤ 12

/-- HEAD of queue q has gone on by one entry. -/
def Taken (s t : State) (q : Nat) : Prop := t.rd F.cluQptr_head q = (s.rd F.cluQptr_head q + 1) % 2 ^ s.rd F.cluQcfg_size q

/-- CTAIL of queue q has gone on by k records. -/
def Records (s t : State) (q k : Nat) : Prop := t.rd F.cluQptr_ctail q = (s.rd F.cluQptr_ctail q + k) % 2 ^ s.rd F.cluQcfg_size q

end Sys2Proof.Machine

/-- Submission entries (Table 08-1): TASK joins its queue's window with what the queue binds; INVALIDATE starts a batch, removes what it
names from the caches and changes the epoch; RESUME releases a saved task; KILL ends a running task without requests. Each takes its
entry and its turn, and a command writes its record (R176, R188, R193). -/
def Obligations.SubmissionEntries : Prop :=
  ∀ (s : State) (d : Die) (q : HostQueue) (b : List Byte) (u : State), Reads s d q b u → State.entryOk b = true →
    let p := s.rd F.cluQcfg_partition q
    (State.seType b = 1 → Completes (.task d q) s fun t => Taken s t q ∧ t.mem = u.mem ∧ t.home = u.home
      ∧ t.clu.reserved.lookD q 0 = s.clu.reserved.lookD q 0 + 1
      ∧ ∃ T : Task, t.clu.window.lookD q [] = s.clu.window.lookD q [] ++ [T] ∧ T.id = s.taskId q (s.rd F.cluQptr_head q) ∧ T.queue = some q.val
        ∧ T.partition = p ∧ T.asid = s.rd F.cluQcfg_asid q ∧ T.principal = s.rd F.cluQcfg_principal q ∧ T.addr = State.seAddr b
        ∧ T.place = State.sePlace b ∧ T.target = State.seTarget b ∧ T.seed = State.seValue b % 2 ^ 32)
    ∧ (State.seType b = 2 → s.ptu.batch = [] → Completes (.invalidate d q) s fun t => Taken s t q ∧
      let i : InvCmd := { queue := q, asid := s.rd F.cluQcfg_asid q, gen := State.seArg b, all := State.sePlace b == 0,
                          first := State.seAddr b / 2 ^ 16, pages := State.seValue b, tag := State.seTag b }
      t.ptu.batch = [i] ∧ (∀ e ∈ t.ptu.tc, State.invNames i e.2 = false)
        ∧ (∀ l ∈ t.ptu.core, ∀ e ∈ l.2, State.invNames i e = false) ∧ (SMap.sorted s.ptu.gen = true → t.ptu.gen.lookD i.asid 0 = i.gen)
        ∧ ∀ d' < 4, t.rd F.ptuStatus_epoch d' = 1 - s.rd F.ptuStatus_epoch d' ∧ t.rd F.ptuStatus_invBusy d' = 1)
    ∧ (∀ v, State.seType b = 3 → s.clu.saved = [v] → v.partition = p → v.ctx.task.id = State.seArg b → v.moving = false →
      v.ctx.phase = .waiting → s.recorded v.ctx.task.id = true →
      Completes (.resume d q) s fun t => Taken s t q ∧ Records s t q 1 ∧ t.clu.saved = [{ v with moving := true }] ∧ t.clu.ctx = s.clu.ctx)
    ∧ (∀ n c x, State.seType b = 4 → s.taskCtx p (State.seArg b) = some (n, c, x) → x.phase = .run → s.ctxOuts n c = [] → x.tx = none →
      x.task.queue = some q.val → s.revoking p = false → SMap.sorted s.clu.ctx = true → c < 8 →
      Completes (.kill d q) s fun t => Taken s t q ∧ Records s t q 2 ∧ t.getCtx n c = none ∧ t.clu.window = s.clu.window)

/-- A task is placed, starts and ends. A window's head enters the eligible core with the most free contexts (R178), and starts once its
descriptor is read (R148, R179): the registers are clear, the formats latched, the generators seeded; a USER task has its sequence latched
and its arguments in S1 to S10. A task's last instruction, once its requests are performed, writes its END record and frees the context
(R145, R177); a plan's task waits for its collective unit. -/
def Obligations.TasksStartAndEnd : Prop :=
  (∀ (s : State), s.wf = true → s.quiet →
    (∀ (q : HostQueue) (T : Task) (ts : List Task) (n : Core) (c : Ctx), (∀ v ∈ s.clu.saved, v.moving = false) → SMap.sorted s.clu.window = true →
      s.clu.window.lookD q [] = T :: ts → s.placeOn T.partition T.place T.target = some (n.val, c.val) → T.addr < 2 ^ 57 → T.plan = none →
      s.clu.gated.contains n.val = false → s.flag F.corPfCtrl_en n = false → s.clu.buf.lookD (n.val / 9) [] = [] →
      Completes (.taskPlacement q) s fun t => t.clu.window.lookD q [] = ts ∧ t.getCtx n c = some { task := T } ∧ t.ctxFlags n c = 0)
    ∧ (∀ (n : Core) (c : Ctx) (x : Context), s.getCtx n c = some x → x.phase = .fetch → s.coreRuns n = true →
      (∀ l ∈ State.descLines x, (x.got.look l).map (·.2) = some false) →
      let y := s.startCtx n x (gotBytes x x.task.addr (max 16 (16 * leNat (gotBytes x (x.task.addr + 1) 1) 0 1)))
      descOk ((s.setCtx n c y).clearFlags n c) y = true →
      exec (.taskStart n c) s = .next ((s.setCtx n c y).clearFlags n c) ∧ (y.kind ≠ 0x10 → y.sreg = []) ∧ y.vreg = [] ∧ y.scratch = [] ∧ y.pc = 0
        ∧ y.phase = .run ∧ y.task.fmts = (List.range 64).map (fun i => s.stageReg .engFmt i (State.coreDie n))
        ∧ ∀ q, y.kind = 0x10 → s.seqs.look (y.fld 3 1) = some q → y.task.prog = q.prog
          ∧ ∀ i < 10, State.sGet y (i + 1) = BitVec.ofNat 64 (y.fld (16 + 8 * i) 8)))
    ∧ (∀ (s : State) (n : Core) (c : Ctx) (w : Fetch) (x : Context), s.wf = true → Due s Mo.endTask n c w x → s.ctxOuts n c = [] →
    (∀ q, x.task.queue = some q → s.revoking x.task.partition = false → SMap.sorted s.clu.ctx = true →
      SMap.sorted s.clu.reserved = true → s.rd F.cluQcfg_size q ≤ 12 → q < 64 →
      Completes (.endTask n c w) s fun t => Records s t q 1 ∧ t.getCtx n c = none ∧ t.clu.window = s.clu.window
        ∧ t.clu.reserved.lookD q 0 = s.clu.reserved.lookD q 0 - 1)
    ∧ (x.task.queue = none → exec (.endTask n c w) s = .next (s.setCtx n c
        { x with phase := .ended (if x.poisoned = 0 then St.ok else St.poison) })))

/-- A walk whose generation holds ends with its leaf in the die's cache (R185, R186); one that must restart does so up to GEN_RETRY times,
after which its waiters fault with BUSY; a generation behind the expected one faults at once. -/
def Obligations.Walks : Prop :=
  ∀ (s : State) (d : Die) (i : Fin 32) (w : PWalk), s.wf = true → s.quiet →
    let k := 32 * d.val + i.val
    s.ptu.walks.look k = some w →
    (∀ gen root u e v root' y key va need, w.again = false →
      (w.gen0 = none ∧ s.readAsd w.asid = (.ok gen root, u) ∨ w.gen0 = some (gen, root) ∧ u = s) →
      State.genBehind (u.ptu.gen.lookD w.asid 0) gen = false → gen % 2 = 0 →
      State.walkFrom (s.asdOf w.asid).2 w.asid (w.page * 2 ^ 16) 3 root (u.updWalk k fun w => { w with gen0 := some (gen, root) }) = (.leaf e, v) →
      v.readAsd w.asid = (.ok gen root', y) → State.genBehind (y.ptu.gen.lookD w.asid 0) gen = false → y.quiet →
      w.waiters = [(key, va, need)] → key < 1152 → State.TcEntry.covers e w.asid va need = true → e.asid = w.asid →
      Completes (.translationWalkDone d i) s fun t => t.ptu.walks = y.ptu.walks.del k ∧ (∃ a, t.ptu.tc.look a = some e) ∧ t.mem = y.mem
        ∧ t.clu.ctx = y.clu.ctx)
    ∧ (∀ gen root u key va need x, w.again = false → w.gen0 = none → s.readAsd w.asid = (.ok gen root, u) → u.quiet →
      State.genBehind (u.ptu.gen.lookD w.asid 0) gen = true → w.waiters = [(key, va, need)] → key < 1152 →
      u.getCtx (key / 8) (key % 8) = some x → x.phase = .run →
      Completes (.translationWalkDone d i) s fun t => t.getCtx (key / 8) (key % 8) = some { x with phase := .fault 5 va false } ∧ t.mem = u.mem)
    ∧ (w.again = true →
      (∀ gen root u, w.restarts < s.rd F.ptuCtrl_genRetry → s.readAsd w.asid = (.ok gen root, u) → u.quiet →
        State.genBehind (u.ptu.gen.lookD w.asid 0) gen = false →
        exec (.walkRestart d i) s = .next (u.updWalk k fun w =>
          { w with again := false, restarts := w.restarts + 1, gen0 := some (gen, root) }))
      ∧ (∀ key va need x, s.rd F.ptuCtrl_genRetry ≤ w.restarts → w.waiters = [(key, va, need)] → key < 1152 →
        s.getCtx (key / 8) (key % 8) = some x → x.phase = .run → Completes (.walkRestart d i) s fun t =>
          (SMap.sorted s.ptu.walks = true → t.ptu.walks.look k = none) ∧ t.getCtx (key / 8) (key % 8) = some { x with phase := .fault 4 va false }
            ∧ t.mem = s.mem ∧ t.home = s.home))

/-- A faulted task goes to the lowest free slot of its partition's save area (Table 08-7, R192) and comes back to its instruction (R193); a
batch of invalidations whose old epoch is drained writes its records and lets INV_BUSY fall (R188, R189). -/
def Obligations.SaveAndDrain : Prop :=
  ∀ (s : State), s.wf = true → s.quiet →
    (∀ (n : Core) (c : Ctx) (x : Context) (cause va slot : Nat), s.getCtx n c = some x → x.phase = .fault cause va false → s.ctxOuts n c = [] →
      x.task.plan = none → SMap.sorted s.clu.ctx = true → s.freeSlot x.task.partition = some slot →
      Completes (.taskSaveDone n c) s fun t => t.getCtx n c = none ∧ t.clu.saved = s.clu.saved ++ [{
        partition := x.task.partition, slot := slot, ctx := { x with phase := .waiting }, flags := BitVec.ofNat 4 (s.ctxFlags n c) }])
    ∧ (∀ (n : Core) (c : Ctx) (x : Context) (slot : Nat), s.getCtx n c = some x → x.phase = .restoring slot → x.task.desc ≠ [] →
      Completes (.taskRestoreDone n c true) s fun t => t.getCtx n c = some { x with phase := .run } ∧ t.mem = s.mem ∧ t.home = s.home
        ∧ t.clu.saved = s.clu.saved.filter (fun v => !(v.partition == x.task.partition && v.slot == slot))
        ∧ ∀ v ∈ s.clu.saved, v.partition = x.task.partition → v.slot = slot →
          (∀ v' ∈ s.clu.saved, v'.partition = v.partition → v'.slot = slot → v' = v) → t.ctxFlags n c = v.flags.toNat)
    ∧ (∀ i, s.ptu.batch = [i] → s.ptu.next = [] → s.oldEpochBusy = false → i.queue < 64 → s.rd F.cluQcfg_size i.queue ≤ 12 →
      Completes .invalidateDrained s fun t => t.ptu.batch = [] ∧ Records s t i.queue 1 ∧ (∀ d < 4, t.rd F.ptuStatus_invBusy d = 0)
        ∧ t.clu.ctx = s.clu.ctx)

/-! ## Collectives and copies (chapters 09 and 10) -/

namespace Sys2Proof.Machine

/-- A counter went on by one, unless it is full. -/
abbrev Counts (f : Fld) (i : Nat) (s t : State) : Prop := t.rd f i = min (s.rd f i + 1) (2 ^ f.width - 1)

/-- A packet that f describes was sent between s and t, perhaps among others. -/
def SentTo (s t : State) (f : Packet → Prop) : Prop :=
  (∃ p ∈ t.fab.inbox.drop s.fab.inbox.length, f p) ∨ ∃ h ∈ t.fab.held.drop s.fab.held.length, f h.pkt

/-- A packet for the endpoint e. -/
def Toward (p : Packet) (e : Endpoint) : Prop := p.addr = BitVec.ofNat 64 (e.toNat / 256 * 2 ^ 52) ∧ p.dlocal = BitVec.ofNat 8 e.toNat

/-- Every participant of a record was sent a packet of an opcode. -/
def TellsAll (s t : State) (r : PlanRec) (op : Nat) : Prop :=
  ∀ e ∈ r.entries, SentTo s t fun p => p.opcode = BitVec.ofNat 8 op ∧ Toward p e.id

/-- The low half of COL_PLAN_CMD with an operation, and the plan it names. -/
def planWrite (p : Path) (data : Word) (op : Nat) : WordWrite := wordWrite p .colPlanCmd 0 0 (fieldIn data 8 2 op)

/-- Plan pl is disarming (R204): it awaits an answer of every participant. -/
def Disarming (x : Plan) (s t : State) (pl : Nat) (r : PlanRec) : Prop :=
  t.getPlan pl = { x with run := none, answered := [], leaving := List.range r.entries.length } ∧ t.planState pl = 3
    ∧ t.rd F.colPlanStatus_running pl = 0 ∧ TellsAll s t r Op.colDisarm

/-- Plan pl aborted with a cause (R212): its participants hear of it, and it disarms. -/
def Aborted (x : Plan) (s t : State) (pl cause : Nat) (failed : Option Nat) (r : PlanRec) : Prop :=
  Disarming x s t pl r ∧ t.rd F.colPlanStatus_result pl = St.planAbort ∧ t.rd F.colPlanStatus_cause pl = cause
    ∧ t.rd F.colPlanStatus_failedValid pl = failed.isSome.toNat
    ∧ (∀ i, failed = some i → t.rd F.colPlanStatus_failed pl = i % 512)
    ∧ ∀ i e, r.entries[i]? = some e → some i ≠ failed → SentTo s t fun p =>
        p.opcode = BitVec.ofNat 8 Op.colAbort ∧ p.sub = BitVec.ofNat 6 St.planAbort ∧ p.dlocal = BitVec.ofNat 8 e.id.toNat

/-- A plan is ON with a record and an open run, none of its tasks runs, and no line queue looks again when its lines are spoiled. -/
abbrev RunOpen (s : State) (pl : Nat) (r : PlanRec) : Prop :=
  s.planState pl = 2 ∧ s.flag F.colPlanStatus_running pl = true ∧ (s.getPlan pl).record = some r ∧ s.planTasks pl = [] ∧ (s.spoilRun pl).quiet

/-- The stored lines and the homes of t are those of s with the lines of pl's open run spoiled. -/
abbrev SpoilsRun (s t : State) (pl : Nat) : Prop := t.mem = (s.spoilRun pl).mem ∧ t.home = (s.spoilRun pl).home

/-- No WITHDRAW waits for shares to be demoted or tasks to end. -/
abbrev NoWithdrawWaits (s : State) : Prop := ∀ e ∈ s.home.ext, e.2.demoting = false

end Sys2Proof.Machine

/-- Commands and events of plans by state (Table 09-6, R203, R204, R212): ARM copies a record that holds and asks every participant;
the last answer turns the plan ON, a bad record back OFF; in STOPPING it is held with the record it names; DISARM, the aborts and the
timeouts disarm the plan; the last disarm answer turns it OFF; PURGE clears the reservations that no armed plan of this node holds. What an open run has touched is undefined after an abort (log 65). -/
def Obligations.PlanCommands : Prop :=
  ∀ (s : State) (p : Path) (data : Word) (pl : PlanId) (x : Plan) (r : PlanRec), s.wf = true → s.quiet → x = s.getPlan pl → data.toNat % 64 = pl.val →
    (∀ h b v y, s.accepts (planWrite p data 1) → s.planState pl = 0 →
      let off := s.rd F.colPlanSrc_offset
      let part := (s.findExt (· == .on) off).elim 0 (·.2.attr.partition)
      let armed : Plan := { src := off, floor := s.rd F.colCtrl_floor }
      let a := ((((((s.stored (planWrite p data 1)).wr F.colPlanStatus_result pl St.ok).setPlan pl armed).wr F.colPlanStatus_state pl 1).wr
        F.colPlanStatus_gen pl (s.rd F.colPlanStatus_gen pl + 1)).wr F.colPlanStatus_run pl 0).wr F.colPlanStatus_running pl 0
      State.seqRead part 1 off [] a = (.bytes h, v) → leNat h 4 2 ≤ 512 →
      State.seqRead part ((16 * leNat h 4 2 + 127) / 128) (off + 128) h v = (.bytes b, y) → off % 128 = 0 → leNat b 4 2 = leNat h 4 2 → y.quiet →
      r = PlanRec.ofBytes b ((List.range 64).map fun i => y.stageReg .engFmt i (pl / 16)) →
      (y.recordOk pl b r = true → Completes (.arm p data) s fun t => t.getPlan pl = { armed with record := some r } ∧ t.planState pl = 1
        ∧ t.rd F.colPlanStatus_gen pl = (s.rd F.colPlanStatus_gen pl + 1) % 256 ∧ t.rd F.colPlanStatus_run pl = 0
        ∧ t.rd F.colPlanStatus_running pl = 0 ∧ TellsAll y t r Op.colArm)
      ∧ (y.recordOk pl b r = false → Completes (.arm p data) s fun t => t.planState pl = 0 ∧ t.rd F.colPlanStatus_result pl = St.badRequest
        ∧ t.fab = y.fab ∧ t.col = y.col))
    ∧ (s.accepts (planWrite p data 1) → (s.planState pl = 1 ∨ s.planState pl = 2 ∨ s.planState pl = 4) → Completes (.arm p data) s fun t =>
        t.rd F.colPlanStatus_result pl = St.busy ∧ t.planState pl = s.planState pl ∧ t.col = s.col ∧ t.fab = s.fab)
    ∧ (s.accepts (planWrite p data 1) → s.planState pl = 3 → Completes (.arm p data) s fun t =>
        t.rd F.colPlanStatus_result pl = St.ok ∧ t.planState pl = 4 ∧ t.getPlan pl = { x with src := s.rd F.colPlanSrc_offset }
          ∧ t.fab = s.fab ∧ t.mem = s.mem)
    ∧ (x.record = some r → r.entries ≠ [] →
      (s.accepts (planWrite p data 2) → s.planState pl = 2 → s.flag F.colPlanStatus_running pl = false → Completes (.disarm p data) s fun t =>
        Disarming x s t pl r ∧ t.rd F.colPlanStatus_result pl = St.ok ∧ t.mem = s.mem ∧ t.home = s.home)
      ∧ (s.accepts (planWrite p data 3) → RunOpen (s.stored (planWrite p data 3)) pl r → Completes (.abort p data) s fun t =>
        Aborted x s t pl Pc.explicit none r ∧ SpoilsRun (s.stored (planWrite p data 3)) t pl)
      ∧ (RunOpen s pl r → Completes (.colRunTimeout pl) s fun t => Aborted x s t pl Pc.timeout none r ∧ SpoilsRun s t pl)
      ∧ (∀ q i, q.opcode.toNat = Op.colAbort → RunOpen (s.taken q) pl r → s.tagOf q.txid = some (pl.val, i) → s.isEntry pl i q.src = true → Completes (.colAbort q) s fun t =>
        Aborted x (s.taken q) t pl Pc.explicit none r ∧ SpoilsRun (s.taken q) t pl)
      ∧ (∀ i (k : Word), s.accepts (wordWrite p .colKill 0 0 (fieldIn k 31 1 1)) →
        RunOpen (s.stored (wordWrite p .colKill 0 0 (fieldIn k 31 1 1))) pl r → s.col.plans = [(pl.val, x)] → i < 512 →
        State.entryWhere x (fun e => e.toNat == k.toNat % 2 ^ 20) = some i → Completes (.colKill p k) s fun t =>
          Aborted x s t pl Pc.lost (some i) r ∧ SpoilsRun (s.stored (wordWrite p .colKill 0 0 (fieldIn k 31 1 1))) t pl)
      ∧ (s.planState pl = 1 → Completes (.colArmTimeout pl) s fun t =>
        Disarming x s t pl r ∧ t.rd F.colPlanStatus_result pl = St.timeout ∧ t.mem = s.mem)
      ∧ (∀ q i a b, q.opcode.toNat = Op.colArmAck → s.planState pl = 1 → s.tagOf q.txid = some (pl.val, i) → q.destNode = s.node → x.answered.contains i = false →
        (q.sub.toNat % 32 = 0 → s.isEntry pl i q.src = true → Completes (.colArmAck q a b) s fun t =>
          t.getPlan pl = { x with answered := x.answered ++ [i] } ∧ t.mem = s.mem ∧ t.home = s.home
            ∧ (x.answered.length + 1 = r.entries.length → t.planState pl = 2 ∧ t.rd F.colPlanStatus_result pl = St.ok)
            ∧ (x.answered.length + 1 ≠ r.entries.length → t.planState pl = 1))
        ∧ (q.sub.toNat % 32 ≠ 0 → Completes (.colArmAck q a b) s fun t =>
          Disarming x (s.taken q) t pl r ∧ t.rd F.colPlanStatus_result pl = q.sub.toNat % 32)))
    ∧ (s.planState pl = 3 → SMap.sorted s.col.plans = true → NoWithdrawWaits s →
      (Completes (.colArmTimeout pl) s fun t => t.planState pl = 0 ∧ t.getPlan pl = {} ∧ t.fab = s.fab ∧ t.mem = s.mem)
      ∧ ∀ q i, s.tagOf q.txid = some (pl.val, i) → s.isEntry pl i q.src = true → i ∈ x.leaving → Completes (.colDisarmAck q) s fun t => t.mem = s.mem ∧
          (if x.leaving.filter (· ≠ i) = [] then t.planState pl = 0 ∧ t.getPlan pl = {}
            else t.planState pl = 3 ∧ t.getPlan pl = { x with leaving := x.leaving.filter (· ≠ i) }))
    ∧ (∀ n : Port, s.accepts (wordWrite p .colPortRsv n 0 (fieldIn data 31 1 1)) → SMap.sorted s.col.rsv = true → Completes (.purge p n data) s fun t =>
        let own (e : Rsv) : Bool := e.planNode == s.node
        (t.col.rsv.lookD n []).Sublist (s.col.rsv.lookD n [])
        ∧ (t.col.rsv.lookD n []).filter own = (s.col.rsv.lookD n []).filter (fun e => own e && e.gen == s.rd F.colPlanStatus_gen e.plan
          && (s.planState e.plan == 1 || s.planState e.plan == 2))
        ∧ (∀ e ∈ t.col.rsv.lookD n [], e.planNode ≠ s.node → ∀ l ∈ s.col.rsv, ∀ y ∈ l.2, y.planNode = e.planNode → y.plan = e.plan →
          y.gen ≠ e.gen → 128 ≤ (y.gen + 256 - e.gen) % 256)
        ∧ t.col.plans = s.col.plans ∧ t.fab = s.fab ∧ t.mem = s.mem
        ∧ ∀ m, m ≠ n.val → t.col.rsv.lookD m [] = s.col.rsv.lookD m [])

/-- A node that forwards COL_ARM, or an answer of OK, installs an entry on the port it leaves (R203), and removes the plan's entries
towards both ends, on every port, as COL_DISARM passes (R204). Whose FLOOR an arm of another node takes is the model's choice (log 74). -/
def Obligations.ReservationsPass : Prop :=
  ∀ (s : State) (q : Packet) (n m : Port) (i : Nat) (h : Held), s.wf = true → s.quiet → s.findHeld q n = some (i, h) → h.pkt = q →
    s.mayTake q m = true → s.portRoom m q = true → q.chan = 4 →
    let l := s.col.rsv.lookD m []
    let dst := State.endpointOf q
    let plan := q.txid.toNat % 64
    let gen := q.txid.toNat / 2 ^ 6 % 256
    let floor (node : Nat) : Nat := s.armFloor node plan gen
    let goes (t : State) : Prop :=
      (t.getLink m).txq = (s.getLink m).txq ++ [if s.isTrunk m then { q with hop := q.hop + 1 } else q] ∧ t.fab.held = s.fab.held.eraseIdx i
        ∧ t.mem = s.mem ∧ t.home = s.home
    let fits (node : Nat) : Prop := (∀ e ∈ l, ¬ (e.planNode = node ∧ e.plan = plan ∧ e.gen = gen ∧ e.dst = dst)) ∧ l.length < 1024
      ∧ 2 * ((l.map (·.floor)).sum + floor node) ≤ State.colCredits (s.getLink m)
    let installs (node : Nat) (t : State) : Prop :=
      t.col.rsv.lookD m [] = l ++ [⟨node, plan, gen, dst, floor node⟩] ∧ t.rd F.colPortRsv_entries m = l.length + 1
    (q.opcode.toNat = Op.colArm → fits (q.src.toNat / 256) → Completes (.colArm q n m) s fun t => goes t ∧ installs (q.src.toNat / 256) t)
    ∧ (q.opcode.toNat = Op.colArm → 1024 ≤ l.length → (∀ e ∈ l, e.dst ≠ dst) → Completes (.colArm q n m) s fun t =>
        t.col = s.col ∧ t.link = s.link ∧ t.mem = s.mem
          ∧ Sent ((s.unhold i h)) t (fun a => a.opcode = BitVec.ofNat 8 Op.colArmAck ∧ a.sub = BitVec.ofNat 6 St.capacity ∧ a.txid = q.txid
            ∧ Toward a q.src))
    ∧ (q.opcode.toNat = Op.colArmAck → q.sub.toNat % 32 = 0 → q.destNode ≠ s.node → fits q.destNode → Completes (.colArmAck q n m) s fun t =>
        goes t ∧ installs q.destNode t)
    ∧ (q.opcode.toNat = Op.colDisarm → s.portUp m = true → (∀ e ∈ s.col.rsv, e.1 < 64) → SMap.sorted s.col.rsv = true →
        s.rsvPort (q.src.toNat / 256) plan gen dst = some m.val → Completes (.colDisarm q n) s fun t => goes t
          ∧ ∀ a < 64, t.col.rsv.lookD a [] = (s.col.rsv.lookD a []).filter fun e =>
            !(e.planNode == q.src.toNat / 256 && e.plan == plan && e.gen == gen && (e.dst == dst || e.dst == q.src)))

/-- A line of a contribution is counted and written to the plan's buffer (R207), and under BROADCAST passed on to every receiver (R210); a
line that the run does not expect aborts the plan with PROTOCOL (R209). A task's end counts its group; the last one of the last chunk ends
the run: COL_DONE to every participant, and the next run is expected (R210). -/
def Obligations.PlanRuns : Prop :=
  ∀ (s : State) (q : Packet) (pl : PlanId) (i : Nat) (x : Plan) (r : PlanRec), s.wf = true → s.quiet → x = s.getPlan pl → x.record = some r →
    s.planState pl = 2 →
    (q.opcode.toNat = Op.colPut → s.tagOf q.txid = some (pl.val, i) → s.isEntry pl i q.src = true →
      let u := x.run.getD {}
      let rank := r.senders.idxOf i
      let c := r.chunkOf q.offset
      let key := rank * 2 ^ 21 + c
      let had := u.lines.lookD key 0
      let due := q.txid.toNat / 2 ^ 23 = s.rd F.colPlanStatus_run pl ∧ q.offset % 128 = 0 ∧ q.offset < r.image r.inFmt ∧ i ∈ r.senders ∧ had < r.chunkLines c
      (due → r.broadcast = false → Completes (.colPut q) s fun t =>
        (t.getPlan pl).run = some { u with lines := u.lines.put key (had + 1), accepted := u.accepted + 1 }
          ∧ t.rd F.colPlanStatus_running pl = 1 ∧ t.mem = (s.bufWrite r (rank * r.image r.inFmt + q.offset) q.data q.poison).mem)
      ∧ (due → r.broadcast = true → r.push = true → r.pool = false → u.delivered = [] → had + 1 ≠ r.chunkLines c → 1 ≤ r.chunks → q.poison = false →
        Completes (.colPut q) s fun t => t.rd F.colPlanStatus_running pl = 1 ∧
          ∀ e ∈ r.entries, e.recv = true → SentTo (s.taken q) t fun a => a.opcode = BitVec.ofNat 8 Op.colResult ∧ a.data = q.data
            ∧ a.addr = BitVec.ofNat 64 (e.dest + q.offset) ∧ a.dlocal = BitVec.ofNat 8 e.id.toNat)
      ∧ (q.txid.toNat / 2 ^ 23 ≠ s.rd F.colPlanStatus_run pl → s.planTasks pl = [] → ((s.taken q).spoilRun pl).quiet → Completes (.colPut q) s fun t =>
        Aborted x (s.taken q) t pl Pc.protocol (some i) r ∧ SpoilsRun (s.taken q) t pl))
    ∧ (∀ (n : Core) (c : Ctx) (y : Context) (u : PlanRun), s.getCtx n c = some y → y.phase = .ended St.ok → y.task.plan = some pl.val → x.run = some u → NoWithdrawWaits s →
      let l := y.task.place
      (l ≠ State.lastStep r → Completes (.colTaskEnd n c) s fun t =>
        (t.getPlan pl).run = some { u with done := u.done ++ [(y.task.id, l, y.task.target)] } ∧ t.mem = s.mem)
      ∧ (l = State.lastStep r → r.broadcast = false → s.resultOpen pl = false → u.delivered.length + 1 = r.chunks → Completes (.colTaskEnd n c) s fun t =>
        (t.getPlan pl).run = none ∧ (t.getPlan pl).record = some r ∧ t.rd F.colPlanStatus_running pl = 0
          ∧ t.rd F.colPlanStatus_run pl = (s.rd F.colPlanStatus_run pl + 1) % 512 ∧ TellsAll s t r Op.colDone ∧ t.mem = s.mem))

/-- Copy queues (R218 to R229): XFR_RING moves TAIL for a ringer that may; an engine takes the descriptor at HEAD of the queue whose turn it
is; a tile that translates is issued under the epoch it was looked up in; the last response ends the tile, the flag and the descriptor, one
that stops too; ABORT empties the queue and ends its descriptors at their next boundary. -/
def Obligations.CopyRows : Prop :=
  ∀ (s : State), s.wf = true → s.quiet →
    (∀ (q : Packet), q.opcode.toNat = Op.xfrRing → q.len = 1 → q.chan = 0 → q.resv = false → 0xD4 ≤ q.dlocal.toNat → q.dlocal.toNat < 0xD8 →
      let v := lineBits q.data 0 64
      let k := v % 128
      let m := s.rd F.xfrRinger_mask k
      v / 2 ^ 7 % 2 ^ 25 = 0 → v / 2 ^ 44 = 0 →
      (q.src.toNat &&& m = s.rd F.xfrRinger_id k &&& m → s.flag F.xfrQcfg_enable k = true → s.tailOk k (v / 2 ^ 32 % 2 ^ 12) = true →
        Completes (.xfrRing q) s fun t => t.rd F.xfrQptr_tail k = v / 2 ^ 32 % 2 ^ 12 ∧ t.rd F.xfrQptr_head k = s.rd F.xfrQptr_head k
          ∧ Sends q s t (fun a => Answers q a Op.done St.ok none) ∧ t.mem = s.mem ∧ t.home = s.home)
      ∧ (q.src.toNat &&& m ≠ s.rd F.xfrRinger_id k &&& m → Completes (.xfrRing q) s fun t => t.reg .xfrQptr k = s.reg .xfrQptr k
          ∧ Sends q s t (fun a => Answers q a Op.status St.noRights none) ∧ t.mem = s.mem ∧ t.home = s.home))
    ∧ (∀ (e : CopyEngine) (q : CopyQueue) (b : List Byte) (v : State), s.xfr.run.look e = none → s.mem.moves.look e = none → s.ras.disabled.contains e.val = false →
      s.copyTurn (e / 8) = some q.val → s.readEntry .copy q 128 = (.entry b, v) → v.quiet → s.rd F.xfrQcfg_size q ≤ 12 →
      let head := s.rd F.xfrQptr_head q
      let u : CopyRun := { queue := q, id := v.rd F.xfrQptr_head q + q * 2 ^ 12 + v.clu.pass.lookD (State.Ring.key .copy q) 0 % 2 ^ 13 * 2 ^ 19, desc := b
                           tile := leNat b 76 4 }
      u.fld 2 1 / 8 % 2 = 0 → u.ok = true → Completes (.copy e q) s fun t =>
        t.xfr.run.look e = some { u with phase := if u.tile = u.count then .flag else .translate } ∧ t.rd F.xfrStatus_use e = 1
          ∧ t.rd F.xfrStatus_queue e = q ∧ t.rd F.xfrQptr_head q = (head + 1) % 2 ^ s.rd F.xfrQcfg_size q ∧ t.mem = v.mem ∧ t.home = v.home)
    ∧ (∀ (e : CopyEngine) (u : CopyRun) (src dst : List CopyXlat) (a b : State), s.xfr.run.look e = some u → u.stop = none → u.killed = false →
      u.phase = .translate →
      let asid := s.rd F.xfrQcfg_asid u.queue
      let lines := u.vlines.map fun l => (State.addrOf src l.1, State.addrOf dst l.2)
      (∀ l ∈ u.vlines, l.1 < 2 ^ 57 ∧ l.2 < 2 ^ 57) → s.askPages e u asid 0 (State.pagesOf (u.vlines.map (·.1))) = (src, true, a) →
      a.askPages e u asid 1 (State.pagesOf (u.vlines.map (·.2))) = (dst, true, b) → State.pageFault src (u.vlines.map (·.1)) = none →
      State.pageFault dst (u.vlines.map (·.2)) = none → b.placeFits u lines = true → Completes (.copyTileTranslated e) s fun t =>
        t.mem = b.mem ∧ t.home = b.home ∧ ∃ y, t.xfr.run.look e = some y ∧ y.phase = .run ∧ y.lines = lines ∧ y.tile = u.tile ∧ y.toWrite = []
          ∧ y.epoch = s.epochOf (e / 8) ∧ y.nextRead = min (b.copyRoom e) (min (u.windows.1 - b.copyReads e) lines.length))
    ∧ (∀ (e : CopyEngine) (u : CopyRun), s.xfr.run.look e = some u → s.copyOuts e = [] → u.stop = none → u.killed = false →
      (u.phase = .run → u.nextRead = u.lines.length → u.toWrite = [] →
        let y := { u with tile := u.tile + 1, bytes := u.bytes + 128 * u.lines.length, lines := [], nextRead := 0 }
        (u.tile + 1 < u.count → exec (.copyTileDone e) s = .next { s with xfr := { s.xfr with run := s.xfr.run.put e { y with phase := .translate } } })
        ∧ (u.tile + 1 = u.count → u.hasFlag = true → exec (.copyTileDone e) s = .next { s with xfr := { s.xfr with
            run := s.xfr.run.put e { y with phase := .flag } } }))
      ∧ (u.phase = .flagRun → u.queue < 128 → s.revoking (s.rd F.xfrQcfg_partition u.queue) = false → s.mem.waits = [] → SMap.sorted s.xfr.run = true →
        s.rd F.xfrQcfg_size u.queue ≤ 12 → Completes (.copyTileDone e) s fun t => t.xfr.run.look e = none ∧ t.rd F.xfrStatus_use e = 0
          ∧ t.rd F.xfrQptr_ctail u.queue = (s.rd F.xfrQptr_ctail u.queue + 1) % 2 ^ s.rd F.xfrQcfg_size u.queue))
    ∧ (∀ (e : CopyEngine) (u : CopyRun) (stop : Nat × Nat × Nat), s.xfr.run.look e = some u → s.copyOuts e = [] → u.stop = some stop → u.queue < 128 →
      s.revoking (s.rd F.xfrQcfg_partition u.queue) = false → s.mem.waits = [] → SMap.sorted s.xfr.run = true → s.rd F.xfrQcfg_size u.queue ≤ 12 →
      Completes (.copyTileDone e) s fun t => t.xfr.run.look e = none ∧ t.rd F.xfrStatus_use e = 0 ∧ Counts F.xfrStat_stops e s t
        ∧ t.rd F.xfrQptr_ctail u.queue = (s.rd F.xfrQptr_ctail u.queue + 1) % 2 ^ s.rd F.xfrQcfg_size u.queue)
    ∧ (∀ (p : Path) (data : Word), s.accepts (wordWrite p .xfrQcmd 0 0 (fieldIn data 8 2 1)) →
      let q := data.toNat % 128
      Completes (.queueAbort p data) s fun t => t.rd F.xfrQptr_head q = s.rd F.xfrQptr_tail q % 2 ^ s.rd F.xfrQcfg_size q
        ∧ t.xfr.run = s.xfr.run.map (fun e => (e.1, if e.2.queue = q then { e.2 with killed := true } else e.2))
        ∧ t.rd F.xfrQptr_tail q = s.rd F.xfrQptr_tail q ∧ t.mem = s.mem ∧ t.home = s.home ∧ t.outs = s.outs)

/-! ## Arrival, next hops, fences (chapters 10 and 11) -/

namespace Sys2Proof.Machine

/-- A packet entered the transmit queue of port n; on a trunk port its HOP rose by one (R240). -/
def Leaves (n : Nat) (q : Packet) (s t : State) : Prop :=
  (t.getLink n).txq = (s.getLink n).txq ++ [if s.isTrunk n then { q with hop := q.hop + 1 } else q]

/-- The store of die d held nothing of a flow, and now holds a share of w/256 of it (R252). -/
def Shares (d : Nat) (q : Packet) (w : Nat) (s t : State) : Prop :=
  s.fab.late.contains (d, q.src, State.flowDst q, q.chan == 3) = false → (∀ e ∈ s.fab.fences, ¬ (e.1 / 1024 = d ∧ e.2.src = q.src ∧ e.2.dst = State.flowDst q ∧ e.2.col = (q.chan == 3))) →
    (s.fab.fences.freeKey (d * 1024) 1024).isSome = true → w < 256 →
    ∃ k, k / 1024 = d ∧ t.fab.fences.look k = some { src := q.src, dst := State.flowDst q, col := q.chan == 3, weight := w }

/-- A discarded packet was counted, and a request answered from the management endpoint. -/
def GivesUp (f : Fld) (d : Nat) (q : Packet) (status : Nat) (s t : State) : Prop :=
  Counts f d s t ∧ t.mem = s.mem ∧ t.home = s.home
    ∧ (q.chan = 0 → Sent s t fun a => Answers q a Op.status status none ∧ a.src = s.endpoint 0xF0)
    ∧ (q.chan ≠ 0 → t.fab = s.fab)

end Sys2Proof.Machine

/-- Arrival (R215, R241): a packet for another node waits for its next hop, one for this node goes to its agent; on a trunk port it keeps
source and principal, on an access port a wrong source is discarded and the principal becomes the source. -/
def Obligations.PacketsArrive : Prop :=
  ∀ (s : State) (n : Port) (q : Packet), s.wf = true → s.quiet → s.node ≠ 0xFFF → q.opcode.toNat ≠ Op.fenceProbe → q.fence = false → q.toNeighbour = false →
    let fresh (f : Packet → Packet) (t : State) : Prop :=
      (q.destNode ≠ s.node → t.fab.held = s.fab.held ++ [⟨f q, n.val / 16, some n.val⟩] ∧ t.fab.inbox = s.fab.inbox)
        ∧ (q.destNode = s.node → formOk q = true → State.agentTakes q.destLocal q.opcode.toNat = true → q.chan ≠ 4 →
          t.fab.inbox = s.fab.inbox ++ [f q] ∧ t.fab.held = s.fab.held)
        ∧ t.mem = s.mem ∧ t.home = s.home
    (s.isTrunk n = true → s.isAccess n = false → Completes (.packetArrival n q .none) s (fresh id))
    ∧ (s.isAccess n = true → s.isTrunk n = false → q.src.toNat / 256 ≠ s.rd F.rtePort_peer n → q.destNode ≠ s.node → Completes (.packetArrival n q .none) s fun t =>
        t.fab.held = s.fab.held ∧ t.fab.inbox = s.fab.inbox ∧ Counts F.rteDrop_spoof (n / 16) s t ∧ t.mem = s.mem)
    ∧ (s.isAccess n = true → s.isTrunk n = false → q.src.toNat / 256 = s.rd F.rtePort_peer n → opKnown q.opcode.toNat = true → formOk q = true → q.chan = 0 →
        s.foreign (s.rd F.secPortMap_partition n) { q with hop := 0, bank := s.injBank (n / 16) true, principal := q.src } = false →
        s.leashed n = false → s.leashQueue n = [] →
        Completes (.packetArrival n q .none) s (fresh fun p => { p with hop := 0, bank := s.injBank (n / 16) true, principal := p.src, fw := 0 }))

/-- A held packet takes its reserved port, or the eligible hop with the most credit left; without an eligible hop it is counted and a request
answered NODE_LOST (R243, R244). A packet held too long is counted and a request answered TIMEOUT, wherever it waits (R247). -/
def Obligations.PacketsLeave : Prop :=
  ∀ (s : State) (i : Nat) (q : Packet), s.wf = true → s.quiet →
    (∀ (d : Die) (p : Option Nat) (n : Port), s.fab.held[i]? = some ⟨q, d, p⟩ → State.ownRow q = false → q.fence = false → q.chan ≠ 1 →
      ((s.colPort q = some n.val ∨ s.colPort q = none ∧ s.eligibleHops q ≠ [] ∧ s.bestHop d q (s.eligibleHops q) = some n.val) → s.portRoom n q = true →
        Completes (.nextHopChoice i .none) s fun t => Leaves n q s t ∧ t.fab.held = s.fab.held.eraseIdx i ∧ t.fab.inbox = s.fab.inbox ∧ t.mem = s.mem)
      ∧ (s.colPort q = none → s.eligibleHops q = [] → q.src.toNat / 256 ≠ s.node → Completes (.nextHopChoice i .none) s fun t =>
        GivesUp F.rteDrop_noRoute d q St.nodeLost (s.unhold i ⟨q, d, p⟩) t))
    ∧ (∀ (n : Nat) (hops : List (Nat × Nat)) (d : Nat), s.bestHop d q hops = some n → ∃ room j, (j, n) ∈ hops ∧ s.hopRoom q n = some room
        ∧ ∀ e ∈ hops, ∀ r, s.hopRoom q e.2 = some r → r ≤ room)
    ∧ (∀ (d : Die) (p : Option Nat), s.fab.held[i]? = some ⟨q, d, p⟩ → Completes (.holdLimitExpiry (.mesh i)) s fun t =>
        GivesUp F.rteDrop_hold d q St.timeout (s.unhold i ⟨q, d, p⟩) t)
    ∧ (s.fab.inbox[i]? = some q → Completes (.holdLimitExpiry (.agent i)) s fun t =>
        GivesUp F.rteDrop_hold (State.agentDie q.destLocal) q St.timeout (s.taken q) t)
    ∧ (∀ n : Port, (s.leashQueue n)[i]? = some q → SMap.sorted s.qos.queue = true → Completes (.holdLimitExpiry (.leash n i)) s fun t =>
        GivesUp F.rteDrop_hold (n / 16) q St.timeout s t ∧ t.leashQueue n = (s.leashQueue n).eraseIdx i)
    ∧ (∀ n : Port, (s.getLink n).txq[i]? = some q → SMap.sorted s.link = true → Completes (.holdLimitExpiry (.transmit n i)) s fun t =>
        GivesUp F.rteDrop_hold (n / 16) q St.timeout s t ∧ (t.getLink n).txq = (s.getLink n).txq.eraseIdx i)
    ∧ (∀ n : Port, (s.getLink n).fifo[i]? = some q → SMap.sorted s.link = true → Completes (.holdLimitExpiry (.fifo n i)) s fun t =>
        GivesUp F.rteDrop_hold (n / 16) q St.timeout s t ∧ (t.getLink n).fifo = (s.getLink n).fifo.erase q)
    ∧ (∀ n : Port, (s.getLink n).rx[i]? = some q → Completes (.holdLimitExpiry (.receive n i)) s fun t =>
        GivesUp F.rteDrop_hold (n / 16) q St.timeout s t ∧ (t.getLink n).rx = (s.getLink n).rx.eraseIdx i
          ∧ (t.getLink n).changed.contains q.buf = true)

/-- Fences (R251, R252) and the banks (R254): a probe leaves in shares over the eligible hops, or leaves its share at its flow's egress; an
internal probe passes its quarter to P's home; an entry that does not fill in time is freed, counted, and its request answered RETRY; HELD of a
bank that no die counts a packet of clears. -/
def Obligations.FencesAndBanks : Prop :=
  ∀ (s : State), s.wf = true → s.quiet →
    (∀ (n : Port) (q : Packet), q.opcode.toNat = Op.fenceProbe → s.node ≠ 0xFFF → s.isTrunk n = true → s.isAccess n = false → formOk q = true →
      s.probeWaits q = false →
      (∀ (m : Port) (j : Nat), q.destNode ≠ s.node → s.colPort q = none → s.eligibleHops q = [(j, m.val)] → s.isAccess m = false → s.getLink n = {} →
        Completes (.fenceProbe n q .none) s fun t => Leaves m q s t ∧ t.fab = s.fab ∧ t.mem = s.mem)
      ∧ (q.destNode = s.node → State.forHomes q = false → State.agentTakes q.destLocal Op.fenceProbe = true → s.getLink n = {} → q.fence = false →
        Completes (.fenceProbe n q .none) s fun t => Shares (State.agentDie q.dlocal.toNat) q (State.fenceWeight q) s t ∧ t.fab.held = s.fab.held ∧ t.mem = s.mem))
    ∧ (∀ (d : Die) (q : Packet), q.opcode.toNat = Op.fenceProbe → q.dlocal.toNat = 0xC0 + d → q.chan = 0 → s.fab.inbox.head? = some q → Completes (.internalProbe d q) s fun t =>
        Shares (s.homeDieOf q) q (State.fenceWeight q / 4) s t ∧ t.fab.held = s.fab.held ∧ t.mem = s.mem)
    ∧ (∀ (d : Die) (k : Nat) (e : FenceEntry), s.fab.fences.look k = some e → k / 1024 = d.val → SMap.sorted s.fab.fences = true →
      (∀ x ∈ s.fab.fences, x.2.src = e.src → x.2.dst = e.dst → x.2.col = e.col → x.1 / 1024 = d.val → x.1 = k) →
        Completes (.fenceHoldExpiry d e.src e.dst e.col) s fun t => t.fab.fences = s.fab.fences.del k ∧ Counts F.rteFence_expired d s t ∧ t.mem = s.mem
          ∧ (∀ q p, e.pkt = some (q, p) → q.chan = 0 → Sent s t fun a => Answers q a Op.status St.retry none ∧ a.src = s.endpoint 0xF0)
          ∧ (e.pkt = none → t.fab.inbox = s.fab.inbox ∧ t.fab.held = s.fab.held))
    ∧ (∀ b : Bool, let f := if b then F.rteInflight_bank1 else F.rteInflight_bank0
        ((∀ d < 4, s.rd f d = 0) → exec (.bankHeldClear b) s = .next (s.wr (if b then F.rteBank_held_1 else F.rteBank_held_0) 0 0))
        ∧ ((∃ d < 4, s.rd f d ≠ 0) → exec (.bankHeldClear b) s = .next s))

/-! ## The link layer (chapter 12) -/

namespace Sys2Proof.Machine

/-- The link of port n entered RETRAIN at stage 2; what it has sent and not freed stays (R273). -/
def Retrains (n : Nat) (s t : State) : Prop :=
  s.wf = true → t.linkState n = 4 ∧ t.rd F.lanStatus_stage n = 2 ∧ t.rd F.rtePort_up n = 0 ∧ (t.getLink n).replay = (s.getLink n).replay
    ∧ (t.getLink n).attempts = 1 ∧ (t.getLink n).txq = (s.getLink n).txq ∧ t.reg .lnkSeq n = s.reg .lnkSeq n
    ∧ t.rd F.lnkEvents_retrains n = min (s.rd F.lnkEvents_retrains n + 1) (2 ^ F.lnkEvents_retrains.width - 1) ∧ t.mem = s.mem

/-- The link of port n went DOWN with a cause: its discards are counted, its numbers start again (R276). -/
def GoesDown (n cause state : Nat) (s t : State) : Prop :=
  s.wf = true → SMap.sorted s.link = true → s.col.plans = [] →
    t.linkState n = state ∧ t.rd F.lnkStatus_downCause n = cause ∧ t.rd F.lnkStatus_width n = 0 ∧ t.rd F.lanStatus_stage n = 0
      ∧ t.rd F.rtePort_up n = 0 ∧ Counts F.lnkEvents_downs n s t
      ∧ t.reg .lnkSeq n = 0 ∧ (t.getLink n).txq = [] ∧ (t.getLink n).rx = [] ∧ (t.getLink n).replay = [] ∧ (t.getLink n).fifo = (s.getLink n).fifo
      ∧ t.fab.held = s.fab.held ∧ t.mem = s.mem

/-- A flit's acknowledgement and credits are taken (R264, R269): k flits leave the replay buffer, and the far buffers' counts stand. -/
def HeadTaken (n : Nat) (f : Flit) (s t : State) : Prop :=
  let k := seqSub (f.ack.toNat + 1) (s.rd F.lnkSeq_txOldest n)
  (t.getLink n).replay = (s.getLink n).replay.drop k
    ∧ t.rd F.lnkSeq_txOldest n = (if k = 0 then s.rd F.lnkSeq_txOldest n else (s.rd F.lnkSeq_txOldest n + k) % 16384)
    ∧ (SMap.sorted (s.getLink n).farFreed = true → f.cselB.toNat < 20 → (t.getLink n).farFreed.lookD f.cselB.toNat 0 = f.crdB.toNat)
    ∧ (SMap.sorted (s.getLink n).farFreed = true → f.cselA.toNat < 20 → f.cselA ≠ f.cselB →
        (t.getLink n).farFreed.lookD f.cselA.toNat 0 = f.crdA.toNat)

/-- The flit that the lanes delivered first to port n, if any, is neither marked nor wrong in its CRC (R264, R285). -/
abbrev FrontGood (s : State) (n : Nat) : Prop := (s.takeFront n).1 = false

/-- A flit that port n may take: the lanes delivered it whole, its acknowledgement lies in the window, and its credit slots name buffers or none. -/
abbrev TakesFlit (s : State) (n : Nat) (f : Flit) : Prop :=
  FrontGood s n ∧ s.linkState n = 3 ∧ seqSub (f.ack.toNat + 1) (s.rd F.lnkSeq_txOldest n) ≤ (s.getLink n).replay.length
    ∧ (f.cselA.toNat < 20 ∨ f.cselA.toNat = 31) ∧ (f.cselB.toNat < 20 ∨ f.cselB.toNat = 31)

/-- Port n filled its slot with a flit of a type, number and body; its bytes begin with its header and carry its CRC, and their 32 blocks
entered the aggregate stream (R258, R261, R283). -/
def EmitsFlit (n type seq : Nat) (body : List BodyItem) (s t : State) : Prop :=
  ∃ f, (t.getLink n).out = some (.flit f) ∧ f.type = BitVec.ofNat 4 type ∧ f.seq = BitVec.ofNat 14 seq ∧ f.body = body
    ∧ f.ack = BitVec.ofNat 14 (seqSub (s.rd F.lnkSeq_rxExpect n) 1)
    ∧ ∃ b, (t.getLink n).wire = (s.getLink n).wire.sendFlit (s.sendLanes n) b ∧ b.extractLsb' 0 64 = linkHeader f ∧ crcPasses b = true

/-- A NAK is owed once (R264). -/
def OwesNak (n : Nat) (s t : State) : Prop :=
  (t.getLink n).nakPending = true ∧ ((s.getLink n).nakPending = false → (t.getLink n).nakQueued = true)

end Sys2Proof.Machine

/-- Flits on an ACTIVE link (R264 to R269): the DATA flit expected next is accepted and its packets enter the receive buffer; one beyond a gap
asks for a NAK; NAK and ACK_TIMEOUT begin a replay; a failed flit, and one that the lanes delivered marked or with a wrong CRC, is counted
and asks for a NAK; the sender numbers a DATA flit, keeps it for
replay and debits its packet's credits; with nothing to send IDLE blocks leave; a released packet frees its credits. -/
def Obligations.LinkFlits : Prop :=
  ∀ (s : State) (n : Port) (f : Flit), s.wf = true → s.quiet → SMap.sorted s.link = true → s.linkState n = 3 →
    let p := s.getLink n
    let e := s.rd F.lnkSeq_rxExpect n
    let next := s.rd F.lnkSeq_txNext n
    let d := seqSub f.seq.toNat e
    (TakesFlit s n f → d = 0 → ∀ q m, f.body = [.start q m] → q.opcode ≠ 0 → q.framable = true → q.slots ≤ m → Completes (.dataFlit n f) s fun t =>
        HeadTaken n f s t ∧ t.rd F.lnkSeq_rxExpect n = (e + 1) % 16384 ∧ (t.getLink n).rx = p.rx ++ [q] ∧ (t.getLink n).ackNew = true
          ∧ t.linkState n = 3 ∧ t.mem = s.mem ∧ t.fab = s.fab)
    ∧ (TakesFlit s n f → 0 < d → d < 8192 →
        (Completes (.dataFlit n f) s fun t => HeadTaken n f s t ∧ OwesNak n s t ∧ t.rd F.lnkSeq_rxExpect n = e ∧ (t.getLink n).rx = p.rx)
        ∧ Completes (.idleFlit n f) s fun t => HeadTaken n f s t ∧ OwesNak n s t ∧ t.rd F.lnkSeq_rxExpect n = e)
    ∧ (TakesFlit s n f → d = 0 → Completes (.idleFlit n f) s fun t =>
        HeadTaken n f s t ∧ t.rd F.lnkSeq_rxExpect n = e ∧ (t.getLink n).rx = p.rx ∧ (t.getLink n).nakQueued = p.nakQueued ∧ t.mem = s.mem ∧ t.fab = s.fab)
    ∧ (TakesFlit s n f → d = 0 → p.resend = none → seqSub (f.ack.toNat + 1) (s.rd F.lnkSeq_txOldest n) = 0 → p.replay ≠ [] →
        p.replays < s.rd F.lnkCtrl_replayLimit n → Completes (.nakFlit n f .clean) s fun t =>
          (t.getLink n).resend = some ((f.ack.toNat + 1) % 16384) ∧ (t.getLink n).replay = p.replay ∧ (t.getLink n).replays = p.replays + 1
            ∧ Counts F.lnkErr_replays n s t ∧ t.linkState n = 3)
    ∧ (p.replay ≠ [] → (p.replays < s.rd F.lnkCtrl_replayLimit n → Completes (.ackTimeoutExpiry n .clean) s fun t =>
          (t.getLink n).resend = some (s.rd F.lnkSeq_txOldest n) ∧ (t.getLink n).replay = p.replay ∧ Counts F.lnkErr_replays n s t ∧ t.linkState n = 3)
        ∧ (s.rd F.lnkCtrl_replayLimit n ≤ p.replays → Completes (.ackTimeoutExpiry n .clean) s (Retrains n s)))
    ∧ (Completes (.failedCrcFlit n false) s fun t => OwesNak n s t ∧ Counts F.lnkErr_crcErr n s t ∧ t.rd F.lnkSeq_rxExpect n = e ∧ t.linkState n = 3
          ∧ t.mem = s.mem)
    ∧ ((s.takeFront n).1 = true → ∀ c ∈ [Instr.dataFlit n f, .idleFlit n f, .nakFlit n f .clean], Completes c s fun t =>
        OwesNak n s t ∧ Counts F.lnkErr_crcErr n s t ∧ t.rd F.lnkSeq_rxExpect n = e ∧ (t.getLink n).wire.flits = p.wire.flits.drop 1
          ∧ (t.getLink n).rx = p.rx ∧ t.mem = s.mem)
    ∧ (s.flag F.lanStatus_txEi n = false →
        (p.nakQueued = true → Completes (.flitTransmit n) s fun t => EmitsFlit n 3 next [] s t ∧ (t.getLink n).nakQueued = false ∧ Counts F.lnkErr_nakTx n s t)
        ∧ (∀ q, p.nakQueued = false → p.resend = none → p.replay.length < 2048 → p.cur = none → p.txq = [q] → q.chan ≠ 1 → q.buf < 20 → 0 < q.slots →
            q.slots ≤ s.bodySlots n → s.mayStart n p q = true → Completes (.flitTransmit n) s fun t =>
              EmitsFlit n 1 next [.start q q.slots] s t ∧ (t.getLink n).txq = [] ∧ t.rd F.lnkSeq_txNext n = (next + 1) % 16384
                ∧ (t.getLink n).replay = p.replay ++ [{ seq := next, body := [.start q q.slots], debits := [(q.buf, q.cost)], ends := [q.bank] }]
                ∧ (SMap.sorted p.debited = true → (t.getLink n).debited.lookD q.buf 0 = (p.debited.lookD q.buf 0 + q.cost) % 2048))
        ∧ (p.nakQueued = false → p.resend = none → p.cur = none → p.txq = [] → p.ackNew = false → p.changed = [] → Completes (.flitTransmit n) s fun t =>
            (t.getLink n).wire = p.wire.sendIdle (s.sendLanes n) 32 ∧ (t.getLink n).out = p.out ∧ t.reg .lnkSeq n = s.reg .lnkSeq n)
        ∧ Completes (.idleAckExpiry n) s fun t => EmitsFlit n 2 next [] s t ∧ (t.getLink n).nakPending = false ∧ (t.getLink n).replay = p.replay)
    ∧ (∀ (b : Fin 20) (q : Packet), p.rx.find? (fun q => q.buf == b.val) = some q → State.fifoRoom p.fifo q = true →
        Completes (.rxBufferRelease n b .none) s fun t => (t.getLink n).rx = p.rx.erase q ∧ (t.getLink n).fifo = p.fifo ++ [q]
          ∧ b.val ∈ (t.getLink n).changed ∧ (SMap.sorted p.freed = true → (t.getLink n).freed.lookD b 0 = (p.freed.lookD b 0 + q.cost) % 2048))

/-- Link states (R273 to R276, Tables 12-4, 12-4a): commands, signals and timers move a link between DISABLED, TRAINING, ACTIVE, RETRAIN and DOWN; the
INIT flits of both ends with SEEN make it ACTIVE, after a fresh start with nothing sent and the far end's buffer sizes. -/
def Obligations.LinkStates : Prop :=
  ∀ (s : State) (n : Port) (p : Path) (data : Word), s.wf = true → s.quiet →
    let st := s.linkState n
    let w (lo v : Nat) : WordWrite := wordWrite p .lnkCtrl n 0 (fieldIn data lo 1 v)
    let trains (t : State) : Prop := t.linkState n = 1 ∧ t.rd F.lanStatus_stage n = 1 ∧ t.rd F.lanStatus_detected n = 0 ∧ t.mem = s.mem
    (s.accepts (w 0 1) → st = 0 → s.pwr.lanesLost.contains (n.val / 16) = false → Completes (.linkEnable p n data) s fun t =>
        trains t ∧ t.flag F.lnkCtrl_enable n = true)
    ∧ (s.accepts (w 0 0) → (st = 5 → Completes (.linkDisable p n data) s fun t => t.linkState n = 0 ∧ t.flag F.lnkCtrl_enable n = false)
        ∧ (1 ≤ st → st ≤ 4 → Completes (.linkDisable p n data) s fun t => GoesDown n Dc.command 0 s t ∧ t.flag F.lnkCtrl_enable n = false))
    ∧ (s.accepts (w 1 1) → data.toNat % 2 = 1 → st = 3 → Completes (.linkRetrainCmd p n data) s (Retrains n s))
    ∧ (st = 5 → s.flag F.lnkCtrl_enable n = true → s.pwr.lanesLost.contains (n.val / 16) = false → Completes (.downHoldExpiry n) s trains)
    ∧ (2 ≤ st → st ≤ 4 → Completes (.lossOfSignal n) s (GoesDown n Dc.los 5 s))
    ∧ (st = 2 → s.keyAwaited n = false → Completes (.initTimeoutExpiry n) s (Retrains n s))
    ∧ (st = 4 → s.keyAwaited n = false →
        (s.rd F.lnkCtrl_retrainMax n ≤ (s.getLink n).attempts → Completes (.retrainTimeoutExpiry n) s (GoesDown n Dc.retrainFail 5 s))
        ∧ ((s.getLink n).attempts < s.rd F.lnkCtrl_retrainMax n → Completes (.retrainTimeoutExpiry n) s fun t =>
          t.linkState n = 4 ∧ (t.getLink n).attempts = (s.getLink n).attempts + 1 ∧ t.rd F.lanStatus_stage n = 2 ∧ t.mem = s.mem))
    ∧ (∀ (b : Fin 20) (q : Packet), st = 3 → q ∈ (s.getLink n).txq → q.buf = b.val → State.credits (s.getLink n) b < q.cost →
        Completes (.crdTimeoutExpiry n b) s fun t => Retrains n s t ∧ Counts F.lnkEvents_crdTimeouts n s t)
    ∧ (∀ f : Flit, FrontGood s n → st = 3 → f.type.toNat ∉ [1, 2, 3, 4] → Completes (.reservedTypeFlit n f) s (GoesDown n Dc.protocol 5 s))
    ∧ (∀ b : InitBody, FrontGood s n → st = 3 → b.version = 1 → Completes (.initFlit n b) s (Retrains n s))
    ∧ (st = 2 → s.rd F.lanStatus_stage n = 9 → s.flag F.lnkCtrl_protect n = false →
        (∀ b : InitBody, FrontGood s n → b.version = 1 → b.protect = false → b.seen = true → b.keywait = false → (s.getLink n).sentSeen = true →
          Completes (.initFlit n b) s fun t => t.linkState n = 3 ∧ t.rd F.rtePort_up n = 1 ∧ t.reg .lnkSeq n = 0 ∧ (t.getLink n).replay = []
            ∧ (t.getLink n).debited = [] ∧ (t.getLink n).farFreed = [] ∧ (t.getLink n).farSizes = b.size.map (·.toNat)
            ∧ (t.getLink n).txq = (s.getLink n).txq ∧ (t.getLink n).begun = true
            ∧ t.rd F.lnkStatus_peerNode n = b.node.toNat ∧ t.rd F.lnkStatus_peerPort n = b.port.toNat ∧ t.mem = s.mem)
        ∧ ((s.getLink n).farInit = none → Completes (.initResend n) s fun t => t.linkState n = 2 ∧ t.mem = s.mem ∧ ∃ b : InitBody,
            (t.getLink n).wire = (s.getLink n).wire.sendFlit (s.sendLanes n) (flitBits (linkHeader { type := 4 }) (initBits b))
              ∧ (t.getLink n).out = some (.init b) ∧ b.seen = false ∧ b.protect = false ∧ b.resume = false ∧ b.node.toNat = s.node % 4096
              ∧ b.port.toNat = n.val ∧ b.size = (s.setSizes n).map (BitVec.ofNat 11)))

/-! ## Lanes (chapter 13) -/

/-- Bring-up (Table 13-4, R287 to R293): each stage ends in the next when its event says so, a mapping decides width and set, a stage that
fails in TRAINING counts and starts again at stage 1; a TRAIN block's request sets a preset or steps a tap and is answered. -/
def Obligations.LanesComeUp : Prop :=
  ∀ (s : State) (n : Port), s.wf = true → s.quiet → SMap.sorted s.lane = true →
    let st := s.laneStage n
    let x := s.getLanes n
    let goTo (k : Nat) (t : State) : Prop := t.laneStage n = k ∧ t.linkState n = s.linkState n ∧ t.link = s.link ∧ t.mem = s.mem
    let again (t : State) : Prop := t.linkState n = 1 ∧ t.laneStage n = 1 ∧ t.mem = s.mem
      ∧ t.rd F.lanStatus_trainFails n = min (s.rd F.lanStatus_trainFails n + 1) (2 ^ F.lanStatus_trainFails.width - 1)
    (∀ (seen : Byte) (late : Bool), st = 1 →
      (State.subset (~~~(s.retiredLanes n)) seen = true ∨ late = true ∧ 2 ≤ State.laneCount seen →
        Completes (.electricalDetect n seen late) s fun t => goTo 2 t ∧ t.detected n = seen)
      ∧ (State.subset (~~~(s.retiredLanes n)) seen = false → late = true → State.laneCount seen < 2 → s.linkState n = 1 →
        s.pwr.lanesLost.contains (n.val / 16) = false → Completes (.electricalDetect n seen late) s again))
    ∧ (st = 2 → ∀ locked failed : Byte, failed = 0 → s.usable n ≠ 0 → State.subset (s.detected n) locked = true → State.subset locked (s.detected n) = true →
        Completes (.clockRecoveryLock n locked failed) s fun t => goTo 3 t ∧ State.subset locked (t.getLanes n).locked = true)
    ∧ (∀ (l : Lane) (inv : Bool), st = 3 → State.laneIn (s.usable n) l = true →
        let b := x.blocked ||| State.laneBit l
        Completes (.blockLock n l (some inv)) s fun t => (t.getLanes n).blocked = b ∧ State.laneIn (t.getLanes n).provisional l = inv
          ∧ goTo (if State.subset (s.usable n) b then 4 else 3) t)
    ∧ (∀ (l : Lane) (type : Byte), st = 4 → State.laneIn (s.usable n) l = true →
        let inv := State.laneIn x.provisional l
        let b := x.fixed ||| State.laneBit l
        (type = (if inv then 0x1E else 0x4B) → Completes (.polarityDetect n l type) s fun t => (t.getLanes n).fixed = b
          ∧ State.laneIn (BitVec.ofNat 8 (t.rd F.lanStatus_inverted n)) l = inv ∧ goTo (if State.subset (s.usable n) b then 5 else 4) t)
        ∧ (type ≠ 0x1E → type ≠ 0x4B → Completes (.polarityDetect n l type) s (goTo 3)))
    ∧ (st = 5 → s.linkState n = 1 → s.usable n = 0xFF →
        (Completes (.laneMapping n ((List.range 8).map fun k => some (Fin.ofNat 8 k)) 0xFF) s fun t => goTo 6 t ∧ t.rd F.lanStatus_reversed n = 0
          ∧ t.rd F.lnkStatus_width n = 3 ∧ (t.getLanes n).rxSet = 0xFF ∧ (t.getLanes n).txSet = 0xFF)
        ∧ (Completes (.laneMapping n ((List.range 8).map fun k => some (Fin.ofNat 8 (7 - k))) 0xF0) s fun t => goTo 6 t
          ∧ t.rd F.lanStatus_reversed n = 1 ∧ t.rd F.lnkStatus_width n = 2 ∧ (t.getLanes n).rxSet = 0x0F ∧ (t.getLanes n).txSet = 0xF0))
    ∧ (st = 6 → Completes (.deskew n true) s (goTo 7))
    ∧ (st = 7 → Completes (.fecLock n) s (goTo 8))
    ∧ (st = 8 → s.linkState n = 1 → Completes (.equalisation n) s fun t => t.linkState n = 2 ∧ t.laneStage n = 9 ∧ t.mem = s.mem
        ∧ (t.getLanes n).eyes = x.eyes ++ x.margins ∧ (t.getLanes n).margins = []
        ∧ ((s.getLink n).keyWings.isSome = true → (t.getLink n).keyNext = (s.getLink n).keyWings ∧ (t.getLink n).keyWings = none))
    ∧ (s.linkState n = 1 →
        (st = 1 → 2 ≤ State.laneCount (s.detected n) → Completes (.stageTimeout n) s (goTo 2))
        ∧ (2 ≤ st → st ≤ 8 → s.pwr.lanesLost.contains (n.val / 16) = false → Completes (.stageTimeout n) s again))
    ∧ (∀ (l : Lane) (p : DWord), st ≠ 0 →
        let f (lo w : Nat) : Nat := p.toNat / 2 ^ lo % 2 ^ w
        let i := n.val * 8 + f 8 3
        f 0 8 = 0x4B → f 56 8 = 0xA5 → x.reqT.lookD (f 8 3) false ≠ (f 30 1 == 1) → SMap.sorted x.reqT = true →
          (∀ a b c m, f 23 4 ≠ 15 → s.tab.lanePreset[f 23 4]? = some [a, b, c, m] → Completes (.trainBlock n l p) s fun t =>
            t.rd F.lanEq_preset i = f 23 4 ∧ t.rd F.lanEq_pre2 i = State.tapBits a ∧ t.rd F.lanEq_pre1 i = State.tapBits b
              ∧ t.rd F.lanEq_post1 i = State.tapBits c ∧ t.rd F.lanEq_main i = m.toNat % 2 ^ F.lanEq_main.width
              ∧ (t.getLanes n).ack.lookD (f 8 3) 0 = 1 ∧ (t.getLanes n).reqT.lookD (f 8 3) false = (f 30 1 == 1) ∧ t.mem = s.mem)
          ∧ (f 23 4 = 15 → f 27 2 = 3 →
              let v := State.tapVal (s.rd F.lanEq_post1 i) + if f 29 1 = 1 then -1 else 1
              let sum := (State.tapVal (s.rd F.lanEq_pre2 i)).natAbs + (State.tapVal (s.rd F.lanEq_pre1 i)).natAbs + v.natAbs
              (-31 ≤ v → v ≤ 31 → sum ≤ 32 → Completes (.trainBlock n l p) s fun t => t.rd F.lanEq_post1 i = State.tapBits v
                ∧ t.rd F.lanEq_main i = 64 - sum ∧ t.rd F.lanEq_preset i = 15 ∧ (t.getLanes n).ack.lookD (f 8 3) 0 = 1)
              ∧ (31 < v → Completes (.trainBlock n l p) s fun t => t.reg .lanEq i = s.reg .lanEq i ∧ (t.getLanes n).ack.lookD (f 8 3) 0 = 2)))

/-- Lanes in service (R280, R282, R283, R285, R294 to R298): a frame's symbols are decoded, corrected or marked, counted and delivered to its
port, and lost lock retrains; bits come back from their symbols, payloads from the scrambler, a flit from its 32 blocks; the transmitter and
the receiver go to electrical idle and leave it; a window that reaches a limit retires its lane and retrains; eye runs and pattern checks report. -/
def Obligations.LanesServe : Prop :=
  ∀ (s : State) (n : Port), s.wf = true → s.quiet → SMap.sorted s.lane = true →
    let x := s.getLanes n
    let rest (t : State) : Prop := t.link = s.link ∧ t.mem = s.mem ∧ t.home = s.home ∧ t.fab = s.fab
    (∀ (l : Lane) (symbols : List Level) (f : RxFrame) (k : Nat), s.linkState n = 3 → SMap.sorted s.link = true →
      let i := n.val * 8 + l
      let b := s.frameBits n l symbols
      let frames (u : Bool) : BitVec 64 := (x.frames.lookD l 0 <<< 1) ||| (if u then 1 else 0)
      let brings (t : State) : Prop := t.getLink n = { s.getLink n with wire := (s.getLink n).wire.deliver (s.takeLanes n) l f }
        ∧ t.mem = s.mem ∧ t.home = s.home ∧ t.fab = s.fab
      (State.badRun (x.headers.lookD l 0) (State.badBlocks f.message) 40).1 = false →
        (∀ c, fecDecode b = some (k, c) → f = { message := c.setWidth 2640, marked := false } → State.ones (frames false) < 8 →
          Completes (.fecFrame n l symbols false) s fun t => t.linkState n = 3 ∧ brings t
            ∧ t.rd F.lanFec_corrected i = min (s.rd F.lanFec_corrected i + k) (2 ^ F.lanFec_corrected.width - 1)
            ∧ t.rd F.lanFec_uncorr i = s.rd F.lanFec_uncorr i ∧ t.rd F.lanFec_lockloss i = s.rd F.lanFec_lockloss i)
        ∧ (fecDecode b = none → f = { message := b.setWidth 2640, marked := true } →
          (State.ones (frames true) < 8 → Completes (.fecFrame n l symbols false) s fun t => t.linkState n = 3 ∧ brings t ∧ Counts F.lanFec_uncorr i s t)
          ∧ (8 ≤ State.ones (frames true) → Completes (.fecFrame n l symbols false) s fun t => Retrains n s t ∧ Counts F.lanFec_uncorr i s t
            ∧ Counts F.lanFec_lockloss i s t)))
    ∧ (∀ b : BitVec 2800, bitsOf (symbolsOf b) = b)
    ∧ (∀ (h : BitVec 58) (p : BitVec 64), throughPayload descrambleBit h (throughPayload scrambleBit h p).1 = (p, (throughPayload scrambleBit h p).2))
    ∧ (∀ (w : PortWire) (f : BitVec 2048), w.count = 0 → w.part = 0 → w.mark = false → let out := flitBlocks w.descr f
        (out.1.map fun b => (b, false)).foldl PortWire.take w = { w with descr := out.2, flits := w.flits ++ [{ bits := f, marked := false }] })
    ∧ (s.linkState n = 3 → s.flag F.lanCtrl_eiEn n = true → s.txReady n = false → exec (.eiIdleExpiry n) s = .next
        ((s.uLink n fun p => { p with wire := p.wire.enterIdle (s.sendLanes n) }).wr F.lanStatus_txEi n 1))
    ∧ (s.linkState n = 3 → exec (.eiEnter n) s = .next (s.wr F.lanStatus_rxEi n 1))
    ∧ (s.flag F.lanStatus_rxEi n = true → exec (.announcedIdleLimit n) s = .next ((s.wr F.lanStatus_rxEi n 0).wr F.lanStatus_detected n 0))
    ∧ (s.flag F.lanStatus_txEi n = true → s.txReady n = true → exec (.eiExit n) s = .next (s.wr F.lanStatus_txEi n 0))
    ∧ (let hits (l : Lane) : Prop := State.laneIn x.rxSet (s.physLane n l) = true ∧ State.laneIn (s.retiredLanes n) l = false
          ∧ (s.laneTrigger n (x.wins.lookD l {})).isSome = true;
        ((∀ l, ¬ hits l) → Completes (.laneHealthWindow n) s fun t =>
          rest t ∧ (t.getLanes n).wins = [] ∧ t.retiredLanes n = s.retiredLanes n ∧ t.linkState n = s.linkState n)
        ∧ ((∃ l, hits l) → s.linkState n = 3 → Completes (.laneHealthWindow n) s fun t => Retrains n s t ∧ ∀ l : Lane,
          State.laneIn (t.retiredLanes n) l = true ↔ (State.laneIn (s.retiredLanes n) l = true ∨ hits l) ∧ State.laneIn x.returning l = false))
    ∧ (∀ (l : Lane) (p : Path) (data : Word),
        let i := n.val * 8 + l
        (s.accepts (wordWrite p .lanCtrl n 0 data.toNat) → Completes (.unretire p n data) s fun t => rest t
          ∧ (t.getLanes n).returning = x.returning ||| BitVec.ofNat 8 (data.toNat / 2 ^ 10 % 256) ∧ t.retiredLanes n = s.retiredLanes n)
        ∧ (s.accepts (wordWrite p .lanTest i 0 data.toNat) → s.flag F.lnkCtrl_enable n = false → data.toNat / 16 % 2 = 0 →
          data.toNat / 4 % 4 = s.rd F.lanTest_rxPat i → Stores (.lanTestWrite p n l data) s p .lanTest i 0 data.toNat)
        ∧ (s.accepts (wordWrite p .lanEye i 0 (fieldIn data 19 1 1)) → l.val ∉ x.eyes → l.val ∉ x.margins → Completes (.eyeMarginGo p n l data) s fun t =>
          rest t ∧ t.rd F.lanEye_done i = 0 ∧ t.rd F.lanEye_mismatch i = 0
            ∧ (if s.laneStage n = 8 then (t.getLanes n).margins = x.margins ++ [l.val] ∧ (t.getLanes n).eyes = x.eyes
              else (t.getLanes n).eyes = x.eyes ++ [l.val] ∧ (t.getLanes n).margins = x.margins))
        ∧ (l.val ∈ x.eyes → ∀ m : Word, Completes (.eyeMarginDone n l m) s fun t => rest t ∧ t.rd F.lanEye_done i = 1
          ∧ t.rd F.lanEye_mismatch i = m.toNat % 2 ^ F.lanEye_mismatch.width ∧ (t.getLanes n).eyes = x.eyes.erase l.val)
        ∧ (s.rd F.lanTest_rxPat i ≠ 0 → s.flag F.lnkCtrl_enable n = false → ∀ e : Word, Completes (.prbsCheckerSync n l e) s fun t => rest t
          ∧ t.rd F.lanTest_sync i = 1 ∧ t.rd F.lanTest_errors i = min (s.rd F.lanTest_errors i + e.toNat) (2 ^ F.lanTest_errors.width - 1)))

/-! ## Leashes, periods, the curtain, register protection (chapters 14 and 17) -/

/-- The refill tick (R303, R305), the end of a statistics period (R309), the curtain (R362 to R364), the walker (R368 to R370) and the
function timers (R372). A pass in which a protected field changed ends with a free value in LIVE: the model's choice (log 29). -/
def Obligations.PeriodsAndProtection : Prop :=
  ∀ (s : State) (p : Path) (data : Word) (d : Die), s.wf = true → s.quiet →
    (s.qos.queue = [] → Completes .leashRefill s fun t => t.qos.cfg = s.leashCfgs ∧ t.fab = s.fab ∧ t.mem = s.mem ∧ t.regs = s.regs ∧
      ∀ i c, s.leashCfgs.look i = some c → t.qos.tokens.lookD i 0 =
        match s.qos.cfg.look i with
        | some o => if o.port = c.port ∧ o.src = c.src ∧ o.cls = c.cls then min (s.qos.tokens.lookD i 0 + c.rate * s.qos.refill * 10) (c.burst * 128) else c.burst * 128
        | none => c.burst * 128)
    ∧ (s.mem.waits = [] → SMap.sorted s.qos.bytes = true → SMap.sorted s.qos.waits = true → (∀ e ∈ s.qos.bytes, e.1 < 256) → (∀ e ∈ s.qos.waits, e.1 < 256) →
        Completes .statsPeriodTick s fun t => t.rd F.staPeriod_num = (s.rd F.staPeriod_num + 1) % 2 ^ 32 ∧ t.qos.bytes = [] ∧ t.qos.waits = []
          ∧ t.qos.barks = [] ∧ t.qos.hist = [] ∧ t.qos.period = s.rd F.staCtrl_period ∧ t.mem.cells = s.mem.cells
          ∧ (∀ i < 256, t.rd F.qosLstat_bytes i = min (s.qos.bytes.lookD i 0) (2 ^ F.qosLstat_bytes.width - 1)
              ∧ t.rd F.qosLstat_waits i = min (s.qos.waits.lookD i 0) (2 ^ F.qosLstat_waits.width - 1))
          ∧ (s.flag F.cfgCurtain_req = false → t.qos.left = s.qos.left ∧ t.rd F.cfgCurtain_num = s.rd F.cfgCurtain_num)
          ∧ (s.flag F.cfgCurtain_req = true → t.rd F.cfgCurtain_req = 0 ∧ t.rd F.cfgCurtain_num = (s.rd F.cfgCurtain_num + 1) % 65536
              ∧ (∀ r < 3, ∀ d < 4, (r, d) ∈ t.qos.left) ∧ ∀ w ∈ State.wingRegs, t.qos.cue.look (w.1.key w.2) = some (s.reg w.1 w.2)))
    ∧ (s.accepts (wordWrite p .cfgCurtain 0 0 (fieldIn data 0 1 1)) → Stores (.curtainRequest p data) s p .cfgCurtain 0 0 (fieldIn data 0 1 1))
    ∧ (∀ r : Fin 3, (r.val, d.val) ∈ s.qos.left → (∀ u ∈ s.qos.left, r.val ≤ u.1) → Completes (.curtainCommit r d) s fun t =>
        t.qos.left = s.qos.left.erase (r.val, d.val)
          ∧ (∀ w ∈ State.wingRegs, ∀ u ∈ State.wingUnits w.1, u.1 = r.val →
              t.stageReg w.1 w.2 d u.2 = s.qos.cue.lookD (w.1.key w.2) (s.stageReg w.1 w.2 d u.2))
          ∧ ∀ q i d' port, d' < 4 → d' ≠ d.val → t.stageReg q i d' port = s.stageReg q i d' port)
    ∧ (let x := s.crc.lookD d {}
      let v := s.walkerSum d
      let differs := s.rd F.cfgCrcRef_ref d ≠ v ∧ x.dirty = false ∧ s.flag F.cfgCrcStatus_dirty d = false
      x.changed = false → Completes (.crcPass d) s fun t => t.rd F.cfgCrcLive_live d = v
        ∧ t.rd F.cfgCrcStatus_passes d = (s.rd F.cfgCrcStatus_passes d + 1) % 65536 ∧ (t.crc.lookD d {}).changed = false ∧ t.mem = s.mem
        ∧ (x.armed = true → t.rd F.cfgCrcRef_ref d = v ∧ t.rd F.cfgCrcStatus_dirty d = 0 ∧ t.rd F.cfgCrcStatus_commitBusy d = 0)
        ∧ (x.armed = false → t.rd F.cfgCrcRef_ref d = s.rd F.cfgCrcRef_ref d ∧
            (differs → t.rd F.cfgCrcStatus_mismatch d = 1) ∧ (¬ differs → t.rd F.cfgCrcStatus_mismatch d = s.rd F.cfgCrcStatus_mismatch d)))
    ∧ (s.accepts (wordWrite p .cfgCrcStatus d 0 (fieldIn data 2 1 1)) → Completes (.crcCommit p d data) s fun t =>
        t.rd F.cfgCrcStatus_commitBusy d = 1 ∧ t.mem = s.mem ∧ t.qos = s.qos)
    ∧ (s.accepts (wordWrite p .cfgCrcRef d 0 data.toNat) → Completes (.crcRefWrite p d data) s fun t =>
        t.rd F.cfgCrcRef_ref d = data.toNat ∧ t.rd F.cfgCrcStatus_dirty d = 0 ∧ (t.crc.lookD d {}).dirty = true ∧ t.mem = s.mem)
    ∧ (∀ (k : FuncKind) (i : Fin 4096),
        let e := s.tab.funcSeq.getD (State.kindCode k - 1) (0, 0, 0)
        let arg (which : Nat) : List Byte := [BitVec.ofNat 8 (State.kindCode k), BitVec.ofNat 8 which] ++ State.leBytes i 2
        let late (which : Nat) : Prop := exec (.funcTimer k i) s = .next (s.raise { type := 0x1604, sev := 1, inst := i, arg := arg which })
        ((s.funcPhase k i).1 = true → e.2.1 ≠ 0 → late 0) ∧ ((s.funcPhase k i).1 = false → (s.funcPhase k i).2 = true → e.2.2 ≠ 0 → late 1)
          ∧ (s.funcPhase k i = (false, false) → exec (.funcTimer k i) s = .next s))

/-! ## Event queues and host ports (chapters 18 and 20) -/

/-- Event queues (R390 to R393) and host ports (R322, R376): enabling a queue arms it, a write of HEAD arms it and answers unread records with a
message, the moderation timer sends what waits, a failed write disables; a lost link resets its functions and disables the queues it serves,
and a link or a function that returns takes its secure status from the secure-function list. -/
def Obligations.EventsAndHostPorts : Prop :=
  ∀ (s : State), s.wf = true → s.quiet →
    (∀ (e : Fin 17) (p : Path) (data : Word),
      let w := wordWrite p .mgtEvqCfg e 0 (fieldIn data 4 1 1)
      let h := wordWrite p .mgtEvqPtr e 0 data.toNat
      (s.accepts w → s.flag F.mgtEvqCfg_enable e = false →
        (s.evqEnableOk e (s.newVal w) = true → s.evt.pending = [] → Completes (.evqEnable p e data) s fun t =>
          t.flag F.mgtEvqCfg_enable e = true ∧ t.reg .mgtEvqCfg e = s.newVal w ∧ e.val ∈ t.evt.armed ∧ t.evt.written = s.evt.written ∧ t.mem = s.mem)
        ∧ (s.evqEnableOk e (s.newVal w) = false → Completes (.evqEnable p e data) s fun t =>
          t.reg .mgtEvqCfg e = s.reg .mgtEvqCfg e ∧ t.mem = s.mem))
      ∧ (s.accepts h → (∀ a f, p = .host a f → f = 0) → s.flag F.mgtEvqCfg_enable e = true →
        (data.toNat % 2 ^ F.mgtEvqPtr_head.width = s.rd F.mgtEvqPtr_tail e → Completes (.evqHeadWrite p e data) s fun t =>
          t.rd F.mgtEvqPtr_head e = s.rd F.mgtEvqPtr_tail e ∧ e.val ∈ t.evt.armed ∧ t.evt.msix = s.evt.msix ∧ t.mem = s.mem)
        ∧ (data.toNat % 2 ^ F.mgtEvqPtr_head.width ≠ s.rd F.mgtEvqPtr_tail e → s.rd F.mgtEvqCfg_moderate e = 0 → Completes (.evqHeadWrite p e data) s fun t =>
          t.rd F.mgtEvqPtr_head e = data.toNat % 2 ^ F.mgtEvqPtr_head.width ∧ t.evt.msix = s.evt.msix ++ [e.val] ∧ e.val ∉ t.evt.armed
            ∧ t.mem = s.mem))
      ∧ (e.val ∈ s.evt.quiet → e.val ∈ s.evt.waiting → exec (.msixModerationExpiry e) s = .next (s.uEvt fun v =>
          { v with msix := v.msix ++ [e.val], waiting := v.waiting.filter (· ≠ e.val) }))
      ∧ (e.val ∈ s.evt.quiet → e.val ∉ s.evt.waiting → exec (.msixModerationExpiry e) s = .next (s.uEvt fun v =>
          { v with quiet := v.quiet.filter (· ≠ e.val) }))
      ∧ (s.flag F.mgtEvqCfg_enable e = true → Completes (.evqWriteError e) s fun t =>
          t.flag F.mgtEvqCfg_enable e = false ∧ e.val ∉ t.evt.armed ∧ e.val ∉ t.evt.waiting ∧ t.mem = s.mem))
    ∧ (∀ h : Fin 2,
      let down (t : State) : Prop := t.rd F.pciStatus_linkUp h = 0 ∧ t.rd F.pciStatus_speed h = 0 ∧ t.rd F.pciStatus_width h = 0
        ∧ t.rd F.pciStatus_numVfs h = 0 ∧ Counts F.pciStatus_surpriseDowns h s t
        ∧ (∀ f < 16, State.fnIdx h f ∉ t.pci.bme ∧ t.rd F.secFn_secure (State.fnIdx h f) = 0)
        ∧ (∀ e < 17, s.rd F.mgtEvqCfg_host e = h.val → t.flag F.mgtEvqCfg_enable e = false)
        ∧ (∀ e < 17, s.rd F.mgtEvqCfg_host e ≠ h.val → t.flag F.mgtEvqCfg_enable e = s.flag F.mgtEvqCfg_enable e) ∧ t.mem = s.mem ∧ t.home = s.home
      (s.flag F.pciStatus_linkUp h = true → Completes (.hostLinkDown h) s down ∧ Completes (.hostPortReset h) s down)
      ∧ (∀ (speed : BitVec 3) (width : BitVec 4), s.flag F.pciCtrl_enable h = true → s.flag F.pciStatus_linkUp h = false →
          (s.rd F.pwrStatus_state = 3 ∨ s.rd F.pwrStatus_state = 4) → Completes (.hostLinkUp h speed width) s fun t =>
            t.rd F.pciStatus_linkUp h = 1 ∧ t.rd F.pciStatus_speed h = speed.toNat % 2 ^ F.pciStatus_speed.width
              ∧ t.rd F.pciStatus_width h = width.toNat % 2 ^ F.pciStatus_width.width ∧ t.rd F.pciStatus_numVfs h = 0
              ∧ (∀ f < 16, t.flag F.secFn_secure (State.fnIdx h f) = s.listed h f) ∧ t.mem = s.mem ∧ t.evt = s.evt)
      ∧ (∀ f : Fin 16, s.flag F.pciStatus_linkUp h = true → Completes (.functionLevelReset h f) s fun t =>
          State.fnIdx h f ∉ t.pci.bme ∧ t.flag F.secFn_secure (State.fnIdx h f) = s.listed h f ∧ (f.val = 0 → t.rd F.pciStatus_numVfs h = 0)
            ∧ t.mem = s.mem ∧ t.evt = s.evt
            ∧ (f.val ≠ 0 → ∀ g < 16, g ≠ f.val → t.reg .secFn (State.fnIdx h g) = s.reg .secFn (State.fnIdx h g))))

/-! ## Partitions, keys and the root of trust (chapter 15) -/

namespace Sys2Proof.Machine

/-- The root of trust serves MCTP requests at once. -/
abbrev Serves (s : State) : Prop := s.wf = true ∧ s.quiet ∧ s.islandUp = true ∧ s.rot.unlocking = none ∧ s.rot.queue = []

/-- An MCTP request was answered. -/
def Replies (s t : State) (status : Nat) (b : List Byte) : Prop := t.rot.mctp = s.rot.mctp ++ [(status, b)]

end Sys2Proof.Machine

/-- Requests of the mailbox and over MCTP (Table 15-4, R315, R318, R331, R334): the SVN counter, the challenge, the unlock at levels 1 and 2, the
flash, the reset, and the answers of attestation. Nonces, signatures and token layouts are opaque: the model's choice (logs 9, 28). -/
def Obligations.RootOfTrustRequests : Prop :=
  ∀ (s : State) (body : List Byte), Serves s →
    let boot : Bool := s.inRecovery
    let level := (Config.tokenFields body).2.2
    let unlocks := s.rot.security && decide (s.rot.fails < 8) && s.tokenOk body
    (∀ p : Path, boot = false → s.accepts (wordWrite p .rotMboxCmd 0 0 (1 + 2 ^ 31)) → Completes (.advanceSvn (.regs p) []) s fun t =>
        t.rot.counter = max s.rot.counter s.rot.svn ∧ t.rd F.rotStatus_svn = t.rot.counter % 2 ^ 24 ∧ t.rd F.rotMboxStatus_result = St.ok
          ∧ t.rd F.rotMboxStatus_busy = 0 ∧ t.rd F.rotMboxStatus_len = 0 ∧ t.mem = s.mem)
    ∧ (Completes (.advanceSvn .mctp body) s fun t => Replies s t St.noRights [] ∧ t.rot.counter = s.rot.counter)
    ∧ (Completes (.debugChallenge .mctp body) s fun t => ∃ n, n.length = 32 ∧ t.rot.nonce = some n ∧ Replies s t St.ok n ∧ t.mem = s.mem)
    ∧ (Completes (.debugUnlock .mctp body) s fun t => t.rot.nonce = none
        ∧ (unlocks = true → level = 1 → t.rd F.rotStatus_debug = max 1 (s.rd F.rotStatus_debug) ∧ Replies s t St.ok [] ∧ t.rot.fails = s.rot.fails
            ∧ t.mem = s.mem)
        ∧ (unlocks = true → level = 2 → (∀ p < 16, s.rd F.secPartStatus_state p = 0) → t.rd F.rotStatus_debug = 2 ∧ t.rot.noKeys = true
            ∧ Replies s t St.ok [] ∧ (∀ k < 256, t.rd F.secKeyStatus_state k = 0)
            ∧ ∀ e ∈ t.link, e.2.keyLive = none ∧ e.2.keyNext = none ∧ e.2.keyWings = none)
        ∧ (unlocks = false → Replies s t St.noRights [] ∧ t.rot.fails = s.rot.fails + 1 ∧ t.rd F.rotStatus_debug = s.rd F.rotStatus_debug
            ∧ t.mem = s.mem))
    ∧ (Completes (.bindFlash .mctp body) s fun t => t.rot.nonce = none ∧ t.mem = s.mem
        ∧ if s.rot.bound then t.rot.bound = true ∧ Replies s t St.badRequest []
          else t.rot.bound = s.tokenOk body ∧ Replies s t (if s.tokenOk body then St.ok else St.noRights) [])
    ∧ (let span := Config.flashSpan body
      Completes (.flashRead .mctp body) s fun t => t.rot.flash = s.rot.flash ∧ t.mem = s.mem
        ∧ if 4096 < span.2 then Replies s t St.badRequest [] else Replies s t St.ok (Memory.bytes s.rot.flash span.1 span.2))
    ∧ (let d := Config.flashData body
      let may := State.inSlot false d.1 d.2.length && (boot || s.flag F.rotStatus_slot) || State.inSlot true d.1 d.2.length && (boot || !s.flag F.rotStatus_slot)
      Completes (.flashWrite .mctp body) s fun t => t.mem = s.mem
        ∧ if 4096 < d.2.length then t.rot.flash = s.rot.flash ∧ Replies s t St.badRequest []
          else if may then t.rot.flash = Memory.setBytes s.rot.flash d.1 d.2 ∧ Replies s t St.ok []
          else t.rot.flash = s.rot.flash ∧ Replies s t St.noRights [])
    ∧ (Completes (.reset .mctp body) s fun t => t.rd F.pwrStatus_state = 1 ∧ t.pwr.step = 2 ∧ t.mem = {} ∧ t.home = {} ∧ t.clu = {} ∧ Replies s t St.ok []
        ∧ t.rot.flash = s.rot.flash)
    ∧ (let st := s.spdmState 2
      let answer (b : List Byte) : State := s.uRot fun r => { r with spdm := r.spdm.put 2 (r.spdm.lookD 2 0 + 1), answers := r.answers ++ [(2, b)] }
      exec (.spdmRequest .mctp body) s = .next (answer (Config.spdmAnswer st body))
        ∧ (s.rot.noKeys = false → exec (.pqSign .mctp body) s = .next (answer (Config.pqSignature body))))

/-- Partitions (R323, R330) and memory keys (R325 to R329): their commands by state, what a drained revocation clears, a sweep's unit and
the end of a rotation, and a link key's way to its port's wings. -/
def Obligations.PartitionsAndKeys : Prop :=
  ∀ (s : State) (p : Path) (data : Word), s.wf = true → s.quiet → SMap.sorted s.keys = true →
    let w (op : Nat) : WordWrite := wordWrite p .secPartCmd 0 0 (fieldIn data 4 2 op)
    let pt := data.toNat % 16
    let ps := s.rd F.secPartStatus_state pt
    let kw (op : Nat) : WordWrite := wordWrite p .secKeyCmd 0 0 (fieldIn data 12 2 op)
    let k := data.toNat % 256
    let kp := data.toNat / 256 % 16
    let ks := s.rd F.secKeyStatus_state k
    let keyIs (t : State) (st result : Nat) : Prop := t.rd F.secKeyStatus_state k = st ∧ t.rd F.secKeyResult_result = result ∧ t.mem = s.mem ∧ t.home = s.home
    let made := s.rot.made + 1
    let x := s.keys.lookD k {}
    let num0 := if s.keyGen k then made else x.num0
    let num1 := if s.keyGen k then x.num1 else made
    (s.accepts (w 1) → (s.partitioned = true ∨ pt = 0) →
      (ps = 0 → Completes (.partitionCreate p data) s fun t => t.rd F.secPartStatus_state pt = 1 ∧ t.rd F.secPartStatus_result pt = St.ok ∧ t.mem = s.mem)
      ∧ (ps = 1 ∨ ps = 2 → Completes (.partitionCreate p data) s fun t => t.rd F.secPartStatus_state pt = ps ∧ t.rd F.secPartStatus_result pt = St.busy))
    ∧ (∀ q : Partition, s.rd F.secPartStatus_state q = 1 → Completes (.partitionStartDone q) s fun t =>
        t.rd F.secPartStatus_state q = 2 ∧ t.mem = s.mem ∧ t.home = s.home)
    ∧ (s.accepts (w 2) → (s.partitioned = true ∨ pt = 0) → ps = 2 → s.txns = [] → s.col.plans = [] → s.clu.ctx = [] → s.clu.window = [] →
        (∀ o < 128, s.rd F.dirSlot_partition o = pt → s.rd F.dirSlot_state o = 0) → SMap.sorted s.xfr.run = true → Completes (.revoke p data) s fun t =>
          t.rd F.secPartStatus_state pt = 3 ∧ t.rd F.secPartStatus_result pt = St.ok ∧ t.clu.saved = s.clu.saved.filter (fun v => v.partition != pt)
            ∧ (∀ e ∈ t.xfr.run, s.rd F.xfrQcfg_partition e.2.queue = pt → e.2.stop.isSome = true) ∧ t.home.ext = s.home.ext)
    ∧ (∀ q : Partition, s.revokeDrainedOk q = true → s.rd F.secPartStatus_state q = 3 → s.ras.fenceWait = [] → s.rot.unlocking = none → s.rot.queue = [] →
        SMap.sorted s.home.ext = true → Completes (.revokeDrained q) s fun t => t.rd F.secPartStatus_state q = 0
          ∧ (∀ i < 256, s.rd F.secKeyStatus_state i ≠ 0 → s.rd F.secKeyStatus_partition i = q → t.rd F.secKeyStatus_state i = 0)
          ∧ (∀ m < 1024, s.rd F.homGrpMatch_partition m = q → t.flag F.homGrpMatch_valid m = false)
          ∧ (∀ m < 64, s.rd F.cluQcfg_partition m = q → t.flag F.cluQcfg_enable m = false)
          ∧ (∀ m < 128, s.rd F.xfrQcfg_partition m = q → t.flag F.xfrQcfg_enable m = false)
          ∧ (∀ a < 1024, s.rd F.ptuAs_partition a = q → t.flag F.ptuAs_valid a = false)
          ∧ (∀ e ∈ t.home.ext, e.2.state ≠ .off → e.2.attr.partition ≠ q.val))
    ∧ (s.accepts (kw 1) → (s.partitioned = true ∨ kp = 0) →
      (ks = 0 → Completes (.allocate p data) s fun t => keyIs t 1 St.ok ∧ t.rd F.secKeyStatus_gen k = 0 ∧ t.rd F.secKeyStatus_partition k = kp
        ∧ t.keys = s.keys.put k { has0 := true, num0 := made } ∧ t.rot.made = made)
      ∧ (ks ≠ 0 → Completes (.allocate p data) s fun t => keyIs t ks St.busy ∧ t.keys = s.keys))
    ∧ (s.accepts (kw 2) →
      let runs := [0, 1, 2, 3].map fun d => (d, (s.stored (kw 2)).sweepRuns k d)
      (ks = 1 → (∃ d < 4, (s.stored (kw 2)).sweepRuns k d ≠ []) → Completes (.rotate p data) s fun t => keyIs t 2 St.ok
        ∧ t.rd F.secKeyStatus_gen k = 1 - s.rd F.secKeyStatus_gen k ∧ t.keys = s.keys.put k { has0 := true, has1 := true, num0 := num0, num1 := num1, sweep := runs } ∧ t.rot.made = made)
      ∧ (ks = 1 → (∀ d < 4, (s.stored (kw 2)).sweepRuns k d = []) → Completes (.rotate p data) s fun t => keyIs t 1 St.ok
        ∧ t.rd F.secKeyStatus_gen k = 1 - s.rd F.secKeyStatus_gen k
        ∧ t.keys.look k = some { has0 := s.keyGen k, has1 := !s.keyGen k, num0 := num0, num1 := num1 })
      ∧ (ks = 0 → Completes (.rotate p data) s fun t => keyIs t 0 St.badRequest ∧ t.keys = s.keys))
    ∧ (s.accepts (kw 3) → ks ≠ 0 →
      ((∀ e ∈ s.home.ext, e.2.state ≠ .off → e.2.attr.key ≠ k) → Completes (.destroy p data) s fun t => keyIs t 0 St.ok ∧ t.keys = s.keys.del k)
      ∧ ((∃ e ∈ s.home.ext, e.2.state ≠ .off ∧ e.2.attr.key = k) → Completes (.destroy p data) s fun t => keyIs t ks St.busy ∧ t.keys = s.keys))
    ∧ (∀ (d : Die) (key : KeyId) (x : KeyState) (e page left : Nat) (rest : List (Nat × Nat × Nat)), s.rd F.secKeyStatus_state key = 2 → s.home.halted.contains d.val = false →
        s.revoking (s.rd F.secKeyStatus_partition key) = false →
        s.keys.look key = some x → x.sweep.lookD d [] = (e, page, left + 1) :: rest → (s.getExt e).state.serves = true → (s.getExt e).attr.key = key.val →
        let g := s.keyGen key
        let swept := (s.unitLines64 (s.getExt e).attr page d).foldl (fun u l => u.sweepLine l g .clean) s
        let y := x.sweep.put d (if left = 0 then rest else (e, page + 1, left) :: rest)
        ((∃ a ∈ y, a.2 ≠ []) → Completes (.keySweepUnit d key .clean) s fun t => t.mem = swept.mem ∧ t.rd F.secKeyStatus_state key = 2
          ∧ t.keys.look key = some { x with sweep := y })
        ∧ ((∀ a ∈ y, a.2 = []) → Completes (.keySweepUnit d key .clean) s fun t => t.mem = swept.mem ∧ t.rd F.secKeyStatus_state key = 1
          ∧ t.keys.look key = some { has0 := !g, has1 := g, num0 := x.num0, num1 := x.num1 }))
    ∧ (∀ (l : Nat) (g : Bool), s.mscFind l = none → s.remap l = none → (s.ctl (s.servedAt l).1).wq = [] → (s.ctl (s.servedAt l).1).wwait = [] →
        SMap.sorted s.mem.ctl = true → SMap.sorted s.mem.arrived = true → (s.peekLine l).2.keygen ≠ g →
        (s.sweepLine l g .clean).peekLine l = ((s.peekLine l).1, (s.encrypted l (s.peekLine l).2 g).coded (s.peekLine l).1))
    ∧ (∀ n : Port, s.accepts (wordWrite p .secLinkKey (n.val * 8 + 7) 0 data.toNat) → s.exchanging n = false → Completes (.linkKeySubmit p n data) s fun t =>
        (∀ i < 8, t.reg .secLinkKey (n.val * 8 + i) = 0) ∧ t.rd F.secLinkStat_pending n = 1 ∧ t.mem = s.mem ∧
          ∃ key, (t.getLink n).keyWings = some key ∧ key.extractLsb' 224 32 = data
            ∧ ∀ i < 7, (key.extractLsb' (32 * i) 32).toNat = State.bits (s.reg .secLinkKey (n.val * 8 + i)) 0 32)
    ∧ (∀ (d : Die) (key : KeyId) (u : Upset), s.revoking (s.rd F.secKeyStatus_partition key) = true → exec (.keySweepUnit d key u) s = .next s)

/-! ## Understudies and the kennel (chapter 16) -/

namespace Sys2Proof.Machine

/-- The history counts an event of a unit with weight w of its class (R345). -/
def Blames (cls inst kind w : Nat) (s t : State) : Prop :=
  let old := ((s.ras.hist.find? fun h => h.cls == cls && h.inst == inst && h.kind == kind).map (·.count)).getD 0
  s.ras.hist.length < 4096 →
    ∃ h ∈ t.ras.hist, h.cls = cls ∧ h.inst = inst ∧ h.kind = kind ∧ h.count = min (old + (s.histClass cls).2.2.getD (w - 1) 0) 65535

/-- The context of a dispute goes on with its destinations written. -/
def Takes (x : Context) (d : Dispute) (l : List LineData) : Context :=
  (d.dests.zip l).foldl (fun x p => State.vPut x d.eng p.1 (p.2, d.poison)) { x with phase := .run }

/-- Core n has a state and a role. -/
abbrev CoreIs (t : State) (n state role : Nat) : Prop := t.rd F.rasCore_state n = state ∧ t.rd F.corStatus_role n = role

/-- A core whose partition is not being torn down. -/
abbrev Fenceable (s : State) (n : Nat) : Prop :=
  State.bits (s.reg .secCoreMap (n / 9)) (5 * (n % 9) + 4) 1 = 0 ∨ s.revoking (State.bits (s.reg .secCoreMap (n / 9)) (5 * (n % 9)) 4) = false

end Sys2Proof.Machine

/-- Verdicts and canaries (R341 to R345, Table 16-2): the result the majority agrees on goes to the destinations, the loser is counted and
remembered; without a majority the destinations are poisoned; a canary that differs is judged by its referee. -/
def Obligations.VerdictsAndCanaries : Prop :=
  ∀ (s : State) (n : Core), s.wf = true → s.quiet →
    let k := n.val / 9
    let ref := (s.referee k n).getD n
    (∀ (c : Ctx) (d : Dispute) (x : Context) (u : RefereeRun), s.ras.disputes = [d] → d.core = n.val → d.ctx = c.val → d.scalar = false →
      s.getCtx n c = some x → x.phase = .dispute →
      let e := 4 * n.val + d.eng
      let fits (l : List LineData) : Bool := State.Dispute.fits d x l
      let goes (vals : List LineData) (t : State) : Prop := t.getCtx n c = some (Takes x d vals) ∧ t.ras.disputes = [] ∧ t.mem = s.mem ∧ t.home = s.home
      (∀ l, State.refereeValue d u = some l →
        (fits d.e = false → l = d.e → Completes (.refereeVerdict n c u) s fun t => goes d.e t ∧ Counts F.rasVerdict_checker k s t ∧ Blames 2 e 1 1 s t)
        ∧ (fits d.e = false → l ≠ d.e → fits l = true → Completes (.refereeVerdict n c u) s fun t => goes l t ∧ Counts F.rasVerdict_engine k s t
            ∧ Blames 1 e 1 (if d.aEqE then 2 else 1) s t)
        ∧ (fits d.e = true → l = d.e → Completes (.refereeVerdict n c u) s fun t => goes d.e t ∧ Counts F.rasVerdict_engine k s t ∧ Blames 1 e 1 1 s t)
        ∧ (fits d.e = true → l ≠ d.e → fits l = false → Completes (.refereeVerdict n c u) s fun t => goes d.e t ∧ Counts F.rasVerdict_referee k s t
            ∧ Blames 1 (4 * ref + d.eng) 1 1 s t))
      ∧ ((∀ l, State.refereeValue d u = some l → l ≠ d.e ∧ fits l = fits d.e) → Completes (.refereeVerdict n c u) s fun t =>
          Counts F.rasVerdict_none k s t ∧ t.ras.disputes = [] ∧ t.mem = s.mem
          ∧ ∃ y, t.getCtx n c = some y ∧ y.phase = .run ∧ ∀ r ∈ d.dests, r < 64 → (State.vGet y d.eng r).2 = true)
      ∧ (State.refereeValue d .absent = none ∧ State.refereeValue d .right = some d.good ∧ ∀ v, State.refereeValue d (.wrong v) = some v))
    ∧ (∀ (a b : Fin 4) (ra rb : LineData), a ≠ b → ra ≠ rb → s.runsCanaries n = true →
        (Completes (.canary n a b ra rb (some ra)) s fun t => Counts F.rasVerdict_engine k s t ∧ Blames 1 (4 * n + b) 3 3 s t ∧ t.mem = s.mem ∧ t.clu = s.clu)
        ∧ (Completes (.canary n a b ra rb (some rb)) s fun t => Counts F.rasVerdict_engine k s t ∧ Blames 1 (4 * n + a) 3 3 s t ∧ t.mem = s.mem ∧ t.clu = s.clu)
        ∧ ∀ u, u ≠ ra → u ≠ rb → s.ras.hist.length < 4095 → Completes (.canary n a b ra rb (some u)) s fun t => Counts F.rasVerdict_none k s t ∧ Blames 1 (4 * n + a) 3 3 s t ∧ t.mem = s.mem)
    ∧ (∀ x y : DWord, x ≠ y → s.runsCanaries n = true → Completes (.scalarCanary n x y) s fun t => Blames 3 n 2 2 s t ∧ t.mem = s.mem ∧ t.clu = s.clu)

/-- Swaps, tests, fences and the history (R345 to R351, R398): a die's VDD_CORE stands at 0.80 V while a core of it is tested, at 0.75 V after;
the understudy takes the target's place and partition while the target is tested; a test's rating sets state and role; RAS_CMD tests, fences and
releases; a fenced core whose records are written loses its partition to the understudy; commits and halvings of the history. A core that comes
under test, or becomes the referee, is gated no longer (R408); nothing else of the clusters changes. -/
def Obligations.KennelRows : Prop :=
  ∀ (s : State) (n : Core) (p : Path) (data : Word), s.wf = true → s.quiet → SMap.sorted s.ras.testing = true → SMap.sorted s.ras.draining = true →
    let k : Cluster := ⟨n.val / 9, by omega⟩
    let st := s.rd F.rasCore_state n
    let w (op : Nat) : WordWrite := wordWrite p .rasCmd 0 0 (fieldIn data 8 3 op)
    let cmd (op : Nat) : Prop := s.accepts (w op) ∧ s.flag F.rasStatus_busy = false ∧ data.toNat % 256 = n.val
    let kept (t : State) : Prop := t.mem = s.mem ∧ t.home = s.home ∧ t.clu = s.clu
    let still (t : State) : Prop := t.mem = s.mem ∧ t.home = s.home ∧ { t.clu with gated := s.clu.gated, waking := s.clu.waking } = s.clu
      ∧ ∀ m ∈ t.clu.gated, m ∈ s.clu.gated
    let hot (t : State) : Prop := CoreIs t n 4 1 ∧ t.pwr.vcore.lookD (n / 36) 750 = 800
    let cool (t : State) : Prop := SMap.sorted s.pwr.vcore = true → (∀ x ∈ s.ras.testing, x.1 = n.val ∨ x.1 / 36 ≠ n.val / 36) →
      t.pwr.vcore.lookD (n / 36) 750 = 750
    (∀ u : Core, s.rd F.rasCtrl_swapH ≠ 0 → s.ras.disputes = [] → (State.coresOf k).find? (fun m => s.rd F.rasCore_state m == 1) = some u.val →
        s.swapTarget k = some n.val → Completes (.roleSwap k) s fun t => CoreIs t u 0 0 ∧ t.coreMap u = s.coreMap n ∧ t.coreMap n = s.coreMap u
          ∧ t.ras.lastTarget.lookD k 8 = n % 9 ∧ still t
          ∧ if s.ctxOf n = [] then hot t ∧ t.ras.testing.look n = some .swap
            else t.rd F.rasCore_state n = 3 ∧ t.ras.draining.look n = some .swap)
    ∧ (st = 3 → s.ras.draining.look n = some .swap → exec (.swapDrainExpiry k) s = .next (s.raise { type := 0x1505, sev := 1, arg := [BitVec.ofNat 8 k] }))
    ∧ (∀ m : Fin 9, st = 4 →
        (s.ras.testing.look n = some .swap → Completes (.stressTestDone n .pass m) s fun t => CoreIs t n 1 1 ∧ t.rd F.rasCore_lastTest n = 1
          ∧ t.rd F.corStatus_margined n = 0 ∧ t.rd F.rasCore_margin n = 0 ∧ t.ras.testing.look n = none ∧ t.ras.hist = s.ras.hist ∧ still t ∧ cool t)
        ∧ (s.ras.testing.look n = some .command → Completes (.stressTestDone n .marginal m) s fun t => t.rd F.rasCore_lastTest n = 2
          ∧ t.rd F.rasCore_margin n = m.val % 2 ^ F.rasCore_margin.width ∧ t.rd F.rasStatus_busy = 0 ∧ t.rd F.rasStatus_result = St.ok ∧ Blames 6 n 2 2 s t ∧ still t ∧ cool t)
        ∧ (s.ras.testing.look n = some .swap → Fenceable s n → Completes (.stressTestDone n .fail m) s fun t => CoreIs t n 2 2 ∧ t.rd F.rasCore_lastTest n = 3
          ∧ (∃ h ∈ t.ras.hist, State.HistRec.core h = some n.val ∧ h.fenced = true) ∧ n.val ∈ t.ras.fencing.map (·.1) ∧ still t ∧ cool t))
    ∧ (∀ sig : DWord, (∀ m ∈ State.coresOf k, s.rd F.rasCore_state m = 5 ∧ s.rd F.corStatus_role m < 2) →
        (∃ m ∈ State.coresOf k, s.rd F.corStatus_role m = 1) → Completes (.startupTestDone k (List.replicate 9 sig)) s fun t => still t ∧ t.ras.hist = s.ras.hist
          ∧ ∀ m ∈ State.coresOf k, t.rd F.rasCore_state m = s.rd F.corStatus_role m ∧ t.rd F.rasCore_lastTest m = 1)
    ∧ (cmd 1 → (st = 0 → s.ctxOf n = [] → Completes (.test p data) s fun t => hot t ∧ t.rd F.rasStatus_busy = 1
          ∧ t.ras.testing.look n = some .command ∧ still t)
        ∧ (st = 0 → s.ctxOf n ≠ [] → Completes (.test p data) s fun t => t.rd F.rasCore_state n = 3 ∧ t.rd F.rasStatus_busy = 1
          ∧ t.ras.draining.look n = some .command ∧ still t)
        ∧ (st = 1 → Completes (.test p data) s fun t => hot t ∧ t.rd F.rasStatus_busy = 1 ∧ t.ras.testing.look n = some .spare ∧ still t)
        ∧ (st = 2 → Completes (.test p data) s fun t => t.rd F.rasStatus_result = St.badRequest ∧ t.rd F.rasCore_state n = 2 ∧ still t))
    ∧ (cmd 2 → (st = 2 → Completes (.fence p data) s fun t => t.rd F.rasStatus_result = St.ok ∧ t.rd F.rasStatus_busy = 0 ∧ still t)
        ∧ (st ≠ 2 → s.ctxOf n = [] → Fenceable s n → Completes (.fence p data) s fun t => CoreIs t n 2 2 ∧ t.rd F.rasStatus_busy = 1
          ∧ n.val ∈ t.ras.fencing.map (·.1) ∧ still t ∧ ∃ h ∈ t.ras.hist, State.HistRec.core h = some n.val ∧ h.fenced = true))
    ∧ (cmd 3 → (st = 2 → (∀ f ∈ s.ras.fencing, f.1 ≠ n.val) → Completes (.unfence p data) s fun t => t.rd F.rasCore_state n = 4 ∧ t.rd F.rasStatus_busy = 1
          ∧ t.ras.testing.look n = some .unfence ∧ still t)
        ∧ (st ≠ 2 → Completes (.unfence p data) s fun t => t.rd F.rasStatus_result = St.badRequest ∧ t.rd F.rasCore_state n = st ∧ still t))
    ∧ (∀ (cls : Nat) (u : Core), s.ras.fencing = [(n.val, cls)] → s.ctxOf n = [] → st = 2 →
        (State.coresOf k).find? (fun m => s.rd F.rasCore_state m == 1) = some u.val → Completes (.fenceRecordsWritten n) s fun t =>
          t.coreMap n = 0 ∧ t.coreMap u = s.coreMap n ∧ CoreIs t u 0 0 ∧ t.rd F.rasCore_state n = 2 ∧ t.ras.fencing = [] ∧ t.ras.commitDue = true ∧ t.mem = s.mem
            ∧ (cls = 0 → t.rd F.rasStatus_busy = 0 ∧ t.rd F.rasStatus_result = St.ok))
    ∧ (s.ras.commitDue = true →
        (Completes (.historyCommit true) s fun t => t.ras.commitDue = false ∧ t.ras.copies.getLast? = some s.ras.hist ∧ t.ras.hist = s.ras.hist
          ∧ t.ras.hours = s.ras.hours ∧ t.regs = s.regs ∧ kept t)
        ∧ (Completes (.historyCommit false) s fun t => t.ras.copies = s.ras.copies ∧ t.rd F.rasStatus_histStale = 1 ∧ t.ras.hist = s.ras.hist ∧ kept t))
    ∧ (Completes .historyHalving s fun t => t.ras.hist = s.ras.hist.map (fun h => { h with count := h.count / 2 }) ∧ kept t)

/-! ## Power, clocks, resets (chapter 19) -/

/-- Droop (R399), polls (R400), the cap and the throttles with each stack's refresh multiplier (R58, R401, R402), trips (R402), references (R405), standby feeds (R354) and core
gating (R408). -/
def Obligations.SuppliesAndClocks : Prop :=
  ∀ (s : State) (d : Die), s.wf = true → s.quiet →
    let still (t : State) : Prop := t.mem = s.mem ∧ t.home = s.home ∧ t.clu = s.clu ∧ t.link = s.link
    let stretches (x : Nat) (t : State) : Prop := x ∈ t.pwr.stretch ∧ x ∉ t.pwr.restoring ∧ Counts F.pwrRail_droops (16 * d) s t ∧ still t
    (d.val ∉ s.pwr.stretch → Completes (.droopAssert d) s (stretches d.val))
    ∧ (∀ k : Cluster, k.val / 4 = d.val → (4 + k.val ∉ s.pwr.stretch → Completes (.clusterDroopAssert k) s (stretches (4 + k.val)))
        ∧ (4 + k.val ∈ s.pwr.stretch → 4 + k.val ∉ s.pwr.restoring → exec (.clusterDroopDeassert k) s = .next (s.uPwr fun p =>
          { p with restoring := p.restoring ++ [4 + k.val] })))
    ∧ (d.val ∈ s.pwr.stretch → d.val ∉ s.pwr.restoring → exec (.droopDeassert d) s = .next (s.uPwr fun p => { p with restoring := p.restoring ++ [d.val] }))
    ∧ (Completes (.droopRestoreExpiry d) s fun t => t.regs = s.regs ∧ still t ∧
        ∀ x, x ∈ t.pwr.stretch ↔ x ∈ s.pwr.stretch ∧ ¬ (x ∈ s.pwr.restoring ∧ State.domainDie x = d.val))
    ∧ (∀ (r : Fin 9) (v i : BitVec 16) (c : Byte), ¬ (r.val = 5 ∧ 2 ≤ d.val) →
        let x := 16 * d.val + r
        (Completes (.pmbusPoll d r (.ok v i c)) s fun t => t.rd F.pwrRail_vout x = v.toNat % 2 ^ F.pwrRail_vout.width
          ∧ t.rd F.pwrRail_iout x = i.toNat % 2 ^ F.pwrRail_iout.width ∧ t.rd F.pwrRail_temp x = c.toNat % 2 ^ F.pwrRail_temp.width ∧ t.evt = s.evt ∧ still t)
        ∧ (Completes (.pmbusPoll d r .failed) s fun t => t.rd F.pwrRail_fault x = 1 ∧ t.rd F.pwrStatus_state = s.rd F.pwrStatus_state ∧ still t)
        ∧ (s.running = true → Completes (.pmbusPoll d r .fault) s fun t => t.rd F.pwrStatus_state = 5 ∧ t.rd F.pwrStatus_lastOff = 4
          ∧ t.pwr.thermtrip = true ∧ t.mem = {} ∧ t.ras.commitDue = true))
    ∧ (∀ (watts : Nat) (hot stk dimm : List Nat), SMap.sorted s.mem.ctl = true → s.running = true → watts < 2 ^ F.pwrStatus_power.width →
        (∀ x ∈ hot, x + 3 ≤ s.rd F.pwrCtrl_throttle) → (∀ x ∈ stk, x + 3 ≤ s.rd F.pwrCtrl_stkHot) → (∀ x ∈ dimm, x + 3 ≤ s.rd F.pwrCtrl_dimmHot) →
        3 ≤ s.rd F.pwrCtrl_throttle → 3 ≤ s.rd F.pwrCtrl_stkHot → 3 ≤ s.rd F.pwrCtrl_dimmHot → s.pwr.floor = 0 → 9 < s.pwr.capDuty → s.pwr.capDuty ≤ 64 →
        s.pwr.heatDuty = 64 →
        let limit := s.rd F.pwrCap_limit
        Completes (.powerCapTick watts hot stk dimm) s fun t => t.rd F.pwrStatus_power = watts ∧ t.home = s.home ∧ t.clu = s.clu ∧ t.link = s.link
          ∧ t.mem = { s.mem with ctl := t.mem.ctl }
          ∧ (∀ k < 20, t.rd F.stkStatus_temp k = stk.getD k 0 % 2 ^ F.stkStatus_temp.width
            ∧ (t.ctl k).refMult = State.curveAt s.tab.refreshStk (stk.getD k 0) ∧ (t.ctl k).rq = (s.ctl k).rq ∧ (t.ctl k).wq = (s.ctl k).wq)
          ∧ (limit < watts → t.rd F.pwrCap_duty = s.pwr.capDuty - 1 ∧ t.rd F.pwrCap_capping = 1)
          ∧ (watts ≤ limit → 100 * watts < 97 * limit → t.rd F.pwrCap_duty = min (s.pwr.capDuty + 1) 64)
          ∧ (watts ≤ limit → 97 * limit ≤ 100 * watts → t.rd F.pwrCap_duty = s.pwr.capDuty)
          ∧ ∀ d < 4, t.rd F.pwrTemp_throttling d = 0)
    ∧ (s.rd F.pwrStatus_state ≠ 0 → s.rd F.pwrStatus_state ≠ 5 → ∀ temp, 110 ≤ temp → Completes (.thermalTrip (.die d temp)) s fun t =>
        t.rd F.pwrStatus_state = 5 ∧ t.rd F.pwrStatus_lastOff = 3 ∧ t.pwr.thermtrip = true ∧ t.mem = {} ∧ t.evt.alert = true
          ∧ t.ras.hist = s.ras.hist ∧ t.ras.commitDue = true)
    ∧ (∀ pci : Bool, 2 ≤ d.val → s.pwr.lanesLost = [] → Completes (.referenceCheck d true true pci) s fun t =>
        t.rd F.clkStatus_refSys d = 1 ∧ t.rd F.clkStatus_refLane d = 1 ∧ t.rd F.clkStatus_losses d = s.rd F.clkStatus_losses d ∧ still t
          ∧ t.rd F.pwrStatus_state = s.rd F.pwrStatus_state)
    ∧ (∀ pci : Bool, s.rd F.pwrStatus_state = 4 → s.flag F.clkStatus_refSys d = true → 2 ≤ d.val → s.pwr.lanesLost = [] →
        Completes (.referenceCheck d false true pci) s fun t => t.rd F.clkStatus_refSys d = 0 ∧ t.rd F.pwrStatus_state = 5
          ∧ t.rd F.pwrStatus_lastOff = 5 ∧ t.mem = {})
    ∧ (∀ b : Bool, (s.flag (State.feedFld b) = true → s.flag (State.feedFld !b) = true → Completes (.feedLost b) s fun t =>
          t.flag (State.feedFld b) = false ∧ t.flag (State.feedFld !b) = true ∧ t.ras.commitDue = true ∧ Blames 14 b.toNat 1 1 s t ∧ still t)
        ∧ (s.flag (State.feedFld b) = true → s.flag (State.feedFld !b) = false → Completes (.feedLost b) s fun t =>
          t.flag F.rasStatus_feedAOk = false ∧ t.flag F.rasStatus_feedBOk = false ∧ t.rd F.pwrStatus_state = 0 ∧ t.mem = {} ∧ t.ras.hist = []
            ∧ t.ras.copies = s.ras.copies ∧ t.rot.flash = s.rot.flash)
        ∧ (s.flag (State.feedFld b) = false → s.flag (State.feedFld !b) = true → Completes (.feedRestored b) s fun t =>
          t.flag (State.feedFld b) = true ∧ t.flag (State.feedFld !b) = true ∧ t.ras = s.ras ∧ still t))
    ∧ (∀ n : Core, (s.rd F.pwrCtrl_coreIdle ≠ 0 → s.rd F.rasCore_state n = 0 → s.flag F.rasCore_referee n = false → s.ctxOf n = [] → n.val ∉ s.clu.gated →
          exec (.coreIdleExpiry n) s = .next (s.uClu fun u => { u with gated := u.gated ++ [n.val] }))
        ∧ exec (.coreWakeDone n) s = .next (s.uClu fun u => { u with waking := u.waking.filter (· ≠ n.val) }))

/-- Power-up (Table 19-4, Table 15-1), resets (R407) and power-down (R410): each step hands over to the next, the image's sections and
ports start the node, a missed limit turns the rails off with cause SEQUENCE; a warm reset clears every unit but the island and leaves a stopped home
stopped, a cold reset all but flash; OFF waits for extents and slots, FORCE_OFF does not. -/
def Obligations.PowerUpAndResets : Prop :=
  ∀ (s : State) (p : Path) (data : Word), s.wf = true → s.quiet →
    let step := s.pwr.step
    let w (op : Nat) : WordWrite := wordWrite p .pwrCmd 0 0 (fieldIn data 0 3 op)
    let ready : Prop := s.rd F.pwrStatus_state = 4 ∧ s.pwr.down = false ∧ s.pwr.pin = none
    let atState (t : State) (state step : Nat) : Prop := t.rd F.pwrStatus_state = state ∧ t.pwr.step = step
    let island (t : State) : Prop := t.rot.flash = s.rot.flash ∧ t.rot.counter = s.rot.counter ∧ t.rot.bound = s.rot.bound
    let cleared (t : State) : Prop := t.mem = {} ∧ t.fab = {} ∧ t.clu = {} ∧ t.col = {} ∧ t.xfr = {} ∧ t.link = [] ∧ t.keys = [] ∧ t.txns = []
      ∧ t.outs = [] ∧ island t
    let warm (t : State) : Prop := cleared t ∧ t.home = { halted := s.home.halted } ∧ t.pwr.vcore = [] ∧ t.ras.hist = s.ras.hist ∧ t.evt.written = s.evt.written ∧ t.rot.meas = s.rot.meas
    let cold (t : State) : Prop := cleared t ∧ t.home = {} ∧ t.ras.hist = [] ∧ t.ras.copies = s.ras.copies ∧ t.evt.pending = [] ∧ t.evt.written = s.evt.written
    let portsOff : Prop := s.flag F.pciStatus_linkUp 0 = false ∧ s.flag F.pciStatus_linkUp 1 = false
    (∀ a b : Bool, a || b → s.flag F.rasStatus_feedAOk = false → s.flag F.rasStatus_feedBOk = false → Completes (.powerUp a b) s fun t =>
        atState t 1 2 ∧ t.flag F.rasStatus_feedAOk = a ∧ t.flag F.rasStatus_feedBOk = b ∧ t.mem = s.mem)
    ∧ (step = 2 → ∀ b : BootFacts, b.seedOk = true → b.counterOk = true → b.hist.isSome = true → ∀ slot i, State.pickSlot b.counter.toNat (slotImage b.slotA) (slotImage b.slotB) = some (slot, i) →
        i.autoAdvance = false → Completes (.rotBootDone b) s fun t => t.pwr.step = 3 ∧ t.flag F.rotStatus_slot = slot ∧ t.rd F.rotStatus_cause = 0
          ∧ t.rot.counter = b.counter.toNat ∧ t.rot.svn = i.svn.toNat ∧ t.image = some i ∧ t.rot.meas.look 3 = some i.digest ∧ t.mem = s.mem
          ∧ t.rot.flash = Memory.setBytes (Memory.setBytes s.rot.flash 0x01000000 b.slotA.bytes) 0x02000000 b.slotB.bytes)
    ∧ (∀ counter a b slot i, State.pickSlot counter a b = some (slot, i) → (if slot then b else a) = some i ∧ counter ≤ i.svn.toNat
        ∧ ∀ j, (if slot then a else b) = some j → counter ≤ j.svn.toNat → if slot then j.version.toNat < i.version.toNat else j.version.toNat ≤ i.version.toNat)
    ∧ (step = 3 → Completes .mainRailsGood s fun t => t.pwr.step = 4 ∧ t.mem = s.mem
        ∧ ∀ d < 4, ∀ r < 9, ¬ (r = 5 ∧ 2 ≤ d) → t.rd F.pwrRail_pg (16 * d + r) = 1)
    ∧ (step = 4 → Completes .pllLocked s fun t => atState t 2 5 ∧ (∀ d < 4, t.rd F.clkStatus_lock d = 31) ∧ t.mem = s.mem)
    ∧ (step = 5 → ∀ i, s.image = some i → i.kinds = [] → s.ras.hist = [] → (∀ n < 144, s.rd F.rasCore_state n ≠ 2) → (∀ n < 64, s.flag F.lnkCtrl_enable n = false) → Completes .imageApplied s fun t =>
        atState t 3 6 ∧ (∀ n < 144, t.rd F.rasCore_state n = 5) ∧ (∀ d < 4, t.rd F.cfgCrcRef_ref d = (i.crcRef.getD d 0).toNat)
          ∧ t.tab = s.tab ∧ t.link = s.link ∧ t.mem = s.mem)
    ∧ (step = 6 → (∀ n < 144, s.rd F.rasCore_state n ≠ 5) → Completes .powerUpReady s fun t => atState t 4 0 ∧ t.mem = s.mem ∧ t.clu = s.clu)
    ∧ (step ≠ 0 → portsOff → Completes .powerUpStepLimit s fun t => atState t 0 0 ∧ t.rd F.pwrStatus_lastOff = 6 ∧ cleared t ∧ t.home = {})
    ∧ (s.pwr.pin ≠ some true → Completes .coldResetN s fun t => t.pwr.pin = some true ∧ t.rd F.pwrStatus_state = 1 ∧ cold t)
    ∧ (ready → portsOff → Completes .warmResetN s fun t => t.pwr.pin = some false ∧ t.rd F.pwrStatus_state = 1 ∧ warm t)
    ∧ (∀ c : Bool, s.pwr.pin = some c → exec (.resetPinRelease c) s = .next (s.uPwr fun v => { v with step := if c then 2 else 4, pin := none }))
    ∧ (ready → portsOff → s.accepts (w 1) → Completes (.warm p data) s fun t => atState t 1 4 ∧ warm t ∧ t.rd F.pwrCmd_result = St.ok)
    ∧ (ready → s.accepts (w 2) → Completes (.cold p data) s fun t => atState t 1 2 ∧ cold t)
    ∧ (ready → portsOff → (∀ n < 64, s.linkState n = 0) →
        let downs (t : State) (off : Nat) : Prop := t.pwr.down = true ∧ t.ras.commitDue = true ∧ t.rd F.pwrStatus_lastOff = off
          ∧ t.rd F.pwrCmd_result = St.ok ∧ t.mem = s.mem ∧ t.home = s.home
        (s.accepts (w 3) → (∀ e ∈ s.home.ext, e.2.state = .off) → (∀ o < 128, s.rd F.dirSlot_state o = 0) → Completes (.off p data) s fun t => downs t 1)
        ∧ (s.accepts (w 3) → (∃ o < 128, s.rd F.dirSlot_state o ≠ 0) → Completes (.off p data) s fun t => t.rd F.pwrCmd_result = St.busy
          ∧ t.pwr = s.pwr ∧ t.mem = s.mem ∧ t.home = s.home)
        ∧ (s.accepts (w 4) → Completes (.forceOff p data) s fun t => downs t 2))
    ∧ (s.pwr.down = true → portsOff → Completes .powerDownDone s fun t => atState t 0 0 ∧ t.pwr.down = false ∧ cleared t ∧ t.home = {})
end

