-- ==== Sys2Proof/Laws/SMap.lean ====
section
/-! SUPPORT. Laws of sparse tables: reads after writes, and the canonical form that every operation keeps. -/

namespace Sys2Proof.Machine.SMap

variable {α : Type}

@[simp] theorem look_nil (n : Nat) : look ([] : SMap α) n = none := rfl
@[simp] theorem lookD_nil (n : Nat) (d : α) : lookD ([] : SMap α) n d = d := rfl

/-- A key below every key of a table is not listed. -/
theorem look_above {m : SMap α} {lo n : Nat} (h : above lo m = true) (hn : n ≤ lo) : m.look n = none := by
  induction m generalizing lo with
  | nil => rfl
  | cons e m ih =>
    obtain ⟨k, v⟩ := e
    simp only [above, Bool.and_eq_true, decide_eq_true_eq] at h
    have : k ≠ n := by omega
    simp only [look, this, if_false]
    exact ih h.2 (by omega)

theorem above_mono {m : SMap α} {lo lo' : Nat} (h : above lo m = true) (hl : lo' ≤ lo) : above lo' m = true := by
  cases m with
  | nil => rfl
  | cons e m =>
    simp only [above, Bool.and_eq_true, decide_eq_true_eq] at h ⊢
    exact ⟨by omega, h.2⟩

theorem sorted_of_above {m : SMap α} {lo : Nat} (h : above lo m = true) : sorted m = true := by
  induction m generalizing lo with
  | nil => rfl
  | cons e m ih =>
    simp only [above, sorted, Bool.and_eq_true, decide_eq_true_eq] at h ⊢
    exact ⟨h.2, ih h.2⟩

theorem above_of_sorted {e : Nat × α} {m : SMap α} {lo : Nat} (h : sorted (e :: m) = true) (hl : lo < e.1) :
    above lo (e :: m) = true := by
  simp only [above, sorted, Bool.and_eq_true, decide_eq_true_eq] at h ⊢
  exact ⟨hl, h.1⟩

theorem above_put {m : SMap α} {lo n : Nat} {v : α} (h : above lo m = true) (hn : lo < n) : above lo (m.put n v) = true := by
  induction m generalizing lo with
  | nil => simp [put, above, hn]
  | cons e m ih =>
    obtain ⟨k, w⟩ := e
    simp only [above, Bool.and_eq_true, decide_eq_true_eq] at h
    simp only [put]
    split
    · simp only [above, Bool.and_eq_true, decide_eq_true_eq]; exact ⟨hn, by assumption, h.2⟩
    · split
      · subst_vars; simp only [above, Bool.and_eq_true, decide_eq_true_eq]; exact h
      · simp only [above, Bool.and_eq_true, decide_eq_true_eq]; exact ⟨h.1, ih h.2 (by omega)⟩

theorem above_del {m : SMap α} {lo n : Nat} (h : above lo m = true) : above lo (m.del n) = true := by
  induction m generalizing lo with
  | nil => rfl
  | cons e m ih =>
    obtain ⟨k, w⟩ := e
    simp only [above, Bool.and_eq_true, decide_eq_true_eq] at h
    simp only [del]
    split
    · exact above_mono h.2 (by omega)
    · simp only [above, Bool.and_eq_true, decide_eq_true_eq]; exact ⟨h.1, ih h.2⟩

theorem above_filter {m : SMap α} {lo : Nat} (q : Nat × α → Bool) (h : above lo m = true) : above lo (m.filter q) = true := by
  induction m generalizing lo with
  | nil => rfl
  | cons e m ih =>
    simp only [above, Bool.and_eq_true, decide_eq_true_eq] at h
    simp only [List.filter]
    split
    · simp only [above, Bool.and_eq_true, decide_eq_true_eq]; exact ⟨h.1, ih h.2⟩
    · exact above_mono (ih h.2) (by omega)

theorem sorted_put {m : SMap α} {n : Nat} {v : α} (h : sorted m = true) : sorted (m.put n v) = true := by
  cases m with
  | nil => rfl
  | cons e m =>
    obtain ⟨k, w⟩ := e
    simp only [put]
    split
    · simp only [sorted, above, Bool.and_eq_true, decide_eq_true_eq] at h ⊢; exact ⟨⟨by assumption, h.1⟩, h⟩
    · split
      · subst_vars; simpa only [sorted] using h
      · rename_i h1 h2
        simp only [sorted, Bool.and_eq_true] at h ⊢
        exact ⟨above_put h.1 (by omega), sorted_of_above (above_put h.1 (by omega))⟩

theorem sorted_del {m : SMap α} {n : Nat} (h : sorted m = true) : sorted (m.del n) = true := by
  cases m with
  | nil => rfl
  | cons e m =>
    obtain ⟨k, w⟩ := e
    simp only [sorted, Bool.and_eq_true] at h
    simp only [del]
    split
    · exact h.2
    · simp only [sorted, Bool.and_eq_true]; exact ⟨above_del h.1, sorted_of_above (above_del h.1)⟩

theorem sorted_filter {m : SMap α} (q : Nat × α → Bool) (h : sorted m = true) : sorted (m.filter q) = true := by
  induction m with
  | nil => rfl
  | cons e m ih =>
    simp only [sorted, Bool.and_eq_true] at h
    simp only [List.filter]
    split
    · simp only [sorted, Bool.and_eq_true]; exact ⟨above_filter q h.1, ih h.2⟩
    · exact ih h.2

theorem sorted_putC [DecidableEq α] {m : SMap α} {d : α} {n : Nat} {v : α} (h : sorted m = true) :
    sorted (m.putC d n v) = true := by
  unfold putC; split
  · exact sorted_del h
  · exact sorted_put h

/-- A table whose keys are mapped through is as sorted as before when the keys stay. -/
theorem above_map {m : SMap α} {lo : Nat} (f : Nat × α → Nat × α) (hf : ∀ e, (f e).1 = e.1) (h : above lo m = true) :
    above lo (m.map f) = true := by
  induction m generalizing lo with
  | nil => rfl
  | cons e m ih =>
    simp only [above, Bool.and_eq_true, decide_eq_true_eq, List.map] at h ⊢
    rw [hf]; exact ⟨h.1, ih h.2⟩

/-- A read after a write of the same key. -/
@[simp] theorem look_put_same {m : SMap α} {n : Nat} {v : α} : (m.put n v).look n = some v := by
  induction m with
  | nil => simp [put, look]
  | cons e m ih =>
    obtain ⟨k, w⟩ := e
    simp only [put]
    split
    · simp [look]
    · split
      · simp [look]
      · rename_i h1 h2; have : k ≠ n := fun h => h2 h.symm
        simp [look, this, ih]

/-- A read after a write of another key. -/
theorem look_put_other {m : SMap α} {n k : Nat} {v : α} (hk : k ≠ n) : (m.put n v).look k = m.look k := by
  induction m with
  | nil => simp [put, look, Ne.symm hk]
  | cons e m ih =>
    obtain ⟨j, w⟩ := e
    simp only [put]
    split
    · simp [look, Ne.symm hk]
    · split
      · subst_vars; simp [look, Ne.symm hk]
      · simp only [look]; split
        · rfl
        · exact ih

theorem look_del_other {m : SMap α} {n k : Nat} (hk : k ≠ n) : (m.del n).look k = m.look k := by
  induction m with
  | nil => rfl
  | cons e m ih =>
    obtain ⟨j, w⟩ := e
    simp only [del]
    split
    · subst_vars; simp [look, Ne.symm hk]
    · simp only [look]; split
      · rfl
      · exact ih

theorem look_del_same {m : SMap α} {n : Nat} (h : sorted m = true) : (m.del n).look n = none := by
  induction m with
  | nil => rfl
  | cons e m ih =>
    obtain ⟨j, w⟩ := e
    simp only [sorted, Bool.and_eq_true] at h
    simp only [del]
    split
    · subst_vars; exact look_above h.1 (Nat.le_refl _)
    · rename_i hn; have : j ≠ n := fun h => hn h.symm
      simp only [look, this, if_false]; exact ih h.2

/-- A canonical table reads what was written. -/
theorem lookD_putC_same [DecidableEq α] {m : SMap α} {d : α} {n : Nat} {v : α} (h : sorted m = true) :
    (m.putC d n v).lookD n d = v := by
  unfold putC lookD; split
  · subst_vars; simp [look_del_same h]
  · simp

/-- A write leaves every other key alone. -/
theorem lookD_putC_other [DecidableEq α] {m : SMap α} {d e : α} {n k : Nat} {v : α} (hk : k ≠ n) :
    (m.putC d n v).lookD k e = m.lookD k e := by
  unfold putC lookD; split
  · rw [look_del_other hk]
  · rw [look_put_other hk]

theorem mem_del {m : SMap α} {n : Nat} {e : Nat × α} (h : e ∈ m.del n) : e ∈ m := by
  induction m with
  | nil => simp [del] at h
  | cons x m ih =>
    simp only [del] at h
    split at h
    · exact List.mem_cons_of_mem _ h
    · rcases List.mem_cons.1 h with rfl | h
      · exact List.mem_cons_self
      · exact List.mem_cons_of_mem _ (ih h)

theorem mem_put {m : SMap α} {n : Nat} {v : α} {e : Nat × α} (h : e ∈ m.put n v) : e = (n, v) ∨ e ∈ m := by
  induction m with
  | nil => simp [put] at h; exact .inl h
  | cons x m ih =>
    simp only [put] at h
    split at h
    · rcases List.mem_cons.1 h with rfl | h
      · exact .inl rfl
      · exact .inr h
    · split at h
      · rcases List.mem_cons.1 h with rfl | h
        · exact .inl rfl
        · exact .inr (List.mem_cons_of_mem _ h)
      · rcases List.mem_cons.1 h with rfl | h
        · exact .inr List.mem_cons_self
        · rcases ih h with rfl | h
          · exact .inl rfl
          · exact .inr (List.mem_cons_of_mem _ h)

/-- Writing a canonical table leaves it canonical. -/
theorem canon_putC [DecidableEq α] {m : SMap α} {d v : α} {n : Nat} (h : canon d m = true) : canon d (m.putC d n v) = true := by
  simp only [canon, Bool.and_eq_true, List.all_eq_true, Bool.not_eq_true', decide_eq_false_iff_not] at h ⊢
  refine ⟨sorted_putC h.1, fun e he => ?_⟩
  unfold putC at he; split at he
  · exact h.2 e (mem_del he)
  · rcases mem_put he with rfl | he
    · assumption
    · exact h.2 e he

/-- Dropping entries leaves a table canonical. -/
theorem canon_filter [DecidableEq α] {m : SMap α} {d : α} (q : Nat × α → Bool) (h : canon d m = true) : canon d (m.filter q) = true := by
  simp only [canon, Bool.and_eq_true, List.all_eq_true, Bool.not_eq_true', decide_eq_false_iff_not] at h ⊢
  exact ⟨sorted_filter q h.1, fun e he => h.2 e (List.mem_filter.1 he).1⟩

end Sys2Proof.Machine.SMap

namespace Sys2Proof.Machine.Memory

/-- The bytes of an empty memory are blank. -/
@[simp] theorem byte_nil (a : Nat) : byte [] a = blank := rfl

theorem wf_nil : wf [] = true := rfl

/-- A byte write keeps the canonical form. -/
theorem wf_setByte {m : List Host.Cell} (a : Nat) (b : Byte) (h : wf m = true) : wf (setByte m a b) = true := SMap.canon_putC h

/-- A write of bytes keeps the canonical form. -/
theorem wf_setBytes {m : List Host.Cell} (bs : List Byte) : ∀ (a : Nat), wf m = true → wf (setBytes m a bs) = true := by
  induction bs generalizing m with
  | nil => exact fun _ h => h
  | cons b bs ih => exact fun a h => ih _ (wf_setByte a b h)

/-- A line write keeps the canonical form. -/
theorem wf_setLine {m : List Host.Cell} (a : Nat) (d : LineData) (h : wf m = true) : wf (setLine m a d) = true := wf_setBytes _ _ h

/-- Dropping bytes keeps the canonical form. -/
theorem wf_filter {m : List Host.Cell} (q : Host.Cell → Bool) (h : wf m = true) : wf (m.filter q) = true := SMap.canon_filter q h

/-- A byte reads what was written to it. -/
theorem byte_setByte_same {m : List Host.Cell} {a : Nat} {b : Byte} (h : wf m = true) : byte (setByte m a b) a = b :=
  SMap.lookD_putC_same (by simp only [wf, SMap.canon, Bool.and_eq_true] at h; exact h.1)

/-- A byte write leaves every other byte alone. -/
theorem byte_setByte_other {m : List Host.Cell} {a c : Nat} {b : Byte} (h : c ≠ a) : byte (setByte m a b) c = byte m c :=
  SMap.lookD_putC_other h

/-- A write of bytes leaves alone every byte outside its range. -/
theorem byte_setBytes_other (bs : List Byte) : ∀ (m : List Host.Cell) (a c : Nat), (c < a ∨ a + bs.length ≤ c) →
    byte (setBytes m a bs) c = byte m c := by
  induction bs with
  | nil => intros; rfl
  | cons b bs ih =>
    intro m a c h
    simp only [List.length_cons] at h
    rw [setBytes, ih _ _ _ (by omega), byte_setByte_other (by omega)]

end Sys2Proof.Machine.Memory
end

