-- ==== Sys2Proof/Laws/Keeps.lean ====
section
/-! SUPPORT. What every operation of the model keeps: the waiting commands, and the canonical form of the tables and of memory. -/

namespace Sys2Proof.Machine

/-- `t` has the waiting commands of `s`, and is canonical when `s` is. -/
def Keeps (s t : State) : Prop := t.pending = s.pending ∧ (s.wf = true → t.wf = true)

theorem Keeps.refl (s : State) : Keeps s s := ⟨rfl, id⟩

theorem Keeps.trans {s t u : State} (h : Keeps s t) (k : Keeps t u) : Keeps s u := ⟨k.1.trans h.1, fun w => k.2 (h.2 w)⟩

theorem State.wf_iff (s : State) :
    s.wf = true ↔ Memory.wf s.mem.cells = true ∧ SMap.sorted s.regs = true ∧ SMap.sorted s.stage = true := by
  simp [State.wf, Bool.and_eq_true, and_assoc]

theorem keeps_ite {s a b : State} {c : Prop} [Decidable c] (ha : Keeps s a) (hb : Keeps s b) : Keeps s (if c then a else b) := by
  split
  · exact ha
  · exact hb

/-- A state that differs only elsewhere. -/
theorem keeps_lit {s t : State} (h : Keeps s t) {free home txns keys outs deadTags ptu clu seqs xfr col ras tab fab link lane qos evt rot
    pwr pci fmtBuf crc} :
    Keeps s ⟨t.regs, t.stage, t.pending, free, t.mem, home, txns, keys, outs, deadTags, ptu, clu, seqs, xfr, col, ras, tab, fab, link,
      lane, qos, evt, rot, pwr, pci, fmtBuf, crc⟩ := h

theorem keeps_uMem {s t : State} {f : Mem → Mem} (h : Keeps s t) (hf : (f t.mem).cells = t.mem.cells) : Keeps s (t.uMem f) := by
  refine ⟨h.1, fun w => ?_⟩
  have := h.2 w
  rw [State.wf_iff] at this ⊢
  exact ⟨by simpa [State.uMem, hf] using this.1, this.2⟩

theorem keeps_setReg {s t : State} {r : Reg} {i : Nat} {v : BitVec 128} (h : Keeps s t) : Keeps s (t.setReg r i v) := by
  refine ⟨h.1, fun w => ?_⟩
  have := h.2 w
  rw [State.wf_iff] at this ⊢
  exact ⟨this.1, SMap.sorted_putC this.2.1, this.2.2⟩

theorem keeps_putStage {s t : State} {r : Reg} {i d : Nat} {p : Bool} {v : BitVec 128} (h : Keeps s t) :
    Keeps s (t.putStage r i d p v) := by
  refine ⟨h.1, fun w => ?_⟩
  have := h.2 w
  rw [State.wf_iff] at this ⊢
  exact ⟨this.1, this.2.1, SMap.sorted_putC this.2.2⟩

/-- A state with the memory of another that keeps the same. -/
theorem keeps_memOf {s t u : State} (h : Keeps s t) (k : Keeps s u) : Keeps s { t with mem := u.mem } := by
  refine ⟨h.1, fun w => ?_⟩
  have a := h.2 w
  have b := k.2 w
  rw [State.wf_iff] at a b ⊢
  exact ⟨b.1, a.2⟩

/-- An operation that may refuse, or what stands without it. -/
theorem keeps_getD {s t : State} {o : Option State} (h : ∀ u, o = some u → Keeps s u) (k : Keeps s t) : Keeps s (o.getD t) := by
  cases o with
  | none => exact k
  | some u => exact h u rfl

/-- A run over a list whose every step keeps what it starts from. -/
theorem keeps_foldl {α : Type} {s : State} {f : State → α → State} (hf : ∀ t a, Keeps s t → Keeps s (f t a)) :
    ∀ {t : State} {l : List α}, Keeps s t → Keeps s (l.foldl f t)
  | _, [], h => h
  | t, a :: l, h => keeps_foldl hf (t := f t a) (l := l) (hf t a h)

/-- The same for a run that carries an answer beside the state. -/
theorem keeps_foldl2 {α β : Type} {s : State} {f : β × State → α → β × State} (hf : ∀ t a, Keeps s t.2 → Keeps s (f t a).2) :
    ∀ {t : β × State} {l : List α}, Keeps s t.2 → Keeps s (l.foldl f t).2
  | _, [], h => h
  | t, a :: l, h => keeps_foldl2 hf (t := f t a) (l := l) (hf t a h)

theorem keeps_foldl22 {α β γ : Type} {s : State} {f : β × γ × State → α → β × γ × State}
    (hf : ∀ t a, Keeps s t.2.2 → Keeps s (f t a).2.2) :
    ∀ {t : β × γ × State} {l : List α}, Keeps s t.2.2 → Keeps s (l.foldl f t).2.2
  | _, [], h => h
  | t, a :: l, h => keeps_foldl22 hf (t := f t a) (l := l) (hf t a h)

/-- The state an operation answers beside its result. -/
theorem keeps_snd {α : Type} {s t : State} {x : α × State} {a : α} (e : x = (a, t)) (h : Keeps s x.2) : Keeps s t := by
  subst e; exact h

theorem keeps_snd2 {α β : Type} {s t : State} {x : α × β × State} {a : α} {b : β} (e : x = (a, b, t)) (h : Keeps s x.2.2) :
    Keeps s t := by
  subst e; exact h

theorem keeps_fst {α : Type} {s t : State} {x : State × α} {a : α} (e : x = (t, a)) (h : Keeps s x.1) : Keeps s t := by
  subst e; exact h

end Sys2Proof.Machine
end

