-- ==== Sys2Proof/Laws/KeepsHome.lean ====
section
/-! SUPPORT. Keeps (the waiting commands, the canonical tables) for the home agents: directory, memory, migration, transactions and extents. -/

namespace Sys2Proof.Machine.State

theorem keeps_wr {s₀ : State} {s : State} {f : Fld} {i : Nat} {v : Nat} (hk : Keeps s₀ s) : Keeps s₀ (wr (s := s) (f := f) (i := i) (v := v)) := by
  unfold wr
  try dsimp only
  repeat' first
    | (with_reducible assumption)
    | (with_reducible apply keeps_setReg)

theorem keeps_wrB {s₀ : State} {s : State} {f : Fld} {i : Nat} {b : Bool} (hk : Keeps s₀ s) : Keeps s₀ (wrB (s := s) (f := f) (i := i) (b := b)) := by
  unfold wrB
  try dsimp only
  repeat' first
    | (with_reducible assumption)
    | (with_reducible apply keeps_wr)

theorem keeps_bump {s₀ : State} {s : State} {f : Fld} {i : Nat} {n : Nat} (hk : Keeps s₀ s) : Keeps s₀ (bump (s := s) (f := f) (i := i) (n := n)) := by
  unfold bump
  try dsimp only
  repeat' first
    | (with_reducible assumption)
    | (with_reducible apply keeps_wr)

theorem keeps_draw {s₀ : State} {s : State} (hk : Keeps s₀ s) : Keeps s₀ (draw (s := s)) := by
  unfold draw
  try dsimp only
  repeat' first
    | (with_reducible assumption)
    | (fail_if_no_progress (with_reducible apply keeps_lit))

theorem keeps_uHome {s₀ : State} {s : State} {f : Home → Home} (hk : Keeps s₀ s) : Keeps s₀ (uHome (s := s) (f := f)) := by
  unfold uHome
  try dsimp only
  repeat' first
    | (with_reducible assumption)
    | (fail_if_no_progress (with_reducible apply keeps_lit))

theorem keeps_uFab {s₀ : State} {s : State} {f : Fab → Fab} (hk : Keeps s₀ s) : Keeps s₀ (uFab (s := s) (f := f)) := by
  unfold uFab
  try dsimp only
  repeat' first
    | (with_reducible assumption)
    | (fail_if_no_progress (with_reducible apply keeps_lit))

theorem keeps_uEvt {s₀ : State} {s : State} {f : Evt → Evt} (hk : Keeps s₀ s) : Keeps s₀ (uEvt (s := s) (f := f)) := by
  unfold uEvt
  try dsimp only
  repeat' first
    | (with_reducible assumption)
    | (fail_if_no_progress (with_reducible apply keeps_lit))

theorem keeps_dirty {s₀ : State} {s : State} {d : Nat} (hk : Keeps s₀ s) : Keeps s₀ (dirty (s := s) (d := d)) := by
  unfold dirty
  try dsimp only
  repeat' first
    | (with_reducible assumption)
    | (with_reducible apply keeps_wr)
    | (fail_if_no_progress (with_reducible apply keeps_lit))

theorem keeps_dirtyAll {s₀ : State} {s : State} (hk : Keeps s₀ s) : Keeps s₀ (dirtyAll (s := s)) := by
  unfold dirtyAll
  try dsimp only
  repeat' first
    | (with_reducible assumption)
    | (with_reducible apply keeps_dirty)

theorem keeps_evqMessage {s₀ : State} {s : State} {e : Nat} {fatal : Bool} (hk : Keeps s₀ s) : Keeps s₀ (evqMessage (s := s) (e := e) (fatal := fatal)) := by
  unfold evqMessage
  try dsimp only
  repeat' first
    | (with_reducible assumption)
    | (with_reducible apply keeps_uEvt)
    | (fail_if_no_progress (with_reducible apply keeps_lit))
    | (with_reducible apply keeps_ite)

theorem keeps_evqWrite {s₀ : State} {s : State} {e : Nat} {r : EvRec} (hk : Keeps s₀ s) : Keeps s₀ (evqWrite (s := s) (e := e) (r := r)) := by
  unfold evqWrite
  try dsimp only
  repeat' first
    | (with_reducible assumption)
    | (with_reducible apply keeps_wr)
    | (with_reducible apply keeps_bump)
    | (with_reducible apply keeps_uEvt)
    | (with_reducible apply keeps_evqMessage)
    | (fail_if_no_progress (with_reducible apply keeps_lit))
    | (with_reducible apply keeps_ite)

theorem keeps_evqDeliver {s₀ : State} {s : State} (hk : Keeps s₀ s) : Keeps s₀ (evqDeliver (s := s)) := by
  unfold evqDeliver
  try dsimp only
  repeat' first
    | (with_reducible assumption)
    | (with_reducible apply keeps_uEvt)
    | (with_reducible apply keeps_evqWrite)
    | (fail_if_no_progress (with_reducible apply keeps_lit))
    | (with_reducible apply keeps_foldl; intro _ _ _)
    | (with_reducible apply keeps_ite)

theorem keeps_raise {s₀ : State} {s : State} {r : EvRec} (hk : Keeps s₀ s) : Keeps s₀ (raise (s := s) (r := r)) := by
  unfold raise
  try dsimp only
  repeat' first
    | (with_reducible assumption)
    | (with_reducible apply keeps_draw)
    | (with_reducible apply keeps_uEvt)
    | (with_reducible apply keeps_evqWrite)
    | (with_reducible apply keeps_evqDeliver)
    | (fail_if_no_progress (with_reducible apply keeps_lit))
    | (with_reducible apply keeps_ite)
    | split

theorem keeps_refuseWrite {s₀ : State} {s : State} {p : Path} {off : Nat} (hk : Keeps s₀ s) : Keeps s₀ (refuseWrite (s := s) (p := p) (off := off)) := by
  unfold refuseWrite
  try dsimp only
  repeat' first
    | (with_reducible assumption)
    | (with_reducible apply keeps_raise)

theorem keeps_inflightAdd {s₀ : State} {s : State} {d : Nat} {bank : Bool} (hk : Keeps s₀ s) : Keeps s₀ (inflightAdd (s := s) (d := d) (bank := bank)) := by
  unfold inflightAdd
  try dsimp only
  repeat' first
    | (with_reducible assumption)
    | (with_reducible apply keeps_wr)

theorem keeps_inflightSub {s₀ : State} {s : State} {d : Nat} {bank : Bool} (hk : Keeps s₀ s) : Keeps s₀ (inflightSub (s := s) (d := d) (bank := bank)) := by
  unfold inflightSub
  try dsimp only
  repeat' first
    | (with_reducible assumption)
    | (with_reducible apply keeps_wr)

theorem keeps_reach {s₀ : State} {s : State} {d : Nat} {n : Option Nat} {p : Packet} (hk : Keeps s₀ s) : Keeps s₀ (reach (s := s) (d := d) (n := n) (p := p)) := by
  unfold reach
  try dsimp only
  repeat' first
    | (with_reducible assumption)
    | (with_reducible apply keeps_uFab)

theorem keeps_send {s₀ : State} {s : State} {d : Nat} {p : Packet} (hk : Keeps s₀ s) : Keeps s₀ (send (s := s) (d := d) (p := p)) := by
  unfold send
  try dsimp only
  repeat' first
    | (with_reducible assumption)
    | (with_reducible apply keeps_uFab)
    | (with_reducible apply keeps_inflightAdd)
    | (with_reducible apply keeps_reach)
    | (fail_if_no_progress (with_reducible apply keeps_lit))
    | (with_reducible apply keeps_ite)

theorem keeps_taken {s₀ : State} {s : State} {p : Packet} (hk : Keeps s₀ s) : Keeps s₀ (taken (s := s) (p := p)) := by
  unfold taken
  try dsimp only
  repeat' first
    | (with_reducible assumption)
    | (with_reducible apply keeps_uFab)

theorem keeps_respond {s₀ : State} {s : State} {d : Nat} {loc : Nat} {q : Packet} {op : Nat} {status : Nat} {detail : Nat} {payload : Option (LineData × Bool)} (hk : Keeps s₀ s) : Keeps s₀ (respond (s := s) (d := d) (loc := loc) (q := q) (op := op) (status := status) (detail := detail) (payload := payload)) := by
  unfold respond
  try dsimp only
  repeat' first
    | (with_reducible assumption)
    | (with_reducible apply keeps_send)

theorem keeps_uRas {s₀ : State} {s : State} {f : Ras → Ras} (hk : Keeps s₀ s) : Keeps s₀ (uRas (s := s) (f := f)) := by
  unfold uRas
  try dsimp only
  repeat' first
    | (with_reducible assumption)
    | (fail_if_no_progress (with_reducible apply keeps_lit))

theorem keeps_refreshHist {s₀ : State} {s : State} {n : Nat} (hk : Keeps s₀ s) : Keeps s₀ (refreshHist (s := s) (n := n)) := by
  unfold refreshHist
  try dsimp only
  repeat' first
    | (with_reducible assumption)
    | (with_reducible apply keeps_wr)

theorem keeps_retire {s₀ : State} {s : State} {cause : Nat} {inst : Nat} {cls : Nat} (hk : Keeps s₀ s) : Keeps s₀ (retire (s := s) (cause := cause) (inst := inst) (cls := cls)) := by
  unfold retire
  try dsimp only
  repeat' first
    | (with_reducible assumption)
    | (with_reducible apply keeps_wr)
    | (with_reducible apply keeps_raise)
    | (with_reducible apply keeps_uRas)
    | (fail_if_no_progress (with_reducible apply keeps_lit))
    | (with_reducible apply keeps_ite)

theorem keeps_setVcore {s₀ : State} {s : State} {d : Nat} (hk : Keeps s₀ s) : Keeps s₀ (setVcore (s := s) (d := d)) := by
  unfold setVcore
  try dsimp only
  repeat' first
    | (with_reducible assumption)
    | (fail_if_no_progress (with_reducible apply keeps_lit))

theorem keeps_fence {s₀ : State} {s : State} {n : Nat} {cls : Nat} (hk : Keeps s₀ s) : Keeps s₀ (fence (s := s) (n := n) (cls := cls)) := by
  unfold fence
  try dsimp only
  repeat' first
    | (with_reducible assumption)
    | (with_reducible apply keeps_wr)
    | (with_reducible apply keeps_uRas)
    | (with_reducible apply keeps_retire)
    | (with_reducible apply keeps_setVcore)
    | (fail_if_no_progress (with_reducible apply keeps_lit))
    | (with_reducible apply keeps_ite)

theorem keeps_histAct {s₀ : State} {s : State} {cls : Nat} {inst : Nat} {action : Nat} (hk : Keeps s₀ s) : Keeps s₀ (histAct (s := s) (cls := cls) (inst := inst) (action := action)) := by
  unfold histAct
  try dsimp only
  repeat' first
    | (with_reducible assumption)
    | (with_reducible apply keeps_uRas)
    | (with_reducible apply keeps_retire)
    | (with_reducible apply keeps_fence)
    | (fail_if_no_progress (with_reducible apply keeps_lit))
    | (with_reducible apply keeps_ite)
    | split

theorem keeps_histAdd {s₀ : State} {s : State} {cls : Nat} {inst : Nat} {kind : Nat} {w : Nat} {repeated : Bool} (hk : Keeps s₀ s) : Keeps s₀ (histAdd (s := s) (cls := cls) (inst := inst) (kind := kind) (w := w) (repeated := repeated)) := by
  unfold histAdd
  try dsimp only
  repeat' first
    | (with_reducible assumption)
    | (with_reducible apply keeps_uRas)
    | (with_reducible apply keeps_refreshHist)
    | (with_reducible apply keeps_histAct)
    | (fail_if_no_progress (with_reducible apply keeps_lit))
    | (with_reducible apply keeps_ite)
    | split

theorem keeps_histHalve {s₀ : State} {s : State} (hk : Keeps s₀ s) : Keeps s₀ (histHalve (s := s)) := by
  unfold histHalve
  try dsimp only
  repeat' first
    | (with_reducible assumption)
    | (with_reducible apply keeps_uRas)
    | (with_reducible apply keeps_refreshHist)
    | (fail_if_no_progress (with_reducible apply keeps_lit))
    | (with_reducible apply keeps_foldl; intro _ _ _)
    | (with_reducible apply keeps_ite)

theorem keeps_uCtl {s₀ : State} {s : State} {u : Nat} {f : Ctl → Ctl} (hk : Keeps s₀ s) : Keeps s₀ (uCtl (s := s) (u := u) (f := f)) := by
  unfold uCtl
  try dsimp only
  repeat' first
    | (with_reducible assumption)
    | (fail_if_no_progress (with_reducible apply keeps_lit))
    | (with_reducible apply keeps_uMem)
    | (exact (rfl : (_ : List Host.Cell) = _))

/-- dramStore keeps. -/
theorem keeps_dramStore {s₀ : State} {s : State} {u : Nat} {w : CtlWrite} (hk : Keeps s₀ s) : Keeps s₀ (s.dramStore u w) := by
  refine ⟨hk.1, fun h => ?_⟩
  have := hk.2 h
  rw [wf_iff] at this ⊢
  exact ⟨Memory.wf_setLine _ _ this.1, this.2⟩

theorem keeps_keepReads {s₀ : State} {s : State} {p : Nat × Nat} (hk : Keeps s₀ s) : Keeps s₀ (keepReads (s := s) (p := p)) := by
  unfold keepReads
  try dsimp only
  repeat' first
    | (with_reducible assumption)
    | (with_reducible apply keeps_uCtl)

theorem keeps_unitWrite {s₀ : State} {s : State} {p : Nat × Nat} {data : LineData} {md : LineMeta} (hk : Keeps s₀ s) : Keeps s₀ (unitWrite (s := s) (p := p) (data := data) (md := md)) := by
  unfold unitWrite
  try dsimp only
  repeat' first
    | (with_reducible assumption)
    | (with_reducible apply keeps_uCtl)
    | (with_reducible apply keeps_keepReads)
    | (fail_if_no_progress (with_reducible apply keeps_lit))
    | (with_reducible apply keeps_ite)

theorem keeps_storeAt {s₀ : State} {s : State} {p : Nat × Nat} {data : LineData} {md : LineMeta} (hk : Keeps s₀ s) : Keeps s₀ (storeAt (s := s) (p := p) (data := data) (md := md)) := by
  unfold storeAt
  try dsimp only
  repeat' first
    | (with_reducible assumption)
    | (with_reducible apply keeps_unitWrite)
    | (fail_if_no_progress (with_reducible apply keeps_lit))
    | (with_reducible apply keeps_uMem)
    | (exact (rfl : (_ : List Host.Cell) = _))
    | split

theorem keeps_lineStore {s₀ : State} {s : State} {k : Nat} {data : LineData} {md : LineMeta} (hk : Keeps s₀ s) : Keeps s₀ (lineStore (s := s) (k := k) (data := data) (md := md)) := by
  unfold lineStore
  try dsimp only
  repeat' first
    | (with_reducible assumption)
    | (with_reducible apply keeps_storeAt)

theorem keeps_unitAsk {s₀ : State} {s : State} {u : Nat} {a : Nat} {kind : CtlKind} (hk : Keeps s₀ s) : Keeps s₀ (unitAsk (s := s) (u := u) (a := a) (kind := kind)) := by
  unfold unitAsk
  try dsimp only
  repeat' first
    | (with_reducible assumption)
    | (with_reducible apply keeps_uCtl)

theorem keeps_want {s₀ : State} {s : State} {k : Nat} (hk : Keeps s₀ s) : Keeps s₀ (want (s := s) (k := k)) := by
  unfold want
  try dsimp only
  repeat' first
    | (with_reducible assumption)
    | (with_reducible apply keeps_unitAsk)
    | (with_reducible apply keeps_ite)

theorem keeps_unitUncorr {s₀ : State} {s : State} {p : Nat × Nat} (hk : Keeps s₀ s) : Keeps s₀ (unitUncorr (s := s) (p := p)) := by
  unfold unitUncorr
  try dsimp only
  repeat' first
    | (with_reducible assumption)
    | (with_reducible apply keeps_bump)
    | (with_reducible apply keeps_raise)
    | (with_reducible apply keeps_histAdd)
    | (fail_if_no_progress (with_reducible apply keeps_lit))
    | (with_reducible apply keeps_ite)

theorem keeps_unitCorrected {s₀ : State} {s : State} {u : Nat} (hk : Keeps s₀ s) : Keeps s₀ (unitCorrected (s := s) (u := u)) := by
  unfold unitCorrected
  try dsimp only
  repeat' first
    | (with_reducible assumption)
    | (with_reducible apply keeps_bump)
    | (with_reducible apply keeps_uCtl)
    | (fail_if_no_progress (with_reducible apply keeps_lit))
    | (with_reducible apply keeps_ite)

theorem keeps_unitCheck {s₀ : State} {s : State} {p : Nat × Nat} {data : LineData} {md : LineMeta} {u : Upset} (hk : Keeps s₀ s) : Keeps s₀ (unitCheck (s := s) (p := p) (data := data) (md := md) (u := u)).2.2 := by
  unfold unitCheck
  try dsimp only
  repeat' first
    | (with_reducible assumption)
    | (with_reducible apply keeps_storeAt)
    | (with_reducible apply keeps_unitUncorr)
    | (with_reducible apply keeps_unitCorrected)
    | (with_reducible apply keeps_apply)
    | (fail_if_no_progress (with_reducible apply keeps_lit))
    | split

theorem keeps_mscPut {s₀ : State} {s : State} {w : Nat} {l : MscLine} (hk : Keeps s₀ s) : Keeps s₀ (mscPut (s := s) (w := w) (l := l)) := by
  unfold mscPut
  try dsimp only
  repeat' first
    | (with_reducible assumption)
    | (fail_if_no_progress (with_reducible apply keeps_lit))
    | (with_reducible apply keeps_uMem)
    | (exact (rfl : (_ : List Host.Cell) = _))

theorem keeps_mscDrop {s₀ : State} {s : State} {w : Nat} (hk : Keeps s₀ s) : Keeps s₀ (mscDrop (s := s) (w := w)) := by
  unfold mscDrop
  try dsimp only
  repeat' first
    | (with_reducible assumption)
    | (fail_if_no_progress (with_reducible apply keeps_lit))
    | (with_reducible apply keeps_uMem)
    | (exact (rfl : (_ : List Host.Cell) = _))

theorem keeps_mscFill {s₀ : State} {s : State} {l : MscLine} (hk : Keeps s₀ s) : Keeps s₀ (mscFill (s := s) (l := l)) := by
  unfold mscFill
  try dsimp only
  repeat' first
    | (with_reducible assumption)
    | (with_reducible apply keeps_dirty)
    | (with_reducible apply keeps_lineStore)
    | (with_reducible apply keeps_mscPut)
    | (fail_if_no_progress (with_reducible apply keeps_lit))
    | (with_reducible apply keeps_foldl; intro _ _ _)
    | (with_reducible apply keeps_uMem)
    | (exact (rfl : (_ : List Host.Cell) = _))
    | (with_reducible apply keeps_ite)
    | split

theorem keeps_cacheHalt {s₀ : State} {s : State} {d : Nat} (hk : Keeps s₀ s) : Keeps s₀ (cacheHalt (s := s) (d := d)) := by
  unfold cacheHalt
  try dsimp only
  repeat' first
    | (with_reducible assumption)
    | (with_reducible apply keeps_uHome)
    | (with_reducible apply keeps_raise)
    | (with_reducible apply keeps_histAdd)

theorem keeps_keyCheck {s₀ : State} {s : State} {k : Nat} {md : LineMeta} (hk : Keeps s₀ s) : Keeps s₀ (keyCheck (s := s) (k := k) (md := md)).2 := by
  unfold keyCheck
  try dsimp only
  repeat' first
    | (with_reducible assumption)
    | (with_reducible apply keeps_raise)
    | (fail_if_no_progress (with_reducible apply keeps_lit))
    | (with_reducible apply keeps_ite)
    | split

theorem keeps_setRef {s₀ : State} {s : State} {k : Nat} (hk : Keeps s₀ s) : Keeps s₀ (setRef (s := s) (k := k)) := by
  unfold setRef
  try dsimp only
  repeat' first
    | (with_reducible assumption)
    | (fail_if_no_progress (with_reducible apply keeps_lit))
    | (with_reducible apply keeps_uMem)
    | (exact (rfl : (_ : List Host.Cell) = _))
    | split

theorem keeps_readLine {s₀ : State} {s : State} {k : Nat} {alloc : Bool} {u : Upset} (hk : Keeps s₀ s) : Keeps s₀ (readLine (s := s) (k := k) (alloc := alloc) (u := u)).2 := by
  unfold readLine
  try dsimp only
  repeat' first
    | (with_reducible assumption)
    | (with_reducible apply keeps_want)
    | (with_reducible apply keeps_mscPut)
    | (with_reducible apply keeps_mscDrop)
    | (with_reducible apply keeps_mscFill)
    | (with_reducible apply keeps_cacheHalt)
    | (with_reducible apply keeps_keyCheck)
    | (with_reducible apply keeps_setRef)
    | (with_reducible apply keeps_arrived)
    | (fail_if_no_progress (with_reducible apply keeps_lit))
    | (with_reducible apply keeps_uMem)
    | (exact (rfl : (_ : List Host.Cell) = _))
    | (with_reducible apply keeps_ite)
    | split

theorem keeps_writeLine {s₀ : State} {s : State} {k : Nat} {alloc : Bool} {data : LineData} {poison : Bool} {hint : Bool} {fresh : Bool} (hk : Keeps s₀ s) : Keeps s₀ (writeLine (s := s) (k := k) (alloc := alloc) (data := data) (poison := poison) (hint := hint) (fresh := fresh)) := by
  unfold writeLine
  try dsimp only
  repeat' first
    | (with_reducible assumption)
    | (with_reducible apply keeps_lineStore)
    | (with_reducible apply keeps_mscPut)
    | (with_reducible apply keeps_mscFill)
    | (with_reducible apply keeps_setRef)
    | (with_reducible apply keeps_arrived)
    | (fail_if_no_progress (with_reducible apply keeps_lit))
    | (with_reducible apply keeps_uMem)
    | (exact (rfl : (_ : List Host.Cell) = _))
    | (with_reducible apply keeps_ite)
    | split

theorem keeps_poisonLine {s₀ : State} {s : State} {k : Nat} (hk : Keeps s₀ s) : Keeps s₀ (poisonLine (s := s) (k := k)) := by
  unfold poisonLine
  try dsimp only
  repeat' first
    | (with_reducible assumption)
    | (with_reducible apply keeps_dirty)
    | (with_reducible apply keeps_lineStore)
    | (with_reducible apply keeps_mscPut)
    | (with_reducible apply keeps_arrived)
    | (fail_if_no_progress (with_reducible apply keeps_lit))
    | (with_reducible apply keeps_uMem)
    | (exact (rfl : (_ : List Host.Cell) = _))
    | split

theorem keeps_touch {s₀ : State} {s : State} {k : Nat} {w : Nat} (hk : Keeps s₀ s) : Keeps s₀ (touch (s := s) (k := k) (w := w)) := by
  unfold touch
  try dsimp only
  repeat' first
    | (with_reducible assumption)
    | (with_reducible apply keeps_uHome)

theorem keeps_lookedUp {s₀ : State} {s : State} {k : Nat} (hk : Keeps s₀ s) : Keeps s₀ (lookedUp (s := s) (k := k)) := by
  unfold lookedUp
  try dsimp only
  repeat' first
    | (with_reducible assumption)
    | (with_reducible apply keeps_touch)
    | split

theorem keeps_putEntry {s₀ : State} {s : State} {way : Nat} {e : DirEntry} (hk : Keeps s₀ s) : Keeps s₀ (putEntry (s := s) (way := way) (e := e)) := by
  unfold putEntry
  try dsimp only
  repeat' first
    | (with_reducible assumption)
    | (with_reducible apply keeps_uHome)

theorem keeps_updEntry {s₀ : State} {s : State} {k : Nat} {f : DirEntry → DirEntry} (hk : Keeps s₀ s) : Keeps s₀ (updEntry (s := s) (k := k) (f := f)) := by
  unfold updEntry
  try dsimp only
  repeat' first
    | (with_reducible assumption)
    | (with_reducible apply keeps_putEntry)
    | split

theorem keeps_wakeLine {s₀ : State} {s : State} {k : Nat} (hk : Keeps s₀ s) : Keeps s₀ (wakeLine (s := s) (k := k)) := by
  unfold wakeLine
  try dsimp only
  repeat' first
    | (with_reducible assumption)
    | (with_reducible apply keeps_uHome)

theorem keeps_setQueue {s₀ : State} {s : State} {k : Nat} {q : List QItem} (hk : Keeps s₀ s) : Keeps s₀ (setQueue (s := s) (k := k) (q := q)) := by
  unfold setQueue
  try dsimp only
  repeat' first
    | (with_reducible assumption)
    | (with_reducible apply keeps_uHome)

theorem keeps_updReq {s₀ : State} {s : State} {d : Nat} {i : Nat} {f : Req → Req} (hk : Keeps s₀ s) : Keeps s₀ (updReq (s := s) (d := d) (i := i) (f := f)) := by
  unfold updReq
  try dsimp only
  repeat' first
    | (with_reducible assumption)
    | (with_reducible apply keeps_uHome)

theorem keeps_flightAdd {s₀ : State} {s : State} {p : Nat} (hk : Keeps s₀ s) : Keeps s₀ (flightAdd (s := s) (p := p)) := by
  unfold flightAdd
  try dsimp only
  repeat' first
    | (with_reducible assumption)
    | (with_reducible apply keeps_wr)

theorem keeps_flightSub {s₀ : State} {s : State} {p : Nat} (hk : Keeps s₀ s) : Keeps s₀ (flightSub (s := s) (p := p)) := by
  unfold flightSub
  try dsimp only
  repeat' first
    | (with_reducible assumption)
    | (with_reducible apply keeps_wr)

theorem keeps_takeEntry {s₀ : State} {s : State} {key : Nat} {r : Req} (hk : Keeps s₀ s) : Keeps s₀ (takeEntry (s := s) (key := key) (r := r)) := by
  unfold takeEntry
  try dsimp only
  repeat' first
    | (with_reducible assumption)
    | (with_reducible apply keeps_wr)
    | (with_reducible apply keeps_uHome)
    | (with_reducible apply keeps_wakeLine)
    | (with_reducible apply keeps_setQueue)
    | (with_reducible apply keeps_flightAdd)

theorem keeps_unitEnter {s₀ : State} {s : State} {k : Nat} {e : Nat} {x : Extent} {q : Packet} (hk : Keeps s₀ s) : ∀ t, unitEnter (s := s) (k := k) (e := e) (x := x) (q := q) = some t → Keeps s₀ t := by
  unfold unitEnter
  try dsimp only
  repeat' first
    | (with_reducible assumption)
    | (with_reducible apply keeps_takeEntry)
    | (fail_if_no_progress (with_reducible apply keeps_lit))
    | (with_reducible simp only [Option.map_eq_some_iff] at *)
    | (obtain ⟨_, _, rfl⟩ := ‹∃ _, _›)
    | (intro t ht)

theorem keeps_repost {s₀ : State} {s : State} {d : Nat} (hk : Keeps s₀ s) : Keeps s₀ (repost (s := s) (d := d)) := by
  unfold repost
  try dsimp only
  repeat' first
    | (with_reducible assumption)
    | (with_reducible apply keeps_uHome)
    | (with_reducible refine keeps_unitEnter ?_ _ (by assumption))
    | (fail_if_no_progress (with_reducible apply keeps_lit))
    | split

theorem keeps_finishReq {s₀ : State} {s : State} {d : Nat} {i : Nat} (hk : Keeps s₀ s) : Keeps s₀ (finishReq (s := s) (d := d) (i := i)) := by
  unfold finishReq
  try dsimp only
  repeat' first
    | (with_reducible assumption)
    | (with_reducible apply keeps_wr)
    | (with_reducible apply keeps_uHome)
    | (with_reducible apply keeps_wakeLine)
    | (with_reducible apply keeps_setQueue)
    | (with_reducible apply keeps_flightSub)
    | (with_reducible apply keeps_repost)
    | (with_reducible apply keeps_arrived)
    | (fail_if_no_progress (with_reducible apply keeps_lit))
    | (with_reducible apply keeps_uMem)
    | (exact (rfl : (_ : List Host.Cell) = _))
    | split

theorem keeps_answer {s₀ : State} {s : State} {d : Nat} {q : Packet} {op : Nat} {status : Nat} {detail : Nat} {payload : Option (LineData × Bool)} (hk : Keeps s₀ s) : Keeps s₀ (answer (s := s) (d := d) (q := q) (op := op) (status := status) (detail := detail) (payload := payload)) := by
  unfold answer
  try dsimp only
  repeat' first
    | (with_reducible assumption)
    | (with_reducible apply keeps_respond)
    | (with_reducible apply keeps_ite)

theorem keeps_failReq {s₀ : State} {s : State} {d : Nat} {i : Nat} {status : Nat} {detail : Nat} (hk : Keeps s₀ s) : Keeps s₀ (failReq (s := s) (d := d) (i := i) (status := status) (detail := detail)) := by
  unfold failReq
  try dsimp only
  repeat' first
    | (with_reducible assumption)
    | (with_reducible apply keeps_finishReq)
    | (with_reducible apply keeps_answer)
    | split

theorem keeps_sendFwd {s₀ : State} {s : State} {k : Nat} {o : Nat} {op : Nat} {idx : Nat} {q : Option Packet} (hk : Keeps s₀ s) : Keeps s₀ (sendFwd (s := s) (k := k) (o := o) (op := op) (idx := idx) (q := q)) := by
  unfold sendFwd
  try dsimp only
  repeat' first
    | (with_reducible assumption)
    | (with_reducible apply keeps_send)

theorem keeps_sendInvs {s₀ : State} {s : State} {k : Nat} {m : Mask} {idx : Nat} {q : Option Packet} (hk : Keeps s₀ s) : Keeps s₀ (sendInvs (s := s) (k := k) (m := m) (idx := idx) (q := q)) := by
  unfold sendInvs
  try dsimp only
  repeat' first
    | (with_reducible assumption)
    | (with_reducible apply keeps_sendFwd)
    | (with_reducible apply keeps_foldl; intro _ _ _)

theorem keeps_settleSwept {s₀ : State} {s : State} {k : Nat} (hk : Keeps s₀ s) : Keeps s₀ (settleSwept (s := s) (k := k)) := by
  unfold settleSwept
  try dsimp only
  repeat' first
    | (with_reducible assumption)
    | (with_reducible apply keeps_poisonLine)
    | (with_reducible apply keeps_putEntry)
    | (fail_if_no_progress (with_reducible apply keeps_lit))
    | (with_reducible apply keeps_ite)
    | split

theorem keeps_startRecall {s₀ : State} {s : State} {k : Nat} {why : RclFor} (hk : Keeps s₀ s) : Keeps s₀ (startRecall (s := s) (k := k) (why := why)).1 := by
  unfold startRecall
  try dsimp only
  repeat' first
    | (with_reducible assumption)
    | (with_reducible apply keeps_uHome)
    | (with_reducible apply keeps_putEntry)
    | (with_reducible apply keeps_sendFwd)
    | (with_reducible apply keeps_sendInvs)
    | (fail_if_no_progress (with_reducible apply keeps_lit))
    | (with_reducible apply keeps_ite)
    | split

theorem keeps_setHint {s₀ : State} {s : State} {k : Nat} {v : Bool} (hk : Keeps s₀ s) : Keeps s₀ (setHint (s := s) (k := k) (v := v)) := by
  unfold setHint
  try dsimp only
  repeat' first
    | (with_reducible assumption)
    | (with_reducible apply keeps_dirty)
    | (with_reducible apply keeps_mscPut)
    | (fail_if_no_progress (with_reducible apply keeps_lit))
    | (with_reducible apply keeps_ite)
    | split

theorem keeps_recallVictim {s₀ : State} {s : State} {k : Nat} {v : Nat} (hk : Keeps s₀ s) : Keeps s₀ (recallVictim (s := s) (k := k) (v := v)) := by
  unfold recallVictim
  try dsimp only
  repeat' first
    | (with_reducible assumption)
    | (with_reducible apply keeps_startRecall)
    | (with_reducible apply keeps_setHint)
    | (with_reducible apply keeps_ite)
    | split
    | (with_reducible refine keeps_snd (by assumption) ?_)
    | (with_reducible refine keeps_snd2 (by assumption) ?_)
    | (with_reducible refine keeps_fst (by assumption) ?_)

theorem keeps_allocEntry {s₀ : State} {s : State} {k : Nat} (hk : Keeps s₀ s) : Keeps s₀ (allocEntry (s := s) (k := k)).1 := by
  unfold allocEntry
  try dsimp only
  repeat' first
    | (with_reducible assumption)
    | (with_reducible apply keeps_uHome)
    | (with_reducible apply keeps_touch)
    | (with_reducible apply keeps_settleSwept)
    | (with_reducible apply keeps_recallVictim)
    | (fail_if_no_progress (with_reducible apply keeps_lit))
    | (with_reducible apply keeps_ite)
    | split

theorem keeps_setTxn {s₀ : State} {s : State} {k : Nat} {t : Txn} (hk : Keeps s₀ s) : Keeps s₀ (setTxn (s := s) (k := k) (t := t)) := by
  unfold setTxn
  try dsimp only
  repeat' first
    | (with_reducible assumption)
    | (fail_if_no_progress (with_reducible apply keeps_lit))

theorem keeps_updTxn {s₀ : State} {s : State} {k : Nat} {f : Txn → Txn} (hk : Keeps s₀ s) : Keeps s₀ (updTxn (s := s) (k := k) (f := f)) := by
  unfold updTxn
  try dsimp only
  repeat' first
    | (with_reducible assumption)
    | (with_reducible apply keeps_setTxn)

theorem keeps_txnRefresh {s₀ : State} {s : State} (hk : Keeps s₀ s) : Keeps s₀ (txnRefresh (s := s)) := by
  unfold txnRefresh
  try dsimp only
  repeat' first
    | (with_reducible assumption)
    | (with_reducible apply keeps_wr)
    | (with_reducible apply keeps_foldl; intro _ _ _)

theorem keeps_releaseLine {s₀ : State} {s : State} {l : TxnLine} (hk : Keeps s₀ s) : Keeps s₀ (releaseLine (s := s) (l := l)) := by
  unfold releaseLine
  try dsimp only
  repeat' first
    | (with_reducible assumption)
    | (with_reducible apply keeps_updEntry)
    | (with_reducible apply keeps_wakeLine)

theorem keeps_dropLocks {s₀ : State} {s : State} {k : Nat} (hk : Keeps s₀ s) : Keeps s₀ (dropLocks (s := s) (k := k)) := by
  unfold dropLocks
  try dsimp only
  repeat' first
    | (with_reducible assumption)
    | (with_reducible apply keeps_uHome)

theorem keeps_freeTxn {s₀ : State} {s : State} {k : Nat} (hk : Keeps s₀ s) : Keeps s₀ (freeTxn (s := s) (k := k)) := by
  unfold freeTxn
  try dsimp only
  repeat' first
    | (with_reducible assumption)
    | (with_reducible apply keeps_setTxn)
    | (with_reducible apply keeps_txnRefresh)

theorem keeps_abortTxn {s₀ : State} {s : State} {k : Nat} {cause : Nat} {notice : Bool} (hk : Keeps s₀ s) : Keeps s₀ (abortTxn (s := s) (k := k) (cause := cause) (notice := notice)) := by
  unfold abortTxn
  try dsimp only
  repeat' first
    | (with_reducible assumption)
    | (with_reducible apply keeps_bump)
    | (with_reducible apply keeps_send)
    | (with_reducible apply keeps_answer)
    | (with_reducible apply keeps_setTxn)
    | (with_reducible apply keeps_txnRefresh)
    | (with_reducible apply keeps_releaseLine)
    | (with_reducible apply keeps_dropLocks)
    | (with_reducible apply keeps_txAbort)
    | (with_reducible apply keeps_txNotice)
    | (fail_if_no_progress (with_reducible apply keeps_lit))
    | (with_reducible apply keeps_foldl; intro _ _ _)
    | (with_reducible apply keeps_ite)
    | split

theorem keeps_abortWhere {s₀ : State} {s : State} {cause : Nat} {notice : Bool} {pred : Nat → Txn → Bool} (hk : Keeps s₀ s) : Keeps s₀ (abortWhere (s := s) (cause := cause) (notice := notice) (pred := pred)) := by
  unfold abortWhere
  try dsimp only
  repeat' first
    | (with_reducible assumption)
    | (with_reducible apply keeps_abortTxn)
    | (with_reducible apply keeps_foldl; intro _ _ _)

theorem keeps_reportWrite {s₀ : State} {s : State} {k : Nat} (hk : Keeps s₀ s) : Keeps s₀ (reportWrite (s := s) (k := k)) := by
  unfold reportWrite
  try dsimp only
  repeat' first
    | (with_reducible assumption)
    | (with_reducible apply keeps_abortWhere)
    | (with_reducible apply keeps_ite)

theorem keeps_reportPoison {s₀ : State} {s : State} {k : Nat} (hk : Keeps s₀ s) : Keeps s₀ (reportPoison (s := s) (k := k)) := by
  unfold reportPoison
  try dsimp only
  repeat' first
    | (with_reducible assumption)
    | (with_reducible apply keeps_abortWhere)

theorem keeps_freeLineAt {s₀ : State} {s : State} {k : Nat} (hk : Keeps s₀ s) : Keeps s₀ (freeLineAt (s := s) (k := k)) := by
  unfold freeLineAt
  try dsimp only
  repeat' first
    | (with_reducible assumption)
    | (with_reducible apply keeps_draw)
    | (with_reducible apply keeps_writeLine)

theorem keeps_stopHome {s₀ : State} {s : State} {d : Nat} (hk : Keeps s₀ s) : Keeps s₀ (stopHome (s := s) (d := d)) := by
  unfold stopHome
  try dsimp only
  repeat' first
    | (with_reducible assumption)
    | (with_reducible apply keeps_failReq)
    | (with_reducible apply keeps_updTxn)
    | (with_reducible apply keeps_freeLineAt)
    | (fail_if_no_progress (with_reducible apply keeps_lit))
    | (with_reducible apply keeps_foldl; intro _ _ _)

theorem keeps_dirHalt {s₀ : State} {s : State} {d : Nat} (hk : Keeps s₀ s) : Keeps s₀ (dirHalt (s := s) (d := d)) := by
  unfold dirHalt
  try dsimp only
  repeat' first
    | (with_reducible assumption)
    | (with_reducible apply keeps_wr)
    | (with_reducible apply keeps_bump)
    | (with_reducible apply keeps_uHome)
    | (with_reducible apply keeps_raise)
    | (with_reducible apply keeps_histAdd)
    | (with_reducible apply keeps_stopHome)

theorem keeps_dirCorrected {s₀ : State} {s : State} {d : Nat} (hk : Keeps s₀ s) : Keeps s₀ (dirCorrected (s := s) (d := d)) := by
  unfold dirCorrected
  try dsimp only
  repeat' first
    | (with_reducible assumption)
    | (with_reducible apply keeps_bump)

theorem keeps_demandRead {s₀ : State} {s : State} {k : Nat} {u : Upset} {stream : Bool} (hk : Keeps s₀ s) : Keeps s₀ (demandRead (s := s) (k := k) (u := u) (stream := stream)).2 := by
  unfold demandRead
  try dsimp only
  repeat' first
    | (with_reducible assumption)
    | (with_reducible apply keeps_readLine)
    | (with_reducible apply keeps_reportPoison)
    | (with_reducible apply keeps_stopHome)
    | (with_reducible apply keeps_ite)
    | split
    | (with_reducible refine keeps_snd (by assumption) ?_)

theorem keeps_grant {s₀ : State} {s : State} {d : Nat} {i : Nat} {r : Req} {op : Nat} {payload : Option (LineData × Bool)} {st : DirState} {sh : Mask} (hk : Keeps s₀ s) : Keeps s₀ (grant (s := s) (d := d) (i := i) (r := r) (op := op) (payload := payload) (st := st) (sh := sh)) := by
  unfold grant
  try dsimp only
  repeat' first
    | (with_reducible assumption)
    | (with_reducible apply keeps_updEntry)
    | (with_reducible apply keeps_updReq)
    | (with_reducible apply keeps_answer)
    | (with_reducible apply keeps_setHint)
    | (fail_if_no_progress (with_reducible apply keeps_lit))
    | (with_reducible apply keeps_ite)

theorem keeps_grantOwn {s₀ : State} {s : State} {d : Nat} {i : Nat} {r : Req} {me : Nat} (hk : Keeps s₀ s) : Keeps s₀ (grantOwn (s := s) (d := d) (i := i) (r := r) (me := me)) := by
  unfold grantOwn
  try dsimp only
  repeat' first
    | (with_reducible assumption)
    | (with_reducible apply keeps_demandRead)
    | (with_reducible apply keeps_grant)
    | split
    | (intro t ht)
    | (cases ‹some _ = some _›)
    | (cases ‹none = some _›)
    | (with_reducible refine keeps_snd (by assumption) ?_)

theorem keeps_performWrite {s₀ : State} {s : State} {d : Nat} {r : Req} {base : LineData} {poisoned : Bool} {fresh : Bool} (hk : Keeps s₀ s) : Keeps s₀ (performWrite (s := s) (d := d) (r := r) (base := base) (poisoned := poisoned) (fresh := fresh)) := by
  unfold performWrite
  try dsimp only
  repeat' first
    | (with_reducible assumption)
    | (with_reducible apply keeps_writeLine)
    | (with_reducible apply keeps_answer)
    | (with_reducible apply keeps_reportPoison)
    | (with_reducible apply keeps_ite)

theorem keeps_ackWb {s₀ : State} {s : State} {d : Nat} {q : Packet} (hk : Keeps s₀ s) : Keeps s₀ (ackWb (s := s) (d := d) (q := q)) := by
  unfold ackWb
  try dsimp only
  repeat' first
    | (with_reducible assumption)
    | (with_reducible apply keeps_respond)

theorem keeps_ackAll {s₀ : State} {s : State} {d : Nat} {i : Nat} {r : Req} (hk : Keeps s₀ s) : Keeps s₀ (ackAll (s := s) (d := d) (i := i) (r := r)) := by
  unfold ackAll
  try dsimp only
  repeat' first
    | (with_reducible assumption)
    | (with_reducible apply keeps_updReq)
    | (with_reducible apply keeps_ackWb)
    | (fail_if_no_progress (with_reducible apply keeps_lit))
    | (with_reducible apply keeps_foldl; intro _ _ _)
    | (with_reducible apply keeps_ite)

theorem keeps_serveWrite {s₀ : State} {s : State} {d : Nat} {i : Nat} {r : Req} (hk : Keeps s₀ s) : Keeps s₀ (serveWrite (s := s) (d := d) (i := i) (r := r)) := by
  unfold serveWrite
  try dsimp only
  repeat' first
    | (with_reducible assumption)
    | (with_reducible apply keeps_cacheHalt)
    | (with_reducible apply keeps_updEntry)
    | (with_reducible apply keeps_finishReq)
    | (with_reducible apply keeps_stopHome)
    | (with_reducible apply keeps_demandRead)
    | (with_reducible apply keeps_performWrite)
    | (with_reducible apply keeps_ackAll)
    | (fail_if_no_progress (with_reducible apply keeps_lit))
    | (with_reducible apply keeps_ite)
    | split
    | (intro t ht)
    | (cases ‹some _ = some _›)
    | (cases ‹none = some _›)
    | (with_reducible refine keeps_snd (by assumption) ?_)

theorem keeps_performTx {s₀ : State} {s : State} {d : Nat} {i : Nat} {r : Req} {tk : Nat} {data : LineData} {poisoned : Bool} (hk : Keeps s₀ s) : Keeps s₀ (performTx (s := s) (d := d) (i := i) (r := r) (tk := tk) (data := data) (poisoned := poisoned)) := by
  unfold performTx
  try dsimp only
  repeat' first
    | (with_reducible assumption)
    | (with_reducible apply keeps_finishReq)
    | (with_reducible apply keeps_answer)
    | (with_reducible apply keeps_failReq)
    | (with_reducible apply keeps_setTxn)
    | (with_reducible apply keeps_abortTxn)
    | (with_reducible apply keeps_txAbort)
    | (fail_if_no_progress (with_reducible apply keeps_lit))
    | (with_reducible apply keeps_ite)

theorem keeps_readTx {s₀ : State} {s : State} {d : Nat} {i : Nat} {r : Req} {tk : Nat} (hk : Keeps s₀ s) : Keeps s₀ (readTx (s := s) (d := d) (i := i) (r := r) (tk := tk)) := by
  unfold readTx
  try dsimp only
  repeat' first
    | (with_reducible assumption)
    | (with_reducible apply keeps_txnRefresh)
    | (with_reducible apply keeps_demandRead)
    | (with_reducible apply keeps_performTx)
    | split
    | (with_reducible refine keeps_snd (by assumption) ?_)

theorem keeps_serveTx {s₀ : State} {s : State} {d : Nat} {i : Nat} {r : Req} (hk : Keeps s₀ s) : Keeps s₀ (serveTx (s := s) (d := d) (i := i) (r := r)) := by
  unfold serveTx
  try dsimp only
  repeat' first
    | (with_reducible assumption)
    | (with_reducible apply keeps_bump)
    | (with_reducible apply keeps_lookedUp)
    | (with_reducible apply keeps_updEntry)
    | (with_reducible apply keeps_updReq)
    | (with_reducible apply keeps_failReq)
    | (with_reducible apply keeps_sendFwd)
    | (with_reducible apply keeps_allocEntry)
    | (with_reducible apply keeps_setTxn)
    | (with_reducible apply keeps_txnRefresh)
    | (with_reducible apply keeps_abortTxn)
    | (with_reducible apply keeps_performTx)
    | (with_reducible apply keeps_readTx)
    | (with_reducible apply keeps_txAbort)
    | (fail_if_no_progress (with_reducible apply keeps_lit))
    | (with_reducible apply keeps_ite)
    | split
    | (intro t ht)
    | (cases ‹some _ = some _›)
    | (cases ‹none = some _›)
    | (with_reducible refine keeps_snd (by assumption) ?_)
    | (with_reducible refine keeps_snd2 (by assumption) ?_)
    | (with_reducible refine keeps_fst (by assumption) ?_)

theorem keeps_serveShared {s₀ : State} {s : State} {d : Nat} {i : Nat} {r : Req} {me : Nat} (hk : Keeps s₀ s) : Keeps s₀ (serveShared (s := s) (d := d) (i := i) (r := r) (me := me)) := by
  unfold serveShared
  try dsimp only
  repeat' first
    | (with_reducible assumption)
    | (with_reducible apply keeps_bump)
    | (with_reducible apply keeps_failReq)
    | (with_reducible apply keeps_allocEntry)
    | (with_reducible apply keeps_demandRead)
    | (with_reducible apply keeps_grant)
    | (with_reducible apply keeps_ite)
    | split
    | (intro t ht)
    | (cases ‹some _ = some _›)
    | (cases ‹none = some _›)
    | (with_reducible refine keeps_snd (by assumption) ?_)
    | (with_reducible refine keeps_snd2 (by assumption) ?_)
    | (with_reducible refine keeps_fst (by assumption) ?_)
    | (fail_if_no_progress (with_reducible apply keeps_memOf))

theorem keeps_serveOwn {s₀ : State} {s : State} {d : Nat} {i : Nat} {r : Req} {me : Nat} (hk : Keeps s₀ s) : Keeps s₀ (serveOwn (s := s) (d := d) (i := i) (r := r) (me := me)) := by
  unfold serveOwn
  try dsimp only
  repeat' first
    | (with_reducible assumption)
    | (with_reducible apply keeps_bump)
    | (with_reducible apply keeps_want)
    | (with_reducible apply keeps_lookedUp)
    | (with_reducible apply keeps_updEntry)
    | (with_reducible apply keeps_updReq)
    | (with_reducible apply keeps_failReq)
    | (with_reducible apply keeps_sendInvs)
    | (with_reducible apply keeps_allocEntry)
    | (with_reducible apply keeps_demandRead)
    | (with_reducible apply keeps_grant)
    | (with_reducible apply keeps_ite)
    | split
    | (intro t ht)
    | (cases ‹some _ = some _›)
    | (cases ‹none = some _›)
    | (with_reducible refine keeps_snd (by assumption) ?_)
    | (with_reducible refine keeps_snd2 (by assumption) ?_)
    | (with_reducible refine keeps_fst (by assumption) ?_)
    | (fail_if_no_progress (with_reducible apply keeps_memOf))

theorem keeps_serveUnc {s₀ : State} {s : State} {d : Nat} {i : Nat} {r : Req} (hk : Keeps s₀ s) : Keeps s₀ (serveUnc (s := s) (d := d) (i := i) (r := r)) := by
  unfold serveUnc
  try dsimp only
  repeat' first
    | (with_reducible assumption)
    | (with_reducible apply keeps_lookedUp)
    | (with_reducible apply keeps_finishReq)
    | (with_reducible apply keeps_answer)
    | (with_reducible apply keeps_demandRead)
    | (with_reducible apply keeps_ite)
    | split
    | (intro t ht)
    | (cases ‹some _ = some _›)
    | (cases ‹none = some _›)
    | (with_reducible refine keeps_snd (by assumption) ?_)

theorem keeps_serve {s₀ : State} {s : State} {d : Nat} {i : Nat} (hk : Keeps s₀ s) : Keeps s₀ (serve (s := s) (d := d) (i := i)) := by
  unfold serve
  try dsimp only
  repeat' first
    | (with_reducible assumption)
    | (with_reducible apply keeps_lookedUp)
    | (with_reducible apply keeps_updEntry)
    | (with_reducible apply keeps_updReq)
    | (with_reducible apply keeps_failReq)
    | (with_reducible apply keeps_sendFwd)
    | (with_reducible apply keeps_sendInvs)
    | (with_reducible apply keeps_settleSwept)
    | (with_reducible apply keeps_reportWrite)
    | (with_reducible apply keeps_serveWrite)
    | (with_reducible apply keeps_serveTx)
    | (with_reducible apply keeps_serveShared)
    | (with_reducible apply keeps_serveOwn)
    | (with_reducible apply keeps_serveUnc)
    | (fail_if_no_progress (with_reducible apply keeps_lit))
    | (with_reducible apply keeps_ite)
    | split

theorem keeps_lockOn {s₀ : State} {s : State} {tk : Nat} {d : Nat} (hk : Keeps s₀ s) : Keeps s₀ (lockOn (s := s) (tk := tk) (d := d)) := by
  unfold lockOn
  try dsimp only
  repeat' first
    | (with_reducible assumption)
    | (with_reducible apply keeps_wakeLine)
    | (with_reducible apply keeps_setQueue)
    | (with_reducible apply keeps_setTxn)
    | (with_reducible apply keeps_ready)
    | (fail_if_no_progress (with_reducible apply keeps_lit))
    | split

theorem keeps_serveLock {s₀ : State} {s : State} {k : Nat} {tk : Nat} (hk : Keeps s₀ s) : Keeps s₀ (serveLock (s := s) (k := k) (tk := tk)) := by
  unfold serveLock
  try dsimp only
  repeat' first
    | (with_reducible assumption)
    | (with_reducible apply keeps_updEntry)
    | (with_reducible apply keeps_setQueue)
    | (with_reducible apply keeps_settleSwept)
    | (with_reducible apply keeps_startRecall)
    | (with_reducible apply keeps_updTxn)
    | (with_reducible apply keeps_lockOn)
    | (fail_if_no_progress (with_reducible apply keeps_lit))
    | (with_reducible apply keeps_ite)

theorem keeps_leaveBusy {s₀ : State} {s : State} {d : Nat} {i : Nat} {r : Req} (hk : Keeps s₀ s) : Keeps s₀ (leaveBusy (s := s) (d := d) (i := i) (r := r)) := by
  unfold leaveBusy
  try dsimp only
  repeat' first
    | (with_reducible assumption)
    | (with_reducible apply keeps_updEntry)
    | (with_reducible apply keeps_finishReq)
    | (with_reducible apply keeps_ackWb)
    | (fail_if_no_progress (with_reducible apply keeps_lit))
    | (with_reducible apply keeps_foldl; intro _ _ _)

theorem keeps_answerRead {s₀ : State} {s : State} {d : Nat} {i : Nat} {r : Req} {data : LineData} {p : Bool} (hk : Keeps s₀ s) : Keeps s₀ (answerRead (s := s) (d := d) (i := i) (r := r) (data := data) (p := p)) := by
  unfold answerRead
  try dsimp only
  repeat' first
    | (with_reducible assumption)
    | (with_reducible apply keeps_updEntry)
    | (with_reducible apply keeps_finishReq)
    | (with_reducible apply keeps_answer)
    | (with_reducible apply keeps_failReq)
    | (with_reducible apply keeps_txnRefresh)
    | (with_reducible apply keeps_ackAll)
    | (with_reducible apply keeps_performTx)
    | (with_reducible apply keeps_txAbort)
    | (fail_if_no_progress (with_reducible apply keeps_lit))
    | (with_reducible apply keeps_ite)
    | split

theorem keeps_advance {s₀ : State} {s : State} {d : Nat} {i : Nat} (hk : Keeps s₀ s) : Keeps s₀ (advance (s := s) (d := d) (i := i)) := by
  unfold advance
  try dsimp only
  repeat' first
    | (with_reducible assumption)
    | (with_reducible apply keeps_writeLine)
    | (with_reducible apply keeps_updEntry)
    | (with_reducible apply keeps_wakeLine)
    | (with_reducible apply keeps_updReq)
    | (with_reducible apply keeps_demandRead)
    | (with_reducible apply keeps_grant)
    | (with_reducible apply keeps_grantOwn)
    | (with_reducible apply keeps_ackAll)
    | (with_reducible apply keeps_serveWrite)
    | (with_reducible apply keeps_leaveBusy)
    | (with_reducible apply keeps_answerRead)
    | (fail_if_no_progress (with_reducible apply keeps_lit))
    | (with_reducible apply keeps_ite)
    | split
    | (intro t ht)
    | (cases ‹some _ = some _›)
    | (cases ‹none = some _›)
    | (with_reducible refine keeps_snd (by assumption) ?_)

theorem keeps_pump {s₀ : State} {s : State} {k : Nat} (hk : Keeps s₀ s) : Keeps s₀ (pump (s := s) (k := k)) := by
  unfold pump
  try dsimp only
  repeat' first
    | (with_reducible assumption)
    | (with_reducible apply keeps_serve)
    | (with_reducible apply keeps_serveLock)
    | (with_reducible apply keeps_advance)
    | (with_reducible apply keeps_ite)
    | split


theorem keeps_drain {s₀ : State} : ∀ (n : Nat) {s : State}, Keeps s₀ s → Keeps s₀ (drain n s)
  | 0, _, h => h
  | n + 1, s, h => by
    unfold drain
    split
    · exact h
    · exact keeps_drain n (keeps_pump (keeps_uHome h))


theorem keeps_settle {s₀ : State} {s : State} (hk : Keeps s₀ s) : Keeps s₀ s.settle := by
  unfold settle
  exact keeps_drain _ hk

theorem keeps_refreshFree {s₀ : State} {s : State} {d : Nat} (hk : Keeps s₀ s) : Keeps s₀ (refreshFree (s := s) (d := d)) := by
  unfold refreshFree
  try dsimp only
  repeat' first
    | (with_reducible assumption)
    | (with_reducible apply keeps_wr)

theorem keeps_pageFlight {s₀ : State} {s : State} {page : Nat} {up : Bool} (hk : Keeps s₀ s) : Keeps s₀ (pageFlight (s := s) (page := page) (up := up)) := by
  unfold pageFlight
  try dsimp only
  repeat' first
    | (with_reducible assumption)
    | (with_reducible apply keeps_flightAdd)
    | (with_reducible apply keeps_flightSub)
    | (with_reducible apply keeps_ite)
    | split

theorem keeps_migResult {s₀ : State} {s : State} {d : Nat} {result : Nat} (hk : Keeps s₀ s) : Keeps s₀ (migResult (s := s) (d := d) (result := result)) := by
  unfold migResult
  try dsimp only
  repeat' first
    | (with_reducible assumption)
    | (with_reducible apply keeps_wr)

theorem keeps_startMove {s₀ : State} {s : State} {w : MoveWait} (hk : Keeps s₀ s) : Keeps s₀ (startMove (s := s) (w := w)) := by
  unfold startMove
  try dsimp only
  repeat' first
    | (with_reducible assumption)
    | (with_reducible apply keeps_wr)
    | (with_reducible apply keeps_refreshFree)
    | (with_reducible apply keeps_pageFlight)
    | (with_reducible apply keeps_migResult)
    | (fail_if_no_progress (with_reducible apply keeps_lit))
    | (with_reducible apply keeps_uMem)
    | (exact (rfl : (_ : List Host.Cell) = _))
    | (with_reducible apply keeps_ite)
    | split

theorem keeps_tryWaits {s₀ : State} {s : State} (hk : Keeps s₀ s) : Keeps s₀ (tryWaits (s := s)) := by
  unfold tryWaits
  try dsimp only
  repeat' first
    | (with_reducible assumption)
    | (with_reducible apply keeps_startMove)
    | (fail_if_no_progress (with_reducible apply keeps_lit))
    | (with_reducible apply keeps_foldl; intro _ _ _)
    | (with_reducible apply keeps_uMem)
    | (exact (rfl : (_ : List Host.Cell) = _))

theorem keeps_autoPromote {s₀ : State} {s : State} {d : Nat} {page : Nat} {oneDie : Bool} (hk : Keeps s₀ s) : Keeps s₀ (autoPromote (s := s) (d := d) (page := page) (oneDie := oneDie)) := by
  unfold autoPromote
  try dsimp only
  repeat' first
    | (with_reducible assumption)
    | (with_reducible apply keeps_startMove)
    | (with_reducible apply keeps_foldl; intro _ _ _)
    | (with_reducible apply keeps_ite)

theorem keeps_dropShares {s₀ : State} {s : State} {a : ExtAttr} (hk : Keeps s₀ s) : Keeps s₀ (dropShares (s := s) (a := a)) := by
  unfold dropShares
  try dsimp only
  repeat' first
    | (with_reducible assumption)
    | (with_reducible apply keeps_wr)
    | (with_reducible apply keeps_flightSub)
    | (with_reducible apply keeps_refreshFree)
    | (with_reducible apply keeps_migResult)
    | (fail_if_no_progress (with_reducible apply keeps_lit))
    | (with_reducible apply keeps_foldl; intro _ _ _)
    | (with_reducible apply keeps_uMem)
    | (exact (rfl : (_ : List Host.Cell) = _))

theorem keeps_dropWaits {s₀ : State} {s : State} {d : Nat} (hk : Keeps s₀ s) : Keeps s₀ (dropWaits (s := s) (d := d)) := by
  unfold dropWaits
  try dsimp only
  repeat' first
    | (with_reducible assumption)
    | (with_reducible apply keeps_migResult)
    | (fail_if_no_progress (with_reducible apply keeps_lit))
    | (with_reducible apply keeps_uMem)
    | (exact (rfl : (_ : List Host.Cell) = _))
    | (with_reducible apply keeps_ite)

theorem keeps_hotRecord {s₀ : State} {s : State} {d : Nat} {page : Nat} {principal : Nat} {e : Nat} {x : Extent} (hk : Keeps s₀ s) : Keeps s₀ (hotRecord (s := s) (d := d) (page := page) (principal := principal) (e := e) (x := x)) := by
  unfold hotRecord
  try dsimp only
  repeat' first
    | (with_reducible assumption)
    | (with_reducible apply keeps_wr)
    | (with_reducible apply keeps_bump)
    | (with_reducible apply keeps_raise)
    | (with_reducible apply keeps_setReg)
    | (fail_if_no_progress (with_reducible apply keeps_lit))
    | (with_reducible apply keeps_uMem)
    | (exact (rfl : (_ : List Host.Cell) = _))
    | (with_reducible apply keeps_ite)

theorem keeps_countAccess {s₀ : State} {s : State} {d : Nat} {q : Packet} {p : Placed} (hk : Keeps s₀ s) : Keeps s₀ (countAccess (s := s) (d := d) (q := q) (p := p)) := by
  unfold countAccess
  try dsimp only
  repeat' first
    | (with_reducible assumption)
    | (with_reducible apply keeps_autoPromote)
    | (with_reducible apply keeps_hotRecord)
    | (fail_if_no_progress (with_reducible apply keeps_lit))
    | (with_reducible apply keeps_uMem)
    | (exact (rfl : (_ : List Host.Cell) = _))
    | (with_reducible apply keeps_ite)

theorem keeps_prefetchLine {s₀ : State} {s : State} {k : Nat} (hk : Keeps s₀ s) : Keeps s₀ (prefetchLine (s := s) (k := k)) := by
  unfold prefetchLine
  try dsimp only
  repeat' first
    | (with_reducible assumption)
    | (with_reducible apply keeps_unitAsk)
    | (with_reducible apply keeps_mscFill)
    | (with_reducible apply keeps_ite)
    | split

theorem keeps_trainHome {s₀ : State} {s : State} {d : Nat} {q : Packet} {k : Nat} (hk : Keeps s₀ s) : Keeps s₀ (trainHome (s := s) (d := d) (q := q) (k := k)) := by
  unfold trainHome
  try dsimp only
  repeat' first
    | (with_reducible assumption)
    | (with_reducible apply keeps_prefetchLine)
    | (fail_if_no_progress (with_reducible apply keeps_lit))
    | (with_reducible apply keeps_uMem)
    | (exact (rfl : (_ : List Host.Cell) = _))
    | (with_reducible apply keeps_ite)
    | split

theorem keeps_moveRead {s₀ : State} {s : State} {k : Nat} {u : Upset} (hk : Keeps s₀ s) : Keeps s₀ (moveRead (s := s) (k := k) (u := u)).2 := by
  unfold moveRead
  try dsimp only
  repeat' first
    | (with_reducible assumption)
    | (with_reducible apply keeps_dirty)
    | (with_reducible apply keeps_want)
    | (with_reducible apply keeps_mscPut)
    | (with_reducible apply keeps_mscDrop)
    | (with_reducible apply keeps_cacheHalt)
    | (with_reducible apply keeps_reportPoison)
    | (with_reducible apply keeps_stopHome)
    | (with_reducible apply keeps_arrived)
    | (fail_if_no_progress (with_reducible apply keeps_lit))
    | (with_reducible apply keeps_uMem)
    | (exact (rfl : (_ : List Host.Cell) = _))
    | (with_reducible apply keeps_ite)
    | split

theorem keeps_lineMove {s₀ : State} {s : State} {x : Nat} {u : Upset} {maskLost : Bool} (hk : Keeps s₀ s) : Keeps s₀ (lineMove (s := s) (x := x) (u := u) (maskLost := maskLost)) := by
  unfold lineMove
  try dsimp only
  repeat' first
    | (with_reducible assumption)
    | (with_reducible apply keeps_unitWrite)
    | (with_reducible apply keeps_moveRead)
    | (fail_if_no_progress (with_reducible apply keeps_lit))
    | (with_reducible apply keeps_uMem)
    | (exact (rfl : (_ : List Host.Cell) = _))
    | (with_reducible apply keeps_ite)
    | split
    | (intro t ht)
    | (cases ‹some _ = some _›)
    | (cases ‹none = some _›)
    | (with_reducible refine keeps_snd (by assumption) ?_)

theorem keeps_moveDone {s₀ : State} {s : State} {x : Nat} (hk : Keeps s₀ s) : Keeps s₀ (moveDone (s := s) (x := x)) := by
  unfold moveDone
  try dsimp only
  repeat' first
    | (with_reducible assumption)
    | (with_reducible apply keeps_wr)
    | (with_reducible apply keeps_refreshFree)
    | (with_reducible apply keeps_pageFlight)
    | (with_reducible apply keeps_migResult)
    | (with_reducible apply keeps_startMove)
    | (with_reducible apply keeps_tryWaits)
    | (fail_if_no_progress (with_reducible apply keeps_lit))
    | (with_reducible apply keeps_uMem)
    | (exact (rfl : (_ : List Host.Cell) = _))
    | (with_reducible apply keeps_ite)
    | split

theorem keeps_migCommand {s₀ : State} {s : State} {d : Nat} {page : Nat} {share : Nat} {op : Nat} (hk : Keeps s₀ s) : Keeps s₀ (migCommand (s := s) (d := d) (page := page) (share := share) (op := op)) := by
  unfold migCommand
  try dsimp only
  repeat' first
    | (with_reducible assumption)
    | (with_reducible apply keeps_wr)
    | (with_reducible apply keeps_startMove)
    | (with_reducible apply keeps_ite)
    | split

theorem keeps_sweepFrame {s₀ : State} {s : State} {d : Nat} (hk : Keeps s₀ s) : Keeps s₀ (sweepFrame (s := s) (d := d)) := by
  unfold sweepFrame
  try dsimp only
  repeat' first
    | (with_reducible assumption)
    | (with_reducible apply keeps_startMove)
    | (fail_if_no_progress (with_reducible apply keeps_lit))
    | (with_reducible apply keeps_uMem)
    | (exact (rfl : (_ : List Host.Cell) = _))
    | (with_reducible apply keeps_ite)
    | split

theorem keeps_ageCounts {s₀ : State} {s : State} {d : Nat} (hk : Keeps s₀ s) : Keeps s₀ (ageCounts (s := s) (d := d)) := by
  unfold ageCounts
  try dsimp only
  repeat' first
    | (with_reducible assumption)
    | (fail_if_no_progress (with_reducible apply keeps_lit))
    | (with_reducible apply keeps_uMem)
    | (exact (rfl : (_ : List Host.Cell) = _))

theorem keeps_refuse {s₀ : State} {s : State} {d : Nat} {q : Packet} {status : Nat} {detail : Nat} (hk : Keeps s₀ s) : Keeps s₀ (refuse (s := s) (d := d) (q := q) (status := status) (detail := detail)) := by
  unfold refuse
  try dsimp only
  repeat' first
    | (with_reducible assumption)
    | (with_reducible apply keeps_respond)

theorem keeps_enqueue {s₀ : State} {s : State} {q : Packet} {p : Placed} {u : Upset} (hk : Keeps s₀ s) : Keeps s₀ (enqueue (s := s) (q := q) (p := p) (u := u)) := by
  unfold enqueue
  try dsimp only
  repeat' first
    | (with_reducible assumption)
    | (with_reducible apply keeps_bump)
    | (with_reducible apply keeps_takeEntry)
    | (with_reducible apply keeps_dirHalt)
    | (with_reducible apply keeps_dirCorrected)
    | (with_reducible apply keeps_countAccess)
    | (with_reducible apply keeps_trainHome)
    | (with_reducible apply keeps_refuse)
    | (fail_if_no_progress (with_reducible apply keeps_lit))
    | (with_reducible apply keeps_ite)
    | split

theorem keeps_accept {s₀ : State} {s : State} {q : Packet} {op : Nat} {entry : Nat} {u : Upset} (hk : Keeps s₀ s) : Keeps s₀ (accept (s := s) (q := q) (op := op) (entry := entry) (u := u)) := by
  unfold accept
  try dsimp only
  repeat' first
    | (with_reducible assumption)
    | (with_reducible apply keeps_taken)
    | (with_reducible apply keeps_refuse)
    | (with_reducible apply keeps_enqueue)
    | (fail_if_no_progress (with_reducible apply keeps_lit))
    | (with_reducible apply keeps_ite)
    | split

theorem keeps_updRcl {s₀ : State} {s : State} {k : Nat} {f : Recall → Recall} (hk : Keeps s₀ s) : Keeps s₀ (updRcl (s := s) (k := k) (f := f)) := by
  unfold updRcl
  try dsimp only
  repeat' first
    | (with_reducible assumption)
    | (with_reducible apply keeps_uHome)

theorem keeps_wakeDie {s₀ : State} {s : State} {d : Nat} (hk : Keeps s₀ s) : Keeps s₀ (wakeDie (s := s) (d := d)) := by
  unfold wakeDie
  try dsimp only
  repeat' first
    | (with_reducible assumption)
    | (with_reducible apply keeps_uHome)

theorem keeps_advanceRcl {s₀ : State} {s : State} {key : Nat} (hk : Keeps s₀ s) : Keeps s₀ (advanceRcl (s := s) (key := key)) := by
  unfold advanceRcl
  try dsimp only
  repeat' first
    | (with_reducible assumption)
    | (with_reducible apply keeps_uHome)
    | (with_reducible apply keeps_updEntry)
    | (with_reducible apply keeps_wakeLine)
    | (with_reducible apply keeps_ackWb)
    | (with_reducible apply keeps_wakeDie)
    | (fail_if_no_progress (with_reducible apply keeps_lit))
    | (with_reducible apply keeps_foldl; intro _ _ _)
    | (with_reducible apply keeps_ite)
    | split

theorem keeps_invAck {s₀ : State} {s : State} {q : Packet} (hk : Keeps s₀ s) : Keeps s₀ (invAck (s := s) (q := q)) := by
  unfold invAck
  try dsimp only
  repeat' first
    | (with_reducible assumption)
    | (with_reducible apply keeps_taken)
    | (with_reducible apply keeps_updReq)
    | (with_reducible apply keeps_advance)
    | (with_reducible apply keeps_updRcl)
    | (with_reducible apply keeps_advanceRcl)
    | (fail_if_no_progress (with_reducible apply keeps_lit))
    | (with_reducible apply keeps_ite)
    | split

theorem keeps_memoryIn {s₀ : State} {s : State} {k : Nat} {data : LineData} {poison : Bool} (hk : Keeps s₀ s) : Keeps s₀ (memoryIn (s := s) (k := k) (data := data) (poison := poison)) := by
  unfold memoryIn
  try dsimp only
  repeat' first
    | (with_reducible assumption)
    | (with_reducible apply keeps_writeLine)
    | (with_reducible apply keeps_reportPoison)
    | (with_reducible apply keeps_ite)

theorem keeps_ownerMiss {s₀ : State} {s : State} {k : Nat} {o : Nat} (hk : Keeps s₀ s) : Keeps s₀ (ownerMiss (s := s) (k := k) (o := o)) := by
  unfold ownerMiss
  try dsimp only
  repeat' first
    | (with_reducible assumption)
    | (with_reducible apply keeps_raise)
    | (with_reducible apply keeps_poisonLine)
    | (with_reducible apply keeps_reportPoison)

theorem keeps_answerForOwner {s₀ : State} {s : State} {d : Nat} {i : Nat} {r : Req} (hk : Keeps s₀ s) : Keeps s₀ (answerForOwner (s := s) (d := d) (i := i) (r := r)) := by
  unfold answerForOwner
  try dsimp only
  repeat' first
    | (with_reducible assumption)
    | (with_reducible apply keeps_answer)

theorem keeps_forwardLost {s₀ : State} {s : State} {d : Nat} {i : Nat} {r : Req} {o : Nat} (hk : Keeps s₀ s) : Keeps s₀ (forwardLost (s := s) (d := d) (i := i) (r := r) (o := o)) := by
  unfold forwardLost
  try dsimp only
  repeat' first
    | (with_reducible assumption)
    | (with_reducible apply keeps_updReq)
    | (with_reducible apply keeps_answerForOwner)
    | (fail_if_no_progress (with_reducible apply keeps_lit))
    | (with_reducible apply keeps_ite)

theorem keeps_fwdAck {s₀ : State} {s : State} {q : Packet} (hk : Keeps s₀ s) : Keeps s₀ (fwdAck (s := s) (q := q)) := by
  unfold fwdAck
  try dsimp only
  repeat' first
    | (with_reducible assumption)
    | (with_reducible apply keeps_taken)
    | (with_reducible apply keeps_updReq)
    | (with_reducible apply keeps_advance)
    | (with_reducible apply keeps_updRcl)
    | (with_reducible apply keeps_advanceRcl)
    | (with_reducible apply keeps_ownerMiss)
    | (with_reducible apply keeps_forwardLost)
    | (fail_if_no_progress (with_reducible apply keeps_lit))
    | (with_reducible apply keeps_ite)
    | split

theorem keeps_fwdData {s₀ : State} {s : State} {q : Packet} (hk : Keeps s₀ s) : Keeps s₀ (fwdData (s := s) (q := q)) := by
  unfold fwdData
  try dsimp only
  repeat' first
    | (with_reducible assumption)
    | (with_reducible apply keeps_taken)
    | (with_reducible apply keeps_updReq)
    | (with_reducible apply keeps_advance)
    | (with_reducible apply keeps_updRcl)
    | (with_reducible apply keeps_advanceRcl)
    | (with_reducible apply keeps_memoryIn)
    | (fail_if_no_progress (with_reducible apply keeps_lit))
    | (with_reducible apply keeps_ite)
    | split

theorem keeps_complete {s₀ : State} {s : State} {q : Packet} (hk : Keeps s₀ s) : Keeps s₀ (complete (s := s) (q := q)) := by
  unfold complete
  try dsimp only
  repeat' first
    | (with_reducible assumption)
    | (with_reducible apply keeps_taken)
    | (with_reducible apply keeps_updReq)
    | (with_reducible apply keeps_advance)
    | (fail_if_no_progress (with_reducible apply keeps_lit))
    | (with_reducible apply keeps_ite)
    | split

theorem keeps_writeback {s₀ : State} {s : State} {q : Packet} {entry : Nat} {dirty : Bool} (hk : Keeps s₀ s) : Keeps s₀ (writeback (s := s) (q := q) (entry := entry) (dirty := dirty)) := by
  unfold writeback
  try dsimp only
  repeat' first
    | (with_reducible assumption)
    | (with_reducible apply keeps_dirty)
    | (with_reducible apply keeps_taken)
    | (with_reducible apply keeps_lookedUp)
    | (with_reducible apply keeps_updEntry)
    | (with_reducible apply keeps_wakeLine)
    | (with_reducible apply keeps_updReq)
    | (with_reducible apply keeps_settleSwept)
    | (with_reducible apply keeps_ackWb)
    | (with_reducible apply keeps_advance)
    | (with_reducible apply keeps_refuse)
    | (with_reducible apply keeps_updRcl)
    | (with_reducible apply keeps_advanceRcl)
    | (with_reducible apply keeps_memoryIn)
    | (fail_if_no_progress (with_reducible apply keeps_lit))
    | (with_reducible apply keeps_ite)
    | split

theorem keeps_settleReq {s₀ : State} {s : State} {d : Nat} {i : Nat} {o : Nat} (hk : Keeps s₀ s) : Keeps s₀ (settleReq (s := s) (d := d) (i := i) (o := o)) := by
  unfold settleReq
  try dsimp only
  repeat' first
    | (with_reducible assumption)
    | (with_reducible apply keeps_poisonLine)
    | (with_reducible apply keeps_updEntry)
    | (with_reducible apply keeps_updReq)
    | (with_reducible apply keeps_finishReq)
    | (with_reducible apply keeps_reportPoison)
    | (with_reducible apply keeps_advance)
    | (with_reducible apply keeps_forwardLost)
    | (fail_if_no_progress (with_reducible apply keeps_lit))
    | (with_reducible apply keeps_ite)
    | split

theorem keeps_settleRcl {s₀ : State} {s : State} {key : Nat} {o : Nat} (hk : Keeps s₀ s) : Keeps s₀ (settleRcl (s := s) (key := key) (o := o)) := by
  unfold settleRcl
  try dsimp only
  repeat' first
    | (with_reducible assumption)
    | (with_reducible apply keeps_poisonLine)
    | (with_reducible apply keeps_reportPoison)
    | (with_reducible apply keeps_updRcl)
    | (with_reducible apply keeps_advanceRcl)
    | (fail_if_no_progress (with_reducible apply keeps_lit))
    | (with_reducible apply keeps_ite)
    | split

theorem keeps_startWalks {s₀ : State} {s : State} {w : WalkKind} (hk : Keeps s₀ s) : Keeps s₀ (startWalks (s := s) (w := w)) := by
  unfold startWalks
  try dsimp only
  repeat' first
    | (with_reducible assumption)
    | (with_reducible apply keeps_wr)
    | (with_reducible apply keeps_uHome)
    | (fail_if_no_progress (with_reducible apply keeps_lit))
    | (with_reducible apply keeps_foldl; intro _ _ _)
    | split

theorem keeps_startSweep {s₀ : State} {s : State} {o : Nat} (hk : Keeps s₀ s) : Keeps s₀ (startSweep (s := s) (o := o)) := by
  unfold startSweep
  try dsimp only
  repeat' first
    | (with_reducible assumption)
    | (with_reducible apply keeps_wr)
    | (with_reducible apply keeps_uHome)
    | (with_reducible apply keeps_raise)
    | (with_reducible apply keeps_finishReq)
    | (with_reducible apply keeps_settleReq)
    | (with_reducible apply keeps_settleRcl)
    | (with_reducible apply keeps_startWalks)
    | (with_reducible apply keeps_release)
    | (fail_if_no_progress (with_reducible apply keeps_lit))
    | (with_reducible apply keeps_foldl; intro _ _ _)
    | (with_reducible apply keeps_ite)

theorem keeps_forwardTimeout {s₀ : State} {s : State} {d : Nat} {idx : Nat} {o : Nat} (hk : Keeps s₀ s) : Keeps s₀ (forwardTimeout (s := s) (d := d) (idx := idx) (o := o)) := by
  unfold forwardTimeout
  try dsimp only
  repeat' first
    | (with_reducible assumption)
    | (with_reducible apply keeps_bump)
    | (with_reducible apply keeps_settleReq)
    | (with_reducible apply keeps_settleRcl)
    | (with_reducible apply keeps_startSweep)
    | (with_reducible apply keeps_ite)

theorem keeps_walkEntry {s₀ : State} {s : State} {k : WalkKind} {e : DirEntry} (hk : Keeps s₀ s) : ∀ t, walkEntry (s := s) (k := k) (e := e) = some t → Keeps s₀ t := by
  unfold walkEntry
  try dsimp only
  repeat' first
    | (with_reducible assumption)
    | (with_reducible apply keeps_dirty)
    | (with_reducible apply keeps_wakeLine)
    | (with_reducible apply keeps_settleSwept)
    | (with_reducible apply keeps_startRecall)
    | (with_reducible apply keeps_reportPoison)
    | (with_reducible apply keeps_ite)
    | split
    | (intro t ht)
    | (cases ‹some _ = some _›)
    | (cases ‹none = some _›)
    | (with_reducible refine keeps_snd (by assumption) ?_)
    | (with_reducible refine keeps_snd2 (by assumption) ?_)
    | (with_reducible refine keeps_fst (by assumption) ?_)


theorem keeps_walkEntries {s₀ : State} {k : WalkKind} : ∀ (l : List (Nat × DirEntry)) (a : Option State),
    (∀ t, a = some t → Keeps s₀ t) →
    ∀ t, l.foldl (fun (a : Option State) e => a.bind fun s => s.walkEntry k e.2) a = some t → Keeps s₀ t
  | [], _, h => h
  | e :: l, a, h => keeps_walkEntries l _ fun t ht => by
    obtain ⟨u, hu, hw⟩ := Option.bind_eq_some_iff.1 ht
    exact keeps_walkEntry (h u hu) t hw

theorem keeps_walkStep {s₀ : State} {s : State} {w : Walk} (hk : Keeps s₀ s) : Keeps s₀ (s.walkStep w) := by
  unfold walkStep
  dsimp only
  split
  · exact hk
  · rename_i e
    have k := keeps_walkEntries _ _ (fun t h => by cases h; exact hk) _ e
    split
    · exact keeps_uHome k
    · split
      · exact keeps_uHome k
      · exact keeps_wr (keeps_uHome k)

theorem keeps_walkSet {s₀ : State} {s : State} {d : Nat} {o : Nat} {e : Nat} (hk : Keeps s₀ s) : Keeps s₀ (walkSet (s := s) (d := d) (o := o) (e := e)) := by
  unfold walkSet
  try dsimp only
  repeat' first
    | (with_reducible assumption)
    | (with_reducible apply keeps_walkStep)
    | (with_reducible apply keeps_release)
    | split

theorem keeps_dropWalks {s₀ : State} {s : State} {k : WalkKind} (hk : Keeps s₀ s) : Keeps s₀ (dropWalks (s := s) (k := k)) := by
  unfold dropWalks
  try dsimp only
  repeat' first
    | (with_reducible assumption)
    | (with_reducible apply keeps_uHome)

theorem keeps_openerLost {s₀ : State} {s : State} {ep : Endpoint} (hk : Keeps s₀ s) : Keeps s₀ (openerLost (s := s) (ep := ep)) := by
  unfold openerLost
  try dsimp only
  repeat' first
    | (with_reducible assumption)
    | (with_reducible apply keeps_freeTxn)
    | (with_reducible apply keeps_abortWhere)
    | (with_reducible apply keeps_foldl; intro _ _ _)

theorem keeps_sweepEnd {s₀ : State} {s : State} {o : Nat} (hk : Keeps s₀ s) : Keeps s₀ (sweepEnd (s := s) (o := o)) := by
  unfold sweepEnd
  try dsimp only
  repeat' first
    | (with_reducible assumption)
    | (with_reducible apply keeps_wr)
    | (with_reducible apply keeps_raise)
    | (with_reducible apply keeps_dropWalks)
    | (with_reducible apply keeps_openerLost)
    | (fail_if_no_progress (with_reducible apply keeps_lit))
    | (with_reducible apply keeps_ite)

theorem keeps_slotReleased {s₀ : State} {s : State} {o : Nat} (hk : Keeps s₀ s) : Keeps s₀ (slotReleased (s := s) (o := o)) := by
  unfold slotReleased
  try dsimp only
  repeat' first
    | (with_reducible assumption)
    | (with_reducible apply keeps_wr)
    | (with_reducible apply keeps_startWalks)
    | (with_reducible apply keeps_dropWalks)
    | (with_reducible apply keeps_release)
    | (with_reducible apply keeps_ite)

theorem keeps_txOpen {s₀ : State} {s : State} {q : Packet} (hk : Keeps s₀ s) : Keeps s₀ (txOpen (s := s) (q := q)) := by
  unfold txOpen
  try dsimp only
  repeat' first
    | (with_reducible assumption)
    | (with_reducible apply keeps_send)
    | (with_reducible apply keeps_taken)
    | (with_reducible apply keeps_setTxn)
    | (with_reducible apply keeps_txnRefresh)
    | (with_reducible apply keeps_refuse)
    | (fail_if_no_progress (with_reducible apply keeps_lit))
    | (with_reducible apply keeps_ite)
    | split

theorem keeps_abortNamed {s₀ : State} {s : State} {q : Packet} (hk : Keeps s₀ s) : Keeps s₀ (abortNamed (s := s) (q := q)) := by
  unfold abortNamed
  try dsimp only
  repeat' first
    | (with_reducible assumption)
    | (with_reducible apply keeps_abortTxn)
    | split

theorem keeps_txServe {s₀ : State} {s : State} {q : Packet} {entry : Nat} {u : Upset} (hk : Keeps s₀ s) : Keeps s₀ (txServe (s := s) (q := q) (entry := entry) (u := u)) := by
  unfold txServe
  try dsimp only
  repeat' first
    | (with_reducible assumption)
    | (with_reducible apply keeps_abortTxn)
    | (with_reducible apply keeps_refuse)
    | (with_reducible apply keeps_enqueue)
    | (with_reducible apply keeps_abortNamed)
    | (with_reducible apply keeps_txAbort)
    | (with_reducible apply keeps_ite)
    | split

theorem keeps_txAccess {s₀ : State} {s : State} {q : Packet} {op : Nat} {entry : Nat} {u : Upset} (hk : Keeps s₀ s) : Keeps s₀ (txAccess (s := s) (q := q) (op := op) (entry := entry) (u := u)) := by
  unfold txAccess
  try dsimp only
  repeat' first
    | (with_reducible assumption)
    | (with_reducible apply keeps_taken)
    | (with_reducible apply keeps_txServe)
    | (fail_if_no_progress (with_reducible apply keeps_lit))
    | (with_reducible apply keeps_ite)

theorem keeps_closeTxn {s₀ : State} {s : State} {k : Nat} (hk : Keeps s₀ s) : Keeps s₀ (closeTxn (s := s) (k := k)) := by
  unfold closeTxn
  try dsimp only
  repeat' first
    | (with_reducible assumption)
    | (with_reducible apply keeps_bump)
    | (with_reducible apply keeps_answer)
    | (with_reducible apply keeps_freeTxn)
    | split

theorem keeps_commitPoint {s₀ : State} {s : State} {k : Nat} (hk : Keeps s₀ s) : Keeps s₀ (commitPoint (s := s) (k := k)) := by
  unfold commitPoint
  try dsimp only
  repeat' first
    | (with_reducible assumption)
    | (with_reducible apply keeps_setTxn)
    | (with_reducible apply keeps_closeTxn)
    | (fail_if_no_progress (with_reducible apply keeps_lit))
    | (with_reducible apply keeps_ite)

theorem keeps_txCommit {s₀ : State} {s : State} {q : Packet} (hk : Keeps s₀ s) : Keeps s₀ (txCommit (s := s) (q := q)) := by
  unfold txCommit
  try dsimp only
  repeat' first
    | (with_reducible assumption)
    | (with_reducible apply keeps_taken)
    | (with_reducible apply keeps_setTxn)
    | (with_reducible apply keeps_freeTxn)
    | (with_reducible apply keeps_abortTxn)
    | (with_reducible apply keeps_refuse)
    | (with_reducible apply keeps_abortNamed)
    | (with_reducible apply keeps_commitPoint)
    | (with_reducible apply keeps_txAbort)
    | (with_reducible apply keeps_idle)
    | (fail_if_no_progress (with_reducible apply keeps_lit))
    | (with_reducible apply keeps_ite)
    | split

theorem keeps_txAbort {s₀ : State} {s : State} {q : Packet} (hk : Keeps s₀ s) : Keeps s₀ (txAbort (s := s) (q := q)) := by
  unfold txAbort
  try dsimp only
  repeat' first
    | (with_reducible assumption)
    | (with_reducible apply keeps_taken)
    | (with_reducible apply keeps_answer)
    | (with_reducible apply keeps_freeTxn)
    | (with_reducible apply keeps_abortTxn)
    | (with_reducible apply keeps_refuse)
    | (with_reducible apply keeps_abortNamed)
    | (with_reducible apply keeps_ite)
    | split

theorem keeps_prepare {s₀ : State} {s : State} {d : Nat} {k : Nat} (hk : Keeps s₀ s) : Keeps s₀ (prepare (s := s) (d := d) (k := k)) := by
  unfold prepare
  try dsimp only
  repeat' first
    | (with_reducible assumption)
    | (with_reducible apply keeps_setTxn)
    | (with_reducible apply keeps_lockOn)
    | (with_reducible apply keeps_idle)
    | (fail_if_no_progress (with_reducible apply keeps_lit))
    | (with_reducible apply keeps_ite)

theorem keeps_legReady {s₀ : State} {s : State} {d : Nat} {k : Nat} (hk : Keeps s₀ s) : Keeps s₀ (legReady (s := s) (d := d) (k := k)) := by
  unfold legReady
  try dsimp only
  repeat' first
    | (with_reducible assumption)
    | (with_reducible apply keeps_setTxn)
    | (with_reducible apply keeps_commitPoint)
    | (with_reducible apply keeps_ready)
    | (fail_if_no_progress (with_reducible apply keeps_lit))
    | (with_reducible apply keeps_ite)

theorem keeps_legDone {s₀ : State} {s : State} {d : Nat} {k : Nat} (hk : Keeps s₀ s) : Keeps s₀ (legDone (s := s) (d := d) (k := k)) := by
  unfold legDone
  try dsimp only
  repeat' first
    | (with_reducible assumption)
    | (with_reducible apply keeps_setTxn)
    | (with_reducible apply keeps_applied)
    | (fail_if_no_progress (with_reducible apply keeps_lit))
    | (with_reducible apply keeps_ite)

theorem keeps_apply {s₀ : State} {s : State} {d : Nat} {k : Nat} (hk : Keeps s₀ s) : Keeps s₀ (apply (s := s) (d := d) (k := k)) := by
  unfold apply
  try dsimp only
  repeat' first
    | (with_reducible assumption)
    | (with_reducible apply keeps_setTxn)
    | (with_reducible apply keeps_txnRefresh)
    | (with_reducible apply keeps_releaseLine)
    | (with_reducible apply keeps_legDone)
    | (fail_if_no_progress (with_reducible apply keeps_lit))
    | (with_reducible apply keeps_foldl; intro _ _ _)
    | (with_reducible apply keeps_ite)

theorem keeps_applyBase {s₀ : State} {s : State} {l : TxnLine} {mask : Mask} {u : Upset} (hk : Keeps s₀ s) : Keeps s₀ (applyBase (s := s) (l := l) (mask := mask) (u := u)).2 := by
  unfold applyBase
  try dsimp only
  repeat' first
    | (with_reducible assumption)
    | (with_reducible apply keeps_demandRead)
    | (with_reducible apply keeps_ite)
    | split
    | (intro t ht)
    | (cases ‹some _ = some _›)
    | (cases ‹none = some _›)
    | (with_reducible refine keeps_snd (by assumption) ?_)

theorem keeps_applyLine {s₀ : State} {s : State} {d : Nat} {k : Nat} {u : Upset} (hk : Keeps s₀ s) : Keeps s₀ (applyLine (s := s) (d := d) (k := k) (u := u)) := by
  unfold applyLine
  try dsimp only
  repeat' first
    | (with_reducible assumption)
    | (with_reducible apply keeps_writeLine)
    | (with_reducible apply keeps_setTxn)
    | (with_reducible apply keeps_txnRefresh)
    | (with_reducible apply keeps_releaseLine)
    | (with_reducible apply keeps_abortWhere)
    | (with_reducible apply keeps_reportPoison)
    | (with_reducible apply keeps_legDone)
    | (with_reducible apply keeps_applyBase)
    | (fail_if_no_progress (with_reducible apply keeps_lit))
    | (with_reducible apply keeps_ite)
    | split
    | (intro t ht)
    | (cases ‹some _ = some _›)
    | (cases ‹none = some _›)
    | (with_reducible refine keeps_snd (by assumption) ?_)

theorem keeps_applied {s₀ : State} {s : State} {d : Nat} {k : Nat} (hk : Keeps s₀ s) : Keeps s₀ (applied (s := s) (d := d) (k := k)) := by
  unfold applied
  try dsimp only
  repeat' first
    | (with_reducible assumption)
    | (with_reducible apply keeps_setTxn)
    | (with_reducible apply keeps_txnRefresh)
    | (with_reducible apply keeps_closeTxn)
    | (fail_if_no_progress (with_reducible apply keeps_lit))
    | (with_reducible apply keeps_ite)

theorem keeps_lifetime {s₀ : State} {s : State} {k : Nat} (hk : Keeps s₀ s) : Keeps s₀ (lifetime (s := s) (k := k)) := by
  unfold lifetime
  try dsimp only
  repeat' first
    | (with_reducible assumption)
    | (with_reducible apply keeps_abortTxn)

theorem keeps_recordExpiry {s₀ : State} {s : State} {k : Nat} (hk : Keeps s₀ s) : Keeps s₀ (recordExpiry (s := s) (k := k)) := by
  unfold recordExpiry
  try dsimp only
  repeat' first
    | (with_reducible assumption)
    | (with_reducible apply keeps_freeTxn)
    | (with_reducible apply keeps_ite)

theorem keeps_refreshSave {s₀ : State} {s : State} {p : Nat} (hk : Keeps s₀ s) : Keeps s₀ (refreshSave (s := s) (p := p)) := by
  unfold refreshSave
  try dsimp only
  repeat' first
    | (with_reducible assumption)
    | (with_reducible apply keeps_wr)

theorem keeps_refreshSaves {s₀ : State} {s : State} {e : Nat} (hk : Keeps s₀ s) : Keeps s₀ (refreshSaves (s := s) (e := e)) := by
  unfold refreshSaves
  try dsimp only
  repeat' first
    | (with_reducible assumption)
    | (with_reducible apply keeps_refreshSave)
    | (with_reducible apply keeps_foldl; intro _ _ _)
    | (with_reducible apply keeps_ite)

theorem keeps_setExt {s₀ : State} {s : State} {e : Nat} {x : Extent} (hk : Keeps s₀ s) : Keeps s₀ (setExt (s := s) (e := e) (x := x)) := by
  unfold setExt
  try dsimp only
  repeat' first
    | (with_reducible assumption)
    | (with_reducible apply keeps_wr)
    | (with_reducible apply keeps_uHome)
    | (with_reducible apply keeps_refreshSaves)
    | (fail_if_no_progress (with_reducible apply keeps_lit))
    | (with_reducible apply keeps_ite)

theorem keeps_extEvent {s₀ : State} {s : State} {e : Nat} {status : Nat} (hk : Keeps s₀ s) : Keeps s₀ (extEvent (s := s) (e := e) (status := status)) := by
  unfold extEvent
  try dsimp only
  repeat' first
    | (with_reducible assumption)
    | (with_reducible apply keeps_raise)

theorem keeps_startWithdraw {s₀ : State} {s : State} {e : Nat} {new : List Right} {toOff : Bool} (hk : Keeps s₀ s) : Keeps s₀ (startWithdraw (s := s) (e := e) (new := new) (toOff := toOff)) := by
  unfold startWithdraw
  try dsimp only
  repeat' first
    | (with_reducible assumption)
    | (with_reducible apply keeps_abortWhere)
    | (with_reducible apply keeps_startWalks)
    | (with_reducible apply keeps_setExt)

theorem keeps_withdrawGo {s₀ : State} {s : State} {e : Nat} (hk : Keeps s₀ s) : Keeps s₀ (withdrawGo (s := s) (e := e)) := by
  unfold withdrawGo
  try dsimp only
  repeat' first
    | (with_reducible assumption)
    | (with_reducible apply keeps_startWithdraw)
    | (with_reducible apply keeps_ite)

theorem keeps_withdrawsGo {s₀ : State} {s : State} (hk : Keeps s₀ s) : Keeps s₀ (withdrawsGo (s := s)) := by
  unfold withdrawsGo
  try dsimp only
  repeat' first
    | (with_reducible assumption)
    | (with_reducible apply keeps_withdrawGo)
    | (with_reducible apply keeps_foldl; intro _ _ _)

theorem keeps_withdrawOn {s₀ : State} {s : State} {e : Nat} (hk : Keeps s₀ s) : Keeps s₀ (withdrawOn (s := s) (e := e)) := by
  unfold withdrawOn
  try dsimp only
  repeat' first
    | (with_reducible assumption)
    | (with_reducible apply keeps_startMove)
    | (with_reducible apply keeps_setExt)
    | (with_reducible apply keeps_withdrawGo)
    | (fail_if_no_progress (with_reducible apply keeps_lit))
    | (with_reducible apply keeps_foldl; intro _ _ _)
    | (with_reducible apply keeps_ite)
    | split

theorem keeps_extCommand {s₀ : State} {s : State} {op : Nat} {e : Nat} (hk : Keeps s₀ s) : Keeps s₀ (extCommand (s := s) (op := op) (e := e)).2 := by
  unfold extCommand
  try dsimp only
  repeat' first
    | (with_reducible assumption)
    | (with_reducible apply keeps_setExt)
    | (with_reducible apply keeps_startWithdraw)
    | (with_reducible apply keeps_withdrawOn)
    | (fail_if_no_progress (with_reducible apply keeps_lit))
    | (with_reducible apply keeps_ite)
    | split

theorem keeps_runExtCommand {s₀ : State} {s : State} (hk : Keeps s₀ s) : Keeps s₀ (runExtCommand (s := s)) := by
  unfold runExtCommand
  try dsimp only
  repeat' first
    | (with_reducible assumption)
    | (with_reducible apply keeps_wr)
    | (with_reducible apply keeps_extCommand)


theorem keeps_zeroFill {s₀ : State} {s : State} {a : ExtAttr} (hk : Keeps s₀ s) : Keeps s₀ (s.zeroFill a) := by
  unfold zeroFill
  dsimp only
  have key (t : State) (hf : t.pending = s.pending ∧ t.mem.cells = s.mem.cells.filter (fun c => !s.holdsLine a (lineOfStored c.1))
      ∧ t.regs = s.regs ∧ t.stage = s.stage) : Keeps s₀ t := by
    refine ⟨hf.1.trans hk.1, fun h => ?_⟩
    have := hk.2 h
    rw [wf_iff] at this ⊢
    rw [hf.2.1, hf.2.2.1, hf.2.2.2]
    exact ⟨Memory.wf_filter _ this.1, this.2⟩
  split
  · exact key _ ⟨rfl, rfl, rfl, rfl⟩
  · exact keeps_foldl (fun t n h => keeps_dramStore h) (key _ ⟨rfl, rfl, rfl, rfl⟩)

theorem keeps_fillDone {s₀ : State} {s : State} {e : Nat} (hk : Keeps s₀ s) : Keeps s₀ (fillDone (s := s) (e := e)) := by
  unfold fillDone
  try dsimp only
  repeat' first
    | (with_reducible assumption)
    | (with_reducible apply keeps_setExt)
    | (with_reducible apply keeps_extEvent)
    | (with_reducible apply keeps_zeroFill)
    | (fail_if_no_progress (with_reducible apply keeps_lit))
    | (with_reducible apply keeps_ite)

theorem keeps_reserveDrained {s₀ : State} {s : State} {d : Nat} (hk : Keeps s₀ s) : Keeps s₀ (reserveDrained (s := s) (d := d)) := by
  unfold reserveDrained
  try dsimp only
  repeat' first
    | (with_reducible assumption)
    | (with_reducible apply keeps_withdrawGo)
    | (with_reducible apply keeps_ite)

theorem keeps_extOff {s₀ : State} {s : State} {e : Nat} (hk : Keeps s₀ s) : Keeps s₀ (extOff (s := s) (e := e)) := by
  unfold extOff
  try dsimp only
  repeat' first
    | (with_reducible assumption)
    | (with_reducible apply keeps_wr)
    | (with_reducible apply keeps_refreshFree)
    | (with_reducible apply keeps_dropShares)
    | (with_reducible apply keeps_dropWaits)
    | (with_reducible apply keeps_setExt)
    | (with_reducible apply keeps_extEvent)
    | (with_reducible apply keeps_reserveDrained)
    | (fail_if_no_progress (with_reducible apply keeps_lit))
    | (with_reducible apply keeps_foldl; intro _ _ _)
    | (with_reducible apply keeps_ite)
    | split

theorem keeps_withdrawalDrained {s₀ : State} {s : State} {e : Nat} (hk : Keeps s₀ s) : Keeps s₀ (withdrawalDrained (s := s) (e := e)) := by
  unfold withdrawalDrained
  try dsimp only
  repeat' first
    | (with_reducible assumption)
    | (with_reducible apply keeps_startWalks)
    | (with_reducible apply keeps_dropWalks)
    | (with_reducible apply keeps_setExt)
    | (with_reducible apply keeps_extEvent)
    | (with_reducible apply keeps_extOff)
    | (fail_if_no_progress (with_reducible apply keeps_lit))
    | (with_reducible apply keeps_ite)

theorem keeps_releaseSlot {s₀ : State} {s : State} {o : Nat} (hk : Keeps s₀ s) : Keeps s₀ (releaseSlot (s := s) (o := o)) := by
  unfold releaseSlot
  try dsimp only
  repeat' first
    | (with_reducible assumption)
    | (with_reducible apply keeps_wr)
    | (with_reducible apply keeps_startWalks)


theorem keeps_slotCommand {s₀ : State} {s : State} {o cmd : Nat} (hk : Keeps s₀ s) :
    ∀ t, s.slotCommand o cmd = some t → Keeps s₀ t := by
  intro t h
  unfold slotCommand at h
  dsimp only at h
  split at h
  · split at h
    · injection h with e; subst e; exact keeps_wr hk
    · cases h
  · split at h
    · injection h with e; subst e; exact keeps_releaseSlot hk
    · cases h
  · split at h
    · injection h with e; subst e; exact keeps_startSweep hk
    · cases h
  · injection h with e; subst e; exact hk

theorem keeps_openRow {s₀ : State} {s : State} {u : Nat} {a : Nat} (hk : Keeps s₀ s) : Keeps s₀ (openRow (s := s) (u := u) (a := a)) := by
  unfold openRow
  try dsimp only
  repeat' first
    | (with_reducible assumption)
    | (with_reducible apply keeps_uCtl)

theorem keeps_issueWriteAt {s₀ : State} {s : State} {u : Nat} {i : Nat} (hk : Keeps s₀ s) : Keeps s₀ (issueWriteAt (s := s) (u := u) (i := i)) := by
  unfold issueWriteAt
  try dsimp only
  repeat' first
    | (with_reducible assumption)
    | (with_reducible apply keeps_uCtl)
    | (with_reducible apply keeps_dramStore)
    | (with_reducible apply keeps_openRow)
    | (fail_if_no_progress (with_reducible apply keeps_lit))
    | split

theorem keeps_issueReadAt {s₀ : State} {s : State} {u : Nat} {i : Nat} (hk : Keeps s₀ s) : Keeps s₀ (issueReadAt (s := s) (u := u) (i := i)) := by
  unfold issueReadAt
  try dsimp only
  repeat' first
    | (with_reducible assumption)
    | (with_reducible apply keeps_uCtl)
    | (with_reducible apply keeps_openRow)
    | (with_reducible apply keeps_issued)
    | (fail_if_no_progress (with_reducible apply keeps_lit))
    | split

theorem keeps_letIn {s₀ : State} {s : State} {u : Nat} (hk : Keeps s₀ s) : Keeps s₀ (letIn (s := s) (u := u)) := by
  unfold letIn
  try dsimp only
  repeat' first
    | (with_reducible assumption)
    | (with_reducible apply keeps_uCtl)
    | (with_reducible apply keeps_wakeDie)
    | (fail_if_no_progress (with_reducible apply keeps_lit))
    | (with_reducible apply keeps_ite)

theorem keeps_controllerIssue {s₀ : State} {s : State} {u : Nat} {starved : Nat} (hk : Keeps s₀ s) : Keeps s₀ (controllerIssue (s := s) (u := u) (starved := starved)) := by
  unfold controllerIssue
  try dsimp only
  repeat' first
    | (with_reducible assumption)
    | (with_reducible apply keeps_uCtl)
    | (with_reducible apply keeps_issueWriteAt)
    | (with_reducible apply keeps_issueReadAt)
    | (with_reducible apply keeps_letIn)
    | (with_reducible apply keeps_drain)
    | (fail_if_no_progress (with_reducible apply keeps_lit))
    | (with_reducible apply keeps_ite)
    | split

theorem keeps_unitDeliver {s₀ : State} {s : State} {p : Nat × Nat} {k : Nat} {u : Upset} (hk : Keeps s₀ s) : Keeps s₀ (unitDeliver (s := s) (p := p) (k := k) (u := u)).2.2 := by
  unfold unitDeliver
  try dsimp only
  repeat' first
    | (with_reducible assumption)
    | (with_reducible apply keeps_unitCheck)
    | (with_reducible apply keeps_reportPoison)
    | (with_reducible apply keeps_arrived)
    | (fail_if_no_progress (with_reducible apply keeps_lit))
    | (with_reducible apply keeps_uMem)
    | (exact (rfl : (_ : List Host.Cell) = _))
    | (with_reducible apply keeps_ite)
    | split

theorem keeps_unitStale {s₀ : State} {s : State} {p : Nat × Nat} {u : Upset} (hk : Keeps s₀ s) : Keeps s₀ (unitStale (s := s) (p := p) (u := u)) := by
  unfold unitStale
  try dsimp only
  repeat' first
    | (with_reducible assumption)
    | (with_reducible apply keeps_unitUncorr)
    | (with_reducible apply keeps_unitCorrected)
    | split

theorem keeps_patrolFound {s₀ : State} {s : State} {p : Nat × Nat} {wrote : Bool} {u : Upset} (hk : Keeps s₀ s) : Keeps s₀ (patrolFound (s := s) (p := p) (wrote := wrote) (u := u)) := by
  unfold patrolFound
  try dsimp only
  repeat' first
    | (with_reducible assumption)
    | (with_reducible apply keeps_dirty)
    | (with_reducible apply keeps_unitCorrected)
    | (with_reducible apply keeps_mscPut)
    | (with_reducible apply keeps_unitDeliver)
    | (fail_if_no_progress (with_reducible apply keeps_lit))
    | (with_reducible apply keeps_uMem)
    | (exact (rfl : (_ : List Host.Cell) = _))
    | (with_reducible apply keeps_ite)
    | split

theorem keeps_prefetchFound {s₀ : State} {s : State} {p : Nat × Nat} {k : Nat} {wrote : Bool} {u : Upset} (hk : Keeps s₀ s) : Keeps s₀ (prefetchFound (s := s) (p := p) (k := k) (wrote := wrote) (u := u)) := by
  unfold prefetchFound
  try dsimp only
  repeat' first
    | (with_reducible assumption)
    | (with_reducible apply keeps_mscFill)
    | (with_reducible apply keeps_unitDeliver)
    | (with_reducible apply keeps_unitStale)
    | (with_reducible apply keeps_ite)

theorem keeps_demandFound {s₀ : State} {s : State} {p : Nat × Nat} {k : Nat} {wrote : Bool} {u : Upset} (hk : Keeps s₀ s) : Keeps s₀ (demandFound (s := s) (p := p) (k := k) (wrote := wrote) (u := u)) := by
  unfold demandFound
  try dsimp only
  repeat' first
    | (with_reducible assumption)
    | (with_reducible apply keeps_wakeLine)
    | (with_reducible apply keeps_unitDeliver)
    | (with_reducible apply keeps_unitStale)
    | (with_reducible apply keeps_arrived)
    | (fail_if_no_progress (with_reducible apply keeps_lit))
    | (with_reducible apply keeps_uMem)
    | (exact (rfl : (_ : List Host.Cell) = _))
    | (with_reducible apply keeps_ite)

theorem keeps_dramReadDone {s₀ : State} {s : State} {u : Nat} {e : Upset} (hk : Keeps s₀ s) : Keeps s₀ (dramReadDone (s := s) (u := u) (e := e)) := by
  unfold dramReadDone
  try dsimp only
  repeat' first
    | (with_reducible assumption)
    | (with_reducible apply keeps_uCtl)
    | (with_reducible apply keeps_patrolFound)
    | (with_reducible apply keeps_prefetchFound)
    | (with_reducible apply keeps_demandFound)
    | (with_reducible apply keeps_issued)
    | (fail_if_no_progress (with_reducible apply keeps_lit))
    | split

theorem keeps_refreshDue {s₀ : State} {s : State} {u : Nat} {b : Nat} (hk : Keeps s₀ s) : Keeps s₀ (refreshDue (s := s) (u := u) (b := b)) := by
  unfold refreshDue
  try dsimp only
  repeat' first
    | (with_reducible assumption)
    | (with_reducible apply keeps_uCtl)
    | (fail_if_no_progress (with_reducible apply keeps_lit))
    | (with_reducible apply keeps_ite)

theorem keeps_dimmThermal {s₀ : State} {s : State} {c : Nat} {temp : Nat} {rate : Nat} (hk : Keeps s₀ s) : Keeps s₀ (dimmThermal (s := s) (c := c) (temp := temp) (rate := rate)) := by
  unfold dimmThermal
  try dsimp only
  repeat' first
    | (with_reducible assumption)
    | (with_reducible apply keeps_wr)
    | (with_reducible apply keeps_raise)
    | (with_reducible apply keeps_uCtl)
    | (fail_if_no_progress (with_reducible apply keeps_lit))
    | (with_reducible apply keeps_ite)

theorem keeps_stackThermal {s₀ : State} {s : State} {k : Nat} {temp : Nat} (hk : Keeps s₀ s) : Keeps s₀ (stackThermal (s := s) (k := k) (temp := temp)) := by
  unfold stackThermal
  try dsimp only
  repeat' first
    | (with_reducible assumption)
    | (with_reducible apply keeps_wr)
    | (with_reducible apply keeps_uCtl)

theorem keeps_setInSr {s₀ : State} {s : State} {u : Nat} {v : Nat} (hk : Keeps s₀ s) : Keeps s₀ (setInSr (s := s) (u := u) (v := v)) := by
  unfold setInSr
  try dsimp only
  repeat' first
    | (with_reducible assumption)
    | (with_reducible apply keeps_wr)
    | (with_reducible apply keeps_ite)

theorem keeps_srIdle {s₀ : State} {s : State} {u : Nat} (hk : Keeps s₀ s) : Keeps s₀ (srIdle (s := s) (u := u)) := by
  unfold srIdle
  try dsimp only
  repeat' first
    | (with_reducible assumption)
    | (with_reducible apply keeps_uCtl)
    | (fail_if_no_progress (with_reducible apply keeps_lit))
    | (with_reducible apply keeps_ite)

theorem keeps_srEntered {s₀ : State} {s : State} {u : Nat} (hk : Keeps s₀ s) : Keeps s₀ (srEntered (s := s) (u := u)) := by
  unfold srEntered
  try dsimp only
  repeat' first
    | (with_reducible assumption)
    | (with_reducible apply keeps_uCtl)
    | (with_reducible apply keeps_setInSr)
    | (fail_if_no_progress (with_reducible apply keeps_lit))
    | (with_reducible apply keeps_ite)

theorem keeps_srExit {s₀ : State} {s : State} {u : Nat} {scrub : Bool} (hk : Keeps s₀ s) : Keeps s₀ (srExit (s := s) (u := u) (scrub := scrub)) := by
  unfold srExit
  try dsimp only
  repeat' first
    | (with_reducible assumption)
    | (with_reducible apply keeps_uCtl)
    | (fail_if_no_progress (with_reducible apply keeps_lit))
    | (with_reducible apply keeps_ite)

theorem keeps_srExited {s₀ : State} {s : State} {u : Nat} (hk : Keeps s₀ s) : Keeps s₀ (srExited (s := s) (u := u)) := by
  unfold srExited
  try dsimp only
  repeat' first
    | (with_reducible assumption)
    | (with_reducible apply keeps_uCtl)
    | (with_reducible apply keeps_setInSr)
    | (fail_if_no_progress (with_reducible apply keeps_lit))
    | (with_reducible apply keeps_ite)

theorem keeps_patrolRead {s₀ : State} {s : State} {u : Nat} (hk : Keeps s₀ s) : Keeps s₀ (patrolRead (s := s) (u := u)) := by
  unfold patrolRead
  try dsimp only
  repeat' first
    | (with_reducible assumption)
    | (with_reducible apply keeps_uCtl)
    | (with_reducible apply keeps_unitAsk)
    | (fail_if_no_progress (with_reducible apply keeps_lit))
    | (with_reducible apply keeps_ite)

theorem keeps_mscFlush {s₀ : State} {s : State} {d : Nat} (hk : Keeps s₀ s) : Keeps s₀ (mscFlush (s := s) (d := d)) := by
  unfold mscFlush
  try dsimp only
  repeat' first
    | (with_reducible assumption)
    | (with_reducible apply keeps_wr)
    | (with_reducible apply keeps_dirty)
    | (with_reducible apply keeps_lineStore)
    | (with_reducible apply keeps_mscPut)
    | (fail_if_no_progress (with_reducible apply keeps_lit))
    | (with_reducible apply keeps_foldl; intro _ _ _)

theorem keeps_mscFlushed {s₀ : State} {s : State} {d : Nat} (hk : Keeps s₀ s) : Keeps s₀ (mscFlushed (s := s) (d := d)) := by
  unfold mscFlushed
  try dsimp only
  repeat' first
    | (with_reducible assumption)
    | (with_reducible apply keeps_wr)
    | (with_reducible apply keeps_ite)

theorem keeps_stackTrained {s₀ : State} {s : State} {k : Nat} {ok : Bool} (hk : Keeps s₀ s) : Keeps s₀ (stackTrained (s := s) (k := k) (ok := ok)) := by
  unfold stackTrained
  try dsimp only
  repeat' first
    | (with_reducible assumption)
    | (with_reducible apply keeps_wr)
    | (with_reducible apply keeps_histAdd)
    | (with_reducible apply keeps_ite)

theorem keeps_dimmTrained {s₀ : State} {s : State} {c : Nat} {a : Option DimmSpd} {b : Option DimmSpd} (hk : Keeps s₀ s) : Keeps s₀ (dimmTrained (s := s) (c := c) (a := a) (b := b)) := by
  unfold dimmTrained
  try dsimp only
  repeat' first
    | (with_reducible assumption)
    | (with_reducible apply keeps_wr)
    | (with_reducible apply keeps_raise)
    | (fail_if_no_progress (with_reducible apply keeps_lit))
    | (with_reducible apply keeps_uMem)
    | (exact (rfl : (_ : List Host.Cell) = _))
    | (with_reducible apply keeps_ite)

end Sys2Proof.Machine.State
end

