-- ==== Sys2Proof/Laws/KeepsCores.lean ====
section
/-! SUPPORT. Keeps (the waiting commands, the canonical tables) for the cores, their kernels and tasks, the plans and the copy engines. -/

namespace Sys2Proof.Machine.State

theorem keeps_uClu {s₀ : State} {s : State} {f : Clu → Clu} (hk : Keeps s₀ s) : Keeps s₀ (uClu (s := s) (f := f)) := by
  unfold uClu
  try dsimp only
  repeat' first
    | (with_reducible assumption)
    | (fail_if_no_progress (with_reducible apply keeps_lit))

theorem keeps_uPtu {s₀ : State} {s : State} {f : Ptu → Ptu} (hk : Keeps s₀ s) : Keeps s₀ (uPtu (s := s) (f := f)) := by
  unfold uPtu
  try dsimp only
  repeat' first
    | (with_reducible assumption)
    | (fail_if_no_progress (with_reducible apply keeps_lit))

theorem keeps_setCtx {s₀ : State} {s : State} {n : Nat} {c : Nat} {x : Context} (hk : Keeps s₀ s) : Keeps s₀ (setCtx (s := s) (n := n) (c := c) (x := x)) := by
  unfold setCtx
  try dsimp only
  repeat' first
    | (with_reducible assumption)
    | (with_reducible apply keeps_uClu)

theorem keeps_updCtx {s₀ : State} {s : State} {n : Nat} {c : Nat} {f : Context → Context} (hk : Keeps s₀ s) : Keeps s₀ (updCtx (s := s) (n := n) (c := c) (f := f)) := by
  unfold updCtx
  try dsimp only
  repeat' first
    | (with_reducible assumption)
    | (with_reducible apply keeps_uClu)

theorem keeps_refreshUsed {s₀ : State} {s : State} {n : Nat} (hk : Keeps s₀ s) : Keeps s₀ (refreshUsed (s := s) (n := n)) := by
  unfold refreshUsed
  try dsimp only
  repeat' first
    | (with_reducible assumption)
    | (with_reducible apply keeps_wr)

theorem keeps_setFlags {s₀ : State} {s : State} {n : Nat} {c : Nat} {f : Flags} (hk : Keeps s₀ s) : Keeps s₀ (setFlags (s := s) (n := n) (c := c) (f := f)) := by
  unfold setFlags
  try dsimp only
  repeat' first
    | (with_reducible assumption)
    | (with_reducible apply keeps_setReg)

theorem keeps_clearFlags {s₀ : State} {s : State} {n : Nat} {c : Nat} (hk : Keeps s₀ s) : Keeps s₀ (clearFlags (s := s) (n := n) (c := c)) := by
  unfold clearFlags
  try dsimp only
  repeat' first
    | (with_reducible assumption)
    | (with_reducible apply keeps_setReg)


theorem keeps_comeBack {s₀ : State} {s s' : State} (hk : Keeps s₀ s') : Keeps s₀ (comeBack s s') := keeps_uMem hk rfl

theorem keeps_homeRead {s₀ : State} {s : State} {pred : ExtState → Bool} {p : Nat} {off : Nat} (hk : Keeps s₀ s) : Keeps s₀ (homeRead (s := s) (pred := pred) (p := p) (off := off)).2 := by
  unfold homeRead
  try dsimp only
  repeat' first
    | (with_reducible assumption)
    | (with_reducible apply keeps_bump)
    | (with_reducible apply keeps_lookedUp)
    | (with_reducible refine keeps_unitEnter ?_ _ (by assumption))
    | (with_reducible apply keeps_settleSwept)
    | (with_reducible apply keeps_demandRead)
    | (with_reducible refine keeps_getD ?_ ?_)
    | (with_reducible apply keeps_ite)
    | split
    | (intro t ht)
    | (cases ‹some _ = some _›)
    | (cases ‹none = some _›)
    | (with_reducible refine keeps_snd (by assumption) ?_)

theorem keeps_homeWrite {s₀ : State} {s : State} {p : Nat} {die : Nat} {off : Nat} {data : LineData} {mask : Mask} (hk : Keeps s₀ s) : Keeps s₀ (homeWrite (s := s) (p := p) (die := die) (off := off) (data := data) (mask := mask)).2 := by
  unfold homeWrite
  try dsimp only
  repeat' first
    | (with_reducible assumption)
    | (with_reducible apply keeps_bump)
    | (with_reducible apply keeps_uHome)
    | (with_reducible refine keeps_unitEnter ?_ _ (by assumption))
    | (fail_if_no_progress (with_reducible apply keeps_lit))
    | (with_reducible apply keeps_ite)
    | split

theorem keeps_tcTouch {s₀ : State} {s : State} {k : Nat} (hk : Keeps s₀ s) : Keeps s₀ (tcTouch (s := s) (k := k)) := by
  unfold tcTouch
  try dsimp only
  repeat' first
    | (with_reducible assumption)
    | (with_reducible apply keeps_uPtu)

theorem keeps_tcFill {s₀ : State} {s : State} {d : Nat} {e : TcEntry} (hk : Keeps s₀ s) : Keeps s₀ (tcFill (s := s) (d := d) (e := e)) := by
  unfold tcFill
  try dsimp only
  repeat' first
    | (with_reducible assumption)
    | (with_reducible apply keeps_uPtu)
    | (with_reducible apply keeps_tcTouch)

theorem keeps_coreFill {s₀ : State} {s : State} {n : Nat} {e : TcEntry} (hk : Keeps s₀ s) : Keeps s₀ (coreFill (s := s) (n := n) (e := e)) := by
  unfold coreFill
  try dsimp only
  repeat' first
    | (with_reducible assumption)
    | (with_reducible apply keeps_draw)
    | (with_reducible apply keeps_uPtu)
    | (fail_if_no_progress (with_reducible apply keeps_lit))
    | (with_reducible apply keeps_ite)

theorem keeps_lookup {s₀ : State} {s : State} {n : Nat} {asid : Nat} {va : Nat} {need : Nat} (hk : Keeps s₀ s) : Keeps s₀ (lookup (s := s) (n := n) (asid := asid) (va := va) (need := need)).2 := by
  unfold lookup
  try dsimp only
  repeat' first
    | (with_reducible assumption)
    | (with_reducible apply keeps_tcTouch)
    | (with_reducible apply keeps_coreFill)
    | (with_reducible apply keeps_ite)
    | split

theorem keeps_readAsd {s₀ : State} {s : State} {asid : Nat} (hk : Keeps s₀ s) : Keeps s₀ (readAsd (s := s) (asid := asid)).2 := by
  unfold readAsd
  try dsimp only
  repeat' first
    | (with_reducible assumption)
    | (with_reducible apply keeps_homeRead)
    | (with_reducible apply keeps_ite)
    | split
    | (with_reducible refine keeps_snd (by assumption) ?_)

theorem keeps_dropWaiter {s₀ : State} {s : State} {key : Nat} (hk : Keeps s₀ s) : Keeps s₀ (dropWaiter (s := s) (key := key)) := by
  unfold dropWaiter
  try dsimp only
  repeat' first
    | (with_reducible assumption)
    | (with_reducible apply keeps_uPtu)

theorem keeps_refreshWalks {s₀ : State} {s : State} {d : Nat} (hk : Keeps s₀ s) : Keeps s₀ (refreshWalks (s := s) (d := d)) := by
  unfold refreshWalks
  try dsimp only
  repeat' first
    | (with_reducible assumption)
    | (with_reducible apply keeps_wr)

theorem keeps_askWalk {s₀ : State} {s : State} {d : Nat} {asid : Nat} {va : Nat} {need : Nat} {waiter : Nat} (hk : Keeps s₀ s) : Keeps s₀ (askWalk (s := s) (d := d) (asid := asid) (va := va) (need := need) (waiter := waiter)) := by
  unfold askWalk
  try dsimp only
  repeat' first
    | (with_reducible assumption)
    | (with_reducible apply keeps_bump)
    | (with_reducible apply keeps_uPtu)
    | (with_reducible apply keeps_readAsd)
    | (with_reducible apply keeps_refreshWalks)
    | (fail_if_no_progress (with_reducible apply keeps_lit))
    | (with_reducible apply keeps_ite)
    | split
    | (intro t ht)
    | (cases ‹some _ = some _›)
    | (cases ‹none = some _›)
    | (with_reducible refine keeps_snd (by assumption) ?_)

theorem keeps_ctxSend {s₀ : State} {s : State} {n : Core} {c : Ctx} {x : Context} {q : Packet} {why : OutFor} {stream : Bool} (hk : Keeps s₀ s) : Keeps s₀ (ctxSend (s := s) (n := n) (c := c) (x := x) (q := q) (why := why) (stream := stream)) := by
  unfold ctxSend
  try dsimp only
  repeat' first
    | (with_reducible assumption)
    | (with_reducible apply keeps_send)
    | (fail_if_no_progress (with_reducible apply keeps_lit))
    | split

theorem keeps_txUse {s₀ : State} {s : State} {n : Core} {c : Ctx} {x : Context} {fabric : Nat} (hk : Keeps s₀ s) : Keeps s₀ (txUse (s := s) (n := n) (c := c) (x := x) (fabric := fabric)).2 := by
  unfold txUse
  try dsimp only
  repeat' first
    | (with_reducible assumption)
    | (with_reducible apply keeps_abortTxn)
    | (with_reducible apply keeps_updCtx)
    | (fail_if_no_progress (with_reducible apply keeps_lit))
    | (with_reducible apply keeps_ite)
    | split

theorem keeps_reserveRec {s₀ : State} {s : State} {r : Ring} {q : Nat} (hk : Keeps s₀ s) : Keeps s₀ (reserveRec (s := s) (r := r) (q := q)) := by
  unfold reserveRec
  try dsimp only
  repeat' first
    | (with_reducible assumption)
    | (with_reducible apply keeps_uClu)

theorem keeps_unreserve {s₀ : State} {s : State} {r : Ring} {q : Nat} (hk : Keeps s₀ s) : Keeps s₀ (unreserve (s := s) (r := r) (q := q)) := by
  unfold unreserve
  try dsimp only
  repeat' first
    | (with_reducible assumption)
    | (with_reducible apply keeps_uClu)

theorem keeps_queueFail {s₀ : State} {s : State} {r : Ring} {q : Nat} {status : Nat} (hk : Keeps s₀ s) : Keeps s₀ (queueFail (s := s) (r := r) (q := q) (status := status)) := by
  unfold queueFail
  try dsimp only
  repeat' first
    | (with_reducible assumption)
    | (with_reducible apply keeps_wr)
    | (with_reducible apply keeps_raise)

theorem keeps_writeRec {s₀ : State} {s : State} {r : Ring} {q : Nat} {rec_ : List Byte} (hk : Keeps s₀ s) : Keeps s₀ (writeRec (s := s) (r := r) (q := q) (rec_ := rec_)) := by
  unfold writeRec
  try dsimp only
  repeat' first
    | (with_reducible assumption)
    | (with_reducible apply keeps_wr)
    | (with_reducible apply keeps_uClu)
    | (with_reducible apply keeps_homeWrite)
    | (with_reducible apply keeps_queueFail)
    | (fail_if_no_progress (with_reducible apply keeps_lit))
    | (with_reducible apply keeps_ite)

theorem keeps_readEntry {s₀ : State} {s : State} {r : Ring} {q : Nat} {size : Nat} (hk : Keeps s₀ s) : Keeps s₀ (readEntry (s := s) (r := r) (q := q) (size := size)).2 := by
  unfold readEntry
  try dsimp only
  repeat' first
    | (with_reducible assumption)
    | (with_reducible apply keeps_homeRead)
    | split
    | (with_reducible refine keeps_snd (by assumption) ?_)

theorem keeps_advanceHead {s₀ : State} {s : State} {r : Ring} {q : Nat} (hk : Keeps s₀ s) : Keeps s₀ (advanceHead (s := s) (r := r) (q := q)) := by
  unfold advanceHead
  try dsimp only
  repeat' first
    | (with_reducible assumption)
    | (with_reducible apply keeps_wr)
    | (with_reducible apply keeps_uClu)
    | (fail_if_no_progress (with_reducible apply keeps_lit))
    | (with_reducible apply keeps_ite)

theorem keeps_beginTest {s₀ : State} {s : State} {n : Nat} {why : TestFor} (hk : Keeps s₀ s) : Keeps s₀ (beginTest (s := s) (n := n) (why := why)) := by
  unfold beginTest
  try dsimp only
  repeat' first
    | (with_reducible assumption)
    | (with_reducible apply keeps_wr)
    | (with_reducible apply keeps_uRas)
    | (with_reducible apply keeps_uClu)
    | (with_reducible apply keeps_setVcore)

theorem keeps_drainCheck {s₀ : State} {s : State} {n : Nat} (hk : Keeps s₀ s) : Keeps s₀ (drainCheck (s := s) (n := n)) := by
  unfold drainCheck
  try dsimp only
  repeat' first
    | (with_reducible assumption)
    | (with_reducible apply keeps_beginTest)
    | (with_reducible apply keeps_ite)

theorem keeps_uBuf {s₀ : State} {s : State} {n : Nat} {f : List BufLine → List BufLine} (hk : Keeps s₀ s) : Keeps s₀ (uBuf (s := s) (n := n) (f := f)) := by
  unfold uBuf
  try dsimp only
  repeat' first
    | (with_reducible assumption)
    | (with_reducible apply keeps_uClu)

theorem keeps_bufPut {s₀ : State} {s : State} {n : Nat} {b : BufLine} (hk : Keeps s₀ s) : Keeps s₀ (bufPut (s := s) (n := n) (b := b)) := by
  unfold bufPut
  try dsimp only
  repeat' first
    | (with_reducible assumption)
    | (with_reducible apply keeps_uBuf)

theorem keeps_bufDrop {s₀ : State} {s : State} {n : Nat} {c : Nat} {fabric : Nat} (hk : Keeps s₀ s) : Keeps s₀ (bufDrop (s := s) (n := n) (c := c) (fabric := fabric)) := by
  unfold bufDrop
  try dsimp only
  repeat' first
    | (with_reducible assumption)
    | (with_reducible apply keeps_uBuf)

theorem keeps_bufClear {s₀ : State} {s : State} {n : Nat} {c : Nat} (hk : Keeps s₀ s) : Keeps s₀ (bufClear (s := s) (n := n) (c := c)) := by
  unfold bufClear
  try dsimp only
  repeat' first
    | (with_reducible assumption)
    | (with_reducible apply keeps_uBuf)

theorem keeps_freeCtx {s₀ : State} {s : State} {n : Nat} {c : Nat} (hk : Keeps s₀ s) : Keeps s₀ (freeCtx (s := s) (n := n) (c := c)) := by
  unfold freeCtx
  try dsimp only
  repeat' first
    | (with_reducible assumption)
    | (with_reducible apply keeps_uClu)
    | (with_reducible apply keeps_refreshUsed)
    | (with_reducible apply keeps_dropWaiter)
    | (with_reducible apply keeps_drainCheck)
    | (with_reducible apply keeps_bufClear)

theorem keeps_abortCtxTx {s₀ : State} {s : State} {x : Context} (hk : Keeps s₀ s) : Keeps s₀ (abortCtxTx (s := s) (x := x)) := by
  unfold abortCtxTx
  try dsimp only
  repeat' first
    | (with_reducible assumption)
    | (with_reducible apply keeps_freeTxn)
    | (with_reducible apply keeps_abortTxn)
    | (with_reducible apply keeps_ite)
    | split

theorem keeps_endTask {s₀ : State} {s : State} {n : Nat} {c : Nat} {status : Nat} {detail : Nat} {killed : Bool} (hk : Keeps s₀ s) : Keeps s₀ (endTask (s := s) (n := n) (c := c) (status := status) (detail := detail) (killed := killed)) := by
  unfold endTask
  try dsimp only
  repeat' first
    | (with_reducible assumption)
    | (with_reducible apply keeps_flightSub)
    | (with_reducible apply keeps_updCtx)
    | (with_reducible apply keeps_unreserve)
    | (with_reducible apply keeps_writeRec)
    | (with_reducible apply keeps_freeCtx)
    | (fail_if_no_progress (with_reducible apply keeps_lit))
    | (with_reducible apply keeps_ite)
    | split

theorem keeps_tidyCtx {s₀ : State} {s : State} {n : Nat} {c : Nat} (hk : Keeps s₀ s) : Keeps s₀ (tidyCtx (s := s) (n := n) (c := c)) := by
  unfold tidyCtx
  try dsimp only
  repeat' first
    | (with_reducible assumption)
    | (with_reducible apply keeps_endTask)
    | (with_reducible apply keeps_ite)
    | split

theorem keeps_stopCtx {s₀ : State} {s : State} {n : Nat} {c : Nat} {status : Nat} {detail : Nat} {killed : Bool} (hk : Keeps s₀ s) : Keeps s₀ (stopCtx (s := s) (n := n) (c := c) (status := status) (detail := detail) (killed := killed)) := by
  unfold stopCtx
  try dsimp only
  repeat' first
    | (with_reducible assumption)
    | (with_reducible apply keeps_updCtx)
    | (with_reducible apply keeps_dropWaiter)
    | (with_reducible apply keeps_abortCtxTx)
    | (with_reducible apply keeps_tidyCtx)
    | (fail_if_no_progress (with_reducible apply keeps_lit))
    | split

theorem keeps_faultCtx {s₀ : State} {s : State} {n : Nat} {c : Nat} {cause : Nat} {va : Nat} (hk : Keeps s₀ s) : Keeps s₀ (faultCtx (s := s) (n := n) (c := c) (cause := cause) (va := va)) := by
  unfold faultCtx
  try dsimp only
  repeat' first
    | (with_reducible assumption)
    | (with_reducible apply keeps_bump)
    | (with_reducible apply keeps_updCtx)
    | (with_reducible apply keeps_dropWaiter)


theorem keeps_translateAll {s₀ : State} {s : State} {n c : Nat} {x : Context} {vas : List Nat} {need : Nat} (hk : Keeps s₀ s) :
    Keeps s₀ (s.translateAll n c x vas need).2 := by
  unfold translateAll
  split
  · exact hk
  · split
    · exact keeps_stopCtx hk
    · refine keeps_foldl2 (fun t a h => ?_) hk
      split
      · exact h
      · rename_i acc u _
        have k := keeps_lookup (s := u) (n := n) (asid := x.task.asid) (va := a) (need := need) h
        split <;> rename_i e <;> rw [e] at k
        · exact k
        · exact keeps_askWalk k

theorem keeps_issued {s₀ : State} {s : State} {n : Nat} {c : Nat} (hk : Keeps s₀ s) : Keeps s₀ (issued (s := s) (n := n) (c := c)) := by
  unfold issued
  try dsimp only
  repeat' first
    | (with_reducible assumption)
    | (with_reducible apply keeps_uClu)

theorem keeps_seqUncorr {s₀ : State} {s : State} {n : Core} {c : Ctx} {x : Context} (hk : Keeps s₀ s) : Keeps s₀ (seqUncorr (s := s) (n := n) (c := c) (x := x)) := by
  unfold seqUncorr
  try dsimp only
  repeat' first
    | (with_reducible assumption)
    | (with_reducible apply keeps_raise)
    | (with_reducible apply keeps_stopCtx)
    | (fail_if_no_progress (with_reducible apply keeps_lit))


theorem keeps_micro {s₀ : State} {s : State} {op : Nat} {n : Core} {c : Ctx} {w : Fetch} {f : Context → State}
    (hk : Keeps s₀ s) (hf : ∀ x, Keeps s₀ (f x)) : Keeps s₀ (s.micro op n c w f) := by
  unfold micro
  split
  · exact hk
  · split
    · exact keeps_seqUncorr hk
    · exact hf _

theorem keeps_goOn {s₀ : State} {s : State} {n : Core} {c : Ctx} {x : Context} {f : Context → Context} (hk : Keeps s₀ s) : Keeps s₀ (goOn (s := s) (n := n) (c := c) (x := x) (f := f)) := by
  unfold goOn
  try dsimp only
  repeat' first
    | (with_reducible assumption)
    | (with_reducible apply keeps_setCtx)
    | (with_reducible apply keeps_issued)

theorem keeps_parityCount {s₀ : State} {s : State} {n : Nat} {cleared : Bool} (hk : Keeps s₀ s) : Keeps s₀ (parityCount (s := s) (n := n) (cleared := cleared)) := by
  unfold parityCount
  try dsimp only
  repeat' first
    | (with_reducible assumption)
    | (with_reducible apply keeps_bump)
    | (with_reducible apply keeps_histAdd)
    | (with_reducible apply keeps_ite)

theorem keeps_scalarOut {s₀ : State} {s : State} {n : Core} {c : Ctx} {x : Context} {w : DWord} {k : Check} {srcs : List Nat} {v : DWord} (hk : Keeps s₀ s) : Keeps s₀ (scalarOut (s := s) (n := n) (c := c) (x := x) (w := w) (k := k) (srcs := srcs) (v := v)) := by
  unfold scalarOut
  try dsimp only
  repeat' first
    | (with_reducible assumption)
    | (with_reducible apply keeps_uRas)
    | (with_reducible apply keeps_stopCtx)
    | (with_reducible apply keeps_goOn)
    | (with_reducible apply keeps_parityCount)
    | (fail_if_no_progress (with_reducible apply keeps_lit))
    | (with_reducible apply keeps_ite)
    | split

theorem keeps_scalarOp {s₀ : State} {s : State} {op : Nat} {n : Core} {c : Ctx} {w : Fetch} {k : Check} {srcs : List Nat} {f : Context → DWord} (hk : Keeps s₀ s) : Keeps s₀ (scalarOp (s := s) (op := op) (n := n) (c := c) (w := w) (k := k) (srcs := srcs) (f := f)) := by
  unfold scalarOp
  try dsimp only
  repeat' first
    | (with_reducible assumption)
    | (with_reducible apply keeps_micro)
    | (with_reducible apply keeps_scalarOut)
    | (with_reducible apply keeps_ite)
    | split
    | (intro t ht)
    | (intro _ _ _ _)
    | (intro _ _ _)
    | (intro t)

theorem keeps_branchOp {s₀ : State} {s : State} {op : Nat} {n : Core} {c : Ctx} {w : Fetch} {cond : DWord → DWord → Bool} (hk : Keeps s₀ s) : Keeps s₀ (branchOp (s := s) (op := op) (n := n) (c := c) (w := w) (cond := cond)) := by
  unfold branchOp
  try dsimp only
  repeat' first
    | (with_reducible assumption)
    | (with_reducible apply keeps_setCtx)
    | (with_reducible apply keeps_issued)
    | (with_reducible apply keeps_micro)
    | (with_reducible apply keeps_goOn)
    | (fail_if_no_progress (with_reducible apply keeps_lit))
    | (with_reducible apply keeps_ite)
    | split
    | (intro t ht)
    | (intro _ _ _ _)
    | (intro _ _ _)
    | (intro t)

theorem keeps_trainCore {s₀ : State} {s : State} {n : Core} {c : Ctx} {x : Context} {va : Nat} {fabric : Nat} (hk : Keeps s₀ s) : Keeps s₀ (trainCore (s := s) (n := n) (c := c) (x := x) (va := va) (fabric := fabric)) := by
  unfold trainCore
  try dsimp only
  repeat' first
    | (with_reducible assumption)
    | (with_reducible apply keeps_uClu)
    | (with_reducible apply keeps_ctxSend)
    | (with_reducible apply keeps_txUse)
    | (fail_if_no_progress (with_reducible apply keeps_lit))
    | (with_reducible apply keeps_ite)
    | split
    | (intro t ht)
    | (cases ‹some _ = some _›)
    | (cases ‹none = some _›)
    | (with_reducible refine keeps_snd (by assumption) ?_)

theorem keeps_bufTake {s₀ : State} {s : State} {n : Nat} {c : Nat} {b : BufLine} {why : OutFor} {more : Bool} (hk : Keeps s₀ s) : Keeps s₀ (bufTake (s := s) (n := n) (c := c) (b := b) (why := why) (more := more)) := by
  unfold bufTake
  try dsimp only
  repeat' first
    | (with_reducible assumption)
    | (with_reducible apply keeps_updCtx)
    | (with_reducible apply keeps_bufDrop)
    | (with_reducible apply keeps_stopCtx)
    | split

theorem keeps_ctxAccess {s₀ : State} {s : State} {n : Core} {c : Ctx} {x : Context} {q : Packet} {tx : Option (BitVec 32)} {why : OutFor} {more : Bool} (hk : Keeps s₀ s) : Keeps s₀ (ctxAccess (s := s) (n := n) (c := c) (x := x) (q := q) (tx := tx) (why := why) (more := more)) := by
  unfold ctxAccess
  try dsimp only
  repeat' first
    | (with_reducible assumption)
    | (with_reducible apply keeps_ctxSend)
    | (with_reducible apply keeps_bufDrop)
    | (with_reducible apply keeps_bufTake)
    | (with_reducible apply keeps_ite)
    | split


theorem keeps_issueAll {s₀ : State} {n : Core} {c : Ctx} : ∀ {l : List (MemReq × Nat)} {s : State}, Keeps s₀ s → Keeps s₀ (issueAll n c l s)
  | [], _, h => h
  | (m, fabric) :: rest, s, h => by
    unfold issueAll
    split
    · exact h
    · rename_i x _
      have k := keeps_txUse (s := s) (n := n) (c := c) (x := x) (fabric := fabric) h
      apply keeps_issueAll
      dsimp only
      split <;> rename_i e <;> rw [e] at k
      · exact keeps_ctxAccess k
      · exact keeps_ctxAccess k
      · exact keeps_updCtx k

theorem keeps_memOp {s₀ : State} {s : State} {n : Core} {c : Ctx} {x : Context} {align : Nat} {vas : List Nat} {need : Nat} {reqs : List MemReq} {f : Context → Context} {train : Bool} (hk : Keeps s₀ s) : Keeps s₀ (memOp (s := s) (n := n) (c := c) (x := x) (align := align) (vas := vas) (need := need) (reqs := reqs) (f := f) (train := train)) := by
  unfold memOp
  try dsimp only
  repeat' first
    | (with_reducible assumption)
    | (with_reducible apply keeps_stopCtx)
    | (with_reducible apply keeps_translateAll)
    | (with_reducible apply keeps_goOn)
    | (with_reducible apply keeps_trainCore)
    | (with_reducible apply keeps_issueAll)
    | (with_reducible apply keeps_foldl; intro _ _ _)
    | (with_reducible apply keeps_ite)
    | split
    | (intro t ht)
    | (cases ‹some _ = some _›)
    | (cases ‹none = some _›)
    | (with_reducible refine keeps_snd (by assumption) ?_)

theorem keeps_vld {s₀ : State} {s : State} {n : Core} {c : Ctx} {w : Fetch} (hk : Keeps s₀ s) : Keeps s₀ (vld (s := s) (n := n) (c := c) (w := w)) := by
  unfold vld
  try dsimp only
  repeat' first
    | (with_reducible assumption)
    | (with_reducible apply keeps_micro)
    | (with_reducible apply keeps_memOp)
    | (with_reducible apply keeps_ite)
    | split
    | (intro t ht)
    | (intro _ _ _ _)
    | (intro _ _ _)
    | (intro t)

theorem keeps_countRf {s₀ : State} {s : State} {n : Nat} {engs : List Nat} {rf : Option RfParity} (hk : Keeps s₀ s) : Keeps s₀ (countRf (s := s) (n := n) (engs := engs) (rf := rf)) := by
  unfold countRf
  try dsimp only
  repeat' first
    | (with_reducible assumption)
    | (with_reducible apply keeps_parityCount)
    | (with_reducible apply keeps_ite)
    | split

theorem keeps_vst {s₀ : State} {s : State} {n : Core} {c : Ctx} {w : Fetch} {rf : Option RfParity} (hk : Keeps s₀ s) : Keeps s₀ (vst (s := s) (n := n) (c := c) (w := w) (rf := rf)) := by
  unfold vst
  try dsimp only
  repeat' first
    | (with_reducible assumption)
    | (with_reducible apply keeps_micro)
    | (with_reducible apply keeps_memOp)
    | (with_reducible apply keeps_countRf)
    | (with_reducible apply keeps_ite)
    | split
    | (intro t ht)
    | (intro _ _ _ _)
    | (intro _ _ _)
    | (intro t)

theorem keeps_sld {s₀ : State} {s : State} {n : Core} {c : Ctx} {w : Fetch} (hk : Keeps s₀ s) : Keeps s₀ (sld (s := s) (n := n) (c := c) (w := w)) := by
  unfold sld
  try dsimp only
  repeat' first
    | (with_reducible assumption)
    | (with_reducible apply keeps_micro)
    | (with_reducible apply keeps_memOp)
    | (fail_if_no_progress (with_reducible apply keeps_lit))
    | (with_reducible apply keeps_ite)
    | split
    | (intro t ht)
    | (intro _ _ _ _)
    | (intro _ _ _)
    | (intro t)

theorem keeps_sst {s₀ : State} {s : State} {n : Core} {c : Ctx} {w : Fetch} (hk : Keeps s₀ s) : Keeps s₀ (sst (s := s) (n := n) (c := c) (w := w)) := by
  unfold sst
  try dsimp only
  repeat' first
    | (with_reducible assumption)
    | (with_reducible apply keeps_micro)
    | (with_reducible apply keeps_memOp)
    | (with_reducible apply keeps_ite)
    | split
    | (intro t ht)
    | (intro _ _ _ _)
    | (intro _ _ _)
    | (intro t)

theorem keeps_atom {s₀ : State} {s : State} {n : Core} {c : Ctx} {w : Fetch} (hk : Keeps s₀ s) : Keeps s₀ (atom (s := s) (n := n) (c := c) (w := w)) := by
  unfold atom
  try dsimp only
  repeat' first
    | (with_reducible assumption)
    | (with_reducible apply keeps_micro)
    | (with_reducible apply keeps_memOp)
    | (fail_if_no_progress (with_reducible apply keeps_lit))
    | (with_reducible apply keeps_ite)
    | split
    | (intro t ht)
    | (intro _ _ _ _)
    | (intro _ _ _)
    | (intro t)

theorem keeps_sext {s₀ : State} {s : State} {n : Core} {c : Ctx} {w : Fetch} {rf : Option RfParity} (hk : Keeps s₀ s) : Keeps s₀ (sext (s := s) (n := n) (c := c) (w := w) (rf := rf)) := by
  unfold sext
  try dsimp only
  repeat' first
    | (with_reducible assumption)
    | (with_reducible apply keeps_stopCtx)
    | (with_reducible apply keeps_micro)
    | (with_reducible apply keeps_goOn)
    | (with_reducible apply keeps_countRf)
    | (with_reducible apply keeps_ite)
    | split
    | (intro t ht)
    | (intro _ _ _ _)
    | (intro _ _ _)
    | (intro t)

theorem keeps_waitOp {s₀ : State} {s : State} {n : Core} {c : Ctx} {w : Fetch} (hk : Keeps s₀ s) : Keeps s₀ (waitOp (s := s) (n := n) (c := c) (w := w)) := by
  unfold waitOp
  try dsimp only
  repeat' first
    | (with_reducible assumption)
    | (with_reducible apply keeps_bufClear)
    | (with_reducible apply keeps_micro)
    | (with_reducible apply keeps_goOn)
    | (with_reducible apply keeps_ite)
    | split
    | (intro t ht)
    | (intro _ _ _ _)
    | (intro _ _ _)
    | (intro t)

theorem keeps_endOp {s₀ : State} {s : State} {n : Core} {c : Ctx} {w : Fetch} (hk : Keeps s₀ s) : Keeps s₀ (endOp (s := s) (n := n) (c := c) (w := w)) := by
  unfold endOp
  try dsimp only
  repeat' first
    | (with_reducible assumption)
    | (with_reducible apply keeps_endTask)
    | (with_reducible apply keeps_micro)
    | (with_reducible apply keeps_ite)
    | split
    | (intro t ht)
    | (intro _ _ _ _)
    | (intro _ _ _)
    | (intro t)

theorem keeps_txSend {s₀ : State} {s : State} {n : Core} {c : Ctx} {x : Context} {op : Nat} {id : BitVec 32} {len : Nat} {data : Nat} {why : OutFor} (hk : Keeps s₀ s) : Keeps s₀ (txSend (s := s) (n := n) (c := c) (x := x) (op := op) (id := id) (len := len) (data := data) (why := why)) := by
  unfold txSend
  try dsimp only
  repeat' first
    | (with_reducible assumption)
    | (with_reducible apply keeps_send)
    | (with_reducible apply keeps_txOpen)
    | (fail_if_no_progress (with_reducible apply keeps_lit))
    | (with_reducible apply keeps_ite)
    | split

theorem keeps_txopen {s₀ : State} {s : State} {n : Core} {c : Ctx} {w : Fetch} (hk : Keeps s₀ s) : Keeps s₀ (txopen (s := s) (n := n) (c := c) (w := w)) := by
  unfold txopen
  try dsimp only
  repeat' first
    | (with_reducible assumption)
    | (with_reducible apply keeps_txOpen)
    | (with_reducible apply keeps_micro)
    | (with_reducible apply keeps_goOn)
    | (with_reducible apply keeps_txSend)
    | (fail_if_no_progress (with_reducible apply keeps_lit))
    | (with_reducible apply keeps_ite)
    | split
    | (intro t ht)
    | (intro _ _ _ _)
    | (intro _ _ _)
    | (intro t)

theorem keeps_txcommit {s₀ : State} {s : State} {n : Core} {c : Ctx} {w : Fetch} (hk : Keeps s₀ s) : Keeps s₀ (txcommit (s := s) (n := n) (c := c) (w := w)) := by
  unfold txcommit
  try dsimp only
  repeat' first
    | (with_reducible assumption)
    | (with_reducible apply keeps_txCommit)
    | (with_reducible apply keeps_txAbort)
    | (with_reducible apply keeps_micro)
    | (with_reducible apply keeps_goOn)
    | (with_reducible apply keeps_txSend)
    | (fail_if_no_progress (with_reducible apply keeps_lit))
    | (with_reducible apply keeps_ite)
    | split
    | (intro t ht)
    | (intro _ _ _ _)
    | (intro _ _ _)
    | (intro t)

theorem keeps_txabort {s₀ : State} {s : State} {n : Core} {c : Ctx} {w : Fetch} (hk : Keeps s₀ s) : Keeps s₀ (txabort (s := s) (n := n) (c := c) (w := w)) := by
  unfold txabort
  try dsimp only
  repeat' first
    | (with_reducible assumption)
    | (with_reducible apply keeps_txAbort)
    | (with_reducible apply keeps_micro)
    | (with_reducible apply keeps_goOn)
    | (with_reducible apply keeps_txSend)
    | (fail_if_no_progress (with_reducible apply keeps_lit))
    | (with_reducible apply keeps_ite)
    | split
    | (intro t ht)
    | (intro _ _ _ _)
    | (intro _ _ _)
    | (intro t)

theorem keeps_txchk {s₀ : State} {s : State} {n : Core} {c : Ctx} {w : Fetch} (hk : Keeps s₀ s) : Keeps s₀ (txchk (s := s) (n := n) (c := c) (w := w)) := by
  unfold txchk
  try dsimp only
  repeat' first
    | (with_reducible assumption)
    | (with_reducible apply keeps_micro)
    | (with_reducible apply keeps_goOn)
    | (with_reducible apply keeps_ite)
    | split
    | (intro t ht)
    | (intro _ _ _ _)
    | (intro _ _ _)
    | (intro t)

theorem keeps_vlds {s₀ : State} {s : State} {n : Core} {c : Ctx} {w : Fetch} {ecc : ScratchEcc} (hk : Keeps s₀ s) : Keeps s₀ (vlds (s := s) (n := n) (c := c) (w := w) (ecc := ecc)) := by
  unfold vlds
  try dsimp only
  repeat' first
    | (with_reducible assumption)
    | (with_reducible apply keeps_bump)
    | (with_reducible apply keeps_histAdd)
    | (with_reducible apply keeps_stopCtx)
    | (with_reducible apply keeps_micro)
    | (with_reducible apply keeps_goOn)
    | (with_reducible apply keeps_foldl; intro _ _ _)
    | (with_reducible apply keeps_ite)
    | split
    | (intro t ht)
    | (intro _ _ _ _)
    | (intro _ _ _)
    | (intro t)

theorem keeps_vsts {s₀ : State} {s : State} {n : Core} {c : Ctx} {w : Fetch} {rf : Option RfParity} (hk : Keeps s₀ s) : Keeps s₀ (vsts (s := s) (n := n) (c := c) (w := w) (rf := rf)) := by
  unfold vsts
  try dsimp only
  repeat' first
    | (with_reducible assumption)
    | (with_reducible apply keeps_stopCtx)
    | (with_reducible apply keeps_micro)
    | (with_reducible apply keeps_goOn)
    | (with_reducible apply keeps_countRf)
    | (fail_if_no_progress (with_reducible apply keeps_lit))
    | (with_reducible apply keeps_ite)
    | split
    | (intro t ht)
    | (intro _ _ _ _)
    | (intro _ _ _)
    | (intro t)

theorem keeps_engApply {s₀ : State} {s : State} {n : Core} {c : Ctx} {x : Context} {w : DWord} {k : Check} {e : Nat} {srcs : List Nat} {i : EngIn} {o : EngOut} (hk : Keeps s₀ s) : Keeps s₀ (engApply (s := s) (n := n) (c := c) (x := x) (w := w) (k := k) (e := e) (srcs := srcs) (i := i) (o := o)) := by
  unfold engApply
  try dsimp only
  repeat' first
    | (with_reducible assumption)
    | (with_reducible apply keeps_uRas)
    | (with_reducible apply keeps_updCtx)
    | (with_reducible apply keeps_setFlags)
    | (with_reducible apply keeps_parityCount)
    | (fail_if_no_progress (with_reducible apply keeps_lit))
    | (with_reducible apply keeps_ite)
    | split

theorem keeps_engineOp {s₀ : State} {s : State} {op : Nat} {n : Core} {c : Ctx} {w : Fetch} {k : Check} {f : EngIn → DWord → EngOut} (hk : Keeps s₀ s) : Keeps s₀ (engineOp (s := s) (op := op) (n := n) (c := c) (w := w) (k := k) (f := f)) := by
  unfold engineOp
  try dsimp only
  repeat' first
    | (with_reducible assumption)
    | (with_reducible apply keeps_stopCtx)
    | (with_reducible apply keeps_micro)
    | (with_reducible apply keeps_goOn)
    | (with_reducible apply keeps_engApply)
    | (fail_if_no_progress (with_reducible apply keeps_lit))
    | (with_reducible apply keeps_foldl; intro _ _ _)
    | (with_reducible apply keeps_ite)
    | split
    | (intro t ht)
    | (intro _ _ _ _)
    | (intro _ _ _)
    | (intro t)

theorem keeps_kernelSend {s₀ : State} {s : State} {n : Core} {c : Ctx} {va : Nat} {need : Nat} {p : Packet} {plain : Nat} {tx : Nat} {why : OutFor} {line : Bool} (hk : Keeps s₀ s) : Keeps s₀ (kernelSend (s := s) (n := n) (c := c) (va := va) (need := need) (p := p) (plain := plain) (tx := tx) (why := why) (line := line)).2 := by
  unfold kernelSend
  try dsimp only
  repeat' first
    | (with_reducible assumption)
    | (with_reducible apply keeps_txUse)
    | (with_reducible apply keeps_translateAll)
    | (with_reducible apply keeps_trainCore)
    | (with_reducible apply keeps_ctxAccess)
    | (fail_if_no_progress (with_reducible apply keeps_lit))
    | (with_reducible apply keeps_ite)
    | split
    | (intro t ht)
    | (cases ‹some _ = some _›)
    | (cases ‹none = some _›)
    | (with_reducible refine keeps_snd (by assumption) ?_)


theorem keeps_kernelReads {s₀ : State} {s : State} {n : Core} {c : Ctx} {ls : List Nat} (hk : Keeps s₀ s) :
    Keeps s₀ (s.kernelReads n c ls) := by
  unfold kernelReads
  refine keeps_foldl2 (fun t a h => ?_) hk
  split
  · exact h
  · exact keeps_kernelSend h

theorem keeps_takeWork {s₀ : State} {s : State} {n : Core} {c : Ctx} {x : Context} {w : Work} {drawn : Nat} {stage : Nat} {f : Context → Context} (hk : Keeps s₀ s) : Keeps s₀ (takeWork (s := s) (n := n) (c := c) (x := x) (w := w) (drawn := drawn) (stage := stage) (f := f)) := by
  unfold takeWork
  try dsimp only
  repeat' first
    | (with_reducible assumption)
    | (with_reducible apply keeps_setCtx)
    | (with_reducible apply keeps_setFlags)
    | (fail_if_no_progress (with_reducible apply keeps_lit))

theorem keeps_kernelStore {s₀ : State} {s : State} {n : Core} {c : Ctx} {p : KPut} (hk : Keeps s₀ s) : Keeps s₀ (kernelStore (s := s) (n := n) (c := c) (p := p)) := by
  unfold kernelStore
  try dsimp only
  repeat' first
    | (with_reducible assumption)
    | (with_reducible apply keeps_updCtx)
    | (with_reducible apply keeps_kernelSend)
    | (with_reducible apply keeps_store)
    | (fail_if_no_progress (with_reducible apply keeps_lit))
    | (with_reducible apply keeps_ite)

theorem keeps_kernelRun {s₀ : State} {s : State} {n : Core} {c : Ctx} {x : Context} {total : Nat} {plan : Context → Nat → KPlan} {done : Nat → Nat} (hk : Keeps s₀ s) : Keeps s₀ (kernelRun (s := s) (n := n) (c := c) (x := x) (total := total) (plan := plan) (done := done)) := by
  unfold kernelRun
  try dsimp only
  repeat' first
    | (with_reducible assumption)
    | (with_reducible apply keeps_setCtx)
    | (with_reducible apply keeps_endTask)
    | (with_reducible apply keeps_stopCtx)
    | (with_reducible apply keeps_kernelReads)
    | (with_reducible apply keeps_takeWork)
    | (with_reducible apply keeps_kernelStore)
    | (with_reducible apply keeps_idle)
    | (fail_if_no_progress (with_reducible apply keeps_lit))
    | (with_reducible apply keeps_ite)
    | split

theorem keeps_kernelTxn {s₀ : State} {s : State} {n : Core} {c : Ctx} {x : Context} {total : Nat} {retries : Nat} {plan : Context → Nat → KPlan} {done : Context → Nat × Nat} (hk : Keeps s₀ s) : Keeps s₀ (kernelTxn (s := s) (n := n) (c := c) (x := x) (total := total) (retries := retries) (plan := plan) (done := done)) := by
  unfold kernelTxn
  try dsimp only
  repeat' first
    | (with_reducible assumption)
    | (with_reducible apply keeps_txOpen)
    | (with_reducible apply keeps_txCommit)
    | (with_reducible apply keeps_txAbort)
    | (with_reducible apply keeps_setCtx)
    | (with_reducible apply keeps_endTask)
    | (with_reducible apply keeps_stopCtx)
    | (with_reducible apply keeps_txSend)
    | (with_reducible apply keeps_kernelReads)
    | (with_reducible apply keeps_takeWork)
    | (with_reducible apply keeps_kernelStore)
    | (with_reducible apply keeps_idle)
    | (fail_if_no_progress (with_reducible apply keeps_lit))
    | (with_reducible apply keeps_ite)
    | split

theorem keeps_streamKernel {s₀ : State} {s : State} {kind : Nat} {i : Nat} {n : Core} {c : Ctx} {plan : Context → Nat → KPlan} (hk : Keeps s₀ s) : Keeps s₀ (streamKernel (s := s) (kind := kind) (i := i) (n := n) (c := c) (plan := plan)) := by
  unfold streamKernel
  try dsimp only
  repeat' first
    | (with_reducible assumption)
    | (with_reducible apply keeps_issued)
    | (with_reducible apply keeps_kernelRun)
    | split

theorem keeps_optStep {s₀ : State} {s : State} {n : Core} {c : Ctx} (hk : Keeps s₀ s) : Keeps s₀ (optStep (s := s) (n := n) (c := c)) := by
  unfold optStep
  try dsimp only
  repeat' first
    | (with_reducible assumption)
    | (with_reducible apply keeps_issued)
    | (with_reducible apply keeps_kernelRun)
    | (with_reducible apply keeps_kernelTxn)
    | (with_reducible apply keeps_ite)
    | split

theorem keeps_decodeAttn {s₀ : State} {s : State} {n : Core} {c : Ctx} (hk : Keeps s₀ s) : Keeps s₀ (decodeAttn (s := s) (n := n) (c := c)) := by
  unfold decodeAttn
  try dsimp only
  repeat' first
    | (with_reducible assumption)
    | (with_reducible apply keeps_issued)
    | (with_reducible apply keeps_kernelRun)
    | (fail_if_no_progress (with_reducible apply keeps_lit))
    | split

theorem keeps_gatherReduce {s₀ : State} {s : State} {n : Core} {c : Ctx} (hk : Keeps s₀ s) : Keeps s₀ (gatherReduce (s := s) (n := n) (c := c)) := by
  unfold gatherReduce
  try dsimp only
  repeat' first
    | (with_reducible assumption)
    | (with_reducible apply keeps_issued)
    | (with_reducible apply keeps_kernelRun)
    | split

theorem keeps_casPlain {s₀ : State} {s : State} {n : Core} {c : Ctx} {x : Context} (hk : Keeps s₀ s) : Keeps s₀ (casPlain (s := s) (n := n) (c := c) (x := x)) := by
  unfold casPlain
  try dsimp only
  repeat' first
    | (with_reducible assumption)
    | (with_reducible apply keeps_setCtx)
    | (with_reducible apply keeps_updCtx)
    | (with_reducible apply keeps_endTask)
    | (with_reducible apply keeps_stopCtx)
    | (with_reducible apply keeps_kernelSend)
    | (with_reducible apply keeps_kernelReads)
    | (with_reducible apply keeps_idle)
    | (fail_if_no_progress (with_reducible apply keeps_lit))
    | (with_reducible apply keeps_ite)
    | split

theorem keeps_casSweep {s₀ : State} {s : State} {n : Core} {c : Ctx} (hk : Keeps s₀ s) : Keeps s₀ (casSweep (s := s) (n := n) (c := c)) := by
  unfold casSweep
  try dsimp only
  repeat' first
    | (with_reducible assumption)
    | (with_reducible apply keeps_issued)
    | (with_reducible apply keeps_kernelTxn)
    | (with_reducible apply keeps_casPlain)
    | (with_reducible apply keeps_ite)
    | split

theorem keeps_userStart {s₀ : State} {s : State} {n : Core} {c : Ctx} (hk : Keeps s₀ s) : Keeps s₀ (userStart (s := s) (n := n) (c := c)) := by
  unfold userStart
  try dsimp only
  repeat' first
    | (with_reducible assumption)
    | (with_reducible apply keeps_setCtx)
    | (with_reducible apply keeps_issued)
    | (fail_if_no_progress (with_reducible apply keeps_lit))
    | (with_reducible apply keeps_ite)
    | split


theorem keeps_dispatch {s₀ : State} {s : State} {d q : Nat} {want : Nat → Bool} {f : State → List Byte → Nat → State}
    (hk : Keeps s₀ s) (hf : ∀ t b i, Keeps s₀ t → Keeps s₀ (f t b i)) : Keeps s₀ (s.dispatch d q want f) := by
  unfold dispatch
  split
  · exact hk
  · split
    · exact hk
    · have k := keeps_readEntry (r := .host) (q := q) (size := 64) hk
      split <;> rename_i e <;> rw [e] at k
      · exact k
      · exact keeps_queueFail k
      · split
        · exact hk
        · exact keeps_advanceHead (hf _ _ _ (keeps_reserveRec (keeps_uClu k)))

theorem keeps_commandRec {s₀ : State} {s : State} {q : Nat} {status : Nat} {tag : Nat} (hk : Keeps s₀ s) : Keeps s₀ (commandRec (s := s) (q := q) (status := status) (tag := tag)) := by
  unfold commandRec
  try dsimp only
  repeat' first
    | (with_reducible assumption)
    | (with_reducible apply keeps_unreserve)
    | (with_reducible apply keeps_writeRec)

theorem keeps_unstartedEnd {s₀ : State} {s : State} {t : Task} {status : Nat} {flags : Nat} (hk : Keeps s₀ s) : Keeps s₀ (unstartedEnd (s := s) (t := t) (status := status) (flags := flags)) := by
  unfold unstartedEnd
  try dsimp only
  repeat' first
    | (with_reducible assumption)
    | (with_reducible apply keeps_unreserve)
    | (with_reducible apply keeps_writeRec)
    | split

theorem keeps_taskEntry {s₀ : State} {s : State} {q : Nat} {b : List Byte} {idx : Nat} (hk : Keeps s₀ s) : Keeps s₀ (taskEntry (s := s) (q := q) (b := b) (idx := idx)) := by
  unfold taskEntry
  try dsimp only
  repeat' first
    | (with_reducible assumption)
    | (with_reducible apply keeps_uClu)
    | (with_reducible apply keeps_commandRec)
    | (with_reducible apply keeps_unstartedEnd)
    | (fail_if_no_progress (with_reducible apply keeps_lit))
    | (with_reducible apply keeps_ite)

theorem keeps_enterCore {s₀ : State} {s : State} {n : Nat} {c : Nat} {x : Context} (hk : Keeps s₀ s) : Keeps s₀ (enterCore (s := s) (n := n) (c := c) (x := x)) := by
  unfold enterCore
  try dsimp only
  repeat' first
    | (with_reducible assumption)
    | (with_reducible apply keeps_flightAdd)
    | (with_reducible apply keeps_uClu)
    | (with_reducible apply keeps_setCtx)
    | (with_reducible apply keeps_refreshUsed)
    | (fail_if_no_progress (with_reducible apply keeps_lit))
    | (with_reducible apply keeps_ite)

theorem keeps_fetchDesc {s₀ : State} {s : State} {n : Core} {c : Ctx} (hk : Keeps s₀ s) : Keeps s₀ (fetchDesc (s := s) (n := n) (c := c)) := by
  unfold fetchDesc
  try dsimp only
  repeat' first
    | (with_reducible assumption)
    | (with_reducible apply keeps_kernelReads)
    | (with_reducible apply keeps_ite)
    | split

theorem keeps_placeSaved {s₀ : State} {s : State} {v : Saved} {n : Nat} {c : Nat} (hk : Keeps s₀ s) : Keeps s₀ (placeSaved (s := s) (v := v) (n := n) (c := c)) := by
  unfold placeSaved
  try dsimp only
  repeat' first
    | (with_reducible assumption)
    | (with_reducible apply keeps_uClu)
    | (with_reducible apply keeps_enterCore)

theorem keeps_placeHead {s₀ : State} {s : State} {q : Nat} (hk : Keeps s₀ s) : Keeps s₀ (placeHead (s := s) (q := q)) := by
  unfold placeHead
  try dsimp only
  repeat' first
    | (with_reducible assumption)
    | (with_reducible apply keeps_uClu)
    | (with_reducible apply keeps_clearFlags)
    | (with_reducible apply keeps_enterCore)
    | (with_reducible apply keeps_fetchDesc)
    | (fail_if_no_progress (with_reducible apply keeps_lit))
    | (with_reducible apply keeps_ite)
    | split

theorem keeps_placement {s₀ : State} {s : State} {q : Nat} (hk : Keeps s₀ s) : Keeps s₀ (placement (s := s) (q := q)) := by
  unfold placement
  try dsimp only
  repeat' first
    | (with_reducible assumption)
    | (with_reducible apply keeps_placeSaved)
    | (with_reducible apply keeps_placeHead)
    | split

theorem keeps_taskStart {s₀ : State} {s : State} {n : Core} {c : Ctx} (hk : Keeps s₀ s) : Keeps s₀ (taskStart (s := s) (n := n) (c := c)) := by
  unfold taskStart
  try dsimp only
  repeat' first
    | (with_reducible assumption)
    | (with_reducible apply keeps_setCtx)
    | (with_reducible apply keeps_clearFlags)
    | (with_reducible apply keeps_stopCtx)
    | (with_reducible apply keeps_fetchDesc)
    | (fail_if_no_progress (with_reducible apply keeps_lit))
    | (with_reducible apply keeps_ite)
    | split


theorem keeps_walkFrom {s₀ : State} {p asid va : Nat} : ∀ (n : Nat) {t : Nat} {s : State}, Keeps s₀ s →
    Keeps s₀ (walkFrom p asid va n t s).2
  | n, t, s, h => by
    unfold walkFrom
    dsimp only
    have k := keeps_homeRead (pred := (· == .on)) (p := p) (off := t + 8 * levelIndex va n) h
    split <;> rename_i e <;> rw [e] at k <;> try exact k
    split; · exact k
    split; · exact k
    split
    · split <;> exact k
    · split
      · exact k
      · split
        · exact k
        · exact keeps_walkFrom _ k

theorem keeps_answerWaiter {s₀ : State} {s : State} {w : Nat × Nat × Nat} {r : Option TcEntry} {cause : Nat} (hk : Keeps s₀ s) : Keeps s₀ (answerWaiter (s := s) (w := w) (r := r) (cause := cause)) := by
  unfold answerWaiter
  try dsimp only
  repeat' first
    | (with_reducible assumption)
    | (with_reducible apply keeps_bump)
    | (with_reducible apply keeps_faultCtx)
    | (fail_if_no_progress (with_reducible apply keeps_lit))
    | (with_reducible apply keeps_ite)
    | split

theorem keeps_endWalk {s₀ : State} {s : State} {k : Nat} {w : PWalk} {r : Option TcEntry} {cause : Nat} (hk : Keeps s₀ s) : Keeps s₀ (endWalk (s := s) (k := k) (w := w) (r := r) (cause := cause)) := by
  unfold endWalk
  try dsimp only
  repeat' first
    | (with_reducible assumption)
    | (with_reducible apply keeps_uPtu)
    | (with_reducible apply keeps_tcFill)
    | (with_reducible apply keeps_coreFill)
    | (with_reducible apply keeps_refreshWalks)
    | (with_reducible apply keeps_answerWaiter)
    | (fail_if_no_progress (with_reducible apply keeps_lit))
    | (with_reducible apply keeps_foldl; intro _ _ _)
    | (with_reducible apply keeps_ite)
    | split

theorem keeps_updWalk {s₀ : State} {s : State} {k : Nat} {f : PWalk → PWalk} (hk : Keeps s₀ s) : Keeps s₀ (updWalk (s := s) (k := k) (f := f)) := by
  unfold updWalk
  try dsimp only
  repeat' first
    | (with_reducible assumption)
    | (with_reducible apply keeps_uPtu)

theorem keeps_walkCheck {s₀ : State} {s : State} {k : Nat} {w : PWalk} {gen : Nat} {r : Option TcEntry} {cause : Nat} {back : State} (hk : Keeps s₀ s) : Keeps s₀ (walkCheck (s := s) (k := k) (w := w) (gen := gen) (r := r) (cause := cause) (back := back)) := by
  unfold walkCheck
  try dsimp only
  repeat' first
    | (with_reducible assumption)
    | (with_reducible apply keeps_comeBack)
    | (with_reducible apply keeps_readAsd)
    | (with_reducible apply keeps_endWalk)
    | (with_reducible apply keeps_updWalk)
    | (fail_if_no_progress (with_reducible apply keeps_lit))
    | split
    | (intro t ht)
    | (cases ‹some _ = some _›)
    | (cases ‹none = some _›)
    | (with_reducible refine keeps_snd (by assumption) ?_)

theorem keeps_walkDone {s₀ : State} {s : State} {k : Nat} (hk : Keeps s₀ s) : Keeps s₀ (walkDone (s := s) (k := k)) := by
  unfold walkDone
  try dsimp only
  repeat' first
    | (with_reducible assumption)
    | (with_reducible apply keeps_comeBack)
    | (with_reducible apply keeps_readAsd)
    | (with_reducible apply keeps_endWalk)
    | (with_reducible apply keeps_updWalk)
    | (with_reducible apply keeps_walkCheck)
    | (with_reducible apply keeps_walkFrom)
    | (fail_if_no_progress (with_reducible apply keeps_lit))
    | (with_reducible apply keeps_ite)
    | split
    | (intro t ht)
    | (cases ‹some _ = some _›)
    | (cases ‹none = some _›)
    | (with_reducible refine keeps_snd (by assumption) ?_)

theorem keeps_walkRestart {s₀ : State} {s : State} {k : Nat} (hk : Keeps s₀ s) : Keeps s₀ (walkRestart (s := s) (k := k)) := by
  unfold walkRestart
  try dsimp only
  repeat' first
    | (with_reducible assumption)
    | (with_reducible apply keeps_readAsd)
    | (with_reducible apply keeps_endWalk)
    | (with_reducible apply keeps_updWalk)
    | (fail_if_no_progress (with_reducible apply keeps_lit))
    | (with_reducible apply keeps_ite)
    | split
    | (intro t ht)
    | (cases ‹some _ = some _›)
    | (cases ‹none = some _›)
    | (with_reducible refine keeps_snd (by assumption) ?_)

theorem keeps_startBatch {s₀ : State} {s : State} {batch : List InvCmd} (hk : Keeps s₀ s) : Keeps s₀ (startBatch (s := s) (batch := batch)) := by
  unfold startBatch
  try dsimp only
  repeat' first
    | (with_reducible assumption)
    | (with_reducible apply keeps_wr)
    | (with_reducible apply keeps_uClu)
    | (with_reducible apply keeps_uPtu)
    | (fail_if_no_progress (with_reducible apply keeps_lit))
    | (with_reducible apply keeps_foldl; intro _ _ _)

theorem keeps_invalidateEntry {s₀ : State} {s : State} {q : Nat} {b : List Byte} (hk : Keeps s₀ s) : Keeps s₀ (invalidateEntry (s := s) (q := q) (b := b)) := by
  unfold invalidateEntry
  try dsimp only
  repeat' first
    | (with_reducible assumption)
    | (with_reducible apply keeps_uPtu)
    | (with_reducible apply keeps_commandRec)
    | (with_reducible apply keeps_startBatch)
    | (fail_if_no_progress (with_reducible apply keeps_lit))
    | (with_reducible apply keeps_ite)

theorem keeps_nextBatch {s₀ : State} {s : State} (hk : Keeps s₀ s) : Keeps s₀ (nextBatch (s := s)) := by
  unfold nextBatch
  try dsimp only
  repeat' first
    | (with_reducible assumption)
    | (with_reducible apply keeps_wr)
    | (with_reducible apply keeps_uPtu)
    | (with_reducible apply keeps_startBatch)
    | (fail_if_no_progress (with_reducible apply keeps_lit))
    | (with_reducible apply keeps_foldl; intro _ _ _)
    | (with_reducible apply keeps_ite)

theorem keeps_invalidateDrained {s₀ : State} {s : State} (hk : Keeps s₀ s) : Keeps s₀ (invalidateDrained (s := s)) := by
  unfold invalidateDrained
  try dsimp only
  repeat' first
    | (with_reducible assumption)
    | (with_reducible apply keeps_commandRec)
    | (with_reducible apply keeps_nextBatch)
    | (with_reducible apply keeps_foldl; intro _ _ _)
    | (with_reducible apply keeps_ite)

theorem keeps_dropCommands {s₀ : State} {s : State} {queues : List Nat} (hk : Keeps s₀ s) : Keeps s₀ (dropCommands (s := s) (queues := queues)) := by
  unfold dropCommands
  try dsimp only
  repeat' first
    | (with_reducible assumption)
    | (with_reducible apply keeps_uPtu)
    | (with_reducible apply keeps_nextBatch)
    | (fail_if_no_progress (with_reducible apply keeps_lit))
    | (with_reducible apply keeps_ite)


theorem keeps_saveLines {s₀ : State} {s : State} {x : Context} {slot : Nat} (hk : Keeps s₀ s) : Keeps s₀ (s.saveLines x slot) := by
  unfold saveLines
  dsimp only
  split
  · exact hk
  · exact keeps_memOf (t := { s with free := s.free + 32 }) (keeps_lit hk) (keeps_foldl (fun _ _ h => keeps_writeLine h) hk)

theorem keeps_flushRecs {s₀ : State} {s : State} (hk : Keeps s₀ s) : Keeps s₀ (flushRecs (s := s)) := by
  unfold flushRecs
  try dsimp only
  repeat' first
    | (with_reducible assumption)
    | (with_reducible apply keeps_uClu)
    | (with_reducible apply keeps_writeRec)
    | (fail_if_no_progress (with_reducible apply keeps_lit))
    | (with_reducible apply keeps_foldl; intro _ _ _)
    | (with_reducible apply keeps_ite)

theorem keeps_faultRec {s₀ : State} {s : State} {n : Nat} {x : Context} {cause : Nat} {va : Nat} {saved : Bool} {flags : Nat} (hk : Keeps s₀ s) : Keeps s₀ (faultRec (s := s) (n := n) (x := x) (cause := cause) (va := va) (saved := saved) (flags := flags)) := by
  unfold faultRec
  try dsimp only
  repeat' first
    | (with_reducible assumption)
    | (with_reducible apply keeps_uClu)
    | (with_reducible apply keeps_flushRecs)
    | (fail_if_no_progress (with_reducible apply keeps_lit))
    | split

theorem keeps_killCtx {s₀ : State} {s : State} {n : Nat} {c : Nat} {x : Context} (hk : Keeps s₀ s) : Keeps s₀ (killCtx (s := s) (n := n) (c := c) (x := x)) := by
  unfold killCtx
  try dsimp only
  repeat' first
    | (with_reducible assumption)
    | (with_reducible apply keeps_txAbort)
    | (with_reducible apply keeps_stopCtx)
    | (with_reducible apply keeps_ite)

theorem keeps_saveDone {s₀ : State} {s : State} {n : Nat} {c : Nat} (hk : Keeps s₀ s) : Keeps s₀ (saveDone (s := s) (n := n) (c := c)) := by
  unfold saveDone
  try dsimp only
  repeat' first
    | (with_reducible assumption)
    | (with_reducible apply keeps_flightSub)
    | (with_reducible apply keeps_refreshSave)
    | (with_reducible apply keeps_uClu)
    | (with_reducible apply keeps_setCtx)
    | (with_reducible apply keeps_freeCtx)
    | (with_reducible apply keeps_stopCtx)
    | (with_reducible apply keeps_saveLines)
    | (with_reducible apply keeps_faultRec)
    | (with_reducible apply keeps_killCtx)
    | (fail_if_no_progress (with_reducible apply keeps_lit))
    | (with_reducible apply keeps_ite)
    | split

theorem keeps_resumeTask {s₀ : State} {s : State} {q : Nat} {b : List Byte} (hk : Keeps s₀ s) : Keeps s₀ (resumeTask (s := s) (q := q) (b := b)) := by
  unfold resumeTask
  try dsimp only
  repeat' first
    | (with_reducible assumption)
    | (with_reducible apply keeps_uClu)
    | (with_reducible apply keeps_setCtx)
    | (with_reducible apply keeps_commandRec)
    | (fail_if_no_progress (with_reducible apply keeps_lit))
    | (with_reducible apply keeps_ite)
    | split

theorem keeps_endSaved {s₀ : State} {s : State} {v : Saved} {status : Nat} {detail : Nat} {killed : Bool} (hk : Keeps s₀ s) : Keeps s₀ (endSaved (s := s) (v := v) (status := status) (detail := detail) (killed := killed)) := by
  unfold endSaved
  try dsimp only
  repeat' first
    | (with_reducible assumption)
    | (with_reducible apply keeps_refreshSave)
    | (with_reducible apply keeps_uClu)
    | (with_reducible apply keeps_unreserve)
    | (with_reducible apply keeps_writeRec)
    | (fail_if_no_progress (with_reducible apply keeps_lit))
    | split

theorem keeps_leaveSlot {s₀ : State} {s : State} {n : Nat} {c : Nat} {p : Nat} {slot : Nat} (hk : Keeps s₀ s) : Keeps s₀ (leaveSlot (s := s) (n := n) (c := c) (p := p) (slot := slot)) := by
  unfold leaveSlot
  try dsimp only
  repeat' first
    | (with_reducible assumption)
    | (with_reducible apply keeps_refreshSave)
    | (with_reducible apply keeps_uClu)
    | (with_reducible apply keeps_setFlags)
    | (with_reducible apply keeps_clearFlags)

theorem keeps_killTask {s₀ : State} {s : State} {q : Nat} {b : List Byte} (hk : Keeps s₀ s) : Keeps s₀ (killTask (s := s) (q := q) (b := b)) := by
  unfold killTask
  try dsimp only
  repeat' first
    | (with_reducible assumption)
    | (with_reducible apply keeps_txAbort)
    | (with_reducible apply keeps_uClu)
    | (with_reducible apply keeps_setCtx)
    | (with_reducible apply keeps_abortCtxTx)
    | (with_reducible apply keeps_commandRec)
    | (with_reducible apply keeps_unstartedEnd)
    | (with_reducible apply keeps_killCtx)
    | (with_reducible apply keeps_endSaved)
    | (with_reducible apply keeps_leaveSlot)
    | (fail_if_no_progress (with_reducible apply keeps_lit))
    | (with_reducible apply keeps_ite)
    | split

theorem keeps_restoreDone {s₀ : State} {s : State} {n : Nat} {c : Nat} {crcOk : Bool} (hk : Keeps s₀ s) : Keeps s₀ (restoreDone (s := s) (n := n) (c := c) (crcOk := crcOk)) := by
  unfold restoreDone
  try dsimp only
  repeat' first
    | (with_reducible assumption)
    | (with_reducible apply keeps_setCtx)
    | (with_reducible apply keeps_stopCtx)
    | (with_reducible apply keeps_leaveSlot)
    | (with_reducible apply keeps_ite)
    | split

theorem keeps_seqResult {s₀ : State} {s : State} {st : Nat} {idx : Nat} {rule : Nat} (hk : Keeps s₀ s) : Keeps s₀ (seqResult (s := s) (st := st) (idx := idx) (rule := rule)) := by
  unfold seqResult
  try dsimp only
  repeat' first
    | (with_reducible assumption)
    | (with_reducible apply keeps_wr)


theorem keeps_seqRead {s₀ : State} {p : Nat} : ∀ (n : Nat) {off : Nat} {acc : List Byte} {s : State}, Keeps s₀ s →
    Keeps s₀ (seqRead p n off acc s).2
  | 0, _, _, _, h => h
  | n + 1, off, acc, s, h => by
    unfold seqRead
    have k := keeps_homeRead (pred := (· == .on)) (p := p) (off := off) h
    split <;> rename_i e <;> rw [e] at k
    · exact k
    · exact k
    · split
      · exact k
      · exact keeps_seqRead n k

theorem keeps_seqLoad {s₀ : State} {s : State} (hk : Keeps s₀ s) : Keeps s₀ (seqLoad (s := s)) := by
  unfold seqLoad
  try dsimp only
  repeat' first
    | (with_reducible assumption)
    | (with_reducible apply keeps_wr)
    | (with_reducible apply keeps_comeBack)
    | (with_reducible apply keeps_seqResult)
    | (with_reducible apply keeps_seqRead)
    | (fail_if_no_progress (with_reducible apply keeps_lit))
    | (with_reducible apply keeps_ite)
    | split
    | (intro t ht)
    | (cases ‹some _ = some _›)
    | (cases ‹none = some _›)
    | (with_reducible refine keeps_snd (by assumption) ?_)

theorem keeps_seqUnload {s₀ : State} {s : State} (hk : Keeps s₀ s) : Keeps s₀ (seqUnload (s := s)) := by
  unfold seqUnload
  try dsimp only
  repeat' first
    | (with_reducible assumption)
    | (with_reducible apply keeps_seqResult)
    | (fail_if_no_progress (with_reducible apply keeps_lit))
    | (with_reducible apply keeps_ite)

theorem keeps_seqCommand {s₀ : State} {s : State} {op : Nat} {own : Option Nat} (hk : Keeps s₀ s) : Keeps s₀ (seqCommand (s := s) (op := op) (own := own)) := by
  unfold seqCommand
  try dsimp only
  repeat' first
    | (with_reducible assumption)
    | (with_reducible apply keeps_seqResult)
    | (with_reducible apply keeps_seqLoad)
    | (with_reducible apply keeps_seqUnload)
    | (with_reducible apply keeps_ite)
    | split

theorem keeps_seqRetry {s₀ : State} {s : State} (hk : Keeps s₀ s) : Keeps s₀ (seqRetry (s := s)) := by
  unfold seqRetry
  try dsimp only
  repeat' first
    | (with_reducible assumption)
    | (with_reducible apply keeps_seqLoad)
    | (with_reducible apply keeps_ite)

theorem keeps_uCol {s₀ : State} {s : State} {f : Col → Col} (hk : Keeps s₀ s) : Keeps s₀ (uCol (s := s) (f := f)) := by
  unfold uCol
  try dsimp only
  repeat' first
    | (with_reducible assumption)
    | (fail_if_no_progress (with_reducible apply keeps_lit))

theorem keeps_setPlan {s₀ : State} {s : State} {p : Nat} {x : Plan} (hk : Keeps s₀ s) : Keeps s₀ (setPlan (s := s) (p := p) (x := x)) := by
  unfold setPlan
  try dsimp only
  repeat' first
    | (with_reducible assumption)
    | (with_reducible apply keeps_uCol)

theorem keeps_planEvent {s₀ : State} {s : State} {p : Nat} (hk : Keeps s₀ s) : Keeps s₀ (planEvent (s := s) (p := p)) := by
  unfold planEvent
  try dsimp only
  repeat' first
    | (with_reducible assumption)
    | (with_reducible apply keeps_raise)

theorem keeps_colSend {s₀ : State} {s : State} {p : Nat} {i : Nat} {op : Nat} {chan : Nat} {status : Nat} {addr : Nat} {len : Nat} {data : LineData} {poison : Bool} {fence : Bool} (hk : Keeps s₀ s) : Keeps s₀ (colSend (s := s) (p := p) (i := i) (op := op) (chan := chan) (status := status) (addr := addr) (len := len) (data := data) (poison := poison) (fence := fence)) := by
  unfold colSend
  try dsimp only
  repeat' first
    | (with_reducible assumption)
    | (with_reducible apply keeps_send)
    | (with_reducible apply keeps_fence)
    | (fail_if_no_progress (with_reducible apply keeps_lit))
    | (with_reducible apply keeps_ite)
    | split

theorem keeps_copyRecord {s₀ : State} {s : State} {p : Nat} (hk : Keeps s₀ s) : Keeps s₀ (copyRecord (s := s) (p := p)) := by
  unfold copyRecord
  try dsimp only
  repeat' first
    | (with_reducible assumption)
    | (with_reducible apply keeps_wr)
    | (with_reducible apply keeps_setPlan)
    | (with_reducible apply keeps_planEvent)
    | (with_reducible apply keeps_colSend)
    | (with_reducible apply keeps_seqRead)
    | (fail_if_no_progress (with_reducible apply keeps_lit))
    | (with_reducible apply keeps_foldl; intro _ _ _)
    | (with_reducible apply keeps_ite)
    | split
    | (intro t ht)
    | (cases ‹some _ = some _›)
    | (cases ‹none = some _›)
    | (with_reducible refine keeps_snd (by assumption) ?_)

theorem keeps_startArm {s₀ : State} {s : State} {p : Nat} {src : Nat} (hk : Keeps s₀ s) : Keeps s₀ (startArm (s := s) (p := p) (src := src)) := by
  unfold startArm
  try dsimp only
  repeat' first
    | (with_reducible assumption)
    | (with_reducible apply keeps_wr)
    | (with_reducible apply keeps_setPlan)
    | (with_reducible apply keeps_copyRecord)

theorem keeps_planOff {s₀ : State} {s : State} {p : Nat} (hk : Keeps s₀ s) : Keeps s₀ (planOff (s := s) (p := p)) := by
  unfold planOff
  try dsimp only
  repeat' first
    | (with_reducible assumption)
    | (with_reducible apply keeps_wr)
    | (with_reducible apply keeps_withdrawsGo)
    | (with_reducible apply keeps_setPlan)
    | (with_reducible apply keeps_planEvent)
    | (with_reducible apply keeps_startArm)
    | (fail_if_no_progress (with_reducible apply keeps_lit))
    | (with_reducible apply keeps_ite)

theorem keeps_disarmOf {s₀ : State} {s : State} {p : Nat} {told : PlanRec → List Nat} (hk : Keeps s₀ s) : Keeps s₀ (disarmOf (s := s) (p := p) (told := told)) := by
  unfold disarmOf
  try dsimp only
  repeat' first
    | (with_reducible assumption)
    | (with_reducible apply keeps_wr)
    | (with_reducible apply keeps_setPlan)
    | (with_reducible apply keeps_colSend)
    | (with_reducible apply keeps_planOff)
    | (fail_if_no_progress (with_reducible apply keeps_lit))
    | (with_reducible apply keeps_foldl; intro _ _ _)
    | (with_reducible apply keeps_ite)
    | split

theorem keeps_disarm {s₀ : State} {s : State} {p : Nat} (hk : Keeps s₀ s) : Keeps s₀ (disarm (s := s) (p := p)) := by
  unfold disarm
  try dsimp only
  repeat' first
    | (with_reducible assumption)
    | (with_reducible apply keeps_disarmOf)

theorem keeps_spoilLine {s₀ : State} {s : State} {may : Nat → Extent → Bool} {a : Nat} (hk : Keeps s₀ s) : Keeps s₀ (spoilLine (s := s) (may := may) (a := a)) := by
  unfold spoilLine
  try dsimp only
  repeat' first
    | (with_reducible assumption)
    | (with_reducible apply keeps_reportWrite)
    | (with_reducible apply keeps_freeLineAt)
    | (with_reducible apply keeps_ite)
    | split

theorem keeps_spoilRun {s₀ : State} {s : State} {p : Nat} (hk : Keeps s₀ s) : Keeps s₀ (spoilRun (s := s) (p := p)) := by
  unfold spoilRun
  try dsimp only
  repeat' first
    | (with_reducible assumption)
    | (with_reducible apply keeps_spoilLine)
    | (with_reducible apply keeps_foldl; intro _ _ _)
    | split

theorem keeps_abortPlan {s₀ : State} {s : State} {p : Nat} {cause : Nat} {failed : Option Nat} (hk : Keeps s₀ s) : Keeps s₀ (abortPlan (s := s) (p := p) (cause := cause) (failed := failed)) := by
  unfold abortPlan
  try dsimp only
  repeat' first
    | (with_reducible assumption)
    | (with_reducible apply keeps_wr)
    | (with_reducible apply keeps_wrB)
    | (with_reducible apply keeps_bump)
    | (with_reducible apply keeps_raise)
    | (with_reducible apply keeps_stopCtx)
    | (with_reducible apply keeps_colSend)
    | (with_reducible apply keeps_disarmOf)
    | (with_reducible apply keeps_spoilRun)
    | (with_reducible apply keeps_colAbort)
    | (fail_if_no_progress (with_reducible apply keeps_lit))
    | (with_reducible apply keeps_foldl; intro _ _ _)
    | (with_reducible apply keeps_ite)

theorem keeps_abortPlans {s₀ : State} {s : State} {cause : Nat} {pred : Nat → Plan → Option (Option Nat)} (hk : Keeps s₀ s) : Keeps s₀ (abortPlans (s := s) (cause := cause) (pred := pred)) := by
  unfold abortPlans
  try dsimp only
  repeat' first
    | (with_reducible assumption)
    | (with_reducible apply keeps_abortPlan)
    | (with_reducible apply keeps_foldl; intro _ _ _)
    | split

theorem keeps_loseParticipants {s₀ : State} {s : State} {pred : Endpoint → Bool} (hk : Keeps s₀ s) : Keeps s₀ (loseParticipants (s := s) (pred := pred)) := by
  unfold loseParticipants
  try dsimp only
  repeat' first
    | (with_reducible assumption)
    | (with_reducible apply keeps_abortPlans)

theorem keeps_plansOfExtent {s₀ : State} {s : State} {e : Nat} (hk : Keeps s₀ s) : Keeps s₀ (plansOfExtent (s := s) (e := e)) := by
  unfold plansOfExtent
  try dsimp only
  repeat' first
    | (with_reducible assumption)
    | (with_reducible apply keeps_abortPlans)

theorem keeps_planCommand {s₀ : State} {s : State} {p : Nat} {op : Nat} (hk : Keeps s₀ s) : Keeps s₀ (planCommand (s := s) (p := p) (op := op)) := by
  unfold planCommand
  try dsimp only
  repeat' first
    | (with_reducible assumption)
    | (with_reducible apply keeps_wr)
    | (with_reducible apply keeps_setPlan)
    | (with_reducible apply keeps_startArm)
    | (with_reducible apply keeps_disarm)
    | (with_reducible apply keeps_abortPlan)
    | (fail_if_no_progress (with_reducible apply keeps_lit))
    | (with_reducible apply keeps_ite)

theorem keeps_endArm {s₀ : State} {s : State} {p : Nat} {status : Nat} (hk : Keeps s₀ s) : Keeps s₀ (endArm (s := s) (p := p) (status := status)) := by
  unfold endArm
  try dsimp only
  repeat' first
    | (with_reducible assumption)
    | (with_reducible apply keeps_wr)
    | (with_reducible apply keeps_disarm)

theorem keeps_armAnswer {s₀ : State} {s : State} {q : Packet} (hk : Keeps s₀ s) : Keeps s₀ (armAnswer (s := s) (q := q)) := by
  unfold armAnswer
  try dsimp only
  repeat' first
    | (with_reducible assumption)
    | (with_reducible apply keeps_wr)
    | (with_reducible apply keeps_setPlan)
    | (with_reducible apply keeps_planEvent)
    | (with_reducible apply keeps_endArm)
    | (fail_if_no_progress (with_reducible apply keeps_lit))
    | (with_reducible apply keeps_ite)
    | split

theorem keeps_disarmAnswer {s₀ : State} {s : State} {q : Packet} (hk : Keeps s₀ s) : Keeps s₀ (disarmAnswer (s := s) (q := q)) := by
  unfold disarmAnswer
  try dsimp only
  repeat' first
    | (with_reducible assumption)
    | (with_reducible apply keeps_setPlan)
    | (with_reducible apply keeps_planOff)
    | (fail_if_no_progress (with_reducible apply keeps_lit))
    | (with_reducible apply keeps_ite)
    | split

theorem keeps_armTimeout {s₀ : State} {s : State} {p : Nat} (hk : Keeps s₀ s) : Keeps s₀ (armTimeout (s := s) (p := p)) := by
  unfold armTimeout
  try dsimp only
  repeat' first
    | (with_reducible assumption)
    | (with_reducible apply keeps_planOff)
    | (with_reducible apply keeps_endArm)
    | (with_reducible apply keeps_ite)

theorem keeps_launch {s₀ : State} {s : State} {p : Nat} (hk : Keeps s₀ s) : Keeps s₀ (launch (s := s) (p := p)) := by
  unfold launch
  try dsimp only
  repeat' first
    | (with_reducible assumption)
    | (with_reducible apply keeps_draw)
    | (with_reducible apply keeps_clearFlags)
    | (with_reducible apply keeps_enterCore)
    | (fail_if_no_progress (with_reducible apply keeps_lit))
    | (with_reducible apply keeps_foldl; intro _ _ _)
    | (with_reducible apply keeps_ite)
    | split

theorem keeps_launchAll {s₀ : State} {s : State} (hk : Keeps s₀ s) : Keeps s₀ (launchAll (s := s)) := by
  unfold launchAll
  try dsimp only
  repeat' first
    | (with_reducible assumption)
    | (with_reducible apply keeps_launch)
    | (with_reducible apply keeps_foldl; intro _ _ _)

theorem keeps_countOut {s₀ : State} {s : State} {p : Nat} {n : Nat} (hk : Keeps s₀ s) : Keeps s₀ (countOut (s := s) (p := p) (n := n)) := by
  unfold countOut
  try dsimp only
  repeat' first
    | (with_reducible assumption)
    | (with_reducible apply keeps_uCol)

theorem keeps_deliverLine {s₀ : State} {s : State} {p : Nat} {e : Nat} {dest : Nat} {data : LineData} {poison : Bool} (hk : Keeps s₀ s) : Keeps s₀ (deliverLine (s := s) (p := p) (e := e) (dest := dest) (data := data) (poison := poison)) := by
  unfold deliverLine
  try dsimp only
  repeat' first
    | (with_reducible assumption)
    | (with_reducible apply keeps_setPlan)
    | (with_reducible apply keeps_colSend)
    | (with_reducible apply keeps_countOut)
    | (fail_if_no_progress (with_reducible apply keeps_lit))
    | (with_reducible apply keeps_ite)

theorem keeps_deliverChunk {s₀ : State} {s : State} {p : Nat} {c : Nat} {r : PlanRec} (hk : Keeps s₀ s) : Keeps s₀ (deliverChunk (s := s) (p := p) (c := c) (r := r)) := by
  unfold deliverChunk
  try dsimp only
  repeat' first
    | (with_reducible assumption)
    | (with_reducible apply keeps_setPlan)
    | (with_reducible apply keeps_countOut)
    | (with_reducible apply keeps_deliverLine)
    | (fail_if_no_progress (with_reducible apply keeps_lit))
    | (with_reducible apply keeps_foldl; intro _ _ _)
    | (with_reducible apply keeps_ite)

theorem keeps_finishRun {s₀ : State} {s : State} {p : Nat} (hk : Keeps s₀ s) : Keeps s₀ (finishRun (s := s) (p := p)) := by
  unfold finishRun
  try dsimp only
  repeat' first
    | (with_reducible assumption)
    | (with_reducible apply keeps_wr)
    | (with_reducible apply keeps_bump)
    | (with_reducible apply keeps_setPlan)
    | (with_reducible apply keeps_colSend)
    | (fail_if_no_progress (with_reducible apply keeps_lit))
    | (with_reducible apply keeps_foldl; intro _ _ _)
    | (with_reducible apply keeps_ite)
    | split

theorem keeps_updRun {s₀ : State} {s : State} {p : Nat} {f : PlanRun → PlanRun} (hk : Keeps s₀ s) : Keeps s₀ (updRun (s := s) (p := p) (f := f)) := by
  unfold updRun
  try dsimp only
  repeat' first
    | (with_reducible assumption)
    | (with_reducible apply keeps_setPlan)

theorem keeps_writeResult {s₀ : State} {s : State} {p : Nat} {r : PlanRec} {off : Nat} {data : LineData} {poison : Bool} (hk : Keeps s₀ s) : Keeps s₀ (writeResult (s := s) (p := p) (r := r) (off := off) (data := data) (poison := poison)) := by
  unfold writeResult
  try dsimp only
  repeat' first
    | (with_reducible assumption)
    | (with_reducible apply keeps_send)
    | (with_reducible apply keeps_countOut)
    | (with_reducible apply keeps_updRun)
    | (fail_if_no_progress (with_reducible apply keeps_lit))
    | split

theorem keeps_resultNext {s₀ : State} {s : State} {d : Nat} (hk : Keeps s₀ s) : Keeps s₀ (resultNext (s := s) (d := d)) := by
  unfold resultNext
  try dsimp only
  repeat' first
    | (with_reducible assumption)
    | (with_reducible apply keeps_updRun)
    | (with_reducible apply keeps_writeResult)
    | (fail_if_no_progress (with_reducible apply keeps_lit))
    | (with_reducible apply keeps_ite)
    | split

theorem keeps_bufWrite {s₀ : State} {s : State} {r : PlanRec} {b : Nat} {data : LineData} {poison : Bool} (hk : Keeps s₀ s) : Keeps s₀ (bufWrite (s := s) (r := r) (b := b) (data := data) (poison := poison)) := by
  unfold bufWrite
  try dsimp only
  repeat' first
    | (with_reducible assumption)
    | (with_reducible apply keeps_writeLine)
    | split

theorem keeps_colPut {s₀ : State} {s : State} {q : Packet} (hk : Keeps s₀ s) : Keeps s₀ (colPut (s := s) (q := q)) := by
  unfold colPut
  try dsimp only
  repeat' first
    | (with_reducible assumption)
    | (with_reducible apply keeps_wr)
    | (with_reducible apply keeps_bump)
    | (with_reducible apply keeps_taken)
    | (with_reducible apply keeps_uCol)
    | (with_reducible apply keeps_setPlan)
    | (with_reducible apply keeps_abortPlan)
    | (with_reducible apply keeps_launch)
    | (with_reducible apply keeps_deliverLine)
    | (with_reducible apply keeps_finishRun)
    | (with_reducible apply keeps_writeResult)
    | (with_reducible apply keeps_bufWrite)
    | (fail_if_no_progress (with_reducible apply keeps_lit))
    | (with_reducible apply keeps_foldl; intro _ _ _)
    | (with_reducible apply keeps_ite)
    | split

theorem keeps_colAbort {s₀ : State} {s : State} {q : Packet} (hk : Keeps s₀ s) : Keeps s₀ (colAbort (s := s) (q := q)) := by
  unfold colAbort
  try dsimp only
  repeat' first
    | (with_reducible assumption)
    | (with_reducible apply keeps_taken)
    | (with_reducible apply keeps_abortPlan)
    | (with_reducible apply keeps_ite)
    | split

theorem keeps_planTaskEnded {s₀ : State} {s : State} {t : Context} {p : Nat} {st : Nat} (hk : Keeps s₀ s) : Keeps s₀ (planTaskEnded (s := s) (t := t) (p := p) (st := st)) := by
  unfold planTaskEnded
  try dsimp only
  repeat' first
    | (with_reducible assumption)
    | (with_reducible apply keeps_setPlan)
    | (with_reducible apply keeps_abortPlan)
    | (with_reducible apply keeps_launchAll)
    | (with_reducible apply keeps_deliverChunk)
    | (with_reducible apply keeps_finishRun)
    | (fail_if_no_progress (with_reducible apply keeps_lit))
    | (with_reducible apply keeps_ite)
    | split

theorem keeps_taskEnded {s₀ : State} {s : State} {n : Nat} {c : Nat} (hk : Keeps s₀ s) : Keeps s₀ (taskEnded (s := s) (n := n) (c := c)) := by
  unfold taskEnded
  try dsimp only
  repeat' first
    | (with_reducible assumption)
    | (with_reducible apply keeps_flightSub)
    | (with_reducible apply keeps_withdrawsGo)
    | (with_reducible apply keeps_freeCtx)
    | (with_reducible apply keeps_planTaskEnded)
    | split

theorem keeps_runTimeout {s₀ : State} {s : State} {p : Nat} (hk : Keeps s₀ s) : Keeps s₀ (runTimeout (s := s) (p := p)) := by
  unfold runTimeout
  try dsimp only
  repeat' first
    | (with_reducible assumption)
    | (with_reducible apply keeps_abortPlan)
    | (with_reducible apply keeps_ite)

theorem keeps_refreshRsv {s₀ : State} {s : State} {n : Nat} (hk : Keeps s₀ s) : Keeps s₀ (refreshRsv (s := s) (n := n)) := by
  unfold refreshRsv
  try dsimp only
  repeat' first
    | (with_reducible assumption)
    | (with_reducible apply keeps_wr)

theorem keeps_setRsv {s₀ : State} {s : State} {n : Nat} {l : List Rsv} (hk : Keeps s₀ s) : Keeps s₀ (setRsv (s := s) (n := n) (l := l)) := by
  unfold setRsv
  try dsimp only
  repeat' first
    | (with_reducible assumption)
    | (with_reducible apply keeps_uCol)
    | (with_reducible apply keeps_refreshRsv)

theorem keeps_installRsv {s₀ : State} {s : State} {n : Nat} {planNode : Nat} {plan : Nat} {gen : Nat} {dst : Endpoint} {credits : Nat} (hk : Keeps s₀ s) : Keeps s₀ (installRsv (s := s) (n := n) (planNode := planNode) (plan := plan) (gen := gen) (dst := dst) (credits := credits)).2 := by
  unfold installRsv
  try dsimp only
  repeat' first
    | (with_reducible assumption)
    | (with_reducible apply keeps_setRsv)
    | (with_reducible apply keeps_ite)
    | split

theorem keeps_removeRsv {s₀ : State} {s : State} {planNode : Nat} {plan : Nat} {gen : Nat} {dst : Endpoint} {unit : Endpoint} (hk : Keeps s₀ s) : Keeps s₀ (removeRsv (s := s) (planNode := planNode) (plan := plan) (gen := gen) (dst := dst) (unit := unit)) := by
  unfold removeRsv
  try dsimp only
  repeat' first
    | (with_reducible assumption)
    | (with_reducible apply keeps_setRsv)
    | (with_reducible apply keeps_foldl; intro _ _ _)

theorem keeps_purgeRsv {s₀ : State} {s : State} {n : Nat} (hk : Keeps s₀ s) : Keeps s₀ (purgeRsv (s := s) (n := n)) := by
  unfold purgeRsv
  try dsimp only
  repeat' first
    | (with_reducible assumption)
    | (with_reducible apply keeps_setRsv)
    | (fail_if_no_progress (with_reducible apply keeps_lit))

theorem keeps_uRun {s₀ : State} {s : State} {x : Nat} {f : CopyRun → CopyRun} (hk : Keeps s₀ s) : Keeps s₀ (uRun (s := s) (x := x) (f := f)) := by
  unfold uRun
  try dsimp only
  repeat' first
    | (with_reducible assumption)
    | (fail_if_no_progress (with_reducible apply keeps_lit))

theorem keeps_copySend {s₀ : State} {s : State} {x : CopyEngine} {u : CopyRun} {q : Packet} {why : OutFor} (hk : Keeps s₀ s) : Keeps s₀ (copySend (s := s) (x := x) (u := u) (q := q) (why := why)) := by
  unfold copySend
  try dsimp only
  repeat' first
    | (with_reducible assumption)
    | (with_reducible apply keeps_send)
    | (fail_if_no_progress (with_reducible apply keeps_lit))
    | split

theorem keeps_copyPump {s₀ : State} {s : State} {x : CopyEngine} (hk : Keeps s₀ s) : Keeps s₀ (copyPump (s := s) (x := x)) := by
  unfold copyPump
  try dsimp only
  repeat' first
    | (with_reducible assumption)
    | (with_reducible apply keeps_uRun)
    | (with_reducible apply keeps_copySend)
    | (fail_if_no_progress (with_reducible apply keeps_lit))
    | (with_reducible apply keeps_foldl; intro _ _ _)
    | (with_reducible apply keeps_ite)
    | split

theorem keeps_copyRec {s₀ : State} {s : State} {x : Nat} {u : CopyRun} {status : Nat} {detail : Nat} {va : Nat} {killed : Bool} (hk : Keeps s₀ s) : Keeps s₀ (copyRec (s := s) (x := x) (u := u) (status := status) (detail := detail) (va := va) (killed := killed)) := by
  unfold copyRec
  try dsimp only
  repeat' first
    | (with_reducible assumption)
    | (with_reducible apply keeps_unreserve)
    | (with_reducible apply keeps_writeRec)
    | (with_reducible apply keeps_ite)

theorem keeps_copyEnd {s₀ : State} {s : State} {x : Nat} {u : CopyRun} {status : Nat} {detail : Nat} {va : Nat} {killed : Bool} (hk : Keeps s₀ s) : Keeps s₀ (copyEnd (s := s) (x := x) (u := u) (status := status) (detail := detail) (va := va) (killed := killed)) := by
  unfold copyEnd
  try dsimp only
  repeat' first
    | (with_reducible assumption)
    | (with_reducible apply keeps_wr)
    | (with_reducible apply keeps_flightSub)
    | (with_reducible apply keeps_tryWaits)
    | (with_reducible apply keeps_copyRec)
    | (fail_if_no_progress (with_reducible apply keeps_lit))

theorem keeps_copyTake {s₀ : State} {s : State} {x : Nat} {q : Nat} (hk : Keeps s₀ s) : Keeps s₀ (copyTake (s := s) (x := x) (q := q)) := by
  unfold copyTake
  try dsimp only
  repeat' first
    | (with_reducible assumption)
    | (with_reducible apply keeps_wr)
    | (with_reducible apply keeps_flightAdd)
    | (with_reducible apply keeps_reserveRec)
    | (with_reducible apply keeps_queueFail)
    | (with_reducible apply keeps_readEntry)
    | (with_reducible apply keeps_advanceHead)
    | (with_reducible apply keeps_copyRec)
    | (fail_if_no_progress (with_reducible apply keeps_lit))
    | (with_reducible apply keeps_ite)
    | split
    | (intro t ht)
    | (cases ‹some _ = some _›)
    | (cases ‹none = some _›)
    | (with_reducible refine keeps_snd (by assumption) ?_)

theorem keeps_pageKnown {s₀ : State} {s : State} {x : Nat} {u : CopyRun} {asid : Nat} {page : Nat} {need : Nat} (hk : Keeps s₀ s) : Keeps s₀ (pageKnown (s := s) (x := x) (u := u) (asid := asid) (page := page) (need := need)).2 := by
  unfold pageKnown
  try dsimp only
  repeat' first
    | (with_reducible assumption)
    | (with_reducible apply keeps_tcTouch)
    | (fail_if_no_progress (with_reducible apply keeps_lit))
    | split


theorem keeps_askPages {s₀ : State} {s : State} {x : Nat} {u : CopyRun} {asid need : Nat} {pages : List Nat} (hk : Keeps s₀ s) :
    Keeps s₀ (s.askPages x u asid need pages).2.2 := by
  unfold askPages
  refine keeps_foldl22 (fun t a h => ?_) hk
  dsimp only
  have k := keeps_pageKnown (x := x) (u := u) (asid := asid) (page := a) (need := need) h
  split <;> rename_i e <;> rw [e] at k
  · exact k
  · exact keeps_askWalk k

theorem keeps_copyStop {s₀ : State} {s : State} {x : Nat} {st : Nat} {detail : Nat} {va : Nat} (hk : Keeps s₀ s) : Keeps s₀ (copyStop (s := s) (x := x) (st := st) (detail := detail) (va := va)) := by
  unfold copyStop
  try dsimp only
  repeat' first
    | (with_reducible assumption)
    | (with_reducible apply keeps_uRun)

theorem keeps_tileTranslate {s₀ : State} {s : State} {x : CopyEngine} (hk : Keeps s₀ s) : Keeps s₀ (tileTranslate (s := s) (x := x)) := by
  unfold tileTranslate
  try dsimp only
  repeat' first
    | (with_reducible assumption)
    | (with_reducible apply keeps_wrB)
    | (with_reducible apply keeps_copySend)
    | (with_reducible apply keeps_copyPump)
    | (with_reducible apply keeps_askPages)
    | (with_reducible apply keeps_copyStop)
    | (fail_if_no_progress (with_reducible apply keeps_lit))
    | (with_reducible apply keeps_ite)
    | split

theorem keeps_spoilTile {s₀ : State} {s : State} {u : CopyRun} (hk : Keeps s₀ s) : Keeps s₀ (spoilTile (s := s) (u := u)) := by
  unfold spoilTile
  try dsimp only
  repeat' first
    | (with_reducible assumption)
    | (with_reducible apply keeps_spoilLine)
    | (with_reducible apply keeps_foldl; intro _ _ _)

theorem keeps_tileDone {s₀ : State} {s : State} {x : Nat} (hk : Keeps s₀ s) : Keeps s₀ (tileDone (s := s) (x := x)) := by
  unfold tileDone
  try dsimp only
  repeat' first
    | (with_reducible assumption)
    | (with_reducible apply keeps_bump)
    | (with_reducible apply keeps_copyEnd)
    | (with_reducible apply keeps_spoilTile)
    | (fail_if_no_progress (with_reducible apply keeps_lit))
    | (with_reducible apply keeps_ite)
    | split

theorem keeps_xfrRing {s₀ : State} {s : State} {q : Packet} (hk : Keeps s₀ s) : Keeps s₀ (xfrRing (s := s) (q := q)) := by
  unfold xfrRing
  try dsimp only
  repeat' first
    | (with_reducible assumption)
    | (with_reducible apply keeps_wr)
    | (with_reducible apply keeps_taken)
    | (with_reducible apply keeps_respond)
    | (with_reducible apply keeps_ite)

theorem keeps_abortQueue {s₀ : State} {s : State} {q : Nat} (hk : Keeps s₀ s) : Keeps s₀ (abortQueue (s := s) (q := q)) := by
  unfold abortQueue
  try dsimp only
  repeat' first
    | (with_reducible assumption)
    | (with_reducible apply keeps_wr)
    | (fail_if_no_progress (with_reducible apply keeps_lit))

end Sys2Proof.Machine.State
end

