-- ==== Sys2Proof/Laws/KeepsFabric.lean ====
section
/-! SUPPORT. Keeps (the waiting commands, the canonical tables) for the ports, the switches, the links and their lanes, the periods and the responses. -/

namespace Sys2Proof.Machine.State

theorem keeps_setLink {s₀ : State} {s : State} {n : Nat} {p : PortLink} (hk : Keeps s₀ s) : Keeps s₀ (setLink (s := s) (n := n) (p := p)) := by
  unfold setLink
  try dsimp only
  repeat' first
    | (with_reducible assumption)
    | (fail_if_no_progress (with_reducible apply keeps_lit))

theorem keeps_uLink {s₀ : State} {s : State} {n : Nat} {f : PortLink → PortLink} (hk : Keeps s₀ s) : Keeps s₀ (uLink (s := s) (n := n) (f := f)) := by
  unfold uLink
  try dsimp only
  repeat' first
    | (with_reducible assumption)
    | (with_reducible apply keeps_setLink)

theorem keeps_uQos {s₀ : State} {s : State} {f : Qos → Qos} (hk : Keeps s₀ s) : Keeps s₀ (uQos (s := s) (f := f)) := by
  unfold uQos
  try dsimp only
  repeat' first
    | (with_reducible assumption)
    | (fail_if_no_progress (with_reducible apply keeps_lit))

theorem keeps_inflightSubs {s₀ : State} {s : State} {d : Nat} {banks : List Bool} (hk : Keeps s₀ s) : Keeps s₀ (inflightSubs (s := s) (d := d) (banks := banks)) := by
  unfold inflightSubs
  try dsimp only
  repeat' first
    | (with_reducible assumption)
    | (with_reducible apply keeps_inflightSub)
    | (with_reducible apply keeps_foldl; intro _ _ _)

theorem keeps_arrived {s₀ : State} {s : State} {n : Nat} {q : Packet} (hk : Keeps s₀ s) : Keeps s₀ (arrived (s := s) (n := n) (q := q)) := by
  unfold arrived
  try dsimp only
  repeat' first
    | (with_reducible assumption)
    | (with_reducible apply keeps_inflightAdd)
    | (with_reducible apply keeps_ite)

theorem keeps_unarrived {s₀ : State} {s : State} {n : Nat} {q : Packet} (hk : Keeps s₀ s) : Keeps s₀ (unarrived (s := s) (n := n) (q := q)) := by
  unfold unarrived
  try dsimp only
  repeat' first
    | (with_reducible assumption)
    | (with_reducible apply keeps_inflightSub)
    | (with_reducible apply keeps_ite)

theorem keeps_bridgeErr {s₀ : State} {s : State} {h : Nat} {up : Bool} {double : Bool} (hk : Keeps s₀ s) : Keeps s₀ (bridgeErr (s := s) (h := h) (up := up) (double := double)) := by
  unfold bridgeErr
  try dsimp only
  repeat' first
    | (with_reducible assumption)
    | (with_reducible apply keeps_uFab)
    | (with_reducible apply keeps_raise)
    | (with_reducible apply keeps_histAdd)
    | (fail_if_no_progress (with_reducible apply keeps_lit))
    | (with_reducible apply keeps_ite)

theorem keeps_cross {s₀ : State} {s : State} {a : Nat} {b : Nat} {e : BridgeErr} {q : Packet} (hk : Keeps s₀ s) : Keeps s₀ (cross (s := s) (a := a) (b := b) (e := e) (q := q)).2 := by
  unfold cross
  try dsimp only
  repeat' first
    | (with_reducible assumption)
    | (with_reducible apply keeps_bridgeErr)
    | (fail_if_no_progress (with_reducible apply keeps_lit))
    | split

theorem keeps_latency {s₀ : State} {s : State} {n : Nat} {p : Packet} (hk : Keeps s₀ s) : Keeps s₀ (latency (s := s) (n := n) (p := p)) := by
  unfold latency
  try dsimp only
  repeat' first
    | (with_reducible assumption)
    | (with_reducible apply keeps_draw)
    | (with_reducible apply keeps_uQos)
    | (fail_if_no_progress (with_reducible apply keeps_lit))
    | split

theorem keeps_toPort {s₀ : State} {s : State} {n : Nat} {p : Packet} (hk : Keeps s₀ s) : Keeps s₀ (toPort (s := s) (n := n) (p := p)) := by
  unfold toPort
  try dsimp only
  repeat' first
    | (with_reducible assumption)
    | (with_reducible apply keeps_inflightAdd)
    | (with_reducible apply keeps_uLink)
    | (with_reducible apply keeps_latency)
    | (fail_if_no_progress (with_reducible apply keeps_lit))
    | (with_reducible apply keeps_ite)

theorem keeps_refreshFence {s₀ : State} {s : State} {d : Nat} (hk : Keeps s₀ s) : Keeps s₀ (refreshFence (s := s) (d := d)) := by
  unfold refreshFence
  try dsimp only
  repeat' first
    | (with_reducible assumption)
    | (with_reducible apply keeps_wr)

theorem keeps_fenceLost {s₀ : State} {s : State} {d : Nat} {p : Option Packet} (hk : Keeps s₀ s) : Keeps s₀ (fenceLost (s := s) (d := d) (p := p)) := by
  unfold fenceLost
  try dsimp only
  repeat' first
    | (with_reducible assumption)
    | (with_reducible apply keeps_bump)
    | (with_reducible apply keeps_respond)
    | (with_reducible apply keeps_ite)
    | split

theorem keeps_fenceDone {s₀ : State} {s : State} {d : Nat} {p : Packet} {port : Option Nat} (hk : Keeps s₀ s) : Keeps s₀ (fenceDone (s := s) (d := d) (p := p) (port := port)) := by
  unfold fenceDone
  try dsimp only
  repeat' first
    | (with_reducible assumption)
    | (with_reducible apply keeps_reach)
    | (with_reducible apply keeps_toPort)
    | split

theorem keeps_fenceAdd {s₀ : State} {s : State} {d : Nat} {src : Endpoint} {dst : Endpoint} {col : Bool} {w : Nat} {p : Option (Packet × Option Nat)} (hk : Keeps s₀ s) : Keeps s₀ (fenceAdd (s := s) (d := d) (src := src) (dst := dst) (col := col) (w := w) (p := p)) := by
  unfold fenceAdd
  try dsimp only
  repeat' first
    | (with_reducible assumption)
    | (with_reducible apply keeps_uFab)
    | (with_reducible apply keeps_refreshFence)
    | (with_reducible apply keeps_fenceLost)
    | (with_reducible apply keeps_fenceDone)
    | (fail_if_no_progress (with_reducible apply keeps_lit))
    | (with_reducible apply keeps_ite)
    | split

theorem keeps_fenceOut {s₀ : State} {s : State} {n : Nat} {q : Packet} (hk : Keeps s₀ s) : Keeps s₀ (fenceOut (s := s) (n := n) (q := q)) := by
  unfold fenceOut
  try dsimp only
  repeat' first
    | (with_reducible assumption)
    | (with_reducible apply keeps_fence)
    | (with_reducible apply keeps_toPort)
    | (with_reducible apply keeps_fenceAdd)
    | (with_reducible apply keeps_ite)

theorem keeps_malformed {s₀ : State} {s : State} {d : Nat} (hk : Keeps s₀ s) : Keeps s₀ (malformed (s := s) (d := d)) := by
  unfold malformed
  try dsimp only
  repeat' first
    | (with_reducible assumption)
    | (with_reducible apply keeps_bump)

theorem keeps_mgmtStatus {s₀ : State} {s : State} {d : Nat} {q : Packet} {status : Nat} (hk : Keeps s₀ s) : Keeps s₀ (mgmtStatus (s := s) (d := d) (q := q) (status := status)) := by
  unfold mgmtStatus
  try dsimp only
  repeat' first
    | (with_reducible assumption)
    | (with_reducible apply keeps_respond)

theorem keeps_fenceArrive {s₀ : State} {s : State} {d : Nat} {q : Packet} (hk : Keeps s₀ s) : Keeps s₀ (fenceArrive (s := s) (d := d) (q := q)) := by
  unfold fenceArrive
  try dsimp only
  repeat' first
    | (with_reducible assumption)
    | (with_reducible apply keeps_reach)
    | (with_reducible apply keeps_fence)
    | (with_reducible apply keeps_fenceAdd)
    | (fail_if_no_progress (with_reducible apply keeps_lit))
    | (with_reducible apply keeps_foldl; intro _ _ _)
    | (with_reducible apply keeps_ite)

theorem keeps_deliver {s₀ : State} {s : State} {d : Nat} {n : Option Nat} {q : Packet} (hk : Keeps s₀ s) : Keeps s₀ (deliver (s := s) (d := d) (n := n) (q := q)) := by
  unfold deliver
  try dsimp only
  repeat' first
    | (with_reducible assumption)
    | (with_reducible apply keeps_bump)
    | (with_reducible apply keeps_uFab)
    | (with_reducible apply keeps_reach)
    | (with_reducible apply keeps_fence)
    | (with_reducible apply keeps_malformed)
    | (with_reducible apply keeps_mgmtStatus)
    | (with_reducible apply keeps_fenceArrive)
    | (fail_if_no_progress (with_reducible apply keeps_lit))
    | (with_reducible apply keeps_ite)
    | split

theorem keeps_enter {s₀ : State} {s : State} {n : Nat} {q : Packet} (hk : Keeps s₀ s) : Keeps s₀ (enter (s := s) (n := n) (q := q)) := by
  unfold enter
  try dsimp only
  repeat' first
    | (with_reducible assumption)
    | (with_reducible apply keeps_uFab)
    | (with_reducible apply keeps_inflightAdd)
    | (with_reducible apply keeps_deliver)
    | (fail_if_no_progress (with_reducible apply keeps_lit))
    | (with_reducible apply keeps_ite)

theorem keeps_admitReq {s₀ : State} {s : State} {n : Nat} {q : Packet} {len : Nat} (hk : Keeps s₀ s) : Keeps s₀ (admitReq (s := s) (n := n) (q := q) (len := len)) := by
  unfold admitReq
  try dsimp only
  repeat' first
    | (with_reducible assumption)
    | (with_reducible apply keeps_uQos)
    | (with_reducible apply keeps_enter)
    | (fail_if_no_progress (with_reducible apply keeps_lit))
    | (with_reducible apply keeps_ite)
    | split


theorem keeps_drainLeash {s₀ : State} {s : State} {n : Nat} (hk : Keeps s₀ s) : Keeps s₀ (s.drainLeash n) := by
  unfold drainLeash
  dsimp only
  refine keeps_uQos (keeps_foldl2 (fun t a h => ?_) hk)
  split
  · exact keeps_admitReq h
  · exact h

theorem keeps_unfifo {s₀ : State} {s : State} {n : Nat} {q : Packet} (hk : Keeps s₀ s) : Keeps s₀ (unfifo (s := s) (n := n) (q := q)) := by
  unfold unfifo
  try dsimp only
  repeat' first
    | (with_reducible assumption)
    | (with_reducible apply keeps_uLink)
    | (with_reducible apply keeps_unarrived)
    | (fail_if_no_progress (with_reducible apply keeps_lit))
    | (with_reducible apply keeps_ite)

theorem keeps_spoof {s₀ : State} {s : State} {n : Nat} (hk : Keeps s₀ s) : Keeps s₀ (spoof (s := s) (n := n)) := by
  unfold spoof
  try dsimp only
  repeat' first
    | (with_reducible assumption)
    | (with_reducible apply keeps_bump)

theorem keeps_ask {s₀ : State} {s : State} {n : Nat} {q : Packet} (hk : Keeps s₀ s) : Keeps s₀ (ask (s := s) (n := n) (q := q)) := by
  unfold ask
  try dsimp only
  repeat' first
    | (with_reducible assumption)
    | (with_reducible apply keeps_uQos)
    | (fail_if_no_progress (with_reducible apply keeps_lit))
    | (with_reducible apply keeps_ite)


theorem keeps_accessIn {s₀ : State} {a s : State} {n : Nat} {q : Packet} (ha : Keeps s₀ a) (hk : Keeps s₀ s) :
    Keeps s₀ (accessIn a s n q) := by
  unfold accessIn
  dsimp only
  refine keeps_ite (keeps_mgmtStatus (keeps_ask hk)) (keeps_ite (keeps_enter hk) ?_)
  split
  · exact keeps_enter (keeps_ask hk)
  · refine keeps_ite (keeps_admitReq (keeps_ask hk)) (keeps_ite ha (keeps_uQos (keeps_ask ?_)))
    split
    · exact keeps_ite (keeps_uQos hk) hk
    · exact hk

theorem keeps_insideErr {s₀ : State} {s : State} {e : BridgeErr} (hk : Keeps s₀ s) : Keeps s₀ (insideErr (s := s) (e := e)) := by
  unfold insideErr
  try dsimp only
  repeat' first
    | (with_reducible assumption)
    | (with_reducible apply keeps_uFab)
    | (with_reducible apply keeps_bridgeErr)
    | (fail_if_no_progress (with_reducible apply keeps_lit))
    | (with_reducible apply keeps_ite)
    | split

theorem keeps_arrive {s₀ : State} {s0 : State} {n : Nat} {q0 : Packet} {e : BridgeErr} (hk : Keeps s₀ s0) : Keeps s₀ (arrive (s0 := s0) (n := n) (q0 := q0) (e := e)) := by
  unfold arrive
  try dsimp only
  repeat' first
    | (with_reducible assumption)
    | (with_reducible apply keeps_cross)
    | (with_reducible apply keeps_malformed)
    | (with_reducible apply keeps_mgmtStatus)
    | (with_reducible apply keeps_enter)
    | (with_reducible apply keeps_unfifo)
    | (with_reducible apply keeps_spoof)
    | (with_reducible apply keeps_accessIn)
    | (with_reducible apply keeps_insideErr)
    | (with_reducible apply keeps_ite)

theorem keeps_planNoRoute {s₀ : State} {s : State} {q : Packet} (hk : Keeps s₀ s) : Keeps s₀ (planNoRoute (s := s) (q := q)) := by
  unfold planNoRoute
  try dsimp only
  repeat' first
    | (with_reducible assumption)
    | (with_reducible apply keeps_abortPlan)
    | (with_reducible apply keeps_endArm)
    | (with_reducible apply keeps_ite)
    | split

theorem keeps_noRoute {s₀ : State} {s : State} {d : Nat} {q : Packet} (hk : Keeps s₀ s) : Keeps s₀ (noRoute (s := s) (d := d) (q := q)) := by
  unfold noRoute
  try dsimp only
  repeat' first
    | (with_reducible assumption)
    | (with_reducible apply keeps_bump)
    | (with_reducible apply keeps_mgmtStatus)
    | (with_reducible apply keeps_planNoRoute)
    | (with_reducible apply keeps_ite)

theorem keeps_unhold {s₀ : State} {s : State} {i : Nat} {h : Held} (hk : Keeps s₀ s) : Keeps s₀ (unhold (s := s) (i := i) (h := h)) := by
  unfold unhold
  try dsimp only
  repeat' first
    | (with_reducible assumption)
    | (with_reducible apply keeps_uFab)
    | (with_reducible apply keeps_inflightSub)

theorem keeps_splitOut {s₀ : State} {s : State} {d : Nat} {e : BridgeErr} {q : Packet} {hops : List (Nat × Nat)} (hk : Keeps s₀ s) : Keeps s₀ (splitOut (s := s) (d := d) (e := e) (q := q) (hops := hops)) := by
  unfold splitOut
  try dsimp only
  repeat' first
    | (with_reducible assumption)
    | (with_reducible apply keeps_cross)
    | (with_reducible apply keeps_fenceOut)
    | (fail_if_no_progress (with_reducible apply keeps_lit))
    | (with_reducible apply keeps_foldl; intro _ _ _)

theorem keeps_nextHop {s₀ : State} {s : State} {i : Nat} {e : BridgeErr} (hk : Keeps s₀ s) : Keeps s₀ (nextHop (s := s) (i := i) (e := e)) := by
  unfold nextHop
  try dsimp only
  repeat' first
    | (with_reducible assumption)
    | (with_reducible apply keeps_uFab)
    | (with_reducible apply keeps_fence)
    | (with_reducible apply keeps_cross)
    | (with_reducible apply keeps_toPort)
    | (with_reducible apply keeps_fenceOut)
    | (with_reducible apply keeps_insideErr)
    | (with_reducible apply keeps_noRoute)
    | (with_reducible apply keeps_unhold)
    | (with_reducible apply keeps_splitOut)
    | (fail_if_no_progress (with_reducible apply keeps_lit))
    | (with_reducible apply keeps_ite)
    | split

theorem keeps_probeArrive {s₀ : State} {s : State} {n : Nat} {q : Packet} {e : BridgeErr} (hk : Keeps s₀ s) : Keeps s₀ (probeArrive (s := s) (n := n) (q := q) (e := e)) := by
  unfold probeArrive
  try dsimp only
  repeat' first
    | (with_reducible assumption)
    | (with_reducible apply keeps_cross)
    | (with_reducible apply keeps_fenceOut)
    | (with_reducible apply keeps_malformed)
    | (with_reducible apply keeps_mgmtStatus)
    | (with_reducible apply keeps_deliver)
    | (with_reducible apply keeps_unfifo)
    | (with_reducible apply keeps_spoof)
    | (with_reducible apply keeps_insideErr)
    | (with_reducible apply keeps_noRoute)
    | (with_reducible apply keeps_splitOut)
    | (fail_if_no_progress (with_reducible apply keeps_lit))
    | (with_reducible apply keeps_ite)
    | split

theorem keeps_internalProbe {s₀ : State} {s : State} {d : Nat} {q : Packet} (hk : Keeps s₀ s) : Keeps s₀ (internalProbe (s := s) (d := d) (q := q)) := by
  unfold internalProbe
  try dsimp only
  repeat' first
    | (with_reducible assumption)
    | (with_reducible apply keeps_taken)
    | (with_reducible apply keeps_fenceAdd)
    | (fail_if_no_progress (with_reducible apply keeps_lit))
    | (with_reducible apply keeps_ite)
    | split

theorem keeps_fenceFree {s₀ : State} {s : State} {d : Nat} {k : Nat} {e : FenceEntry} (hk : Keeps s₀ s) : Keeps s₀ (fenceFree (s := s) (d := d) (k := k) (e := e)) := by
  unfold fenceFree
  try dsimp only
  repeat' first
    | (with_reducible assumption)
    | (with_reducible apply keeps_uFab)
    | (with_reducible apply keeps_refreshFence)
    | (with_reducible apply keeps_fenceLost)

theorem keeps_fenceExpire {s₀ : State} {s : State} {d : Nat} {src : Endpoint} {dst : Endpoint} {col : Bool} (hk : Keeps s₀ s) : Keeps s₀ (fenceExpire (s := s) (d := d) (src := src) (dst := dst) (col := col)) := by
  unfold fenceExpire
  try dsimp only
  repeat' first
    | (with_reducible assumption)
    | (with_reducible apply keeps_fenceFree)
    | split

theorem keeps_heldTooLong {s₀ : State} {s : State} {d : Nat} {q : Packet} (hk : Keeps s₀ s) : Keeps s₀ (heldTooLong (s := s) (d := d) (q := q)) := by
  unfold heldTooLong
  try dsimp only
  repeat' first
    | (with_reducible assumption)
    | (with_reducible apply keeps_bump)
    | (with_reducible apply keeps_mgmtStatus)
    | (with_reducible apply keeps_ite)

theorem keeps_holdLimit {s₀ : State} {s : State} {a : HoldAt} (hk : Keeps s₀ s) : Keeps s₀ (holdLimit (s := s) (a := a)) := by
  unfold holdLimit
  try dsimp only
  repeat' first
    | (with_reducible assumption)
    | (with_reducible apply keeps_inflightSub)
    | (with_reducible apply keeps_taken)
    | (with_reducible apply keeps_uLink)
    | (with_reducible apply keeps_uQos)
    | (with_reducible apply keeps_unarrived)
    | (with_reducible apply keeps_unfifo)
    | (with_reducible apply keeps_unhold)
    | (with_reducible apply keeps_heldTooLong)
    | (with_reducible apply keeps_transmit)
    | (fail_if_no_progress (with_reducible apply keeps_lit))
    | (with_reducible apply keeps_ite)
    | split

theorem keeps_forward {s₀ : State} {s : State} {i : Nat} {h : Held} {n : Nat} (hk : Keeps s₀ s) : Keeps s₀ (forward (s := s) (i := i) (h := h) (n := n)) := by
  unfold forward
  try dsimp only
  repeat' first
    | (with_reducible assumption)
    | (with_reducible apply keeps_cross)
    | (with_reducible apply keeps_toPort)
    | (with_reducible apply keeps_unhold)
    | (with_reducible apply keeps_ite)

theorem keeps_passArm {s₀ : State} {s : State} {q : Packet} {inPort : Nat} {outPort : Nat} (hk : Keeps s₀ s) : Keeps s₀ (passArm (s := s) (q := q) (inPort := inPort) (outPort := outPort)) := by
  unfold passArm
  try dsimp only
  repeat' first
    | (with_reducible assumption)
    | (with_reducible apply keeps_send)
    | (with_reducible apply keeps_installRsv)
    | (with_reducible apply keeps_noRoute)
    | (with_reducible apply keeps_unhold)
    | (with_reducible apply keeps_forward)
    | (fail_if_no_progress (with_reducible apply keeps_lit))
    | (with_reducible apply keeps_ite)
    | split
    | (intro t ht)
    | (cases ‹some _ = some _›)
    | (cases ‹none = some _›)
    | (with_reducible refine keeps_snd (by assumption) ?_)

theorem keeps_passArmAck {s₀ : State} {s : State} {q : Packet} {inPort : Nat} {outPort : Nat} (hk : Keeps s₀ s) : Keeps s₀ (passArmAck (s := s) (q := q) (inPort := inPort) (outPort := outPort)) := by
  unfold passArmAck
  try dsimp only
  repeat' first
    | (with_reducible assumption)
    | (with_reducible apply keeps_installRsv)
    | (with_reducible apply keeps_toPort)
    | (with_reducible apply keeps_noRoute)
    | (with_reducible apply keeps_unhold)
    | (with_reducible apply keeps_forward)
    | (fail_if_no_progress (with_reducible apply keeps_lit))
    | (with_reducible apply keeps_ite)
    | split
    | (intro t ht)
    | (cases ‹some _ = some _›)
    | (cases ‹none = some _›)
    | (with_reducible refine keeps_snd (by assumption) ?_)

theorem keeps_passDisarm {s₀ : State} {s : State} {q : Packet} {inPort : Nat} (hk : Keeps s₀ s) : Keeps s₀ (passDisarm (s := s) (q := q) (inPort := inPort)) := by
  unfold passDisarm
  try dsimp only
  repeat' first
    | (with_reducible assumption)
    | (with_reducible apply keeps_removeRsv)
    | (with_reducible apply keeps_noRoute)
    | (with_reducible apply keeps_unhold)
    | (with_reducible apply keeps_forward)
    | (with_reducible apply keeps_ite)
    | split

theorem keeps_heldClear {s₀ : State} {s : State} {b : Bool} (hk : Keeps s₀ s) : Keeps s₀ (heldClear (s := s) (b := b)) := by
  unfold heldClear
  try dsimp only
  repeat' first
    | (with_reducible assumption)
    | (with_reducible apply keeps_wr)
    | (with_reducible apply keeps_ite)

theorem keeps_markLost {s₀ : State} {s : State} {n : Nat} {v : Bool} (hk : Keeps s₀ s) : Keeps s₀ (markLost (s := s) (n := n) (v := v)) := by
  unfold markLost
  try dsimp only
  repeat' first
    | (with_reducible assumption)
    | (with_reducible apply keeps_setReg)

theorem keeps_requestLost {s₀ : State} {s : State} {d : Nat} {i : Nat} (hk : Keeps s₀ s) : Keeps s₀ (requestLost (s := s) (d := d) (i := i)) := by
  unfold requestLost
  try dsimp only
  repeat' first
    | (with_reducible assumption)
    | (with_reducible apply keeps_poisonLine)
    | (with_reducible apply keeps_updEntry)
    | (with_reducible apply keeps_failReq)
    | (with_reducible apply keeps_leaveBusy)
    | (fail_if_no_progress (with_reducible apply keeps_lit))
    | (with_reducible apply keeps_ite)
    | split

theorem keeps_hotLost {s₀ : State} {s : State} {d : Nat} {j : Nat} (hk : Keeps s₀ s) : Keeps s₀ (hotLost (s := s) (d := d) (j := j)) := by
  unfold hotLost
  try dsimp only
  repeat' first
    | (with_reducible assumption)
    | (with_reducible apply keeps_wr)
    | (with_reducible apply keeps_bump)
    | (with_reducible apply keeps_setReg)
    | (with_reducible apply keeps_foldl; intro _ _ _)
    | (with_reducible apply keeps_ite)


theorem keeps_arrayHit {s₀ : State} {s : State} {d : Nat} {h : ArrayHit} (hk : Keeps s₀ s) : Keeps s₀ (s.arrayHit d h) := by
  unfold arrayHit
  repeat' first
    | (with_reducible assumption)
    | (with_reducible apply keeps_requestLost)
    | (with_reducible apply keeps_dirHalt)
    | (with_reducible apply keeps_updTxn)
    | (with_reducible apply keeps_abortTxn)
    | (with_reducible apply keeps_uMem)
    | (exact (rfl : (_ : List Host.Cell) = _))
    | (with_reducible apply keeps_hotLost)
    | (with_reducible apply keeps_uPtu)
    | (with_reducible apply keeps_uClu)
    | (with_reducible apply keeps_histAdd)
    | (with_reducible apply keeps_setCtx)
    | (with_reducible apply keeps_fenceFree)
    | (with_reducible apply keeps_ite)
    | split

theorem keeps_dirScrub {s₀ : State} {s : State} {d : Nat} {ecc : Ecc} {hits : List ArrayHit} (hk : Keeps s₀ s) : Keeps s₀ (dirScrub (s := s) (d := d) (ecc := ecc) (hits := hits)) := by
  unfold dirScrub
  try dsimp only
  repeat' first
    | (with_reducible assumption)
    | (with_reducible apply keeps_uHome)
    | (with_reducible apply keeps_dirHalt)
    | (with_reducible apply keeps_dirCorrected)
    | (with_reducible apply keeps_arrayHit)
    | (fail_if_no_progress (with_reducible apply keeps_lit))
    | (with_reducible apply keeps_foldl; intro _ _ _)
    | split

theorem keeps_setLinkState {s₀ : State} {s : State} {n : Nat} {v : Nat} (hk : Keeps s₀ s) : Keeps s₀ (setLinkState (s := s) (n := n) (v := v)) := by
  unfold setLinkState
  try dsimp only
  repeat' first
    | (with_reducible assumption)
    | (with_reducible apply keeps_wr)
    | (with_reducible apply keeps_wrB)

theorem keeps_setStage {s₀ : State} {s : State} {n : Nat} {v : Nat} (hk : Keeps s₀ s) : Keeps s₀ (setStage (s := s) (n := n) (v := v)) := by
  unfold setStage
  try dsimp only
  repeat' first
    | (with_reducible assumption)
    | (with_reducible apply keeps_wr)

theorem keeps_sendOut {s₀ : State} {s : State} {n : Nat} {f : BitVec 2048} (hk : Keeps s₀ s) : Keeps s₀ (sendOut (s := s) (n := n) (f := f)) := by
  unfold sendOut
  try dsimp only
  repeat' first
    | (with_reducible assumption)
    | (with_reducible apply keeps_uLink)

theorem keeps_sendIdle {s₀ : State} {s : State} {n : Nat} (hk : Keeps s₀ s) : Keeps s₀ (sendIdle (s := s) (n := n)) := by
  unfold sendIdle
  try dsimp only
  repeat' first
    | (with_reducible assumption)
    | (with_reducible apply keeps_uLink)

theorem keeps_takeFront {s₀ : State} {s : State} {n : Nat} (hk : Keeps s₀ s) : Keeps s₀ (takeFront (s := s) (n := n)).2 := by
  unfold takeFront
  try dsimp only
  repeat' first
    | (with_reducible assumption)
    | (with_reducible apply keeps_uLink)
    | (fail_if_no_progress (with_reducible apply keeps_lit))
    | split

theorem keeps_startStages {s₀ : State} {s : State} {n : Nat} {stage : Nat} (hk : Keeps s₀ s) : Keeps s₀ (startStages (s := s) (n := n) (stage := stage)) := by
  unfold startStages
  try dsimp only
  repeat' first
    | (with_reducible assumption)
    | (with_reducible apply keeps_wr)
    | (with_reducible apply keeps_uLink)
    | (with_reducible apply keeps_setStage)
    | (fail_if_no_progress (with_reducible apply keeps_lit))
    | (with_reducible apply keeps_ite)

theorem keeps_discardPort {s₀ : State} {s : State} {n : Nat} (hk : Keeps s₀ s) : Keeps s₀ (discardPort (s := s) (n := n)) := by
  unfold discardPort
  try dsimp only
  repeat' first
    | (with_reducible assumption)
    | (with_reducible apply keeps_wr)
    | (with_reducible apply keeps_setLink)
    | (with_reducible apply keeps_uQos)
    | (with_reducible apply keeps_inflightSubs)
    | (with_reducible apply keeps_unarrived)
    | (with_reducible apply keeps_setReg)
    | (fail_if_no_progress (with_reducible apply keeps_lit))
    | (with_reducible apply keeps_foldl; intro _ _ _)

theorem keeps_pathLost {s₀ : State} {s : State} {n : Nat} (hk : Keeps s₀ s) : Keeps s₀ (pathLost (s := s) (n := n)) := by
  unfold pathLost
  try dsimp only
  repeat' first
    | (with_reducible assumption)
    | (with_reducible apply keeps_abortPlans)

theorem keeps_goDown {s₀ : State} {s : State} {n : Nat} {cause : Nat} (hk : Keeps s₀ s) : Keeps s₀ (goDown (s := s) (n := n) (cause := cause)) := by
  unfold goDown
  try dsimp only
  repeat' first
    | (with_reducible assumption)
    | (with_reducible apply keeps_wr)
    | (with_reducible apply keeps_bump)
    | (with_reducible apply keeps_raise)
    | (with_reducible apply keeps_loseParticipants)
    | (with_reducible apply keeps_markLost)
    | (with_reducible apply keeps_setLinkState)
    | (with_reducible apply keeps_setStage)
    | (with_reducible apply keeps_discardPort)
    | (with_reducible apply keeps_pathLost)
    | (fail_if_no_progress (with_reducible apply keeps_lit))
    | (with_reducible apply keeps_ite)

theorem keeps_enterRetrain {s₀ : State} {s : State} {n : Nat} (hk : Keeps s₀ s) : Keeps s₀ (enterRetrain (s := s) (n := n)) := by
  unfold enterRetrain
  try dsimp only
  repeat' first
    | (with_reducible assumption)
    | (with_reducible apply keeps_bump)
    | (with_reducible apply keeps_draw)
    | (with_reducible apply keeps_raise)
    | (with_reducible apply keeps_uLink)
    | (with_reducible apply keeps_setLinkState)
    | (with_reducible apply keeps_startStages)

theorem keeps_protocolError {s₀ : State} {s : State} {n : Nat} (hk : Keeps s₀ s) : Keeps s₀ (protocolError (s := s) (n := n)) := by
  unfold protocolError
  try dsimp only
  repeat' first
    | (with_reducible assumption)
    | (with_reducible apply keeps_goDown)

theorem keeps_refreshKey {s₀ : State} {s : State} {n : Nat} (hk : Keeps s₀ s) : Keeps s₀ (refreshKey (s := s) (n := n)) := by
  unfold refreshKey
  try dsimp only
  repeat' first
    | (with_reducible assumption)
    | (with_reducible apply keeps_wrB)

theorem keeps_enterInit {s₀ : State} {s : State} {n : Nat} (hk : Keeps s₀ s) : Keeps s₀ (enterInit (s := s) (n := n)) := by
  unfold enterInit
  try dsimp only
  repeat' first
    | (with_reducible assumption)
    | (with_reducible apply keeps_uLink)
    | (with_reducible apply keeps_setLinkState)
    | (with_reducible apply keeps_setStage)
    | (with_reducible apply keeps_refreshKey)
    | (fail_if_no_progress (with_reducible apply keeps_lit))
    | (with_reducible apply keeps_ite)

theorem keeps_freeFlits {s₀ : State} {s : State} {n : Nat} {k : Nat} (hk : Keeps s₀ s) : Keeps s₀ (freeFlits (s := s) (n := n) (k := k)) := by
  unfold freeFlits
  try dsimp only
  repeat' first
    | (with_reducible assumption)
    | (with_reducible apply keeps_wr)
    | (with_reducible apply keeps_uLink)
    | (with_reducible apply keeps_inflightSubs)

theorem keeps_linkUp {s₀ : State} {s : State} {n : Nat} {b : InitBody} (hk : Keeps s₀ s) : Keeps s₀ (linkUp (s := s) (n := n) (b := b)) := by
  unfold linkUp
  try dsimp only
  repeat' first
    | (with_reducible assumption)
    | (with_reducible apply keeps_wrB)
    | (with_reducible apply keeps_bump)
    | (with_reducible apply keeps_setLink)
    | (with_reducible apply keeps_uLink)
    | (with_reducible apply keeps_inflightSubs)
    | (with_reducible apply keeps_markLost)
    | (with_reducible apply keeps_setLinkState)
    | (with_reducible apply keeps_setStage)
    | (with_reducible apply keeps_protocolError)
    | (with_reducible apply keeps_refreshKey)
    | (with_reducible apply keeps_freeFlits)
    | (with_reducible apply keeps_setReg)
    | (fail_if_no_progress (with_reducible apply keeps_lit))
    | (with_reducible apply keeps_ite)

theorem keeps_tryUp {s₀ : State} {s : State} {n : Nat} (hk : Keeps s₀ s) : Keeps s₀ (tryUp (s := s) (n := n)) := by
  unfold tryUp
  try dsimp only
  repeat' first
    | (with_reducible assumption)
    | (with_reducible apply keeps_linkUp)
    | (with_reducible apply keeps_ite)
    | split

theorem keeps_sendInit {s₀ : State} {s : State} {n : Nat} (hk : Keeps s₀ s) : Keeps s₀ (sendInit (s := s) (n := n)) := by
  unfold sendInit
  try dsimp only
  repeat' first
    | (with_reducible assumption)
    | (with_reducible apply keeps_draw)
    | (with_reducible apply keeps_raise)
    | (with_reducible apply keeps_uLink)
    | (with_reducible apply keeps_sendOut)
    | (with_reducible apply keeps_tryUp)
    | (fail_if_no_progress (with_reducible apply keeps_lit))
    | (with_reducible apply keeps_ite)

theorem keeps_initFlit {s₀ : State} {s : State} {n : Nat} {b : InitBody} (hk : Keeps s₀ s) : Keeps s₀ (initFlit (s := s) (n := n) (b := b)) := by
  unfold initFlit
  try dsimp only
  repeat' first
    | (with_reducible assumption)
    | (with_reducible apply keeps_wr)
    | (with_reducible apply keeps_draw)
    | (with_reducible apply keeps_raise)
    | (with_reducible apply keeps_uLink)
    | (with_reducible apply keeps_goDown)
    | (with_reducible apply keeps_enterRetrain)
    | (with_reducible apply keeps_protocolError)
    | (with_reducible apply keeps_tryUp)
    | (fail_if_no_progress (with_reducible apply keeps_lit))
    | (with_reducible apply keeps_ite)

theorem keeps_linkKey {s₀ : State} {s : State} {n : Nat} (hk : Keeps s₀ s) : Keeps s₀ (linkKey (s := s) (n := n)) := by
  unfold linkKey
  try dsimp only
  repeat' first
    | (with_reducible assumption)
    | (with_reducible apply keeps_uLink)
    | (with_reducible apply keeps_refreshKey)
    | (with_reducible apply keeps_setReg)
    | (fail_if_no_progress (with_reducible apply keeps_lit))
    | (with_reducible apply keeps_foldl; intro _ _ _)
    | (with_reducible apply keeps_ite)

theorem keeps_takeAck {s₀ : State} {s : State} {n : Nat} {a : Nat} (hk : Keeps s₀ s) : ∀ t, takeAck (s := s) (n := n) (a := a) = some t → Keeps s₀ t := by
  unfold takeAck
  try dsimp only
  repeat' first
    | (with_reducible assumption)
    | (with_reducible apply keeps_uLink)
    | (with_reducible apply keeps_freeFlits)
    | (fail_if_no_progress (with_reducible apply keeps_lit))
    | (with_reducible apply keeps_ite)
    | split
    | (intro t ht)
    | (cases ‹some _ = some _›)
    | (cases ‹none = some _›)

theorem keeps_takeCredit {s₀ : State} {s : State} {n : Nat} {sel : Nat} {count : Nat} (hk : Keeps s₀ s) : ∀ t, takeCredit (s := s) (n := n) (sel := sel) (count := count) = some t → Keeps s₀ t := by
  unfold takeCredit
  try dsimp only
  repeat' first
    | (with_reducible assumption)
    | (with_reducible apply keeps_uLink)
    | (fail_if_no_progress (with_reducible apply keeps_lit))
    | (with_reducible apply keeps_ite)
    | split
    | (intro t ht)
    | (cases ‹some _ = some _›)
    | (cases ‹none = some _›)


theorem keeps_takeHead {s₀ : State} {s : State} {n : Nat} {f : Flit} (hk : Keeps s₀ s) :
    ∀ t, s.takeHead n f = some t → Keeps s₀ t := by
  intro t h
  unfold takeHead at h
  simp only [Option.bind_eq_some_iff] at h
  obtain ⟨a, ⟨b, hb, ha⟩, ht⟩ := h
  exact keeps_takeCredit (keeps_takeCredit (keeps_takeAck hk b hb) a ha) t ht

theorem keeps_sendNak {s₀ : State} {s : State} {n : Nat} (hk : Keeps s₀ s) : Keeps s₀ (sendNak (s := s) (n := n)) := by
  unfold sendNak
  try dsimp only
  repeat' first
    | (with_reducible assumption)
    | (with_reducible apply keeps_uLink)

theorem keeps_replayFrom {s₀ : State} {s : State} {n : Nat} {start : Nat} (hk : Keeps s₀ s) : Keeps s₀ (replayFrom (s := s) (n := n) (start := start)) := by
  unfold replayFrom
  try dsimp only
  repeat' first
    | (with_reducible assumption)
    | (with_reducible apply keeps_bump)
    | (with_reducible apply keeps_uLink)
    | (with_reducible apply keeps_enterRetrain)
    | (fail_if_no_progress (with_reducible apply keeps_lit))
    | (with_reducible apply keeps_ite)

theorem keeps_received {s₀ : State} {s : State} {n : Nat} {q : Packet} (hk : Keeps s₀ s) : Keeps s₀ (received (s := s) (n := n) (q := q)) := by
  unfold received
  try dsimp only
  repeat' first
    | (with_reducible assumption)
    | (with_reducible apply keeps_uLink)
    | (with_reducible apply keeps_arrived)


theorem keeps_takeItem {s₀ : State} {s : State} {n : Nat} {b : BodyItem} (hk : Keeps s₀ s) :
    ∀ t, s.takeItem n b = some t → Keeps s₀ t := by
  intro t h
  unfold takeItem at h
  repeat' split at h
  all_goals first
    | cases h; exact hk
    | cases h; done
    | (injection h with e; subst e; first
        | exact keeps_received (keeps_uLink hk)
        | exact keeps_uLink hk
        | exact keeps_received hk)


theorem keeps_takeBody {s₀ : State} {n : Nat} : ∀ {bs : List BodyItem} {s : State}, Keeps s₀ s →
    ∀ t, s.takeBody n bs = some t → Keeps s₀ t
  | [], s, h, t, e => by
    unfold takeBody at e
    cases e; exact h
  | b :: bs, s, h, t, e => by
    unfold takeBody at e
    split at e
    · rename_i u eu
      exact keeps_takeBody (keeps_takeItem h u eu) t e
    · cases e

theorem keeps_slotIn {s₀ : State} {s : State} {n : Nat} (hk : Keeps s₀ s) : Keeps s₀ (slotIn (s := s) (n := n)) := by
  unfold slotIn
  try dsimp only
  repeat' first
    | (with_reducible assumption)
    | (with_reducible apply keeps_uLink)

theorem keeps_gapNak {s₀ : State} {s : State} {n : Nat} {f : Flit} (hk : Keeps s₀ s) : Keeps s₀ (gapNak (s := s) (n := n) (f := f)) := by
  unfold gapNak
  try dsimp only
  repeat' first
    | (with_reducible assumption)
    | (with_reducible apply keeps_sendNak)
    | (with_reducible apply keeps_ite)

theorem keeps_dataFlit {s₀ : State} {s : State} {n : Nat} {f : Flit} (hk : Keeps s₀ s) : Keeps s₀ (dataFlit (s := s) (n := n) (f := f)) := by
  unfold dataFlit
  try dsimp only
  repeat' first
    | (with_reducible assumption)
    | (with_reducible apply keeps_wr)
    | (with_reducible apply keeps_uLink)
    | (with_reducible apply keeps_protocolError)
    | (with_reducible refine keeps_takeHead ?_ _ (by assumption))
    | (with_reducible apply keeps_sendNak)
    | (with_reducible apply keeps_slotIn)
    | (with_reducible refine keeps_takeBody ?_ _ (by assumption))
    | (fail_if_no_progress (with_reducible apply keeps_lit))
    | (with_reducible apply keeps_ite)
    | split

theorem keeps_idleFlit {s₀ : State} {s : State} {n : Nat} {f : Flit} (hk : Keeps s₀ s) : Keeps s₀ (idleFlit (s := s) (n := n) (f := f)) := by
  unfold idleFlit
  try dsimp only
  repeat' first
    | (with_reducible assumption)
    | (with_reducible apply keeps_protocolError)
    | (with_reducible refine keeps_takeHead ?_ _ (by assumption))
    | (with_reducible apply keeps_slotIn)
    | (with_reducible apply keeps_gapNak)
    | (with_reducible apply keeps_ite)
    | split

theorem keeps_nakFlit {s₀ : State} {s : State} {n : Nat} {f : Flit} {ecc : Ecc} (hk : Keeps s₀ s) : Keeps s₀ (nakFlit (s := s) (n := n) (f := f) (ecc := ecc)) := by
  unfold nakFlit
  try dsimp only
  repeat' first
    | (with_reducible assumption)
    | (with_reducible apply keeps_goDown)
    | (with_reducible apply keeps_protocolError)
    | (with_reducible refine keeps_takeHead ?_ _ (by assumption))
    | (with_reducible apply keeps_replayFrom)
    | (with_reducible apply keeps_slotIn)
    | (with_reducible apply keeps_gapNak)
    | (with_reducible apply keeps_ite)
    | split

theorem keeps_badFlit {s₀ : State} {s : State} {n : Nat} {tag : Bool} (hk : Keeps s₀ s) : Keeps s₀ (badFlit (s := s) (n := n) (tag := tag)) := by
  unfold badFlit
  try dsimp only
  repeat' first
    | (with_reducible assumption)
    | (with_reducible apply keeps_bump)
    | (with_reducible apply keeps_sendNak)
    | (with_reducible apply keeps_slotIn)
    | (with_reducible apply keeps_ite)


theorem keeps_flitIn {s₀ : State} {s : State} {n : Nat} {go : State → State} (hk : Keeps s₀ s) (hf : ∀ t, Keeps s₀ t → Keeps s₀ (go t)) :
    Keeps s₀ (s.flitIn n go) := by
  unfold flitIn
  exact keeps_ite (keeps_badFlit (keeps_takeFront hk)) (hf _ (keeps_takeFront hk))

theorem keeps_ackTimeout {s₀ : State} {s : State} {n : Nat} {ecc : Ecc} (hk : Keeps s₀ s) : Keeps s₀ (ackTimeout (s := s) (n := n) (ecc := ecc)) := by
  unfold ackTimeout
  try dsimp only
  repeat' first
    | (with_reducible assumption)
    | (with_reducible apply keeps_goDown)
    | (with_reducible apply keeps_replayFrom)
    | (with_reducible apply keeps_ite)

theorem keeps_emit {s₀ : State} {s : State} {n : Nat} {type : Nat} {seq : Nat} {body : List BodyItem} {lead : Option (Packet × Nat)} (hk : Keeps s₀ s) : Keeps s₀ (emit (s := s) (n := n) (type := type) (seq := seq) (body := body) (lead := lead)) := by
  unfold emit
  try dsimp only
  repeat' first
    | (with_reducible assumption)
    | (with_reducible apply keeps_uLink)
    | (with_reducible apply keeps_sendOut)

theorem keeps_resendFlit {s₀ : State} {s : State} {n : Nat} {r : Nat} (hk : Keeps s₀ s) : Keeps s₀ (resendFlit (s := s) (n := n) (r := r)) := by
  unfold resendFlit
  try dsimp only
  repeat' first
    | (with_reducible assumption)
    | (with_reducible apply keeps_uLink)
    | (with_reducible apply keeps_emit)
    | (fail_if_no_progress (with_reducible apply keeps_lit))
    | (with_reducible apply keeps_ite)
    | split

theorem keeps_transmit {s₀ : State} {s : State} {n : Nat} (hk : Keeps s₀ s) : Keeps s₀ (transmit (s := s) (n := n)) := by
  unfold transmit
  try dsimp only
  repeat' first
    | (with_reducible assumption)
    | (with_reducible apply keeps_wr)
    | (with_reducible apply keeps_bump)
    | (with_reducible apply keeps_setLink)
    | (with_reducible apply keeps_uLink)
    | (with_reducible apply keeps_uQos)
    | (with_reducible apply keeps_sendIdle)
    | (with_reducible apply keeps_emit)
    | (with_reducible apply keeps_resendFlit)
    | (with_reducible apply keeps_idle)
    | (fail_if_no_progress (with_reducible apply keeps_lit))
    | (with_reducible apply keeps_foldl; intro _ _ _)
    | (with_reducible apply keeps_ite)
    | split

theorem keeps_idleAck {s₀ : State} {s : State} {n : Nat} (hk : Keeps s₀ s) : Keeps s₀ (idleAck (s := s) (n := n)) := by
  unfold idleAck
  try dsimp only
  repeat' first
    | (with_reducible assumption)
    | (with_reducible apply keeps_uLink)
    | (with_reducible apply keeps_emit)
    | (with_reducible apply keeps_idle)
    | (fail_if_no_progress (with_reducible apply keeps_lit))
    | (with_reducible apply keeps_ite)

theorem keeps_rxRelease {s₀ : State} {s : State} {n : Nat} {b : Nat} {e : RxErr} (hk : Keeps s₀ s) : Keeps s₀ (rxRelease (s := s) (n := n) (b := b) (e := e)) := by
  unfold rxRelease
  try dsimp only
  repeat' first
    | (with_reducible assumption)
    | (with_reducible apply keeps_uLink)
    | (with_reducible apply keeps_unarrived)
    | (with_reducible apply keeps_malformed)
    | (fail_if_no_progress (with_reducible apply keeps_lit))
    | (with_reducible apply keeps_ite)
    | split

theorem keeps_crdTimeout {s₀ : State} {s : State} {n : Nat} {b : Nat} (hk : Keeps s₀ s) : Keeps s₀ (crdTimeout (s := s) (n := n) (b := b)) := by
  unfold crdTimeout
  try dsimp only
  repeat' first
    | (with_reducible assumption)
    | (with_reducible apply keeps_bump)
    | (with_reducible apply keeps_enterRetrain)
    | (with_reducible apply keeps_ite)

theorem keeps_initTimeout {s₀ : State} {s : State} {n : Nat} (hk : Keeps s₀ s) : Keeps s₀ (initTimeout (s := s) (n := n)) := by
  unfold initTimeout
  try dsimp only
  repeat' first
    | (with_reducible assumption)
    | (with_reducible apply keeps_enterRetrain)
    | (with_reducible apply keeps_ite)

theorem keeps_retrainTimeout {s₀ : State} {s : State} {n : Nat} (hk : Keeps s₀ s) : Keeps s₀ (retrainTimeout (s := s) (n := n)) := by
  unfold retrainTimeout
  try dsimp only
  repeat' first
    | (with_reducible assumption)
    | (with_reducible apply keeps_uLink)
    | (with_reducible apply keeps_startStages)
    | (with_reducible apply keeps_goDown)
    | (fail_if_no_progress (with_reducible apply keeps_lit))
    | (with_reducible apply keeps_ite)

theorem keeps_lossOfSignal {s₀ : State} {s : State} {n : Nat} (hk : Keeps s₀ s) : Keeps s₀ (lossOfSignal (s := s) (n := n)) := by
  unfold lossOfSignal
  try dsimp only
  repeat' first
    | (with_reducible assumption)
    | (with_reducible apply keeps_goDown)
    | (with_reducible apply keeps_ite)

theorem keeps_usePreset {s₀ : State} {s : State} {n : Nat} {t : Nat} {k : Nat} (hk : Keeps s₀ s) : Keeps s₀ (usePreset (s := s) (n := n) (t := t) (k := k)).2 := by
  unfold usePreset
  try dsimp only
  repeat' first
    | (with_reducible assumption)
    | (with_reducible apply keeps_wr)
    | split

theorem keeps_startTraining {s₀ : State} {s : State} {n : Nat} (hk : Keeps s₀ s) : Keeps s₀ (startTraining (s := s) (n := n)) := by
  unfold startTraining
  try dsimp only
  repeat' first
    | (with_reducible assumption)
    | (with_reducible apply keeps_setLinkState)
    | (with_reducible apply keeps_startStages)
    | (with_reducible apply keeps_usePreset)
    | (with_reducible apply keeps_foldl; intro _ _ _)
    | (with_reducible apply keeps_ite)

theorem keeps_downHold {s₀ : State} {s : State} {n : Nat} (hk : Keeps s₀ s) : Keeps s₀ (downHold (s := s) (n := n)) := by
  unfold downHold
  try dsimp only
  repeat' first
    | (with_reducible assumption)
    | (with_reducible apply keeps_startTraining)
    | (with_reducible apply keeps_ite)

theorem keeps_linkCommand {s₀ : State} {s : State} {n : Nat} {retrain : Bool} (hk : Keeps s₀ s) : Keeps s₀ (linkCommand (s := s) (n := n) (retrain := retrain)) := by
  unfold linkCommand
  try dsimp only
  repeat' first
    | (with_reducible assumption)
    | (with_reducible apply keeps_setLinkState)
    | (with_reducible apply keeps_goDown)
    | (with_reducible apply keeps_enterRetrain)
    | (with_reducible apply keeps_startTraining)
    | (with_reducible apply keeps_ite)

theorem keeps_uLanes {s₀ : State} {s : State} {n : Nat} {f : PortLanes → PortLanes} (hk : Keeps s₀ s) : Keeps s₀ (uLanes (s := s) (n := n) (f := f)) := by
  unfold uLanes
  try dsimp only
  repeat' first
    | (with_reducible assumption)
    | (fail_if_no_progress (with_reducible apply keeps_lit))

theorem keeps_stageFails {s₀ : State} {s : State} {n : Nat} (hk : Keeps s₀ s) : Keeps s₀ (stageFails (s := s) (n := n)) := by
  unfold stageFails
  try dsimp only
  repeat' first
    | (with_reducible assumption)
    | (with_reducible apply keeps_bump)
    | (with_reducible apply keeps_startTraining)
    | (with_reducible apply keeps_ite)

theorem keeps_electrical {s₀ : State} {s : State} {n : Nat} {seen : BitVec 8} {timedOut : Bool} (hk : Keeps s₀ s) : Keeps s₀ (electrical (s := s) (n := n) (seen := seen) (timedOut := timedOut)) := by
  unfold electrical
  try dsimp only
  repeat' first
    | (with_reducible assumption)
    | (with_reducible apply keeps_wr)
    | (with_reducible apply keeps_want)
    | (with_reducible apply keeps_setStage)
    | (with_reducible apply keeps_stageFails)
    | (with_reducible apply keeps_ite)

theorem keeps_clockLock {s₀ : State} {s : State} {n : Nat} {locked : BitVec 8} {failed : BitVec 8} (hk : Keeps s₀ s) : Keeps s₀ (clockLock (s := s) (n := n) (locked := locked) (failed := failed)) := by
  unfold clockLock
  try dsimp only
  repeat' first
    | (with_reducible assumption)
    | (with_reducible apply keeps_wr)
    | (with_reducible apply keeps_setStage)
    | (with_reducible apply keeps_uLanes)
    | (fail_if_no_progress (with_reducible apply keeps_lit))
    | (with_reducible apply keeps_ite)

theorem keeps_blockLock {s₀ : State} {s : State} {n : Nat} {l : Nat} {inv : Option Bool} (hk : Keeps s₀ s) : Keeps s₀ (blockLock (s := s) (n := n) (l := l) (inv := inv)) := by
  unfold blockLock
  try dsimp only
  repeat' first
    | (with_reducible assumption)
    | (with_reducible apply keeps_setStage)
    | (with_reducible apply keeps_uLanes)
    | (fail_if_no_progress (with_reducible apply keeps_lit))
    | (with_reducible apply keeps_ite)

theorem keeps_polarity {s₀ : State} {s : State} {n : Nat} {l : Nat} {type : Byte} (hk : Keeps s₀ s) : Keeps s₀ (polarity (s := s) (n := n) (l := l) (type := type)) := by
  unfold polarity
  try dsimp only
  repeat' first
    | (with_reducible assumption)
    | (with_reducible apply keeps_wr)
    | (with_reducible apply keeps_setStage)
    | (with_reducible apply keeps_uLanes)
    | (fail_if_no_progress (with_reducible apply keeps_lit))
    | (with_reducible apply keeps_ite)

theorem keeps_mapLanes {s₀ : State} {s : State} {n : Nat} {lanes : List (Option (Fin 8))} {far : BitVec 8} (hk : Keeps s₀ s) : Keeps s₀ (mapLanes (s := s) (n := n) (lanes := lanes) (far := far)) := by
  unfold mapLanes
  try dsimp only
  repeat' first
    | (with_reducible assumption)
    | (with_reducible apply keeps_wr)
    | (with_reducible apply keeps_wrB)
    | (with_reducible apply keeps_setStage)
    | (with_reducible apply keeps_pathLost)
    | (with_reducible apply keeps_uLanes)
    | (with_reducible apply keeps_stageFails)
    | (fail_if_no_progress (with_reducible apply keeps_lit))
    | (with_reducible apply keeps_ite)
    | split

theorem keeps_deskewed {s₀ : State} {s : State} {n : Nat} {ok : Bool} (hk : Keeps s₀ s) : Keeps s₀ (deskewed (s := s) (n := n) (ok := ok)) := by
  unfold deskewed
  try dsimp only
  repeat' first
    | (with_reducible assumption)
    | (with_reducible apply keeps_setStage)
    | (with_reducible apply keeps_stageFails)
    | (with_reducible apply keeps_ite)

theorem keeps_fecLocked {s₀ : State} {s : State} {n : Nat} (hk : Keeps s₀ s) : Keeps s₀ (fecLocked (s := s) (n := n)) := by
  unfold fecLocked
  try dsimp only
  repeat' first
    | (with_reducible assumption)
    | (with_reducible apply keeps_setStage)
    | (with_reducible apply keeps_ite)

theorem keeps_equalised {s₀ : State} {s : State} {n : Nat} (hk : Keeps s₀ s) : Keeps s₀ (equalised (s := s) (n := n)) := by
  unfold equalised
  try dsimp only
  repeat' first
    | (with_reducible assumption)
    | (with_reducible apply keeps_enterInit)
    | (with_reducible apply keeps_uLanes)
    | (fail_if_no_progress (with_reducible apply keeps_lit))
    | (with_reducible apply keeps_ite)

theorem keeps_stageTimeout {s₀ : State} {s : State} {n : Nat} (hk : Keeps s₀ s) : Keeps s₀ (stageTimeout (s := s) (n := n)) := by
  unfold stageTimeout
  try dsimp only
  repeat' first
    | (with_reducible assumption)
    | (with_reducible apply keeps_setStage)
    | (with_reducible apply keeps_stageFails)
    | (with_reducible apply keeps_ite)

theorem keeps_stepTap {s₀ : State} {s : State} {n : Nat} {t : Nat} {tap : Nat} {down : Bool} (hk : Keeps s₀ s) : Keeps s₀ (stepTap (s := s) (n := n) (t := t) (tap := tap) (down := down)).2 := by
  unfold stepTap
  try dsimp only
  repeat' first
    | (with_reducible assumption)
    | (with_reducible apply keeps_wr)
    | (with_reducible apply keeps_ite)
    | split

theorem keeps_trainBlock {s₀ : State} {s : State} {n : Nat} {l : Nat} {p : DWord} (hk : Keeps s₀ s) : Keeps s₀ (trainBlock (s := s) (n := n) (l := l) (p := p)) := by
  unfold trainBlock
  try dsimp only
  repeat' first
    | (with_reducible assumption)
    | (with_reducible apply keeps_wr)
    | (with_reducible apply keeps_uLink)
    | (with_reducible apply keeps_usePreset)
    | (with_reducible apply keeps_uLanes)
    | (with_reducible apply keeps_stepTap)
    | (fail_if_no_progress (with_reducible apply keeps_lit))
    | (with_reducible apply keeps_ite)
    | split

theorem keeps_frameIn {s₀ : State} {s : State} {n : Nat} {l : Nat} {corrected : Nat} {f : RxFrame} {drift : Bool} (hk : Keeps s₀ s) : Keeps s₀ (frameIn (s := s) (n := n) (l := l) (corrected := corrected) (f := f) (drift := drift)) := by
  unfold frameIn
  try dsimp only
  repeat' first
    | (with_reducible assumption)
    | (with_reducible apply keeps_wr)
    | (with_reducible apply keeps_bump)
    | (with_reducible apply keeps_uLink)
    | (with_reducible apply keeps_deliver)
    | (with_reducible apply keeps_enterRetrain)
    | (with_reducible apply keeps_uLanes)
    | (fail_if_no_progress (with_reducible apply keeps_lit))
    | (with_reducible apply keeps_ite)

theorem keeps_fecFrame {s₀ : State} {s : State} {n : Nat} {l : Nat} {symbols : List Level} {drift : Bool} (hk : Keeps s₀ s) : Keeps s₀ (fecFrame (s := s) (n := n) (l := l) (symbols := symbols) (drift := drift)) := by
  unfold fecFrame
  try dsimp only
  repeat' first
    | (with_reducible assumption)
    | (with_reducible apply keeps_frameIn)
    | (fail_if_no_progress (with_reducible apply keeps_lit))
    | split

theorem keeps_eiIdle {s₀ : State} {s : State} {n : Nat} (hk : Keeps s₀ s) : Keeps s₀ (eiIdle (s := s) (n := n)) := by
  unfold eiIdle
  try dsimp only
  repeat' first
    | (with_reducible assumption)
    | (with_reducible apply keeps_wr)
    | (with_reducible apply keeps_uLink)
    | (fail_if_no_progress (with_reducible apply keeps_lit))
    | (with_reducible apply keeps_ite)

theorem keeps_eiEnter {s₀ : State} {s : State} {n : Nat} (hk : Keeps s₀ s) : Keeps s₀ (eiEnter (s := s) (n := n)) := by
  unfold eiEnter
  try dsimp only
  repeat' first
    | (with_reducible assumption)
    | (with_reducible apply keeps_wr)
    | (with_reducible apply keeps_ite)

theorem keeps_idleLimit {s₀ : State} {s : State} {n : Nat} (hk : Keeps s₀ s) : Keeps s₀ (idleLimit (s := s) (n := n)) := by
  unfold idleLimit
  try dsimp only
  repeat' first
    | (with_reducible assumption)
    | (with_reducible apply keeps_wr)
    | (with_reducible apply keeps_ite)

theorem keeps_eiExit {s₀ : State} {s : State} {n : Nat} (hk : Keeps s₀ s) : Keeps s₀ (eiExit (s := s) (n := n)) := by
  unfold eiExit
  try dsimp only
  repeat' first
    | (with_reducible assumption)
    | (with_reducible apply keeps_wr)
    | (with_reducible apply keeps_ite)

theorem keeps_retireLane {s₀ : State} {s : State} {n : Nat} {l : Nat} {why : Nat} (hk : Keeps s₀ s) : Keeps s₀ (retireLane (s := s) (n := n) (l := l) (why := why)) := by
  unfold retireLane
  try dsimp only
  repeat' first
    | (with_reducible assumption)
    | (with_reducible apply keeps_wr)
    | (with_reducible apply keeps_raise)
    | (with_reducible apply keeps_histAdd)

theorem keeps_healthWindow {s₀ : State} {s : State} {n : Nat} (hk : Keeps s₀ s) : Keeps s₀ (healthWindow (s := s) (n := n)) := by
  unfold healthWindow
  try dsimp only
  repeat' first
    | (with_reducible assumption)
    | (with_reducible apply keeps_enterRetrain)
    | (with_reducible apply keeps_uLanes)
    | (with_reducible apply keeps_retireLane)
    | (fail_if_no_progress (with_reducible apply keeps_lit))
    | (with_reducible apply keeps_foldl; intro _ _ _)
    | (with_reducible apply keeps_ite)

theorem keeps_unretire {s₀ : State} {s : State} {n : Nat} {mask : Nat} (hk : Keeps s₀ s) : Keeps s₀ (unretire (s := s) (n := n) (mask := mask)) := by
  unfold unretire
  try dsimp only
  repeat' first
    | (with_reducible assumption)
    | (with_reducible apply keeps_uLanes)

theorem keeps_prbsSync {s₀ : State} {s : State} {n : Nat} {l : Nat} {errors : Nat} (hk : Keeps s₀ s) : Keeps s₀ (prbsSync (s := s) (n := n) (l := l) (errors := errors)) := by
  unfold prbsSync
  try dsimp only
  repeat' first
    | (with_reducible assumption)
    | (with_reducible apply keeps_wr)
    | (with_reducible apply keeps_bump)
    | (with_reducible apply keeps_ite)

theorem keeps_eyeGo {s₀ : State} {s : State} {n : Nat} {l : Nat} (hk : Keeps s₀ s) : Keeps s₀ (eyeGo (s := s) (n := n) (l := l)) := by
  unfold eyeGo
  try dsimp only
  repeat' first
    | (with_reducible assumption)
    | (with_reducible apply keeps_wr)
    | (with_reducible apply keeps_uLanes)

theorem keeps_eyeDone {s₀ : State} {s : State} {n : Nat} {l : Nat} {mismatch : Nat} (hk : Keeps s₀ s) : Keeps s₀ (eyeDone (s := s) (n := n) (l := l) (mismatch := mismatch)) := by
  unfold eyeDone
  try dsimp only
  repeat' first
    | (with_reducible assumption)
    | (with_reducible apply keeps_wr)
    | (with_reducible apply keeps_uLanes)
    | (fail_if_no_progress (with_reducible apply keeps_lit))
    | (with_reducible apply keeps_ite)


theorem keeps_clearReg {s₀ : State} {s : State} {r : Reg} (hk : Keeps s₀ s) : Keeps s₀ (s.clearReg r) := by
  refine ⟨hk.1, fun h => ?_⟩
  have := hk.2 h
  rw [wf_iff] at this ⊢
  exact ⟨this.1, SMap.sorted_filter _ this.2.1, this.2.2⟩

theorem keeps_leashRefill {s₀ : State} {s : State} (hk : Keeps s₀ s) : Keeps s₀ (leashRefill (s := s)) := by
  unfold leashRefill
  try dsimp only
  repeat' first
    | (with_reducible assumption)
    | (with_reducible apply keeps_uQos)
    | (with_reducible apply keeps_drainLeash)
    | (fail_if_no_progress (with_reducible apply keeps_lit))
    | (with_reducible apply keeps_foldl; intro _ _ _)

theorem keeps_curtainCue {s₀ : State} {s : State} (hk : Keeps s₀ s) : Keeps s₀ (curtainCue (s := s)) := by
  unfold curtainCue
  try dsimp only
  repeat' first
    | (with_reducible assumption)
    | (with_reducible apply keeps_wr)
    | (with_reducible apply keeps_dirty)
    | (with_reducible apply keeps_raise)
    | (with_reducible apply keeps_uQos)

theorem keeps_modeChange {s₀ : State} {s : State} {d : Nat} {was : Bool} (hk : Keeps s₀ s) : Keeps s₀ (modeChange (s := s) (d := d) (was := was)) := by
  unfold modeChange
  try dsimp only
  repeat' first
    | (with_reducible assumption)
    | (with_reducible apply keeps_uQos)
    | (with_reducible apply keeps_drainLeash)
    | (fail_if_no_progress (with_reducible apply keeps_lit))
    | (with_reducible apply keeps_foldl; intro _ _ _)
    | (with_reducible apply keeps_ite)

theorem keeps_curtainCommit {s₀ : State} {s : State} {r : Nat} {d : Nat} (hk : Keeps s₀ s) : Keeps s₀ (curtainCommit (s := s) (r := r) (d := d)) := by
  unfold curtainCommit
  try dsimp only
  repeat' first
    | (with_reducible assumption)
    | (with_reducible apply keeps_wr)
    | (with_reducible apply keeps_dirty)
    | (with_reducible apply keeps_uQos)
    | (with_reducible apply keeps_modeChange)
    | (with_reducible apply keeps_putStage)
    | (fail_if_no_progress (with_reducible apply keeps_lit))
    | (with_reducible apply keeps_foldl; intro _ _ _)
    | (with_reducible apply keeps_ite)

theorem keeps_latch {s₀ : State} {s : State} {f : Fld} {m : SMap Nat} (hk : Keeps s₀ s) : Keeps s₀ (latch (s := s) (f := f) (m := m)) := by
  unfold latch
  try dsimp only
  repeat' first
    | (with_reducible assumption)
    | (with_reducible apply keeps_wr)
    | (with_reducible apply keeps_foldl; intro _ _ _)

theorem keeps_periodTick {s₀ : State} {s : State} (hk : Keeps s₀ s) : Keeps s₀ (periodTick (s := s)) := by
  unfold periodTick
  try dsimp only
  repeat' first
    | (with_reducible assumption)
    | (with_reducible apply keeps_wr)
    | (with_reducible apply keeps_tryWaits)
    | (with_reducible apply keeps_uCol)
    | (with_reducible apply keeps_uQos)
    | (with_reducible apply keeps_clearReg)
    | (with_reducible apply keeps_curtainCue)
    | (with_reducible apply keeps_latch)
    | (fail_if_no_progress (with_reducible apply keeps_lit))
    | (with_reducible apply keeps_uMem)
    | (exact (rfl : (_ : List Host.Cell) = _))
    | (with_reducible apply keeps_ite)

theorem keeps_txOutcome {s₀ : State} {s : State} {n : Core} {c : Ctx} {why : OutFor} {a : Answer} (hk : Keeps s₀ s) : Keeps s₀ (txOutcome (s := s) (n := n) (c := c) (why := why) (a := a)) := by
  unfold txOutcome
  try dsimp only
  repeat' first
    | (with_reducible assumption)
    | (with_reducible apply keeps_txOpen)
    | (with_reducible apply keeps_txCommit)
    | (with_reducible apply keeps_txAbort)
    | (with_reducible apply keeps_updCtx)
    | (with_reducible apply keeps_stopCtx)
    | (fail_if_no_progress (with_reducible apply keeps_lit))
    | (with_reducible apply keeps_ite)
    | split

theorem keeps_prefetched {s₀ : State} {s : State} {n : Core} {c : Ctx} {o : Out} {a : Answer} (hk : Keeps s₀ s) : Keeps s₀ (prefetched (s := s) (n := n) (c := c) (o := o) (a := a)) := by
  unfold prefetched
  try dsimp only
  repeat' first
    | (with_reducible assumption)
    | (with_reducible apply keeps_updCtx)
    | (with_reducible apply keeps_bufPut)
    | (fail_if_no_progress (with_reducible apply keeps_lit))
    | (with_reducible apply keeps_ite)

theorem keeps_ctxAnswered {s₀ : State} {s : State} {n : Core} {c : Ctx} {o : Out} {a : Answer} (hk : Keeps s₀ s) : Keeps s₀ (ctxAnswered (s := s) (n := n) (c := c) (o := o) (a := a)) := by
  unfold ctxAnswered
  try dsimp only
  repeat' first
    | (with_reducible assumption)
    | (with_reducible apply keeps_txAbort)
    | (with_reducible apply keeps_updCtx)
    | (with_reducible apply keeps_tidyCtx)
    | (with_reducible apply keeps_stopCtx)
    | (with_reducible apply keeps_txOutcome)
    | (with_reducible apply keeps_prefetched)
    | (fail_if_no_progress (with_reducible apply keeps_lit))
    | (with_reducible apply keeps_ite)
    | split

theorem keeps_copyAnswered {s₀ : State} {s : State} {x : CopyEngine} {o : Out} {a : Answer} (hk : Keeps s₀ s) : Keeps s₀ (copyAnswered (s := s) (x := x) (o := o) (a := a)) := by
  unfold copyAnswered
  try dsimp only
  repeat' first
    | (with_reducible assumption)
    | (with_reducible apply keeps_bump)
    | (with_reducible apply keeps_uRun)
    | (with_reducible apply keeps_copyPump)
    | (with_reducible apply keeps_copyStop)
    | (fail_if_no_progress (with_reducible apply keeps_lit))
    | (with_reducible apply keeps_ite)
    | split

theorem keeps_collAnswered {s₀ : State} {s : State} {o : Out} {a : Answer} (hk : Keeps s₀ s) : Keeps s₀ (collAnswered (s := s) (o := o) (a := a)) := by
  unfold collAnswered
  try dsimp only
  repeat' first
    | (with_reducible assumption)
    | (with_reducible apply keeps_abortPlan)
    | (with_reducible apply keeps_finishRun)
    | (with_reducible apply keeps_resultNext)
    | (with_reducible apply keeps_ite)
    | split

theorem keeps_completeOut {s₀ : State} {s : State} {k : Nat} {o : Out} {a : Answer} (hk : Keeps s₀ s) : Keeps s₀ (completeOut (s := s) (k := k) (o := o) (a := a)) := by
  unfold completeOut
  try dsimp only
  repeat' first
    | (with_reducible assumption)
    | (with_reducible apply keeps_ctxAnswered)
    | (with_reducible apply keeps_copyAnswered)
    | (with_reducible apply keeps_collAnswered)
    | (fail_if_no_progress (with_reducible apply keeps_lit))
    | split

theorem keeps_backOff {s₀ : State} {s : State} {k : Nat} {o : Out} (hk : Keeps s₀ s) : Keeps s₀ (backOff (s := s) (k := k) (o := o)) := by
  unfold backOff
  try dsimp only
  repeat' first
    | (with_reducible assumption)
    | (fail_if_no_progress (with_reducible apply keeps_lit))

theorem keeps_response {s₀ : State} {s : State} {q : Packet} (hk : Keeps s₀ s) : Keeps s₀ (response (s := s) (q := q)) := by
  unfold response
  try dsimp only
  repeat' first
    | (with_reducible assumption)
    | (with_reducible apply keeps_taken)
    | (with_reducible apply keeps_completeOut)
    | (with_reducible apply keeps_backOff)
    | (with_reducible apply keeps_ite)
    | split

theorem keeps_reissue {s₀ : State} {s : State} {r : Requester} {tag : Nat} (hk : Keeps s₀ s) : Keeps s₀ (reissue (s := s) (r := r) (tag := tag)) := by
  unfold reissue
  try dsimp only
  repeat' first
    | (with_reducible assumption)
    | (with_reducible apply keeps_send)
    | (fail_if_no_progress (with_reducible apply keeps_lit))
    | (with_reducible apply keeps_ite)
    | split

theorem keeps_cplTimeout {s₀ : State} {s : State} {r : Requester} {tag : Nat} (hk : Keeps s₀ s) : Keeps s₀ (cplTimeout (s := s) (r := r) (tag := tag)) := by
  unfold cplTimeout
  try dsimp only
  repeat' first
    | (with_reducible assumption)
    | (with_reducible apply keeps_completeOut)
    | (fail_if_no_progress (with_reducible apply keeps_lit))
    | (with_reducible apply keeps_ite)
    | split

theorem keeps_txNotice {s₀ : State} {s : State} {q : Packet} (hk : Keeps s₀ s) : Keeps s₀ (txNotice (s := s) (q := q)) := by
  unfold txNotice
  try dsimp only
  repeat' first
    | (with_reducible assumption)
    | (with_reducible apply keeps_taken)
    | (with_reducible apply keeps_uClu)
    | (fail_if_no_progress (with_reducible apply keeps_lit))
    | (with_reducible apply keeps_ite)

end Sys2Proof.Machine.State
end

