-- ==== Sys2Proof/Laws/KeepsNode.lean ====
section
/-! SUPPORT. Keeps (the waiting commands, the canonical tables) for the resets, power, protection, sequences, the kennel, trust, the register paths, the image and the idle step. -/

namespace Sys2Proof.Machine.State

theorem keeps_uRot {s₀ : State} {s : State} {f : Rot → Rot} (hk : Keeps s₀ s) : Keeps s₀ (uRot (s := s) (f := f)) := by
  unfold uRot
  try dsimp only
  repeat' first
    | (with_reducible assumption)
    | (fail_if_no_progress (with_reducible apply keeps_lit))

theorem keeps_uPwr {s₀ : State} {s : State} {f : Pwr → Pwr} (hk : Keeps s₀ s) : Keeps s₀ (uPwr (s := s) (f := f)) := by
  unfold uPwr
  try dsimp only
  repeat' first
    | (with_reducible assumption)
    | (fail_if_no_progress (with_reducible apply keeps_lit))

theorem keeps_evqOff {s₀ : State} {s : State} {e : Nat} (hk : Keeps s₀ s) : Keeps s₀ (evqOff (s := s) (e := e)) := by
  unfold evqOff
  try dsimp only
  repeat' first
    | (with_reducible assumption)
    | (with_reducible apply keeps_wr)
    | (with_reducible apply keeps_uEvt)
    | (with_reducible apply keeps_dirty)
    | (fail_if_no_progress (with_reducible apply keeps_lit))
    | (with_reducible apply keeps_ite)

theorem keeps_evqDisable {s₀ : State} {s : State} {qs : List Nat} {cause : Nat} (hk : Keeps s₀ s) : Keeps s₀ (evqDisable (s := s) (qs := qs) (cause := cause)) := by
  unfold evqDisable
  try dsimp only
  repeat' first
    | (with_reducible assumption)
    | (with_reducible apply keeps_raise)
    | (with_reducible apply keeps_evqOff)
    | (fail_if_no_progress (with_reducible apply keeps_lit))
    | (with_reducible apply keeps_foldl; intro _ _ _)

theorem keeps_fnReset {s₀ : State} {s : State} {h : Nat} {f : Nat} (hk : Keeps s₀ s) : Keeps s₀ (fnReset (s := s) (h := h) (f := f)) := by
  unfold fnReset
  try dsimp only
  repeat' first
    | (with_reducible assumption)
    | (with_reducible apply keeps_wr)
    | (with_reducible apply keeps_uRot)
    | (fail_if_no_progress (with_reducible apply keeps_lit))
    | (with_reducible apply keeps_ite)

theorem keeps_fnSecure {s₀ : State} {s : State} {h : Nat} {f : Nat} (hk : Keeps s₀ s) : Keeps s₀ (fnSecure (s := s) (h := h) (f := f)) := by
  unfold fnSecure
  try dsimp only
  repeat' first
    | (with_reducible assumption)
    | (with_reducible apply keeps_wrB)


theorem keeps_portFns {s₀ : State} {s : State} {h : Nat} {f : State → Nat → Nat → State}
    (hk : Keeps s₀ s) (hf : ∀ t i k, Keeps s₀ t → Keeps s₀ (f t i k)) : Keeps s₀ (s.portFns h f) := by
  unfold portFns
  exact keeps_foldl (fun t k ht => hf t h k ht) hk


theorem keeps_hostDown {s₀ : State} {s : State} {h : Nat} (hk : Keeps s₀ s) : Keeps s₀ (s.hostDown h) := by
  unfold hostDown
  split
  · exact hk
  · exact keeps_evqDisable (keeps_portFns (keeps_bump (keeps_wr (keeps_wr (keeps_wr hk)))) fun _ _ _ ht => keeps_fnReset ht)


theorem keeps_hostUp {s₀ : State} {s : State} {h speed width : Nat} (hk : Keeps s₀ s) : Keeps s₀ (s.hostUp h speed width) := by
  unfold hostUp
  dsimp only
  split
  · exact hk
  · exact keeps_portFns (keeps_portFns (keeps_wr (keeps_wr (keeps_wr hk))) fun _ _ _ ht => keeps_fnReset ht)
      fun _ _ _ ht => keeps_fnSecure ht

theorem keeps_refreshReferee {s₀ : State} {s : State} {c : Nat} (hk : Keeps s₀ s) : Keeps s₀ (refreshReferee (s := s) (c := c)) := by
  unfold refreshReferee
  try dsimp only
  repeat' first
    | (with_reducible assumption)
    | (with_reducible apply keeps_wrB)
    | (with_reducible apply keeps_uClu)
    | (with_reducible apply keeps_ite)
    | (with_reducible apply keeps_foldl; intro _ _ _)

theorem keeps_clusterRoles {s₀ : State} {s : State} {c : Nat} (hk : Keeps s₀ s) : Keeps s₀ (clusterRoles (s := s) (c := c)) := by
  unfold clusterRoles
  try dsimp only
  repeat' first
    | (with_reducible assumption)
    | (with_reducible apply keeps_wr)
    | (with_reducible apply keeps_refreshHist)
    | (with_reducible apply keeps_refreshReferee)
    | (with_reducible apply keeps_foldl; intro _ _ _)
    | (with_reducible apply keeps_ite)

theorem keeps_roles {s₀ : State} {s : State} (hk : Keeps s₀ s) : Keeps s₀ (roles (s := s)) := by
  unfold roles
  try dsimp only
  repeat' first
    | (with_reducible assumption)
    | (with_reducible apply keeps_wr)
    | (with_reducible apply keeps_clusterRoles)
    | (with_reducible apply keeps_foldl; intro _ _ _)
    | (with_reducible apply keeps_ite)
    | split


theorem sorted_keptRegs (m : SMap (BitVec 128)) : SMap.sorted (keptRegs m) = true := by
  unfold keptRegs
  suffices h : ∀ (l a : SMap (BitVec 128)), SMap.sorted a = true → SMap.sorted (l.foldl (fun a e =>
      a.putC ((Reg.all.getD (e.1 / 32768) .topNodeId).reset (e.1 % 32768)) e.1 (keptReg e.1 e.2)) a) = true from h m [] rfl
  intro l
  induction l with
  | nil => exact fun a h => h
  | cons e l ih => exact fun a h => ih _ (SMap.sorted_putC h)

theorem keeps_clearUnits {s₀ : State} {s : State} (hk : Keeps s₀ s) : Keeps s₀ s.clearUnits := by
  refine ⟨hk.1, fun _ => ?_⟩
  rw [wf_iff]
  exact ⟨rfl, sorted_keptRegs _, rfl⟩

theorem keeps_keepInputs {s₀ : State} {s : State} {old : State} (hk : Keeps s₀ s) : Keeps s₀ (keepInputs (s := s) (old := old)) := by
  unfold keepInputs
  try dsimp only
  repeat' first
    | (with_reducible assumption)
    | (with_reducible apply keeps_wr)
    | (with_reducible apply keeps_foldl; intro _ _ _)

theorem keeps_warmBegin {s₀ : State} {s : State} (hk : Keeps s₀ s) : Keeps s₀ (warmBegin (s := s)) := by
  unfold warmBegin
  try dsimp only
  repeat' first
    | (with_reducible assumption)
    | (with_reducible apply keeps_wr)
    | (with_reducible apply keeps_uRot)
    | (with_reducible apply keeps_uPwr)
    | (with_reducible apply keeps_hostDown)
    | (with_reducible apply keeps_roles)
    | (with_reducible apply keeps_clearUnits)
    | (with_reducible apply keeps_keepInputs)
    | (fail_if_no_progress (with_reducible apply keeps_lit))
    | (with_reducible apply keeps_foldl; intro _ _ _)

theorem keeps_warmRun {s₀ : State} {s : State} (hk : Keeps s₀ s) : Keeps s₀ (warmRun (s := s)) := by
  unfold warmRun
  try dsimp only
  repeat' first
    | (with_reducible assumption)
    | (with_reducible apply keeps_uPwr)


theorem keeps_coldBegin {s₀ : State} {s : State} (hk : Keeps s₀ s) : Keeps s₀ s.coldBegin := by
  unfold coldBegin
  dsimp only
  refine keeps_wr (keeps_keepInputs ⟨hk.1, fun _ => ?_⟩)
  rw [wf_iff]
  exact ⟨rfl, rfl, rfl⟩

theorem keeps_coldRun {s₀ : State} {s : State} (hk : Keeps s₀ s) : Keeps s₀ (coldRun (s := s)) := by
  unfold coldRun
  try dsimp only
  repeat' first
    | (with_reducible assumption)
    | (with_reducible apply keeps_uPwr)

theorem keeps_railsOff {s₀ : State} {s : State} (hk : Keeps s₀ s) : Keeps s₀ (railsOff (s := s)) := by
  unfold railsOff
  try dsimp only
  repeat' first
    | (with_reducible assumption)
    | (with_reducible apply keeps_wr)
    | (with_reducible apply keeps_foldl; intro _ _ _)

theorem keeps_powerOff {s₀ : State} {s : State} {state : Nat} (hk : Keeps s₀ s) : Keeps s₀ (powerOff (s := s) (state := state)) := by
  unfold powerOff
  try dsimp only
  repeat' first
    | (with_reducible assumption)
    | (with_reducible apply keeps_wr)
    | (with_reducible apply keeps_uPwr)
    | (with_reducible apply keeps_hostDown)
    | (with_reducible apply keeps_clearUnits)
    | (with_reducible apply keeps_keepInputs)
    | (with_reducible apply keeps_railsOff)
    | (fail_if_no_progress (with_reducible apply keeps_lit))

theorem keeps_trip {s₀ : State} {s : State} {cause : Nat} {die : Nat} {page : Nat} (hk : Keeps s₀ s) : Keeps s₀ (trip (s := s) (cause := cause) (die := die) (page := page)) := by
  unfold trip
  try dsimp only
  repeat' first
    | (with_reducible assumption)
    | (with_reducible apply keeps_wr)
    | (with_reducible apply keeps_raise)
    | (with_reducible apply keeps_uRas)
    | (with_reducible apply keeps_uPwr)
    | (with_reducible apply keeps_powerOff)
    | (fail_if_no_progress (with_reducible apply keeps_lit))
    | (with_reducible apply keeps_ite)

theorem keeps_powerEvent {s₀ : State} {s : State} {state : Nat} {step : Nat} (hk : Keeps s₀ s) : Keeps s₀ (powerEvent (s := s) (state := state) (step := step)) := by
  unfold powerEvent
  try dsimp only
  repeat' first
    | (with_reducible assumption)
    | (with_reducible apply keeps_raise)

theorem keeps_powerCommand {s₀ : State} {s : State} {op : Nat} (hk : Keeps s₀ s) : Keeps s₀ (powerCommand (s := s) (op := op)) := by
  unfold powerCommand
  try dsimp only
  repeat' first
    | (with_reducible assumption)
    | (with_reducible apply keeps_wr)
    | (with_reducible apply keeps_uRas)
    | (with_reducible apply keeps_goDown)
    | (with_reducible apply keeps_uPwr)
    | (with_reducible apply keeps_hostDown)
    | (with_reducible apply keeps_warmBegin)
    | (with_reducible apply keeps_warmRun)
    | (with_reducible apply keeps_coldBegin)
    | (with_reducible apply keeps_coldRun)
    | (with_reducible apply keeps_powerEvent)
    | (fail_if_no_progress (with_reducible apply keeps_lit))
    | (with_reducible apply keeps_foldl; intro _ _ _)
    | (with_reducible apply keeps_ite)
    | split

theorem keeps_powerUp {s₀ : State} {s : State} {a : Bool} {b : Bool} (hk : Keeps s₀ s) : Keeps s₀ (powerUp (s := s) (a := a) (b := b)) := by
  unfold powerUp
  try dsimp only
  repeat' first
    | (with_reducible assumption)
    | (with_reducible apply keeps_wr)
    | (with_reducible apply keeps_wrB)
    | (with_reducible apply keeps_coldRun)
    | (with_reducible apply keeps_foldl; intro _ _ _)
    | (with_reducible apply keeps_ite)

theorem keeps_loadHistory {s₀ : State} {s : State} {b : BootFacts} (hk : Keeps s₀ s) : Keeps s₀ (loadHistory (s := s) (b := b)) := by
  unfold loadHistory
  try dsimp only
  repeat' first
    | (with_reducible assumption)
    | (with_reducible apply keeps_raise)
    | (with_reducible apply keeps_uRas)
    | (fail_if_no_progress (with_reducible apply keeps_lit))
    | split

theorem keeps_recovery {s₀ : State} {s : State} {cause : Nat} (hk : Keeps s₀ s) : Keeps s₀ (recovery (s := s) (cause := cause)) := by
  unfold recovery
  try dsimp only
  repeat' first
    | (with_reducible assumption)
    | (with_reducible apply keeps_wr)
    | (with_reducible apply keeps_uRot)
    | (with_reducible apply keeps_uPwr)

theorem keeps_measure {s₀ : State} {s : State} (hk : Keeps s₀ s) : Keeps s₀ (measure (s := s)) := by
  unfold measure
  try dsimp only
  repeat' first
    | (with_reducible assumption)
    | (with_reducible apply keeps_uRot)

theorem keeps_bootDone {s₀ : State} {s : State} {b : BootFacts} (hk : Keeps s₀ s) : Keeps s₀ (bootDone (s := s) (b := b)) := by
  unfold bootDone
  try dsimp only
  repeat' first
    | (with_reducible assumption)
    | (with_reducible apply keeps_wr)
    | (with_reducible apply keeps_wrB)
    | (with_reducible apply keeps_uRot)
    | (with_reducible apply keeps_uPwr)
    | (with_reducible apply keeps_loadHistory)
    | (with_reducible apply keeps_recovery)
    | (with_reducible apply keeps_measure)
    | (fail_if_no_progress (with_reducible apply keeps_lit))
    | (with_reducible apply keeps_ite)
    | split

theorem keeps_railsGood {s₀ : State} {s : State} (hk : Keeps s₀ s) : Keeps s₀ (railsGood (s := s)) := by
  unfold railsGood
  try dsimp only
  repeat' first
    | (with_reducible assumption)
    | (with_reducible apply keeps_wr)
    | (with_reducible apply keeps_uPwr)
    | (fail_if_no_progress (with_reducible apply keeps_lit))
    | (with_reducible apply keeps_foldl; intro _ _ _)
    | (with_reducible apply keeps_ite)

theorem keeps_pllLocked {s₀ : State} {s : State} (hk : Keeps s₀ s) : Keeps s₀ (pllLocked (s := s)) := by
  unfold pllLocked
  try dsimp only
  repeat' first
    | (with_reducible assumption)
    | (with_reducible apply keeps_wr)
    | (with_reducible apply keeps_uPwr)
    | (fail_if_no_progress (with_reducible apply keeps_lit))
    | (with_reducible apply keeps_foldl; intro _ _ _)
    | (with_reducible apply keeps_ite)

theorem keeps_ready {s₀ : State} {s : State} (hk : Keeps s₀ s) : Keeps s₀ (ready (s := s)) := by
  unfold ready
  try dsimp only
  repeat' first
    | (with_reducible assumption)
    | (with_reducible apply keeps_wr)
    | (with_reducible apply keeps_uPwr)
    | (with_reducible apply keeps_powerEvent)
    | (fail_if_no_progress (with_reducible apply keeps_lit))
    | (with_reducible apply keeps_ite)

theorem keeps_stepLimit {s₀ : State} {s : State} (hk : Keeps s₀ s) : Keeps s₀ (stepLimit (s := s)) := by
  unfold stepLimit
  try dsimp only
  repeat' first
    | (with_reducible assumption)
    | (with_reducible apply keeps_wr)
    | (with_reducible apply keeps_powerOff)
    | (with_reducible apply keeps_powerEvent)
    | (with_reducible apply keeps_ite)

theorem keeps_droop {s₀ : State} {s : State} {x : Nat} {d : Nat} (hk : Keeps s₀ s) : Keeps s₀ (droop (s := s) (x := x) (d := d)) := by
  unfold droop
  try dsimp only
  repeat' first
    | (with_reducible assumption)
    | (with_reducible apply keeps_bump)
    | (with_reducible apply keeps_uPwr)
    | (fail_if_no_progress (with_reducible apply keeps_lit))
    | (with_reducible apply keeps_ite)

theorem keeps_droopEnds {s₀ : State} {s : State} {x : Nat} (hk : Keeps s₀ s) : Keeps s₀ (droopEnds (s := s) (x := x)) := by
  unfold droopEnds
  try dsimp only
  repeat' first
    | (with_reducible assumption)
    | (with_reducible apply keeps_uPwr)
    | (fail_if_no_progress (with_reducible apply keeps_lit))
    | (with_reducible apply keeps_ite)

theorem keeps_droopRestore {s₀ : State} {s : State} {d : Nat} (hk : Keeps s₀ s) : Keeps s₀ (droopRestore (s := s) (d := d)) := by
  unfold droopRestore
  try dsimp only
  repeat' first
    | (with_reducible assumption)
    | (with_reducible apply keeps_uPwr)

theorem keeps_railPoll {s₀ : State} {s : State} {d : Nat} {r : Nat} {v : PollResult} (hk : Keeps s₀ s) : Keeps s₀ (railPoll (s := s) (d := d) (r := r) (v := v)) := by
  unfold railPoll
  try dsimp only
  repeat' first
    | (with_reducible assumption)
    | (with_reducible apply keeps_wr)
    | (with_reducible apply keeps_raise)
    | (with_reducible apply keeps_trip)
    | (fail_if_no_progress (with_reducible apply keeps_lit))
    | (with_reducible apply keeps_ite)
    | split

theorem keeps_capTick {s₀ : State} {s : State} {watts : Nat} {hottest : List Nat} {stackHot : List Nat} {dimmHot : List Nat} (hk : Keeps s₀ s) : Keeps s₀ (capTick (s := s) (watts := watts) (hottest := hottest) (stackHot := stackHot) (dimmHot := dimmHot)) := by
  unfold capTick
  try dsimp only
  repeat' first
    | (with_reducible assumption)
    | (with_reducible apply keeps_wr)
    | (with_reducible apply keeps_wrB)
    | (with_reducible apply keeps_raise)
    | (with_reducible apply keeps_stackThermal)
    | (with_reducible apply keeps_uPwr)
    | (fail_if_no_progress (with_reducible apply keeps_lit))
    | (with_reducible apply keeps_foldl; intro _ _ _)
    | (with_reducible apply keeps_ite)


theorem keeps_thermalTrip {s₀ : State} {s : State} {x : TripSensor} (hk : Keeps s₀ s) : Keeps s₀ (s.thermalTrip x) := by
  cases x <;> exact keeps_ite (keeps_trip hk) hk

theorem keeps_refSeen {s₀ : State} {s : State} {f : Fld} {code : Nat} {d : Nat} {good : Bool} (hk : Keeps s₀ s) : Keeps s₀ (refSeen (s := s) (f := f) (code := code) (d := d) (good := good)).2 := by
  unfold refSeen
  try dsimp only
  repeat' first
    | (with_reducible assumption)
    | (with_reducible apply keeps_wrB)
    | (with_reducible apply keeps_bump)
    | (with_reducible apply keeps_raise)
    | (fail_if_no_progress (with_reducible apply keeps_lit))
    | (with_reducible apply keeps_ite)
    | split

theorem keeps_refCheck {s₀ : State} {s : State} {d : Nat} {sys : Bool} {lane : Bool} {pci : Bool} (hk : Keeps s₀ s) : Keeps s₀ (refCheck (s := s) (d := d) (sys := sys) (lane := lane) (pci := pci)) := by
  unfold refCheck
  try dsimp only
  repeat' first
    | (with_reducible assumption)
    | (with_reducible apply keeps_wr)
    | (with_reducible apply keeps_goDown)
    | (with_reducible apply keeps_uPwr)
    | (with_reducible apply keeps_hostDown)
    | (with_reducible apply keeps_trip)
    | (with_reducible apply keeps_refSeen)
    | (fail_if_no_progress (with_reducible apply keeps_lit))
    | (with_reducible apply keeps_foldl; intro _ _ _)
    | (with_reducible apply keeps_ite)
    | split

theorem keeps_feedEvent {s₀ : State} {s : State} {b : Bool} {good : Bool} (hk : Keeps s₀ s) : Keeps s₀ (feedEvent (s := s) (b := b) (good := good)) := by
  unfold feedEvent
  try dsimp only
  repeat' first
    | (with_reducible assumption)
    | (with_reducible apply keeps_raise)

theorem keeps_feedLost {s₀ : State} {s : State} {b : Bool} (hk : Keeps s₀ s) : Keeps s₀ (feedLost (s := s) (b := b)) := by
  unfold feedLost
  try dsimp only
  repeat' first
    | (with_reducible assumption)
    | (with_reducible apply keeps_wr)
    | (with_reducible apply keeps_uRas)
    | (with_reducible apply keeps_histAdd)
    | (with_reducible apply keeps_hostDown)
    | (with_reducible apply keeps_coldBegin)
    | (with_reducible apply keeps_feedEvent)
    | (fail_if_no_progress (with_reducible apply keeps_lit))
    | (with_reducible apply keeps_ite)

theorem keeps_feedRestored {s₀ : State} {s : State} {b : Bool} (hk : Keeps s₀ s) : Keeps s₀ (feedRestored (s := s) (b := b)) := by
  unfold feedRestored
  try dsimp only
  repeat' first
    | (with_reducible assumption)
    | (with_reducible apply keeps_wr)
    | (with_reducible apply keeps_feedEvent)
    | (with_reducible apply keeps_ite)

theorem keeps_gateCore {s₀ : State} {s : State} {n : Nat} (hk : Keeps s₀ s) : Keeps s₀ (gateCore (s := s) (n := n)) := by
  unfold gateCore
  try dsimp only
  repeat' first
    | (with_reducible assumption)
    | (with_reducible apply keeps_uClu)
    | (fail_if_no_progress (with_reducible apply keeps_lit))
    | (with_reducible apply keeps_ite)

theorem keeps_crcPass {s₀ : State} {s : State} {d : Nat} (hk : Keeps s₀ s) : Keeps s₀ (crcPass (s := s) (d := d)) := by
  unfold crcPass
  try dsimp only
  repeat' first
    | (with_reducible assumption)
    | (with_reducible apply keeps_wr)
    | (with_reducible apply keeps_draw)
    | (with_reducible apply keeps_dirty)
    | (with_reducible apply keeps_raise)
    | (fail_if_no_progress (with_reducible apply keeps_lit))
    | (with_reducible apply keeps_ite)

theorem keeps_crcCommit {s₀ : State} {s : State} {d : Nat} (hk : Keeps s₀ s) : Keeps s₀ (crcCommit (s := s) (d := d)) := by
  unfold crcCommit
  try dsimp only
  repeat' first
    | (with_reducible assumption)
    | (with_reducible apply keeps_wr)

theorem keeps_crcRefWritten {s₀ : State} {s : State} {d : Nat} (hk : Keeps s₀ s) : Keeps s₀ (crcRefWritten (s := s) (d := d)) := by
  unfold crcRefWritten
  try dsimp only
  repeat' first
    | (with_reducible assumption)
    | (with_reducible apply keeps_wr)
    | (with_reducible apply keeps_dirty)
    | (fail_if_no_progress (with_reducible apply keeps_lit))

theorem keeps_funcTimer {s₀ : State} {s : State} {k : FuncKind} {i : Nat} (hk : Keeps s₀ s) : Keeps s₀ (funcTimer (s := s) (k := k) (i := i)) := by
  unfold funcTimer
  try dsimp only
  repeat' first
    | (with_reducible assumption)
    | (with_reducible apply keeps_raise)
    | (fail_if_no_progress (with_reducible apply keeps_lit))
    | (with_reducible apply keeps_ite)

theorem keeps_setCoreMap {s₀ : State} {s : State} {n : Nat} {v : Nat} (hk : Keeps s₀ s) : Keeps s₀ (setCoreMap (s := s) (n := n) (v := v)) := by
  unfold setCoreMap
  try dsimp only
  repeat' first
    | (with_reducible assumption)
    | (with_reducible apply keeps_dirty)
    | (with_reducible apply keeps_setReg)
    | (with_reducible apply keeps_ite)

theorem keeps_startDrain {s₀ : State} {s : State} {n : Nat} {why : TestFor} (hk : Keeps s₀ s) : Keeps s₀ (startDrain (s := s) (n := n) (why := why)) := by
  unfold startDrain
  try dsimp only
  repeat' first
    | (with_reducible assumption)
    | (with_reducible apply keeps_wr)
    | (with_reducible apply keeps_uRas)
    | (with_reducible apply keeps_drainCheck)
    | (with_reducible apply keeps_refreshReferee)

theorem keeps_startTest {s₀ : State} {s : State} {n : Nat} {why : TestFor} (hk : Keeps s₀ s) : Keeps s₀ (startTest (s := s) (n := n) (why := why)) := by
  unfold startTest
  try dsimp only
  repeat' first
    | (with_reducible assumption)
    | (with_reducible apply keeps_beginTest)
    | (with_reducible apply keeps_refreshReferee)

theorem keeps_setRole {s₀ : State} {s : State} {n : Nat} {state : Nat} (hk : Keeps s₀ s) : Keeps s₀ (setRole (s := s) (n := n) (state := state)) := by
  unfold setRole
  try dsimp only
  repeat' first
    | (with_reducible assumption)
    | (with_reducible apply keeps_wr)

theorem keeps_unfenced {s₀ : State} {s : State} {n : Nat} (hk : Keeps s₀ s) : Keeps s₀ (unfenced (s := s) (n := n)) := by
  unfold unfenced
  try dsimp only
  repeat' first
    | (with_reducible assumption)
    | (with_reducible apply keeps_wr)
    | (with_reducible apply keeps_uRas)
    | (with_reducible apply keeps_setRole)

theorem keeps_testDone {s₀ : State} {s : State} {n : Nat} {rating : TestRating} {margin : Nat} (hk : Keeps s₀ s) : Keeps s₀ (testDone (s := s) (n := n) (rating := rating) (margin := margin)) := by
  unfold testDone
  try dsimp only
  repeat' first
    | (with_reducible assumption)
    | (with_reducible apply keeps_wr)
    | (with_reducible apply keeps_uRas)
    | (with_reducible apply keeps_fence)
    | (with_reducible apply keeps_histAdd)
    | (with_reducible apply keeps_setVcore)
    | (with_reducible apply keeps_refreshReferee)
    | (with_reducible apply keeps_setRole)
    | (with_reducible apply keeps_unfenced)
    | (fail_if_no_progress (with_reducible apply keeps_lit))
    | (with_reducible apply keeps_ite)
    | split

theorem keeps_startupDone {s₀ : State} {s : State} {c : Nat} {sigs : List DWord} (hk : Keeps s₀ s) : Keeps s₀ (startupDone (s := s) (c := c) (sigs := sigs)) := by
  unfold startupDone
  try dsimp only
  repeat' first
    | (with_reducible assumption)
    | (with_reducible apply keeps_wr)
    | (with_reducible apply keeps_fence)
    | (with_reducible apply keeps_histAdd)
    | (with_reducible apply keeps_refreshReferee)
    | (with_reducible apply keeps_foldl; intro _ _ _)
    | (with_reducible apply keeps_ite)

theorem keeps_roleSwap {s₀ : State} {s : State} {c : Nat} (hk : Keeps s₀ s) : Keeps s₀ (roleSwap (s := s) (c := c)) := by
  unfold roleSwap
  try dsimp only
  repeat' first
    | (with_reducible assumption)
    | (with_reducible apply keeps_uRas)
    | (with_reducible apply keeps_setCoreMap)
    | (with_reducible apply keeps_startDrain)
    | (with_reducible apply keeps_setRole)
    | (fail_if_no_progress (with_reducible apply keeps_lit))
    | (with_reducible apply keeps_ite)
    | split

theorem keeps_swapSlow {s₀ : State} {s : State} {c : Nat} (hk : Keeps s₀ s) : Keeps s₀ (swapSlow (s := s) (c := c)) := by
  unfold swapSlow
  try dsimp only
  repeat' first
    | (with_reducible assumption)
    | (with_reducible apply keeps_raise)
    | (fail_if_no_progress (with_reducible apply keeps_lit))
    | (with_reducible apply keeps_ite)

theorem keeps_stopFenced {s₀ : State} {s : State} {n : Nat} (hk : Keeps s₀ s) : Keeps s₀ (stopFenced (s := s) (n := n)) := by
  unfold stopFenced
  try dsimp only
  repeat' first
    | (with_reducible assumption)
    | (with_reducible apply keeps_uClu)
    | (with_reducible apply keeps_stopCtx)
    | (fail_if_no_progress (with_reducible apply keeps_lit))
    | (with_reducible apply keeps_foldl; intro _ _ _)
    | split

theorem keeps_fenceDoneCore {s₀ : State} {s : State} {n : Nat} {cls : Nat} (hk : Keeps s₀ s) : Keeps s₀ (fenceDoneCore (s := s) (n := n) (cls := cls)) := by
  unfold fenceDoneCore
  try dsimp only
  repeat' first
    | (with_reducible assumption)
    | (with_reducible apply keeps_wr)
    | (with_reducible apply keeps_raise)
    | (with_reducible apply keeps_uRas)
    | (with_reducible apply keeps_uClu)
    | (with_reducible apply keeps_uPtu)
    | (with_reducible apply keeps_refreshReferee)
    | (with_reducible apply keeps_setCoreMap)
    | (with_reducible apply keeps_setRole)
    | (fail_if_no_progress (with_reducible apply keeps_lit))
    | (with_reducible apply keeps_ite)
    | split

theorem keeps_fenceRecords {s₀ : State} {s : State} {n : Nat} (hk : Keeps s₀ s) : Keeps s₀ (fenceRecords (s := s) (n := n)) := by
  unfold fenceRecords
  try dsimp only
  repeat' first
    | (with_reducible assumption)
    | (with_reducible apply keeps_stopFenced)
    | (with_reducible apply keeps_fenceDoneCore)
    | (with_reducible apply keeps_ite)
    | split

theorem keeps_rasCommand {s₀ : State} {s : State} {op : Nat} {n : Nat} (hk : Keeps s₀ s) : Keeps s₀ (rasCommand (s := s) (op := op) (n := n)) := by
  unfold rasCommand
  try dsimp only
  repeat' first
    | (with_reducible assumption)
    | (with_reducible apply keeps_wr)
    | (with_reducible apply keeps_fence)
    | (with_reducible apply keeps_startDrain)
    | (with_reducible apply keeps_startTest)
    | (with_reducible apply keeps_stopFenced)
    | (with_reducible apply keeps_ite)
    | split

theorem keeps_recoveryTest {s₀ : State} {s : State} {n : Nat} (hk : Keeps s₀ s) : Keeps s₀ (recoveryTest (s := s) (n := n)) := by
  unfold recoveryTest
  try dsimp only
  repeat' first
    | (with_reducible assumption)
    | (with_reducible apply keeps_recovery)
    | (with_reducible apply keeps_startDrain)
    | (with_reducible apply keeps_ite)

theorem keeps_settleDispute {s₀ : State} {s : State} {d : Dispute} {vals : Option (List LineData)} (hk : Keeps s₀ s) : Keeps s₀ (settleDispute (s := s) (d := d) (vals := vals)) := by
  unfold settleDispute
  try dsimp only
  repeat' first
    | (with_reducible assumption)
    | (with_reducible apply keeps_setCtx)
    | (with_reducible apply keeps_stopCtx)
    | (fail_if_no_progress (with_reducible apply keeps_lit))
    | (with_reducible apply keeps_ite)
    | split

theorem keeps_verdict {s₀ : State} {s : State} {n : Nat} {c : Nat} {r : RefereeRun} (hk : Keeps s₀ s) : Keeps s₀ (verdict (s := s) (n := n) (c := c) (r := r)) := by
  unfold verdict
  try dsimp only
  repeat' first
    | (with_reducible assumption)
    | (with_reducible apply keeps_bump)
    | (with_reducible apply keeps_uRas)
    | (with_reducible apply keeps_histAdd)
    | (with_reducible apply keeps_recoveryTest)
    | (with_reducible apply keeps_settleDispute)
    | (fail_if_no_progress (with_reducible apply keeps_lit))
    | (with_reducible apply keeps_ite)
    | split

theorem keeps_canary {s₀ : State} {s : State} {n : Nat} {a : Nat} {b : Nat} {ra : LineData} {rb : LineData} {u : Option LineData} (hk : Keeps s₀ s) : Keeps s₀ (canary (s := s) (n := n) (a := a) (b := b) (ra := ra) (rb := rb) (u := u)) := by
  unfold canary
  try dsimp only
  repeat' first
    | (with_reducible assumption)
    | (with_reducible apply keeps_bump)
    | (with_reducible apply keeps_histAdd)
    | (with_reducible apply keeps_recoveryTest)
    | (with_reducible apply keeps_ite)

theorem keeps_scalarCanary {s₀ : State} {s : State} {n : Nat} {sig : DWord} {ref : DWord} (hk : Keeps s₀ s) : Keeps s₀ (scalarCanary (s := s) (n := n) (sig := sig) (ref := ref)) := by
  unfold scalarCanary
  try dsimp only
  repeat' first
    | (with_reducible assumption)
    | (with_reducible apply keeps_histAdd)
    | (with_reducible apply keeps_ite)

theorem keeps_histCommit {s₀ : State} {s : State} {written : Bool} (hk : Keeps s₀ s) : Keeps s₀ (histCommit (s := s) (written := written)) := by
  unfold histCommit
  try dsimp only
  repeat' first
    | (with_reducible assumption)
    | (with_reducible apply keeps_wr)
    | (with_reducible apply keeps_raise)
    | (with_reducible apply keeps_uRas)
    | (fail_if_no_progress (with_reducible apply keeps_lit))
    | (with_reducible apply keeps_ite)

theorem keeps_setKey {s₀ : State} {s : State} {k : Nat} {x : KeyState} {state : Nat} {gen : Nat} {part : Nat} (hk : Keeps s₀ s) : Keeps s₀ (setKey (s := s) (k := k) (x := x) (state := state) (gen := gen) (part := part)) := by
  unfold setKey
  try dsimp only
  repeat' first
    | (with_reducible assumption)
    | (with_reducible apply keeps_wr)
    | (fail_if_no_progress (with_reducible apply keeps_lit))

theorem keeps_newKey {s₀ : State} {s : State} (hk : Keeps s₀ s) : Keeps s₀ (newKey (s := s)).2 := by
  unfold newKey
  try dsimp only
  repeat' first
    | (with_reducible assumption)
    | (with_reducible apply keeps_uRot)

theorem keeps_eraseKey {s₀ : State} {s : State} {k : Nat} (hk : Keeps s₀ s) : Keeps s₀ (eraseKey (s := s) (k := k)) := by
  unfold eraseKey
  try dsimp only
  repeat' first
    | (with_reducible assumption)
    | (with_reducible apply keeps_setKey)

theorem keeps_rotationDone {s₀ : State} {s : State} {k : Nat} (hk : Keeps s₀ s) : Keeps s₀ (rotationDone (s := s) (k := k)) := by
  unfold rotationDone
  try dsimp only
  repeat' first
    | (with_reducible assumption)
    | (with_reducible apply keeps_raise)
    | (with_reducible apply keeps_setKey)

theorem keeps_sweepCheck {s₀ : State} {s : State} {k : Nat} (hk : Keeps s₀ s) : Keeps s₀ (sweepCheck (s := s) (k := k)) := by
  unfold sweepCheck
  try dsimp only
  repeat' first
    | (with_reducible assumption)
    | (with_reducible apply keeps_rotationDone)
    | (fail_if_no_progress (with_reducible apply keeps_lit))
    | (with_reducible apply keeps_ite)

theorem keeps_keyCommand {s₀ : State} {s : State} {op : Nat} {k : Nat} {p : Nat} (hk : Keeps s₀ s) : Keeps s₀ (keyCommand (s := s) (op := op) (k := k) (p := p)).2 := by
  unfold keyCommand
  try dsimp only
  repeat' first
    | (with_reducible assumption)
    | (with_reducible apply keeps_setKey)
    | (with_reducible apply keeps_newKey)
    | (with_reducible apply keeps_eraseKey)
    | (with_reducible apply keeps_sweepCheck)
    | (fail_if_no_progress (with_reducible apply keeps_lit))
    | (with_reducible apply keeps_ite)
    | split

theorem keeps_sweepLine {s₀ : State} {s : State} {k : Nat} {g : Bool} {u : Upset} (hk : Keeps s₀ s) : Keeps s₀ (sweepLine (s := s) (k := k) (g := g) (u := u)) := by
  unfold sweepLine
  try dsimp only
  repeat' first
    | (with_reducible assumption)
    | (with_reducible apply keeps_dirty)
    | (with_reducible apply keeps_lineStore)
    | (with_reducible apply keeps_mscPut)
    | (with_reducible apply keeps_unitDeliver)
    | (with_reducible apply keeps_arrived)
    | (fail_if_no_progress (with_reducible apply keeps_lit))
    | (with_reducible apply keeps_uMem)
    | (exact (rfl : (_ : List Host.Cell) = _))
    | (with_reducible apply keeps_ite)
    | split

theorem keeps_keySweep {s₀ : State} {s : State} {d : Nat} {k : Nat} {u : Upset} (hk : Keeps s₀ s) : Keeps s₀ (keySweep (s := s) (d := d) (k := k) (u := u)) := by
  unfold keySweep
  try dsimp only
  repeat' first
    | (with_reducible assumption)
    | (with_reducible apply keeps_cacheHalt)
    | (with_reducible apply keeps_stopHome)
    | (with_reducible apply keeps_sweepCheck)
    | (with_reducible apply keeps_sweepLine)
    | (fail_if_no_progress (with_reducible apply keeps_lit))
    | (with_reducible apply keeps_foldl; intro _ _ _)
    | (with_reducible apply keeps_ite)
    | split

theorem keeps_partEvent {s₀ : State} {s : State} {p : Nat} {state : Nat} (hk : Keeps s₀ s) : Keeps s₀ (partEvent (s := s) (p := p) (state := state)) := by
  unfold partEvent
  try dsimp only
  repeat' first
    | (with_reducible assumption)
    | (with_reducible apply keeps_raise)

theorem keeps_stopTasks {s₀ : State} {s : State} {p : Nat} (hk : Keeps s₀ s) : Keeps s₀ (stopTasks (s := s) (p := p)) := by
  unfold stopTasks
  try dsimp only
  repeat' first
    | (with_reducible assumption)
    | (with_reducible apply keeps_refreshSave)
    | (with_reducible apply keeps_uClu)
    | (with_reducible apply keeps_unreserve)
    | (with_reducible apply keeps_stopCtx)
    | (with_reducible apply keeps_copyStop)
    | (fail_if_no_progress (with_reducible apply keeps_lit))
    | (with_reducible apply keeps_foldl; intro _ _ _)
    | (with_reducible apply keeps_ite)
    | split

theorem keeps_revoke {s₀ : State} {s : State} {p : Nat} (hk : Keeps s₀ s) : Keeps s₀ (revoke (s := s) (p := p)) := by
  unfold revoke
  try dsimp only
  repeat' first
    | (with_reducible assumption)
    | (with_reducible apply keeps_wr)
    | (with_reducible apply keeps_abortWhere)
    | (with_reducible apply keeps_startSweep)
    | (with_reducible apply keeps_abortPlans)
    | (with_reducible apply keeps_stopTasks)
    | (with_reducible apply keeps_foldl; intro _ _ _)

theorem keeps_partCommand {s₀ : State} {s : State} {op : Nat} {p : Nat} (hk : Keeps s₀ s) : Keeps s₀ (partCommand (s := s) (op := op) (p := p)) := by
  unfold partCommand
  try dsimp only
  repeat' first
    | (with_reducible assumption)
    | (with_reducible apply keeps_wr)
    | (with_reducible apply keeps_revoke)
    | (with_reducible apply keeps_ite)

theorem keeps_partStarted {s₀ : State} {s : State} {p : Nat} (hk : Keeps s₀ s) : Keeps s₀ (partStarted (s := s) (p := p)) := by
  unfold partStarted
  try dsimp only
  repeat' first
    | (with_reducible assumption)
    | (with_reducible apply keeps_wr)
    | (with_reducible apply keeps_partEvent)
    | (with_reducible apply keeps_ite)

theorem keeps_extRevoked {s₀ : State} {s : State} {e : Nat} (hk : Keeps s₀ s) : Keeps s₀ (extRevoked (s := s) (e := e)) := by
  unfold extRevoked
  try dsimp only
  repeat' first
    | (with_reducible assumption)
    | (with_reducible apply keeps_dropWalks)
    | (with_reducible apply keeps_setExt)
    | (with_reducible apply keeps_extOff)

theorem keeps_clearInst {s₀ : State} {s : State} {r : Reg} {i : Nat} (hk : Keeps s₀ s) : Keeps s₀ (clearInst (s := s) (r := r) (i := i)) := by
  unfold clearInst
  try dsimp only
  repeat' first
    | (with_reducible assumption)
    | (with_reducible apply keeps_setReg)

theorem keeps_clearBindings {s₀ : State} {s : State} {p : Nat} (hk : Keeps s₀ s) : Keeps s₀ (clearBindings (s := s) (p := p)) := by
  unfold clearBindings
  try dsimp only
  repeat' first
    | (with_reducible assumption)
    | (with_reducible apply keeps_dirtyAll)
    | (with_reducible apply keeps_uClu)
    | (with_reducible apply keeps_uPtu)
    | (with_reducible apply keeps_dropCommands)
    | (with_reducible apply keeps_planOff)
    | (with_reducible apply keeps_clearInst)
    | (fail_if_no_progress (with_reducible apply keeps_lit))
    | (with_reducible apply keeps_foldl; intro _ _ _)
    | (with_reducible apply keeps_ite)

theorem keeps_revokeDrained {s₀ : State} {s : State} {p : Nat} (hk : Keeps s₀ s) : Keeps s₀ (revokeDrained (s := s) (p := p)) := by
  unfold revokeDrained
  try dsimp only
  repeat' first
    | (with_reducible assumption)
    | (with_reducible apply keeps_wr)
    | (with_reducible apply keeps_uRas)
    | (with_reducible apply keeps_fence)
    | (with_reducible apply keeps_stopFenced)
    | (with_reducible apply keeps_eraseKey)
    | (with_reducible apply keeps_partEvent)
    | (with_reducible apply keeps_extRevoked)
    | (with_reducible apply keeps_clearBindings)
    | (fail_if_no_progress (with_reducible apply keeps_lit))
    | (with_reducible apply keeps_foldl; intro _ _ _)
    | (with_reducible apply keeps_ite)

theorem keeps_putMbox {s₀ : State} {s : State} {b : List Byte} (hk : Keeps s₀ s) : Keeps s₀ (putMbox (s := s) (b := b)) := by
  unfold putMbox
  try dsimp only
  repeat' first
    | (with_reducible assumption)
    | (with_reducible apply keeps_wr)
    | (with_reducible apply keeps_foldl; intro _ _ _)

theorem keeps_mboxAnswer {s₀ : State} {s : State} {q : MboxReq} {status : Nat} {b : List Byte} (hk : Keeps s₀ s) : Keeps s₀ (mboxAnswer (s := s) (q := q) (status := status) (b := b)) := by
  unfold mboxAnswer
  try dsimp only
  repeat' first
    | (with_reducible assumption)
    | (with_reducible apply keeps_wr)
    | (with_reducible apply keeps_uRot)
    | (with_reducible apply keeps_putMbox)
    | (fail_if_no_progress (with_reducible apply keeps_lit))
    | (with_reducible apply keeps_ite)

theorem keeps_grantInvasive {s₀ : State} {s : State} {q : MboxReq} (hk : Keeps s₀ s) : Keeps s₀ (grantInvasive (s := s) (q := q)) := by
  unfold grantInvasive
  try dsimp only
  repeat' first
    | (with_reducible assumption)
    | (with_reducible apply keeps_wr)
    | (with_reducible apply keeps_uRot)
    | (with_reducible apply keeps_measure)
    | (with_reducible apply keeps_eraseKey)
    | (with_reducible apply keeps_mboxAnswer)
    | (with_reducible apply keeps_setReg)
    | (fail_if_no_progress (with_reducible apply keeps_lit))
    | (with_reducible apply keeps_foldl; intro _ _ _)

theorem keeps_unlockCheck {s₀ : State} {s : State} (hk : Keeps s₀ s) : Keeps s₀ (unlockCheck (s := s)) := by
  unfold unlockCheck
  try dsimp only
  repeat' first
    | (with_reducible assumption)
    | (with_reducible apply keeps_grantInvasive)
    | (with_reducible apply keeps_ite)
    | split

theorem keeps_unlockFailed {s₀ : State} {s : State} {q : MboxReq} (hk : Keeps s₀ s) : Keeps s₀ (unlockFailed (s := s) (q := q)) := by
  unfold unlockFailed
  try dsimp only
  repeat' first
    | (with_reducible assumption)
    | (with_reducible apply keeps_wr)
    | (with_reducible apply keeps_uRot)
    | (with_reducible apply keeps_mboxAnswer)

theorem keeps_debugUnlock {s₀ : State} {s : State} {q : MboxReq} (hk : Keeps s₀ s) : Keeps s₀ (debugUnlock (s := s) (q := q)) := by
  unfold debugUnlock
  try dsimp only
  repeat' first
    | (with_reducible assumption)
    | (with_reducible apply keeps_wr)
    | (with_reducible apply keeps_uRot)
    | (with_reducible apply keeps_measure)
    | (with_reducible apply keeps_revoke)
    | (with_reducible apply keeps_mboxAnswer)
    | (with_reducible apply keeps_unlockCheck)
    | (with_reducible apply keeps_unlockFailed)
    | (fail_if_no_progress (with_reducible apply keeps_lit))
    | (with_reducible apply keeps_foldl; intro _ _ _)
    | (with_reducible apply keeps_ite)

theorem keeps_mboxServe {s₀ : State} {s : State} {q : MboxReq} (hk : Keeps s₀ s) : Keeps s₀ (mboxServe (s := s) (q := q)) := by
  unfold mboxServe
  try dsimp only
  repeat' first
    | (with_reducible assumption)
    | (with_reducible apply keeps_wr)
    | (with_reducible apply keeps_uRot)
    | (with_reducible apply keeps_coldBegin)
    | (with_reducible apply keeps_coldRun)
    | (with_reducible apply keeps_measure)
    | (with_reducible apply keeps_mboxAnswer)
    | (with_reducible apply keeps_debugUnlock)
    | (fail_if_no_progress (with_reducible apply keeps_lit))
    | (with_reducible apply keeps_ite)
    | split

theorem keeps_mailbox {s₀ : State} {s : State} {q : MboxReq} (hk : Keeps s₀ s) : Keeps s₀ (mailbox (s := s) (q := q)) := by
  unfold mailbox
  try dsimp only
  repeat' first
    | (with_reducible assumption)
    | (with_reducible apply keeps_uRot)
    | (with_reducible apply keeps_mboxServe)
    | (fail_if_no_progress (with_reducible apply keeps_lit))
    | (with_reducible apply keeps_ite)

theorem keeps_mboxDrain {s₀ : State} {s : State} (hk : Keeps s₀ s) : Keeps s₀ (mboxDrain (s := s)) := by
  unfold mboxDrain
  try dsimp only
  repeat' first
    | (with_reducible assumption)
    | (with_reducible apply keeps_uRot)
    | (with_reducible apply keeps_mailbox)
    | (fail_if_no_progress (with_reducible apply keeps_lit))
    | (with_reducible apply keeps_foldl; intro _ _ _)
    | (with_reducible apply keeps_ite)

theorem keeps_attest {s₀ : State} {s : State} {t : Transport} {answer : List Byte} (hk : Keeps s₀ s) : Keeps s₀ (attest (s := s) (t := t) (answer := answer)) := by
  unfold attest
  try dsimp only
  repeat' first
    | (with_reducible assumption)
    | (with_reducible apply keeps_answer)
    | (with_reducible apply keeps_uRot)
    | (fail_if_no_progress (with_reducible apply keeps_lit))
    | (with_reducible apply keeps_ite)

theorem keeps_logViol {s₀ : State} {s : State} {p : Path} {off : Nat} {write : Bool} {viaAlias : Bool} {cause : Nat} (hk : Keeps s₀ s) : Keeps s₀ (logViol (s := s) (p := p) (off := off) (write := write) (viaAlias := viaAlias) (cause := cause)) := by
  unfold logViol
  try dsimp only
  repeat' first
    | (with_reducible assumption)
    | (with_reducible apply keeps_wr)
    | (with_reducible apply keeps_wrB)
    | (with_reducible apply keeps_bump)
    | (with_reducible apply keeps_ite)

theorem keeps_rangeErr {s₀ : State} {s : State} {p : Path} {off : Nat} (hk : Keeps s₀ s) : Keeps s₀ (rangeErr (s := s) (p := p) (off := off)) := by
  unfold rangeErr
  try dsimp only
  repeat' first
    | (with_reducible assumption)
    | (with_reducible apply keeps_wr)
    | (with_reducible apply keeps_bump)
    | (with_reducible apply keeps_ite)

theorem keeps_turnedAway {s₀ : State} {s : State} {p : Path} {off : Nat} {write : Bool} (hk : Keeps s₀ s) : ∀ t, turnedAway (s := s) (p := p) (off := off) (write := write) = some t → Keeps s₀ t := by
  unfold turnedAway
  try dsimp only
  repeat' first
    | (with_reducible assumption)
    | (with_reducible apply keeps_logViol)
    | (with_reducible apply keeps_ite)
    | split
    | (intro t ht)
    | (cases ‹some _ = some _›)
    | (cases ‹none = some _›)

theorem keeps_dirtyReg {s₀ : State} {s : State} {r : Reg} {i : Nat} (hk : Keeps s₀ s) : Keeps s₀ (dirtyReg (s := s) (r := r) (i := i)) := by
  unfold dirtyReg
  try dsimp only
  repeat' first
    | (with_reducible assumption)
    | (with_reducible apply keeps_dirty)
    | (with_reducible apply keeps_dirtyAll)
    | split

theorem keeps_store {s₀ : State} {s : State} {w : WordWrite} {cand : BitVec 128} (hk : Keeps s₀ s) : Keeps s₀ (store (s := s) (w := w) (cand := cand)) := by
  unfold store
  try dsimp only
  repeat' first
    | (with_reducible assumption)
    | (with_reducible apply keeps_dirtyReg)
    | (with_reducible apply keeps_setReg)
    | (with_reducible apply keeps_ite)

theorem keeps_refused {s₀ : State} {s : State} {w : WordWrite} (hk : Keeps s₀ s) : Keeps s₀ (refused (s := s) (w := w)) := by
  unfold refused
  try dsimp only
  repeat' first
    | (with_reducible assumption)
    | (with_reducible apply keeps_refuseWrite)

theorem keeps_slotWrite {s₀ : State} {s : State} {w : WordWrite} {base : BitVec 128} {cand : BitVec 128} (hk : Keeps s₀ s) : Keeps s₀ (slotWrite (s := s) (w := w) (base := base) (cand := cand)) := by
  unfold slotWrite
  try dsimp only
  repeat' first
    | (with_reducible assumption)
    | (with_reducible refine keeps_slotCommand ?_ _ (by assumption))
    | (with_reducible apply keeps_store)
    | (with_reducible apply keeps_refused)
    | (with_reducible apply keeps_ite)
    | split

theorem keeps_groupWrite {s₀ : State} {s : State} {w : WordWrite} {base : BitVec 128} {cand : BitVec 128} (hk : Keeps s₀ s) : Keeps s₀ (groupWrite (s := s) (w := w) (base := base) (cand := cand)) := by
  unfold groupWrite
  try dsimp only
  repeat' first
    | (with_reducible assumption)
    | (with_reducible apply keeps_store)
    | (with_reducible apply keeps_refused)
    | (with_reducible apply keeps_ite)

theorem keeps_dmcWrite {s₀ : State} {s : State} {w : WordWrite} {base : BitVec 128} {cand : BitVec 128} (hk : Keeps s₀ s) : Keeps s₀ (dmcWrite (s := s) (w := w) (base := base) (cand := cand)) := by
  unfold dmcWrite
  try dsimp only
  repeat' first
    | (with_reducible assumption)
    | (with_reducible apply keeps_store)

theorem keeps_reserveWrite {s₀ : State} {s : State} {w : WordWrite} {cand : BitVec 128} (hk : Keeps s₀ s) : Keeps s₀ (reserveWrite (s := s) (w := w) (cand := cand)) := by
  unfold reserveWrite
  try dsimp only
  repeat' first
    | (with_reducible assumption)
    | (with_reducible apply keeps_refreshFree)
    | (with_reducible apply keeps_store)
    | (with_reducible apply keeps_refused)
    | (with_reducible apply keeps_ite)

theorem keeps_spaceWrite {s₀ : State} {s : State} {w : WordWrite} {base : BitVec 128} {cand : BitVec 128} (hk : Keeps s₀ s) : Keeps s₀ (spaceWrite (s := s) (w := w) (base := base) (cand := cand)) := by
  unfold spaceWrite
  try dsimp only
  repeat' first
    | (with_reducible assumption)
    | (with_reducible apply keeps_uPtu)
    | (with_reducible apply keeps_store)
    | (fail_if_no_progress (with_reducible apply keeps_lit))
    | (with_reducible apply keeps_ite)

theorem keeps_queueWrite {s₀ : State} {s : State} {w : WordWrite} {base : BitVec 128} {cand : BitVec 128} {busy : Bool} {ok : BitVec 128 → Bool} (hk : Keeps s₀ s) : Keeps s₀ (queueWrite (s := s) (w := w) (base := base) (cand := cand) (busy := busy) (ok := ok)) := by
  unfold queueWrite
  try dsimp only
  repeat' first
    | (with_reducible assumption)
    | (with_reducible apply keeps_store)
    | (with_reducible apply keeps_refused)
    | (with_reducible apply keeps_ite)

theorem keeps_hostQueueWrite {s₀ : State} {s : State} {w : WordWrite} {base : BitVec 128} {cand : BitVec 128} (hk : Keeps s₀ s) : Keeps s₀ (hostQueueWrite (s := s) (w := w) (base := base) (cand := cand)) := by
  unfold hostQueueWrite
  try dsimp only
  repeat' first
    | (with_reducible assumption)
    | (with_reducible apply keeps_queueWrite)

theorem keeps_copyQueueWrite {s₀ : State} {s : State} {w : WordWrite} {base : BitVec 128} {cand : BitVec 128} (hk : Keeps s₀ s) : Keeps s₀ (copyQueueWrite (s := s) (w := w) (base := base) (cand := cand)) := by
  unfold copyQueueWrite
  try dsimp only
  repeat' first
    | (with_reducible assumption)
    | (with_reducible apply keeps_queueWrite)

theorem keeps_saveWrite {s₀ : State} {s : State} {w : WordWrite} {cand : BitVec 128} (hk : Keeps s₀ s) : Keeps s₀ (saveWrite (s := s) (w := w) (cand := cand)) := by
  unfold saveWrite
  try dsimp only
  repeat' first
    | (with_reducible assumption)
    | (with_reducible apply keeps_refreshSave)
    | (with_reducible apply keeps_store)
    | (with_reducible apply keeps_ite)

theorem keeps_routeWrite {s₀ : State} {s : State} {w : WordWrite} {cand : BitVec 128} (hk : Keeps s₀ s) : Keeps s₀ (routeWrite (s := s) (w := w) (cand := cand)) := by
  unfold routeWrite
  try dsimp only
  repeat' first
    | (with_reducible assumption)
    | (with_reducible apply keeps_raise)
    | (with_reducible apply keeps_store)
    | (fail_if_no_progress (with_reducible apply keeps_lit))
    | (with_reducible apply keeps_ite)

theorem keeps_coreMapWrite {s₀ : State} {s : State} {w : WordWrite} {base : BitVec 128} {cand : BitVec 128} (hk : Keeps s₀ s) : Keeps s₀ (coreMapWrite (s := s) (w := w) (base := base) (cand := cand)) := by
  unfold coreMapWrite
  try dsimp only
  repeat' first
    | (with_reducible assumption)
    | (with_reducible apply keeps_store)
    | (with_reducible apply keeps_refused)
    | (with_reducible apply keeps_ite)

theorem keeps_portMapWrite {s₀ : State} {s : State} {w : WordWrite} {base : BitVec 128} {cand : BitVec 128} (hk : Keeps s₀ s) : Keeps s₀ (portMapWrite (s := s) (w := w) (base := base) (cand := cand)) := by
  unfold portMapWrite
  try dsimp only
  repeat' first
    | (with_reducible assumption)
    | (with_reducible apply keeps_store)
    | (with_reducible apply keeps_refused)
    | (with_reducible apply keeps_ite)

theorem keeps_fnMapWrite {s₀ : State} {s : State} {w : WordWrite} {base : BitVec 128} {cand : BitVec 128} (hk : Keeps s₀ s) : Keeps s₀ (fnMapWrite (s := s) (w := w) (base := base) (cand := cand)) := by
  unfold fnMapWrite
  try dsimp only
  repeat' first
    | (with_reducible assumption)
    | (with_reducible apply keeps_store)
    | (with_reducible apply keeps_refused)
    | (with_reducible apply keeps_ite)

theorem keeps_evqCfgWrite {s₀ : State} {s : State} {w : WordWrite} {base : BitVec 128} {cand : BitVec 128} (hk : Keeps s₀ s) : Keeps s₀ (evqCfgWrite (s := s) (w := w) (base := base) (cand := cand)) := by
  unfold evqCfgWrite
  try dsimp only
  repeat' first
    | (with_reducible assumption)
    | (with_reducible apply keeps_uEvt)
    | (with_reducible apply keeps_evqDeliver)
    | (with_reducible apply keeps_evqOff)
    | (with_reducible apply keeps_store)
    | (with_reducible apply keeps_refused)
    | (fail_if_no_progress (with_reducible apply keeps_lit))
    | (with_reducible apply keeps_ite)

theorem keeps_evqHead {s₀ : State} {s : State} {w : WordWrite} {cand : BitVec 128} (hk : Keeps s₀ s) : Keeps s₀ (evqHead (s := s) (w := w) (cand := cand)) := by
  unfold evqHead
  try dsimp only
  repeat' first
    | (with_reducible assumption)
    | (with_reducible apply keeps_uEvt)
    | (with_reducible apply keeps_evqMessage)
    | (with_reducible apply keeps_store)
    | (fail_if_no_progress (with_reducible apply keeps_lit))
    | (with_reducible apply keeps_ite)

theorem keeps_mboxGo {s₀ : State} {s : State} {cand : BitVec 128} (hk : Keeps s₀ s) : Keeps s₀ (mboxGo (s := s) (cand := cand)) := by
  unfold mboxGo
  try dsimp only
  repeat' first
    | (with_reducible assumption)
    | (with_reducible apply keeps_mailbox)
    | (with_reducible apply keeps_mboxDrain)
    | (with_reducible apply keeps_ite)

theorem keeps_keyGo {s₀ : State} {s : State} {cand : BitVec 128} (hk : Keeps s₀ s) : Keeps s₀ (keyGo (s := s) (cand := cand)) := by
  unfold keyGo
  try dsimp only
  repeat' first
    | (with_reducible assumption)
    | (with_reducible apply keeps_wr)
    | (with_reducible apply keeps_keyCommand)
    | (with_reducible apply keeps_ite)

theorem keeps_extGo {s₀ : State} {s : State} (hk : Keeps s₀ s) : Keeps s₀ (extGo (s := s)) := by
  unfold extGo
  try dsimp only
  repeat' first
    | (with_reducible assumption)
    | (with_reducible apply keeps_wr)
    | (with_reducible apply keeps_runExtCommand)
    | (with_reducible apply keeps_plansOfExtent)
    | (with_reducible apply keeps_ite)

theorem keeps_lanTestWrite {s₀ : State} {s : State} {w : WordWrite} {base : BitVec 128} {cand : BitVec 128} (hk : Keeps s₀ s) : Keeps s₀ (lanTestWrite (s := s) (w := w) (base := base) (cand := cand)) := by
  unfold lanTestWrite
  try dsimp only
  repeat' first
    | (with_reducible assumption)
    | (with_reducible apply keeps_wr)
    | (with_reducible apply keeps_store)
    | (with_reducible apply keeps_ite)

theorem keeps_perform {s₀ : State} {s : State} {w : WordWrite} {base : BitVec 128} {cand : BitVec 128} (hk : Keeps s₀ s) : Keeps s₀ (perform (s := s) (w := w) (base := base) (cand := cand)) := by
  unfold perform
  try dsimp only
  repeat' first
    | (with_reducible assumption)
    | (with_reducible apply keeps_migCommand)
    | (with_reducible apply keeps_openerLost)
    | (with_reducible apply keeps_mscFlush)
    | (with_reducible apply keeps_flushRecs)
    | (with_reducible apply keeps_seqCommand)
    | (with_reducible apply keeps_loseParticipants)
    | (with_reducible apply keeps_planCommand)
    | (with_reducible apply keeps_purgeRsv)
    | (with_reducible apply keeps_abortQueue)
    | (with_reducible apply keeps_linkKey)
    | (with_reducible apply keeps_linkCommand)
    | (with_reducible apply keeps_unretire)
    | (with_reducible apply keeps_eyeGo)
    | (with_reducible apply keeps_powerCommand)
    | (with_reducible apply keeps_crcCommit)
    | (with_reducible apply keeps_crcRefWritten)
    | (with_reducible apply keeps_rasCommand)
    | (with_reducible apply keeps_partCommand)
    | (with_reducible apply keeps_store)
    | (with_reducible apply keeps_refused)
    | (with_reducible apply keeps_slotWrite)
    | (with_reducible apply keeps_groupWrite)
    | (with_reducible apply keeps_dmcWrite)
    | (with_reducible apply keeps_reserveWrite)
    | (with_reducible apply keeps_spaceWrite)
    | (with_reducible apply keeps_hostQueueWrite)
    | (with_reducible apply keeps_copyQueueWrite)
    | (with_reducible apply keeps_saveWrite)
    | (with_reducible apply keeps_routeWrite)
    | (with_reducible apply keeps_coreMapWrite)
    | (with_reducible apply keeps_portMapWrite)
    | (with_reducible apply keeps_fnMapWrite)
    | (with_reducible apply keeps_evqCfgWrite)
    | (with_reducible apply keeps_evqHead)
    | (with_reducible apply keeps_mboxGo)
    | (with_reducible apply keeps_keyGo)
    | (with_reducible apply keeps_extGo)
    | (with_reducible apply keeps_lanTestWrite)
    | (with_reducible apply keeps_setReg)
    | (with_reducible apply keeps_ite)
    | split

theorem keeps_formatRejected {s₀ : State} {s : State} {i : Nat} (hk : Keeps s₀ s) : Keeps s₀ (formatRejected (s := s) (i := i)) := by
  unfold formatRejected
  try dsimp only
  repeat' first
    | (with_reducible assumption)
    | (with_reducible apply keeps_raise)

theorem keeps_formatSubmit {s₀ : State} {s : State} {i : Nat} (hk : Keeps s₀ s) : Keeps s₀ (formatSubmit (s := s) (i := i)) := by
  unfold formatSubmit
  try dsimp only
  repeat' first
    | (with_reducible assumption)
    | (with_reducible apply keeps_formatRejected)
    | (with_reducible apply keeps_setReg)
    | (fail_if_no_progress (with_reducible apply keeps_lit))
    | (with_reducible apply keeps_ite)

theorem keeps_formatWrite {s₀ : State} {s : State} {w : WordWrite} (hk : Keeps s₀ s) : Keeps s₀ (formatWrite (s := s) (w := w)) := by
  unfold formatWrite
  try dsimp only
  repeat' first
    | (with_reducible assumption)
    | (with_reducible apply keeps_rangeErr)
    | (with_reducible apply keeps_refused)
    | (with_reducible apply keeps_formatSubmit)
    | (fail_if_no_progress (with_reducible apply keeps_lit))
    | (with_reducible apply keeps_ite)

theorem keeps_writeWord {s₀ : State} {s : State} {w : WordWrite} (hk : Keeps s₀ s) : Keeps s₀ (writeWord (s := s) (w := w)) := by
  unfold writeWord
  try dsimp only
  repeat' first
    | (with_reducible assumption)
    | (with_reducible apply keeps_logViol)
    | (with_reducible apply keeps_rangeErr)
    | (with_reducible apply keeps_refused)
    | (with_reducible apply keeps_perform)
    | (with_reducible apply keeps_formatWrite)
    | (fail_if_no_progress (with_reducible apply keeps_lit))
    | (with_reducible apply keeps_ite)

theorem keeps_windowWrite {s₀ : State} {s : State} {p : Path} {off : Nat} {viaAlias : Bool} {mask : Nat} {data : Nat} (hk : Keeps s₀ s) : Keeps s₀ (windowWrite (s := s) (p := p) (off := off) (viaAlias := viaAlias) (mask := mask) (data := data)) := by
  unfold windowWrite
  try dsimp only
  repeat' first
    | (with_reducible assumption)
    | (with_reducible apply keeps_logViol)
    | (with_reducible apply keeps_writeWord)
    | (fail_if_no_progress (with_reducible apply keeps_lit))
    | (with_reducible apply keeps_ite)
    | split

theorem keeps_busWrite {s₀ : State} {s : State} {p : Path} {off : Nat} {bytes : Nat} {data : DWord} (hk : Keeps s₀ s) : Keeps s₀ (busWrite (s := s) (p := p) (off := off) (bytes := bytes) (data := data)) := by
  unfold busWrite
  try dsimp only
  repeat' first
    | (with_reducible assumption)
    | (with_reducible apply keeps_logViol)
    | (with_reducible refine keeps_turnedAway ?_ _ (by assumption))
    | (with_reducible apply keeps_windowWrite)
    | (with_reducible apply keeps_ite)
    | split

theorem keeps_aliasWrite {s₀ : State} {s : State} {p : Path} {off : Nat} {high : Bool} {bytes : Nat} {data : Word} (hk : Keeps s₀ s) : Keeps s₀ (aliasWrite (s := s) (p := p) (off := off) (high := high) (bytes := bytes) (data := data)) := by
  unfold aliasWrite
  try dsimp only
  repeat' first
    | (with_reducible assumption)
    | (with_reducible apply keeps_logViol)
    | (with_reducible refine keeps_turnedAway ?_ _ (by assumption))
    | (with_reducible apply keeps_windowWrite)
    | (with_reducible apply keeps_ite)
    | split

theorem keeps_regWrite {s₀ : State} {s : State} {p : Path} {r : Reg} {i : Nat} {k : Nat} {data : Nat} (hk : Keeps s₀ s) : Keeps s₀ (regWrite (s := s) (p := p) (r := r) (i := i) (k := k) (data := data)) := by
  unfold regWrite
  try dsimp only
  repeat' first
    | (with_reducible assumption)
    | (with_reducible refine keeps_turnedAway ?_ _ (by assumption))
    | (with_reducible apply keeps_writeWord)
    | (fail_if_no_progress (with_reducible apply keeps_lit))
    | split

theorem keeps_regWrite2 {s₀ : State} {s : State} {p : Path} {r : Reg} {i : Nat} {data : DWord} (hk : Keeps s₀ s) : Keeps s₀ (regWrite2 (s := s) (p := p) (r := r) (i := i) (data := data)) := by
  unfold regWrite2
  try dsimp only
  repeat' first
    | (with_reducible assumption)
    | (with_reducible apply keeps_regWrite)

theorem keeps_pageWrite {s₀ : State} {s : State} {h : Fin 2} {f : Fin 16} {off : Nat} {data : Nat} (hk : Keeps s₀ s) : Keeps s₀ (pageWrite (s := s) (h := h) (f := f) (off := off) (data := data)) := by
  unfold pageWrite
  try dsimp only
  repeat' first
    | (with_reducible assumption)
    | (with_reducible apply keeps_logViol)
    | (with_reducible apply keeps_writeWord)
    | (fail_if_no_progress (with_reducible apply keeps_lit))
    | (with_reducible apply keeps_ite)
    | split

theorem keeps_pageAccess {s₀ : State} {s : State} {p : Path} {off : Nat} {bytes : Nat} {data : DWord} (hk : Keeps s₀ s) : Keeps s₀ (pageAccess (s := s) (p := p) (off := off) (bytes := bytes) (data := data)) := by
  unfold pageAccess
  try dsimp only
  repeat' first
    | (with_reducible assumption)
    | (with_reducible apply keeps_logViol)
    | (with_reducible apply keeps_pageWrite)
    | (with_reducible apply keeps_ite)
    | split

theorem keeps_ringWrite {s₀ : State} {s : State} {p : Path} {r : Reg} {i : Nat} {k : Nat} {page : Nat} {data : Nat} (hk : Keeps s₀ s) : Keeps s₀ (ringWrite (s := s) (p := p) (r := r) (i := i) (k := k) (page := page) (data := data)) := by
  unfold ringWrite
  try dsimp only
  repeat' first
    | (with_reducible assumption)
    | (with_reducible apply keeps_regWrite)
    | (with_reducible apply keeps_pageWrite)
    | (with_reducible apply keeps_ite)
    | split

theorem keeps_readWord {s₀ : State} {s : State} {p : Path} {off : Nat} (hk : Keeps s₀ s) : Keeps s₀ (readWord (s := s) (p := p) (off := off)).2 := by
  unfold readWord
  try dsimp only
  repeat' first
    | (with_reducible assumption)
    | (with_reducible apply keeps_logViol)
    | (with_reducible apply keeps_ite)
    | split

theorem keeps_mgtAnswer {s₀ : State} {s : State} {n : Nat} {q : Packet} {op : Nat} {status : Nat} {data : Word} (hk : Keeps s₀ s) : Keeps s₀ (mgtAnswer (s := s) (n := n) (q := q) (op := op) (status := status) (data := data)) := by
  unfold mgtAnswer
  try dsimp only
  repeat' first
    | (with_reducible assumption)
    | (with_reducible apply keeps_inflightAdd)
    | (with_reducible apply keeps_send)
    | (with_reducible apply keeps_uLink)
    | (fail_if_no_progress (with_reducible apply keeps_lit))
    | (with_reducible apply keeps_ite)

theorem keeps_mgtAccess {s₀ : State} {s : State} {n : Nat} {q : Packet} {write : Bool} (hk : Keeps s₀ s) : Keeps s₀ (mgtAccess (s := s) (n := n) (q := q) (write := write)) := by
  unfold mgtAccess
  try dsimp only
  repeat' first
    | (with_reducible assumption)
    | (with_reducible apply keeps_uFab)
    | (with_reducible apply keeps_malformed)
    | (with_reducible apply keeps_logViol)
    | (with_reducible apply keeps_windowWrite)
    | (with_reducible apply keeps_readWord)
    | (with_reducible apply keeps_mgtAnswer)
    | (fail_if_no_progress (with_reducible apply keeps_lit))
    | (with_reducible apply keeps_ite)

theorem keeps_imageEntry {s₀ : State} {s : State} {kind : Nat} {i : Nat} (hk : Keeps s₀ s) : Keeps s₀ (imageEntry (s := s) (kind := kind) (i := i)) := by
  unfold imageEntry
  try dsimp only
  repeat' first
    | (with_reducible assumption)
    | (with_reducible apply keeps_raise)

theorem keeps_nameBad {s₀ : State} {s : State} {kind : Nat} {bad : List Nat} (hk : Keeps s₀ s) : Keeps s₀ (nameBad (s := s) (kind := kind) (bad := bad)) := by
  unfold nameBad
  try dsimp only
  repeat' first
    | (with_reducible assumption)
    | (with_reducible apply keeps_imageEntry)
    | (with_reducible apply keeps_foldl; intro _ _ _)

theorem keeps_loadWings {s₀ : State} {s : State} {r : Reg} {i : Nat} {v : BitVec 128} (hk : Keeps s₀ s) : Keeps s₀ (loadWings (s := s) (r := r) (i := i) (v := v)) := by
  unfold loadWings
  try dsimp only
  repeat' first
    | (with_reducible assumption)
    | (with_reducible apply keeps_setReg)
    | (with_reducible apply keeps_putStage)
    | (with_reducible apply keeps_foldl; intro _ _ _)


theorem keeps_loadSecurity {s₀ : State} {s : State} {i : ImageInfo} (hk : Keeps s₀ s) : Keeps s₀ (s.loadSecurity i) := by
  unfold loadSecurity
  have k {t : State} (h : Keeps s₀ t) : Keeps s₀ ([0, 1].foldl (fun s h => s.portFns h fnSecure) t) :=
    keeps_foldl (fun _ _ h => keeps_portFns h fun _ _ _ ht => keeps_fnSecure ht) h
  exact keeps_ite (keeps_foldl (fun _ _ h => keeps_setReg h) (keeps_setReg (k (keeps_ite (keeps_imageEntry (keeps_wrB hk)) (keeps_wrB hk)))))
    (k (keeps_ite (keeps_imageEntry (keeps_wrB hk)) (keeps_wrB hk)))

theorem keeps_loadDrain {s₀ : State} {s : State} {i : ImageInfo} (hk : Keeps s₀ s) : Keeps s₀ (loadDrain (s := s) (i := i)) := by
  unfold loadDrain
  try dsimp only
  repeat' first
    | (with_reducible assumption)
    | (with_reducible apply keeps_nameBad)
    | (with_reducible apply keeps_drain)
    | (fail_if_no_progress (with_reducible apply keeps_lit))

theorem keeps_loadRefresh {s₀ : State} {s : State} {i : ImageInfo} (hk : Keeps s₀ s) : Keeps s₀ (loadRefresh (s := s) (i := i)) := by
  unfold loadRefresh
  try dsimp only
  repeat' first
    | (with_reducible assumption)
    | (with_reducible apply keeps_nameBad)
    | (fail_if_no_progress (with_reducible apply keeps_lit))

theorem keeps_loadSelfRefresh {s₀ : State} {s : State} {i : ImageInfo} (hk : Keeps s₀ s) : Keeps s₀ (loadSelfRefresh (s := s) (i := i)) := by
  unfold loadSelfRefresh
  try dsimp only
  repeat' first
    | (with_reducible assumption)
    | (with_reducible apply keeps_wr)
    | (with_reducible apply keeps_imageEntry)
    | (with_reducible apply keeps_foldl; intro _ _ _)
    | (with_reducible apply keeps_ite)

theorem keeps_loadPatrol {s₀ : State} {s : State} {i : ImageInfo} (hk : Keeps s₀ s) : Keeps s₀ (loadPatrol (s := s) (i := i)) := by
  unfold loadPatrol
  try dsimp only
  repeat' first
    | (with_reducible assumption)
    | (with_reducible apply keeps_nameBad)
    | (fail_if_no_progress (with_reducible apply keeps_lit))

theorem keeps_loadHist {s₀ : State} {s : State} {i : ImageInfo} (hk : Keeps s₀ s) : Keeps s₀ (loadHist (s := s) (i := i)) := by
  unfold loadHist
  try dsimp only
  repeat' first
    | (with_reducible assumption)
    | (with_reducible apply keeps_nameBad)
    | (fail_if_no_progress (with_reducible apply keeps_lit))

theorem keeps_loadFuncSeq {s₀ : State} {s : State} {i : ImageInfo} (hk : Keeps s₀ s) : Keeps s₀ (loadFuncSeq (s := s) (i := i)) := by
  unfold loadFuncSeq
  try dsimp only
  repeat' first
    | (with_reducible assumption)
    | (with_reducible apply keeps_nameBad)
    | (fail_if_no_progress (with_reducible apply keeps_lit))

theorem keeps_loadFormats {s₀ : State} {s : State} {i : ImageInfo} (hk : Keeps s₀ s) : Keeps s₀ (loadFormats (s := s) (i := i)) := by
  unfold loadFormats
  try dsimp only
  repeat' first
    | (with_reducible assumption)
    | (with_reducible apply keeps_formatRejected)
    | (with_reducible apply keeps_imageEntry)
    | (with_reducible apply keeps_loadWings)
    | (with_reducible apply keeps_foldl; intro _ _ _)
    | (with_reducible apply keeps_ite)

theorem keeps_loadBark {s₀ : State} {s : State} {i : ImageInfo} (hk : Keeps s₀ s) : Keeps s₀ (loadBark (s := s) (i := i)) := by
  unfold loadBark
  try dsimp only
  repeat' first
    | (with_reducible assumption)
    | (with_reducible apply keeps_imageEntry)
    | (with_reducible apply keeps_loadWings)
    | (with_reducible apply keeps_foldl; intro _ _ _)
    | (with_reducible apply keeps_ite)

theorem keeps_loadPresets {s₀ : State} {s : State} {i : ImageInfo} (hk : Keeps s₀ s) : Keeps s₀ (loadPresets (s := s) (i := i)) := by
  unfold loadPresets
  try dsimp only
  repeat' first
    | (with_reducible assumption)
    | (with_reducible apply keeps_nameBad)
    | (fail_if_no_progress (with_reducible apply keeps_lit))

theorem keeps_applyEntry {s₀ : State} {s : State} {w : WordWrite} {cand : BitVec 128} (hk : Keeps s₀ s) : Keeps s₀ (applyEntry (s := s) (w := w) (cand := cand)) := by
  unfold applyEntry
  try dsimp only
  repeat' first
    | (with_reducible assumption)
    | (with_reducible apply keeps_store)
    | (with_reducible apply keeps_perform)
    | (with_reducible apply keeps_formatWrite)
    | (with_reducible apply keeps_loadWings)
    | (with_reducible apply keeps_ite)
    | split

theorem keeps_loadEntry {s₀ : State} {s : State} {n : Nat} {e : Nat × Word × Word} (hk : Keeps s₀ s) : Keeps s₀ (loadEntry (s := s) (n := n) (e := e)) := by
  unfold loadEntry
  try dsimp only
  repeat' first
    | (with_reducible assumption)
    | (with_reducible apply keeps_wr)
    | (with_reducible apply keeps_bump)
    | (with_reducible apply keeps_rangeErr)
    | (with_reducible apply keeps_imageEntry)
    | (with_reducible apply keeps_applyEntry)
    | (with_reducible apply keeps_ite)
    | split


theorem keeps_ifHeld {s₀ : State} {i : ImageInfo} {k : Nat} {f : State → ImageInfo → State} {s : State}
    (hk : Keeps s₀ s) (hf : ∀ t i, Keeps s₀ t → Keeps s₀ (f t i)) : Keeps s₀ (ifHeld i k f s) := by
  unfold ifHeld
  split
  · exact hf _ _ hk
  · exact hk


theorem keeps_loadSections {s₀ : State} {s : State} {i : ImageInfo} (hk : Keeps s₀ s) : Keeps s₀ (s.loadSections i) := by
  unfold loadSections
  dsimp only
  refine keeps_ifHeld ?_ fun t i ht => keeps_foldl (fun t e h => keeps_loadEntry h) ht
  refine keeps_ifHeld ?_ fun t i ht => keeps_loadPresets ht
  refine keeps_ifHeld ?_ fun t i ht => keeps_loadBark ht
  refine keeps_ifHeld ?_ fun t i ht => keeps_loadFormats ht
  refine keeps_ifHeld ?_ fun t i ht => keeps_loadFuncSeq ht
  refine keeps_ifHeld ?_ fun t i ht => keeps_loadHist ht
  refine keeps_ifHeld ?_ fun t i ht => keeps_loadPatrol ht
  refine keeps_ifHeld ?_ fun t i ht => keeps_loadSelfRefresh ht
  refine keeps_ifHeld ?_ fun t i ht => keeps_loadRefresh ht
  refine keeps_ifHeld ?_ fun t i ht => keeps_loadDrain ht
  exact keeps_ifHeld hk fun t i ht => keeps_loadSecurity ht

theorem keeps_loadCrcRef {s₀ : State} {s : State} {i : ImageInfo} (hk : Keeps s₀ s) : Keeps s₀ (loadCrcRef (s := s) (i := i)) := by
  unfold loadCrcRef
  try dsimp only
  repeat' first
    | (with_reducible assumption)
    | (with_reducible apply keeps_wr)
    | (fail_if_no_progress (with_reducible apply keeps_lit))
    | (with_reducible apply keeps_foldl; intro _ _ _)

theorem keeps_release {s₀ : State} {s : State} (hk : Keeps s₀ s) : Keeps s₀ (release (s := s)) := by
  unfold release
  try dsimp only
  repeat' first
    | (with_reducible assumption)
    | (with_reducible apply keeps_wr)
    | (with_reducible apply keeps_startTraining)
    | (with_reducible apply keeps_uPwr)
    | (with_reducible apply keeps_roles)
    | (fail_if_no_progress (with_reducible apply keeps_lit))
    | (with_reducible apply keeps_foldl; intro _ _ _)
    | (with_reducible apply keeps_ite)

theorem keeps_imageApplied {s₀ : State} {s : State} (hk : Keeps s₀ s) : Keeps s₀ (imageApplied (s := s)) := by
  unfold imageApplied
  try dsimp only
  repeat' first
    | (with_reducible assumption)
    | (with_reducible apply keeps_loadSections)
    | (with_reducible apply keeps_loadCrcRef)
    | (with_reducible apply keeps_release)
    | (with_reducible apply keeps_ite)
    | split

theorem keeps_mboxRow {s₀ : State} {s : State} {v : Via} {cmd : Nat} {body : List Byte} (hk : Keeps s₀ s) : Keeps s₀ (mboxRow (s := s) (v := v) (cmd := cmd) (body := body)) := by
  unfold mboxRow
  try dsimp only
  repeat' first
    | (with_reducible assumption)
    | (with_reducible apply keeps_mailbox)
    | (with_reducible apply keeps_mboxDrain)
    | (with_reducible apply keeps_regWrite)
    | (with_reducible apply keeps_foldl; intro _ _ _)
    | (with_reducible apply keeps_ite)
    | split

theorem keeps_extRow {s₀ : State} {s : State} {p : Path} {op : Nat} {data : DWord} (hk : Keeps s₀ s) : Keeps s₀ (extRow (s := s) (p := p) (op := op) (data := data)) := by
  unfold extRow
  try dsimp only
  repeat' first
    | (with_reducible assumption)
    | (with_reducible apply keeps_regWrite2)

theorem keeps_migRow {s₀ : State} {s : State} {p : Path} {d : Nat} {op : Nat} {data : DWord} (hk : Keeps s₀ s) : Keeps s₀ (migRow (s := s) (p := p) (d := d) (op := op) (data := data)) := by
  unfold migRow
  try dsimp only
  repeat' first
    | (with_reducible assumption)
    | (with_reducible apply keeps_regWrite2)

theorem keeps_slotRow {s₀ : State} {s : State} {p : Path} {o : Nat} {cmd : Nat} {data : Word} (hk : Keeps s₀ s) : Keeps s₀ (slotRow (s := s) (p := p) (o := o) (cmd := cmd) (data := data)) := by
  unfold slotRow
  try dsimp only
  repeat' first
    | (with_reducible assumption)
    | (with_reducible apply keeps_regWrite)

theorem keeps_evqHeadRow {s₀ : State} {s : State} {p : Path} {e : Nat} {data : Nat} (hk : Keeps s₀ s) : Keeps s₀ (evqHeadRow (s := s) (p := p) (e := e) (data := data)) := by
  unfold evqHeadRow
  try dsimp only
  repeat' first
    | (with_reducible assumption)
    | (with_reducible apply keeps_regWrite)
    | (with_reducible apply keeps_ringWrite)
    | (with_reducible apply keeps_ite)
    | split

theorem keeps_fnRow {s₀ : State} {s : State} {p : Path} {h : Nat} {f : Nat} {data : Nat} (hk : Keeps s₀ s) : Keeps s₀ (fnRow (s := s) (p := p) (h := h) (f := f) (data := data)) := by
  unfold fnRow
  try dsimp only
  repeat' first
    | (with_reducible assumption)
    | (with_reducible apply keeps_busWrite)
    | (with_reducible apply keeps_regWrite)
    | (with_reducible apply keeps_ite)

theorem keeps_idle {s₀ : State} {s : State} (hk : Keeps s₀ s) : Keeps s₀ (idle (s := s)) := by
  unfold idle
  try dsimp only
  repeat' first
    | (with_reducible assumption)
    | (with_reducible apply keeps_settle)
    | (with_reducible apply keeps_seqRetry)
    | (with_reducible apply keeps_copyRecord)
    | (with_reducible apply keeps_launchAll)
    | (with_reducible apply keeps_foldl; intro _ _ _)
    | (with_reducible apply keeps_ite)

end Sys2Proof.Machine.State
end

