-- ==== Sys2Proof/Laws/KeepsExec.lean ====
section
/-! SUPPORT. Every meaning answers a next state, settled, and keeps the waiting commands and the canonical tables. -/

namespace Sys2Proof.Machine.State

theorem keeps_execMigrationLineMove {x : CopyEngine} {ecc : Upset} {maskLost : Bool} {s : State} :
    ∃ t', Sys2Proof.Machine.execMigrationLineMove (x := x) (ecc := ecc) (maskLost := maskLost) (s := s) = .next t'.settle ∧ Keeps s t' := by
  unfold Sys2Proof.Machine.execMigrationLineMove
  try dsimp only
  repeat' first
    | (refine ⟨_, rfl, ?_⟩)
    | (with_reducible exact Keeps.refl _)
    | (with_reducible assumption)
    | (with_reducible apply keeps_settle)
    | (with_reducible apply keeps_lineMove)

theorem keeps_execFrameSweep {d : Die} {s : State} :
    ∃ t', Sys2Proof.Machine.execFrameSweep (d := d) (s := s) = .next t'.settle ∧ Keeps s t' := by
  unfold Sys2Proof.Machine.execFrameSweep
  try dsimp only
  repeat' first
    | (refine ⟨_, rfl, ?_⟩)
    | (with_reducible exact Keeps.refl _)
    | (with_reducible assumption)
    | (with_reducible apply keeps_settle)
    | (with_reducible apply keeps_sweepFrame)

theorem keeps_execAccessCountAging {d : Die} {s : State} :
    ∃ t', Sys2Proof.Machine.execAccessCountAging (d := d) (s := s) = .next t'.settle ∧ Keeps s t' := by
  unfold Sys2Proof.Machine.execAccessCountAging
  try dsimp only
  repeat' first
    | (refine ⟨_, rfl, ?_⟩)
    | (with_reducible exact Keeps.refl _)
    | (with_reducible assumption)
    | (with_reducible apply keeps_settle)
    | (with_reducible apply keeps_ageCounts)

theorem keeps_execRdShared {q : Packet} {entry : Die} {ecc : Upset} {s : State} :
    ∃ t', Sys2Proof.Machine.execRdShared (q := q) (entry := entry) (ecc := ecc) (s := s) = .next t'.settle ∧ Keeps s t' := by
  unfold Sys2Proof.Machine.execRdShared
  try dsimp only
  repeat' first
    | (refine ⟨_, rfl, ?_⟩)
    | (with_reducible exact Keeps.refl _)
    | (with_reducible assumption)
    | (with_reducible apply keeps_settle)
    | (with_reducible apply keeps_accept)

theorem keeps_execRdOwn {q : Packet} {entry : Die} {ecc : Upset} {s : State} :
    ∃ t', Sys2Proof.Machine.execRdOwn (q := q) (entry := entry) (ecc := ecc) (s := s) = .next t'.settle ∧ Keeps s t' := by
  unfold Sys2Proof.Machine.execRdOwn
  try dsimp only
  repeat' first
    | (refine ⟨_, rfl, ?_⟩)
    | (with_reducible exact Keeps.refl _)
    | (with_reducible assumption)
    | (with_reducible apply keeps_settle)
    | (with_reducible apply keeps_accept)

theorem keeps_execUpgrade {q : Packet} {entry : Die} {ecc : Upset} {s : State} :
    ∃ t', Sys2Proof.Machine.execUpgrade (q := q) (entry := entry) (ecc := ecc) (s := s) = .next t'.settle ∧ Keeps s t' := by
  unfold Sys2Proof.Machine.execUpgrade
  try dsimp only
  repeat' first
    | (refine ⟨_, rfl, ?_⟩)
    | (with_reducible exact Keeps.refl _)
    | (with_reducible assumption)
    | (with_reducible apply keeps_settle)
    | (with_reducible apply keeps_accept)

theorem keeps_execRdUnc {q : Packet} {entry : Die} {ecc : Upset} {s : State} :
    ∃ t', Sys2Proof.Machine.execRdUnc (q := q) (entry := entry) (ecc := ecc) (s := s) = .next t'.settle ∧ Keeps s t' := by
  unfold Sys2Proof.Machine.execRdUnc
  try dsimp only
  repeat' first
    | (refine ⟨_, rfl, ?_⟩)
    | (with_reducible exact Keeps.refl _)
    | (with_reducible assumption)
    | (with_reducible apply keeps_settle)
    | (with_reducible apply keeps_accept)

theorem keeps_execWrUnc {q : Packet} {entry : Die} {ecc : Upset} {s : State} :
    ∃ t', Sys2Proof.Machine.execWrUnc (q := q) (entry := entry) (ecc := ecc) (s := s) = .next t'.settle ∧ Keeps s t' := by
  unfold Sys2Proof.Machine.execWrUnc
  try dsimp only
  repeat' first
    | (refine ⟨_, rfl, ?_⟩)
    | (with_reducible exact Keeps.refl _)
    | (with_reducible assumption)
    | (with_reducible apply keeps_settle)
    | (with_reducible apply keeps_accept)

theorem keeps_execAtomic {q : Packet} {entry : Die} {ecc : Upset} {s : State} :
    ∃ t', Sys2Proof.Machine.execAtomic (q := q) (entry := entry) (ecc := ecc) (s := s) = .next t'.settle ∧ Keeps s t' := by
  unfold Sys2Proof.Machine.execAtomic
  try dsimp only
  repeat' first
    | (refine ⟨_, rfl, ?_⟩)
    | (with_reducible exact Keeps.refl _)
    | (with_reducible assumption)
    | (with_reducible apply keeps_settle)
    | (with_reducible apply keeps_accept)

theorem keeps_execWbDirty {q : Packet} {entry : Die} {s : State} :
    ∃ t', Sys2Proof.Machine.execWbDirty (q := q) (entry := entry) (s := s) = .next t'.settle ∧ Keeps s t' := by
  unfold Sys2Proof.Machine.execWbDirty
  try dsimp only
  repeat' first
    | (refine ⟨_, rfl, ?_⟩)
    | (with_reducible exact Keeps.refl _)
    | (with_reducible assumption)
    | (with_reducible apply keeps_settle)
    | (with_reducible apply keeps_writeback)

theorem keeps_execWbClean {q : Packet} {entry : Die} {s : State} :
    ∃ t', Sys2Proof.Machine.execWbClean (q := q) (entry := entry) (s := s) = .next t'.settle ∧ Keeps s t' := by
  unfold Sys2Proof.Machine.execWbClean
  try dsimp only
  repeat' first
    | (refine ⟨_, rfl, ?_⟩)
    | (with_reducible exact Keeps.refl _)
    | (with_reducible assumption)
    | (with_reducible apply keeps_settle)
    | (with_reducible apply keeps_writeback)

theorem keeps_execInvAck {q : Packet} {s : State} :
    ∃ t', Sys2Proof.Machine.execInvAck (q := q) (s := s) = .next t'.settle ∧ Keeps s t' := by
  unfold Sys2Proof.Machine.execInvAck
  try dsimp only
  repeat' first
    | (refine ⟨_, rfl, ?_⟩)
    | (with_reducible exact Keeps.refl _)
    | (with_reducible assumption)
    | (with_reducible apply keeps_settle)
    | (with_reducible apply keeps_invAck)

theorem keeps_execFwdAck {q : Packet} {s : State} :
    ∃ t', Sys2Proof.Machine.execFwdAck (q := q) (s := s) = .next t'.settle ∧ Keeps s t' := by
  unfold Sys2Proof.Machine.execFwdAck
  try dsimp only
  repeat' first
    | (refine ⟨_, rfl, ?_⟩)
    | (with_reducible exact Keeps.refl _)
    | (with_reducible assumption)
    | (with_reducible apply keeps_settle)
    | (with_reducible apply keeps_fwdAck)

theorem keeps_execFwdData {q : Packet} {s : State} :
    ∃ t', Sys2Proof.Machine.execFwdData (q := q) (s := s) = .next t'.settle ∧ Keeps s t' := by
  unfold Sys2Proof.Machine.execFwdData
  try dsimp only
  repeat' first
    | (refine ⟨_, rfl, ?_⟩)
    | (with_reducible exact Keeps.refl _)
    | (with_reducible assumption)
    | (with_reducible apply keeps_settle)
    | (with_reducible apply keeps_fwdData)

theorem keeps_execComplete {q : Packet} {s : State} :
    ∃ t', Sys2Proof.Machine.execComplete (q := q) (s := s) = .next t'.settle ∧ Keeps s t' := by
  unfold Sys2Proof.Machine.execComplete
  try dsimp only
  repeat' first
    | (refine ⟨_, rfl, ?_⟩)
    | (with_reducible exact Keeps.refl _)
    | (with_reducible assumption)
    | (with_reducible apply keeps_settle)
    | (with_reducible apply keeps_complete)

theorem keeps_execForwardTimeout {d : Die} {idx : Fin 8192} {o : Slot} {s : State} :
    ∃ t', Sys2Proof.Machine.execForwardTimeout (d := d) (idx := idx) (o := o) (s := s) = .next t'.settle ∧ Keeps s t' := by
  unfold Sys2Proof.Machine.execForwardTimeout
  try dsimp only
  repeat' first
    | (refine ⟨_, rfl, ?_⟩)
    | (with_reducible exact Keeps.refl _)
    | (with_reducible assumption)
    | (with_reducible apply keeps_settle)
    | (with_reducible apply keeps_forwardTimeout)

theorem keeps_execWalkSet {d : Die} {o : Slot} {e : ExtId} {s : State} :
    ∃ t', Sys2Proof.Machine.execWalkSet (d := d) (o := o) (e := e) (s := s) = .next t'.settle ∧ Keeps s t' := by
  unfold Sys2Proof.Machine.execWalkSet
  try dsimp only
  repeat' first
    | (refine ⟨_, rfl, ?_⟩)
    | (with_reducible exact Keeps.refl _)
    | (with_reducible assumption)
    | (with_reducible apply keeps_settle)
    | (with_reducible apply keeps_walkSet)

theorem keeps_execSweepEnd {o : Slot} {s : State} :
    ∃ t', Sys2Proof.Machine.execSweepEnd (o := o) (s := s) = .next t'.settle ∧ Keeps s t' := by
  unfold Sys2Proof.Machine.execSweepEnd
  try dsimp only
  repeat' first
    | (refine ⟨_, rfl, ?_⟩)
    | (with_reducible exact Keeps.refl _)
    | (with_reducible assumption)
    | (with_reducible apply keeps_settle)
    | (with_reducible apply keeps_sweepEnd)

theorem keeps_execSlotReleased {o : Slot} {s : State} :
    ∃ t', Sys2Proof.Machine.execSlotReleased (o := o) (s := s) = .next t'.settle ∧ Keeps s t' := by
  unfold Sys2Proof.Machine.execSlotReleased
  try dsimp only
  repeat' first
    | (refine ⟨_, rfl, ?_⟩)
    | (with_reducible exact Keeps.refl _)
    | (with_reducible assumption)
    | (with_reducible apply keeps_settle)
    | (with_reducible apply keeps_slotReleased)

theorem keeps_execTxOpen {q : Packet} {s : State} :
    ∃ t', Sys2Proof.Machine.execTxOpen (q := q) (s := s) = .next t'.settle ∧ Keeps s t' := by
  unfold Sys2Proof.Machine.execTxOpen
  try dsimp only
  repeat' first
    | (refine ⟨_, rfl, ?_⟩)
    | (with_reducible exact Keeps.refl _)
    | (with_reducible assumption)
    | (with_reducible apply keeps_settle)
    | (with_reducible apply keeps_txOpen)

theorem keeps_execTxRd {q : Packet} {entry : Die} {ecc : Upset} {s : State} :
    ∃ t', Sys2Proof.Machine.execTxRd (q := q) (entry := entry) (ecc := ecc) (s := s) = .next t'.settle ∧ Keeps s t' := by
  unfold Sys2Proof.Machine.execTxRd
  try dsimp only
  repeat' first
    | (refine ⟨_, rfl, ?_⟩)
    | (with_reducible exact Keeps.refl _)
    | (with_reducible assumption)
    | (with_reducible apply keeps_settle)
    | (with_reducible apply keeps_txAccess)

theorem keeps_execTxWr {q : Packet} {entry : Die} {s : State} :
    ∃ t', Sys2Proof.Machine.execTxWr (q := q) (entry := entry) (s := s) = .next t'.settle ∧ Keeps s t' := by
  unfold Sys2Proof.Machine.execTxWr
  try dsimp only
  repeat' first
    | (refine ⟨_, rfl, ?_⟩)
    | (with_reducible exact Keeps.refl _)
    | (with_reducible assumption)
    | (with_reducible apply keeps_settle)
    | (with_reducible apply keeps_txAccess)

theorem keeps_execTxAtomic {q : Packet} {entry : Die} {ecc : Upset} {s : State} :
    ∃ t', Sys2Proof.Machine.execTxAtomic (q := q) (entry := entry) (ecc := ecc) (s := s) = .next t'.settle ∧ Keeps s t' := by
  unfold Sys2Proof.Machine.execTxAtomic
  try dsimp only
  repeat' first
    | (refine ⟨_, rfl, ?_⟩)
    | (with_reducible exact Keeps.refl _)
    | (with_reducible assumption)
    | (with_reducible apply keeps_settle)
    | (with_reducible apply keeps_txAccess)

theorem keeps_execTxCommit {q : Packet} {s : State} :
    ∃ t', Sys2Proof.Machine.execTxCommit (q := q) (s := s) = .next t'.settle ∧ Keeps s t' := by
  unfold Sys2Proof.Machine.execTxCommit
  try dsimp only
  repeat' first
    | (refine ⟨_, rfl, ?_⟩)
    | (with_reducible exact Keeps.refl _)
    | (with_reducible assumption)
    | (with_reducible apply keeps_settle)
    | (with_reducible apply keeps_txCommit)

theorem keeps_execTxAbort {q : Packet} {s : State} :
    ∃ t', Sys2Proof.Machine.execTxAbort (q := q) (s := s) = .next t'.settle ∧ Keeps s t' := by
  unfold Sys2Proof.Machine.execTxAbort
  try dsimp only
  repeat' first
    | (refine ⟨_, rfl, ?_⟩)
    | (with_reducible exact Keeps.refl _)
    | (with_reducible assumption)
    | (with_reducible apply keeps_settle)
    | (with_reducible apply keeps_txAbort)

theorem keeps_execPrepare {leg : Die} {c : Die} {i : Fin 1024} {s : State} :
    ∃ t', Sys2Proof.Machine.execPrepare (leg := leg) (c := c) (i := i) (s := s) = .next t'.settle ∧ Keeps s t' := by
  unfold Sys2Proof.Machine.execPrepare
  try dsimp only
  repeat' first
    | (refine ⟨_, rfl, ?_⟩)
    | (with_reducible exact Keeps.refl _)
    | (with_reducible assumption)
    | (with_reducible apply keeps_settle)
    | (with_reducible apply keeps_prepare)

theorem keeps_execReady {leg : Die} {c : Die} {i : Fin 1024} {s : State} :
    ∃ t', Sys2Proof.Machine.execReady (leg := leg) (c := c) (i := i) (s := s) = .next t'.settle ∧ Keeps s t' := by
  unfold Sys2Proof.Machine.execReady
  try dsimp only
  repeat' first
    | (refine ⟨_, rfl, ?_⟩)
    | (with_reducible exact Keeps.refl _)
    | (with_reducible assumption)
    | (with_reducible apply keeps_settle)
    | (with_reducible apply keeps_legReady)

theorem keeps_execApply {leg : Die} {c : Die} {i : Fin 1024} {s : State} :
    ∃ t', Sys2Proof.Machine.execApply (leg := leg) (c := c) (i := i) (s := s) = .next t'.settle ∧ Keeps s t' := by
  unfold Sys2Proof.Machine.execApply
  try dsimp only
  repeat' first
    | (refine ⟨_, rfl, ?_⟩)
    | (with_reducible exact Keeps.refl _)
    | (with_reducible assumption)
    | (with_reducible apply keeps_settle)
    | (with_reducible apply keeps_apply)

theorem keeps_execApplyLine {leg : Die} {c : Die} {i : Fin 1024} {ecc : Upset} {s : State} :
    ∃ t', Sys2Proof.Machine.execApplyLine (leg := leg) (c := c) (i := i) (ecc := ecc) (s := s) = .next t'.settle ∧ Keeps s t' := by
  unfold Sys2Proof.Machine.execApplyLine
  try dsimp only
  repeat' first
    | (refine ⟨_, rfl, ?_⟩)
    | (with_reducible exact Keeps.refl _)
    | (with_reducible assumption)
    | (with_reducible apply keeps_settle)
    | (with_reducible apply keeps_applyLine)

theorem keeps_execApplied {leg : Die} {c : Die} {i : Fin 1024} {s : State} :
    ∃ t', Sys2Proof.Machine.execApplied (leg := leg) (c := c) (i := i) (s := s) = .next t'.settle ∧ Keeps s t' := by
  unfold Sys2Proof.Machine.execApplied
  try dsimp only
  repeat' first
    | (refine ⟨_, rfl, ?_⟩)
    | (with_reducible exact Keeps.refl _)
    | (with_reducible assumption)
    | (with_reducible apply keeps_settle)
    | (with_reducible apply keeps_applied)

theorem keeps_execTxLifetimeExpiry {c : Die} {i : Fin 1024} {s : State} :
    ∃ t', Sys2Proof.Machine.execTxLifetimeExpiry (c := c) (i := i) (s := s) = .next t'.settle ∧ Keeps s t' := by
  unfold Sys2Proof.Machine.execTxLifetimeExpiry
  try dsimp only
  repeat' first
    | (refine ⟨_, rfl, ?_⟩)
    | (with_reducible exact Keeps.refl _)
    | (with_reducible assumption)
    | (with_reducible apply keeps_settle)
    | (with_reducible apply keeps_lifetime)

theorem keeps_execTxRecordExpiry {c : Die} {i : Fin 1024} {s : State} :
    ∃ t', Sys2Proof.Machine.execTxRecordExpiry (c := c) (i := i) (s := s) = .next t'.settle ∧ Keeps s t' := by
  unfold Sys2Proof.Machine.execTxRecordExpiry
  try dsimp only
  repeat' first
    | (refine ⟨_, rfl, ?_⟩)
    | (with_reducible exact Keeps.refl _)
    | (with_reducible assumption)
    | (with_reducible apply keeps_settle)
    | (with_reducible apply keeps_recordExpiry)

theorem keeps_execExtentFillDone {e : ExtId} {s : State} :
    ∃ t', Sys2Proof.Machine.execExtentFillDone (e := e) (s := s) = .next t'.settle ∧ Keeps s t' := by
  unfold Sys2Proof.Machine.execExtentFillDone
  try dsimp only
  repeat' first
    | (refine ⟨_, rfl, ?_⟩)
    | (with_reducible exact Keeps.refl _)
    | (with_reducible assumption)
    | (with_reducible apply keeps_settle)
    | (with_reducible apply keeps_fillDone)

theorem keeps_execWithdrawalDrained {e : ExtId} {s : State} :
    ∃ t', Sys2Proof.Machine.execWithdrawalDrained (e := e) (s := s) = .next t'.settle ∧ Keeps s t' := by
  unfold Sys2Proof.Machine.execWithdrawalDrained
  try dsimp only
  repeat' first
    | (refine ⟨_, rfl, ?_⟩)
    | (with_reducible exact Keeps.refl _)
    | (with_reducible assumption)
    | (with_reducible apply keeps_settle)
    | (with_reducible apply keeps_withdrawalDrained)

theorem keeps_execMigrationMoveDone {x : CopyEngine} {s : State} :
    ∃ t', Sys2Proof.Machine.execMigrationMoveDone (x := x) (s := s) = .next t'.settle ∧ Keeps s t' := by
  unfold Sys2Proof.Machine.execMigrationMoveDone
  try dsimp only
  repeat' first
    | (refine ⟨_, rfl, ?_⟩)
    | (with_reducible exact Keeps.refl _)
    | (with_reducible assumption)
    | (with_reducible apply keeps_settle)
    | (with_reducible apply keeps_moveDone)
    | (with_reducible apply keeps_reserveDrained)

theorem keeps_execControllerIssue {u : MemUnit} {starved : Nat} {s : State} :
    ∃ t', Sys2Proof.Machine.execControllerIssue (u := u) (starved := starved) (s := s) = .next t'.settle ∧ Keeps s t' := by
  unfold Sys2Proof.Machine.execControllerIssue
  try dsimp only
  repeat' first
    | (refine ⟨_, rfl, ?_⟩)
    | (with_reducible exact Keeps.refl _)
    | (with_reducible assumption)
    | (with_reducible apply keeps_settle)
    | (with_reducible apply keeps_controllerIssue)

theorem keeps_execDramReadDone {u : MemUnit} {ecc : Upset} {s : State} :
    ∃ t', Sys2Proof.Machine.execDramReadDone (u := u) (ecc := ecc) (s := s) = .next t'.settle ∧ Keeps s t' := by
  unfold Sys2Proof.Machine.execDramReadDone
  try dsimp only
  repeat' first
    | (refine ⟨_, rfl, ?_⟩)
    | (with_reducible exact Keeps.refl _)
    | (with_reducible assumption)
    | (with_reducible apply keeps_settle)
    | (with_reducible apply keeps_dramReadDone)

theorem keeps_execRefreshDue {u : MemUnit} {b : Fin 2048} {s : State} :
    ∃ t', Sys2Proof.Machine.execRefreshDue (u := u) (b := b) (s := s) = .next t'.settle ∧ Keeps s t' := by
  unfold Sys2Proof.Machine.execRefreshDue
  try dsimp only
  repeat' first
    | (refine ⟨_, rfl, ?_⟩)
    | (with_reducible exact Keeps.refl _)
    | (with_reducible assumption)
    | (with_reducible apply keeps_settle)
    | (with_reducible apply keeps_refreshDue)

theorem keeps_execDimmThermalRead {c : Channel} {temp : Byte} {rate : Fin 3} {s : State} :
    ∃ t', Sys2Proof.Machine.execDimmThermalRead (c := c) (temp := temp) (rate := rate) (s := s) = .next t'.settle ∧ Keeps s t' := by
  unfold Sys2Proof.Machine.execDimmThermalRead
  try dsimp only
  repeat' first
    | (refine ⟨_, rfl, ?_⟩)
    | (with_reducible exact Keeps.refl _)
    | (with_reducible assumption)
    | (with_reducible apply keeps_settle)
    | (with_reducible apply keeps_dimmThermal)

theorem keeps_execSelfRefreshIdleExpiry {u : MemUnit} {s : State} :
    ∃ t', Sys2Proof.Machine.execSelfRefreshIdleExpiry (u := u) (s := s) = .next t'.settle ∧ Keeps s t' := by
  unfold Sys2Proof.Machine.execSelfRefreshIdleExpiry
  try dsimp only
  repeat' first
    | (refine ⟨_, rfl, ?_⟩)
    | (with_reducible exact Keeps.refl _)
    | (with_reducible assumption)
    | (with_reducible apply keeps_settle)
    | (with_reducible apply keeps_srIdle)

theorem keeps_execSelfRefreshEntryDone {u : MemUnit} {s : State} :
    ∃ t', Sys2Proof.Machine.execSelfRefreshEntryDone (u := u) (s := s) = .next t'.settle ∧ Keeps s t' := by
  unfold Sys2Proof.Machine.execSelfRefreshEntryDone
  try dsimp only
  repeat' first
    | (refine ⟨_, rfl, ?_⟩)
    | (with_reducible exact Keeps.refl _)
    | (with_reducible assumption)
    | (with_reducible apply keeps_settle)
    | (with_reducible apply keeps_srEntered)

theorem keeps_execSelfRefreshExit {u : MemUnit} {scrub : Bool} {s : State} :
    ∃ t', Sys2Proof.Machine.execSelfRefreshExit (u := u) (scrub := scrub) (s := s) = .next t'.settle ∧ Keeps s t' := by
  unfold Sys2Proof.Machine.execSelfRefreshExit
  try dsimp only
  repeat' first
    | (refine ⟨_, rfl, ?_⟩)
    | (with_reducible exact Keeps.refl _)
    | (with_reducible assumption)
    | (with_reducible apply keeps_settle)
    | (with_reducible apply keeps_srExit)

theorem keeps_execSelfRefreshExitDone {u : MemUnit} {s : State} :
    ∃ t', Sys2Proof.Machine.execSelfRefreshExitDone (u := u) (s := s) = .next t'.settle ∧ Keeps s t' := by
  unfold Sys2Proof.Machine.execSelfRefreshExitDone
  try dsimp only
  repeat' first
    | (refine ⟨_, rfl, ?_⟩)
    | (with_reducible exact Keeps.refl _)
    | (with_reducible assumption)
    | (with_reducible apply keeps_settle)
    | (with_reducible apply keeps_srExited)

theorem keeps_execPatrolRead {u : MemUnit} {s : State} :
    ∃ t', Sys2Proof.Machine.execPatrolRead (u := u) (s := s) = .next t'.settle ∧ Keeps s t' := by
  unfold Sys2Proof.Machine.execPatrolRead
  try dsimp only
  repeat' first
    | (refine ⟨_, rfl, ?_⟩)
    | (with_reducible exact Keeps.refl _)
    | (with_reducible assumption)
    | (with_reducible apply keeps_settle)
    | (with_reducible apply keeps_patrolRead)

theorem keeps_execMscFlushDone {d : Die} {s : State} :
    ∃ t', Sys2Proof.Machine.execMscFlushDone (d := d) (s := s) = .next t'.settle ∧ Keeps s t' := by
  unfold Sys2Proof.Machine.execMscFlushDone
  try dsimp only
  repeat' first
    | (refine ⟨_, rfl, ?_⟩)
    | (with_reducible exact Keeps.refl _)
    | (with_reducible assumption)
    | (with_reducible apply keeps_settle)
    | (with_reducible apply keeps_mscFlushed)

theorem keeps_execStackTrainingDone {k : Stack} {ok : Bool} {s : State} :
    ∃ t', Sys2Proof.Machine.execStackTrainingDone (k := k) (ok := ok) (s := s) = .next t'.settle ∧ Keeps s t' := by
  unfold Sys2Proof.Machine.execStackTrainingDone
  try dsimp only
  repeat' first
    | (refine ⟨_, rfl, ?_⟩)
    | (with_reducible exact Keeps.refl _)
    | (with_reducible assumption)
    | (with_reducible apply keeps_settle)
    | (with_reducible apply keeps_stackTrained)

theorem keeps_execDimmTrainingDone {c : Channel} {a : Option DimmSpd} {b : Option DimmSpd} {s : State} :
    ∃ t', Sys2Proof.Machine.execDimmTrainingDone (c := c) (a := a) (b := b) (s := s) = .next t'.settle ∧ Keeps s t' := by
  unfold Sys2Proof.Machine.execDimmTrainingDone
  try dsimp only
  repeat' first
    | (refine ⟨_, rfl, ?_⟩)
    | (with_reducible exact Keeps.refl _)
    | (with_reducible assumption)
    | (with_reducible apply keeps_settle)
    | (with_reducible apply keeps_dimmTrained)

theorem keeps_execNop {n : Core} {c : Ctx} {w : Fetch} {s : State} :
    ∃ t', Sys2Proof.Machine.execNop (n := n) (c := c) (w := w) (s := s) = .next t'.settle ∧ Keeps s t' := by
  unfold Sys2Proof.Machine.execNop
  try dsimp only
  repeat' first
    | (refine ⟨_, rfl, ?_⟩)
    | (with_reducible exact Keeps.refl _)
    | (with_reducible assumption)
    | (with_reducible apply keeps_settle)
    | (with_reducible apply keeps_micro)
    | (with_reducible apply keeps_goOn)
    | (intro t ht)
    | (intro _ _)
    | (intro _ _ _ _)
    | (intro _ _ _)
    | (intro t)

theorem keeps_execSli {n : Core} {c : Ctx} {w : Fetch} {k : Check} {s : State} :
    ∃ t', Sys2Proof.Machine.execSli (n := n) (c := c) (w := w) (k := k) (s := s) = .next t'.settle ∧ Keeps s t' := by
  unfold Sys2Proof.Machine.execSli
  try dsimp only
  repeat' first
    | (refine ⟨_, rfl, ?_⟩)
    | (with_reducible exact Keeps.refl _)
    | (with_reducible assumption)
    | (with_reducible apply keeps_settle)
    | (with_reducible apply keeps_scalarOp)

theorem keeps_execSadd {n : Core} {c : Ctx} {w : Fetch} {k : Check} {s : State} :
    ∃ t', Sys2Proof.Machine.execSadd (n := n) (c := c) (w := w) (k := k) (s := s) = .next t'.settle ∧ Keeps s t' := by
  unfold Sys2Proof.Machine.execSadd
  try dsimp only
  repeat' first
    | (refine ⟨_, rfl, ?_⟩)
    | (with_reducible exact Keeps.refl _)
    | (with_reducible assumption)
    | (with_reducible apply keeps_settle)
    | (with_reducible apply keeps_scalarOp)

theorem keeps_execSsub {n : Core} {c : Ctx} {w : Fetch} {k : Check} {s : State} :
    ∃ t', Sys2Proof.Machine.execSsub (n := n) (c := c) (w := w) (k := k) (s := s) = .next t'.settle ∧ Keeps s t' := by
  unfold Sys2Proof.Machine.execSsub
  try dsimp only
  repeat' first
    | (refine ⟨_, rfl, ?_⟩)
    | (with_reducible exact Keeps.refl _)
    | (with_reducible assumption)
    | (with_reducible apply keeps_settle)
    | (with_reducible apply keeps_scalarOp)

theorem keeps_execSmul {n : Core} {c : Ctx} {w : Fetch} {k : Check} {s : State} :
    ∃ t', Sys2Proof.Machine.execSmul (n := n) (c := c) (w := w) (k := k) (s := s) = .next t'.settle ∧ Keeps s t' := by
  unfold Sys2Proof.Machine.execSmul
  try dsimp only
  repeat' first
    | (refine ⟨_, rfl, ?_⟩)
    | (with_reducible exact Keeps.refl _)
    | (with_reducible assumption)
    | (with_reducible apply keeps_settle)
    | (with_reducible apply keeps_scalarOp)

theorem keeps_execSand {n : Core} {c : Ctx} {w : Fetch} {k : Check} {s : State} :
    ∃ t', Sys2Proof.Machine.execSand (n := n) (c := c) (w := w) (k := k) (s := s) = .next t'.settle ∧ Keeps s t' := by
  unfold Sys2Proof.Machine.execSand
  try dsimp only
  repeat' first
    | (refine ⟨_, rfl, ?_⟩)
    | (with_reducible exact Keeps.refl _)
    | (with_reducible assumption)
    | (with_reducible apply keeps_settle)
    | (with_reducible apply keeps_scalarOp)

theorem keeps_execSor {n : Core} {c : Ctx} {w : Fetch} {k : Check} {s : State} :
    ∃ t', Sys2Proof.Machine.execSor (n := n) (c := c) (w := w) (k := k) (s := s) = .next t'.settle ∧ Keeps s t' := by
  unfold Sys2Proof.Machine.execSor
  try dsimp only
  repeat' first
    | (refine ⟨_, rfl, ?_⟩)
    | (with_reducible exact Keeps.refl _)
    | (with_reducible assumption)
    | (with_reducible apply keeps_settle)
    | (with_reducible apply keeps_scalarOp)

theorem keeps_execSxor {n : Core} {c : Ctx} {w : Fetch} {k : Check} {s : State} :
    ∃ t', Sys2Proof.Machine.execSxor (n := n) (c := c) (w := w) (k := k) (s := s) = .next t'.settle ∧ Keeps s t' := by
  unfold Sys2Proof.Machine.execSxor
  try dsimp only
  repeat' first
    | (refine ⟨_, rfl, ?_⟩)
    | (with_reducible exact Keeps.refl _)
    | (with_reducible assumption)
    | (with_reducible apply keeps_settle)
    | (with_reducible apply keeps_scalarOp)

theorem keeps_execSshl {n : Core} {c : Ctx} {w : Fetch} {k : Check} {s : State} :
    ∃ t', Sys2Proof.Machine.execSshl (n := n) (c := c) (w := w) (k := k) (s := s) = .next t'.settle ∧ Keeps s t' := by
  unfold Sys2Proof.Machine.execSshl
  try dsimp only
  repeat' first
    | (refine ⟨_, rfl, ?_⟩)
    | (with_reducible exact Keeps.refl _)
    | (with_reducible assumption)
    | (with_reducible apply keeps_settle)
    | (with_reducible apply keeps_scalarOp)

theorem keeps_execSshr {n : Core} {c : Ctx} {w : Fetch} {k : Check} {s : State} :
    ∃ t', Sys2Proof.Machine.execSshr (n := n) (c := c) (w := w) (k := k) (s := s) = .next t'.settle ∧ Keeps s t' := by
  unfold Sys2Proof.Machine.execSshr
  try dsimp only
  repeat' first
    | (refine ⟨_, rfl, ?_⟩)
    | (with_reducible exact Keeps.refl _)
    | (with_reducible assumption)
    | (with_reducible apply keeps_settle)
    | (with_reducible apply keeps_scalarOp)

theorem keeps_execSsra {n : Core} {c : Ctx} {w : Fetch} {k : Check} {s : State} :
    ∃ t', Sys2Proof.Machine.execSsra (n := n) (c := c) (w := w) (k := k) (s := s) = .next t'.settle ∧ Keeps s t' := by
  unfold Sys2Proof.Machine.execSsra
  try dsimp only
  repeat' first
    | (refine ⟨_, rfl, ?_⟩)
    | (with_reducible exact Keeps.refl _)
    | (with_reducible assumption)
    | (with_reducible apply keeps_settle)
    | (with_reducible apply keeps_scalarOp)

theorem keeps_execBeq {n : Core} {c : Ctx} {w : Fetch} {s : State} :
    ∃ t', Sys2Proof.Machine.execBeq (n := n) (c := c) (w := w) (s := s) = .next t'.settle ∧ Keeps s t' := by
  unfold Sys2Proof.Machine.execBeq
  try dsimp only
  repeat' first
    | (refine ⟨_, rfl, ?_⟩)
    | (with_reducible exact Keeps.refl _)
    | (with_reducible assumption)
    | (with_reducible apply keeps_settle)
    | (with_reducible apply keeps_branchOp)

theorem keeps_execBne {n : Core} {c : Ctx} {w : Fetch} {s : State} :
    ∃ t', Sys2Proof.Machine.execBne (n := n) (c := c) (w := w) (s := s) = .next t'.settle ∧ Keeps s t' := by
  unfold Sys2Proof.Machine.execBne
  try dsimp only
  repeat' first
    | (refine ⟨_, rfl, ?_⟩)
    | (with_reducible exact Keeps.refl _)
    | (with_reducible assumption)
    | (with_reducible apply keeps_settle)
    | (with_reducible apply keeps_branchOp)

theorem keeps_execBlt {n : Core} {c : Ctx} {w : Fetch} {s : State} :
    ∃ t', Sys2Proof.Machine.execBlt (n := n) (c := c) (w := w) (s := s) = .next t'.settle ∧ Keeps s t' := by
  unfold Sys2Proof.Machine.execBlt
  try dsimp only
  repeat' first
    | (refine ⟨_, rfl, ?_⟩)
    | (with_reducible exact Keeps.refl _)
    | (with_reducible assumption)
    | (with_reducible apply keeps_settle)
    | (with_reducible apply keeps_branchOp)

theorem keeps_execBge {n : Core} {c : Ctx} {w : Fetch} {s : State} :
    ∃ t', Sys2Proof.Machine.execBge (n := n) (c := c) (w := w) (s := s) = .next t'.settle ∧ Keeps s t' := by
  unfold Sys2Proof.Machine.execBge
  try dsimp only
  repeat' first
    | (refine ⟨_, rfl, ?_⟩)
    | (with_reducible exact Keeps.refl _)
    | (with_reducible assumption)
    | (with_reducible apply keeps_settle)
    | (with_reducible apply keeps_branchOp)

theorem keeps_execSld {n : Core} {c : Ctx} {w : Fetch} {s : State} :
    ∃ t', Sys2Proof.Machine.execSld (n := n) (c := c) (w := w) (s := s) = .next t'.settle ∧ Keeps s t' := by
  unfold Sys2Proof.Machine.execSld
  try dsimp only
  repeat' first
    | (refine ⟨_, rfl, ?_⟩)
    | (with_reducible exact Keeps.refl _)
    | (with_reducible assumption)
    | (with_reducible apply keeps_settle)
    | (with_reducible apply keeps_sld)

theorem keeps_execSst {n : Core} {c : Ctx} {w : Fetch} {s : State} :
    ∃ t', Sys2Proof.Machine.execSst (n := n) (c := c) (w := w) (s := s) = .next t'.settle ∧ Keeps s t' := by
  unfold Sys2Proof.Machine.execSst
  try dsimp only
  repeat' first
    | (refine ⟨_, rfl, ?_⟩)
    | (with_reducible exact Keeps.refl _)
    | (with_reducible assumption)
    | (with_reducible apply keeps_settle)
    | (with_reducible apply keeps_sst)

theorem keeps_execSext {n : Core} {c : Ctx} {w : Fetch} {rf : Option RfParity} {s : State} :
    ∃ t', Sys2Proof.Machine.execSext (n := n) (c := c) (w := w) (rf := rf) (s := s) = .next t'.settle ∧ Keeps s t' := by
  unfold Sys2Proof.Machine.execSext
  try dsimp only
  repeat' first
    | (refine ⟨_, rfl, ?_⟩)
    | (with_reducible exact Keeps.refl _)
    | (with_reducible assumption)
    | (with_reducible apply keeps_settle)
    | (with_reducible apply keeps_sext)

theorem keeps_execWait {n : Core} {c : Ctx} {w : Fetch} {s : State} :
    ∃ t', Sys2Proof.Machine.execWait (n := n) (c := c) (w := w) (s := s) = .next t'.settle ∧ Keeps s t' := by
  unfold Sys2Proof.Machine.execWait
  try dsimp only
  repeat' first
    | (refine ⟨_, rfl, ?_⟩)
    | (with_reducible exact Keeps.refl _)
    | (with_reducible assumption)
    | (with_reducible apply keeps_settle)
    | (with_reducible apply keeps_waitOp)

theorem keeps_execAtom {n : Core} {c : Ctx} {w : Fetch} {s : State} :
    ∃ t', Sys2Proof.Machine.execAtom (n := n) (c := c) (w := w) (s := s) = .next t'.settle ∧ Keeps s t' := by
  unfold Sys2Proof.Machine.execAtom
  try dsimp only
  repeat' first
    | (refine ⟨_, rfl, ?_⟩)
    | (with_reducible exact Keeps.refl _)
    | (with_reducible assumption)
    | (with_reducible apply keeps_settle)
    | (with_reducible apply keeps_atom)

theorem keeps_execEndTask {n : Core} {c : Ctx} {w : Fetch} {s : State} :
    ∃ t', Sys2Proof.Machine.execEndTask (n := n) (c := c) (w := w) (s := s) = .next t'.settle ∧ Keeps s t' := by
  unfold Sys2Proof.Machine.execEndTask
  try dsimp only
  repeat' first
    | (refine ⟨_, rfl, ?_⟩)
    | (with_reducible exact Keeps.refl _)
    | (with_reducible assumption)
    | (with_reducible apply keeps_settle)
    | (with_reducible apply keeps_endOp)

theorem keeps_execTxopen {n : Core} {c : Ctx} {w : Fetch} {s : State} :
    ∃ t', Sys2Proof.Machine.execTxopen (n := n) (c := c) (w := w) (s := s) = .next t'.settle ∧ Keeps s t' := by
  unfold Sys2Proof.Machine.execTxopen
  try dsimp only
  repeat' first
    | (refine ⟨_, rfl, ?_⟩)
    | (with_reducible exact Keeps.refl _)
    | (with_reducible assumption)
    | (with_reducible apply keeps_settle)
    | (with_reducible apply keeps_txopen)

theorem keeps_execTxcommit {n : Core} {c : Ctx} {w : Fetch} {s : State} :
    ∃ t', Sys2Proof.Machine.execTxcommit (n := n) (c := c) (w := w) (s := s) = .next t'.settle ∧ Keeps s t' := by
  unfold Sys2Proof.Machine.execTxcommit
  try dsimp only
  repeat' first
    | (refine ⟨_, rfl, ?_⟩)
    | (with_reducible exact Keeps.refl _)
    | (with_reducible assumption)
    | (with_reducible apply keeps_settle)
    | (with_reducible apply keeps_txcommit)

theorem keeps_execTxabort {n : Core} {c : Ctx} {w : Fetch} {s : State} :
    ∃ t', Sys2Proof.Machine.execTxabort (n := n) (c := c) (w := w) (s := s) = .next t'.settle ∧ Keeps s t' := by
  unfold Sys2Proof.Machine.execTxabort
  try dsimp only
  repeat' first
    | (refine ⟨_, rfl, ?_⟩)
    | (with_reducible exact Keeps.refl _)
    | (with_reducible assumption)
    | (with_reducible apply keeps_settle)
    | (with_reducible apply keeps_txabort)

theorem keeps_execTxchk {n : Core} {c : Ctx} {w : Fetch} {s : State} :
    ∃ t', Sys2Proof.Machine.execTxchk (n := n) (c := c) (w := w) (s := s) = .next t'.settle ∧ Keeps s t' := by
  unfold Sys2Proof.Machine.execTxchk
  try dsimp only
  repeat' first
    | (refine ⟨_, rfl, ?_⟩)
    | (with_reducible exact Keeps.refl _)
    | (with_reducible assumption)
    | (with_reducible apply keeps_settle)
    | (with_reducible apply keeps_txchk)

theorem keeps_execVld {n : Core} {c : Ctx} {w : Fetch} {s : State} :
    ∃ t', Sys2Proof.Machine.execVld (n := n) (c := c) (w := w) (s := s) = .next t'.settle ∧ Keeps s t' := by
  unfold Sys2Proof.Machine.execVld
  try dsimp only
  repeat' first
    | (refine ⟨_, rfl, ?_⟩)
    | (with_reducible exact Keeps.refl _)
    | (with_reducible assumption)
    | (with_reducible apply keeps_settle)
    | (with_reducible apply keeps_vld)

theorem keeps_execVst {n : Core} {c : Ctx} {w : Fetch} {rf : Option RfParity} {s : State} :
    ∃ t', Sys2Proof.Machine.execVst (n := n) (c := c) (w := w) (rf := rf) (s := s) = .next t'.settle ∧ Keeps s t' := by
  unfold Sys2Proof.Machine.execVst
  try dsimp only
  repeat' first
    | (refine ⟨_, rfl, ?_⟩)
    | (with_reducible exact Keeps.refl _)
    | (with_reducible assumption)
    | (with_reducible apply keeps_settle)
    | (with_reducible apply keeps_vst)

theorem keeps_execVlds {n : Core} {c : Ctx} {w : Fetch} {ecc : ScratchEcc} {s : State} :
    ∃ t', Sys2Proof.Machine.execVlds (n := n) (c := c) (w := w) (ecc := ecc) (s := s) = .next t'.settle ∧ Keeps s t' := by
  unfold Sys2Proof.Machine.execVlds
  try dsimp only
  repeat' first
    | (refine ⟨_, rfl, ?_⟩)
    | (with_reducible exact Keeps.refl _)
    | (with_reducible assumption)
    | (with_reducible apply keeps_settle)
    | (with_reducible apply keeps_vlds)

theorem keeps_execVsts {n : Core} {c : Ctx} {w : Fetch} {rf : Option RfParity} {s : State} :
    ∃ t', Sys2Proof.Machine.execVsts (n := n) (c := c) (w := w) (rf := rf) (s := s) = .next t'.settle ∧ Keeps s t' := by
  unfold Sys2Proof.Machine.execVsts
  try dsimp only
  repeat' first
    | (refine ⟨_, rfl, ?_⟩)
    | (with_reducible exact Keeps.refl _)
    | (with_reducible assumption)
    | (with_reducible apply keeps_settle)
    | (with_reducible apply keeps_vsts)

theorem keeps_execVclr {n : Core} {c : Ctx} {w : Fetch} {k : Check} {s : State} :
    ∃ t', Sys2Proof.Machine.execVclr (n := n) (c := c) (w := w) (k := k) (s := s) = .next t'.settle ∧ Keeps s t' := by
  unfold Sys2Proof.Machine.execVclr
  try dsimp only
  repeat' first
    | (refine ⟨_, rfl, ?_⟩)
    | (with_reducible exact Keeps.refl _)
    | (with_reducible assumption)
    | (with_reducible apply keeps_settle)
    | (with_reducible apply keeps_engineOp)

theorem keeps_execVfma {n : Core} {c : Ctx} {w : Fetch} {k : Check} {s : State} :
    ∃ t', Sys2Proof.Machine.execVfma (n := n) (c := c) (w := w) (k := k) (s := s) = .next t'.settle ∧ Keeps s t' := by
  unfold Sys2Proof.Machine.execVfma
  try dsimp only
  repeat' first
    | (refine ⟨_, rfl, ?_⟩)
    | (with_reducible exact Keeps.refl _)
    | (with_reducible assumption)
    | (with_reducible apply keeps_settle)
    | (with_reducible apply keeps_engineOp)

theorem keeps_execWfma {n : Core} {c : Ctx} {w : Fetch} {k : Check} {s : State} :
    ∃ t', Sys2Proof.Machine.execWfma (n := n) (c := c) (w := w) (k := k) (s := s) = .next t'.settle ∧ Keeps s t' := by
  unfold Sys2Proof.Machine.execWfma
  try dsimp only
  repeat' first
    | (refine ⟨_, rfl, ?_⟩)
    | (with_reducible exact Keeps.refl _)
    | (with_reducible assumption)
    | (with_reducible apply keeps_settle)
    | (with_reducible apply keeps_engineOp)

theorem keeps_execWmax {n : Core} {c : Ctx} {w : Fetch} {k : Check} {s : State} :
    ∃ t', Sys2Proof.Machine.execWmax (n := n) (c := c) (w := w) (k := k) (s := s) = .next t'.settle ∧ Keeps s t' := by
  unfold Sys2Proof.Machine.execWmax
  try dsimp only
  repeat' first
    | (refine ⟨_, rfl, ?_⟩)
    | (with_reducible exact Keeps.refl _)
    | (with_reducible assumption)
    | (with_reducible apply keeps_settle)
    | (with_reducible apply keeps_engineOp)

theorem keeps_execWmin {n : Core} {c : Ctx} {w : Fetch} {k : Check} {s : State} :
    ∃ t', Sys2Proof.Machine.execWmin (n := n) (c := c) (w := w) (k := k) (s := s) = .next t'.settle ∧ Keeps s t' := by
  unfold Sys2Proof.Machine.execWmin
  try dsimp only
  repeat' first
    | (refine ⟨_, rfl, ?_⟩)
    | (with_reducible exact Keeps.refl _)
    | (with_reducible assumption)
    | (with_reducible apply keeps_settle)
    | (with_reducible apply keeps_engineOp)

theorem keeps_execWexp2 {n : Core} {c : Ctx} {w : Fetch} {k : Check} {s : State} :
    ∃ t', Sys2Proof.Machine.execWexp2 (n := n) (c := c) (w := w) (k := k) (s := s) = .next t'.settle ∧ Keeps s t' := by
  unfold Sys2Proof.Machine.execWexp2
  try dsimp only
  repeat' first
    | (refine ⟨_, rfl, ?_⟩)
    | (with_reducible exact Keeps.refl _)
    | (with_reducible assumption)
    | (with_reducible apply keeps_settle)
    | (with_reducible apply keeps_engineOp)

theorem keeps_execWrcp {n : Core} {c : Ctx} {w : Fetch} {k : Check} {s : State} :
    ∃ t', Sys2Proof.Machine.execWrcp (n := n) (c := c) (w := w) (k := k) (s := s) = .next t'.settle ∧ Keeps s t' := by
  unfold Sys2Proof.Machine.execWrcp
  try dsimp only
  repeat' first
    | (refine ⟨_, rfl, ?_⟩)
    | (with_reducible exact Keeps.refl _)
    | (with_reducible assumption)
    | (with_reducible apply keeps_settle)
    | (with_reducible apply keeps_engineOp)

theorem keeps_execWrsq {n : Core} {c : Ctx} {w : Fetch} {k : Check} {s : State} :
    ∃ t', Sys2Proof.Machine.execWrsq (n := n) (c := c) (w := w) (k := k) (s := s) = .next t'.settle ∧ Keeps s t' := by
  unfold Sys2Proof.Machine.execWrsq
  try dsimp only
  repeat' first
    | (refine ⟨_, rfl, ?_⟩)
    | (with_reducible exact Keeps.refl _)
    | (with_reducible assumption)
    | (with_reducible apply keeps_settle)
    | (with_reducible apply keeps_engineOp)

theorem keeps_execWsqrt {n : Core} {c : Ctx} {w : Fetch} {k : Check} {s : State} :
    ∃ t', Sys2Proof.Machine.execWsqrt (n := n) (c := c) (w := w) (k := k) (s := s) = .next t'.settle ∧ Keeps s t' := by
  unfold Sys2Proof.Machine.execWsqrt
  try dsimp only
  repeat' first
    | (refine ⟨_, rfl, ?_⟩)
    | (with_reducible exact Keeps.refl _)
    | (with_reducible assumption)
    | (with_reducible apply keeps_settle)
    | (with_reducible apply keeps_engineOp)

theorem keeps_execWdiv {n : Core} {c : Ctx} {w : Fetch} {k : Check} {s : State} :
    ∃ t', Sys2Proof.Machine.execWdiv (n := n) (c := c) (w := w) (k := k) (s := s) = .next t'.settle ∧ Keeps s t' := by
  unfold Sys2Proof.Machine.execWdiv
  try dsimp only
  repeat' first
    | (refine ⟨_, rfl, ?_⟩)
    | (with_reducible exact Keeps.refl _)
    | (with_reducible assumption)
    | (with_reducible apply keeps_settle)
    | (with_reducible apply keeps_engineOp)

theorem keeps_execCvt {n : Core} {c : Ctx} {w : Fetch} {k : Check} {s : State} :
    ∃ t', Sys2Proof.Machine.execCvt (n := n) (c := c) (w := w) (k := k) (s := s) = .next t'.settle ∧ Keeps s t' := by
  unfold Sys2Proof.Machine.execCvt
  try dsimp only
  repeat' first
    | (refine ⟨_, rfl, ?_⟩)
    | (with_reducible exact Keeps.refl _)
    | (with_reducible assumption)
    | (with_reducible apply keeps_settle)
    | (with_reducible apply keeps_engineOp)

theorem keeps_execQnt {n : Core} {c : Ctx} {w : Fetch} {k : Check} {s : State} :
    ∃ t', Sys2Proof.Machine.execQnt (n := n) (c := c) (w := w) (k := k) (s := s) = .next t'.settle ∧ Keeps s t' := by
  unfold Sys2Proof.Machine.execQnt
  try dsimp only
  repeat' first
    | (refine ⟨_, rfl, ?_⟩)
    | (with_reducible exact Keeps.refl _)
    | (with_reducible assumption)
    | (with_reducible apply keeps_settle)
    | (with_reducible apply keeps_engineOp)

theorem keeps_execDot {n : Core} {c : Ctx} {w : Fetch} {k : Check} {s : State} :
    ∃ t', Sys2Proof.Machine.execDot (n := n) (c := c) (w := w) (k := k) (s := s) = .next t'.settle ∧ Keeps s t' := by
  unfold Sys2Proof.Machine.execDot
  try dsimp only
  repeat' first
    | (refine ⟨_, rfl, ?_⟩)
    | (with_reducible exact Keeps.refl _)
    | (with_reducible assumption)
    | (with_reducible apply keeps_settle)
    | (with_reducible apply keeps_engineOp)

theorem keeps_execDotr {n : Core} {c : Ctx} {w : Fetch} {k : Check} {s : State} :
    ∃ t', Sys2Proof.Machine.execDotr (n := n) (c := c) (w := w) (k := k) (s := s) = .next t'.settle ∧ Keeps s t' := by
  unfold Sys2Proof.Machine.execDotr
  try dsimp only
  repeat' first
    | (refine ⟨_, rfl, ?_⟩)
    | (with_reducible exact Keeps.refl _)
    | (with_reducible assumption)
    | (with_reducible apply keeps_settle)
    | (with_reducible apply keeps_engineOp)

theorem keeps_execWmac {n : Core} {c : Ctx} {w : Fetch} {k : Check} {s : State} :
    ∃ t', Sys2Proof.Machine.execWmac (n := n) (c := c) (w := w) (k := k) (s := s) = .next t'.settle ∧ Keeps s t' := by
  unfold Sys2Proof.Machine.execWmac
  try dsimp only
  repeat' first
    | (refine ⟨_, rfl, ?_⟩)
    | (with_reducible exact Keeps.refl _)
    | (with_reducible assumption)
    | (with_reducible apply keeps_settle)
    | (with_reducible apply keeps_engineOp)

theorem keeps_execRed {n : Core} {c : Ctx} {w : Fetch} {k : Check} {s : State} :
    ∃ t', Sys2Proof.Machine.execRed (n := n) (c := c) (w := w) (k := k) (s := s) = .next t'.settle ∧ Keeps s t' := by
  unfold Sys2Proof.Machine.execRed
  try dsimp only
  repeat' first
    | (refine ⟨_, rfl, ?_⟩)
    | (with_reducible exact Keeps.refl _)
    | (with_reducible assumption)
    | (with_reducible apply keeps_settle)
    | (with_reducible apply keeps_engineOp)

theorem keeps_execWbc {n : Core} {c : Ctx} {w : Fetch} {k : Check} {s : State} :
    ∃ t', Sys2Proof.Machine.execWbc (n := n) (c := c) (w := w) (k := k) (s := s) = .next t'.settle ∧ Keeps s t' := by
  unfold Sys2Proof.Machine.execWbc
  try dsimp only
  repeat' first
    | (refine ⟨_, rfl, ?_⟩)
    | (with_reducible exact Keeps.refl _)
    | (with_reducible assumption)
    | (with_reducible apply keeps_settle)
    | (with_reducible apply keeps_engineOp)

theorem keeps_execReduce {n : Core} {c : Ctx} {s : State} :
    ∃ t', Sys2Proof.Machine.execReduce (n := n) (c := c) (s := s) = .next t'.settle ∧ Keeps s t' := by
  unfold Sys2Proof.Machine.execReduce
  try dsimp only
  repeat' first
    | (refine ⟨_, rfl, ?_⟩)
    | (with_reducible exact Keeps.refl _)
    | (with_reducible assumption)
    | (with_reducible apply keeps_settle)
    | (with_reducible apply keeps_streamKernel)

theorem keeps_execScaleAcc {n : Core} {c : Ctx} {s : State} :
    ∃ t', Sys2Proof.Machine.execScaleAcc (n := n) (c := c) (s := s) = .next t'.settle ∧ Keeps s t' := by
  unfold Sys2Proof.Machine.execScaleAcc
  try dsimp only
  repeat' first
    | (refine ⟨_, rfl, ?_⟩)
    | (with_reducible exact Keeps.refl _)
    | (with_reducible assumption)
    | (with_reducible apply keeps_settle)
    | (with_reducible apply keeps_streamKernel)

theorem keeps_execOptStep {n : Core} {c : Ctx} {s : State} :
    ∃ t', Sys2Proof.Machine.execOptStep (n := n) (c := c) (s := s) = .next t'.settle ∧ Keeps s t' := by
  unfold Sys2Proof.Machine.execOptStep
  try dsimp only
  repeat' first
    | (refine ⟨_, rfl, ?_⟩)
    | (with_reducible exact Keeps.refl _)
    | (with_reducible assumption)
    | (with_reducible apply keeps_settle)
    | (with_reducible apply keeps_optStep)

theorem keeps_execDecodeAttn {n : Core} {c : Ctx} {s : State} :
    ∃ t', Sys2Proof.Machine.execDecodeAttn (n := n) (c := c) (s := s) = .next t'.settle ∧ Keeps s t' := by
  unfold Sys2Proof.Machine.execDecodeAttn
  try dsimp only
  repeat' first
    | (refine ⟨_, rfl, ?_⟩)
    | (with_reducible exact Keeps.refl _)
    | (with_reducible assumption)
    | (with_reducible apply keeps_settle)
    | (with_reducible apply keeps_decodeAttn)

theorem keeps_execGatherReduce {n : Core} {c : Ctx} {s : State} :
    ∃ t', Sys2Proof.Machine.execGatherReduce (n := n) (c := c) (s := s) = .next t'.settle ∧ Keeps s t' := by
  unfold Sys2Proof.Machine.execGatherReduce
  try dsimp only
  repeat' first
    | (refine ⟨_, rfl, ?_⟩)
    | (with_reducible exact Keeps.refl _)
    | (with_reducible assumption)
    | (with_reducible apply keeps_settle)
    | (with_reducible apply keeps_gatherReduce)

theorem keeps_execQuantize {n : Core} {c : Ctx} {s : State} :
    ∃ t', Sys2Proof.Machine.execQuantize (n := n) (c := c) (s := s) = .next t'.settle ∧ Keeps s t' := by
  unfold Sys2Proof.Machine.execQuantize
  try dsimp only
  repeat' first
    | (refine ⟨_, rfl, ?_⟩)
    | (with_reducible exact Keeps.refl _)
    | (with_reducible assumption)
    | (with_reducible apply keeps_settle)
    | (with_reducible apply keeps_streamKernel)

theorem keeps_execCasSweep {n : Core} {c : Ctx} {s : State} :
    ∃ t', Sys2Proof.Machine.execCasSweep (n := n) (c := c) (s := s) = .next t'.settle ∧ Keeps s t' := by
  unfold Sys2Proof.Machine.execCasSweep
  try dsimp only
  repeat' first
    | (refine ⟨_, rfl, ?_⟩)
    | (with_reducible exact Keeps.refl _)
    | (with_reducible assumption)
    | (with_reducible apply keeps_settle)
    | (with_reducible apply keeps_casSweep)

theorem keeps_execUser {n : Core} {c : Ctx} {s : State} :
    ∃ t', Sys2Proof.Machine.execUser (n := n) (c := c) (s := s) = .next t'.settle ∧ Keeps s t' := by
  unfold Sys2Proof.Machine.execUser
  try dsimp only
  repeat' first
    | (refine ⟨_, rfl, ?_⟩)
    | (with_reducible exact Keeps.refl _)
    | (with_reducible assumption)
    | (with_reducible apply keeps_settle)
    | (with_reducible apply keeps_userStart)

theorem keeps_execTask {d : Die} {q : HostQueue} {s : State} :
    ∃ t', Sys2Proof.Machine.execTask (d := d) (q := q) (s := s) = .next t'.settle ∧ Keeps s t' := by
  unfold Sys2Proof.Machine.execTask
  try dsimp only
  repeat' first
    | (refine ⟨_, rfl, ?_⟩)
    | (with_reducible exact Keeps.refl _)
    | (with_reducible assumption)
    | (with_reducible apply keeps_settle)
    | (with_reducible apply keeps_taskEntry)
    | (with_reducible apply keeps_dispatch)
    | (intro t ht)

theorem keeps_execInvalidate {d : Die} {q : HostQueue} {s : State} :
    ∃ t', Sys2Proof.Machine.execInvalidate (d := d) (q := q) (s := s) = .next t'.settle ∧ Keeps s t' := by
  unfold Sys2Proof.Machine.execInvalidate
  try dsimp only
  repeat' first
    | (refine ⟨_, rfl, ?_⟩)
    | (with_reducible exact Keeps.refl _)
    | (with_reducible assumption)
    | (with_reducible apply keeps_settle)
    | (with_reducible apply keeps_invalidateEntry)
    | (with_reducible apply keeps_dispatch)
    | (intro t ht)

theorem keeps_execResume {d : Die} {q : HostQueue} {s : State} :
    ∃ t', Sys2Proof.Machine.execResume (d := d) (q := q) (s := s) = .next t'.settle ∧ Keeps s t' := by
  unfold Sys2Proof.Machine.execResume
  try dsimp only
  repeat' first
    | (refine ⟨_, rfl, ?_⟩)
    | (with_reducible exact Keeps.refl _)
    | (with_reducible assumption)
    | (with_reducible apply keeps_settle)
    | (with_reducible apply keeps_resumeTask)
    | (with_reducible apply keeps_dispatch)
    | (intro t ht)

theorem keeps_execKill {d : Die} {q : HostQueue} {s : State} :
    ∃ t', Sys2Proof.Machine.execKill (d := d) (q := q) (s := s) = .next t'.settle ∧ Keeps s t' := by
  unfold Sys2Proof.Machine.execKill
  try dsimp only
  repeat' first
    | (refine ⟨_, rfl, ?_⟩)
    | (with_reducible exact Keeps.refl _)
    | (with_reducible assumption)
    | (with_reducible apply keeps_settle)
    | (with_reducible apply keeps_killTask)
    | (with_reducible apply keeps_dispatch)
    | (intro t ht)

theorem keeps_execTaskStart {n : Core} {c : Ctx} {s : State} :
    ∃ t', Sys2Proof.Machine.execTaskStart (n := n) (c := c) (s := s) = .next t'.settle ∧ Keeps s t' := by
  unfold Sys2Proof.Machine.execTaskStart
  try dsimp only
  repeat' first
    | (refine ⟨_, rfl, ?_⟩)
    | (with_reducible exact Keeps.refl _)
    | (with_reducible assumption)
    | (with_reducible apply keeps_settle)
    | (with_reducible apply keeps_taskStart)

theorem keeps_execTranslationWalkDone {d : Die} {ix : Fin 32} {s : State} :
    ∃ t', Sys2Proof.Machine.execTranslationWalkDone (d := d) (ix := ix) (s := s) = .next t'.settle ∧ Keeps s t' := by
  unfold Sys2Proof.Machine.execTranslationWalkDone
  try dsimp only
  repeat' first
    | (refine ⟨_, rfl, ?_⟩)
    | (with_reducible exact Keeps.refl _)
    | (with_reducible assumption)
    | (with_reducible apply keeps_settle)
    | (with_reducible apply keeps_walkDone)

theorem keeps_execWalkRestart {d : Die} {ix : Fin 32} {s : State} :
    ∃ t', Sys2Proof.Machine.execWalkRestart (d := d) (ix := ix) (s := s) = .next t'.settle ∧ Keeps s t' := by
  unfold Sys2Proof.Machine.execWalkRestart
  try dsimp only
  repeat' first
    | (refine ⟨_, rfl, ?_⟩)
    | (with_reducible exact Keeps.refl _)
    | (with_reducible assumption)
    | (with_reducible apply keeps_settle)
    | (with_reducible apply keeps_walkRestart)

theorem keeps_execTaskSaveDone {n : Core} {c : Ctx} {s : State} :
    ∃ t', Sys2Proof.Machine.execTaskSaveDone (n := n) (c := c) (s := s) = .next t'.settle ∧ Keeps s t' := by
  unfold Sys2Proof.Machine.execTaskSaveDone
  try dsimp only
  repeat' first
    | (refine ⟨_, rfl, ?_⟩)
    | (with_reducible exact Keeps.refl _)
    | (with_reducible assumption)
    | (with_reducible apply keeps_settle)
    | (with_reducible apply keeps_saveDone)

theorem keeps_execTaskRestoreDone {n : Core} {c : Ctx} {crcOk : Bool} {s : State} :
    ∃ t', Sys2Proof.Machine.execTaskRestoreDone (n := n) (c := c) (crcOk := crcOk) (s := s) = .next t'.settle ∧ Keeps s t' := by
  unfold Sys2Proof.Machine.execTaskRestoreDone
  try dsimp only
  repeat' first
    | (refine ⟨_, rfl, ?_⟩)
    | (with_reducible exact Keeps.refl _)
    | (with_reducible assumption)
    | (with_reducible apply keeps_settle)
    | (with_reducible apply keeps_restoreDone)

theorem keeps_execInvalidateDrained {s : State} :
    ∃ t', Sys2Proof.Machine.execInvalidateDrained (s := s) = .next t'.settle ∧ Keeps s t' := by
  unfold Sys2Proof.Machine.execInvalidateDrained
  try dsimp only
  repeat' first
    | (refine ⟨_, rfl, ?_⟩)
    | (with_reducible exact Keeps.refl _)
    | (with_reducible assumption)
    | (with_reducible apply keeps_settle)
    | (with_reducible apply keeps_invalidateDrained)

theorem keeps_execColPut {q : Packet} {s : State} :
    ∃ t', Sys2Proof.Machine.execColPut (q := q) (s := s) = .next t'.settle ∧ Keeps s t' := by
  unfold Sys2Proof.Machine.execColPut
  try dsimp only
  repeat' first
    | (refine ⟨_, rfl, ?_⟩)
    | (with_reducible exact Keeps.refl _)
    | (with_reducible assumption)
    | (with_reducible apply keeps_settle)
    | (with_reducible apply keeps_colPut)

theorem keeps_execColAbort {q : Packet} {s : State} :
    ∃ t', Sys2Proof.Machine.execColAbort (q := q) (s := s) = .next t'.settle ∧ Keeps s t' := by
  unfold Sys2Proof.Machine.execColAbort
  try dsimp only
  repeat' first
    | (refine ⟨_, rfl, ?_⟩)
    | (with_reducible exact Keeps.refl _)
    | (with_reducible assumption)
    | (with_reducible apply keeps_settle)
    | (with_reducible apply keeps_colAbort)

theorem keeps_execColDisarmAck {q : Packet} {s : State} :
    ∃ t', Sys2Proof.Machine.execColDisarmAck (q := q) (s := s) = .next t'.settle ∧ Keeps s t' := by
  unfold Sys2Proof.Machine.execColDisarmAck
  try dsimp only
  repeat' first
    | (refine ⟨_, rfl, ?_⟩)
    | (with_reducible exact Keeps.refl _)
    | (with_reducible assumption)
    | (with_reducible apply keeps_taken)
    | (with_reducible apply keeps_settle)
    | (with_reducible apply keeps_disarmAnswer)

theorem keeps_execColTaskEnd {n : Core} {c : Ctx} {s : State} :
    ∃ t', Sys2Proof.Machine.execColTaskEnd (n := n) (c := c) (s := s) = .next t'.settle ∧ Keeps s t' := by
  unfold Sys2Proof.Machine.execColTaskEnd
  try dsimp only
  repeat' first
    | (refine ⟨_, rfl, ?_⟩)
    | (with_reducible exact Keeps.refl _)
    | (with_reducible assumption)
    | (with_reducible apply keeps_settle)
    | (with_reducible apply keeps_taskEnded)

theorem keeps_execColArmTimeout {pl : PlanId} {s : State} :
    ∃ t', Sys2Proof.Machine.execColArmTimeout (pl := pl) (s := s) = .next t'.settle ∧ Keeps s t' := by
  unfold Sys2Proof.Machine.execColArmTimeout
  try dsimp only
  repeat' first
    | (refine ⟨_, rfl, ?_⟩)
    | (with_reducible exact Keeps.refl _)
    | (with_reducible assumption)
    | (with_reducible apply keeps_settle)
    | (with_reducible apply keeps_armTimeout)

theorem keeps_execTaskPlacement {q : HostQueue} {s : State} :
    ∃ t', Sys2Proof.Machine.execTaskPlacement (q := q) (s := s) = .next t'.settle ∧ Keeps s t' := by
  unfold Sys2Proof.Machine.execTaskPlacement
  try dsimp only
  repeat' first
    | (refine ⟨_, rfl, ?_⟩)
    | (with_reducible exact Keeps.refl _)
    | (with_reducible assumption)
    | (with_reducible apply keeps_settle)
    | (with_reducible apply keeps_placement)
    | (with_reducible apply keeps_launchAll)

theorem keeps_execColRunTimeout {pl : PlanId} {s : State} :
    ∃ t', Sys2Proof.Machine.execColRunTimeout (pl := pl) (s := s) = .next t'.settle ∧ Keeps s t' := by
  unfold Sys2Proof.Machine.execColRunTimeout
  try dsimp only
  repeat' first
    | (refine ⟨_, rfl, ?_⟩)
    | (with_reducible exact Keeps.refl _)
    | (with_reducible assumption)
    | (with_reducible apply keeps_settle)
    | (with_reducible apply keeps_runTimeout)

theorem keeps_execXfrRing {q : Packet} {s : State} :
    ∃ t', Sys2Proof.Machine.execXfrRing (q := q) (s := s) = .next t'.settle ∧ Keeps s t' := by
  unfold Sys2Proof.Machine.execXfrRing
  try dsimp only
  repeat' first
    | (refine ⟨_, rfl, ?_⟩)
    | (with_reducible exact Keeps.refl _)
    | (with_reducible assumption)
    | (with_reducible apply keeps_settle)
    | (with_reducible apply keeps_xfrRing)

theorem keeps_execCopy {x : CopyEngine} {q : CopyQueue} {s : State} :
    ∃ t', Sys2Proof.Machine.execCopy (x := x) (q := q) (s := s) = .next t'.settle ∧ Keeps s t' := by
  unfold Sys2Proof.Machine.execCopy
  try dsimp only
  repeat' first
    | (refine ⟨_, rfl, ?_⟩)
    | (with_reducible exact Keeps.refl _)
    | (with_reducible assumption)
    | (with_reducible apply keeps_settle)
    | (with_reducible apply keeps_copyTake)

theorem keeps_execCopyTileTranslated {x : CopyEngine} {s : State} :
    ∃ t', Sys2Proof.Machine.execCopyTileTranslated (x := x) (s := s) = .next t'.settle ∧ Keeps s t' := by
  unfold Sys2Proof.Machine.execCopyTileTranslated
  try dsimp only
  repeat' first
    | (refine ⟨_, rfl, ?_⟩)
    | (with_reducible exact Keeps.refl _)
    | (with_reducible assumption)
    | (with_reducible apply keeps_settle)
    | (with_reducible apply keeps_tileTranslate)

theorem keeps_execCopyTileDone {x : CopyEngine} {s : State} :
    ∃ t', Sys2Proof.Machine.execCopyTileDone (x := x) (s := s) = .next t'.settle ∧ Keeps s t' := by
  unfold Sys2Proof.Machine.execCopyTileDone
  try dsimp only
  repeat' first
    | (refine ⟨_, rfl, ?_⟩)
    | (with_reducible exact Keeps.refl _)
    | (with_reducible assumption)
    | (with_reducible apply keeps_settle)
    | (with_reducible apply keeps_tileDone)

theorem keeps_execPacketArrival {n : Port} {q : Packet} {e : BridgeErr} {s : State} :
    ∃ t', Sys2Proof.Machine.execPacketArrival (n := n) (q := q) (e := e) (s := s) = .next t'.settle ∧ Keeps s t' := by
  unfold Sys2Proof.Machine.execPacketArrival
  try dsimp only
  repeat' first
    | (refine ⟨_, rfl, ?_⟩)
    | (with_reducible exact Keeps.refl _)
    | (with_reducible assumption)
    | (with_reducible apply keeps_settle)
    | (with_reducible apply keeps_arrive)
    | (with_reducible apply keeps_ite)

theorem keeps_execNextHopChoice {ix : Nat} {e : BridgeErr} {s : State} :
    ∃ t', Sys2Proof.Machine.execNextHopChoice (ix := ix) (e := e) (s := s) = .next t'.settle ∧ Keeps s t' := by
  unfold Sys2Proof.Machine.execNextHopChoice
  try dsimp only
  repeat' first
    | (refine ⟨_, rfl, ?_⟩)
    | (with_reducible exact Keeps.refl _)
    | (with_reducible assumption)
    | (with_reducible apply keeps_settle)
    | (with_reducible apply keeps_nextHop)

theorem keeps_execFenceProbe {n : Port} {q : Packet} {e : BridgeErr} {s : State} :
    ∃ t', Sys2Proof.Machine.execFenceProbe (n := n) (q := q) (e := e) (s := s) = .next t'.settle ∧ Keeps s t' := by
  unfold Sys2Proof.Machine.execFenceProbe
  try dsimp only
  repeat' first
    | (refine ⟨_, rfl, ?_⟩)
    | (with_reducible exact Keeps.refl _)
    | (with_reducible assumption)
    | (with_reducible apply keeps_settle)
    | (with_reducible apply keeps_probeArrive)
    | (fail_if_no_progress (with_reducible apply keeps_lit))
    | (with_reducible apply keeps_ite)

theorem keeps_execInternalProbe {d : Die} {q : Packet} {s : State} :
    ∃ t', Sys2Proof.Machine.execInternalProbe (d := d) (q := q) (s := s) = .next t'.settle ∧ Keeps s t' := by
  unfold Sys2Proof.Machine.execInternalProbe
  try dsimp only
  repeat' first
    | (refine ⟨_, rfl, ?_⟩)
    | (with_reducible exact Keeps.refl _)
    | (with_reducible assumption)
    | (with_reducible apply keeps_settle)
    | (with_reducible apply keeps_internalProbe)

theorem keeps_execFenceHoldExpiry {d : Die} {src : Endpoint} {dst : Endpoint} {col : Bool} {s : State} :
    ∃ t', Sys2Proof.Machine.execFenceHoldExpiry (d := d) (src := src) (dst := dst) (col := col) (s := s) = .next t'.settle ∧ Keeps s t' := by
  unfold Sys2Proof.Machine.execFenceHoldExpiry
  try dsimp only
  repeat' first
    | (refine ⟨_, rfl, ?_⟩)
    | (with_reducible exact Keeps.refl _)
    | (with_reducible assumption)
    | (with_reducible apply keeps_settle)
    | (with_reducible apply keeps_fenceExpire)

theorem keeps_execHoldLimitExpiry {a : HoldAt} {s : State} :
    ∃ t', Sys2Proof.Machine.execHoldLimitExpiry (a := a) (s := s) = .next t'.settle ∧ Keeps s t' := by
  unfold Sys2Proof.Machine.execHoldLimitExpiry
  try dsimp only
  repeat' first
    | (refine ⟨_, rfl, ?_⟩)
    | (with_reducible exact Keeps.refl _)
    | (with_reducible assumption)
    | (with_reducible apply keeps_settle)
    | (with_reducible apply keeps_holdLimit)

theorem keeps_execColArm {q : Packet} {inPort : Port} {outPort : Port} {s : State} :
    ∃ t', Sys2Proof.Machine.execColArm (q := q) (inPort := inPort) (outPort := outPort) (s := s) = .next t'.settle ∧ Keeps s t' := by
  unfold Sys2Proof.Machine.execColArm
  try dsimp only
  repeat' first
    | (refine ⟨_, rfl, ?_⟩)
    | (with_reducible exact Keeps.refl _)
    | (with_reducible assumption)
    | (with_reducible apply keeps_settle)
    | (with_reducible apply keeps_passArm)

theorem keeps_execColArmAck {q : Packet} {inPort : Port} {outPort : Port} {s : State} :
    ∃ t', Sys2Proof.Machine.execColArmAck (q := q) (inPort := inPort) (outPort := outPort) (s := s) = .next t'.settle ∧ Keeps s t' := by
  unfold Sys2Proof.Machine.execColArmAck
  try dsimp only
  repeat' first
    | (refine ⟨_, rfl, ?_⟩)
    | (with_reducible exact Keeps.refl _)
    | (with_reducible assumption)
    | (with_reducible apply keeps_taken)
    | (with_reducible apply keeps_settle)
    | (with_reducible apply keeps_armAnswer)
    | (with_reducible apply keeps_passArmAck)
    | (fail_if_no_progress (with_reducible apply keeps_lit))
    | (with_reducible apply keeps_ite)

theorem keeps_execColDisarm {q : Packet} {inPort : Port} {s : State} :
    ∃ t', Sys2Proof.Machine.execColDisarm (q := q) (inPort := inPort) (s := s) = .next t'.settle ∧ Keeps s t' := by
  unfold Sys2Proof.Machine.execColDisarm
  try dsimp only
  repeat' first
    | (refine ⟨_, rfl, ?_⟩)
    | (with_reducible exact Keeps.refl _)
    | (with_reducible assumption)
    | (with_reducible apply keeps_settle)
    | (with_reducible apply keeps_passDisarm)

theorem keeps_execBankHeldClear {b : Bool} {s : State} :
    ∃ t', Sys2Proof.Machine.execBankHeldClear (b := b) (s := s) = .next t'.settle ∧ Keeps s t' := by
  unfold Sys2Proof.Machine.execBankHeldClear
  try dsimp only
  repeat' first
    | (refine ⟨_, rfl, ?_⟩)
    | (with_reducible exact Keeps.refl _)
    | (with_reducible assumption)
    | (with_reducible apply keeps_settle)
    | (with_reducible apply keeps_heldClear)

theorem keeps_execDirectoryScrub {d : Die} {ecc : Ecc} {hits : List ArrayHit} {s : State} :
    ∃ t', Sys2Proof.Machine.execDirectoryScrub (d := d) (ecc := ecc) (hits := hits) (s := s) = .next t'.settle ∧ Keeps s t' := by
  unfold Sys2Proof.Machine.execDirectoryScrub
  try dsimp only
  repeat' first
    | (refine ⟨_, rfl, ?_⟩)
    | (with_reducible exact Keeps.refl _)
    | (with_reducible assumption)
    | (with_reducible apply keeps_settle)
    | (with_reducible apply keeps_dirScrub)

theorem keeps_execDataFlit {n : Port} {f : Flit} {s : State} :
    ∃ t', Sys2Proof.Machine.execDataFlit (n := n) (f := f) (s := s) = .next t'.settle ∧ Keeps s t' := by
  unfold Sys2Proof.Machine.execDataFlit
  try dsimp only
  repeat' first
    | (refine ⟨_, rfl, ?_⟩)
    | (with_reducible exact Keeps.refl _)
    | (with_reducible assumption)
    | (with_reducible apply keeps_settle)
    | (with_reducible apply keeps_dataFlit)
    | (with_reducible apply keeps_flitIn)
    | (intro t ht)

theorem keeps_execIdleFlit {n : Port} {f : Flit} {s : State} :
    ∃ t', Sys2Proof.Machine.execIdleFlit (n := n) (f := f) (s := s) = .next t'.settle ∧ Keeps s t' := by
  unfold Sys2Proof.Machine.execIdleFlit
  try dsimp only
  repeat' first
    | (refine ⟨_, rfl, ?_⟩)
    | (with_reducible exact Keeps.refl _)
    | (with_reducible assumption)
    | (with_reducible apply keeps_settle)
    | (with_reducible apply keeps_idleFlit)
    | (with_reducible apply keeps_flitIn)
    | (intro t ht)

theorem keeps_execNakFlit {n : Port} {f : Flit} {bufferEcc : Ecc} {s : State} :
    ∃ t', Sys2Proof.Machine.execNakFlit (n := n) (f := f) (bufferEcc := bufferEcc) (s := s) = .next t'.settle ∧ Keeps s t' := by
  unfold Sys2Proof.Machine.execNakFlit
  try dsimp only
  repeat' first
    | (refine ⟨_, rfl, ?_⟩)
    | (with_reducible exact Keeps.refl _)
    | (with_reducible assumption)
    | (with_reducible apply keeps_settle)
    | (with_reducible apply keeps_nakFlit)
    | (with_reducible apply keeps_flitIn)
    | (intro t ht)

theorem keeps_execInitFlit {n : Port} {b : InitBody} {s : State} :
    ∃ t', Sys2Proof.Machine.execInitFlit (n := n) (b := b) (s := s) = .next t'.settle ∧ Keeps s t' := by
  unfold Sys2Proof.Machine.execInitFlit
  try dsimp only
  repeat' first
    | (refine ⟨_, rfl, ?_⟩)
    | (with_reducible exact Keeps.refl _)
    | (with_reducible assumption)
    | (with_reducible apply keeps_settle)
    | (with_reducible apply keeps_initFlit)
    | (with_reducible apply keeps_flitIn)
    | (intro t ht)

theorem keeps_execFlitTransmit {n : Port} {s : State} :
    ∃ t', Sys2Proof.Machine.execFlitTransmit (n := n) (s := s) = .next t'.settle ∧ Keeps s t' := by
  unfold Sys2Proof.Machine.execFlitTransmit
  try dsimp only
  repeat' first
    | (refine ⟨_, rfl, ?_⟩)
    | (with_reducible exact Keeps.refl _)
    | (with_reducible assumption)
    | (with_reducible apply keeps_settle)
    | (with_reducible apply keeps_transmit)

theorem keeps_execRxBufferRelease {n : Port} {b : Fin 20} {e : RxErr} {s : State} :
    ∃ t', Sys2Proof.Machine.execRxBufferRelease (n := n) (b := b) (e := e) (s := s) = .next t'.settle ∧ Keeps s t' := by
  unfold Sys2Proof.Machine.execRxBufferRelease
  try dsimp only
  repeat' first
    | (refine ⟨_, rfl, ?_⟩)
    | (with_reducible exact Keeps.refl _)
    | (with_reducible assumption)
    | (with_reducible apply keeps_settle)
    | (with_reducible apply keeps_rxRelease)

theorem keeps_execIdleAckExpiry {n : Port} {s : State} :
    ∃ t', Sys2Proof.Machine.execIdleAckExpiry (n := n) (s := s) = .next t'.settle ∧ Keeps s t' := by
  unfold Sys2Proof.Machine.execIdleAckExpiry
  try dsimp only
  repeat' first
    | (refine ⟨_, rfl, ?_⟩)
    | (with_reducible exact Keeps.refl _)
    | (with_reducible assumption)
    | (with_reducible apply keeps_settle)
    | (with_reducible apply keeps_idleAck)

theorem keeps_execAckTimeoutExpiry {n : Port} {bufferEcc : Ecc} {s : State} :
    ∃ t', Sys2Proof.Machine.execAckTimeoutExpiry (n := n) (bufferEcc := bufferEcc) (s := s) = .next t'.settle ∧ Keeps s t' := by
  unfold Sys2Proof.Machine.execAckTimeoutExpiry
  try dsimp only
  repeat' first
    | (refine ⟨_, rfl, ?_⟩)
    | (with_reducible exact Keeps.refl _)
    | (with_reducible assumption)
    | (with_reducible apply keeps_settle)
    | (with_reducible apply keeps_ackTimeout)

theorem keeps_execCrdTimeoutExpiry {n : Port} {b : Fin 20} {s : State} :
    ∃ t', Sys2Proof.Machine.execCrdTimeoutExpiry (n := n) (b := b) (s := s) = .next t'.settle ∧ Keeps s t' := by
  unfold Sys2Proof.Machine.execCrdTimeoutExpiry
  try dsimp only
  repeat' first
    | (refine ⟨_, rfl, ?_⟩)
    | (with_reducible exact Keeps.refl _)
    | (with_reducible assumption)
    | (with_reducible apply keeps_settle)
    | (with_reducible apply keeps_crdTimeout)

theorem keeps_execInitResend {n : Port} {s : State} :
    ∃ t', Sys2Proof.Machine.execInitResend (n := n) (s := s) = .next t'.settle ∧ Keeps s t' := by
  unfold Sys2Proof.Machine.execInitResend
  try dsimp only
  repeat' first
    | (refine ⟨_, rfl, ?_⟩)
    | (with_reducible exact Keeps.refl _)
    | (with_reducible assumption)
    | (with_reducible apply keeps_settle)
    | (with_reducible apply keeps_sendInit)
    | (with_reducible apply keeps_ite)

theorem keeps_execInitTimeoutExpiry {n : Port} {s : State} :
    ∃ t', Sys2Proof.Machine.execInitTimeoutExpiry (n := n) (s := s) = .next t'.settle ∧ Keeps s t' := by
  unfold Sys2Proof.Machine.execInitTimeoutExpiry
  try dsimp only
  repeat' first
    | (refine ⟨_, rfl, ?_⟩)
    | (with_reducible exact Keeps.refl _)
    | (with_reducible assumption)
    | (with_reducible apply keeps_settle)
    | (with_reducible apply keeps_initTimeout)

theorem keeps_execRetrainTimeoutExpiry {n : Port} {s : State} :
    ∃ t', Sys2Proof.Machine.execRetrainTimeoutExpiry (n := n) (s := s) = .next t'.settle ∧ Keeps s t' := by
  unfold Sys2Proof.Machine.execRetrainTimeoutExpiry
  try dsimp only
  repeat' first
    | (refine ⟨_, rfl, ?_⟩)
    | (with_reducible exact Keeps.refl _)
    | (with_reducible assumption)
    | (with_reducible apply keeps_settle)
    | (with_reducible apply keeps_retrainTimeout)

theorem keeps_execLossOfSignal {n : Port} {s : State} :
    ∃ t', Sys2Proof.Machine.execLossOfSignal (n := n) (s := s) = .next t'.settle ∧ Keeps s t' := by
  unfold Sys2Proof.Machine.execLossOfSignal
  try dsimp only
  repeat' first
    | (refine ⟨_, rfl, ?_⟩)
    | (with_reducible exact Keeps.refl _)
    | (with_reducible assumption)
    | (with_reducible apply keeps_settle)
    | (with_reducible apply keeps_lossOfSignal)

theorem keeps_execDownHoldExpiry {n : Port} {s : State} :
    ∃ t', Sys2Proof.Machine.execDownHoldExpiry (n := n) (s := s) = .next t'.settle ∧ Keeps s t' := by
  unfold Sys2Proof.Machine.execDownHoldExpiry
  try dsimp only
  repeat' first
    | (refine ⟨_, rfl, ?_⟩)
    | (with_reducible exact Keeps.refl _)
    | (with_reducible assumption)
    | (with_reducible apply keeps_settle)
    | (with_reducible apply keeps_downHold)

theorem keeps_execFailedCrcFlit {n : Port} {tagFailed : Bool} {s : State} :
    ∃ t', Sys2Proof.Machine.execFailedCrcFlit (n := n) (tagFailed := tagFailed) (s := s) = .next t'.settle ∧ Keeps s t' := by
  unfold Sys2Proof.Machine.execFailedCrcFlit
  try dsimp only
  repeat' first
    | (refine ⟨_, rfl, ?_⟩)
    | (with_reducible exact Keeps.refl _)
    | (with_reducible assumption)
    | (with_reducible apply keeps_settle)
    | (with_reducible apply keeps_takeFront)
    | (with_reducible apply keeps_badFlit)

theorem keeps_execReservedTypeFlit {n : Port} {f : Flit} {s : State} :
    ∃ t', Sys2Proof.Machine.execReservedTypeFlit (n := n) (f := f) (s := s) = .next t'.settle ∧ Keeps s t' := by
  unfold Sys2Proof.Machine.execReservedTypeFlit
  try dsimp only
  repeat' first
    | (refine ⟨_, rfl, ?_⟩)
    | (with_reducible exact Keeps.refl _)
    | (with_reducible assumption)
    | (with_reducible apply keeps_settle)
    | (with_reducible apply keeps_protocolError)
    | (with_reducible apply keeps_flitIn)
    | (with_reducible apply keeps_ite)
    | split
    | (intro t ht)

theorem keeps_execElectricalDetect {n : Port} {detected : Byte} {timedOut : Bool} {s : State} :
    ∃ t', Sys2Proof.Machine.execElectricalDetect (n := n) (detected := detected) (timedOut := timedOut) (s := s) = .next t'.settle ∧ Keeps s t' := by
  unfold Sys2Proof.Machine.execElectricalDetect
  try dsimp only
  repeat' first
    | (refine ⟨_, rfl, ?_⟩)
    | (with_reducible exact Keeps.refl _)
    | (with_reducible assumption)
    | (with_reducible apply keeps_settle)
    | (with_reducible apply keeps_electrical)

theorem keeps_execClockRecoveryLock {n : Port} {locked : Byte} {failed : Byte} {s : State} :
    ∃ t', Sys2Proof.Machine.execClockRecoveryLock (n := n) (locked := locked) (failed := failed) (s := s) = .next t'.settle ∧ Keeps s t' := by
  unfold Sys2Proof.Machine.execClockRecoveryLock
  try dsimp only
  repeat' first
    | (refine ⟨_, rfl, ?_⟩)
    | (with_reducible exact Keeps.refl _)
    | (with_reducible assumption)
    | (with_reducible apply keeps_settle)
    | (with_reducible apply keeps_clockLock)

theorem keeps_execBlockLock {n : Port} {l : Lane} {inverted : Option Bool} {s : State} :
    ∃ t', Sys2Proof.Machine.execBlockLock (n := n) (l := l) (inverted := inverted) (s := s) = .next t'.settle ∧ Keeps s t' := by
  unfold Sys2Proof.Machine.execBlockLock
  try dsimp only
  repeat' first
    | (refine ⟨_, rfl, ?_⟩)
    | (with_reducible exact Keeps.refl _)
    | (with_reducible assumption)
    | (with_reducible apply keeps_settle)
    | (with_reducible apply keeps_blockLock)

theorem keeps_execPolarityDetect {n : Port} {l : Lane} {typeByte : Byte} {s : State} :
    ∃ t', Sys2Proof.Machine.execPolarityDetect (n := n) (l := l) (typeByte := typeByte) (s := s) = .next t'.settle ∧ Keeps s t' := by
  unfold Sys2Proof.Machine.execPolarityDetect
  try dsimp only
  repeat' first
    | (refine ⟨_, rfl, ?_⟩)
    | (with_reducible exact Keeps.refl _)
    | (with_reducible assumption)
    | (with_reducible apply keeps_settle)
    | (with_reducible apply keeps_polarity)

theorem keeps_execLaneMapping {n : Port} {lanes : List (Option (Fin 8))} {farOk : Byte} {s : State} :
    ∃ t', Sys2Proof.Machine.execLaneMapping (n := n) (lanes := lanes) (farOk := farOk) (s := s) = .next t'.settle ∧ Keeps s t' := by
  unfold Sys2Proof.Machine.execLaneMapping
  try dsimp only
  repeat' first
    | (refine ⟨_, rfl, ?_⟩)
    | (with_reducible exact Keeps.refl _)
    | (with_reducible assumption)
    | (with_reducible apply keeps_settle)
    | (with_reducible apply keeps_mapLanes)

theorem keeps_execDeskew {n : Port} {skewOk : Bool} {s : State} :
    ∃ t', Sys2Proof.Machine.execDeskew (n := n) (skewOk := skewOk) (s := s) = .next t'.settle ∧ Keeps s t' := by
  unfold Sys2Proof.Machine.execDeskew
  try dsimp only
  repeat' first
    | (refine ⟨_, rfl, ?_⟩)
    | (with_reducible exact Keeps.refl _)
    | (with_reducible assumption)
    | (with_reducible apply keeps_settle)
    | (with_reducible apply keeps_deskewed)

theorem keeps_execFecLock {n : Port} {s : State} :
    ∃ t', Sys2Proof.Machine.execFecLock (n := n) (s := s) = .next t'.settle ∧ Keeps s t' := by
  unfold Sys2Proof.Machine.execFecLock
  try dsimp only
  repeat' first
    | (refine ⟨_, rfl, ?_⟩)
    | (with_reducible exact Keeps.refl _)
    | (with_reducible assumption)
    | (with_reducible apply keeps_settle)
    | (with_reducible apply keeps_fecLocked)

theorem keeps_execEqualisation {n : Port} {s : State} :
    ∃ t', Sys2Proof.Machine.execEqualisation (n := n) (s := s) = .next t'.settle ∧ Keeps s t' := by
  unfold Sys2Proof.Machine.execEqualisation
  try dsimp only
  repeat' first
    | (refine ⟨_, rfl, ?_⟩)
    | (with_reducible exact Keeps.refl _)
    | (with_reducible assumption)
    | (with_reducible apply keeps_settle)
    | (with_reducible apply keeps_equalised)

theorem keeps_execStageTimeout {n : Port} {s : State} :
    ∃ t', Sys2Proof.Machine.execStageTimeout (n := n) (s := s) = .next t'.settle ∧ Keeps s t' := by
  unfold Sys2Proof.Machine.execStageTimeout
  try dsimp only
  repeat' first
    | (refine ⟨_, rfl, ?_⟩)
    | (with_reducible exact Keeps.refl _)
    | (with_reducible assumption)
    | (with_reducible apply keeps_settle)
    | (with_reducible apply keeps_stageTimeout)

theorem keeps_execTrainBlock {n : Port} {l : Lane} {payload : DWord} {s : State} :
    ∃ t', Sys2Proof.Machine.execTrainBlock (n := n) (l := l) (payload := payload) (s := s) = .next t'.settle ∧ Keeps s t' := by
  unfold Sys2Proof.Machine.execTrainBlock
  try dsimp only
  repeat' first
    | (refine ⟨_, rfl, ?_⟩)
    | (with_reducible exact Keeps.refl _)
    | (with_reducible assumption)
    | (with_reducible apply keeps_settle)
    | (with_reducible apply keeps_trainBlock)

theorem keeps_execFecFrame {n : Port} {l : Lane} {symbols : List Level} {drift : Bool} {s : State} :
    ∃ t', Sys2Proof.Machine.execFecFrame (n := n) (l := l) (symbols := symbols) (drift := drift) (s := s) = .next t'.settle ∧ Keeps s t' := by
  unfold Sys2Proof.Machine.execFecFrame
  try dsimp only
  repeat' first
    | (refine ⟨_, rfl, ?_⟩)
    | (with_reducible exact Keeps.refl _)
    | (with_reducible assumption)
    | (with_reducible apply keeps_settle)
    | (with_reducible apply keeps_fecFrame)

theorem keeps_execEiIdleExpiry {n : Port} {s : State} :
    ∃ t', Sys2Proof.Machine.execEiIdleExpiry (n := n) (s := s) = .next t'.settle ∧ Keeps s t' := by
  unfold Sys2Proof.Machine.execEiIdleExpiry
  try dsimp only
  repeat' first
    | (refine ⟨_, rfl, ?_⟩)
    | (with_reducible exact Keeps.refl _)
    | (with_reducible assumption)
    | (with_reducible apply keeps_settle)
    | (with_reducible apply keeps_eiIdle)

theorem keeps_execEiEnter {n : Port} {s : State} :
    ∃ t', Sys2Proof.Machine.execEiEnter (n := n) (s := s) = .next t'.settle ∧ Keeps s t' := by
  unfold Sys2Proof.Machine.execEiEnter
  try dsimp only
  repeat' first
    | (refine ⟨_, rfl, ?_⟩)
    | (with_reducible exact Keeps.refl _)
    | (with_reducible assumption)
    | (with_reducible apply keeps_settle)
    | (with_reducible apply keeps_eiEnter)

theorem keeps_execAnnouncedIdleLimit {n : Port} {s : State} :
    ∃ t', Sys2Proof.Machine.execAnnouncedIdleLimit (n := n) (s := s) = .next t'.settle ∧ Keeps s t' := by
  unfold Sys2Proof.Machine.execAnnouncedIdleLimit
  try dsimp only
  repeat' first
    | (refine ⟨_, rfl, ?_⟩)
    | (with_reducible exact Keeps.refl _)
    | (with_reducible assumption)
    | (with_reducible apply keeps_settle)
    | (with_reducible apply keeps_idleLimit)

theorem keeps_execEiExit {n : Port} {s : State} :
    ∃ t', Sys2Proof.Machine.execEiExit (n := n) (s := s) = .next t'.settle ∧ Keeps s t' := by
  unfold Sys2Proof.Machine.execEiExit
  try dsimp only
  repeat' first
    | (refine ⟨_, rfl, ?_⟩)
    | (with_reducible exact Keeps.refl _)
    | (with_reducible assumption)
    | (with_reducible apply keeps_settle)
    | (with_reducible apply keeps_eiExit)

theorem keeps_execLaneHealthWindow {n : Port} {s : State} :
    ∃ t', Sys2Proof.Machine.execLaneHealthWindow (n := n) (s := s) = .next t'.settle ∧ Keeps s t' := by
  unfold Sys2Proof.Machine.execLaneHealthWindow
  try dsimp only
  repeat' first
    | (refine ⟨_, rfl, ?_⟩)
    | (with_reducible exact Keeps.refl _)
    | (with_reducible assumption)
    | (with_reducible apply keeps_settle)
    | (with_reducible apply keeps_healthWindow)

theorem keeps_execEyeMarginDone {n : Port} {l : Lane} {mismatch : Word} {s : State} :
    ∃ t', Sys2Proof.Machine.execEyeMarginDone (n := n) (l := l) (mismatch := mismatch) (s := s) = .next t'.settle ∧ Keeps s t' := by
  unfold Sys2Proof.Machine.execEyeMarginDone
  try dsimp only
  repeat' first
    | (refine ⟨_, rfl, ?_⟩)
    | (with_reducible exact Keeps.refl _)
    | (with_reducible assumption)
    | (with_reducible apply keeps_settle)
    | (with_reducible apply keeps_eyeDone)

theorem keeps_execPrbsCheckerSync {n : Port} {l : Lane} {errors : Word} {s : State} :
    ∃ t', Sys2Proof.Machine.execPrbsCheckerSync (n := n) (l := l) (errors := errors) (s := s) = .next t'.settle ∧ Keeps s t' := by
  unfold Sys2Proof.Machine.execPrbsCheckerSync
  try dsimp only
  repeat' first
    | (refine ⟨_, rfl, ?_⟩)
    | (with_reducible exact Keeps.refl _)
    | (with_reducible assumption)
    | (with_reducible apply keeps_settle)
    | (with_reducible apply keeps_prbsSync)

theorem keeps_execLeashRefill {s : State} :
    ∃ t', Sys2Proof.Machine.execLeashRefill (s := s) = .next t'.settle ∧ Keeps s t' := by
  unfold Sys2Proof.Machine.execLeashRefill
  try dsimp only
  repeat' first
    | (refine ⟨_, rfl, ?_⟩)
    | (with_reducible exact Keeps.refl _)
    | (with_reducible assumption)
    | (with_reducible apply keeps_settle)
    | (with_reducible apply keeps_leashRefill)

theorem keeps_execStatsPeriodTick {s : State} :
    ∃ t', Sys2Proof.Machine.execStatsPeriodTick (s := s) = .next t'.settle ∧ Keeps s t' := by
  unfold Sys2Proof.Machine.execStatsPeriodTick
  try dsimp only
  repeat' first
    | (refine ⟨_, rfl, ?_⟩)
    | (with_reducible exact Keeps.refl _)
    | (with_reducible assumption)
    | (with_reducible apply keeps_settle)
    | (with_reducible apply keeps_periodTick)

theorem keeps_execCurtainCommit {r : Fin 3} {d : Die} {s : State} :
    ∃ t', Sys2Proof.Machine.execCurtainCommit (r := r) (d := d) (s := s) = .next t'.settle ∧ Keeps s t' := by
  unfold Sys2Proof.Machine.execCurtainCommit
  try dsimp only
  repeat' first
    | (refine ⟨_, rfl, ?_⟩)
    | (with_reducible exact Keeps.refl _)
    | (with_reducible assumption)
    | (with_reducible apply keeps_settle)
    | (with_reducible apply keeps_curtainCommit)

theorem keeps_execDataUnc {q : Packet} {s : State} :
    ∃ t', Sys2Proof.Machine.execDataUnc (q := q) (s := s) = .next t'.settle ∧ Keeps s t' := by
  unfold Sys2Proof.Machine.execDataUnc
  try dsimp only
  repeat' first
    | (refine ⟨_, rfl, ?_⟩)
    | (with_reducible exact Keeps.refl _)
    | (with_reducible assumption)
    | (with_reducible apply keeps_settle)
    | (with_reducible apply keeps_response)

theorem keeps_execDone {q : Packet} {s : State} :
    ∃ t', Sys2Proof.Machine.execDone (q := q) (s := s) = .next t'.settle ∧ Keeps s t' := by
  unfold Sys2Proof.Machine.execDone
  try dsimp only
  repeat' first
    | (refine ⟨_, rfl, ?_⟩)
    | (with_reducible exact Keeps.refl _)
    | (with_reducible assumption)
    | (with_reducible apply keeps_settle)
    | (with_reducible apply keeps_response)

theorem keeps_execStatus {q : Packet} {s : State} :
    ∃ t', Sys2Proof.Machine.execStatus (q := q) (s := s) = .next t'.settle ∧ Keeps s t' := by
  unfold Sys2Proof.Machine.execStatus
  try dsimp only
  repeat' first
    | (refine ⟨_, rfl, ?_⟩)
    | (with_reducible exact Keeps.refl _)
    | (with_reducible assumption)
    | (with_reducible apply keeps_settle)
    | (with_reducible apply keeps_response)

theorem keeps_execTxOpened {q : Packet} {s : State} :
    ∃ t', Sys2Proof.Machine.execTxOpened (q := q) (s := s) = .next t'.settle ∧ Keeps s t' := by
  unfold Sys2Proof.Machine.execTxOpened
  try dsimp only
  repeat' first
    | (refine ⟨_, rfl, ?_⟩)
    | (with_reducible exact Keeps.refl _)
    | (with_reducible assumption)
    | (with_reducible apply keeps_settle)
    | (with_reducible apply keeps_response)

theorem keeps_execTxNotice {q : Packet} {s : State} :
    ∃ t', Sys2Proof.Machine.execTxNotice (q := q) (s := s) = .next t'.settle ∧ Keeps s t' := by
  unfold Sys2Proof.Machine.execTxNotice
  try dsimp only
  repeat' first
    | (refine ⟨_, rfl, ?_⟩)
    | (with_reducible exact Keeps.refl _)
    | (with_reducible assumption)
    | (with_reducible apply keeps_settle)
    | (with_reducible apply keeps_txNotice)

theorem keeps_execRetryBackoffExpiry {r : Requester} {tag : BitVec 14} {s : State} :
    ∃ t', Sys2Proof.Machine.execRetryBackoffExpiry (r := r) (tag := tag) (s := s) = .next t'.settle ∧ Keeps s t' := by
  unfold Sys2Proof.Machine.execRetryBackoffExpiry
  try dsimp only
  repeat' first
    | (refine ⟨_, rfl, ?_⟩)
    | (with_reducible exact Keeps.refl _)
    | (with_reducible assumption)
    | (with_reducible apply keeps_settle)
    | (with_reducible apply keeps_reissue)

theorem keeps_execCplTimeoutExpiry {r : Requester} {tag : BitVec 14} {s : State} :
    ∃ t', Sys2Proof.Machine.execCplTimeoutExpiry (r := r) (tag := tag) (s := s) = .next t'.settle ∧ Keeps s t' := by
  unfold Sys2Proof.Machine.execCplTimeoutExpiry
  try dsimp only
  repeat' first
    | (refine ⟨_, rfl, ?_⟩)
    | (with_reducible exact Keeps.refl _)
    | (with_reducible assumption)
    | (with_reducible apply keeps_settle)
    | (with_reducible apply keeps_cplTimeout)

theorem keeps_execHostLinkDown {h : Fin 2} {s : State} :
    ∃ t', Sys2Proof.Machine.execHostLinkDown (h := h) (s := s) = .next t'.settle ∧ Keeps s t' := by
  unfold Sys2Proof.Machine.execHostLinkDown
  try dsimp only
  repeat' first
    | (refine ⟨_, rfl, ?_⟩)
    | (with_reducible exact Keeps.refl _)
    | (with_reducible assumption)
    | (with_reducible apply keeps_settle)
    | (with_reducible apply keeps_hostDown)

theorem keeps_execHostLinkUp {h : Fin 2} {speed : BitVec 3} {width : BitVec 4} {s : State} :
    ∃ t', Sys2Proof.Machine.execHostLinkUp (h := h) (speed := speed) (width := width) (s := s) = .next t'.settle ∧ Keeps s t' := by
  unfold Sys2Proof.Machine.execHostLinkUp
  try dsimp only
  repeat' first
    | (refine ⟨_, rfl, ?_⟩)
    | (with_reducible exact Keeps.refl _)
    | (with_reducible assumption)
    | (with_reducible apply keeps_settle)
    | (with_reducible apply keeps_hostUp)

theorem keeps_execHostPortReset {h : Fin 2} {s : State} :
    ∃ t', Sys2Proof.Machine.execHostPortReset (h := h) (s := s) = .next t'.settle ∧ Keeps s t' := by
  unfold Sys2Proof.Machine.execHostPortReset
  try dsimp only
  repeat' first
    | (refine ⟨_, rfl, ?_⟩)
    | (with_reducible exact Keeps.refl _)
    | (with_reducible assumption)
    | (with_reducible apply keeps_settle)
    | (with_reducible apply keeps_hostDown)

theorem keeps_execFunctionLevelReset {h : Fin 2} {f : Fin 16} {s : State} :
    ∃ t', Sys2Proof.Machine.execFunctionLevelReset (h := h) (f := f) (s := s) = .next t'.settle ∧ Keeps s t' := by
  unfold Sys2Proof.Machine.execFunctionLevelReset
  try dsimp only
  repeat' first
    | (refine ⟨_, rfl, ?_⟩)
    | (with_reducible exact Keeps.refl _)
    | (with_reducible assumption)
    | (with_reducible apply keeps_settle)
    | (with_reducible apply keeps_fnReset)
    | (with_reducible apply keeps_fnSecure)
    | (with_reducible apply keeps_ite)

theorem keeps_execEvqWriteError {e : Fin 17} {s : State} :
    ∃ t', Sys2Proof.Machine.execEvqWriteError (e := e) (s := s) = .next t'.settle ∧ Keeps s t' := by
  unfold Sys2Proof.Machine.execEvqWriteError
  try dsimp only
  repeat' first
    | (refine ⟨_, rfl, ?_⟩)
    | (with_reducible exact Keeps.refl _)
    | (with_reducible assumption)
    | (with_reducible apply keeps_settle)
    | (with_reducible apply keeps_evqDisable)
    | (with_reducible apply keeps_ite)

theorem keeps_execMsixModerationExpiry {e : Fin 17} {s : State} :
    ∃ t', Sys2Proof.Machine.execMsixModerationExpiry (e := e) (s := s) = .next t'.settle ∧ Keeps s t' := by
  unfold Sys2Proof.Machine.execMsixModerationExpiry
  try dsimp only
  repeat' first
    | (refine ⟨_, rfl, ?_⟩)
    | (with_reducible exact Keeps.refl _)
    | (with_reducible assumption)
    | (with_reducible apply keeps_uEvt)
    | (with_reducible apply keeps_settle)
    | (fail_if_no_progress (with_reducible apply keeps_lit))
    | (with_reducible apply keeps_ite)

theorem keeps_execColdResetN {s : State} :
    ∃ t', Sys2Proof.Machine.execColdResetN (s := s) = .next t'.settle ∧ Keeps s t' := by
  unfold Sys2Proof.Machine.execColdResetN
  try dsimp only
  repeat' first
    | (refine ⟨_, rfl, ?_⟩)
    | (with_reducible exact Keeps.refl _)
    | (with_reducible assumption)
    | (with_reducible apply keeps_settle)
    | (with_reducible apply keeps_uPwr)
    | (with_reducible apply keeps_coldBegin)
    | (fail_if_no_progress (with_reducible apply keeps_lit))
    | (with_reducible apply keeps_ite)

theorem keeps_execWarmResetN {s : State} :
    ∃ t', Sys2Proof.Machine.execWarmResetN (s := s) = .next t'.settle ∧ Keeps s t' := by
  unfold Sys2Proof.Machine.execWarmResetN
  try dsimp only
  repeat' first
    | (refine ⟨_, rfl, ?_⟩)
    | (with_reducible exact Keeps.refl _)
    | (with_reducible assumption)
    | (with_reducible apply keeps_settle)
    | (with_reducible apply keeps_uPwr)
    | (with_reducible apply keeps_warmBegin)
    | (fail_if_no_progress (with_reducible apply keeps_lit))
    | (with_reducible apply keeps_ite)

theorem keeps_execResetPinRelease {cold : Bool} {s : State} :
    ∃ t', Sys2Proof.Machine.execResetPinRelease (cold := cold) (s := s) = .next t'.settle ∧ Keeps s t' := by
  unfold Sys2Proof.Machine.execResetPinRelease
  try dsimp only
  repeat' first
    | (refine ⟨_, rfl, ?_⟩)
    | (with_reducible exact Keeps.refl _)
    | (with_reducible assumption)
    | (with_reducible apply keeps_settle)
    | (with_reducible apply keeps_warmRun)
    | (with_reducible apply keeps_coldRun)
    | (with_reducible apply keeps_ite)

theorem keeps_execPowerDownDone {s : State} :
    ∃ t', Sys2Proof.Machine.execPowerDownDone (s := s) = .next t'.settle ∧ Keeps s t' := by
  unfold Sys2Proof.Machine.execPowerDownDone
  try dsimp only
  repeat' first
    | (refine ⟨_, rfl, ?_⟩)
    | (with_reducible exact Keeps.refl _)
    | (with_reducible assumption)
    | (with_reducible apply keeps_settle)
    | (with_reducible apply keeps_powerOff)
    | (with_reducible apply keeps_ite)

theorem keeps_execPowerUp {a : Bool} {b : Bool} {s : State} :
    ∃ t', Sys2Proof.Machine.execPowerUp (a := a) (b := b) (s := s) = .next t'.settle ∧ Keeps s t' := by
  unfold Sys2Proof.Machine.execPowerUp
  try dsimp only
  repeat' first
    | (refine ⟨_, rfl, ?_⟩)
    | (with_reducible exact Keeps.refl _)
    | (with_reducible assumption)
    | (with_reducible apply keeps_settle)
    | (with_reducible apply keeps_powerUp)

theorem keeps_execRotBootDone {b : BootFacts} {s : State} :
    ∃ t', Sys2Proof.Machine.execRotBootDone (b := b) (s := s) = .next t'.settle ∧ Keeps s t' := by
  unfold Sys2Proof.Machine.execRotBootDone
  try dsimp only
  repeat' first
    | (refine ⟨_, rfl, ?_⟩)
    | (with_reducible exact Keeps.refl _)
    | (with_reducible assumption)
    | (with_reducible apply keeps_settle)
    | (with_reducible apply keeps_bootDone)

theorem keeps_execMainRailsGood {s : State} :
    ∃ t', Sys2Proof.Machine.execMainRailsGood (s := s) = .next t'.settle ∧ Keeps s t' := by
  unfold Sys2Proof.Machine.execMainRailsGood
  try dsimp only
  repeat' first
    | (refine ⟨_, rfl, ?_⟩)
    | (with_reducible exact Keeps.refl _)
    | (with_reducible assumption)
    | (with_reducible apply keeps_settle)
    | (with_reducible apply keeps_railsGood)

theorem keeps_execPllLocked {s : State} :
    ∃ t', Sys2Proof.Machine.execPllLocked (s := s) = .next t'.settle ∧ Keeps s t' := by
  unfold Sys2Proof.Machine.execPllLocked
  try dsimp only
  repeat' first
    | (refine ⟨_, rfl, ?_⟩)
    | (with_reducible exact Keeps.refl _)
    | (with_reducible assumption)
    | (with_reducible apply keeps_settle)
    | (with_reducible apply keeps_pllLocked)

theorem keeps_execPowerUpReady {s : State} :
    ∃ t', Sys2Proof.Machine.execPowerUpReady (s := s) = .next t'.settle ∧ Keeps s t' := by
  unfold Sys2Proof.Machine.execPowerUpReady
  try dsimp only
  repeat' first
    | (refine ⟨_, rfl, ?_⟩)
    | (with_reducible exact Keeps.refl _)
    | (with_reducible assumption)
    | (with_reducible apply keeps_settle)
    | (with_reducible apply keeps_ready)

theorem keeps_execPowerUpStepLimit {s : State} :
    ∃ t', Sys2Proof.Machine.execPowerUpStepLimit (s := s) = .next t'.settle ∧ Keeps s t' := by
  unfold Sys2Proof.Machine.execPowerUpStepLimit
  try dsimp only
  repeat' first
    | (refine ⟨_, rfl, ?_⟩)
    | (with_reducible exact Keeps.refl _)
    | (with_reducible assumption)
    | (with_reducible apply keeps_settle)
    | (with_reducible apply keeps_stepLimit)

theorem keeps_execDroopAssert {d : Die} {s : State} :
    ∃ t', Sys2Proof.Machine.execDroopAssert (d := d) (s := s) = .next t'.settle ∧ Keeps s t' := by
  unfold Sys2Proof.Machine.execDroopAssert
  try dsimp only
  repeat' first
    | (refine ⟨_, rfl, ?_⟩)
    | (with_reducible exact Keeps.refl _)
    | (with_reducible assumption)
    | (with_reducible apply keeps_settle)
    | (with_reducible apply keeps_droop)

theorem keeps_execDroopDeassert {d : Die} {s : State} :
    ∃ t', Sys2Proof.Machine.execDroopDeassert (d := d) (s := s) = .next t'.settle ∧ Keeps s t' := by
  unfold Sys2Proof.Machine.execDroopDeassert
  try dsimp only
  repeat' first
    | (refine ⟨_, rfl, ?_⟩)
    | (with_reducible exact Keeps.refl _)
    | (with_reducible assumption)
    | (with_reducible apply keeps_settle)
    | (with_reducible apply keeps_droopEnds)

theorem keeps_execDroopRestoreExpiry {d : Die} {s : State} :
    ∃ t', Sys2Proof.Machine.execDroopRestoreExpiry (d := d) (s := s) = .next t'.settle ∧ Keeps s t' := by
  unfold Sys2Proof.Machine.execDroopRestoreExpiry
  try dsimp only
  repeat' first
    | (refine ⟨_, rfl, ?_⟩)
    | (with_reducible exact Keeps.refl _)
    | (with_reducible assumption)
    | (with_reducible apply keeps_settle)
    | (with_reducible apply keeps_droopRestore)

theorem keeps_execClusterDroopAssert {k : Cluster} {s : State} :
    ∃ t', Sys2Proof.Machine.execClusterDroopAssert (k := k) (s := s) = .next t'.settle ∧ Keeps s t' := by
  unfold Sys2Proof.Machine.execClusterDroopAssert
  try dsimp only
  repeat' first
    | (refine ⟨_, rfl, ?_⟩)
    | (with_reducible exact Keeps.refl _)
    | (with_reducible assumption)
    | (with_reducible apply keeps_settle)
    | (with_reducible apply keeps_droop)

theorem keeps_execClusterDroopDeassert {k : Cluster} {s : State} :
    ∃ t', Sys2Proof.Machine.execClusterDroopDeassert (k := k) (s := s) = .next t'.settle ∧ Keeps s t' := by
  unfold Sys2Proof.Machine.execClusterDroopDeassert
  try dsimp only
  repeat' first
    | (refine ⟨_, rfl, ?_⟩)
    | (with_reducible exact Keeps.refl _)
    | (with_reducible assumption)
    | (with_reducible apply keeps_settle)
    | (with_reducible apply keeps_droopEnds)

theorem keeps_execPmbusPoll {d : Die} {r : Fin 9} {v : PollResult} {s : State} :
    ∃ t', Sys2Proof.Machine.execPmbusPoll (d := d) (r := r) (v := v) (s := s) = .next t'.settle ∧ Keeps s t' := by
  unfold Sys2Proof.Machine.execPmbusPoll
  try dsimp only
  repeat' first
    | (refine ⟨_, rfl, ?_⟩)
    | (with_reducible exact Keeps.refl _)
    | (with_reducible assumption)
    | (with_reducible apply keeps_settle)
    | (with_reducible apply keeps_railPoll)

theorem keeps_execPowerCapTick {watts : Nat} {hottest : List Nat} {stackHot : List Nat} {dimmHot : List Nat} {s : State} :
    ∃ t', Sys2Proof.Machine.execPowerCapTick (watts := watts) (hottest := hottest) (stackHot := stackHot) (dimmHot := dimmHot) (s := s) = .next t'.settle ∧ Keeps s t' := by
  unfold Sys2Proof.Machine.execPowerCapTick
  try dsimp only
  repeat' first
    | (refine ⟨_, rfl, ?_⟩)
    | (with_reducible exact Keeps.refl _)
    | (with_reducible assumption)
    | (with_reducible apply keeps_settle)
    | (with_reducible apply keeps_capTick)

theorem keeps_execThermalTrip {t : TripSensor} {s : State} :
    ∃ t', Sys2Proof.Machine.execThermalTrip (t := t) (s := s) = .next t'.settle ∧ Keeps s t' := by
  unfold Sys2Proof.Machine.execThermalTrip
  try dsimp only
  repeat' first
    | (refine ⟨_, rfl, ?_⟩)
    | (with_reducible exact Keeps.refl _)
    | (with_reducible assumption)
    | (with_reducible apply keeps_settle)
    | (with_reducible apply keeps_thermalTrip)

theorem keeps_execReferenceCheck {d : Die} {sys : Bool} {lane : Bool} {pci : Bool} {s : State} :
    ∃ t', Sys2Proof.Machine.execReferenceCheck (d := d) (sys := sys) (lane := lane) (pci := pci) (s := s) = .next t'.settle ∧ Keeps s t' := by
  unfold Sys2Proof.Machine.execReferenceCheck
  try dsimp only
  repeat' first
    | (refine ⟨_, rfl, ?_⟩)
    | (with_reducible exact Keeps.refl _)
    | (with_reducible assumption)
    | (with_reducible apply keeps_settle)
    | (with_reducible apply keeps_refCheck)

theorem keeps_execFeedLost {b : Bool} {s : State} :
    ∃ t', Sys2Proof.Machine.execFeedLost (b := b) (s := s) = .next t'.settle ∧ Keeps s t' := by
  unfold Sys2Proof.Machine.execFeedLost
  try dsimp only
  repeat' first
    | (refine ⟨_, rfl, ?_⟩)
    | (with_reducible exact Keeps.refl _)
    | (with_reducible assumption)
    | (with_reducible apply keeps_settle)
    | (with_reducible apply keeps_feedLost)

theorem keeps_execFeedRestored {b : Bool} {s : State} :
    ∃ t', Sys2Proof.Machine.execFeedRestored (b := b) (s := s) = .next t'.settle ∧ Keeps s t' := by
  unfold Sys2Proof.Machine.execFeedRestored
  try dsimp only
  repeat' first
    | (refine ⟨_, rfl, ?_⟩)
    | (with_reducible exact Keeps.refl _)
    | (with_reducible assumption)
    | (with_reducible apply keeps_settle)
    | (with_reducible apply keeps_feedRestored)

theorem keeps_execCoreIdleExpiry {n : Core} {s : State} :
    ∃ t', Sys2Proof.Machine.execCoreIdleExpiry (n := n) (s := s) = .next t'.settle ∧ Keeps s t' := by
  unfold Sys2Proof.Machine.execCoreIdleExpiry
  try dsimp only
  repeat' first
    | (refine ⟨_, rfl, ?_⟩)
    | (with_reducible exact Keeps.refl _)
    | (with_reducible assumption)
    | (with_reducible apply keeps_settle)
    | (with_reducible apply keeps_gateCore)

theorem keeps_execCoreWakeDone {n : Core} {s : State} :
    ∃ t', Sys2Proof.Machine.execCoreWakeDone (n := n) (s := s) = .next t'.settle ∧ Keeps s t' := by
  unfold Sys2Proof.Machine.execCoreWakeDone
  try dsimp only
  repeat' first
    | (refine ⟨_, rfl, ?_⟩)
    | (with_reducible exact Keeps.refl _)
    | (with_reducible assumption)
    | (with_reducible apply keeps_settle)
    | (with_reducible apply keeps_uClu)

theorem keeps_execCrcPass {d : Die} {s : State} :
    ∃ t', Sys2Proof.Machine.execCrcPass (d := d) (s := s) = .next t'.settle ∧ Keeps s t' := by
  unfold Sys2Proof.Machine.execCrcPass
  try dsimp only
  repeat' first
    | (refine ⟨_, rfl, ?_⟩)
    | (with_reducible exact Keeps.refl _)
    | (with_reducible assumption)
    | (with_reducible apply keeps_settle)
    | (with_reducible apply keeps_crcPass)

theorem keeps_execFuncTimer {k : FuncKind} {i : Fin 4096} {s : State} :
    ∃ t', Sys2Proof.Machine.execFuncTimer (k := k) (i := i) (s := s) = .next t'.settle ∧ Keeps s t' := by
  unfold Sys2Proof.Machine.execFuncTimer
  try dsimp only
  repeat' first
    | (refine ⟨_, rfl, ?_⟩)
    | (with_reducible exact Keeps.refl _)
    | (with_reducible assumption)
    | (with_reducible apply keeps_settle)
    | (with_reducible apply keeps_funcTimer)

theorem keeps_execRefereeVerdict {n : Core} {c : Ctx} {u : RefereeRun} {s : State} :
    ∃ t', Sys2Proof.Machine.execRefereeVerdict (n := n) (c := c) (u := u) (s := s) = .next t'.settle ∧ Keeps s t' := by
  unfold Sys2Proof.Machine.execRefereeVerdict
  try dsimp only
  repeat' first
    | (refine ⟨_, rfl, ?_⟩)
    | (with_reducible exact Keeps.refl _)
    | (with_reducible assumption)
    | (with_reducible apply keeps_settle)
    | (with_reducible apply keeps_verdict)

theorem keeps_execCanary {n : Core} {a : Fin 4} {b : Fin 4} {ra : LineData} {rb : LineData} {u : Option LineData} {s : State} :
    ∃ t', Sys2Proof.Machine.execCanary (n := n) (a := a) (b := b) (ra := ra) (rb := rb) (u := u) (s := s) = .next t'.settle ∧ Keeps s t' := by
  unfold Sys2Proof.Machine.execCanary
  try dsimp only
  repeat' first
    | (refine ⟨_, rfl, ?_⟩)
    | (with_reducible exact Keeps.refl _)
    | (with_reducible assumption)
    | (with_reducible apply keeps_settle)
    | (with_reducible apply keeps_canary)

theorem keeps_execScalarCanary {n : Core} {sig : DWord} {refSig : DWord} {s : State} :
    ∃ t', Sys2Proof.Machine.execScalarCanary (n := n) (sig := sig) (refSig := refSig) (s := s) = .next t'.settle ∧ Keeps s t' := by
  unfold Sys2Proof.Machine.execScalarCanary
  try dsimp only
  repeat' first
    | (refine ⟨_, rfl, ?_⟩)
    | (with_reducible exact Keeps.refl _)
    | (with_reducible assumption)
    | (with_reducible apply keeps_settle)
    | (with_reducible apply keeps_scalarCanary)

theorem keeps_execRoleSwap {k : Cluster} {s : State} :
    ∃ t', Sys2Proof.Machine.execRoleSwap (k := k) (s := s) = .next t'.settle ∧ Keeps s t' := by
  unfold Sys2Proof.Machine.execRoleSwap
  try dsimp only
  repeat' first
    | (refine ⟨_, rfl, ?_⟩)
    | (with_reducible exact Keeps.refl _)
    | (with_reducible assumption)
    | (with_reducible apply keeps_settle)
    | (with_reducible apply keeps_roleSwap)

theorem keeps_execSwapDrainExpiry {k : Cluster} {s : State} :
    ∃ t', Sys2Proof.Machine.execSwapDrainExpiry (k := k) (s := s) = .next t'.settle ∧ Keeps s t' := by
  unfold Sys2Proof.Machine.execSwapDrainExpiry
  try dsimp only
  repeat' first
    | (refine ⟨_, rfl, ?_⟩)
    | (with_reducible exact Keeps.refl _)
    | (with_reducible assumption)
    | (with_reducible apply keeps_settle)
    | (with_reducible apply keeps_swapSlow)

theorem keeps_execStressTestDone {n : Core} {r : TestRating} {margin : Fin 9} {s : State} :
    ∃ t', Sys2Proof.Machine.execStressTestDone (n := n) (r := r) (margin := margin) (s := s) = .next t'.settle ∧ Keeps s t' := by
  unfold Sys2Proof.Machine.execStressTestDone
  try dsimp only
  repeat' first
    | (refine ⟨_, rfl, ?_⟩)
    | (with_reducible exact Keeps.refl _)
    | (with_reducible assumption)
    | (with_reducible apply keeps_settle)
    | (with_reducible apply keeps_testDone)

theorem keeps_execStartupTestDone {k : Cluster} {sigs : List DWord} {s : State} :
    ∃ t', Sys2Proof.Machine.execStartupTestDone (k := k) (sigs := sigs) (s := s) = .next t'.settle ∧ Keeps s t' := by
  unfold Sys2Proof.Machine.execStartupTestDone
  try dsimp only
  repeat' first
    | (refine ⟨_, rfl, ?_⟩)
    | (with_reducible exact Keeps.refl _)
    | (with_reducible assumption)
    | (with_reducible apply keeps_settle)
    | (with_reducible apply keeps_startupDone)

theorem keeps_execFenceRecordsWritten {n : Core} {s : State} :
    ∃ t', Sys2Proof.Machine.execFenceRecordsWritten (n := n) (s := s) = .next t'.settle ∧ Keeps s t' := by
  unfold Sys2Proof.Machine.execFenceRecordsWritten
  try dsimp only
  repeat' first
    | (refine ⟨_, rfl, ?_⟩)
    | (with_reducible exact Keeps.refl _)
    | (with_reducible assumption)
    | (with_reducible apply keeps_settle)
    | (with_reducible apply keeps_fenceRecords)

theorem keeps_execHistoryCommit {written : Bool} {s : State} :
    ∃ t', Sys2Proof.Machine.execHistoryCommit (written := written) (s := s) = .next t'.settle ∧ Keeps s t' := by
  unfold Sys2Proof.Machine.execHistoryCommit
  try dsimp only
  repeat' first
    | (refine ⟨_, rfl, ?_⟩)
    | (with_reducible exact Keeps.refl _)
    | (with_reducible assumption)
    | (with_reducible apply keeps_settle)
    | (with_reducible apply keeps_histCommit)

theorem keeps_execHistoryHalving {s : State} :
    ∃ t', Sys2Proof.Machine.execHistoryHalving (s := s) = .next t'.settle ∧ Keeps s t' := by
  unfold Sys2Proof.Machine.execHistoryHalving
  try dsimp only
  repeat' first
    | (refine ⟨_, rfl, ?_⟩)
    | (with_reducible exact Keeps.refl _)
    | (with_reducible assumption)
    | (with_reducible apply keeps_histHalve)

theorem keeps_execPartitionStartDone {p : Partition} {s : State} :
    ∃ t', Sys2Proof.Machine.execPartitionStartDone (p := p) (s := s) = .next t'.settle ∧ Keeps s t' := by
  unfold Sys2Proof.Machine.execPartitionStartDone
  try dsimp only
  repeat' first
    | (refine ⟨_, rfl, ?_⟩)
    | (with_reducible exact Keeps.refl _)
    | (with_reducible assumption)
    | (with_reducible apply keeps_settle)
    | (with_reducible apply keeps_partStarted)

theorem keeps_execRevokeDrained {p : Partition} {s : State} :
    ∃ t', Sys2Proof.Machine.execRevokeDrained (p := p) (s := s) = .next t'.settle ∧ Keeps s t' := by
  unfold Sys2Proof.Machine.execRevokeDrained
  try dsimp only
  repeat' first
    | (refine ⟨_, rfl, ?_⟩)
    | (with_reducible exact Keeps.refl _)
    | (with_reducible assumption)
    | (with_reducible apply keeps_settle)
    | (with_reducible apply keeps_revokeDrained)
    | (with_reducible apply keeps_unlockCheck)
    | (with_reducible apply keeps_mboxDrain)

theorem keeps_execKeySweepUnit {d : Die} {k : KeyId} {ecc : Upset} {s : State} :
    ∃ t', Sys2Proof.Machine.execKeySweepUnit (d := d) (k := k) (ecc := ecc) (s := s) = .next t'.settle ∧ Keeps s t' := by
  unfold Sys2Proof.Machine.execKeySweepUnit
  try dsimp only
  repeat' first
    | (refine ⟨_, rfl, ?_⟩)
    | (with_reducible exact Keeps.refl _)
    | (with_reducible assumption)
    | (with_reducible apply keeps_settle)
    | (with_reducible apply keeps_keySweep)

theorem keeps_execSpdmRequest {t : Transport} {body : List Byte} {s : State} :
    ∃ t', Sys2Proof.Machine.execSpdmRequest (t := t) (body := body) (s := s) = .next t'.settle ∧ Keeps s t' := by
  unfold Sys2Proof.Machine.execSpdmRequest
  try dsimp only
  repeat' first
    | (refine ⟨_, rfl, ?_⟩)
    | (with_reducible exact Keeps.refl _)
    | (with_reducible assumption)
    | (with_reducible apply keeps_settle)
    | (with_reducible apply keeps_attest)

theorem keeps_execPqSign {t : Transport} {body : List Byte} {s : State} :
    ∃ t', Sys2Proof.Machine.execPqSign (t := t) (body := body) (s := s) = .next t'.settle ∧ Keeps s t' := by
  unfold Sys2Proof.Machine.execPqSign
  try dsimp only
  repeat' first
    | (refine ⟨_, rfl, ?_⟩)
    | (with_reducible exact Keeps.refl _)
    | (with_reducible assumption)
    | (with_reducible apply keeps_settle)
    | (with_reducible apply keeps_attest)

theorem keeps_execImageApplied {s : State} :
    ∃ t', Sys2Proof.Machine.execImageApplied (s := s) = .next t'.settle ∧ Keeps s t' := by
  unfold Sys2Proof.Machine.execImageApplied
  try dsimp only
  repeat' first
    | (refine ⟨_, rfl, ?_⟩)
    | (with_reducible exact Keeps.refl _)
    | (with_reducible assumption)
    | (with_reducible apply keeps_settle)
    | (with_reducible apply keeps_imageApplied)

theorem keeps_execTopNodeIdWrite {p : Path} {data : Word} {s : State} :
    ∃ t', Sys2Proof.Machine.execTopNodeIdWrite (p := p) (data := data) (s := s) = .next t'.settle ∧ Keeps s t' := by
  unfold Sys2Proof.Machine.execTopNodeIdWrite
  try dsimp only
  repeat' first
    | (refine ⟨_, rfl, ?_⟩)
    | (with_reducible exact Keeps.refl _)
    | (with_reducible assumption)
    | (with_reducible apply keeps_settle)
    | (with_reducible apply keeps_regWrite)

theorem keeps_execExtentCreate {p : Path} {data : DWord} {s : State} :
    ∃ t', Sys2Proof.Machine.execExtentCreate (p := p) (data := data) (s := s) = .next t'.settle ∧ Keeps s t' := by
  unfold Sys2Proof.Machine.execExtentCreate
  try dsimp only
  repeat' first
    | (refine ⟨_, rfl, ?_⟩)
    | (with_reducible exact Keeps.refl _)
    | (with_reducible assumption)
    | (with_reducible apply keeps_settle)
    | (with_reducible apply keeps_extRow)

theorem keeps_execSetRights {p : Path} {data : DWord} {s : State} :
    ∃ t', Sys2Proof.Machine.execSetRights (p := p) (data := data) (s := s) = .next t'.settle ∧ Keeps s t' := by
  unfold Sys2Proof.Machine.execSetRights
  try dsimp only
  repeat' first
    | (refine ⟨_, rfl, ?_⟩)
    | (with_reducible exact Keeps.refl _)
    | (with_reducible assumption)
    | (with_reducible apply keeps_settle)
    | (with_reducible apply keeps_extRow)

theorem keeps_execWithdraw {p : Path} {data : DWord} {s : State} :
    ∃ t', Sys2Proof.Machine.execWithdraw (p := p) (data := data) (s := s) = .next t'.settle ∧ Keeps s t' := by
  unfold Sys2Proof.Machine.execWithdraw
  try dsimp only
  repeat' first
    | (refine ⟨_, rfl, ?_⟩)
    | (with_reducible exact Keeps.refl _)
    | (with_reducible assumption)
    | (with_reducible apply keeps_settle)
    | (with_reducible apply keeps_extRow)

theorem keeps_execGrpMatchWrite {p : Path} {m : Fin 1024} {hi : Bool} {data : Word} {s : State} :
    ∃ t', Sys2Proof.Machine.execGrpMatchWrite (p := p) (m := m) (hi := hi) (data := data) (s := s) = .next t'.settle ∧ Keeps s t' := by
  unfold Sys2Proof.Machine.execGrpMatchWrite
  try dsimp only
  repeat' first
    | (refine ⟨_, rfl, ?_⟩)
    | (with_reducible exact Keeps.refl _)
    | (with_reducible assumption)
    | (with_reducible apply keeps_settle)
    | (with_reducible apply keeps_regWrite)

theorem keeps_execBind {p : Path} {o : Slot} {data : Word} {s : State} :
    ∃ t', Sys2Proof.Machine.execBind (p := p) (o := o) (data := data) (s := s) = .next t'.settle ∧ Keeps s t' := by
  unfold Sys2Proof.Machine.execBind
  try dsimp only
  repeat' first
    | (refine ⟨_, rfl, ?_⟩)
    | (with_reducible exact Keeps.refl _)
    | (with_reducible assumption)
    | (with_reducible apply keeps_settle)
    | (with_reducible apply keeps_slotRow)

theorem keeps_execRelease {p : Path} {o : Slot} {data : Word} {s : State} :
    ∃ t', Sys2Proof.Machine.execRelease (p := p) (o := o) (data := data) (s := s) = .next t'.settle ∧ Keeps s t' := by
  unfold Sys2Proof.Machine.execRelease
  try dsimp only
  repeat' first
    | (refine ⟨_, rfl, ?_⟩)
    | (with_reducible exact Keeps.refl _)
    | (with_reducible assumption)
    | (with_reducible apply keeps_settle)
    | (with_reducible apply keeps_slotRow)

theorem keeps_execDeclareDead {p : Path} {o : Slot} {data : Word} {s : State} :
    ∃ t', Sys2Proof.Machine.execDeclareDead (p := p) (o := o) (data := data) (s := s) = .next t'.settle ∧ Keeps s t' := by
  unfold Sys2Proof.Machine.execDeclareDead
  try dsimp only
  repeat' first
    | (refine ⟨_, rfl, ?_⟩)
    | (with_reducible exact Keeps.refl _)
    | (with_reducible assumption)
    | (with_reducible apply keeps_settle)
    | (with_reducible apply keeps_slotRow)

theorem keeps_execMscFlush {p : Path} {d : Die} {data : Word} {s : State} :
    ∃ t', Sys2Proof.Machine.execMscFlush (p := p) (d := d) (data := data) (s := s) = .next t'.settle ∧ Keeps s t' := by
  unfold Sys2Proof.Machine.execMscFlush
  try dsimp only
  repeat' first
    | (refine ⟨_, rfl, ?_⟩)
    | (with_reducible exact Keeps.refl _)
    | (with_reducible assumption)
    | (with_reducible apply keeps_settle)
    | (with_reducible apply keeps_regWrite)

theorem keeps_execHotqHeadWrite {p : Path} {d : Die} {data : Word} {s : State} :
    ∃ t', Sys2Proof.Machine.execHotqHeadWrite (p := p) (d := d) (data := data) (s := s) = .next t'.settle ∧ Keeps s t' := by
  unfold Sys2Proof.Machine.execHotqHeadWrite
  try dsimp only
  repeat' first
    | (refine ⟨_, rfl, ?_⟩)
    | (with_reducible exact Keeps.refl _)
    | (with_reducible assumption)
    | (with_reducible apply keeps_settle)
    | (with_reducible apply keeps_regWrite)

theorem keeps_execMigReserveWrite {p : Path} {d : Die} {data : Word} {s : State} :
    ∃ t', Sys2Proof.Machine.execMigReserveWrite (p := p) (d := d) (data := data) (s := s) = .next t'.settle ∧ Keeps s t' := by
  unfold Sys2Proof.Machine.execMigReserveWrite
  try dsimp only
  repeat' first
    | (refine ⟨_, rfl, ?_⟩)
    | (with_reducible exact Keeps.refl _)
    | (with_reducible assumption)
    | (with_reducible apply keeps_settle)
    | (with_reducible apply keeps_regWrite)

theorem keeps_execPromote {p : Path} {d : Die} {data : DWord} {s : State} :
    ∃ t', Sys2Proof.Machine.execPromote (p := p) (d := d) (data := data) (s := s) = .next t'.settle ∧ Keeps s t' := by
  unfold Sys2Proof.Machine.execPromote
  try dsimp only
  repeat' first
    | (refine ⟨_, rfl, ?_⟩)
    | (with_reducible exact Keeps.refl _)
    | (with_reducible assumption)
    | (with_reducible apply keeps_settle)
    | (with_reducible apply keeps_migRow)

theorem keeps_execDemote {p : Path} {d : Die} {data : DWord} {s : State} :
    ∃ t', Sys2Proof.Machine.execDemote (p := p) (d := d) (data := data) (s := s) = .next t'.settle ∧ Keeps s t' := by
  unfold Sys2Proof.Machine.execDemote
  try dsimp only
  repeat' first
    | (refine ⟨_, rfl, ?_⟩)
    | (with_reducible exact Keeps.refl _)
    | (with_reducible assumption)
    | (with_reducible apply keeps_settle)
    | (with_reducible apply keeps_migRow)

theorem keeps_execDmcCtrlWrite {p : Path} {c : Channel} {data : Word} {s : State} :
    ∃ t', Sys2Proof.Machine.execDmcCtrlWrite (p := p) (c := c) (data := data) (s := s) = .next t'.settle ∧ Keeps s t' := by
  unfold Sys2Proof.Machine.execDmcCtrlWrite
  try dsimp only
  repeat' first
    | (refine ⟨_, rfl, ?_⟩)
    | (with_reducible exact Keeps.refl _)
    | (with_reducible assumption)
    | (with_reducible apply keeps_settle)
    | (with_reducible apply keeps_regWrite)

theorem keeps_execTxnKill {p : Path} {data : Word} {s : State} :
    ∃ t', Sys2Proof.Machine.execTxnKill (p := p) (data := data) (s := s) = .next t'.settle ∧ Keeps s t' := by
  unfold Sys2Proof.Machine.execTxnKill
  try dsimp only
  repeat' first
    | (refine ⟨_, rfl, ?_⟩)
    | (with_reducible exact Keeps.refl _)
    | (with_reducible assumption)
    | (with_reducible apply keeps_settle)
    | (with_reducible apply keeps_regWrite)

theorem keeps_execEngFmtSubmit {p : Path} {i : Fin 64} {data : Word} {s : State} :
    ∃ t', Sys2Proof.Machine.execEngFmtSubmit (p := p) (i := i) (data := data) (s := s) = .next t'.settle ∧ Keeps s t' := by
  unfold Sys2Proof.Machine.execEngFmtSubmit
  try dsimp only
  repeat' first
    | (refine ⟨_, rfl, ?_⟩)
    | (with_reducible exact Keeps.refl _)
    | (with_reducible assumption)
    | (with_reducible apply keeps_settle)
    | (with_reducible apply keeps_regWrite)

theorem keeps_execLoad {p : Path} {data : Word} {s : State} :
    ∃ t', Sys2Proof.Machine.execLoad (p := p) (data := data) (s := s) = .next t'.settle ∧ Keeps s t' := by
  unfold Sys2Proof.Machine.execLoad
  try dsimp only
  repeat' first
    | (refine ⟨_, rfl, ?_⟩)
    | (with_reducible exact Keeps.refl _)
    | (with_reducible assumption)
    | (with_reducible apply keeps_settle)
    | (with_reducible apply keeps_regWrite)

theorem keeps_execUnload {p : Path} {data : Word} {s : State} :
    ∃ t', Sys2Proof.Machine.execUnload (p := p) (data := data) (s := s) = .next t'.settle ∧ Keeps s t' := by
  unfold Sys2Proof.Machine.execUnload
  try dsimp only
  repeat' first
    | (refine ⟨_, rfl, ?_⟩)
    | (with_reducible exact Keeps.refl _)
    | (with_reducible assumption)
    | (with_reducible apply keeps_settle)
    | (with_reducible apply keeps_regWrite)

theorem keeps_execCluQcfgWrite {p : Path} {q : HostQueue} {hi : Bool} {data : Word} {s : State} :
    ∃ t', Sys2Proof.Machine.execCluQcfgWrite (p := p) (q := q) (hi := hi) (data := data) (s := s) = .next t'.settle ∧ Keeps s t' := by
  unfold Sys2Proof.Machine.execCluQcfgWrite
  try dsimp only
  repeat' first
    | (refine ⟨_, rfl, ?_⟩)
    | (with_reducible exact Keeps.refl _)
    | (with_reducible assumption)
    | (with_reducible apply keeps_settle)
    | (with_reducible apply keeps_regWrite)

theorem keeps_execTaskQueueRing {p : Path} {q : HostQueue} {data : Word} {s : State} :
    ∃ t', Sys2Proof.Machine.execTaskQueueRing (p := p) (q := q) (data := data) (s := s) = .next t'.settle ∧ Keeps s t' := by
  unfold Sys2Proof.Machine.execTaskQueueRing
  try dsimp only
  repeat' first
    | (refine ⟨_, rfl, ?_⟩)
    | (with_reducible exact Keeps.refl _)
    | (with_reducible assumption)
    | (with_reducible apply keeps_settle)
    | (with_reducible apply keeps_ringWrite)

theorem keeps_execTaskQueueCheadWrite {p : Path} {q : HostQueue} {data : Word} {s : State} :
    ∃ t', Sys2Proof.Machine.execTaskQueueCheadWrite (p := p) (q := q) (data := data) (s := s) = .next t'.settle ∧ Keeps s t' := by
  unfold Sys2Proof.Machine.execTaskQueueCheadWrite
  try dsimp only
  repeat' first
    | (refine ⟨_, rfl, ?_⟩)
    | (with_reducible exact Keeps.refl _)
    | (with_reducible assumption)
    | (with_reducible apply keeps_settle)
    | (with_reducible apply keeps_ringWrite)

theorem keeps_execPtuAsWrite {p : Path} {a : Fin 1024} {hi : Bool} {data : Word} {s : State} :
    ∃ t', Sys2Proof.Machine.execPtuAsWrite (p := p) (a := a) (hi := hi) (data := data) (s := s) = .next t'.settle ∧ Keeps s t' := by
  unfold Sys2Proof.Machine.execPtuAsWrite
  try dsimp only
  repeat' first
    | (refine ⟨_, rfl, ?_⟩)
    | (with_reducible exact Keeps.refl _)
    | (with_reducible assumption)
    | (with_reducible apply keeps_settle)
    | (with_reducible apply keeps_regWrite)

theorem keeps_execCluSaveWrite {p : Path} {pt : Partition} {data : Word} {s : State} :
    ∃ t', Sys2Proof.Machine.execCluSaveWrite (p := p) (pt := pt) (data := data) (s := s) = .next t'.settle ∧ Keeps s t' := by
  unfold Sys2Proof.Machine.execCluSaveWrite
  try dsimp only
  repeat' first
    | (refine ⟨_, rfl, ?_⟩)
    | (with_reducible exact Keeps.refl _)
    | (with_reducible assumption)
    | (with_reducible apply keeps_settle)
    | (with_reducible apply keeps_regWrite)

theorem keeps_execArm {p : Path} {data : Word} {s : State} :
    ∃ t', Sys2Proof.Machine.execArm (p := p) (data := data) (s := s) = .next t'.settle ∧ Keeps s t' := by
  unfold Sys2Proof.Machine.execArm
  try dsimp only
  repeat' first
    | (refine ⟨_, rfl, ?_⟩)
    | (with_reducible exact Keeps.refl _)
    | (with_reducible assumption)
    | (with_reducible apply keeps_settle)
    | (with_reducible apply keeps_regWrite)

theorem keeps_execDisarm {p : Path} {data : Word} {s : State} :
    ∃ t', Sys2Proof.Machine.execDisarm (p := p) (data := data) (s := s) = .next t'.settle ∧ Keeps s t' := by
  unfold Sys2Proof.Machine.execDisarm
  try dsimp only
  repeat' first
    | (refine ⟨_, rfl, ?_⟩)
    | (with_reducible exact Keeps.refl _)
    | (with_reducible assumption)
    | (with_reducible apply keeps_settle)
    | (with_reducible apply keeps_regWrite)

theorem keeps_execAbort {p : Path} {data : Word} {s : State} :
    ∃ t', Sys2Proof.Machine.execAbort (p := p) (data := data) (s := s) = .next t'.settle ∧ Keeps s t' := by
  unfold Sys2Proof.Machine.execAbort
  try dsimp only
  repeat' first
    | (refine ⟨_, rfl, ?_⟩)
    | (with_reducible exact Keeps.refl _)
    | (with_reducible assumption)
    | (with_reducible apply keeps_settle)
    | (with_reducible apply keeps_regWrite)

theorem keeps_execColKill {p : Path} {data : Word} {s : State} :
    ∃ t', Sys2Proof.Machine.execColKill (p := p) (data := data) (s := s) = .next t'.settle ∧ Keeps s t' := by
  unfold Sys2Proof.Machine.execColKill
  try dsimp only
  repeat' first
    | (refine ⟨_, rfl, ?_⟩)
    | (with_reducible exact Keeps.refl _)
    | (with_reducible assumption)
    | (with_reducible apply keeps_settle)
    | (with_reducible apply keeps_regWrite)

theorem keeps_execPurge {p : Path} {n : Port} {data : Word} {s : State} :
    ∃ t', Sys2Proof.Machine.execPurge (p := p) (n := n) (data := data) (s := s) = .next t'.settle ∧ Keeps s t' := by
  unfold Sys2Proof.Machine.execPurge
  try dsimp only
  repeat' first
    | (refine ⟨_, rfl, ?_⟩)
    | (with_reducible exact Keeps.refl _)
    | (with_reducible assumption)
    | (with_reducible apply keeps_settle)
    | (with_reducible apply keeps_regWrite)

theorem keeps_execXfrQptrTailWrite {p : Path} {q : CopyQueue} {data : Word} {s : State} :
    ∃ t', Sys2Proof.Machine.execXfrQptrTailWrite (p := p) (q := q) (data := data) (s := s) = .next t'.settle ∧ Keeps s t' := by
  unfold Sys2Proof.Machine.execXfrQptrTailWrite
  try dsimp only
  repeat' first
    | (refine ⟨_, rfl, ?_⟩)
    | (with_reducible exact Keeps.refl _)
    | (with_reducible assumption)
    | (with_reducible apply keeps_settle)
    | (with_reducible apply keeps_ringWrite)

theorem keeps_execCopyQueueCheadWrite {p : Path} {q : CopyQueue} {data : Word} {s : State} :
    ∃ t', Sys2Proof.Machine.execCopyQueueCheadWrite (p := p) (q := q) (data := data) (s := s) = .next t'.settle ∧ Keeps s t' := by
  unfold Sys2Proof.Machine.execCopyQueueCheadWrite
  try dsimp only
  repeat' first
    | (refine ⟨_, rfl, ?_⟩)
    | (with_reducible exact Keeps.refl _)
    | (with_reducible assumption)
    | (with_reducible apply keeps_settle)
    | (with_reducible apply keeps_ringWrite)

theorem keeps_execXfrQcfgWrite {p : Path} {q : CopyQueue} {hi : Bool} {data : Word} {s : State} :
    ∃ t', Sys2Proof.Machine.execXfrQcfgWrite (p := p) (q := q) (hi := hi) (data := data) (s := s) = .next t'.settle ∧ Keeps s t' := by
  unfold Sys2Proof.Machine.execXfrQcfgWrite
  try dsimp only
  repeat' first
    | (refine ⟨_, rfl, ?_⟩)
    | (with_reducible exact Keeps.refl _)
    | (with_reducible assumption)
    | (with_reducible apply keeps_settle)
    | (with_reducible apply keeps_regWrite)

theorem keeps_execQueueAbort {p : Path} {data : Word} {s : State} :
    ∃ t', Sys2Proof.Machine.execQueueAbort (p := p) (data := data) (s := s) = .next t'.settle ∧ Keeps s t' := by
  unfold Sys2Proof.Machine.execQueueAbort
  try dsimp only
  repeat' first
    | (refine ⟨_, rfl, ?_⟩)
    | (with_reducible exact Keeps.refl _)
    | (with_reducible assumption)
    | (with_reducible apply keeps_settle)
    | (with_reducible apply keeps_regWrite)

theorem keeps_execMgtRd {n : Port} {q : Packet} {s : State} :
    ∃ t', Sys2Proof.Machine.execMgtRd (n := n) (q := q) (s := s) = .next t'.settle ∧ Keeps s t' := by
  unfold Sys2Proof.Machine.execMgtRd
  try dsimp only
  repeat' first
    | (refine ⟨_, rfl, ?_⟩)
    | (with_reducible exact Keeps.refl _)
    | (with_reducible assumption)
    | (with_reducible apply keeps_settle)
    | (with_reducible apply keeps_mgtAccess)

theorem keeps_execMgtWr {n : Port} {q : Packet} {s : State} :
    ∃ t', Sys2Proof.Machine.execMgtWr (n := n) (q := q) (s := s) = .next t'.settle ∧ Keeps s t' := by
  unfold Sys2Proof.Machine.execMgtWr
  try dsimp only
  repeat' first
    | (refine ⟨_, rfl, ?_⟩)
    | (with_reducible exact Keeps.refl _)
    | (with_reducible assumption)
    | (with_reducible apply keeps_settle)
    | (with_reducible apply keeps_mgtAccess)

theorem keeps_execRteRouteWrite {p : Path} {b : Bool} {n : BitVec 12} {data : Word} {s : State} :
    ∃ t', Sys2Proof.Machine.execRteRouteWrite (p := p) (b := b) (n := n) (data := data) (s := s) = .next t'.settle ∧ Keeps s t' := by
  unfold Sys2Proof.Machine.execRteRouteWrite
  try dsimp only
  repeat' first
    | (refine ⟨_, rfl, ?_⟩)
    | (with_reducible exact Keeps.refl _)
    | (with_reducible assumption)
    | (with_reducible apply keeps_settle)
    | (with_reducible apply keeps_regWrite)

theorem keeps_execLinkEnable {p : Path} {n : Port} {data : Word} {s : State} :
    ∃ t', Sys2Proof.Machine.execLinkEnable (p := p) (n := n) (data := data) (s := s) = .next t'.settle ∧ Keeps s t' := by
  unfold Sys2Proof.Machine.execLinkEnable
  try dsimp only
  repeat' first
    | (refine ⟨_, rfl, ?_⟩)
    | (with_reducible exact Keeps.refl _)
    | (with_reducible assumption)
    | (with_reducible apply keeps_settle)
    | (with_reducible apply keeps_regWrite)

theorem keeps_execLinkDisable {p : Path} {n : Port} {data : Word} {s : State} :
    ∃ t', Sys2Proof.Machine.execLinkDisable (p := p) (n := n) (data := data) (s := s) = .next t'.settle ∧ Keeps s t' := by
  unfold Sys2Proof.Machine.execLinkDisable
  try dsimp only
  repeat' first
    | (refine ⟨_, rfl, ?_⟩)
    | (with_reducible exact Keeps.refl _)
    | (with_reducible assumption)
    | (with_reducible apply keeps_settle)
    | (with_reducible apply keeps_regWrite)

theorem keeps_execLinkRetrainCmd {p : Path} {n : Port} {data : Word} {s : State} :
    ∃ t', Sys2Proof.Machine.execLinkRetrainCmd (p := p) (n := n) (data := data) (s := s) = .next t'.settle ∧ Keeps s t' := by
  unfold Sys2Proof.Machine.execLinkRetrainCmd
  try dsimp only
  repeat' first
    | (refine ⟨_, rfl, ?_⟩)
    | (with_reducible exact Keeps.refl _)
    | (with_reducible assumption)
    | (with_reducible apply keeps_settle)
    | (with_reducible apply keeps_regWrite)

theorem keeps_execUnretire {p : Path} {n : Port} {data : Word} {s : State} :
    ∃ t', Sys2Proof.Machine.execUnretire (p := p) (n := n) (data := data) (s := s) = .next t'.settle ∧ Keeps s t' := by
  unfold Sys2Proof.Machine.execUnretire
  try dsimp only
  repeat' first
    | (refine ⟨_, rfl, ?_⟩)
    | (with_reducible exact Keeps.refl _)
    | (with_reducible assumption)
    | (with_reducible apply keeps_settle)
    | (with_reducible apply keeps_regWrite)

theorem keeps_execLanTestWrite {p : Path} {n : Port} {l : Lane} {data : Word} {s : State} :
    ∃ t', Sys2Proof.Machine.execLanTestWrite (p := p) (n := n) (l := l) (data := data) (s := s) = .next t'.settle ∧ Keeps s t' := by
  unfold Sys2Proof.Machine.execLanTestWrite
  try dsimp only
  repeat' first
    | (refine ⟨_, rfl, ?_⟩)
    | (with_reducible exact Keeps.refl _)
    | (with_reducible assumption)
    | (with_reducible apply keeps_settle)
    | (with_reducible apply keeps_regWrite)

theorem keeps_execEyeMarginGo {p : Path} {n : Port} {l : Lane} {data : Word} {s : State} :
    ∃ t', Sys2Proof.Machine.execEyeMarginGo (p := p) (n := n) (l := l) (data := data) (s := s) = .next t'.settle ∧ Keeps s t' := by
  unfold Sys2Proof.Machine.execEyeMarginGo
  try dsimp only
  repeat' first
    | (refine ⟨_, rfl, ?_⟩)
    | (with_reducible exact Keeps.refl _)
    | (with_reducible assumption)
    | (with_reducible apply keeps_settle)
    | (with_reducible apply keeps_regWrite)

theorem keeps_execQosLeashWrite {p : Path} {t : LeashSel} {hi : Bool} {data : Word} {s : State} :
    ∃ t', Sys2Proof.Machine.execQosLeashWrite (p := p) (t := t) (hi := hi) (data := data) (s := s) = .next t'.settle ∧ Keeps s t' := by
  unfold Sys2Proof.Machine.execQosLeashWrite
  try dsimp only
  repeat' first
    | (refine ⟨_, rfl, ?_⟩)
    | (with_reducible exact Keeps.refl _)
    | (with_reducible assumption)
    | (with_reducible apply keeps_settle)
    | (with_reducible apply keeps_regWrite)
    | split

theorem keeps_execCurtainRequest {p : Path} {data : Word} {s : State} :
    ∃ t', Sys2Proof.Machine.execCurtainRequest (p := p) (data := data) (s := s) = .next t'.settle ∧ Keeps s t' := by
  unfold Sys2Proof.Machine.execCurtainRequest
  try dsimp only
  repeat' first
    | (refine ⟨_, rfl, ?_⟩)
    | (with_reducible exact Keeps.refl _)
    | (with_reducible assumption)
    | (with_reducible apply keeps_settle)
    | (with_reducible apply keeps_regWrite)

theorem keeps_execAdvanceSvn {v : Via} {body : List Byte} {s : State} :
    ∃ t', Sys2Proof.Machine.execAdvanceSvn (v := v) (body := body) (s := s) = .next t'.settle ∧ Keeps s t' := by
  unfold Sys2Proof.Machine.execAdvanceSvn
  try dsimp only
  repeat' first
    | (refine ⟨_, rfl, ?_⟩)
    | (with_reducible exact Keeps.refl _)
    | (with_reducible assumption)
    | (with_reducible apply keeps_settle)
    | (with_reducible apply keeps_mboxRow)

theorem keeps_execDebugChallenge {v : Via} {body : List Byte} {s : State} :
    ∃ t', Sys2Proof.Machine.execDebugChallenge (v := v) (body := body) (s := s) = .next t'.settle ∧ Keeps s t' := by
  unfold Sys2Proof.Machine.execDebugChallenge
  try dsimp only
  repeat' first
    | (refine ⟨_, rfl, ?_⟩)
    | (with_reducible exact Keeps.refl _)
    | (with_reducible assumption)
    | (with_reducible apply keeps_settle)
    | (with_reducible apply keeps_mboxRow)

theorem keeps_execDebugUnlock {v : Via} {body : List Byte} {s : State} :
    ∃ t', Sys2Proof.Machine.execDebugUnlock (v := v) (body := body) (s := s) = .next t'.settle ∧ Keeps s t' := by
  unfold Sys2Proof.Machine.execDebugUnlock
  try dsimp only
  repeat' first
    | (refine ⟨_, rfl, ?_⟩)
    | (with_reducible exact Keeps.refl _)
    | (with_reducible assumption)
    | (with_reducible apply keeps_settle)
    | (with_reducible apply keeps_mboxRow)

theorem keeps_execBindFlash {v : Via} {body : List Byte} {s : State} :
    ∃ t', Sys2Proof.Machine.execBindFlash (v := v) (body := body) (s := s) = .next t'.settle ∧ Keeps s t' := by
  unfold Sys2Proof.Machine.execBindFlash
  try dsimp only
  repeat' first
    | (refine ⟨_, rfl, ?_⟩)
    | (with_reducible exact Keeps.refl _)
    | (with_reducible assumption)
    | (with_reducible apply keeps_settle)
    | (with_reducible apply keeps_mboxRow)

theorem keeps_execFlashRead {v : Via} {body : List Byte} {s : State} :
    ∃ t', Sys2Proof.Machine.execFlashRead (v := v) (body := body) (s := s) = .next t'.settle ∧ Keeps s t' := by
  unfold Sys2Proof.Machine.execFlashRead
  try dsimp only
  repeat' first
    | (refine ⟨_, rfl, ?_⟩)
    | (with_reducible exact Keeps.refl _)
    | (with_reducible assumption)
    | (with_reducible apply keeps_settle)
    | (with_reducible apply keeps_mboxRow)

theorem keeps_execFlashWrite {v : Via} {body : List Byte} {s : State} :
    ∃ t', Sys2Proof.Machine.execFlashWrite (v := v) (body := body) (s := s) = .next t'.settle ∧ Keeps s t' := by
  unfold Sys2Proof.Machine.execFlashWrite
  try dsimp only
  repeat' first
    | (refine ⟨_, rfl, ?_⟩)
    | (with_reducible exact Keeps.refl _)
    | (with_reducible assumption)
    | (with_reducible apply keeps_settle)
    | (with_reducible apply keeps_mboxRow)

theorem keeps_execReset {v : Via} {body : List Byte} {s : State} :
    ∃ t', Sys2Proof.Machine.execReset (v := v) (body := body) (s := s) = .next t'.settle ∧ Keeps s t' := by
  unfold Sys2Proof.Machine.execReset
  try dsimp only
  repeat' first
    | (refine ⟨_, rfl, ?_⟩)
    | (with_reducible exact Keeps.refl _)
    | (with_reducible assumption)
    | (with_reducible apply keeps_settle)
    | (with_reducible apply keeps_mboxRow)

theorem keeps_execPartitionCreate {p : Path} {data : Word} {s : State} :
    ∃ t', Sys2Proof.Machine.execPartitionCreate (p := p) (data := data) (s := s) = .next t'.settle ∧ Keeps s t' := by
  unfold Sys2Proof.Machine.execPartitionCreate
  try dsimp only
  repeat' first
    | (refine ⟨_, rfl, ?_⟩)
    | (with_reducible exact Keeps.refl _)
    | (with_reducible assumption)
    | (with_reducible apply keeps_settle)
    | (with_reducible apply keeps_regWrite)

theorem keeps_execRevoke {p : Path} {data : Word} {s : State} :
    ∃ t', Sys2Proof.Machine.execRevoke (p := p) (data := data) (s := s) = .next t'.settle ∧ Keeps s t' := by
  unfold Sys2Proof.Machine.execRevoke
  try dsimp only
  repeat' first
    | (refine ⟨_, rfl, ?_⟩)
    | (with_reducible exact Keeps.refl _)
    | (with_reducible assumption)
    | (with_reducible apply keeps_settle)
    | (with_reducible apply keeps_regWrite)

theorem keeps_execAllocate {p : Path} {data : Word} {s : State} :
    ∃ t', Sys2Proof.Machine.execAllocate (p := p) (data := data) (s := s) = .next t'.settle ∧ Keeps s t' := by
  unfold Sys2Proof.Machine.execAllocate
  try dsimp only
  repeat' first
    | (refine ⟨_, rfl, ?_⟩)
    | (with_reducible exact Keeps.refl _)
    | (with_reducible assumption)
    | (with_reducible apply keeps_settle)
    | (with_reducible apply keeps_regWrite)

theorem keeps_execRotate {p : Path} {data : Word} {s : State} :
    ∃ t', Sys2Proof.Machine.execRotate (p := p) (data := data) (s := s) = .next t'.settle ∧ Keeps s t' := by
  unfold Sys2Proof.Machine.execRotate
  try dsimp only
  repeat' first
    | (refine ⟨_, rfl, ?_⟩)
    | (with_reducible exact Keeps.refl _)
    | (with_reducible assumption)
    | (with_reducible apply keeps_settle)
    | (with_reducible apply keeps_regWrite)

theorem keeps_execDestroy {p : Path} {data : Word} {s : State} :
    ∃ t', Sys2Proof.Machine.execDestroy (p := p) (data := data) (s := s) = .next t'.settle ∧ Keeps s t' := by
  unfold Sys2Proof.Machine.execDestroy
  try dsimp only
  repeat' first
    | (refine ⟨_, rfl, ?_⟩)
    | (with_reducible exact Keeps.refl _)
    | (with_reducible assumption)
    | (with_reducible apply keeps_settle)
    | (with_reducible apply keeps_regWrite)

theorem keeps_execLinkKeySubmit {p : Path} {n : Port} {data : Word} {s : State} :
    ∃ t', Sys2Proof.Machine.execLinkKeySubmit (p := p) (n := n) (data := data) (s := s) = .next t'.settle ∧ Keeps s t' := by
  unfold Sys2Proof.Machine.execLinkKeySubmit
  try dsimp only
  repeat' first
    | (refine ⟨_, rfl, ?_⟩)
    | (with_reducible exact Keeps.refl _)
    | (with_reducible assumption)
    | (with_reducible apply keeps_settle)
    | (with_reducible apply keeps_regWrite)

theorem keeps_execSecCoreMapWrite {p : Path} {k : Cluster} {hi : Bool} {data : Word} {s : State} :
    ∃ t', Sys2Proof.Machine.execSecCoreMapWrite (p := p) (k := k) (hi := hi) (data := data) (s := s) = .next t'.settle ∧ Keeps s t' := by
  unfold Sys2Proof.Machine.execSecCoreMapWrite
  try dsimp only
  repeat' first
    | (refine ⟨_, rfl, ?_⟩)
    | (with_reducible exact Keeps.refl _)
    | (with_reducible assumption)
    | (with_reducible apply keeps_settle)
    | (with_reducible apply keeps_regWrite)

theorem keeps_execSecPortMapWrite {p : Path} {n : Port} {data : Word} {s : State} :
    ∃ t', Sys2Proof.Machine.execSecPortMapWrite (p := p) (n := n) (data := data) (s := s) = .next t'.settle ∧ Keeps s t' := by
  unfold Sys2Proof.Machine.execSecPortMapWrite
  try dsimp only
  repeat' first
    | (refine ⟨_, rfl, ?_⟩)
    | (with_reducible exact Keeps.refl _)
    | (with_reducible assumption)
    | (with_reducible apply keeps_settle)
    | (with_reducible apply keeps_regWrite)

theorem keeps_execSecFnWrite {p : Path} {h : Fin 2} {f : Fin 16} {data : Word} {s : State} :
    ∃ t', Sys2Proof.Machine.execSecFnWrite (p := p) (h := h) (f := f) (data := data) (s := s) = .next t'.settle ∧ Keeps s t' := by
  unfold Sys2Proof.Machine.execSecFnWrite
  try dsimp only
  repeat' first
    | (refine ⟨_, rfl, ?_⟩)
    | (with_reducible exact Keeps.refl _)
    | (with_reducible assumption)
    | (with_reducible apply keeps_settle)
    | (with_reducible apply keeps_fnRow)

theorem keeps_execTest {p : Path} {data : Word} {s : State} :
    ∃ t', Sys2Proof.Machine.execTest (p := p) (data := data) (s := s) = .next t'.settle ∧ Keeps s t' := by
  unfold Sys2Proof.Machine.execTest
  try dsimp only
  repeat' first
    | (refine ⟨_, rfl, ?_⟩)
    | (with_reducible exact Keeps.refl _)
    | (with_reducible assumption)
    | (with_reducible apply keeps_settle)
    | (with_reducible apply keeps_regWrite)

theorem keeps_execFence {p : Path} {data : Word} {s : State} :
    ∃ t', Sys2Proof.Machine.execFence (p := p) (data := data) (s := s) = .next t'.settle ∧ Keeps s t' := by
  unfold Sys2Proof.Machine.execFence
  try dsimp only
  repeat' first
    | (refine ⟨_, rfl, ?_⟩)
    | (with_reducible exact Keeps.refl _)
    | (with_reducible assumption)
    | (with_reducible apply keeps_settle)
    | (with_reducible apply keeps_regWrite)

theorem keeps_execUnfence {p : Path} {data : Word} {s : State} :
    ∃ t', Sys2Proof.Machine.execUnfence (p := p) (data := data) (s := s) = .next t'.settle ∧ Keeps s t' := by
  unfold Sys2Proof.Machine.execUnfence
  try dsimp only
  repeat' first
    | (refine ⟨_, rfl, ?_⟩)
    | (with_reducible exact Keeps.refl _)
    | (with_reducible assumption)
    | (with_reducible apply keeps_settle)
    | (with_reducible apply keeps_regWrite)

theorem keeps_execCrcCommit {p : Path} {d : Die} {data : Word} {s : State} :
    ∃ t', Sys2Proof.Machine.execCrcCommit (p := p) (d := d) (data := data) (s := s) = .next t'.settle ∧ Keeps s t' := by
  unfold Sys2Proof.Machine.execCrcCommit
  try dsimp only
  repeat' first
    | (refine ⟨_, rfl, ?_⟩)
    | (with_reducible exact Keeps.refl _)
    | (with_reducible assumption)
    | (with_reducible apply keeps_settle)
    | (with_reducible apply keeps_regWrite)

theorem keeps_execCrcRefWrite {p : Path} {d : Die} {data : Word} {s : State} :
    ∃ t', Sys2Proof.Machine.execCrcRefWrite (p := p) (d := d) (data := data) (s := s) = .next t'.settle ∧ Keeps s t' := by
  unfold Sys2Proof.Machine.execCrcRefWrite
  try dsimp only
  repeat' first
    | (refine ⟨_, rfl, ?_⟩)
    | (with_reducible exact Keeps.refl _)
    | (with_reducible assumption)
    | (with_reducible apply keeps_settle)
    | (with_reducible apply keeps_regWrite)

theorem keeps_execErrorRecordClear {p : Path} {r : ErrRecord} {data : Word} {s : State} :
    ∃ t', Sys2Proof.Machine.execErrorRecordClear (p := p) (r := r) (data := data) (s := s) = .next t'.settle ∧ Keeps s t' := by
  unfold Sys2Proof.Machine.execErrorRecordClear
  try dsimp only
  repeat' first
    | (refine ⟨_, rfl, ?_⟩)
    | (with_reducible exact Keeps.refl _)
    | (with_reducible assumption)
    | (with_reducible apply keeps_settle)
    | (with_reducible apply keeps_rangeErr)
    | (with_reducible apply keeps_regWrite)

theorem keeps_execRegisterWrite {p : Path} {page : Bool} {off : BitVec 28} {bytes : Nat} {data : DWord} {s : State} :
    ∃ t', Sys2Proof.Machine.execRegisterWrite (p := p) (page := page) (off := off) (bytes := bytes) (data := data) (s := s) = .next t'.settle ∧ Keeps s t' := by
  unfold Sys2Proof.Machine.execRegisterWrite
  try dsimp only
  repeat' first
    | (refine ⟨_, rfl, ?_⟩)
    | (with_reducible exact Keeps.refl _)
    | (with_reducible assumption)
    | (with_reducible apply keeps_settle)
    | (with_reducible apply keeps_busWrite)
    | (with_reducible apply keeps_pageAccess)
    | (with_reducible apply keeps_ite)

theorem keeps_execMaskedWrite {p : Path} {off : BitVec 28} {high : Bool} {bytes : Nat} {data : Word} {s : State} :
    ∃ t', Sys2Proof.Machine.execMaskedWrite (p := p) (off := off) (high := high) (bytes := bytes) (data := data) (s := s) = .next t'.settle ∧ Keeps s t' := by
  unfold Sys2Proof.Machine.execMaskedWrite
  try dsimp only
  repeat' first
    | (refine ⟨_, rfl, ?_⟩)
    | (with_reducible exact Keeps.refl _)
    | (with_reducible assumption)
    | (with_reducible apply keeps_settle)
    | (with_reducible apply keeps_aliasWrite)

theorem keeps_execEvqEnable {p : Path} {e : Fin 17} {data : Word} {s : State} :
    ∃ t', Sys2Proof.Machine.execEvqEnable (p := p) (e := e) (data := data) (s := s) = .next t'.settle ∧ Keeps s t' := by
  unfold Sys2Proof.Machine.execEvqEnable
  try dsimp only
  repeat' first
    | (refine ⟨_, rfl, ?_⟩)
    | (with_reducible exact Keeps.refl _)
    | (with_reducible assumption)
    | (with_reducible apply keeps_settle)
    | (with_reducible apply keeps_regWrite)

theorem keeps_execEvqHeadWrite {p : Path} {e : Fin 17} {data : Word} {s : State} :
    ∃ t', Sys2Proof.Machine.execEvqHeadWrite (p := p) (e := e) (data := data) (s := s) = .next t'.settle ∧ Keeps s t' := by
  unfold Sys2Proof.Machine.execEvqHeadWrite
  try dsimp only
  repeat' first
    | (refine ⟨_, rfl, ?_⟩)
    | (with_reducible exact Keeps.refl _)
    | (with_reducible assumption)
    | (with_reducible apply keeps_settle)
    | (with_reducible apply keeps_evqHeadRow)

theorem keeps_execWarm {p : Path} {data : Word} {s : State} :
    ∃ t', Sys2Proof.Machine.execWarm (p := p) (data := data) (s := s) = .next t'.settle ∧ Keeps s t' := by
  unfold Sys2Proof.Machine.execWarm
  try dsimp only
  repeat' first
    | (refine ⟨_, rfl, ?_⟩)
    | (with_reducible exact Keeps.refl _)
    | (with_reducible assumption)
    | (with_reducible apply keeps_settle)
    | (with_reducible apply keeps_regWrite)

theorem keeps_execCold {p : Path} {data : Word} {s : State} :
    ∃ t', Sys2Proof.Machine.execCold (p := p) (data := data) (s := s) = .next t'.settle ∧ Keeps s t' := by
  unfold Sys2Proof.Machine.execCold
  try dsimp only
  repeat' first
    | (refine ⟨_, rfl, ?_⟩)
    | (with_reducible exact Keeps.refl _)
    | (with_reducible assumption)
    | (with_reducible apply keeps_settle)
    | (with_reducible apply keeps_regWrite)

theorem keeps_execOff {p : Path} {data : Word} {s : State} :
    ∃ t', Sys2Proof.Machine.execOff (p := p) (data := data) (s := s) = .next t'.settle ∧ Keeps s t' := by
  unfold Sys2Proof.Machine.execOff
  try dsimp only
  repeat' first
    | (refine ⟨_, rfl, ?_⟩)
    | (with_reducible exact Keeps.refl _)
    | (with_reducible assumption)
    | (with_reducible apply keeps_settle)
    | (with_reducible apply keeps_regWrite)

theorem keeps_execForceOff {p : Path} {data : Word} {s : State} :
    ∃ t', Sys2Proof.Machine.execForceOff (p := p) (data := data) (s := s) = .next t'.settle ∧ Keeps s t' := by
  unfold Sys2Proof.Machine.execForceOff
  try dsimp only
  repeat' first
    | (refine ⟨_, rfl, ?_⟩)
    | (with_reducible exact Keeps.refl _)
    | (with_reducible assumption)
    | (with_reducible apply keeps_settle)
    | (with_reducible apply keeps_regWrite)

end Sys2Proof.Machine.State
end

