-- ==== Sys2Proof/Laws/State.lean ====
section
/-! SUPPORT. One lemma for each field of State under each of its updates, the laws of register fields, and the settled state. -/

namespace Sys2Proof.Machine.State

variable {s : State}

/-! ### Bits of a register -/

theorem bits_eq (v : BitVec 128) (lo w : Nat) : bits v lo w = (v.extractLsb' lo w).toNat := by
  simp [bits, BitVec.extractLsb'_toNat, Nat.shiftRight_eq_div_pow]

theorem bits_lt (v : BitVec 128) (lo w : Nat) : bits v lo w < 2 ^ w := Nat.mod_lt _ (Nat.two_pow_pos w)

/-- Below, inside and above the bits replaced. -/
theorem setBits_toNat (v : BitVec 128) {lo w : Nat} (x : Nat) (h : lo + w ≤ 128) :
    (setBits v lo w x).toNat = v.toNat % 2 ^ lo + x % 2 ^ w * 2 ^ lo + v.toNat / 2 ^ (lo + w) * 2 ^ (lo + w) := by
  have hv := v.isLt
  have e1 := Nat.div_add_mod v.toNat (2 ^ lo)
  have e2 := Nat.div_add_mod (v.toNat / 2 ^ lo) (2 ^ w)
  have e3 : v.toNat / 2 ^ lo / 2 ^ w = v.toNat / 2 ^ (lo + w) := by rw [Nat.div_div_eq_div_mul, Nat.pow_add]
  have e4 : v.toNat = v.toNat % 2 ^ lo + bits v lo w * 2 ^ lo + v.toNat / 2 ^ (lo + w) * 2 ^ (lo + w) := by
    rw [e3] at e2
    have : 2 ^ lo * (2 ^ w * (v.toNat / 2 ^ (lo + w)) + v.toNat / 2 ^ lo % 2 ^ w)
        = v.toNat / 2 ^ (lo + w) * 2 ^ (lo + w) + v.toNat / 2 ^ lo % 2 ^ w * 2 ^ lo := by rw [Nat.pow_add]; ring
    unfold bits
    rw [e2] at this
    omega
  have hx : x % 2 ^ w < 2 ^ w := Nat.mod_lt _ (Nat.two_pow_pos w)
  have hlo : v.toNat % 2 ^ lo < 2 ^ lo := Nat.mod_lt _ (Nat.two_pow_pos lo)
  have hhi : v.toNat / 2 ^ (lo + w) < 2 ^ (128 - (lo + w)) := by
    rw [Nat.div_lt_iff_lt_mul (Nat.two_pow_pos _), ← Nat.pow_add]
    have : 128 - (lo + w) + (lo + w) = 128 := by omega
    rw [this]; exact hv
  have b1 : x % 2 ^ w * 2 ^ lo + v.toNat % 2 ^ lo < 2 ^ (lo + w) := by
    have : (x % 2 ^ w + 1) * 2 ^ lo ≤ 2 ^ w * 2 ^ lo := Nat.mul_le_mul_right _ hx
    rw [Nat.pow_add, Nat.mul_comm (2 ^ lo)]
    nlinarith
  have b2 : v.toNat / 2 ^ (lo + w) * 2 ^ (lo + w) + 2 ^ (lo + w) ≤ 2 ^ 128 := by
    have : (v.toNat / 2 ^ (lo + w) + 1) * 2 ^ (lo + w) ≤ 2 ^ (128 - (lo + w)) * 2 ^ (lo + w) := Nat.mul_le_mul_right _ hhi
    rw [← Nat.pow_add, (by omega : 128 - (lo + w) + (lo + w) = 128)] at this
    linarith
  unfold setBits
  rw [BitVec.toNat_ofNat, Nat.mod_eq_of_lt (by omega)]
  omega

/-- The bits written. -/
theorem bits_setBits_same (v : BitVec 128) {lo w : Nat} (x : Nat) (h : lo + w ≤ 128) : bits (setBits v lo w x) lo w = x % 2 ^ w := by
  unfold bits
  rw [setBits_toNat v x h]
  have hlo : v.toNat % 2 ^ lo < 2 ^ lo := Nat.mod_lt _ (Nat.two_pow_pos lo)
  have : v.toNat % 2 ^ lo + x % 2 ^ w * 2 ^ lo + v.toNat / 2 ^ (lo + w) * 2 ^ (lo + w)
      = v.toNat % 2 ^ lo + 2 ^ lo * (x % 2 ^ w + 2 ^ w * (v.toNat / 2 ^ (lo + w))) := by rw [Nat.pow_add]; ring
  rw [this, Nat.add_mul_div_left _ _ (Nat.two_pow_pos lo), Nat.div_eq_of_lt hlo, Nat.zero_add, Nat.add_mul_mod_self_left,
    Nat.mod_mod]

/-- Bits below those written. -/
theorem bits_setBits_below (v : BitVec 128) {lo w lo' w' : Nat} (x : Nat) (h : lo + w ≤ 128) (hd : lo' + w' ≤ lo) :
    bits (setBits v lo w x) lo' w' = bits v lo' w' := by
  obtain ⟨k, rfl⟩ : ∃ k, lo = lo' + w' + k := ⟨lo - (lo' + w'), by omega⟩
  have key (n : Nat) : n / 2 ^ lo' % 2 ^ w' = n % 2 ^ (lo' + w' + k) / 2 ^ lo' % 2 ^ w' := by
    have := Nat.mod_mul_right_div_self n (2 ^ lo') (2 ^ (w' + k))
    rw [show lo' + w' + k = lo' + (w' + k) by omega, Nat.pow_add 2 lo', this, Nat.pow_add 2 w', Nat.mod_mul_right_mod]
  unfold bits
  rw [key (setBits v (lo' + w' + k) w x).toNat, key v.toNat, setBits_toNat v x h]
  congr 2
  have e : v.toNat % 2 ^ (lo' + w' + k) + x % 2 ^ w * 2 ^ (lo' + w' + k) + v.toNat / 2 ^ (lo' + w' + k + w) * 2 ^ (lo' + w' + k + w)
      = v.toNat % 2 ^ (lo' + w' + k) + 2 ^ (lo' + w' + k) * (x % 2 ^ w + v.toNat / 2 ^ (lo' + w' + k + w) * 2 ^ w) := by
    rw [Nat.pow_add 2 (lo' + w' + k) w]; ring
  rw [e, Nat.add_mul_mod_self_left, Nat.mod_mod]

/-- Bits above those written. -/
theorem bits_setBits_above (v : BitVec 128) {lo w lo' w' : Nat} (x : Nat) (h : lo + w ≤ 128) (hd : lo + w ≤ lo') :
    bits (setBits v lo w x) lo' w' = bits v lo' w' := by
  obtain ⟨k, rfl⟩ : ∃ k, lo' = lo + w + k := ⟨lo' - (lo + w), by omega⟩
  unfold bits
  rw [setBits_toNat v x h, Nat.pow_add 2 (lo + w) k, ← Nat.div_div_eq_div_mul, ← Nat.div_div_eq_div_mul]
  congr 2
  have hlo : v.toNat % 2 ^ lo < 2 ^ lo := Nat.mod_lt _ (Nat.two_pow_pos lo)
  have hx : x % 2 ^ w < 2 ^ w := Nat.mod_lt _ (Nat.two_pow_pos w)
  have b1 : v.toNat % 2 ^ lo + x % 2 ^ w * 2 ^ lo < 2 ^ (lo + w) := by
    have : (x % 2 ^ w + 1) * 2 ^ lo ≤ 2 ^ w * 2 ^ lo := Nat.mul_le_mul_right _ hx
    rw [Nat.pow_add, Nat.mul_comm (2 ^ lo)]
    nlinarith
  rw [Nat.add_mul_div_right _ _ (Nat.two_pow_pos _), Nat.div_eq_of_lt b1, Nat.zero_add]

/-! ### Registers -/

@[simp] theorem reg_setReg_same (r : Reg) (i : Nat) (v : BitVec 128) (h : SMap.sorted s.regs = true) :
    (s.setReg r i v).reg r i = v := SMap.lookD_putC_same h

theorem reg_setReg_other {r r' : Reg} {i i' : Nat} (v : BitVec 128) (h : r'.key i' ≠ r.key i) :
    (s.setReg r i v).reg r' i' = s.reg r' i' := SMap.lookD_putC_other h

/-! ### Fields of the state under each update -/

@[simp] theorem setReg_stage (r : Reg) (i : Nat) (v : BitVec 128) : (s.setReg r i v).stage = s.stage := rfl
@[simp] theorem setReg_pending (r : Reg) (i : Nat) (v : BitVec 128) : (s.setReg r i v).pending = s.pending := rfl
@[simp] theorem setReg_free (r : Reg) (i : Nat) (v : BitVec 128) : (s.setReg r i v).free = s.free := rfl
@[simp] theorem setReg_mem (r : Reg) (i : Nat) (v : BitVec 128) : (s.setReg r i v).mem = s.mem := rfl
@[simp] theorem setReg_home (r : Reg) (i : Nat) (v : BitVec 128) : (s.setReg r i v).home = s.home := rfl
@[simp] theorem setReg_txns (r : Reg) (i : Nat) (v : BitVec 128) : (s.setReg r i v).txns = s.txns := rfl
@[simp] theorem setReg_keys (r : Reg) (i : Nat) (v : BitVec 128) : (s.setReg r i v).keys = s.keys := rfl
@[simp] theorem setReg_outs (r : Reg) (i : Nat) (v : BitVec 128) : (s.setReg r i v).outs = s.outs := rfl
@[simp] theorem setReg_deadTags (r : Reg) (i : Nat) (v : BitVec 128) : (s.setReg r i v).deadTags = s.deadTags := rfl
@[simp] theorem setReg_ptu (r : Reg) (i : Nat) (v : BitVec 128) : (s.setReg r i v).ptu = s.ptu := rfl
@[simp] theorem setReg_clu (r : Reg) (i : Nat) (v : BitVec 128) : (s.setReg r i v).clu = s.clu := rfl
@[simp] theorem setReg_seqs (r : Reg) (i : Nat) (v : BitVec 128) : (s.setReg r i v).seqs = s.seqs := rfl
@[simp] theorem setReg_xfr (r : Reg) (i : Nat) (v : BitVec 128) : (s.setReg r i v).xfr = s.xfr := rfl
@[simp] theorem setReg_col (r : Reg) (i : Nat) (v : BitVec 128) : (s.setReg r i v).col = s.col := rfl
@[simp] theorem setReg_ras (r : Reg) (i : Nat) (v : BitVec 128) : (s.setReg r i v).ras = s.ras := rfl
@[simp] theorem setReg_tab (r : Reg) (i : Nat) (v : BitVec 128) : (s.setReg r i v).tab = s.tab := rfl
@[simp] theorem setReg_fab (r : Reg) (i : Nat) (v : BitVec 128) : (s.setReg r i v).fab = s.fab := rfl
@[simp] theorem setReg_link (r : Reg) (i : Nat) (v : BitVec 128) : (s.setReg r i v).link = s.link := rfl
@[simp] theorem setReg_lane (r : Reg) (i : Nat) (v : BitVec 128) : (s.setReg r i v).lane = s.lane := rfl
@[simp] theorem setReg_qos (r : Reg) (i : Nat) (v : BitVec 128) : (s.setReg r i v).qos = s.qos := rfl
@[simp] theorem setReg_evt (r : Reg) (i : Nat) (v : BitVec 128) : (s.setReg r i v).evt = s.evt := rfl
@[simp] theorem setReg_rot (r : Reg) (i : Nat) (v : BitVec 128) : (s.setReg r i v).rot = s.rot := rfl
@[simp] theorem setReg_pwr (r : Reg) (i : Nat) (v : BitVec 128) : (s.setReg r i v).pwr = s.pwr := rfl
@[simp] theorem setReg_pci (r : Reg) (i : Nat) (v : BitVec 128) : (s.setReg r i v).pci = s.pci := rfl
@[simp] theorem setReg_fmtBuf (r : Reg) (i : Nat) (v : BitVec 128) : (s.setReg r i v).fmtBuf = s.fmtBuf := rfl
@[simp] theorem setReg_crc (r : Reg) (i : Nat) (v : BitVec 128) : (s.setReg r i v).crc = s.crc := rfl

@[simp] theorem putStage_regs (r : Reg) (i d : Nat) (p : Bool) (v : BitVec 128) : (s.putStage r i d p v).regs = s.regs := rfl
@[simp] theorem putStage_pending (r : Reg) (i d : Nat) (p : Bool) (v : BitVec 128) : (s.putStage r i d p v).pending = s.pending := rfl
@[simp] theorem putStage_free (r : Reg) (i d : Nat) (p : Bool) (v : BitVec 128) : (s.putStage r i d p v).free = s.free := rfl
@[simp] theorem putStage_mem (r : Reg) (i d : Nat) (p : Bool) (v : BitVec 128) : (s.putStage r i d p v).mem = s.mem := rfl
@[simp] theorem putStage_home (r : Reg) (i d : Nat) (p : Bool) (v : BitVec 128) : (s.putStage r i d p v).home = s.home := rfl
@[simp] theorem putStage_txns (r : Reg) (i d : Nat) (p : Bool) (v : BitVec 128) : (s.putStage r i d p v).txns = s.txns := rfl
@[simp] theorem putStage_keys (r : Reg) (i d : Nat) (p : Bool) (v : BitVec 128) : (s.putStage r i d p v).keys = s.keys := rfl
@[simp] theorem putStage_outs (r : Reg) (i d : Nat) (p : Bool) (v : BitVec 128) : (s.putStage r i d p v).outs = s.outs := rfl
@[simp] theorem putStage_deadTags (r : Reg) (i d : Nat) (p : Bool) (v : BitVec 128) : (s.putStage r i d p v).deadTags = s.deadTags := rfl
@[simp] theorem putStage_ptu (r : Reg) (i d : Nat) (p : Bool) (v : BitVec 128) : (s.putStage r i d p v).ptu = s.ptu := rfl
@[simp] theorem putStage_clu (r : Reg) (i d : Nat) (p : Bool) (v : BitVec 128) : (s.putStage r i d p v).clu = s.clu := rfl
@[simp] theorem putStage_seqs (r : Reg) (i d : Nat) (p : Bool) (v : BitVec 128) : (s.putStage r i d p v).seqs = s.seqs := rfl
@[simp] theorem putStage_xfr (r : Reg) (i d : Nat) (p : Bool) (v : BitVec 128) : (s.putStage r i d p v).xfr = s.xfr := rfl
@[simp] theorem putStage_col (r : Reg) (i d : Nat) (p : Bool) (v : BitVec 128) : (s.putStage r i d p v).col = s.col := rfl
@[simp] theorem putStage_ras (r : Reg) (i d : Nat) (p : Bool) (v : BitVec 128) : (s.putStage r i d p v).ras = s.ras := rfl
@[simp] theorem putStage_tab (r : Reg) (i d : Nat) (p : Bool) (v : BitVec 128) : (s.putStage r i d p v).tab = s.tab := rfl
@[simp] theorem putStage_fab (r : Reg) (i d : Nat) (p : Bool) (v : BitVec 128) : (s.putStage r i d p v).fab = s.fab := rfl
@[simp] theorem putStage_link (r : Reg) (i d : Nat) (p : Bool) (v : BitVec 128) : (s.putStage r i d p v).link = s.link := rfl
@[simp] theorem putStage_lane (r : Reg) (i d : Nat) (p : Bool) (v : BitVec 128) : (s.putStage r i d p v).lane = s.lane := rfl
@[simp] theorem putStage_qos (r : Reg) (i d : Nat) (p : Bool) (v : BitVec 128) : (s.putStage r i d p v).qos = s.qos := rfl
@[simp] theorem putStage_evt (r : Reg) (i d : Nat) (p : Bool) (v : BitVec 128) : (s.putStage r i d p v).evt = s.evt := rfl
@[simp] theorem putStage_rot (r : Reg) (i d : Nat) (p : Bool) (v : BitVec 128) : (s.putStage r i d p v).rot = s.rot := rfl
@[simp] theorem putStage_pwr (r : Reg) (i d : Nat) (p : Bool) (v : BitVec 128) : (s.putStage r i d p v).pwr = s.pwr := rfl
@[simp] theorem putStage_pci (r : Reg) (i d : Nat) (p : Bool) (v : BitVec 128) : (s.putStage r i d p v).pci = s.pci := rfl
@[simp] theorem putStage_fmtBuf (r : Reg) (i d : Nat) (p : Bool) (v : BitVec 128) : (s.putStage r i d p v).fmtBuf = s.fmtBuf := rfl
@[simp] theorem putStage_crc (r : Reg) (i d : Nat) (p : Bool) (v : BitVec 128) : (s.putStage r i d p v).crc = s.crc := rfl

@[simp] theorem draw_regs : (s.draw).regs = s.regs := rfl
@[simp] theorem draw_stage  : (s.draw).stage = s.stage := rfl
@[simp] theorem draw_pending  : (s.draw).pending = s.pending := rfl
@[simp] theorem draw_mem  : (s.draw).mem = s.mem := rfl
@[simp] theorem draw_home  : (s.draw).home = s.home := rfl
@[simp] theorem draw_txns  : (s.draw).txns = s.txns := rfl
@[simp] theorem draw_keys  : (s.draw).keys = s.keys := rfl
@[simp] theorem draw_outs  : (s.draw).outs = s.outs := rfl
@[simp] theorem draw_deadTags  : (s.draw).deadTags = s.deadTags := rfl
@[simp] theorem draw_ptu  : (s.draw).ptu = s.ptu := rfl
@[simp] theorem draw_clu  : (s.draw).clu = s.clu := rfl
@[simp] theorem draw_seqs  : (s.draw).seqs = s.seqs := rfl
@[simp] theorem draw_xfr  : (s.draw).xfr = s.xfr := rfl
@[simp] theorem draw_col  : (s.draw).col = s.col := rfl
@[simp] theorem draw_ras  : (s.draw).ras = s.ras := rfl
@[simp] theorem draw_tab  : (s.draw).tab = s.tab := rfl
@[simp] theorem draw_fab  : (s.draw).fab = s.fab := rfl
@[simp] theorem draw_link  : (s.draw).link = s.link := rfl
@[simp] theorem draw_lane  : (s.draw).lane = s.lane := rfl
@[simp] theorem draw_qos  : (s.draw).qos = s.qos := rfl
@[simp] theorem draw_evt  : (s.draw).evt = s.evt := rfl
@[simp] theorem draw_rot  : (s.draw).rot = s.rot := rfl
@[simp] theorem draw_pwr  : (s.draw).pwr = s.pwr := rfl
@[simp] theorem draw_pci  : (s.draw).pci = s.pci := rfl
@[simp] theorem draw_fmtBuf  : (s.draw).fmtBuf = s.fmtBuf := rfl
@[simp] theorem draw_crc  : (s.draw).crc = s.crc := rfl

@[simp] theorem uMem_regs (f : Mem → Mem) : (s.uMem f).regs = s.regs := rfl
@[simp] theorem uMem_stage (f : Mem → Mem) : (s.uMem f).stage = s.stage := rfl
@[simp] theorem uMem_pending (f : Mem → Mem) : (s.uMem f).pending = s.pending := rfl
@[simp] theorem uMem_free (f : Mem → Mem) : (s.uMem f).free = s.free := rfl
@[simp] theorem uMem_mem (f : Mem → Mem) : (s.uMem f).mem = f s.mem := rfl
@[simp] theorem uMem_home (f : Mem → Mem) : (s.uMem f).home = s.home := rfl
@[simp] theorem uMem_txns (f : Mem → Mem) : (s.uMem f).txns = s.txns := rfl
@[simp] theorem uMem_keys (f : Mem → Mem) : (s.uMem f).keys = s.keys := rfl
@[simp] theorem uMem_outs (f : Mem → Mem) : (s.uMem f).outs = s.outs := rfl
@[simp] theorem uMem_deadTags (f : Mem → Mem) : (s.uMem f).deadTags = s.deadTags := rfl
@[simp] theorem uMem_ptu (f : Mem → Mem) : (s.uMem f).ptu = s.ptu := rfl
@[simp] theorem uMem_clu (f : Mem → Mem) : (s.uMem f).clu = s.clu := rfl
@[simp] theorem uMem_seqs (f : Mem → Mem) : (s.uMem f).seqs = s.seqs := rfl
@[simp] theorem uMem_xfr (f : Mem → Mem) : (s.uMem f).xfr = s.xfr := rfl
@[simp] theorem uMem_col (f : Mem → Mem) : (s.uMem f).col = s.col := rfl
@[simp] theorem uMem_ras (f : Mem → Mem) : (s.uMem f).ras = s.ras := rfl
@[simp] theorem uMem_tab (f : Mem → Mem) : (s.uMem f).tab = s.tab := rfl
@[simp] theorem uMem_fab (f : Mem → Mem) : (s.uMem f).fab = s.fab := rfl
@[simp] theorem uMem_link (f : Mem → Mem) : (s.uMem f).link = s.link := rfl
@[simp] theorem uMem_lane (f : Mem → Mem) : (s.uMem f).lane = s.lane := rfl
@[simp] theorem uMem_qos (f : Mem → Mem) : (s.uMem f).qos = s.qos := rfl
@[simp] theorem uMem_evt (f : Mem → Mem) : (s.uMem f).evt = s.evt := rfl
@[simp] theorem uMem_rot (f : Mem → Mem) : (s.uMem f).rot = s.rot := rfl
@[simp] theorem uMem_pwr (f : Mem → Mem) : (s.uMem f).pwr = s.pwr := rfl
@[simp] theorem uMem_pci (f : Mem → Mem) : (s.uMem f).pci = s.pci := rfl
@[simp] theorem uMem_fmtBuf (f : Mem → Mem) : (s.uMem f).fmtBuf = s.fmtBuf := rfl
@[simp] theorem uMem_crc (f : Mem → Mem) : (s.uMem f).crc = s.crc := rfl

@[simp] theorem uHome_regs (f : Home → Home) : (s.uHome f).regs = s.regs := rfl
@[simp] theorem uHome_stage (f : Home → Home) : (s.uHome f).stage = s.stage := rfl
@[simp] theorem uHome_pending (f : Home → Home) : (s.uHome f).pending = s.pending := rfl
@[simp] theorem uHome_free (f : Home → Home) : (s.uHome f).free = s.free := rfl
@[simp] theorem uHome_mem (f : Home → Home) : (s.uHome f).mem = s.mem := rfl
@[simp] theorem uHome_home (f : Home → Home) : (s.uHome f).home = f s.home := rfl
@[simp] theorem uHome_txns (f : Home → Home) : (s.uHome f).txns = s.txns := rfl
@[simp] theorem uHome_keys (f : Home → Home) : (s.uHome f).keys = s.keys := rfl
@[simp] theorem uHome_outs (f : Home → Home) : (s.uHome f).outs = s.outs := rfl
@[simp] theorem uHome_deadTags (f : Home → Home) : (s.uHome f).deadTags = s.deadTags := rfl
@[simp] theorem uHome_ptu (f : Home → Home) : (s.uHome f).ptu = s.ptu := rfl
@[simp] theorem uHome_clu (f : Home → Home) : (s.uHome f).clu = s.clu := rfl
@[simp] theorem uHome_seqs (f : Home → Home) : (s.uHome f).seqs = s.seqs := rfl
@[simp] theorem uHome_xfr (f : Home → Home) : (s.uHome f).xfr = s.xfr := rfl
@[simp] theorem uHome_col (f : Home → Home) : (s.uHome f).col = s.col := rfl
@[simp] theorem uHome_ras (f : Home → Home) : (s.uHome f).ras = s.ras := rfl
@[simp] theorem uHome_tab (f : Home → Home) : (s.uHome f).tab = s.tab := rfl
@[simp] theorem uHome_fab (f : Home → Home) : (s.uHome f).fab = s.fab := rfl
@[simp] theorem uHome_link (f : Home → Home) : (s.uHome f).link = s.link := rfl
@[simp] theorem uHome_lane (f : Home → Home) : (s.uHome f).lane = s.lane := rfl
@[simp] theorem uHome_qos (f : Home → Home) : (s.uHome f).qos = s.qos := rfl
@[simp] theorem uHome_evt (f : Home → Home) : (s.uHome f).evt = s.evt := rfl
@[simp] theorem uHome_rot (f : Home → Home) : (s.uHome f).rot = s.rot := rfl
@[simp] theorem uHome_pwr (f : Home → Home) : (s.uHome f).pwr = s.pwr := rfl
@[simp] theorem uHome_pci (f : Home → Home) : (s.uHome f).pci = s.pci := rfl
@[simp] theorem uHome_fmtBuf (f : Home → Home) : (s.uHome f).fmtBuf = s.fmtBuf := rfl
@[simp] theorem uHome_crc (f : Home → Home) : (s.uHome f).crc = s.crc := rfl

@[simp] theorem uFab_regs (f : Fab → Fab) : (s.uFab f).regs = s.regs := rfl
@[simp] theorem uFab_stage (f : Fab → Fab) : (s.uFab f).stage = s.stage := rfl
@[simp] theorem uFab_pending (f : Fab → Fab) : (s.uFab f).pending = s.pending := rfl
@[simp] theorem uFab_free (f : Fab → Fab) : (s.uFab f).free = s.free := rfl
@[simp] theorem uFab_mem (f : Fab → Fab) : (s.uFab f).mem = s.mem := rfl
@[simp] theorem uFab_home (f : Fab → Fab) : (s.uFab f).home = s.home := rfl
@[simp] theorem uFab_txns (f : Fab → Fab) : (s.uFab f).txns = s.txns := rfl
@[simp] theorem uFab_keys (f : Fab → Fab) : (s.uFab f).keys = s.keys := rfl
@[simp] theorem uFab_outs (f : Fab → Fab) : (s.uFab f).outs = s.outs := rfl
@[simp] theorem uFab_deadTags (f : Fab → Fab) : (s.uFab f).deadTags = s.deadTags := rfl
@[simp] theorem uFab_ptu (f : Fab → Fab) : (s.uFab f).ptu = s.ptu := rfl
@[simp] theorem uFab_clu (f : Fab → Fab) : (s.uFab f).clu = s.clu := rfl
@[simp] theorem uFab_seqs (f : Fab → Fab) : (s.uFab f).seqs = s.seqs := rfl
@[simp] theorem uFab_xfr (f : Fab → Fab) : (s.uFab f).xfr = s.xfr := rfl
@[simp] theorem uFab_col (f : Fab → Fab) : (s.uFab f).col = s.col := rfl
@[simp] theorem uFab_ras (f : Fab → Fab) : (s.uFab f).ras = s.ras := rfl
@[simp] theorem uFab_tab (f : Fab → Fab) : (s.uFab f).tab = s.tab := rfl
@[simp] theorem uFab_fab (f : Fab → Fab) : (s.uFab f).fab = f s.fab := rfl
@[simp] theorem uFab_link (f : Fab → Fab) : (s.uFab f).link = s.link := rfl
@[simp] theorem uFab_lane (f : Fab → Fab) : (s.uFab f).lane = s.lane := rfl
@[simp] theorem uFab_qos (f : Fab → Fab) : (s.uFab f).qos = s.qos := rfl
@[simp] theorem uFab_evt (f : Fab → Fab) : (s.uFab f).evt = s.evt := rfl
@[simp] theorem uFab_rot (f : Fab → Fab) : (s.uFab f).rot = s.rot := rfl
@[simp] theorem uFab_pwr (f : Fab → Fab) : (s.uFab f).pwr = s.pwr := rfl
@[simp] theorem uFab_pci (f : Fab → Fab) : (s.uFab f).pci = s.pci := rfl
@[simp] theorem uFab_fmtBuf (f : Fab → Fab) : (s.uFab f).fmtBuf = s.fmtBuf := rfl
@[simp] theorem uFab_crc (f : Fab → Fab) : (s.uFab f).crc = s.crc := rfl

@[simp] theorem uEvt_regs (f : Evt → Evt) : (s.uEvt f).regs = s.regs := rfl
@[simp] theorem uEvt_stage (f : Evt → Evt) : (s.uEvt f).stage = s.stage := rfl
@[simp] theorem uEvt_pending (f : Evt → Evt) : (s.uEvt f).pending = s.pending := rfl
@[simp] theorem uEvt_free (f : Evt → Evt) : (s.uEvt f).free = s.free := rfl
@[simp] theorem uEvt_mem (f : Evt → Evt) : (s.uEvt f).mem = s.mem := rfl
@[simp] theorem uEvt_home (f : Evt → Evt) : (s.uEvt f).home = s.home := rfl
@[simp] theorem uEvt_txns (f : Evt → Evt) : (s.uEvt f).txns = s.txns := rfl
@[simp] theorem uEvt_keys (f : Evt → Evt) : (s.uEvt f).keys = s.keys := rfl
@[simp] theorem uEvt_outs (f : Evt → Evt) : (s.uEvt f).outs = s.outs := rfl
@[simp] theorem uEvt_deadTags (f : Evt → Evt) : (s.uEvt f).deadTags = s.deadTags := rfl
@[simp] theorem uEvt_ptu (f : Evt → Evt) : (s.uEvt f).ptu = s.ptu := rfl
@[simp] theorem uEvt_clu (f : Evt → Evt) : (s.uEvt f).clu = s.clu := rfl
@[simp] theorem uEvt_seqs (f : Evt → Evt) : (s.uEvt f).seqs = s.seqs := rfl
@[simp] theorem uEvt_xfr (f : Evt → Evt) : (s.uEvt f).xfr = s.xfr := rfl
@[simp] theorem uEvt_col (f : Evt → Evt) : (s.uEvt f).col = s.col := rfl
@[simp] theorem uEvt_ras (f : Evt → Evt) : (s.uEvt f).ras = s.ras := rfl
@[simp] theorem uEvt_tab (f : Evt → Evt) : (s.uEvt f).tab = s.tab := rfl
@[simp] theorem uEvt_fab (f : Evt → Evt) : (s.uEvt f).fab = s.fab := rfl
@[simp] theorem uEvt_link (f : Evt → Evt) : (s.uEvt f).link = s.link := rfl
@[simp] theorem uEvt_lane (f : Evt → Evt) : (s.uEvt f).lane = s.lane := rfl
@[simp] theorem uEvt_qos (f : Evt → Evt) : (s.uEvt f).qos = s.qos := rfl
@[simp] theorem uEvt_evt (f : Evt → Evt) : (s.uEvt f).evt = f s.evt := rfl
@[simp] theorem uEvt_rot (f : Evt → Evt) : (s.uEvt f).rot = s.rot := rfl
@[simp] theorem uEvt_pwr (f : Evt → Evt) : (s.uEvt f).pwr = s.pwr := rfl
@[simp] theorem uEvt_pci (f : Evt → Evt) : (s.uEvt f).pci = s.pci := rfl
@[simp] theorem uEvt_fmtBuf (f : Evt → Evt) : (s.uEvt f).fmtBuf = s.fmtBuf := rfl
@[simp] theorem uEvt_crc (f : Evt → Evt) : (s.uEvt f).crc = s.crc := rfl

@[simp] theorem uRas_regs (f : Ras → Ras) : (s.uRas f).regs = s.regs := rfl
@[simp] theorem uRas_stage (f : Ras → Ras) : (s.uRas f).stage = s.stage := rfl
@[simp] theorem uRas_pending (f : Ras → Ras) : (s.uRas f).pending = s.pending := rfl
@[simp] theorem uRas_free (f : Ras → Ras) : (s.uRas f).free = s.free := rfl
@[simp] theorem uRas_mem (f : Ras → Ras) : (s.uRas f).mem = s.mem := rfl
@[simp] theorem uRas_home (f : Ras → Ras) : (s.uRas f).home = s.home := rfl
@[simp] theorem uRas_txns (f : Ras → Ras) : (s.uRas f).txns = s.txns := rfl
@[simp] theorem uRas_keys (f : Ras → Ras) : (s.uRas f).keys = s.keys := rfl
@[simp] theorem uRas_outs (f : Ras → Ras) : (s.uRas f).outs = s.outs := rfl
@[simp] theorem uRas_deadTags (f : Ras → Ras) : (s.uRas f).deadTags = s.deadTags := rfl
@[simp] theorem uRas_ptu (f : Ras → Ras) : (s.uRas f).ptu = s.ptu := rfl
@[simp] theorem uRas_clu (f : Ras → Ras) : (s.uRas f).clu = s.clu := rfl
@[simp] theorem uRas_seqs (f : Ras → Ras) : (s.uRas f).seqs = s.seqs := rfl
@[simp] theorem uRas_xfr (f : Ras → Ras) : (s.uRas f).xfr = s.xfr := rfl
@[simp] theorem uRas_col (f : Ras → Ras) : (s.uRas f).col = s.col := rfl
@[simp] theorem uRas_ras (f : Ras → Ras) : (s.uRas f).ras = f s.ras := rfl
@[simp] theorem uRas_tab (f : Ras → Ras) : (s.uRas f).tab = s.tab := rfl
@[simp] theorem uRas_fab (f : Ras → Ras) : (s.uRas f).fab = s.fab := rfl
@[simp] theorem uRas_link (f : Ras → Ras) : (s.uRas f).link = s.link := rfl
@[simp] theorem uRas_lane (f : Ras → Ras) : (s.uRas f).lane = s.lane := rfl
@[simp] theorem uRas_qos (f : Ras → Ras) : (s.uRas f).qos = s.qos := rfl
@[simp] theorem uRas_evt (f : Ras → Ras) : (s.uRas f).evt = s.evt := rfl
@[simp] theorem uRas_rot (f : Ras → Ras) : (s.uRas f).rot = s.rot := rfl
@[simp] theorem uRas_pwr (f : Ras → Ras) : (s.uRas f).pwr = s.pwr := rfl
@[simp] theorem uRas_pci (f : Ras → Ras) : (s.uRas f).pci = s.pci := rfl
@[simp] theorem uRas_fmtBuf (f : Ras → Ras) : (s.uRas f).fmtBuf = s.fmtBuf := rfl
@[simp] theorem uRas_crc (f : Ras → Ras) : (s.uRas f).crc = s.crc := rfl

@[simp] theorem uClu_regs (f : Clu → Clu) : (s.uClu f).regs = s.regs := rfl
@[simp] theorem uClu_stage (f : Clu → Clu) : (s.uClu f).stage = s.stage := rfl
@[simp] theorem uClu_pending (f : Clu → Clu) : (s.uClu f).pending = s.pending := rfl
@[simp] theorem uClu_free (f : Clu → Clu) : (s.uClu f).free = s.free := rfl
@[simp] theorem uClu_mem (f : Clu → Clu) : (s.uClu f).mem = s.mem := rfl
@[simp] theorem uClu_home (f : Clu → Clu) : (s.uClu f).home = s.home := rfl
@[simp] theorem uClu_txns (f : Clu → Clu) : (s.uClu f).txns = s.txns := rfl
@[simp] theorem uClu_keys (f : Clu → Clu) : (s.uClu f).keys = s.keys := rfl
@[simp] theorem uClu_outs (f : Clu → Clu) : (s.uClu f).outs = s.outs := rfl
@[simp] theorem uClu_deadTags (f : Clu → Clu) : (s.uClu f).deadTags = s.deadTags := rfl
@[simp] theorem uClu_ptu (f : Clu → Clu) : (s.uClu f).ptu = s.ptu := rfl
@[simp] theorem uClu_clu (f : Clu → Clu) : (s.uClu f).clu = f s.clu := rfl
@[simp] theorem uClu_seqs (f : Clu → Clu) : (s.uClu f).seqs = s.seqs := rfl
@[simp] theorem uClu_xfr (f : Clu → Clu) : (s.uClu f).xfr = s.xfr := rfl
@[simp] theorem uClu_col (f : Clu → Clu) : (s.uClu f).col = s.col := rfl
@[simp] theorem uClu_ras (f : Clu → Clu) : (s.uClu f).ras = s.ras := rfl
@[simp] theorem uClu_tab (f : Clu → Clu) : (s.uClu f).tab = s.tab := rfl
@[simp] theorem uClu_fab (f : Clu → Clu) : (s.uClu f).fab = s.fab := rfl
@[simp] theorem uClu_link (f : Clu → Clu) : (s.uClu f).link = s.link := rfl
@[simp] theorem uClu_lane (f : Clu → Clu) : (s.uClu f).lane = s.lane := rfl
@[simp] theorem uClu_qos (f : Clu → Clu) : (s.uClu f).qos = s.qos := rfl
@[simp] theorem uClu_evt (f : Clu → Clu) : (s.uClu f).evt = s.evt := rfl
@[simp] theorem uClu_rot (f : Clu → Clu) : (s.uClu f).rot = s.rot := rfl
@[simp] theorem uClu_pwr (f : Clu → Clu) : (s.uClu f).pwr = s.pwr := rfl
@[simp] theorem uClu_pci (f : Clu → Clu) : (s.uClu f).pci = s.pci := rfl
@[simp] theorem uClu_fmtBuf (f : Clu → Clu) : (s.uClu f).fmtBuf = s.fmtBuf := rfl
@[simp] theorem uClu_crc (f : Clu → Clu) : (s.uClu f).crc = s.crc := rfl

@[simp] theorem uPtu_regs (f : Ptu → Ptu) : (s.uPtu f).regs = s.regs := rfl
@[simp] theorem uPtu_stage (f : Ptu → Ptu) : (s.uPtu f).stage = s.stage := rfl
@[simp] theorem uPtu_pending (f : Ptu → Ptu) : (s.uPtu f).pending = s.pending := rfl
@[simp] theorem uPtu_free (f : Ptu → Ptu) : (s.uPtu f).free = s.free := rfl
@[simp] theorem uPtu_mem (f : Ptu → Ptu) : (s.uPtu f).mem = s.mem := rfl
@[simp] theorem uPtu_home (f : Ptu → Ptu) : (s.uPtu f).home = s.home := rfl
@[simp] theorem uPtu_txns (f : Ptu → Ptu) : (s.uPtu f).txns = s.txns := rfl
@[simp] theorem uPtu_keys (f : Ptu → Ptu) : (s.uPtu f).keys = s.keys := rfl
@[simp] theorem uPtu_outs (f : Ptu → Ptu) : (s.uPtu f).outs = s.outs := rfl
@[simp] theorem uPtu_deadTags (f : Ptu → Ptu) : (s.uPtu f).deadTags = s.deadTags := rfl
@[simp] theorem uPtu_ptu (f : Ptu → Ptu) : (s.uPtu f).ptu = f s.ptu := rfl
@[simp] theorem uPtu_clu (f : Ptu → Ptu) : (s.uPtu f).clu = s.clu := rfl
@[simp] theorem uPtu_seqs (f : Ptu → Ptu) : (s.uPtu f).seqs = s.seqs := rfl
@[simp] theorem uPtu_xfr (f : Ptu → Ptu) : (s.uPtu f).xfr = s.xfr := rfl
@[simp] theorem uPtu_col (f : Ptu → Ptu) : (s.uPtu f).col = s.col := rfl
@[simp] theorem uPtu_ras (f : Ptu → Ptu) : (s.uPtu f).ras = s.ras := rfl
@[simp] theorem uPtu_tab (f : Ptu → Ptu) : (s.uPtu f).tab = s.tab := rfl
@[simp] theorem uPtu_fab (f : Ptu → Ptu) : (s.uPtu f).fab = s.fab := rfl
@[simp] theorem uPtu_link (f : Ptu → Ptu) : (s.uPtu f).link = s.link := rfl
@[simp] theorem uPtu_lane (f : Ptu → Ptu) : (s.uPtu f).lane = s.lane := rfl
@[simp] theorem uPtu_qos (f : Ptu → Ptu) : (s.uPtu f).qos = s.qos := rfl
@[simp] theorem uPtu_evt (f : Ptu → Ptu) : (s.uPtu f).evt = s.evt := rfl
@[simp] theorem uPtu_rot (f : Ptu → Ptu) : (s.uPtu f).rot = s.rot := rfl
@[simp] theorem uPtu_pwr (f : Ptu → Ptu) : (s.uPtu f).pwr = s.pwr := rfl
@[simp] theorem uPtu_pci (f : Ptu → Ptu) : (s.uPtu f).pci = s.pci := rfl
@[simp] theorem uPtu_fmtBuf (f : Ptu → Ptu) : (s.uPtu f).fmtBuf = s.fmtBuf := rfl
@[simp] theorem uPtu_crc (f : Ptu → Ptu) : (s.uPtu f).crc = s.crc := rfl

@[simp] theorem uCol_regs (f : Col → Col) : (s.uCol f).regs = s.regs := rfl
@[simp] theorem uCol_stage (f : Col → Col) : (s.uCol f).stage = s.stage := rfl
@[simp] theorem uCol_pending (f : Col → Col) : (s.uCol f).pending = s.pending := rfl
@[simp] theorem uCol_free (f : Col → Col) : (s.uCol f).free = s.free := rfl
@[simp] theorem uCol_mem (f : Col → Col) : (s.uCol f).mem = s.mem := rfl
@[simp] theorem uCol_home (f : Col → Col) : (s.uCol f).home = s.home := rfl
@[simp] theorem uCol_txns (f : Col → Col) : (s.uCol f).txns = s.txns := rfl
@[simp] theorem uCol_keys (f : Col → Col) : (s.uCol f).keys = s.keys := rfl
@[simp] theorem uCol_outs (f : Col → Col) : (s.uCol f).outs = s.outs := rfl
@[simp] theorem uCol_deadTags (f : Col → Col) : (s.uCol f).deadTags = s.deadTags := rfl
@[simp] theorem uCol_ptu (f : Col → Col) : (s.uCol f).ptu = s.ptu := rfl
@[simp] theorem uCol_clu (f : Col → Col) : (s.uCol f).clu = s.clu := rfl
@[simp] theorem uCol_seqs (f : Col → Col) : (s.uCol f).seqs = s.seqs := rfl
@[simp] theorem uCol_xfr (f : Col → Col) : (s.uCol f).xfr = s.xfr := rfl
@[simp] theorem uCol_col (f : Col → Col) : (s.uCol f).col = f s.col := rfl
@[simp] theorem uCol_ras (f : Col → Col) : (s.uCol f).ras = s.ras := rfl
@[simp] theorem uCol_tab (f : Col → Col) : (s.uCol f).tab = s.tab := rfl
@[simp] theorem uCol_fab (f : Col → Col) : (s.uCol f).fab = s.fab := rfl
@[simp] theorem uCol_link (f : Col → Col) : (s.uCol f).link = s.link := rfl
@[simp] theorem uCol_lane (f : Col → Col) : (s.uCol f).lane = s.lane := rfl
@[simp] theorem uCol_qos (f : Col → Col) : (s.uCol f).qos = s.qos := rfl
@[simp] theorem uCol_evt (f : Col → Col) : (s.uCol f).evt = s.evt := rfl
@[simp] theorem uCol_rot (f : Col → Col) : (s.uCol f).rot = s.rot := rfl
@[simp] theorem uCol_pwr (f : Col → Col) : (s.uCol f).pwr = s.pwr := rfl
@[simp] theorem uCol_pci (f : Col → Col) : (s.uCol f).pci = s.pci := rfl
@[simp] theorem uCol_fmtBuf (f : Col → Col) : (s.uCol f).fmtBuf = s.fmtBuf := rfl
@[simp] theorem uCol_crc (f : Col → Col) : (s.uCol f).crc = s.crc := rfl

@[simp] theorem uQos_regs (f : Qos → Qos) : (s.uQos f).regs = s.regs := rfl
@[simp] theorem uQos_stage (f : Qos → Qos) : (s.uQos f).stage = s.stage := rfl
@[simp] theorem uQos_pending (f : Qos → Qos) : (s.uQos f).pending = s.pending := rfl
@[simp] theorem uQos_free (f : Qos → Qos) : (s.uQos f).free = s.free := rfl
@[simp] theorem uQos_mem (f : Qos → Qos) : (s.uQos f).mem = s.mem := rfl
@[simp] theorem uQos_home (f : Qos → Qos) : (s.uQos f).home = s.home := rfl
@[simp] theorem uQos_txns (f : Qos → Qos) : (s.uQos f).txns = s.txns := rfl
@[simp] theorem uQos_keys (f : Qos → Qos) : (s.uQos f).keys = s.keys := rfl
@[simp] theorem uQos_outs (f : Qos → Qos) : (s.uQos f).outs = s.outs := rfl
@[simp] theorem uQos_deadTags (f : Qos → Qos) : (s.uQos f).deadTags = s.deadTags := rfl
@[simp] theorem uQos_ptu (f : Qos → Qos) : (s.uQos f).ptu = s.ptu := rfl
@[simp] theorem uQos_clu (f : Qos → Qos) : (s.uQos f).clu = s.clu := rfl
@[simp] theorem uQos_seqs (f : Qos → Qos) : (s.uQos f).seqs = s.seqs := rfl
@[simp] theorem uQos_xfr (f : Qos → Qos) : (s.uQos f).xfr = s.xfr := rfl
@[simp] theorem uQos_col (f : Qos → Qos) : (s.uQos f).col = s.col := rfl
@[simp] theorem uQos_ras (f : Qos → Qos) : (s.uQos f).ras = s.ras := rfl
@[simp] theorem uQos_tab (f : Qos → Qos) : (s.uQos f).tab = s.tab := rfl
@[simp] theorem uQos_fab (f : Qos → Qos) : (s.uQos f).fab = s.fab := rfl
@[simp] theorem uQos_link (f : Qos → Qos) : (s.uQos f).link = s.link := rfl
@[simp] theorem uQos_lane (f : Qos → Qos) : (s.uQos f).lane = s.lane := rfl
@[simp] theorem uQos_qos (f : Qos → Qos) : (s.uQos f).qos = f s.qos := rfl
@[simp] theorem uQos_evt (f : Qos → Qos) : (s.uQos f).evt = s.evt := rfl
@[simp] theorem uQos_rot (f : Qos → Qos) : (s.uQos f).rot = s.rot := rfl
@[simp] theorem uQos_pwr (f : Qos → Qos) : (s.uQos f).pwr = s.pwr := rfl
@[simp] theorem uQos_pci (f : Qos → Qos) : (s.uQos f).pci = s.pci := rfl
@[simp] theorem uQos_fmtBuf (f : Qos → Qos) : (s.uQos f).fmtBuf = s.fmtBuf := rfl
@[simp] theorem uQos_crc (f : Qos → Qos) : (s.uQos f).crc = s.crc := rfl

@[simp] theorem uRot_regs (f : Rot → Rot) : (s.uRot f).regs = s.regs := rfl
@[simp] theorem uRot_stage (f : Rot → Rot) : (s.uRot f).stage = s.stage := rfl
@[simp] theorem uRot_pending (f : Rot → Rot) : (s.uRot f).pending = s.pending := rfl
@[simp] theorem uRot_free (f : Rot → Rot) : (s.uRot f).free = s.free := rfl
@[simp] theorem uRot_mem (f : Rot → Rot) : (s.uRot f).mem = s.mem := rfl
@[simp] theorem uRot_home (f : Rot → Rot) : (s.uRot f).home = s.home := rfl
@[simp] theorem uRot_txns (f : Rot → Rot) : (s.uRot f).txns = s.txns := rfl
@[simp] theorem uRot_keys (f : Rot → Rot) : (s.uRot f).keys = s.keys := rfl
@[simp] theorem uRot_outs (f : Rot → Rot) : (s.uRot f).outs = s.outs := rfl
@[simp] theorem uRot_deadTags (f : Rot → Rot) : (s.uRot f).deadTags = s.deadTags := rfl
@[simp] theorem uRot_ptu (f : Rot → Rot) : (s.uRot f).ptu = s.ptu := rfl
@[simp] theorem uRot_clu (f : Rot → Rot) : (s.uRot f).clu = s.clu := rfl
@[simp] theorem uRot_seqs (f : Rot → Rot) : (s.uRot f).seqs = s.seqs := rfl
@[simp] theorem uRot_xfr (f : Rot → Rot) : (s.uRot f).xfr = s.xfr := rfl
@[simp] theorem uRot_col (f : Rot → Rot) : (s.uRot f).col = s.col := rfl
@[simp] theorem uRot_ras (f : Rot → Rot) : (s.uRot f).ras = s.ras := rfl
@[simp] theorem uRot_tab (f : Rot → Rot) : (s.uRot f).tab = s.tab := rfl
@[simp] theorem uRot_fab (f : Rot → Rot) : (s.uRot f).fab = s.fab := rfl
@[simp] theorem uRot_link (f : Rot → Rot) : (s.uRot f).link = s.link := rfl
@[simp] theorem uRot_lane (f : Rot → Rot) : (s.uRot f).lane = s.lane := rfl
@[simp] theorem uRot_qos (f : Rot → Rot) : (s.uRot f).qos = s.qos := rfl
@[simp] theorem uRot_evt (f : Rot → Rot) : (s.uRot f).evt = s.evt := rfl
@[simp] theorem uRot_rot (f : Rot → Rot) : (s.uRot f).rot = f s.rot := rfl
@[simp] theorem uRot_pwr (f : Rot → Rot) : (s.uRot f).pwr = s.pwr := rfl
@[simp] theorem uRot_pci (f : Rot → Rot) : (s.uRot f).pci = s.pci := rfl
@[simp] theorem uRot_fmtBuf (f : Rot → Rot) : (s.uRot f).fmtBuf = s.fmtBuf := rfl
@[simp] theorem uRot_crc (f : Rot → Rot) : (s.uRot f).crc = s.crc := rfl

@[simp] theorem uPwr_regs (f : Pwr → Pwr) : (s.uPwr f).regs = s.regs := rfl
@[simp] theorem uPwr_stage (f : Pwr → Pwr) : (s.uPwr f).stage = s.stage := rfl
@[simp] theorem uPwr_pending (f : Pwr → Pwr) : (s.uPwr f).pending = s.pending := rfl
@[simp] theorem uPwr_free (f : Pwr → Pwr) : (s.uPwr f).free = s.free := rfl
@[simp] theorem uPwr_mem (f : Pwr → Pwr) : (s.uPwr f).mem = s.mem := rfl
@[simp] theorem uPwr_home (f : Pwr → Pwr) : (s.uPwr f).home = s.home := rfl
@[simp] theorem uPwr_txns (f : Pwr → Pwr) : (s.uPwr f).txns = s.txns := rfl
@[simp] theorem uPwr_keys (f : Pwr → Pwr) : (s.uPwr f).keys = s.keys := rfl
@[simp] theorem uPwr_outs (f : Pwr → Pwr) : (s.uPwr f).outs = s.outs := rfl
@[simp] theorem uPwr_deadTags (f : Pwr → Pwr) : (s.uPwr f).deadTags = s.deadTags := rfl
@[simp] theorem uPwr_ptu (f : Pwr → Pwr) : (s.uPwr f).ptu = s.ptu := rfl
@[simp] theorem uPwr_clu (f : Pwr → Pwr) : (s.uPwr f).clu = s.clu := rfl
@[simp] theorem uPwr_seqs (f : Pwr → Pwr) : (s.uPwr f).seqs = s.seqs := rfl
@[simp] theorem uPwr_xfr (f : Pwr → Pwr) : (s.uPwr f).xfr = s.xfr := rfl
@[simp] theorem uPwr_col (f : Pwr → Pwr) : (s.uPwr f).col = s.col := rfl
@[simp] theorem uPwr_ras (f : Pwr → Pwr) : (s.uPwr f).ras = s.ras := rfl
@[simp] theorem uPwr_tab (f : Pwr → Pwr) : (s.uPwr f).tab = s.tab := rfl
@[simp] theorem uPwr_fab (f : Pwr → Pwr) : (s.uPwr f).fab = s.fab := rfl
@[simp] theorem uPwr_link (f : Pwr → Pwr) : (s.uPwr f).link = s.link := rfl
@[simp] theorem uPwr_lane (f : Pwr → Pwr) : (s.uPwr f).lane = s.lane := rfl
@[simp] theorem uPwr_qos (f : Pwr → Pwr) : (s.uPwr f).qos = s.qos := rfl
@[simp] theorem uPwr_evt (f : Pwr → Pwr) : (s.uPwr f).evt = s.evt := rfl
@[simp] theorem uPwr_rot (f : Pwr → Pwr) : (s.uPwr f).rot = s.rot := rfl
@[simp] theorem uPwr_pwr (f : Pwr → Pwr) : (s.uPwr f).pwr = f s.pwr := rfl
@[simp] theorem uPwr_pci (f : Pwr → Pwr) : (s.uPwr f).pci = s.pci := rfl
@[simp] theorem uPwr_fmtBuf (f : Pwr → Pwr) : (s.uPwr f).fmtBuf = s.fmtBuf := rfl
@[simp] theorem uPwr_crc (f : Pwr → Pwr) : (s.uPwr f).crc = s.crc := rfl

@[simp] theorem uLink_regs (n : Nat) (f : PortLink → PortLink) : (s.uLink n f).regs = s.regs := rfl
@[simp] theorem uLink_stage (n : Nat) (f : PortLink → PortLink) : (s.uLink n f).stage = s.stage := rfl
@[simp] theorem uLink_pending (n : Nat) (f : PortLink → PortLink) : (s.uLink n f).pending = s.pending := rfl
@[simp] theorem uLink_free (n : Nat) (f : PortLink → PortLink) : (s.uLink n f).free = s.free := rfl
@[simp] theorem uLink_mem (n : Nat) (f : PortLink → PortLink) : (s.uLink n f).mem = s.mem := rfl
@[simp] theorem uLink_home (n : Nat) (f : PortLink → PortLink) : (s.uLink n f).home = s.home := rfl
@[simp] theorem uLink_txns (n : Nat) (f : PortLink → PortLink) : (s.uLink n f).txns = s.txns := rfl
@[simp] theorem uLink_keys (n : Nat) (f : PortLink → PortLink) : (s.uLink n f).keys = s.keys := rfl
@[simp] theorem uLink_outs (n : Nat) (f : PortLink → PortLink) : (s.uLink n f).outs = s.outs := rfl
@[simp] theorem uLink_deadTags (n : Nat) (f : PortLink → PortLink) : (s.uLink n f).deadTags = s.deadTags := rfl
@[simp] theorem uLink_ptu (n : Nat) (f : PortLink → PortLink) : (s.uLink n f).ptu = s.ptu := rfl
@[simp] theorem uLink_clu (n : Nat) (f : PortLink → PortLink) : (s.uLink n f).clu = s.clu := rfl
@[simp] theorem uLink_seqs (n : Nat) (f : PortLink → PortLink) : (s.uLink n f).seqs = s.seqs := rfl
@[simp] theorem uLink_xfr (n : Nat) (f : PortLink → PortLink) : (s.uLink n f).xfr = s.xfr := rfl
@[simp] theorem uLink_col (n : Nat) (f : PortLink → PortLink) : (s.uLink n f).col = s.col := rfl
@[simp] theorem uLink_ras (n : Nat) (f : PortLink → PortLink) : (s.uLink n f).ras = s.ras := rfl
@[simp] theorem uLink_tab (n : Nat) (f : PortLink → PortLink) : (s.uLink n f).tab = s.tab := rfl
@[simp] theorem uLink_fab (n : Nat) (f : PortLink → PortLink) : (s.uLink n f).fab = s.fab := rfl
@[simp] theorem uLink_lane (n : Nat) (f : PortLink → PortLink) : (s.uLink n f).lane = s.lane := rfl
@[simp] theorem uLink_qos (n : Nat) (f : PortLink → PortLink) : (s.uLink n f).qos = s.qos := rfl
@[simp] theorem uLink_evt (n : Nat) (f : PortLink → PortLink) : (s.uLink n f).evt = s.evt := rfl
@[simp] theorem uLink_rot (n : Nat) (f : PortLink → PortLink) : (s.uLink n f).rot = s.rot := rfl
@[simp] theorem uLink_pwr (n : Nat) (f : PortLink → PortLink) : (s.uLink n f).pwr = s.pwr := rfl
@[simp] theorem uLink_pci (n : Nat) (f : PortLink → PortLink) : (s.uLink n f).pci = s.pci := rfl
@[simp] theorem uLink_fmtBuf (n : Nat) (f : PortLink → PortLink) : (s.uLink n f).fmtBuf = s.fmtBuf := rfl
@[simp] theorem uLink_crc (n : Nat) (f : PortLink → PortLink) : (s.uLink n f).crc = s.crc := rfl

@[simp] theorem uLanes_regs (n : Nat) (f : PortLanes → PortLanes) : (s.uLanes n f).regs = s.regs := rfl
@[simp] theorem uLanes_stage (n : Nat) (f : PortLanes → PortLanes) : (s.uLanes n f).stage = s.stage := rfl
@[simp] theorem uLanes_pending (n : Nat) (f : PortLanes → PortLanes) : (s.uLanes n f).pending = s.pending := rfl
@[simp] theorem uLanes_free (n : Nat) (f : PortLanes → PortLanes) : (s.uLanes n f).free = s.free := rfl
@[simp] theorem uLanes_mem (n : Nat) (f : PortLanes → PortLanes) : (s.uLanes n f).mem = s.mem := rfl
@[simp] theorem uLanes_home (n : Nat) (f : PortLanes → PortLanes) : (s.uLanes n f).home = s.home := rfl
@[simp] theorem uLanes_txns (n : Nat) (f : PortLanes → PortLanes) : (s.uLanes n f).txns = s.txns := rfl
@[simp] theorem uLanes_keys (n : Nat) (f : PortLanes → PortLanes) : (s.uLanes n f).keys = s.keys := rfl
@[simp] theorem uLanes_outs (n : Nat) (f : PortLanes → PortLanes) : (s.uLanes n f).outs = s.outs := rfl
@[simp] theorem uLanes_deadTags (n : Nat) (f : PortLanes → PortLanes) : (s.uLanes n f).deadTags = s.deadTags := rfl
@[simp] theorem uLanes_ptu (n : Nat) (f : PortLanes → PortLanes) : (s.uLanes n f).ptu = s.ptu := rfl
@[simp] theorem uLanes_clu (n : Nat) (f : PortLanes → PortLanes) : (s.uLanes n f).clu = s.clu := rfl
@[simp] theorem uLanes_seqs (n : Nat) (f : PortLanes → PortLanes) : (s.uLanes n f).seqs = s.seqs := rfl
@[simp] theorem uLanes_xfr (n : Nat) (f : PortLanes → PortLanes) : (s.uLanes n f).xfr = s.xfr := rfl
@[simp] theorem uLanes_col (n : Nat) (f : PortLanes → PortLanes) : (s.uLanes n f).col = s.col := rfl
@[simp] theorem uLanes_ras (n : Nat) (f : PortLanes → PortLanes) : (s.uLanes n f).ras = s.ras := rfl
@[simp] theorem uLanes_tab (n : Nat) (f : PortLanes → PortLanes) : (s.uLanes n f).tab = s.tab := rfl
@[simp] theorem uLanes_fab (n : Nat) (f : PortLanes → PortLanes) : (s.uLanes n f).fab = s.fab := rfl
@[simp] theorem uLanes_link (n : Nat) (f : PortLanes → PortLanes) : (s.uLanes n f).link = s.link := rfl
@[simp] theorem uLanes_qos (n : Nat) (f : PortLanes → PortLanes) : (s.uLanes n f).qos = s.qos := rfl
@[simp] theorem uLanes_evt (n : Nat) (f : PortLanes → PortLanes) : (s.uLanes n f).evt = s.evt := rfl
@[simp] theorem uLanes_rot (n : Nat) (f : PortLanes → PortLanes) : (s.uLanes n f).rot = s.rot := rfl
@[simp] theorem uLanes_pwr (n : Nat) (f : PortLanes → PortLanes) : (s.uLanes n f).pwr = s.pwr := rfl
@[simp] theorem uLanes_pci (n : Nat) (f : PortLanes → PortLanes) : (s.uLanes n f).pci = s.pci := rfl
@[simp] theorem uLanes_fmtBuf (n : Nat) (f : PortLanes → PortLanes) : (s.uLanes n f).fmtBuf = s.fmtBuf := rfl
@[simp] theorem uLanes_crc (n : Nat) (f : PortLanes → PortLanes) : (s.uLanes n f).crc = s.crc := rfl

@[simp] theorem setTxn_regs (k : Nat) (t : Txn) : (s.setTxn k t).regs = s.regs := rfl
@[simp] theorem setTxn_stage (k : Nat) (t : Txn) : (s.setTxn k t).stage = s.stage := rfl
@[simp] theorem setTxn_pending (k : Nat) (t : Txn) : (s.setTxn k t).pending = s.pending := rfl
@[simp] theorem setTxn_free (k : Nat) (t : Txn) : (s.setTxn k t).free = s.free := rfl
@[simp] theorem setTxn_mem (k : Nat) (t : Txn) : (s.setTxn k t).mem = s.mem := rfl
@[simp] theorem setTxn_home (k : Nat) (t : Txn) : (s.setTxn k t).home = s.home := rfl
@[simp] theorem setTxn_keys (k : Nat) (t : Txn) : (s.setTxn k t).keys = s.keys := rfl
@[simp] theorem setTxn_outs (k : Nat) (t : Txn) : (s.setTxn k t).outs = s.outs := rfl
@[simp] theorem setTxn_deadTags (k : Nat) (t : Txn) : (s.setTxn k t).deadTags = s.deadTags := rfl
@[simp] theorem setTxn_ptu (k : Nat) (t : Txn) : (s.setTxn k t).ptu = s.ptu := rfl
@[simp] theorem setTxn_clu (k : Nat) (t : Txn) : (s.setTxn k t).clu = s.clu := rfl
@[simp] theorem setTxn_seqs (k : Nat) (t : Txn) : (s.setTxn k t).seqs = s.seqs := rfl
@[simp] theorem setTxn_xfr (k : Nat) (t : Txn) : (s.setTxn k t).xfr = s.xfr := rfl
@[simp] theorem setTxn_col (k : Nat) (t : Txn) : (s.setTxn k t).col = s.col := rfl
@[simp] theorem setTxn_ras (k : Nat) (t : Txn) : (s.setTxn k t).ras = s.ras := rfl
@[simp] theorem setTxn_tab (k : Nat) (t : Txn) : (s.setTxn k t).tab = s.tab := rfl
@[simp] theorem setTxn_fab (k : Nat) (t : Txn) : (s.setTxn k t).fab = s.fab := rfl
@[simp] theorem setTxn_link (k : Nat) (t : Txn) : (s.setTxn k t).link = s.link := rfl
@[simp] theorem setTxn_lane (k : Nat) (t : Txn) : (s.setTxn k t).lane = s.lane := rfl
@[simp] theorem setTxn_qos (k : Nat) (t : Txn) : (s.setTxn k t).qos = s.qos := rfl
@[simp] theorem setTxn_evt (k : Nat) (t : Txn) : (s.setTxn k t).evt = s.evt := rfl
@[simp] theorem setTxn_rot (k : Nat) (t : Txn) : (s.setTxn k t).rot = s.rot := rfl
@[simp] theorem setTxn_pwr (k : Nat) (t : Txn) : (s.setTxn k t).pwr = s.pwr := rfl
@[simp] theorem setTxn_pci (k : Nat) (t : Txn) : (s.setTxn k t).pci = s.pci := rfl
@[simp] theorem setTxn_fmtBuf (k : Nat) (t : Txn) : (s.setTxn k t).fmtBuf = s.fmtBuf := rfl
@[simp] theorem setTxn_crc (k : Nat) (t : Txn) : (s.setTxn k t).crc = s.crc := rfl

@[simp] theorem wr_stage (f : Fld) (i v : Nat) : (s.wr f i v).stage = s.stage := rfl
@[simp] theorem wr_pending (f : Fld) (i v : Nat) : (s.wr f i v).pending = s.pending := rfl
@[simp] theorem wr_free (f : Fld) (i v : Nat) : (s.wr f i v).free = s.free := rfl
@[simp] theorem wr_mem (f : Fld) (i v : Nat) : (s.wr f i v).mem = s.mem := rfl
@[simp] theorem wr_home (f : Fld) (i v : Nat) : (s.wr f i v).home = s.home := rfl
@[simp] theorem wr_txns (f : Fld) (i v : Nat) : (s.wr f i v).txns = s.txns := rfl
@[simp] theorem wr_keys (f : Fld) (i v : Nat) : (s.wr f i v).keys = s.keys := rfl
@[simp] theorem wr_outs (f : Fld) (i v : Nat) : (s.wr f i v).outs = s.outs := rfl
@[simp] theorem wr_deadTags (f : Fld) (i v : Nat) : (s.wr f i v).deadTags = s.deadTags := rfl
@[simp] theorem wr_ptu (f : Fld) (i v : Nat) : (s.wr f i v).ptu = s.ptu := rfl
@[simp] theorem wr_clu (f : Fld) (i v : Nat) : (s.wr f i v).clu = s.clu := rfl
@[simp] theorem wr_seqs (f : Fld) (i v : Nat) : (s.wr f i v).seqs = s.seqs := rfl
@[simp] theorem wr_xfr (f : Fld) (i v : Nat) : (s.wr f i v).xfr = s.xfr := rfl
@[simp] theorem wr_col (f : Fld) (i v : Nat) : (s.wr f i v).col = s.col := rfl
@[simp] theorem wr_ras (f : Fld) (i v : Nat) : (s.wr f i v).ras = s.ras := rfl
@[simp] theorem wr_tab (f : Fld) (i v : Nat) : (s.wr f i v).tab = s.tab := rfl
@[simp] theorem wr_fab (f : Fld) (i v : Nat) : (s.wr f i v).fab = s.fab := rfl
@[simp] theorem wr_link (f : Fld) (i v : Nat) : (s.wr f i v).link = s.link := rfl
@[simp] theorem wr_lane (f : Fld) (i v : Nat) : (s.wr f i v).lane = s.lane := rfl
@[simp] theorem wr_qos (f : Fld) (i v : Nat) : (s.wr f i v).qos = s.qos := rfl
@[simp] theorem wr_evt (f : Fld) (i v : Nat) : (s.wr f i v).evt = s.evt := rfl
@[simp] theorem wr_rot (f : Fld) (i v : Nat) : (s.wr f i v).rot = s.rot := rfl
@[simp] theorem wr_pwr (f : Fld) (i v : Nat) : (s.wr f i v).pwr = s.pwr := rfl
@[simp] theorem wr_pci (f : Fld) (i v : Nat) : (s.wr f i v).pci = s.pci := rfl
@[simp] theorem wr_fmtBuf (f : Fld) (i v : Nat) : (s.wr f i v).fmtBuf = s.fmtBuf := rfl
@[simp] theorem wr_crc (f : Fld) (i v : Nat) : (s.wr f i v).crc = s.crc := rfl

@[simp] theorem wrB_stage (f : Fld) (i : Nat) (b : Bool) : (s.wrB f i b).stage = s.stage := rfl
@[simp] theorem wrB_pending (f : Fld) (i : Nat) (b : Bool) : (s.wrB f i b).pending = s.pending := rfl
@[simp] theorem wrB_free (f : Fld) (i : Nat) (b : Bool) : (s.wrB f i b).free = s.free := rfl
@[simp] theorem wrB_mem (f : Fld) (i : Nat) (b : Bool) : (s.wrB f i b).mem = s.mem := rfl
@[simp] theorem wrB_home (f : Fld) (i : Nat) (b : Bool) : (s.wrB f i b).home = s.home := rfl
@[simp] theorem wrB_txns (f : Fld) (i : Nat) (b : Bool) : (s.wrB f i b).txns = s.txns := rfl
@[simp] theorem wrB_keys (f : Fld) (i : Nat) (b : Bool) : (s.wrB f i b).keys = s.keys := rfl
@[simp] theorem wrB_outs (f : Fld) (i : Nat) (b : Bool) : (s.wrB f i b).outs = s.outs := rfl
@[simp] theorem wrB_deadTags (f : Fld) (i : Nat) (b : Bool) : (s.wrB f i b).deadTags = s.deadTags := rfl
@[simp] theorem wrB_ptu (f : Fld) (i : Nat) (b : Bool) : (s.wrB f i b).ptu = s.ptu := rfl
@[simp] theorem wrB_clu (f : Fld) (i : Nat) (b : Bool) : (s.wrB f i b).clu = s.clu := rfl
@[simp] theorem wrB_seqs (f : Fld) (i : Nat) (b : Bool) : (s.wrB f i b).seqs = s.seqs := rfl
@[simp] theorem wrB_xfr (f : Fld) (i : Nat) (b : Bool) : (s.wrB f i b).xfr = s.xfr := rfl
@[simp] theorem wrB_col (f : Fld) (i : Nat) (b : Bool) : (s.wrB f i b).col = s.col := rfl
@[simp] theorem wrB_ras (f : Fld) (i : Nat) (b : Bool) : (s.wrB f i b).ras = s.ras := rfl
@[simp] theorem wrB_tab (f : Fld) (i : Nat) (b : Bool) : (s.wrB f i b).tab = s.tab := rfl
@[simp] theorem wrB_fab (f : Fld) (i : Nat) (b : Bool) : (s.wrB f i b).fab = s.fab := rfl
@[simp] theorem wrB_link (f : Fld) (i : Nat) (b : Bool) : (s.wrB f i b).link = s.link := rfl
@[simp] theorem wrB_lane (f : Fld) (i : Nat) (b : Bool) : (s.wrB f i b).lane = s.lane := rfl
@[simp] theorem wrB_qos (f : Fld) (i : Nat) (b : Bool) : (s.wrB f i b).qos = s.qos := rfl
@[simp] theorem wrB_evt (f : Fld) (i : Nat) (b : Bool) : (s.wrB f i b).evt = s.evt := rfl
@[simp] theorem wrB_rot (f : Fld) (i : Nat) (b : Bool) : (s.wrB f i b).rot = s.rot := rfl
@[simp] theorem wrB_pwr (f : Fld) (i : Nat) (b : Bool) : (s.wrB f i b).pwr = s.pwr := rfl
@[simp] theorem wrB_pci (f : Fld) (i : Nat) (b : Bool) : (s.wrB f i b).pci = s.pci := rfl
@[simp] theorem wrB_fmtBuf (f : Fld) (i : Nat) (b : Bool) : (s.wrB f i b).fmtBuf = s.fmtBuf := rfl
@[simp] theorem wrB_crc (f : Fld) (i : Nat) (b : Bool) : (s.wrB f i b).crc = s.crc := rfl

@[simp] theorem bump_stage (f : Fld) (i n : Nat) : (s.bump f i n).stage = s.stage := rfl
@[simp] theorem bump_pending (f : Fld) (i n : Nat) : (s.bump f i n).pending = s.pending := rfl
@[simp] theorem bump_free (f : Fld) (i n : Nat) : (s.bump f i n).free = s.free := rfl
@[simp] theorem bump_mem (f : Fld) (i n : Nat) : (s.bump f i n).mem = s.mem := rfl
@[simp] theorem bump_home (f : Fld) (i n : Nat) : (s.bump f i n).home = s.home := rfl
@[simp] theorem bump_txns (f : Fld) (i n : Nat) : (s.bump f i n).txns = s.txns := rfl
@[simp] theorem bump_keys (f : Fld) (i n : Nat) : (s.bump f i n).keys = s.keys := rfl
@[simp] theorem bump_outs (f : Fld) (i n : Nat) : (s.bump f i n).outs = s.outs := rfl
@[simp] theorem bump_deadTags (f : Fld) (i n : Nat) : (s.bump f i n).deadTags = s.deadTags := rfl
@[simp] theorem bump_ptu (f : Fld) (i n : Nat) : (s.bump f i n).ptu = s.ptu := rfl
@[simp] theorem bump_clu (f : Fld) (i n : Nat) : (s.bump f i n).clu = s.clu := rfl
@[simp] theorem bump_seqs (f : Fld) (i n : Nat) : (s.bump f i n).seqs = s.seqs := rfl
@[simp] theorem bump_xfr (f : Fld) (i n : Nat) : (s.bump f i n).xfr = s.xfr := rfl
@[simp] theorem bump_col (f : Fld) (i n : Nat) : (s.bump f i n).col = s.col := rfl
@[simp] theorem bump_ras (f : Fld) (i n : Nat) : (s.bump f i n).ras = s.ras := rfl
@[simp] theorem bump_tab (f : Fld) (i n : Nat) : (s.bump f i n).tab = s.tab := rfl
@[simp] theorem bump_fab (f : Fld) (i n : Nat) : (s.bump f i n).fab = s.fab := rfl
@[simp] theorem bump_link (f : Fld) (i n : Nat) : (s.bump f i n).link = s.link := rfl
@[simp] theorem bump_lane (f : Fld) (i n : Nat) : (s.bump f i n).lane = s.lane := rfl
@[simp] theorem bump_qos (f : Fld) (i n : Nat) : (s.bump f i n).qos = s.qos := rfl
@[simp] theorem bump_evt (f : Fld) (i n : Nat) : (s.bump f i n).evt = s.evt := rfl
@[simp] theorem bump_rot (f : Fld) (i n : Nat) : (s.bump f i n).rot = s.rot := rfl
@[simp] theorem bump_pwr (f : Fld) (i n : Nat) : (s.bump f i n).pwr = s.pwr := rfl
@[simp] theorem bump_pci (f : Fld) (i n : Nat) : (s.bump f i n).pci = s.pci := rfl
@[simp] theorem bump_fmtBuf (f : Fld) (i n : Nat) : (s.bump f i n).fmtBuf = s.fmtBuf := rfl
@[simp] theorem bump_crc (f : Fld) (i n : Nat) : (s.bump f i n).crc = s.crc := rfl

/-! ### Fields of registers -/

/-- Keys of different registers differ. -/
theorem key_ne {r r' : Reg} {i i' : Nat} (h : r'.code ≠ r.code) : r'.key i' ≠ r.key i := by
  unfold Reg.key; omega

/-- Keys of different instances differ. -/
theorem key_ne_inst {r r' : Reg} {i i' : Nat} (h : i' % 32768 ≠ i % 32768) : r'.key i' ≠ r.key i := by
  unfold Reg.key; omega

theorem rd_wr_same (f : Fld) (i v : Nat) (hs : SMap.sorted s.regs = true) (hf : f.lo + f.width ≤ 128) :
    (s.wr f i v).rd f i = v % 2 ^ f.width := by
  unfold rd wr
  rw [reg_setReg_same _ _ _ hs, bits_setBits_same _ _ hf]

/-- Another field of the same instance. -/
theorem rd_wr_beside {f g : Fld} (i v : Nat) (hs : SMap.sorted s.regs = true) (hr : g.reg = f.reg) (hf : f.lo + f.width ≤ 128)
    (hd : g.lo + g.width ≤ f.lo ∨ f.lo + f.width ≤ g.lo) : (s.wr f i v).rd g i = s.rd g i := by
  unfold rd wr
  rw [hr, reg_setReg_same _ _ _ hs]
  rcases hd with hd | hd
  · exact bits_setBits_below _ _ hf hd
  · exact bits_setBits_above _ _ hf hd

/-- A field of another register or instance. -/
theorem rd_wr_other {f g : Fld} {i j : Nat} (v : Nat) (h : g.reg.key j ≠ f.reg.key i) : (s.wr f i v).rd g j = s.rd g j := by
  unfold rd wr
  rw [reg_setReg_other _ h]

theorem sorted_wr (f : Fld) (i v : Nat) (hs : SMap.sorted s.regs = true) : SMap.sorted (s.wr f i v).regs = true :=
  SMap.sorted_putC hs

/-! ### The settled state -/

/-- No line of a home waits to be looked at: a command's end changes nothing. -/
theorem settle_of_wake (h : s.home.wake = []) : s.settle = s := by
  have hd : ∀ n, drain n s = s := by
    intro n
    cases n with
    | zero => rfl
    | succ n => unfold drain; rw [h]
  unfold settle
  rw [hd]
  have : ({ s.home with wake := [] } : Home) = s.home := by rw [← h]
  exact congrArg (fun h => ({ s with home := h } : State)) this

@[simp] theorem settle_wake : s.settle.home.wake = [] := rfl

end Sys2Proof.Machine.State
end

