-- ==== Sys2Proof/Laws/Registers.lean ====
section
/-! SUPPORT. What a register write does, once for all registers: the fields it changes, and the conditions it meets. -/

namespace Sys2Proof.Machine

/-! ### Fields of a register -/

/-- The fields of every register lie apart and inside 128 bits. -/
theorem fields_apart (r : Reg) :
    r.fields.Pairwise (fun f g => f.lo + f.width ≤ g.lo ∨ g.lo + g.width ≤ f.lo) ∧ ∀ f ∈ r.fields, f.lo + f.width ≤ 128 := by
  cases r <;> decide +kernel

theorem Field.mask_getLsbD (f : Field) (j : Nat) (hf : f.lo + f.width ≤ 128) :
    f.mask.getLsbD j = (decide (f.lo ≤ j) && decide (j < f.lo + f.width)) := by
  unfold Field.mask
  rw [BitVec.getLsbD_ofNat, Nat.testBit_mul_two_pow, Nat.testBit_two_pow_sub_one]
  by_cases h1 : f.lo ≤ j <;> by_cases h2 : j < f.lo + f.width <;> simp [h1, h2] <;> omega

theorem bitsOf_getLsbD (r : Reg) (q : Field → Bool) (j : Nat) :
    (r.bitsOf q).getLsbD j = r.fields.any fun f => q f && f.mask.getLsbD j := by
  unfold Reg.bitsOf
  suffices h : ∀ (l : List Field) (m : BitVec 128),
      (l.foldl (fun m f => if q f then m ||| f.mask else m) m).getLsbD j = (m.getLsbD j || l.any fun f => q f && f.mask.getLsbD j) by
    rw [h]; simp
  intro l
  induction l with
  | nil => simp
  | cons f l ih =>
    intro m
    rw [List.foldl_cons, ih]
    by_cases hq : q f <;> simp [hq, Bool.or_assoc]

/-- A bit inside a field belongs to a set of fields exactly when the field does. -/
theorem bitsOf_in {r : Reg} {f : Field} (hf : f ∈ r.fields) (q : Field → Bool) {j : Nat} (h1 : f.lo ≤ j) (h2 : j < f.lo + f.width) :
    (r.bitsOf q).getLsbD j = q f := by
  obtain ⟨hp, hw⟩ := fields_apart r
  rw [bitsOf_getLsbD]
  by_cases hq : q f
  · rw [hq, List.any_eq_true]
    exact ⟨f, hf, by rw [hq, f.mask_getLsbD j (hw f hf)]; simp [h1, h2]⟩
  · simp only [hq]
    rw [Bool.eq_false_iff]
    intro hc
    obtain ⟨g, hg, hgq⟩ := List.any_eq_true.1 hc
    rw [Bool.and_eq_true, g.mask_getLsbD j (hw g hg), Bool.and_eq_true, decide_eq_true_eq, decide_eq_true_eq] at hgq
    obtain ⟨hq', h3, h4⟩ := hgq
    have : f = g := by
      by_contra hne
      have h1' : r.fields.Pairwise (fun f g : Field => f ≠ g → f.lo + f.width ≤ g.lo ∨ g.lo + g.width ≤ f.lo) := hp.imp (by exact fun h _ => h)
      have h2' : r.fields.Pairwise (flip fun f g : Field => f ≠ g → f.lo + f.width ≤ g.lo ∨ g.lo + g.width ≤ f.lo) :=
        hp.imp (fun h _ => h.symm)
      have := h1'.forall_of_forall_of_flip (fun x _ h => absurd rfl h) h2' hf hg hne
      omega
    subst this
    exact hq hq'

/-- Two values that agree on the bits of a field. -/
theorem bits_congr {a b : BitVec 128} {lo w : Nat} (h : ∀ j, lo ≤ j → j < lo + w → a.getLsbD j = b.getLsbD j) :
    State.bits a lo w = State.bits b lo w := by
  rw [State.bits_eq, State.bits_eq]
  congr 1
  apply BitVec.eq_of_getLsbD_eq
  intro i hi
  rw [BitVec.getLsbD_extractLsb', BitVec.getLsbD_extractLsb']
  simp [hi, h (lo + i) (by omega) (by omega)]

theorem bits_zero {a : BitVec 128} {lo w : Nat} (h : ∀ j, lo ≤ j → j < lo + w → a.getLsbD j = false) : State.bits a lo w = 0 := by
  rw [bits_congr (b := 0) fun j h1 h2 => by simp [h j h1 h2]]
  simp [State.bits]

section merge
variable {r : Reg} {f : Field} {base mask data : BitVec 128}

/-- One bit of a merged value inside field f, by the kind of the field. -/
theorem merge_getLsbD (hf : f ∈ r.fields) {j : Nat} (h1 : f.lo ≤ j) (h2 : j < f.lo + f.width) (hj : j < 128) :
    (merge r false base mask data).getLsbD j =
      (if f.stored then (if mask.getLsbD j then data.getLsbD j else base.getLsbD j)
       else if f.acc == .w1c then base.getLsbD j && !(data.getLsbD j && mask.getLsbD j)
       else if f.acc == .wo then data.getLsbD j && mask.getLsbD j
       else base.getLsbD j) := by
  unfold merge
  simp only [BitVec.getLsbD_or, BitVec.getLsbD_and, BitVec.getLsbD_not, hj, decide_true, Bool.true_and, bitsOf_in hf _ h1 h2,
    Bool.false_and, Bool.or_false]
  unfold Field.stored
  cases hb : base.getLsbD j <;> cases hm : mask.getLsbD j <;> cases hd : data.getLsbD j <;> cases f.acc <;> rfl

/-- A stored field whose bits are all written takes the data. -/
theorem merge_stored (hf : f ∈ r.fields) (hs : f.stored = true) (hm : ∀ j, f.lo ≤ j → j < f.lo + f.width → mask.getLsbD j = true) :
    State.bits (merge r false base mask data) f.lo f.width = State.bits data f.lo f.width :=
  bits_congr fun j h1 h2 => by
    have := (fields_apart r).2 f hf
    rw [merge_getLsbD hf h1 h2 (by omega), if_pos hs, if_pos (hm j h1 h2)]

/-- A field that no bit of the write names keeps its value, unless it is WO. -/
theorem merge_outside (hf : f ∈ r.fields) (hw : f.acc ≠ .wo) (hm : ∀ j, f.lo ≤ j → j < f.lo + f.width → mask.getLsbD j = false) :
    State.bits (merge r false base mask data) f.lo f.width = State.bits base f.lo f.width :=
  bits_congr fun j h1 h2 => by
    have := (fields_apart r).2 f hf
    rw [merge_getLsbD hf h1 h2 (by omega), hm j h1 h2]
    cases ha : f.acc <;> simp_all [Field.stored]

/-- A read-only field keeps its value. -/
theorem merge_ro (hf : f ∈ r.fields) (hw : f.writable = false) :
    State.bits (merge r false base mask data) f.lo f.width = State.bits base f.lo f.width :=
  bits_congr fun j h1 h2 => by
    have := (fields_apart r).2 f hf
    rw [merge_getLsbD hf h1 h2 (by omega)]
    unfold Field.writable at hw
    cases ha : f.acc <;> simp_all [Field.stored]

/-- A WO field whose bits are all written holds the data while the write acts. -/
theorem merge_wo (hf : f ∈ r.fields) (hw : f.acc = .wo) (hm : ∀ j, f.lo ≤ j → j < f.lo + f.width → mask.getLsbD j = true) :
    State.bits (merge r false base mask data) f.lo f.width = State.bits data f.lo f.width :=
  bits_congr fun j h1 h2 => by
    have := (fields_apart r).2 f hf
    rw [merge_getLsbD hf h1 h2 (by omega), hm j h1 h2]
    simp [hw, Field.stored]

end merge

/-- The bits of word k. -/
theorem wordBits_getLsbD {k j : Nat} (hk : k < 4) : (wordBits k).getLsbD j = (decide (32 * k ≤ j) && decide (j < 32 * k + 32)) := by
  unfold wordBits
  have : (0xFFFFFFFF : Nat) = 2 ^ 32 - 1 := rfl
  rw [BitVec.getLsbD_ofNat, this, Nat.testBit_mul_two_pow, Nat.testBit_two_pow_sub_one]
  by_cases h1 : 32 * k ≤ j <;> by_cases h2 : j < 32 * k + 32 <;> simp [h1, h2] <;> omega

theorem wordBits_ne_zero {k : Nat} (hk : k < 4) : wordBits k ≠ 0 := by
  intro h
  have := wordBits_getLsbD (k := k) (j := 32 * k) hk
  rw [h] at this
  simp at this

/-- Bits of the data of a word write. -/
theorem bits_wordData (p : Path) (r : Reg) (i : Nat) {k data lo w : Nat} (h1 : 32 * k ≤ lo) (h2 : lo + w ≤ 32 * k + 32) (hk : k < 4) :
    State.bits (wordWrite p r i k data).data lo w = data / 2 ^ (lo - 32 * k) % 2 ^ w := by
  unfold wordWrite State.bits
  have hlt : data % 2 ^ 32 * 2 ^ (32 * k) < 2 ^ 128 := by
    calc data % 2 ^ 32 * 2 ^ (32 * k) < 2 ^ 32 * 2 ^ (32 * k) := Nat.mul_lt_mul_of_pos_right (Nat.mod_lt _ (by decide)) (Nat.two_pow_pos _)
      _ ≤ 2 ^ 128 := by rw [← Nat.pow_add]; exact Nat.pow_le_pow_right (by decide) (by omega)
  simp only [BitVec.toNat_ofNat]
  rw [Nat.mod_eq_of_lt hlt]
  obtain ⟨c, rfl⟩ : ∃ c, lo = 32 * k + c := ⟨lo - 32 * k, by omega⟩
  rw [Nat.pow_add 2 (32 * k) c, ← Nat.div_div_eq_div_mul, Nat.mul_div_cancel _ (Nat.two_pow_pos _)]
  have e : 32 * k + c - 32 * k = c := by omega
  rw [e]
  have hc : (32 : Nat) = c + (w + (32 - c - w)) := by omega
  rw [hc, Nat.pow_add 2 c, Nat.mod_mul_right_div_self, Nat.pow_add 2 w, Nat.mod_mul_right_mod]

namespace State

variable {s : State}

/-- A word write that its register accepts is performed. -/
theorem regWrite_accepted {p : Path} {r : Reg} {i k data : Nat} (hk : k < 4) (hr : r ≠ .engFmt)
    (h : s.accepts (wordWrite p r i k data)) :
    s.regWrite p r i k data = s.perform (wordWrite p r i k data) (s.writeBase (wordWrite p r i k data)) (s.newVal (wordWrite p r i k data)) := by
  obtain ⟨h1, h2, h3, h4, h5⟩ := h
  unfold regWrite
  dsimp only [wordWrite] at h1
  dsimp only
  rw [h1]
  show s.writeWord (wordWrite p r i k data) = _
  unfold writeWord
  have hm : (wordWrite p r i k data).mask ≠ 0 := wordBits_ne_zero hk
  rw [if_neg (by simp only [decide_eq_true_eq, Bool.or_eq_true, h3, Bool.false_eq_true, or_false]; exact hm)]
  dsimp only
  rw [h2]
  simp only [Bool.not_true, Bool.false_and, if_false, Bool.false_eq_true]
  have hr' : (wordWrite p r i k data).reg ≠ .engFmt := hr
  rw [if_neg hr']
  unfold newVal at h4 h5
  rw [show judge (wordWrite p r i k data) (s.writeBase (wordWrite p r i k data)) (merge (wordWrite p r i k data).reg false
    (s.writeBase (wordWrite p r i k data)) (wordWrite p r i k data).mask (wordWrite p r i k data).data) = _ from h4]
  dsimp only
  rw [h5]
  rfl

end State

end Sys2Proof.Machine
end

