-- ==== Sys2Proof/WellFormed.lean ====
section
/-! DEFINITION. Which commands are well formed: the operands fit the row that carries them. A command that is not well formed has an
effect of its own all the same (a row makes its packet's opcode, its word's OP byte and its register's field what its name means). -/

namespace Sys2Proof

/-- A packet carries a row's opcode on its channel (Table 11-4). -/
def Packet.isOp (q : Packet) (op chan : Nat) : Bool := q.opcode.toNat == op && q.chan.toNat == chan

/-- A fence probe travels on REQ or COL (R250). -/
def Packet.probe (q : Packet) : Bool := q.opcode.toNat == 0x01 && (q.chan == 0 || q.chan == 3)

/-- An instruction word carries a row's OP (Table 07-13). -/
def Fetch.isOp (w : Fetch) (op : Nat) : Bool := w.word.toNat % 256 == op

/-- The n bits of a register's data from lo hold what the row's name means. -/
def fieldIs {w : Nat} (data : BitVec w) (lo n v : Nat) : Bool := data.toNat / 2 ^ lo % 2 ^ n == v

/-- The slots of one piece of a flit's body. -/
def BodyItem.slots : BodyItem → Nat
  | .start _ n => n
  | .more n => n
  | .empty => 1

/-- A flit's body fills at most its slots (R260). -/
def Flit.holds (f : Flit) (n : Nat) : Bool := decide ((f.body.map BodyItem.slots).sum ≤ n)

/-- Whether a command's operands fit its row. -/
def Instr.wf : Instr → Bool
  | .topNodeIdWrite _ _ => true
  | .extentCreate _ data => fieldIs data 12 4 1
  | .setRights _ data => fieldIs data 12 4 2
  | .withdraw _ data => fieldIs data 12 4 3
  | .extentFillDone _ => true
  | .withdrawalDrained _ => true
  | .grpMatchWrite _ _ _ _ => true
  | .bind _ _ data => fieldIs data 28 2 1
  | .release _ _ data => fieldIs data 28 2 2
  | .declareDead _ _ data => fieldIs data 28 2 3
  | .slotReleased _ => true
  | .controllerIssue _ _ => true
  | .dramReadDone _ _ => true
  | .refreshDue _ _ => true
  | .dimmThermalRead _ _ _ => true
  | .selfRefreshIdleExpiry _ => true
  | .selfRefreshEntryDone _ => true
  | .selfRefreshExit _ _ => true
  | .selfRefreshExitDone _ => true
  | .patrolRead _ => true
  | .mscFlush _ _ data => fieldIs data 16 1 1
  | .mscFlushDone _ => true
  | .accessCountAging _ => true
  | .hotqHeadWrite _ _ _ => true
  | .migReserveWrite _ _ _ => true
  | .promote _ _ data => fieldIs data 38 2 1
  | .demote _ _ data => fieldIs data 38 2 2
  | .migrationLineMove _ _ _ => true
  | .migrationMoveDone _ => true
  | .frameSweep _ => true
  | .dmcCtrlWrite _ _ _ => true
  | .stackTrainingDone _ _ => true
  | .dimmTrainingDone _ _ _ => true
  | .rdShared q _ _ => q.isOp 0x10 0
  | .rdOwn q _ _ => q.isOp 0x11 0
  | .upgrade q _ _ => q.isOp 0x12 0
  | .rdUnc q _ _ => q.isOp 0x13 0
  | .wrUnc q _ _ => q.isOp 0x14 0
  | .atomic q _ _ => q.isOp 0x15 0
  | .wbDirty q _ => q.isOp 0x16 0
  | .wbClean q _ => q.isOp 0x17 0
  | .invAck q => q.isOp 0x36 1
  | .fwdAck q => q.isOp 0x37 1
  | .fwdData q => q.isOp 0x38 1
  | .complete q => q.isOp 0x39 1
  | .dataUnc q => q.isOp 0x34 1
  | .done q => q.isOp 0x35 1
  | .status q => q.isOp 0x3B 1
  | .retryBackoffExpiry _ _ => true
  | .forwardTimeout _ _ _ => true
  | .directoryScrub _ _ _ => true
  | .walkSet _ _ _ => true
  | .sweepEnd _ => true
  | .txOpen q => q.isOp 0x40 0
  | .txRd q _ _ => q.isOp 0x41 0
  | .txWr q _ => q.isOp 0x42 0
  | .txAtomic q _ _ => q.isOp 0x43 0
  | .txCommit q => q.isOp 0x44 0
  | .txAbort q => q.isOp 0x45 0
  | .prepare _ _ _ => true
  | .ready _ _ _ => true
  | .apply _ _ _ => true
  | .applyLine _ _ _ _ => true
  | .applied _ _ _ => true
  | .txOpened q => q.isOp 0x47 1
  | .txNotice q => q.isOp 0x46 1
  | .txLifetimeExpiry _ _ => true
  | .txRecordExpiry _ _ => true
  | .txnKill _ data => fieldIs data 31 1 1
  | .nop _ _ w => w.isOp 0x00
  | .sli _ _ w _ => w.isOp 0x01
  | .sadd _ _ w _ => w.isOp 0x02
  | .ssub _ _ w _ => w.isOp 0x03
  | .smul _ _ w _ => w.isOp 0x04
  | .sand _ _ w _ => w.isOp 0x05
  | .sor _ _ w _ => w.isOp 0x06
  | .sxor _ _ w _ => w.isOp 0x07
  | .sshl _ _ w _ => w.isOp 0x08
  | .sshr _ _ w _ => w.isOp 0x09
  | .ssra _ _ w _ => w.isOp 0x0A
  | .beq _ _ w => w.isOp 0x10
  | .bne _ _ w => w.isOp 0x11
  | .blt _ _ w => w.isOp 0x12
  | .bge _ _ w => w.isOp 0x13
  | .sld _ _ w => w.isOp 0x18
  | .sst _ _ w => w.isOp 0x19
  | .sext _ _ w _ => w.isOp 0x1A
  | .wait _ _ w => w.isOp 0x1B
  | .atom _ _ w => w.isOp 0x1C
  | .endTask _ _ w => w.isOp 0x1D
  | .txopen _ _ w => w.isOp 0x20
  | .txcommit _ _ w => w.isOp 0x21
  | .txabort _ _ w => w.isOp 0x22
  | .txchk _ _ w => w.isOp 0x23
  | .vld _ _ w => w.isOp 0x28
  | .vst _ _ w _ => w.isOp 0x29
  | .vlds _ _ w _ => w.isOp 0x2A
  | .vsts _ _ w _ => w.isOp 0x2B
  | .vclr _ _ w _ => w.isOp 0x30
  | .vfma _ _ w _ => w.isOp 0x31
  | .wfma _ _ w _ => w.isOp 0x32
  | .wmax _ _ w _ => w.isOp 0x33
  | .wmin _ _ w _ => w.isOp 0x34
  | .wexp2 _ _ w _ => w.isOp 0x35
  | .wrcp _ _ w _ => w.isOp 0x36
  | .wrsq _ _ w _ => w.isOp 0x37
  | .wsqrt _ _ w _ => w.isOp 0x38
  | .wdiv _ _ w _ => w.isOp 0x39
  | .cvt _ _ w _ => w.isOp 0x3A
  | .qnt _ _ w _ => w.isOp 0x3B
  | .dot _ _ w _ => w.isOp 0x3C
  | .dotr _ _ w _ => w.isOp 0x3D
  | .wmac _ _ w _ => w.isOp 0x3E
  | .red _ _ w _ => w.isOp 0x3F
  | .wbc _ _ w _ => w.isOp 0x40
  | .refereeVerdict _ _ _ => true
  | .canary _ a b _ _ _ => a != b
  | .scalarCanary _ _ _ => true
  | .engFmtSubmit _ _ _ => true
  | .reduce _ _ => true
  | .scaleAcc _ _ => true
  | .optStep _ _ => true
  | .decodeAttn _ _ => true
  | .gatherReduce _ _ => true
  | .quantize _ _ => true
  | .casSweep _ _ => true
  | .user _ _ => true
  | .load _ data => fieldIs data 28 2 1
  | .unload _ data => fieldIs data 28 2 2
  | .cluQcfgWrite _ _ _ _ => true
  | .taskQueueRing _ _ _ => true
  | .task _ _ => true
  | .invalidate _ _ => true
  | .resume _ _ => true
  | .kill _ _ => true
  | .taskPlacement _ => true
  | .taskStart _ _ => true
  | .translationWalkDone _ _ => true
  | .walkRestart _ _ => true
  | .taskSaveDone _ _ => true
  | .taskRestoreDone _ _ _ => true
  | .invalidateDrained => true
  | .ptuAsWrite _ _ _ _ => true
  | .cluSaveWrite _ _ _ => true
  | .arm _ data => fieldIs data 8 2 1
  | .disarm _ data => fieldIs data 8 2 2
  | .abort _ data => fieldIs data 8 2 3
  | .colArm q _ _ => q.isOp 0x50 4
  | .colArmAck q _ _ => q.isOp 0x51 4
  | .colDisarm q _ => q.isOp 0x52 4
  | .colDisarmAck q => q.isOp 0x53 4
  | .colPut q => q.isOp 0x54 3
  | .colAbort q => q.isOp 0x57 3
  | .colTaskEnd _ _ => true
  | .colArmTimeout _ => true
  | .colRunTimeout _ => true
  | .colKill _ data => fieldIs data 31 1 1
  | .purge _ _ data => fieldIs data 31 1 1
  | .xfrRing q => q.isOp 0x60 0
  | .xfrQptrTailWrite _ _ _ => true
  | .xfrQcfgWrite _ _ _ _ => true
  | .copy _ _ => true
  | .copyTileTranslated _ => true
  | .copyTileDone _ => true
  | .queueAbort _ data => fieldIs data 8 2 1
  | .packetArrival _ q _ => decide (q.chan.toNat ≤ 4) && decide (q.len.toNat ≤ 5)
  | .nextHopChoice _ _ => true
  | .fenceProbe _ q _ => q.probe
  | .internalProbe _ q => q.probe && q.chan == 0
  | .fenceHoldExpiry _ _ _ _ => true
  | .holdLimitExpiry _ => true
  | .cplTimeoutExpiry _ _ => true
  | .mgtRd _ q => q.isOp 0x70 4
  | .mgtWr _ q => q.isOp 0x71 4
  | .rteRouteWrite _ _ _ _ => true
  | .bankHeldClear _ => true
  | .dataFlit _ f => f.holds 15
  | .idleFlit _ f => f.body.isEmpty
  | .nakFlit _ f _ => f.body.isEmpty
  | .initFlit _ b => decide (b.size.length = 20) && decide (b.freed.length = 20)
  | .flitTransmit _ => true
  | .rxBufferRelease _ _ _ => true
  | .idleAckExpiry _ => true
  | .ackTimeoutExpiry _ _ => true
  | .crdTimeoutExpiry _ _ => true
  | .initResend _ => true
  | .initTimeoutExpiry _ => true
  | .retrainTimeoutExpiry _ => true
  | .lossOfSignal _ => true
  | .downHoldExpiry _ => true
  | .linkEnable _ _ data => fieldIs data 0 1 1
  | .linkDisable _ _ data => fieldIs data 0 1 0
  | .linkRetrainCmd _ _ data => fieldIs data 1 1 1
  | .electricalDetect _ _ _ => true
  | .clockRecoveryLock _ _ _ => true
  | .blockLock _ _ _ => true
  | .polarityDetect _ _ _ => true
  | .laneMapping _ lanes _ => decide (lanes.length = 8)
  | .deskew _ _ => true
  | .fecLock _ => true
  | .equalisation _ => true
  | .stageTimeout _ => true
  | .trainBlock _ _ _ => true
  | .fecFrame _ _ symbols _ => symbols.length == 1400
  | .eiIdleExpiry _ => true
  | .eiEnter _ => true
  | .announcedIdleLimit _ => true
  | .eiExit _ => true
  | .laneHealthWindow _ => true
  | .unretire _ _ _ => true
  | .lanTestWrite _ _ _ _ => true
  | .eyeMarginGo _ _ _ data => fieldIs data 19 1 1
  | .eyeMarginDone _ _ _ => true
  | .leashRefill => true
  | .qosLeashWrite _ _ _ _ => true
  | .statsPeriodTick => true
  | .curtainCommit _ _ => true
  | .curtainRequest _ data => fieldIs data 0 1 1
  | .advanceSvn _ body => decide (body.length ≤ 4096)
  | .debugChallenge _ body => decide (body.length ≤ 4096)
  | .debugUnlock _ body => decide (body.length ≤ 4096)
  | .bindFlash _ body => decide (body.length ≤ 4096)
  | .flashRead _ body => decide (body.length ≤ 4096)
  | .flashWrite _ body => decide (body.length ≤ 4096)
  | .reset _ body => decide (body.length ≤ 4096)
  | .spdmRequest _ body => decide (body.length ≤ 4096)
  | .pqSign _ body => decide (body.length ≤ 4096)
  | .partitionCreate _ data => fieldIs data 4 2 1
  | .revoke _ data => fieldIs data 4 2 2
  | .revokeDrained _ => true
  | .allocate _ data => fieldIs data 12 2 1
  | .rotate _ data => fieldIs data 12 2 2
  | .destroy _ data => fieldIs data 12 2 3
  | .keySweepUnit _ _ _ => true
  | .linkKeySubmit _ _ _ => true
  | .secCoreMapWrite _ _ _ _ => true
  | .secPortMapWrite _ _ _ => true
  | .secFnWrite _ _ f _ => f != 0
  | .functionLevelReset _ _ => true
  | .roleSwap _ => true
  | .swapDrainExpiry _ => true
  | .stressTestDone _ _ _ => true
  | .startupTestDone _ sigs => decide (sigs.length = 9)
  | .test _ data => fieldIs data 8 3 1
  | .fence _ data => fieldIs data 8 3 2
  | .fenceRecordsWritten _ => true
  | .unfence _ data => fieldIs data 8 3 3
  | .historyCommit _ => true
  | .historyHalving => true
  | .feedLost _ => true
  | .feedRestored _ => true
  | .crcPass _ => true
  | .crcCommit _ _ data => fieldIs data 2 1 1
  | .crcRefWrite _ _ _ => true
  | .funcTimer _ _ => true
  | .errorRecordClear _ _ data => fieldIs data 31 1 1
  | .registerWrite _ _ _ bytes _ => decide (1 ≤ bytes) && decide (bytes ≤ 8)
  | .maskedWrite _ _ _ bytes _ => decide (1 ≤ bytes) && decide (bytes ≤ 8)
  | .evqEnable _ _ data => fieldIs data 4 1 1
  | .evqHeadWrite _ _ _ => true
  | .msixModerationExpiry _ => true
  | .evqWriteError _ => true
  | .hostLinkDown _ => true
  | .hostLinkUp _ _ _ => true
  | .hostPortReset _ => true
  | .droopAssert _ => true
  | .droopDeassert _ => true
  | .droopRestoreExpiry _ => true
  | .pmbusPoll _ _ _ => true
  | .powerCapTick _ hottest stackHot dimmHot => hottest.length == 4 && stackHot.length == 20 && dimmHot.length == 4
  | .thermalTrip _ => true
  | .referenceCheck _ _ _ _ => true
  | .powerUp _ _ => true
  | .rotBootDone _ => true
  | .mainRailsGood => true
  | .pllLocked => true
  | .imageApplied => true
  | .powerUpReady => true
  | .powerUpStepLimit => true
  | .coldResetN => true
  | .warmResetN => true
  | .warm _ data => fieldIs data 0 3 1
  | .cold _ data => fieldIs data 0 3 2
  | .off _ data => fieldIs data 0 3 3
  | .forceOff _ data => fieldIs data 0 3 4
  | .powerDownDone => true
  | .coreIdleExpiry _ => true
  | .coreWakeDone _ => true
  | .failedCrcFlit _ _ => true
  | .reservedTypeFlit _ f => !([1, 2, 3, 4].contains f.type.toNat)
  | .taskQueueCheadWrite _ _ _ => true
  | .copyQueueCheadWrite _ _ _ => true
  | .partitionStartDone _ => true
  | .resetPinRelease _ => true
  | .clusterDroopAssert _ => true
  | .clusterDroopDeassert _ => true
  | .prbsCheckerSync _ _ _ => true

end Sys2Proof
end

