-- ==== Sys2Proof/Tests/Slice0.lean ====
section
/-! SUPPORT. States and operands that meet the hypotheses of the statements, and small tests of the model. -/

open Sys2Proof Sys2Proof.Machine

namespace Sys2Proof.Tests

set_option Elab.async false

/-- A state with fields of registers set. -/
def regsAt (s : State) (l : List (Fld × Nat × Nat)) : State := l.foldl (fun s x => s.wr x.1 x.2.1 x.2.2) s

/-- The node after its power-up, as node 7. -/
def node : State := regsAt State.reset [(F.pwrStatus_state, 0, 4), (F.topNodeId_node, 0, 7)]

theorem witness_EmptyQueueIdles :
    State.reset.pending = [] := by decide +kernel

/-- A management read and write from source 1. -/
def mgtReq (op : Nat) (src : Nat) : Packet := { opcode := BitVec.ofNat 8 op, chan := 4, src := BitVec.ofNat 20 src, addr := 0x700000, len := if op = Op.mgtWr then 1 else 0 }

/-- It waits at the management endpoint. -/
def mgtAsked (q : Packet) : State := { node with fab := { mgtq := [(q, 3)] } }

/-- The same, with source 1 in MGT_TRUST. -/
def mgtTrusted (q : Packet) : State := regsAt (mgtAsked q) [(F.mgtTrust_valid, 0, 1), (F.mgtTrust_mask, 0, 0xFFFFF), (F.mgtTrust_id, 0, 1)]

/-- The physical function of host port 1 is up and secure. -/
def hosted : State := regsAt node [(F.secFn_secure, 16, 1), (F.pciStatus_linkUp, 1, 1)]

theorem witness_WordWriteLeaves :
    node.regs.sorted = true ∧ 0 < 4 ∧ Reg.topNodeId ≠ Reg.secLinkKey ∧ 0 < 32768 := by decide +kernel

theorem witness_WordWriteLeaves_a :
    node.regs.sorted = true ∧ 3 < 4 ∧ Reg.homHotqPtr ≠ Reg.secLinkKey ∧ 3 < 32768 := by decide +kernel

theorem witness_WordWriteLeaves_b :
    node.regs.sorted = true ∧ 0 < 4 ∧ Reg.cfgRangeErr ≠ Reg.secLinkKey ∧ 0 < 32768 := by decide +kernel

theorem witness_RangesJudgedByField :
    (wordWrite Path.root Reg.mscCtrl 0 0 4294967295).loader = false := by decide +kernel

theorem witness_RowsThatStore_0_0_0 :
    node.quiet ∧ node.accepts (wordWrite Path.root Reg.topNodeId 0 0 5) ∧ (∀ e ∈ node.home.ext, e.2.state = ExtState.off)
      ∧ (∀ o < 128, node.rd F.dirSlot_state o = 0) := by decide +kernel

theorem witness_RowsThatStore_0_0_1 :
    (regsAt node [(F.dirSlot_state, 127, 1)]).quiet
      ∧ (regsAt node [(F.dirSlot_state, 127, 1)]).accepts (wordWrite Path.root Reg.topNodeId 0 0 5)
      ∧ ((∃ e ∈ (regsAt node [(F.dirSlot_state, 127, 1)]).home.ext, e.2.state ≠ ExtState.off) ∨ ∃ o < 128, (regsAt node [(F.dirSlot_state, 127, 1)]).rd F.dirSlot_state o ≠ 0) := by decide +kernel

theorem witness_RowsThatStore_0_1 :
    node.quiet ∧ node.accepts (wordWrite Path.root Reg.homHotqPtr 3 0 5) := by decide +kernel

theorem witness_RowsThatStore_0_2 :
    node.quiet ∧ node.accepts (wordWrite Path.root Reg.dmcCtrl 11 0 1343538)
      ∧ (∀ x ∈ node.home.ext, x.2.attr.tier2 = true → x.2.state = ExtState.off) := by decide +kernel

theorem witness_RowsThatStore_0_3 :
    node.quiet ∧ node.accepts (wordWrite Path.root Reg.rteRoute (1 * 4096 + 4095) 0 5) ∧ node.bankInUse 1 = false := by decide +kernel

theorem witness_RowsThatStore_0_4 :
    node.quiet ∧ node.accepts (wordWrite Path.root Reg.cluQptr 63 0 5) := by decide +kernel

theorem witness_RowsThatStore_0_5 :
    node.quiet ∧ node.accepts (wordWrite Path.root Reg.xfrQptr 127 0 5) := by decide +kernel

theorem witness_RowsThatStore_0_6 :
    node.quiet ∧ node.accepts (wordWrite Path.root Reg.xfrQptr 127 1 5) := by decide +kernel

theorem witness_RowsThatStore_0_7 :
    node.quiet ∧ node.accepts (wordWrite Path.root Reg.secPortMap 63 0 0)
      ∧ node.otherPartition (State.bits (node.newVal (wordWrite Path.root Reg.secPortMap 63 0 0)) 0 4) = false
      ∧ (node.linkState 63 = 0 ∨ node.linkState 63 = 5 ∨ node.newVal (wordWrite Path.root Reg.secPortMap 63 0 0) = node.writeBase (wordWrite Path.root Reg.secPortMap 63 0 0)) := by decide +kernel

theorem witness_RowsThatStore_0_8 :
    node.quiet ∧ node.accepts (wordWrite Path.root Reg.secCoreMap 15 1 4228)
      ∧ (∀ j < 9, node.otherPartition (State.bits (node.newVal (wordWrite Path.root Reg.secCoreMap 15 1 4228)) (5 * j) 4) = false)
      ∧ (∀ j < 9, State.bits (node.writeBase (wordWrite Path.root Reg.secCoreMap 15 1 4228)) (5 * j) 5 ≠ State.bits (node.newVal (wordWrite Path.root Reg.secCoreMap 15 1 4228)) (5 * j) 5 → node.ctxOf (9 * 15 + j) = []) := by decide +kernel

theorem witness_RowsThatStore_0_9 :
    node.quiet ∧ 15 ≠ 0 ∧ node.accepts (wordWrite Path.root Reg.secFn (State.fnIdx 1 15) 0 0)
      ∧ node.otherPartition (State.bits (node.newVal (wordWrite Path.root Reg.secFn (State.fnIdx 1 15) 0 0)) 0 4) = false
      ∧ node.pci.bme.contains (State.fnIdx 1 15) = false := by decide +kernel

theorem witness_RowsThatStore_0_10 :
    node.quiet ∧ node.accepts (wordWrite Path.root Reg.qosLeash 255 0 0)
      ∧ node.leashTwice 255 (node.newVal (wordWrite Path.root Reg.qosLeash 255 0 0)) = false := by decide +kernel

theorem witness_RowsThatStore_0_11 :
    node.quiet ∧ node.accepts (wordWrite Path.root Reg.qosCatch 63 0 0) := by decide +kernel

theorem witness_RowsThatStore_0_12 :
    node.quiet ∧ node.accepts (wordWrite Path.root Reg.homGrpMatch 1023 1 0)
      ∧ node.groupWriteOk (node.writeBase (wordWrite Path.root Reg.homGrpMatch 1023 1 0)) (node.newVal (wordWrite Path.root Reg.homGrpMatch 1023 1 0)) = true := by decide +kernel

theorem witness_RowsThatStore_0_13 :
    node.quiet ∧ node.accepts (wordWrite Path.root Reg.ptuAs 1023 0 7)
      ∧ node.otherPartition (State.bits (node.newVal (wordWrite Path.root Reg.ptuAs 1023 0 7)) 52 4) = false
      ∧ State.bits (node.writeBase (wordWrite Path.root Reg.ptuAs 1023 0 7)) 63 1 = 0 := by decide +kernel

theorem witness_RowsThatStore_0_14 :
    node.quiet ∧ node.accepts (wordWrite Path.root Reg.cluQcfg 63 0 4194310)
      ∧ node.otherPartition (State.bits (node.newVal (wordWrite Path.root Reg.cluQcfg 63 0 4194310)) 4 4) = false
      ∧ State.bits (node.writeBase (wordWrite Path.root Reg.cluQcfg 63 0 4194310)) 8 1 = 0
      ∧ State.bits (node.newVal (wordWrite Path.root Reg.cluQcfg 63 0 4194310)) 8 1 = 0 ∧ node.hostBusy 63 = false := by decide +kernel

theorem witness_RowsThatStore_0_15 :
    node.quiet ∧ node.accepts (wordWrite Path.root Reg.xfrQcfg 127 0 33554438)
      ∧ node.otherPartition (State.bits (node.newVal (wordWrite Path.root Reg.xfrQcfg 127 0 33554438)) 4 4) = false
      ∧ State.bits (node.writeBase (wordWrite Path.root Reg.xfrQcfg 127 0 33554438)) 8 1 = 0
      ∧ State.bits (node.newVal (wordWrite Path.root Reg.xfrQcfg 127 0 33554438)) 8 1 = 0 ∧ node.copyBusy 127 = false := by decide +kernel

theorem witness_RowsThatStore_1_0 :
    node.quiet ∧ node.accepts (wordWrite Path.root Reg.homMigReserve 3 0 0) ∧ node.usedFrames 3 = 0
      ∧ (State.bits (node.newVal (wordWrite Path.root Reg.homMigReserve 3 0 0)) 12 1 = 1 → node.reserveOk 3 (State.bits (node.newVal (wordWrite Path.root Reg.homMigReserve 3 0 0)) 0 12) = true) := by decide +kernel

theorem witness_RowsThatStore_1_1 :
    node.quiet ∧ node.accepts (wordWrite Path.root Reg.cluSave 0 0 5) ∧ node.otherPartition 0 = false
      ∧ (∀ v ∈ node.clu.saved, v.partition ≠ 0) := by decide +kernel

theorem witness_RowsThatStore_1_2 :
    node.quiet ∧ node.accepts (wordWrite Path.root Reg.ptuAs 1023 1 2147483648)
      ∧ node.otherPartition (State.bits (node.newVal (wordWrite Path.root Reg.ptuAs 1023 1 2147483648)) 52 4) = false
      ∧ node.spaceInUse 1023 = false ∧ State.bits (node.newVal (wordWrite Path.root Reg.ptuAs 1023 1 2147483648)) 63 1 = 1 := by decide +kernel

theorem witness_RowsThatStore_1_3 :
    node.quiet ∧ node.accepts (wordWrite Path.root Reg.cluQptr 63 1 5) ∧ node.clu.recWait = [] := by decide +kernel

theorem witness_BusWrites_0 :
    node.quiet ∧ locate (7340032 % State.dieSpan) = some (Reg.rteCtrl, 0, 0) ∧ Reg.rteCtrl.place.window = Window.copied
      ∧ 7340032 / State.dieSpan = 0
      ∧ [Reg.rteCtrl, Reg.qosBarkQ, Reg.qosBarkU, Reg.lnkCrdSize, Reg.mgtTrust, Reg.staCtrl, Reg.colCtrl, Reg.xfrCtrl, Reg.ptuCtrl].contains Reg.rteCtrl = true
      ∧ 7340032 % 4 = 0 ∧ 0 < 4
      ∧ node.accepts { path := Path.root, off := 7340032, reg := Reg.rteCtrl, inst := 0, word := 0, mask := BitVec.ofNat 128 (4294967295 * 2 ^ (32 * 0)), data := BitVec.ofNat 128 (1678541000 % 2 ^ 32 * 2 ^ (32 * 0)) : WordWrite } := by decide +kernel

theorem witness_BusWrites_1_0 :
    hosted.quiet ∧ locate (26214400 % State.dieSpan) = some (Reg.staCtrl, 0, 0) ∧ Reg.staCtrl.place.window = Window.copied
      ∧ 26214400 / State.dieSpan = 0
      ∧ [Reg.rteCtrl, Reg.qosBarkQ, Reg.qosBarkU, Reg.lnkCrdSize, Reg.mgtTrust, Reg.staCtrl, Reg.colCtrl, Reg.xfrCtrl, Reg.ptuCtrl].contains Reg.staCtrl = true
      ∧ Path.host 1 0 = Path.host 1 0 ∧ 26214400 % 4 = 0
      ∧ (hosted.accepts { path := Path.host 1 0, off := 26214400, viaAlias := true, reg := Reg.staCtrl, inst := 0, word := 0, mask := BitVec.ofNat 128 ((65537 / 65536 * if false = true then 65536 else 1) * 2 ^ (32 * 0)), data := BitVec.ofNat 128 ((65537 % 65536 * if false = true then 65536 else 1) * 2 ^ (32 * 0)) : WordWrite })
      ∧ ({ path := Path.host 1 0, off := 26214400, viaAlias := true, reg := Reg.staCtrl, inst := 0, word := 0, mask := BitVec.ofNat 128 ((65537 / 65536 * if false = true then 65536 else 1) * 2 ^ (32 * 0)), data := BitVec.ofNat 128 ((65537 % 65536 * if false = true then 65536 else 1) * 2 ^ (32 * 0)) : WordWrite }.mask ≠ 0)
      ∧ 65537 / 65536 ≠ 0 := by decide +kernel

theorem witness_BusWrites_1_1 :
    hosted.quiet ∧ locate (26214400 % State.dieSpan) = some (Reg.staCtrl, 0, 0) ∧ Reg.staCtrl.place.window = Window.copied
      ∧ 26214400 / State.dieSpan = 0
      ∧ [Reg.rteCtrl, Reg.qosBarkQ, Reg.qosBarkU, Reg.lnkCrdSize, Reg.mgtTrust, Reg.staCtrl, Reg.colCtrl, Reg.xfrCtrl, Reg.ptuCtrl].contains Reg.staCtrl = true
      ∧ Path.host 1 0 = Path.host 1 0 ∧ 26214400 % 4 = 0
      ∧ (hosted.accepts { path := Path.host 1 0, off := 26214400, viaAlias := true, reg := Reg.staCtrl, inst := 0, word := 0, mask := BitVec.ofNat 128 ((5 / 65536 * if true = true then 65536 else 1) * 2 ^ (32 * 0)), data := BitVec.ofNat 128 ((5 % 65536 * if true = true then 65536 else 1) * 2 ^ (32 * 0)) : WordWrite })
      ∧ 5 / 65536 = 0 := by decide +kernel

theorem witness_ErrorRecords_0_0 :
    node.quiet ∧ node.accepts (wordWrite Path.root Reg.cfgRangeErr 0 0 (fieldIn 0 31 1 1)) := by decide +kernel

theorem witness_ErrorRecords_0_1 :
    node.quiet ∧ node.accepts (wordWrite Path.root Reg.mgtViol 0 0 (fieldIn 0 31 1 1)) := by decide +kernel

theorem witness_ErrorRecords_1_0_0 :
    node.regs.sorted = true ∧ 268435455 < 2 ^ 28 ∧ 3 < 8 ∧ node.rd F.cfgRangeErr_valid = 0 := by decide +kernel

theorem witness_ErrorRecords_1_0_1 :
    (regsAt node [(F.cfgRangeErr_valid, 0, 1)]).regs.sorted = true ∧ 256 < 2 ^ 28 ∧ 3 < 8
      ∧ (regsAt node [(F.cfgRangeErr_valid, 0, 1)]).rd F.cfgRangeErr_valid = 1 := by decide +kernel

theorem witness_ErrorRecords_1_0_1_a :
    (regsAt node [(F.cfgRangeErr_valid, 0, 1), (F.cfgRangeErr_count, 0, 65535)]).regs.sorted = true ∧ 256 < 2 ^ 28 ∧ 3 < 8
      ∧ (regsAt node [(F.cfgRangeErr_valid, 0, 1), (F.cfgRangeErr_count, 0, 65535)]).rd F.cfgRangeErr_valid = 1 := by decide +kernel

theorem witness_ErrorRecords_1_1_0 :
    node.regs.sorted = true ∧ 256 < 2 ^ 28 ∧ 7 < 8 ∧ Path.host 1 15 ≠ Path.root ∧ node.rd F.mgtViol_valid = 0 := by decide +kernel

theorem witness_ErrorRecords_1_1_1 :
    (regsAt node [(F.mgtViol_valid, 0, 1)]).regs.sorted = true ∧ 256 < 2 ^ 28 ∧ 3 < 8 ∧ Path.mgt 74565 ≠ Path.root
      ∧ (regsAt node [(F.mgtViol_valid, 0, 1)]).rd F.mgtViol_valid = 1 := by decide +kernel

theorem witness_ErrorRecords_2_0 :
    (regsAt node [(F.mgtViol_valid, 0, 1), (F.cfgRangeErr_valid, 0, 1), (F.rteDrop_hold, 3, 5)]).wf = true
      ∧ (regsAt node [(F.mgtViol_valid, 0, 1), (F.cfgRangeErr_valid, 0, 1), (F.rteDrop_hold, 3, 5)]).quiet
      ∧ (regsAt node [(F.mgtViol_valid, 0, 1), (F.cfgRangeErr_valid, 0, 1), (F.rteDrop_hold, 3, 5)]).rd F.pwrStatus_state = 4
      ∧ (regsAt node [(F.mgtViol_valid, 0, 1), (F.cfgRangeErr_valid, 0, 1), (F.rteDrop_hold, 3, 5)]).pwr.down = false
      ∧ (regsAt node [(F.mgtViol_valid, 0, 1), (F.cfgRangeErr_valid, 0, 1), (F.rteDrop_hold, 3, 5)]).pwr.pin = none
      ∧ (regsAt node [(F.mgtViol_valid, 0, 1), (F.cfgRangeErr_valid, 0, 1), (F.rteDrop_hold, 3, 5)]).flag F.pciStatus_linkUp = false
      ∧ (regsAt node [(F.mgtViol_valid, 0, 1), (F.cfgRangeErr_valid, 0, 1), (F.rteDrop_hold, 3, 5)]).flag F.pciStatus_linkUp 1 = false := by decide +kernel

theorem witness_ErrorRecords_2_1 :
    (regsAt node [(F.mgtViol_valid, 0, 1), (F.cfgRangeErr_valid, 0, 1), (F.rteDrop_hold, 3, 5)]).wf = true
      ∧ (regsAt node [(F.mgtViol_valid, 0, 1), (F.cfgRangeErr_valid, 0, 1), (F.rteDrop_hold, 3, 5)]).quiet
      ∧ (regsAt node [(F.mgtViol_valid, 0, 1), (F.cfgRangeErr_valid, 0, 1), (F.rteDrop_hold, 3, 5)]).rd F.pwrStatus_state = 4
      ∧ (regsAt node [(F.mgtViol_valid, 0, 1), (F.cfgRangeErr_valid, 0, 1), (F.rteDrop_hold, 3, 5)]).pwr.down = false
      ∧ (regsAt node [(F.mgtViol_valid, 0, 1), (F.cfgRangeErr_valid, 0, 1), (F.rteDrop_hold, 3, 5)]).pwr.pin = none
      ∧ (regsAt node [(F.mgtViol_valid, 0, 1), (F.cfgRangeErr_valid, 0, 1), (F.rteDrop_hold, 3, 5)]).flag F.pciStatus_linkUp = false
      ∧ (regsAt node [(F.mgtViol_valid, 0, 1), (F.cfgRangeErr_valid, 0, 1), (F.rteDrop_hold, 3, 5)]).flag F.pciStatus_linkUp 1 = false
      ∧ (regsAt node [(F.mgtViol_valid, 0, 1), (F.cfgRangeErr_valid, 0, 1), (F.rteDrop_hold, 3, 5)]).accepts (wordWrite Path.root Reg.pwrCmd 0 0 (fieldIn 1 0 3 1)) := by decide +kernel

theorem witness_ManagementAccess_0_0 :
    (mgtAsked (mgtReq Op.mgtRd 1)).quiet ∧ (mgtAsked (mgtReq Op.mgtRd 1)).fab.mgtq = [(mgtReq Op.mgtRd 1, 3)]
      ∧ ((mgtAsked (mgtReq Op.mgtRd 1)).rd F.pwrStatus_state = 3 ∨ (mgtAsked (mgtReq Op.mgtRd 1)).rd F.pwrStatus_state = 4)
      ∧ (mgtReq Op.mgtRd 1).resv = false
      ∧ mgtReq Op.mgtRd 1 = { opcode := BitVec.ofNat 8 Op.mgtRd, chan := (mgtReq Op.mgtRd 1).chan, hop := (mgtReq Op.mgtRd 1).hop, bank := (mgtReq Op.mgtRd 1).bank, poison := (mgtReq Op.mgtRd 1).poison, fence := (mgtReq Op.mgtRd 1).fence, len := (mgtReq Op.mgtRd 1).len, cls := (mgtReq Op.mgtRd 1).cls, sub := (mgtReq Op.mgtRd 1).sub, fw := (mgtReq Op.mgtRd 1).fw, src := (mgtReq Op.mgtRd 1).src, principal := (mgtReq Op.mgtRd 1).principal, tag := (mgtReq Op.mgtRd 1).tag, dlocal := (mgtReq Op.mgtRd 1).dlocal, txid := (mgtReq Op.mgtRd 1).txid, addr := (mgtReq Op.mgtRd 1).addr, dest := (mgtReq Op.mgtRd 1).dest, status := (mgtReq Op.mgtRd 1).status, bark := (mgtReq Op.mgtRd 1).bark, detail := (mgtReq Op.mgtRd 1).detail, dataFlag := (mgtReq Op.mgtRd 1).dataFlag, resv := (mgtReq Op.mgtRd 1).resv, data := (mgtReq Op.mgtRd 1).data, mask := (mgtReq Op.mgtRd 1).mask : Packet }
      ∧ formOk { opcode := BitVec.ofNat 8 Op.mgtRd, chan := (mgtReq Op.mgtRd 1).chan, hop := (mgtReq Op.mgtRd 1).hop, bank := (mgtReq Op.mgtRd 1).bank, poison := (mgtReq Op.mgtRd 1).poison, fence := (mgtReq Op.mgtRd 1).fence, len := (mgtReq Op.mgtRd 1).len, cls := (mgtReq Op.mgtRd 1).cls, sub := (mgtReq Op.mgtRd 1).sub, fw := (mgtReq Op.mgtRd 1).fw, src := (mgtReq Op.mgtRd 1).src, principal := (mgtReq Op.mgtRd 1).principal, tag := (mgtReq Op.mgtRd 1).tag, dlocal := (mgtReq Op.mgtRd 1).dlocal, txid := (mgtReq Op.mgtRd 1).txid, addr := (mgtReq Op.mgtRd 1).addr, dest := (mgtReq Op.mgtRd 1).dest, status := (mgtReq Op.mgtRd 1).status, bark := (mgtReq Op.mgtRd 1).bark, detail := (mgtReq Op.mgtRd 1).detail, dataFlag := (mgtReq Op.mgtRd 1).dataFlag, resv := (mgtReq Op.mgtRd 1).resv, data := (mgtReq Op.mgtRd 1).data, mask := (mgtReq Op.mgtRd 1).mask : Packet } = true
      ∧ (mgtAsked (mgtReq Op.mgtRd 1)).trusted 1 = false := by decide +kernel

theorem witness_ManagementAccess_0_1 :
    (mgtTrusted (mgtReq Op.mgtRd 1)).quiet ∧ (mgtTrusted (mgtReq Op.mgtRd 1)).fab.mgtq = [(mgtReq Op.mgtRd 1, 3)]
      ∧ ((mgtTrusted (mgtReq Op.mgtRd 1)).rd F.pwrStatus_state = 3 ∨ (mgtTrusted (mgtReq Op.mgtRd 1)).rd F.pwrStatus_state = 4)
      ∧ (mgtReq Op.mgtRd 1).resv = false
      ∧ mgtReq Op.mgtRd 1 = { opcode := BitVec.ofNat 8 Op.mgtRd, chan := (mgtReq Op.mgtRd 1).chan, hop := (mgtReq Op.mgtRd 1).hop, bank := (mgtReq Op.mgtRd 1).bank, poison := (mgtReq Op.mgtRd 1).poison, fence := (mgtReq Op.mgtRd 1).fence, len := (mgtReq Op.mgtRd 1).len, cls := (mgtReq Op.mgtRd 1).cls, sub := (mgtReq Op.mgtRd 1).sub, fw := (mgtReq Op.mgtRd 1).fw, src := (mgtReq Op.mgtRd 1).src, principal := (mgtReq Op.mgtRd 1).principal, tag := (mgtReq Op.mgtRd 1).tag, dlocal := (mgtReq Op.mgtRd 1).dlocal, txid := (mgtReq Op.mgtRd 1).txid, addr := (mgtReq Op.mgtRd 1).addr, dest := (mgtReq Op.mgtRd 1).dest, status := (mgtReq Op.mgtRd 1).status, bark := (mgtReq Op.mgtRd 1).bark, detail := (mgtReq Op.mgtRd 1).detail, dataFlag := (mgtReq Op.mgtRd 1).dataFlag, resv := (mgtReq Op.mgtRd 1).resv, data := (mgtReq Op.mgtRd 1).data, mask := (mgtReq Op.mgtRd 1).mask : Packet }
      ∧ formOk { opcode := BitVec.ofNat 8 Op.mgtRd, chan := (mgtReq Op.mgtRd 1).chan, hop := (mgtReq Op.mgtRd 1).hop, bank := (mgtReq Op.mgtRd 1).bank, poison := (mgtReq Op.mgtRd 1).poison, fence := (mgtReq Op.mgtRd 1).fence, len := (mgtReq Op.mgtRd 1).len, cls := (mgtReq Op.mgtRd 1).cls, sub := (mgtReq Op.mgtRd 1).sub, fw := (mgtReq Op.mgtRd 1).fw, src := (mgtReq Op.mgtRd 1).src, principal := (mgtReq Op.mgtRd 1).principal, tag := (mgtReq Op.mgtRd 1).tag, dlocal := (mgtReq Op.mgtRd 1).dlocal, txid := (mgtReq Op.mgtRd 1).txid, addr := (mgtReq Op.mgtRd 1).addr, dest := (mgtReq Op.mgtRd 1).dest, status := (mgtReq Op.mgtRd 1).status, bark := (mgtReq Op.mgtRd 1).bark, detail := (mgtReq Op.mgtRd 1).detail, dataFlag := (mgtReq Op.mgtRd 1).dataFlag, resv := (mgtReq Op.mgtRd 1).resv, data := (mgtReq Op.mgtRd 1).data, mask := (mgtReq Op.mgtRd 1).mask : Packet } = true
      ∧ (mgtTrusted (mgtReq Op.mgtRd 1)).trusted 1 = true ∧ 7340032 % 2 ^ 28 % 4 = 0
      ∧ (locate (7340032 % 2 ^ 28 % State.dieSpan)).isSome = true := by decide +kernel

theorem witness_ManagementAccess_1_0 :
    (mgtAsked (mgtReq Op.mgtWr 1)).quiet ∧ (mgtAsked (mgtReq Op.mgtWr 1)).fab.mgtq = [(mgtReq Op.mgtWr 1, 3)]
      ∧ ((mgtAsked (mgtReq Op.mgtWr 1)).rd F.pwrStatus_state = 3 ∨ (mgtAsked (mgtReq Op.mgtWr 1)).rd F.pwrStatus_state = 4)
      ∧ (mgtReq Op.mgtWr 1).resv = false
      ∧ mgtReq Op.mgtWr 1 = { opcode := BitVec.ofNat 8 Op.mgtWr, chan := (mgtReq Op.mgtWr 1).chan, hop := (mgtReq Op.mgtWr 1).hop, bank := (mgtReq Op.mgtWr 1).bank, poison := (mgtReq Op.mgtWr 1).poison, fence := (mgtReq Op.mgtWr 1).fence, len := (mgtReq Op.mgtWr 1).len, cls := (mgtReq Op.mgtWr 1).cls, sub := (mgtReq Op.mgtWr 1).sub, fw := (mgtReq Op.mgtWr 1).fw, src := (mgtReq Op.mgtWr 1).src, principal := (mgtReq Op.mgtWr 1).principal, tag := (mgtReq Op.mgtWr 1).tag, dlocal := (mgtReq Op.mgtWr 1).dlocal, txid := (mgtReq Op.mgtWr 1).txid, addr := (mgtReq Op.mgtWr 1).addr, dest := (mgtReq Op.mgtWr 1).dest, status := (mgtReq Op.mgtWr 1).status, bark := (mgtReq Op.mgtWr 1).bark, detail := (mgtReq Op.mgtWr 1).detail, dataFlag := (mgtReq Op.mgtWr 1).dataFlag, resv := (mgtReq Op.mgtWr 1).resv, data := (mgtReq Op.mgtWr 1).data, mask := (mgtReq Op.mgtWr 1).mask : Packet }
      ∧ formOk { opcode := BitVec.ofNat 8 Op.mgtWr, chan := (mgtReq Op.mgtWr 1).chan, hop := (mgtReq Op.mgtWr 1).hop, bank := (mgtReq Op.mgtWr 1).bank, poison := (mgtReq Op.mgtWr 1).poison, fence := (mgtReq Op.mgtWr 1).fence, len := (mgtReq Op.mgtWr 1).len, cls := (mgtReq Op.mgtWr 1).cls, sub := (mgtReq Op.mgtWr 1).sub, fw := (mgtReq Op.mgtWr 1).fw, src := (mgtReq Op.mgtWr 1).src, principal := (mgtReq Op.mgtWr 1).principal, tag := (mgtReq Op.mgtWr 1).tag, dlocal := (mgtReq Op.mgtWr 1).dlocal, txid := (mgtReq Op.mgtWr 1).txid, addr := (mgtReq Op.mgtWr 1).addr, dest := (mgtReq Op.mgtWr 1).dest, status := (mgtReq Op.mgtWr 1).status, bark := (mgtReq Op.mgtWr 1).bark, detail := (mgtReq Op.mgtWr 1).detail, dataFlag := (mgtReq Op.mgtWr 1).dataFlag, resv := (mgtReq Op.mgtWr 1).resv, data := (mgtReq Op.mgtWr 1).data, mask := (mgtReq Op.mgtWr 1).mask : Packet } = true
      ∧ (mgtAsked (mgtReq Op.mgtWr 1)).trusted 1 = false := by decide +kernel

theorem witness_ManagementAccess_1_1 :
    (mgtTrusted (mgtReq Op.mgtWr 1)).quiet ∧ (mgtTrusted (mgtReq Op.mgtWr 1)).fab.mgtq = [(mgtReq Op.mgtWr 1, 3)]
      ∧ ((mgtTrusted (mgtReq Op.mgtWr 1)).rd F.pwrStatus_state = 3 ∨ (mgtTrusted (mgtReq Op.mgtWr 1)).rd F.pwrStatus_state = 4)
      ∧ (mgtReq Op.mgtWr 1).resv = false
      ∧ mgtReq Op.mgtWr 1 = { opcode := BitVec.ofNat 8 Op.mgtWr, chan := (mgtReq Op.mgtWr 1).chan, hop := (mgtReq Op.mgtWr 1).hop, bank := (mgtReq Op.mgtWr 1).bank, poison := (mgtReq Op.mgtWr 1).poison, fence := (mgtReq Op.mgtWr 1).fence, len := (mgtReq Op.mgtWr 1).len, cls := (mgtReq Op.mgtWr 1).cls, sub := (mgtReq Op.mgtWr 1).sub, fw := (mgtReq Op.mgtWr 1).fw, src := (mgtReq Op.mgtWr 1).src, principal := (mgtReq Op.mgtWr 1).principal, tag := (mgtReq Op.mgtWr 1).tag, dlocal := (mgtReq Op.mgtWr 1).dlocal, txid := (mgtReq Op.mgtWr 1).txid, addr := (mgtReq Op.mgtWr 1).addr, dest := (mgtReq Op.mgtWr 1).dest, status := (mgtReq Op.mgtWr 1).status, bark := (mgtReq Op.mgtWr 1).bark, detail := (mgtReq Op.mgtWr 1).detail, dataFlag := (mgtReq Op.mgtWr 1).dataFlag, resv := (mgtReq Op.mgtWr 1).resv, data := (mgtReq Op.mgtWr 1).data, mask := (mgtReq Op.mgtWr 1).mask : Packet }
      ∧ formOk { opcode := BitVec.ofNat 8 Op.mgtWr, chan := (mgtReq Op.mgtWr 1).chan, hop := (mgtReq Op.mgtWr 1).hop, bank := (mgtReq Op.mgtWr 1).bank, poison := (mgtReq Op.mgtWr 1).poison, fence := (mgtReq Op.mgtWr 1).fence, len := (mgtReq Op.mgtWr 1).len, cls := (mgtReq Op.mgtWr 1).cls, sub := (mgtReq Op.mgtWr 1).sub, fw := (mgtReq Op.mgtWr 1).fw, src := (mgtReq Op.mgtWr 1).src, principal := (mgtReq Op.mgtWr 1).principal, tag := (mgtReq Op.mgtWr 1).tag, dlocal := (mgtReq Op.mgtWr 1).dlocal, txid := (mgtReq Op.mgtWr 1).txid, addr := (mgtReq Op.mgtWr 1).addr, dest := (mgtReq Op.mgtWr 1).dest, status := (mgtReq Op.mgtWr 1).status, bark := (mgtReq Op.mgtWr 1).bark, detail := (mgtReq Op.mgtWr 1).detail, dataFlag := (mgtReq Op.mgtWr 1).dataFlag, resv := (mgtReq Op.mgtWr 1).resv, data := (mgtReq Op.mgtWr 1).data, mask := (mgtReq Op.mgtWr 1).mask : Packet } = true
      ∧ (mgtTrusted (mgtReq Op.mgtWr 1)).trusted 1 = true ∧ 7340032 % 2 ^ 28 % 4 = 0
      ∧ (locate (7340032 % 2 ^ 28 % State.dieSpan)).isSome = true := by decide +kernel

/-- Every endpoint is in group 1, key 0 is in use, and extent 5 is ON at the start of tier 1. -/
def served : State :=
  { regsAt node [(F.secKeyStatus_state, 0, 1), (F.homGrpMatch_group, 0, 1), (F.homGrpMatch_valid, 0, 1), (F.homExtRights_group, 0, 1),
      (F.homExtRights_rd, 0, 1), (F.homExtRights_valid, 0, 1), (F.mscCtrl_pfEn, 0, 0), (F.mscCtrl_pfEn, 1, 0),
      (F.mscCtrl_pfEn, 2, 0), (F.mscCtrl_pfEn, 3, 0)] with
    keys := [(0, { has0 := true })]
    home := { ext := [(5, { state := .on, prev := [⟨1, true, true, true⟩],
                            attr := { coherent := true, base := 0, count := 1, rights := [⟨1, true, true, true⟩] } })] } }

/-- Extent 5 in another state. -/
def extentIs (f : Extent → Extent) : State := { served with home := { served.home with ext := served.home.ext.map fun e => (e.1, f e.2) } }

/-- Extent 5 loses group 1 (R45); slot 127 was granted line 3 behind the walks of the withdrawal, which have ended. -/
def loserHolds : State :=
  let s := extentIs fun x => { x with state := .withdrawing, attr := { x.attr with rights := [] } }
  let s := regsAt s [(F.dirSlot_endpoint, 127, 0x12345), (F.dirSlot_state, 127, 1)]
  { s with home := { s.home with dir := [(State.dirWay 3 0, { line := 3, sharers := maskBit 127, state := .s })] } }

/-- A command for extent 5, or 7 from granule 8. -/
def ext5 : DWord := 5 + (1 <<< 38)
def ext7 : DWord := 7 + (8 <<< 16) + (1 <<< 38)

/-- Slot 127 in a state, for endpoint 0x12345. -/
def slotIs (st : Nat) : State := regsAt served [(F.dirSlot_endpoint, 127, 0x12345), (F.dirSlot_state, 127, st)]

/-- The four walks of slot 127 have ended. -/
def walked (st : Nat) (k : WalkKind) : State :=
  let s := slotIs st
  { s with home := { s.home with walks := [0, 1, 2, 3].map fun d => ⟨d, k, State.dirSets⟩ } }

/-- A walk of die 3 for the release of slot 127 stands before a set, in which the slot shares line 3, or nothing. -/
def walking (full : Bool) : State :=
  let s := slotIs 2
  let k := State.dirSetKey 3
  { s with home := { s.home with
      walks := [⟨3, .release 127, k % State.dirSets⟩]
      dir := if full then [(State.dirWay 3 0, { line := 3, sharers := maskBit 127, state := .s })] else [] } }

theorem witness_ExtentCommands_0_0 :
    served.wf = true ∧ served.quiet ∧ served.rd F.pwrStatus_state = 4 ∧ served.rd F.homExtStatus_busy = 0
      ∧ acceptsBoth served Path.root Reg.homExtCmd 0 (fieldIn2 ext7 12 4 1)
      ∧ ((bothWords served Path.root Reg.homExtCmd 0 (fieldIn2 ext7 12 4 1)).getExt ((bothWords served Path.root Reg.homExtCmd 0 (fieldIn2 ext7 12 4 1)).rd F.homExtCmd_extId)).state = ExtState.off
      ∧ (bothWords served Path.root Reg.homExtCmd 0 (fieldIn2 ext7 12 4 1)).createOk ((bothWords served Path.root Reg.homExtCmd 0 (fieldIn2 ext7 12 4 1)).rd F.homExtCmd_extId) (bothWords served Path.root Reg.homExtCmd 0 (fieldIn2 ext7 12 4 1)).stagedAttr = true := by decide +kernel

theorem witness_ExtentCommands_0_1_0 :
    ((extentIs fun (x : Extent) => { state := x.state, attr := { tier2 := x.attr.tier2, oneDie := x.attr.oneDie, coherent := x.attr.coherent, countEn := x.attr.countEn, partition := x.attr.partition, key := x.attr.key, base := x.attr.base, count := x.attr.count : ExtAttr }, prev := x.prev, gen := x.gen, toOff := x.toOff, held := x.held, demoting := x.demoting : Extent }).wf = true)
      ∧ ((extentIs fun (x : Extent) => { state := x.state, attr := { tier2 := x.attr.tier2, oneDie := x.attr.oneDie, coherent := x.attr.coherent, countEn := x.attr.countEn, partition := x.attr.partition, key := x.attr.key, base := x.attr.base, count := x.attr.count : ExtAttr }, prev := x.prev, gen := x.gen, toOff := x.toOff, held := x.held, demoting := x.demoting : Extent }).quiet)
      ∧ ((extentIs fun (x : Extent) => { state := x.state, attr := { tier2 := x.attr.tier2, oneDie := x.attr.oneDie, coherent := x.attr.coherent, countEn := x.attr.countEn, partition := x.attr.partition, key := x.attr.key, base := x.attr.base, count := x.attr.count : ExtAttr }, prev := x.prev, gen := x.gen, toOff := x.toOff, held := x.held, demoting := x.demoting : Extent }).rd F.pwrStatus_state = 4)
      ∧ ((extentIs fun (x : Extent) => { state := x.state, attr := { tier2 := x.attr.tier2, oneDie := x.attr.oneDie, coherent := x.attr.coherent, countEn := x.attr.countEn, partition := x.attr.partition, key := x.attr.key, base := x.attr.base, count := x.attr.count : ExtAttr }, prev := x.prev, gen := x.gen, toOff := x.toOff, held := x.held, demoting := x.demoting : Extent }).rd F.homExtStatus_busy = 0)
      ∧ (acceptsBoth (extentIs fun (x : Extent) => { state := x.state, attr := { tier2 := x.attr.tier2, oneDie := x.attr.oneDie, coherent := x.attr.coherent, countEn := x.attr.countEn, partition := x.attr.partition, key := x.attr.key, base := x.attr.base, count := x.attr.count : ExtAttr }, prev := x.prev, gen := x.gen, toOff := x.toOff, held := x.held, demoting := x.demoting : Extent }) Path.root Reg.homExtCmd 0 (fieldIn2 ext5 12 4 2))
      ∧ (((bothWords (extentIs fun (x : Extent) => { state := x.state, attr := { tier2 := x.attr.tier2, oneDie := x.attr.oneDie, coherent := x.attr.coherent, countEn := x.attr.countEn, partition := x.attr.partition, key := x.attr.key, base := x.attr.base, count := x.attr.count : ExtAttr }, prev := x.prev, gen := x.gen, toOff := x.toOff, held := x.held, demoting := x.demoting : Extent }) Path.root Reg.homExtCmd 0 (fieldIn2 ext5 12 4 2)).getExt ((bothWords (extentIs fun (x : Extent) => { state := x.state, attr := { tier2 := x.attr.tier2, oneDie := x.attr.oneDie, coherent := x.attr.coherent, countEn := x.attr.countEn, partition := x.attr.partition, key := x.attr.key, base := x.attr.base, count := x.attr.count : ExtAttr }, prev := x.prev, gen := x.gen, toOff := x.toOff, held := x.held, demoting := x.demoting : Extent }) Path.root Reg.homExtCmd 0 (fieldIn2 ext5 12 4 2)).rd F.homExtCmd_extId)).state = ExtState.on)
      ∧ (((bothWords (extentIs fun (x : Extent) => { state := x.state, attr := { tier2 := x.attr.tier2, oneDie := x.attr.oneDie, coherent := x.attr.coherent, countEn := x.attr.countEn, partition := x.attr.partition, key := x.attr.key, base := x.attr.base, count := x.attr.count : ExtAttr }, prev := x.prev, gen := x.gen, toOff := x.toOff, held := x.held, demoting := x.demoting : Extent }) Path.root Reg.homExtCmd 0 (fieldIn2 ext5 12 4 2)).getExt ((bothWords (extentIs fun (x : Extent) => { state := x.state, attr := { tier2 := x.attr.tier2, oneDie := x.attr.oneDie, coherent := x.attr.coherent, countEn := x.attr.countEn, partition := x.attr.partition, key := x.attr.key, base := x.attr.base, count := x.attr.count : ExtAttr }, prev := x.prev, gen := x.gen, toOff := x.toOff, held := x.held, demoting := x.demoting : Extent }) Path.root Reg.homExtCmd 0 (fieldIn2 ext5 12 4 2)).rd F.homExtCmd_extId)).demoting = false)
      ∧ ((bothWords (extentIs fun (x : Extent) => { state := x.state, attr := { tier2 := x.attr.tier2, oneDie := x.attr.oneDie, coherent := x.attr.coherent, countEn := x.attr.countEn, partition := x.attr.partition, key := x.attr.key, base := x.attr.base, count := x.attr.count : ExtAttr }, prev := x.prev, gen := x.gen, toOff := x.toOff, held := x.held, demoting := x.demoting : Extent }) Path.root Reg.homExtCmd 0 (fieldIn2 ext5 12 4 2)).rightsOk ((bothWords (extentIs fun (x : Extent) => { state := x.state, attr := { tier2 := x.attr.tier2, oneDie := x.attr.oneDie, coherent := x.attr.coherent, countEn := x.attr.countEn, partition := x.attr.partition, key := x.attr.key, base := x.attr.base, count := x.attr.count : ExtAttr }, prev := x.prev, gen := x.gen, toOff := x.toOff, held := x.held, demoting := x.demoting : Extent }) Path.root Reg.homExtCmd 0 (fieldIn2 ext5 12 4 2)).getExt ((bothWords (extentIs fun (x : Extent) => { state := x.state, attr := { tier2 := x.attr.tier2, oneDie := x.attr.oneDie, coherent := x.attr.coherent, countEn := x.attr.countEn, partition := x.attr.partition, key := x.attr.key, base := x.attr.base, count := x.attr.count : ExtAttr }, prev := x.prev, gen := x.gen, toOff := x.toOff, held := x.held, demoting := x.demoting : Extent }) Path.root Reg.homExtCmd 0 (fieldIn2 ext5 12 4 2)).rd F.homExtCmd_extId)).attr.partition (bothWords (extentIs fun (x : Extent) => { state := x.state, attr := { tier2 := x.attr.tier2, oneDie := x.attr.oneDie, coherent := x.attr.coherent, countEn := x.attr.countEn, partition := x.attr.partition, key := x.attr.key, base := x.attr.base, count := x.attr.count : ExtAttr }, prev := x.prev, gen := x.gen, toOff := x.toOff, held := x.held, demoting := x.demoting : Extent }) Path.root Reg.homExtCmd 0 (fieldIn2 ext5 12 4 2)).stagedRights = true)
      ∧ (State.removes ((bothWords (extentIs fun (x : Extent) => { state := x.state, attr := { tier2 := x.attr.tier2, oneDie := x.attr.oneDie, coherent := x.attr.coherent, countEn := x.attr.countEn, partition := x.attr.partition, key := x.attr.key, base := x.attr.base, count := x.attr.count : ExtAttr }, prev := x.prev, gen := x.gen, toOff := x.toOff, held := x.held, demoting := x.demoting : Extent }) Path.root Reg.homExtCmd 0 (fieldIn2 ext5 12 4 2)).getExt ((bothWords (extentIs fun (x : Extent) => { state := x.state, attr := { tier2 := x.attr.tier2, oneDie := x.attr.oneDie, coherent := x.attr.coherent, countEn := x.attr.countEn, partition := x.attr.partition, key := x.attr.key, base := x.attr.base, count := x.attr.count : ExtAttr }, prev := x.prev, gen := x.gen, toOff := x.toOff, held := x.held, demoting := x.demoting : Extent }) Path.root Reg.homExtCmd 0 (fieldIn2 ext5 12 4 2)).rd F.homExtCmd_extId)).attr.rights (bothWords (extentIs fun (x : Extent) => { state := x.state, attr := { tier2 := x.attr.tier2, oneDie := x.attr.oneDie, coherent := x.attr.coherent, countEn := x.attr.countEn, partition := x.attr.partition, key := x.attr.key, base := x.attr.base, count := x.attr.count : ExtAttr }, prev := x.prev, gen := x.gen, toOff := x.toOff, held := x.held, demoting := x.demoting : Extent }) Path.root Reg.homExtCmd 0 (fieldIn2 ext5 12 4 2)).stagedRights = false) := by decide +kernel

theorem witness_ExtentCommands_0_1_1 :
    served.wf = true ∧ served.quiet ∧ served.rd F.pwrStatus_state = 4 ∧ served.rd F.homExtStatus_busy = 0
      ∧ acceptsBoth served Path.root Reg.homExtCmd 0 (fieldIn2 ext5 12 4 2)
      ∧ ((bothWords served Path.root Reg.homExtCmd 0 (fieldIn2 ext5 12 4 2)).getExt ((bothWords served Path.root Reg.homExtCmd 0 (fieldIn2 ext5 12 4 2)).rd F.homExtCmd_extId)).state = ExtState.on
      ∧ ((bothWords served Path.root Reg.homExtCmd 0 (fieldIn2 ext5 12 4 2)).getExt ((bothWords served Path.root Reg.homExtCmd 0 (fieldIn2 ext5 12 4 2)).rd F.homExtCmd_extId)).demoting = false
      ∧ (bothWords served Path.root Reg.homExtCmd 0 (fieldIn2 ext5 12 4 2)).rightsOk ((bothWords served Path.root Reg.homExtCmd 0 (fieldIn2 ext5 12 4 2)).getExt ((bothWords served Path.root Reg.homExtCmd 0 (fieldIn2 ext5 12 4 2)).rd F.homExtCmd_extId)).attr.partition (bothWords served Path.root Reg.homExtCmd 0 (fieldIn2 ext5 12 4 2)).stagedRights = true
      ∧ State.removes ((bothWords served Path.root Reg.homExtCmd 0 (fieldIn2 ext5 12 4 2)).getExt ((bothWords served Path.root Reg.homExtCmd 0 (fieldIn2 ext5 12 4 2)).rd F.homExtCmd_extId)).attr.rights (bothWords served Path.root Reg.homExtCmd 0 (fieldIn2 ext5 12 4 2)).stagedRights = true := by decide +kernel

theorem witness_ExtentCommands_0_2 :
    served.wf = true ∧ served.quiet ∧ served.rd F.pwrStatus_state = 4 ∧ served.rd F.homExtStatus_busy = 0
      ∧ acceptsBoth served Path.root Reg.homExtCmd 0 (fieldIn2 ext5 12 4 3)
      ∧ ((bothWords served Path.root Reg.homExtCmd 0 (fieldIn2 ext5 12 4 3)).getExt ((bothWords served Path.root Reg.homExtCmd 0 (fieldIn2 ext5 12 4 3)).rd F.homExtCmd_extId)).state = ExtState.on
      ∧ ((bothWords served Path.root Reg.homExtCmd 0 (fieldIn2 ext5 12 4 3)).getExt ((bothWords served Path.root Reg.homExtCmd 0 (fieldIn2 ext5 12 4 3)).rd F.homExtCmd_extId)).demoting = false
      ∧ (bothWords served Path.root Reg.homExtCmd 0 (fieldIn2 ext5 12 4 3)).reserveDie ((bothWords served Path.root Reg.homExtCmd 0 (fieldIn2 ext5 12 4 3)).rd F.homExtCmd_extId) = none
      ∧ (bothWords served Path.root Reg.homExtCmd 0 (fieldIn2 ext5 12 4 3)).withdrawWaits ((bothWords served Path.root Reg.homExtCmd 0 (fieldIn2 ext5 12 4 3)).rd F.homExtCmd_extId) = false := by decide +kernel

theorem witness_ExtentCommands_1_0 :
    served.wf = true ∧ served.quiet ∧ served.rd F.pwrStatus_state = 4 ∧ served.rd F.homExtStatus_busy = 0
      ∧ acceptsBoth served Path.root Reg.homExtCmd 0 (fieldIn2 ext5 12 4 1)
      ∧ (((bothWords served Path.root Reg.homExtCmd 0 (fieldIn2 ext5 12 4 1)).getExt ((bothWords served Path.root Reg.homExtCmd 0 (fieldIn2 ext5 12 4 1)).rd F.homExtCmd_extId)).state = ExtState.on ∨ ((bothWords served Path.root Reg.homExtCmd 0 (fieldIn2 ext5 12 4 1)).getExt ((bothWords served Path.root Reg.homExtCmd 0 (fieldIn2 ext5 12 4 1)).rd F.homExtCmd_extId)).state = ExtState.starting) := by decide +kernel

theorem witness_ExtentCommands_1_1 :
    served.wf = true ∧ served.quiet ∧ served.rd F.pwrStatus_state = 4 ∧ served.rd F.homExtStatus_busy = 0
      ∧ acceptsBoth served Path.root Reg.homExtCmd 0 (fieldIn2 ext7 12 4 2)
      ∧ ((bothWords served Path.root Reg.homExtCmd 0 (fieldIn2 ext7 12 4 2)).getExt ((bothWords served Path.root Reg.homExtCmd 0 (fieldIn2 ext7 12 4 2)).rd F.homExtCmd_extId)).state = ExtState.off := by decide +kernel

theorem witness_ExtentTransitions_0 :
    ((extentIs fun (x : Extent) => { state := ExtState.starting, attr := x.attr, prev := x.prev, gen := x.gen, toOff := x.toOff, held := x.held, demoting := x.demoting : Extent }).quiet)
      ∧ (((extentIs fun (x : Extent) => { state := ExtState.starting, attr := x.attr, prev := x.prev, gen := x.gen, toOff := x.toOff, held := x.held, demoting := x.demoting : Extent }).getExt 5).state = ExtState.starting) := by decide +kernel

theorem witness_ExtentTransitions_1 :
    loserHolds.quiet ∧ (loserHolds.getExt 5).state = ExtState.withdrawing ∧ loserHolds.withdrawDone 5 = true
      ∧ loserHolds.walkMissed (WalkKind.withdraw 5) = true := by decide +kernel

theorem witness_ExtentTransitions_2_0 :
    ((extentIs fun (x : Extent) => { state := ExtState.withdrawing, attr := x.attr, prev := x.prev, gen := x.gen, toOff := x.toOff, held := x.held, demoting := x.demoting : Extent }).quiet)
      ∧ (((extentIs fun (x : Extent) => { state := ExtState.withdrawing, attr := x.attr, prev := x.prev, gen := x.gen, toOff := x.toOff, held := x.held, demoting := x.demoting : Extent }).getExt 5).state = ExtState.withdrawing)
      ∧ ((extentIs fun (x : Extent) => { state := ExtState.withdrawing, attr := x.attr, prev := x.prev, gen := x.gen, toOff := x.toOff, held := x.held, demoting := x.demoting : Extent }).withdrawDone 5 = true)
      ∧ ((extentIs fun (x : Extent) => { state := ExtState.withdrawing, attr := x.attr, prev := x.prev, gen := x.gen, toOff := x.toOff, held := x.held, demoting := x.demoting : Extent }).walkMissed (WalkKind.withdraw 5) = false)
      ∧ (((extentIs fun (x : Extent) => { state := ExtState.withdrawing, attr := x.attr, prev := x.prev, gen := x.gen, toOff := x.toOff, held := x.held, demoting := x.demoting : Extent }).getExt 5).attr.count ≠ 0)
      ∧ (((extentIs fun (x : Extent) => { state := ExtState.withdrawing, attr := x.attr, prev := x.prev, gen := x.gen, toOff := x.toOff, held := x.held, demoting := x.demoting : Extent }).getExt 5).demoting = false)
      ∧ (((extentIs fun (x : Extent) => { state := ExtState.withdrawing, attr := x.attr, prev := x.prev, gen := x.gen, toOff := x.toOff, held := x.held, demoting := x.demoting : Extent }).getExt 5).toOff = false) := by decide +kernel

theorem witness_ExtentTransitions_2_1 :
    ((extentIs fun (x : Extent) => { state := ExtState.withdrawing, attr := x.attr, prev := x.prev, gen := x.gen, toOff := true, held := x.held, demoting := x.demoting : Extent }).quiet)
      ∧ (((extentIs fun (x : Extent) => { state := ExtState.withdrawing, attr := x.attr, prev := x.prev, gen := x.gen, toOff := true, held := x.held, demoting := x.demoting : Extent }).getExt 5).state = ExtState.withdrawing)
      ∧ ((extentIs fun (x : Extent) => { state := ExtState.withdrawing, attr := x.attr, prev := x.prev, gen := x.gen, toOff := true, held := x.held, demoting := x.demoting : Extent }).withdrawDone 5 = true)
      ∧ ((extentIs fun (x : Extent) => { state := ExtState.withdrawing, attr := x.attr, prev := x.prev, gen := x.gen, toOff := true, held := x.held, demoting := x.demoting : Extent }).walkMissed (WalkKind.withdraw 5) = false)
      ∧ (((extentIs fun (x : Extent) => { state := ExtState.withdrawing, attr := x.attr, prev := x.prev, gen := x.gen, toOff := true, held := x.held, demoting := x.demoting : Extent }).getExt 5).attr.count ≠ 0)
      ∧ (((extentIs fun (x : Extent) => { state := ExtState.withdrawing, attr := x.attr, prev := x.prev, gen := x.gen, toOff := true, held := x.held, demoting := x.demoting : Extent }).getExt 5).demoting = false)
      ∧ (((extentIs fun (x : Extent) => { state := ExtState.withdrawing, attr := x.attr, prev := x.prev, gen := x.gen, toOff := true, held := x.held, demoting := x.demoting : Extent }).getExt 5).toOff = true)
      ∧ (((extentIs fun (x : Extent) => { state := ExtState.withdrawing, attr := x.attr, prev := x.prev, gen := x.gen, toOff := true, held := x.held, demoting := x.demoting : Extent }).getExt 5).held = none) := by decide +kernel

theorem witness_SlotCommands_0_0 :
    served.wf = true ∧ served.quiet ∧ served.accepts (wordWrite Path.root Reg.dirSlot 127 0 (fieldIn 74565 28 2 1))
      ∧ served.otherPartition (State.bits (served.newVal (wordWrite Path.root Reg.dirSlot 127 0 (fieldIn 74565 28 2 1))) 20 4) = false
      ∧ served.rd F.dirSlot_state 127 = 0
      ∧ (served.stored (wordWrite Path.root Reg.dirSlot 127 0 (fieldIn 74565 28 2 1))).bindOk 127 = true := by decide +kernel

theorem witness_SlotCommands_0_1 :
    (slotIs 1).wf = true ∧ (slotIs 1).quiet
      ∧ (slotIs 1).accepts (wordWrite Path.root Reg.dirSlot 127 0 (fieldIn 74565 28 2 2))
      ∧ (slotIs 1).otherPartition (State.bits ((slotIs 1).newVal (wordWrite Path.root Reg.dirSlot 127 0 (fieldIn 74565 28 2 2))) 20 4) = false
      ∧ State.bits ((slotIs 1).newVal (wordWrite Path.root Reg.dirSlot 127 0 (fieldIn 74565 28 2 2))) 0 24 = State.bits ((slotIs 1).writeBase (wordWrite Path.root Reg.dirSlot 127 0 (fieldIn 74565 28 2 2))) 0 24
      ∧ (slotIs 1).rd F.dirSlot_state 127 = 1 := by decide +kernel

theorem witness_SlotCommands_0_2 :
    (slotIs 2).wf = true ∧ (slotIs 2).quiet
      ∧ (slotIs 2).accepts (wordWrite Path.root Reg.dirSlot 127 0 (fieldIn 74565 28 2 3))
      ∧ (slotIs 2).otherPartition (State.bits ((slotIs 2).newVal (wordWrite Path.root Reg.dirSlot 127 0 (fieldIn 74565 28 2 3))) 20 4) = false
      ∧ State.bits ((slotIs 2).newVal (wordWrite Path.root Reg.dirSlot 127 0 (fieldIn 74565 28 2 3))) 0 24 = State.bits ((slotIs 2).writeBase (wordWrite Path.root Reg.dirSlot 127 0 (fieldIn 74565 28 2 3))) 0 24
      ∧ ((slotIs 2).rd F.dirSlot_state 127 = 1 ∨ (slotIs 2).rd F.dirSlot_state 127 = 2) ∧ (slotIs 2).home.req = []
      ∧ (slotIs 2).home.rcl = [] := by decide +kernel

theorem witness_SlotCommands_1_0 :
    (walked 2 (WalkKind.release 127)).wf = true ∧ (walked 2 (WalkKind.release 127)).quiet
      ∧ (walked 2 (WalkKind.release 127)).rd F.dirSlot_state 127 = 2
      ∧ (walked 2 (WalkKind.release 127)).walksDone (WalkKind.release 127) = true
      ∧ (walked 2 (WalkKind.release 127)).owed 127 = false
      ∧ (∀ e ∈ (walked 2 (WalkKind.release 127)).home.dir, BitVec.getLsbD e.2.sharers 127 = false) := by decide +kernel

theorem witness_SlotCommands_1_1 :
    (walked 3 (WalkKind.sweep 127)).wf = true ∧ (walked 3 (WalkKind.sweep 127)).quiet
      ∧ (walked 3 (WalkKind.sweep 127)).rd F.dirSlot_state 127 = 3
      ∧ (walked 3 (WalkKind.sweep 127)).walksDone (WalkKind.sweep 127) = true
      ∧ (walked 3 (WalkKind.sweep 127)).owed 127 = false := by decide +kernel

theorem witness_SlotCommands_1_2_0 :
    (walking false).wf = true ∧ (walking false).quiet
      ∧ (walking false).home.walks = [{ die := 3, kind := WalkKind.release 127, next := State.dirSetKey 3 % State.dirSets : Walk }]
      ∧ State.dirSetKey 3 % State.dirSets + 1 < State.dirSets
      ∧ (walking false).setWays (3 * State.dirSets + State.dirSetKey 3 % State.dirSets) = [] := by decide +kernel

theorem witness_SlotCommands_1_2_1 :
    (walking true).wf = true ∧ (walking true).quiet
      ∧ (walking true).home.walks = [{ die := 3, kind := WalkKind.release 127, next := State.dirSetKey 3 % State.dirSets : Walk }]
      ∧ State.dirSetKey 3 % State.dirSets + 1 < State.dirSets
      ∧ (walking true).setWays (3 * State.dirSets + State.dirSetKey 3 % State.dirSets) = [(0, { line := 3, sharers := maskBit 127, state := DirState.s : DirEntry })]
      ∧ BitVec.getLsbD { line := 3, sharers := maskBit 127, state := DirState.s : DirEntry }.sharers 127 = true
      ∧ { line := 3, sharers := maskBit 127, state := DirState.s : DirEntry }.state = DirState.s
      ∧ (∀ m ∈ maskMembers { line := 3, sharers := maskBit 127, state := DirState.s : DirEntry }.sharers, (walking true).slotSweeping m = false)
      ∧ (walking true).dirFind { line := 3, sharers := maskBit 127, state := DirState.s : DirEntry }.line = some (State.dirWay { line := 3, sharers := maskBit 127, state := DirState.s : DirEntry }.line 0, { line := 3, sharers := maskBit 127, state := DirState.s : DirEntry })
      ∧ lineDie { line := 3, sharers := maskBit 127, state := DirState.s : DirEntry }.line = 3 ∧ (walking true).home.rcl = [] := by decide +kernel

/-- A controller's record. -/
def ctlIs (u : Nat) (c : Ctl) : State := { node with mem := { ctl := [(u, c)] } }

def aWrite : CtlWrite := ⟨0, 1, {}, 0⟩
def aPatrol : CtlRead := ⟨128, .patrol, 1, none⟩
def aDemand : CtlRead := ⟨0, .demand 0, 2, none⟩

/-- A supported DIMM of 64 GB. -/
def aDimm : DimmSpd := ⟨true, true, 64, 1⟩

/-- An idle timer of 5 µs on channel 11. -/
def idling (c : Ctl) : State := regsAt (ctlIs 31 c) [(F.dmcCtrl_srIdle, 11, 5)]

/-- A dirty line and a clean one in the cache, one access counter of die 3. -/
def cached : State := { node with mem := {
  msc := [(State.mscWay 0 0, ⟨0, 1, {}, true, 3⟩), (State.mscWay 0 1, ⟨4, 1, {}, false, 3⟩)]
  counts := [(5, ⟨7, 1, 9⟩), (3 * 16384 + 5, ⟨7, 1, 9⟩)] } }

/-- Channel capacity 64 GB; extent 9 is ON in tier 2, and extent 8 of tier 1 is the reserve of die 0. -/
def tiered : State :=
  { regsAt served [(F.homMigReserve_extId, 0, 8), (F.homMigReserve_valid, 0, 1)] with
    mem := { chanGB := 64 }
    home := { ext := [(8, { state := .on, attr := { oneDie := true, base := 0, count := 128 } }),
                      (9, { state := .on, attr := { tier2 := true, base := 0, count := 1 } })] } }

/-- The first page of tier 2. -/
def page2 : Nat := State.tier2Base / 2 ^ 16

/-- Its share on die 0 moves on engine 7. -/
def moving (p : Bool) (cursor : Nat) : State :=
  { tiered with mem := { tiered.mem with moves := [(7, ⟨0, page2, 0, 0, p, cursor, true⟩)], frames := [(0, ⟨page2, 0, true, 0⟩)], sweeping := [0] } }

/-- The first line of that share is at hand; or it waits for DRAM. -/
def lineAtHand (s : State) : State := { s with mem := { s.mem with arrived := [(s.lineAt { tier2 := true, base := 0, count := 1 } (State.shareOffset 0 page2 0 0 false), (1, {}))] } }

def promoted : State := { tiered with mem := { tiered.mem with frames := [(0, ⟨page2, 0, true, 0⟩)] } }

/-- The reserve of die 0 is two granules, whose frames are taken. -/
def full : State :=
  { tiered with
    mem := { tiered.mem with sweeping := [0], frames := (List.range 128).map fun i => (i, ⟨page2 + i, 0, true, 0⟩) }
    home := { ext := [(8, { state := .on, attr := { oneDie := true, base := 0, count := 2 } })] } }

theorem witness_ControllerTraffic_0_0_1_0 :
    (ctlIs 31 { wq := [aWrite, { addr := 256, data := 2, md := { : LineMeta }, seq := 4 : CtlWrite }] : Ctl }).quiet
      ∧ (ctlIs 31 { wq := [aWrite, { addr := 256, data := 2, md := { : LineMeta }, seq := 4 : CtlWrite }] : Ctl }).mem.ctl.sorted = true
      ∧ (((ctlIs 31 { wq := [aWrite, { addr := 256, data := 2, md := { : LineMeta }, seq := 4 : CtlWrite }] : Ctl }).uCtl 31 fun (c : Ctl) => { rq := c.rq, wq := c.wq, rwait := c.rwait, wwait := c.wwait, issued := c.issued, seq := c.seq, drain := if ((ctlIs 31 { wq := [aWrite, { addr := 256, data := 2, md := { : LineMeta }, seq := 4 : CtlWrite }] : Ctl }).drainLevels 31).1 ≤ ((ctlIs 31 { wq := [aWrite, { addr := 256, data := 2, md := { : LineMeta }, seq := 4 : CtlWrite }] : Ctl }).ctl 31).wq.length then true else if ((ctlIs 31 { wq := [aWrite, { addr := 256, data := 2, md := { : LineMeta }, seq := 4 : CtlWrite }] : Ctl }).ctl 31).wq.length ≤ ((ctlIs 31 { wq := [aWrite, { addr := 256, data := 2, md := { : LineMeta }, seq := 4 : CtlWrite }] : Ctl }).drainLevels 31).2 then false else c.drain, rows := c.rows, sr := c.sr, postponed := c.postponed, patrolAt := c.patrolAt, patrolCorr := c.patrolCorr, patrolLast := c.patrolLast, refMult := c.refMult : Ctl }).nextIssue 31 1 = some { read := false, pos := 0, addr := 0, seq := 0 : State.Queued })
      ∧ ({ read := false, pos := 0, addr := 0, seq := 0 : State.Queued } ∈ State.readyRequests (((ctlIs 31 { wq := [aWrite, { addr := 256, data := 2, md := { : LineMeta }, seq := 4 : CtlWrite }] : Ctl }).uCtl 31 fun (c : Ctl) => { rq := c.rq, wq := c.wq, rwait := c.rwait, wwait := c.wwait, issued := c.issued, seq := c.seq, drain := if ((ctlIs 31 { wq := [aWrite, { addr := 256, data := 2, md := { : LineMeta }, seq := 4 : CtlWrite }] : Ctl }).drainLevels 31).1 ≤ ((ctlIs 31 { wq := [aWrite, { addr := 256, data := 2, md := { : LineMeta }, seq := 4 : CtlWrite }] : Ctl }).ctl 31).wq.length then true else if ((ctlIs 31 { wq := [aWrite, { addr := 256, data := 2, md := { : LineMeta }, seq := 4 : CtlWrite }] : Ctl }).ctl 31).wq.length ≤ ((ctlIs 31 { wq := [aWrite, { addr := 256, data := 2, md := { : LineMeta }, seq := 4 : CtlWrite }] : Ctl }).drainLevels 31).2 then false else c.drain, rows := c.rows, sr := c.sr, postponed := c.postponed, patrolAt := c.patrolAt, patrolCorr := c.patrolCorr, patrolLast := c.patrolLast, refMult := c.refMult : Ctl }).ctl 31))
      ∧ ((List.filter (fun (x : ℕ) => decide (x < { read := false, pos := 0, addr := 0, seq := 0 : State.Queued }.seq)) (List.map (fun (x : CtlRead) => x.seq) ((ctlIs 31 { wq := [aWrite, { addr := 256, data := 2, md := { : LineMeta }, seq := 4 : CtlWrite }] : Ctl }).ctl 31).rq ++ List.map (fun (x : CtlWrite) => x.seq) ((ctlIs 31 { wq := [aWrite, { addr := 256, data := 2, md := { : LineMeta }, seq := 4 : CtlWrite }] : Ctl }).ctl 31).wq)).length < 1) := by decide +kernel

theorem witness_ControllerTraffic_0_0_1_1 :
    (ctlIs 31 { wq := [{ addr := 2 ^ 30, data := 2, md := { : LineMeta } : CtlWrite }, { addr := 128, data := 1, md := { : LineMeta }, seq := 1 : CtlWrite }], rows := [((node.bankRow 31 128).1, (node.bankRow 31 128).2)] : Ctl }).quiet
      ∧ (ctlIs 31 { wq := [{ addr := 2 ^ 30, data := 2, md := { : LineMeta } : CtlWrite }, { addr := 128, data := 1, md := { : LineMeta }, seq := 1 : CtlWrite }], rows := [((node.bankRow 31 128).1, (node.bankRow 31 128).2)] : Ctl }).mem.ctl.sorted = true
      ∧ (((ctlIs 31 { wq := [{ addr := 2 ^ 30, data := 2, md := { : LineMeta } : CtlWrite }, { addr := 128, data := 1, md := { : LineMeta }, seq := 1 : CtlWrite }], rows := [((node.bankRow 31 128).1, (node.bankRow 31 128).2)] : Ctl }).uCtl 31 fun (c : Ctl) => { rq := c.rq, wq := c.wq, rwait := c.rwait, wwait := c.wwait, issued := c.issued, seq := c.seq, drain := if ((ctlIs 31 { wq := [{ addr := 2 ^ 30, data := 2, md := { : LineMeta } : CtlWrite }, { addr := 128, data := 1, md := { : LineMeta }, seq := 1 : CtlWrite }], rows := [((node.bankRow 31 128).1, (node.bankRow 31 128).2)] : Ctl }).drainLevels 31).1 ≤ ((ctlIs 31 { wq := [{ addr := 2 ^ 30, data := 2, md := { : LineMeta } : CtlWrite }, { addr := 128, data := 1, md := { : LineMeta }, seq := 1 : CtlWrite }], rows := [((node.bankRow 31 128).1, (node.bankRow 31 128).2)] : Ctl }).ctl 31).wq.length then true else if ((ctlIs 31 { wq := [{ addr := 2 ^ 30, data := 2, md := { : LineMeta } : CtlWrite }, { addr := 128, data := 1, md := { : LineMeta }, seq := 1 : CtlWrite }], rows := [((node.bankRow 31 128).1, (node.bankRow 31 128).2)] : Ctl }).ctl 31).wq.length ≤ ((ctlIs 31 { wq := [{ addr := 2 ^ 30, data := 2, md := { : LineMeta } : CtlWrite }, { addr := 128, data := 1, md := { : LineMeta }, seq := 1 : CtlWrite }], rows := [((node.bankRow 31 128).1, (node.bankRow 31 128).2)] : Ctl }).drainLevels 31).2 then false else c.drain, rows := c.rows, sr := c.sr, postponed := c.postponed, patrolAt := c.patrolAt, patrolCorr := c.patrolCorr, patrolLast := c.patrolLast, refMult := c.refMult : Ctl }).nextIssue 31 0 = some { read := false, pos := 1, addr := 128, seq := 1 : State.Queued })
      ∧ ({ read := false, pos := 1, addr := 128, seq := 1 : State.Queued } ∈ State.readyRequests (((ctlIs 31 { wq := [{ addr := 2 ^ 30, data := 2, md := { : LineMeta } : CtlWrite }, { addr := 128, data := 1, md := { : LineMeta }, seq := 1 : CtlWrite }], rows := [((node.bankRow 31 128).1, (node.bankRow 31 128).2)] : Ctl }).uCtl 31 fun (c : Ctl) => { rq := c.rq, wq := c.wq, rwait := c.rwait, wwait := c.wwait, issued := c.issued, seq := c.seq, drain := if ((ctlIs 31 { wq := [{ addr := 2 ^ 30, data := 2, md := { : LineMeta } : CtlWrite }, { addr := 128, data := 1, md := { : LineMeta }, seq := 1 : CtlWrite }], rows := [((node.bankRow 31 128).1, (node.bankRow 31 128).2)] : Ctl }).drainLevels 31).1 ≤ ((ctlIs 31 { wq := [{ addr := 2 ^ 30, data := 2, md := { : LineMeta } : CtlWrite }, { addr := 128, data := 1, md := { : LineMeta }, seq := 1 : CtlWrite }], rows := [((node.bankRow 31 128).1, (node.bankRow 31 128).2)] : Ctl }).ctl 31).wq.length then true else if ((ctlIs 31 { wq := [{ addr := 2 ^ 30, data := 2, md := { : LineMeta } : CtlWrite }, { addr := 128, data := 1, md := { : LineMeta }, seq := 1 : CtlWrite }], rows := [((node.bankRow 31 128).1, (node.bankRow 31 128).2)] : Ctl }).ctl 31).wq.length ≤ ((ctlIs 31 { wq := [{ addr := 2 ^ 30, data := 2, md := { : LineMeta } : CtlWrite }, { addr := 128, data := 1, md := { : LineMeta }, seq := 1 : CtlWrite }], rows := [((node.bankRow 31 128).1, (node.bankRow 31 128).2)] : Ctl }).drainLevels 31).2 then false else c.drain, rows := c.rows, sr := c.sr, postponed := c.postponed, patrolAt := c.patrolAt, patrolCorr := c.patrolCorr, patrolLast := c.patrolLast, refMult := c.refMult : Ctl }).ctl 31))
      ∧ (∀ y ∈ State.readyRequests (((ctlIs 31 { wq := [{ addr := 2 ^ 30, data := 2, md := { : LineMeta } : CtlWrite }, { addr := 128, data := 1, md := { : LineMeta }, seq := 1 : CtlWrite }], rows := [((node.bankRow 31 128).1, (node.bankRow 31 128).2)] : Ctl }).uCtl 31 fun (c : Ctl) => { rq := c.rq, wq := c.wq, rwait := c.rwait, wwait := c.wwait, issued := c.issued, seq := c.seq, drain := if ((ctlIs 31 { wq := [{ addr := 2 ^ 30, data := 2, md := { : LineMeta } : CtlWrite }, { addr := 128, data := 1, md := { : LineMeta }, seq := 1 : CtlWrite }], rows := [((node.bankRow 31 128).1, (node.bankRow 31 128).2)] : Ctl }).drainLevels 31).1 ≤ ((ctlIs 31 { wq := [{ addr := 2 ^ 30, data := 2, md := { : LineMeta } : CtlWrite }, { addr := 128, data := 1, md := { : LineMeta }, seq := 1 : CtlWrite }], rows := [((node.bankRow 31 128).1, (node.bankRow 31 128).2)] : Ctl }).ctl 31).wq.length then true else if ((ctlIs 31 { wq := [{ addr := 2 ^ 30, data := 2, md := { : LineMeta } : CtlWrite }, { addr := 128, data := 1, md := { : LineMeta }, seq := 1 : CtlWrite }], rows := [((node.bankRow 31 128).1, (node.bankRow 31 128).2)] : Ctl }).ctl 31).wq.length ≤ ((ctlIs 31 { wq := [{ addr := 2 ^ 30, data := 2, md := { : LineMeta } : CtlWrite }, { addr := 128, data := 1, md := { : LineMeta }, seq := 1 : CtlWrite }], rows := [((node.bankRow 31 128).1, (node.bankRow 31 128).2)] : Ctl }).drainLevels 31).2 then false else c.drain, rows := c.rows, sr := c.sr, postponed := c.postponed, patrolAt := c.patrolAt, patrolCorr := c.patrolCorr, patrolLast := c.patrolLast, refMult := c.refMult : Ctl }).ctl 31), ¬(List.filter (fun (x : ℕ) => decide (x < y.seq)) (List.map (fun (x : CtlRead) => x.seq) ((ctlIs 31 { wq := [{ addr := 2 ^ 30, data := 2, md := { : LineMeta } : CtlWrite }, { addr := 128, data := 1, md := { : LineMeta }, seq := 1 : CtlWrite }], rows := [((node.bankRow 31 128).1, (node.bankRow 31 128).2)] : Ctl }).ctl 31).rq ++ List.map (fun (x : CtlWrite) => x.seq) ((ctlIs 31 { wq := [{ addr := 2 ^ 30, data := 2, md := { : LineMeta } : CtlWrite }, { addr := 128, data := 1, md := { : LineMeta }, seq := 1 : CtlWrite }], rows := [((node.bankRow 31 128).1, (node.bankRow 31 128).2)] : Ctl }).ctl 31).wq)).length < 0)
      ∧ (((ctlIs 31 { wq := [{ addr := 2 ^ 30, data := 2, md := { : LineMeta } : CtlWrite }, { addr := 128, data := 1, md := { : LineMeta }, seq := 1 : CtlWrite }], rows := [((node.bankRow 31 128).1, (node.bankRow 31 128).2)] : Ctl }).uCtl 31 fun (c : Ctl) => { rq := c.rq, wq := c.wq, rwait := c.rwait, wwait := c.wwait, issued := c.issued, seq := c.seq, drain := if ((ctlIs 31 { wq := [{ addr := 2 ^ 30, data := 2, md := { : LineMeta } : CtlWrite }, { addr := 128, data := 1, md := { : LineMeta }, seq := 1 : CtlWrite }], rows := [((node.bankRow 31 128).1, (node.bankRow 31 128).2)] : Ctl }).drainLevels 31).1 ≤ ((ctlIs 31 { wq := [{ addr := 2 ^ 30, data := 2, md := { : LineMeta } : CtlWrite }, { addr := 128, data := 1, md := { : LineMeta }, seq := 1 : CtlWrite }], rows := [((node.bankRow 31 128).1, (node.bankRow 31 128).2)] : Ctl }).ctl 31).wq.length then true else if ((ctlIs 31 { wq := [{ addr := 2 ^ 30, data := 2, md := { : LineMeta } : CtlWrite }, { addr := 128, data := 1, md := { : LineMeta }, seq := 1 : CtlWrite }], rows := [((node.bankRow 31 128).1, (node.bankRow 31 128).2)] : Ctl }).ctl 31).wq.length ≤ ((ctlIs 31 { wq := [{ addr := 2 ^ 30, data := 2, md := { : LineMeta } : CtlWrite }, { addr := 128, data := 1, md := { : LineMeta }, seq := 1 : CtlWrite }], rows := [((node.bankRow 31 128).1, (node.bankRow 31 128).2)] : Ctl }).drainLevels 31).2 then false else c.drain, rows := c.rows, sr := c.sr, postponed := c.postponed, patrolAt := c.patrolAt, patrolCorr := c.patrolCorr, patrolLast := c.patrolLast, refMult := c.refMult : Ctl }).rowHit 31 { read := false, pos := 1, addr := 128, seq := 1 : State.Queued }.addr = true) := by decide +kernel

theorem witness_ControllerTraffic_0_0_1_2 :
    (ctlIs 31 { wq := [aWrite, { addr := 256, data := 2, md := { : LineMeta }, seq := 4 : CtlWrite }] : Ctl }).quiet
      ∧ (ctlIs 31 { wq := [aWrite, { addr := 256, data := 2, md := { : LineMeta }, seq := 4 : CtlWrite }] : Ctl }).mem.ctl.sorted = true
      ∧ (((ctlIs 31 { wq := [aWrite, { addr := 256, data := 2, md := { : LineMeta }, seq := 4 : CtlWrite }] : Ctl }).uCtl 31 fun (c : Ctl) => { rq := c.rq, wq := c.wq, rwait := c.rwait, wwait := c.wwait, issued := c.issued, seq := c.seq, drain := if ((ctlIs 31 { wq := [aWrite, { addr := 256, data := 2, md := { : LineMeta }, seq := 4 : CtlWrite }] : Ctl }).drainLevels 31).1 ≤ ((ctlIs 31 { wq := [aWrite, { addr := 256, data := 2, md := { : LineMeta }, seq := 4 : CtlWrite }] : Ctl }).ctl 31).wq.length then true else if ((ctlIs 31 { wq := [aWrite, { addr := 256, data := 2, md := { : LineMeta }, seq := 4 : CtlWrite }] : Ctl }).ctl 31).wq.length ≤ ((ctlIs 31 { wq := [aWrite, { addr := 256, data := 2, md := { : LineMeta }, seq := 4 : CtlWrite }] : Ctl }).drainLevels 31).2 then false else c.drain, rows := c.rows, sr := c.sr, postponed := c.postponed, patrolAt := c.patrolAt, patrolCorr := c.patrolCorr, patrolLast := c.patrolLast, refMult := c.refMult : Ctl }).nextIssue 31 0 = some { read := false, pos := 0, addr := 0, seq := 0 : State.Queued })
      ∧ ({ read := false, pos := 1, addr := 256, seq := 4 : State.Queued } ∈ State.readyRequests (((ctlIs 31 { wq := [aWrite, { addr := 256, data := 2, md := { : LineMeta }, seq := 4 : CtlWrite }] : Ctl }).uCtl 31 fun (c : Ctl) => { rq := c.rq, wq := c.wq, rwait := c.rwait, wwait := c.wwait, issued := c.issued, seq := c.seq, drain := if ((ctlIs 31 { wq := [aWrite, { addr := 256, data := 2, md := { : LineMeta }, seq := 4 : CtlWrite }] : Ctl }).drainLevels 31).1 ≤ ((ctlIs 31 { wq := [aWrite, { addr := 256, data := 2, md := { : LineMeta }, seq := 4 : CtlWrite }] : Ctl }).ctl 31).wq.length then true else if ((ctlIs 31 { wq := [aWrite, { addr := 256, data := 2, md := { : LineMeta }, seq := 4 : CtlWrite }] : Ctl }).ctl 31).wq.length ≤ ((ctlIs 31 { wq := [aWrite, { addr := 256, data := 2, md := { : LineMeta }, seq := 4 : CtlWrite }] : Ctl }).drainLevels 31).2 then false else c.drain, rows := c.rows, sr := c.sr, postponed := c.postponed, patrolAt := c.patrolAt, patrolCorr := c.patrolCorr, patrolLast := c.patrolLast, refMult := c.refMult : Ctl }).ctl 31))
      ∧ (∀ y ∈ State.readyRequests (((ctlIs 31 { wq := [aWrite, { addr := 256, data := 2, md := { : LineMeta }, seq := 4 : CtlWrite }] : Ctl }).uCtl 31 fun (c : Ctl) => { rq := c.rq, wq := c.wq, rwait := c.rwait, wwait := c.wwait, issued := c.issued, seq := c.seq, drain := if ((ctlIs 31 { wq := [aWrite, { addr := 256, data := 2, md := { : LineMeta }, seq := 4 : CtlWrite }] : Ctl }).drainLevels 31).1 ≤ ((ctlIs 31 { wq := [aWrite, { addr := 256, data := 2, md := { : LineMeta }, seq := 4 : CtlWrite }] : Ctl }).ctl 31).wq.length then true else if ((ctlIs 31 { wq := [aWrite, { addr := 256, data := 2, md := { : LineMeta }, seq := 4 : CtlWrite }] : Ctl }).ctl 31).wq.length ≤ ((ctlIs 31 { wq := [aWrite, { addr := 256, data := 2, md := { : LineMeta }, seq := 4 : CtlWrite }] : Ctl }).drainLevels 31).2 then false else c.drain, rows := c.rows, sr := c.sr, postponed := c.postponed, patrolAt := c.patrolAt, patrolCorr := c.patrolCorr, patrolLast := c.patrolLast, refMult := c.refMult : Ctl }).ctl 31), ¬(List.filter (fun (x : ℕ) => decide (x < y.seq)) (List.map (fun (x : CtlRead) => x.seq) ((ctlIs 31 { wq := [aWrite, { addr := 256, data := 2, md := { : LineMeta }, seq := 4 : CtlWrite }] : Ctl }).ctl 31).rq ++ List.map (fun (x : CtlWrite) => x.seq) ((ctlIs 31 { wq := [aWrite, { addr := 256, data := 2, md := { : LineMeta }, seq := 4 : CtlWrite }] : Ctl }).ctl 31).wq)).length < 0 ∧ ((ctlIs 31 { wq := [aWrite, { addr := 256, data := 2, md := { : LineMeta }, seq := 4 : CtlWrite }] : Ctl }).uCtl 31 fun (c : Ctl) => { rq := c.rq, wq := c.wq, rwait := c.rwait, wwait := c.wwait, issued := c.issued, seq := c.seq, drain := if ((ctlIs 31 { wq := [aWrite, { addr := 256, data := 2, md := { : LineMeta }, seq := 4 : CtlWrite }] : Ctl }).drainLevels 31).1 ≤ ((ctlIs 31 { wq := [aWrite, { addr := 256, data := 2, md := { : LineMeta }, seq := 4 : CtlWrite }] : Ctl }).ctl 31).wq.length then true else if ((ctlIs 31 { wq := [aWrite, { addr := 256, data := 2, md := { : LineMeta }, seq := 4 : CtlWrite }] : Ctl }).ctl 31).wq.length ≤ ((ctlIs 31 { wq := [aWrite, { addr := 256, data := 2, md := { : LineMeta }, seq := 4 : CtlWrite }] : Ctl }).drainLevels 31).2 then false else c.drain, rows := c.rows, sr := c.sr, postponed := c.postponed, patrolAt := c.patrolAt, patrolCorr := c.patrolCorr, patrolLast := c.patrolLast, refMult := c.refMult : Ctl }).rowHit 31 y.addr = false) := by decide +kernel

theorem witness_ControllerTraffic_0_1_0 :
    (ctlIs 31 { wq := [aWrite] : Ctl }).quiet ∧ (ctlIs 31 { wq := [aWrite] : Ctl }).mem.ctl.sorted = true
      ∧ (((ctlIs 31 { wq := [aWrite] : Ctl }).uCtl 31 fun (c : Ctl) => { rq := c.rq, wq := c.wq, rwait := c.rwait, wwait := c.wwait, issued := c.issued, seq := c.seq, drain := if ((ctlIs 31 { wq := [aWrite] : Ctl }).drainLevels 31).1 ≤ ((ctlIs 31 { wq := [aWrite] : Ctl }).ctl 31).wq.length then true else if ((ctlIs 31 { wq := [aWrite] : Ctl }).ctl 31).wq.length ≤ ((ctlIs 31 { wq := [aWrite] : Ctl }).drainLevels 31).2 then false else c.drain, rows := c.rows, sr := c.sr, postponed := c.postponed, patrolAt := c.patrolAt, patrolCorr := c.patrolCorr, patrolLast := c.patrolLast, refMult := c.refMult : Ctl }).nextIssue 31 1 = some { read := false, pos := 0, addr := 0, seq := 0 : State.Queued })
      ∧ ((ctlIs 31 { wq := [aWrite] : Ctl }).ctl 31).sr = SrState.awake
      ∧ ((ctlIs 31 { wq := [aWrite] : Ctl }).ctl 31).rwait = [] ∧ ((ctlIs 31 { wq := [aWrite] : Ctl }).ctl 31).wwait = []
      ∧ { read := false, pos := 0, addr := 0, seq := 0 : State.Queued }.read = false
      ∧ ((ctlIs 31 { wq := [aWrite] : Ctl }).ctl 31).wq[{ read := false, pos := 0, addr := 0, seq := 0 : State.Queued }.pos]? = some aWrite := by decide +kernel

theorem witness_ControllerTraffic_0_1_1 :
    (ctlIs 0 { rq := [aPatrol] : Ctl }).quiet ∧ (ctlIs 0 { rq := [aPatrol] : Ctl }).mem.ctl.sorted = true
      ∧ (((ctlIs 0 { rq := [aPatrol] : Ctl }).uCtl 0 fun (c : Ctl) => { rq := c.rq, wq := c.wq, rwait := c.rwait, wwait := c.wwait, issued := c.issued, seq := c.seq, drain := if ((ctlIs 0 { rq := [aPatrol] : Ctl }).drainLevels 0).1 ≤ ((ctlIs 0 { rq := [aPatrol] : Ctl }).ctl 0).wq.length then true else if ((ctlIs 0 { rq := [aPatrol] : Ctl }).ctl 0).wq.length ≤ ((ctlIs 0 { rq := [aPatrol] : Ctl }).drainLevels 0).2 then false else c.drain, rows := c.rows, sr := c.sr, postponed := c.postponed, patrolAt := c.patrolAt, patrolCorr := c.patrolCorr, patrolLast := c.patrolLast, refMult := c.refMult : Ctl }).nextIssue 0 0 = some { read := true, pos := 0, addr := 128, seq := 1 : State.Queued })
      ∧ ((ctlIs 0 { rq := [aPatrol] : Ctl }).ctl 0).sr = SrState.awake
      ∧ ((ctlIs 0 { rq := [aPatrol] : Ctl }).ctl 0).rwait = [] ∧ ((ctlIs 0 { rq := [aPatrol] : Ctl }).ctl 0).wwait = []
      ∧ { read := true, pos := 0, addr := 128, seq := 1 : State.Queued }.read = true
      ∧ ((ctlIs 0 { rq := [aPatrol] : Ctl }).ctl 0).rq[{ read := true, pos := 0, addr := 128, seq := 1 : State.Queued }.pos]? = some aPatrol := by decide +kernel

theorem witness_ControllerTraffic_1_0 :
    (ctlIs 0 { issued := [aPatrol] : Ctl }).quiet ∧ (ctlIs 0 { issued := [aPatrol] : Ctl }).mem.ctl.sorted = true
      ∧ ((ctlIs 0 { issued := [aPatrol] : Ctl }).ctl 0).issued = [aPatrol] ∧ aPatrol.kind = CtlKind.patrol := by decide +kernel

theorem witness_ControllerTraffic_1_1 :
    (ctlIs 0 { issued := [{ addr := 0, kind := CtlKind.prefetch 0 : CtlRead }] : Ctl }).quiet
      ∧ (ctlIs 0 { issued := [{ addr := 0, kind := CtlKind.prefetch 0 : CtlRead }] : Ctl }).mem.ctl.sorted = true
      ∧ ((ctlIs 0 { issued := [{ addr := 0, kind := CtlKind.prefetch 0 : CtlRead }] : Ctl }).ctl 0).issued = [{ addr := 0, kind := CtlKind.prefetch 0 : CtlRead }]
      ∧ { addr := 0, kind := CtlKind.prefetch 0 : CtlRead }.kind = CtlKind.prefetch 0
      ∧ { addr := 0, kind := CtlKind.prefetch 0 : CtlRead }.before = none
      ∧ (ctlIs 0 { issued := [{ addr := 0, kind := CtlKind.prefetch 0 : CtlRead }] : Ctl }).servedAt 0 = (0, { addr := 0, kind := CtlKind.prefetch 0 : CtlRead }.addr)
      ∧ (ctlIs 0 { issued := [{ addr := 0, kind := CtlKind.prefetch 0 : CtlRead }] : Ctl }).mscFind 0 = none
      ∧ (List.find? (fun (w : ℕ) => ((ctlIs 0 { issued := [{ addr := 0, kind := CtlKind.prefetch 0 : CtlRead }] : Ctl }).mem.msc.look (State.mscWay 0 w)).isNone) (List.range 16) = some 0) := by decide +kernel

theorem witness_ControllerTraffic_1_2 :
    (ctlIs 0 { issued := [aDemand] : Ctl }).quiet ∧ (ctlIs 0 { issued := [aDemand] : Ctl }).mem.ctl.sorted = true
      ∧ ((ctlIs 0 { issued := [aDemand] : Ctl }).ctl 0).issued = [aDemand] ∧ aDemand.kind = CtlKind.demand 0
      ∧ aDemand.before = none ∧ (ctlIs 0 { issued := [aDemand] : Ctl }).servedAt 0 = (0, aDemand.addr)
      ∧ (ctlIs 0 { issued := [aDemand] : Ctl }).mscFind 0 = none
      ∧ (ctlIs 0 { issued := [aDemand] : Ctl }).home.queue.look 0 = none := by decide +kernel

theorem witness_ControllerTraffic_2 :
    (ctlIs 0 { patrolAt := 3 : Ctl }).quiet ∧ (ctlIs 0 { patrolAt := 3 : Ctl }).mem.ctl.sorted = true
      ∧ ((ctlIs 0 { patrolAt := 3 : Ctl }).ctl 0).sr = SrState.awake ∧ (ctlIs 0 { patrolAt := 3 : Ctl }).unitLines 0 ≠ 0
      ∧ ((ctlIs 0 { patrolAt := 3 : Ctl }).ctl 0).rq.length < State.readLimit 0
      ∧ ((ctlIs 0 { patrolAt := 3 : Ctl }).ctl 0).rwait = [] ∧ ((ctlIs 0 { patrolAt := 3 : Ctl }).ctl 0).patrolAt = 3
      ∧ 3 + 1 < (ctlIs 0 { patrolAt := 3 : Ctl }).unitLines 0 := by decide +kernel

theorem witness_MemoryUpkeep_0_0 :
    (ctlIs 19 { rows := [(5, 1), (2047, 3)] : Ctl }).wf = true ∧ (ctlIs 19 { rows := [(5, 1), (2047, 3)] : Ctl }).quiet
      ∧ (ctlIs 19 { rows := [(5, 1), (2047, 3)] : Ctl }).mem.ctl.sorted = true
      ∧ ((ctlIs 19 { rows := [(5, 1), (2047, 3)] : Ctl }).ctl 19).sr = SrState.awake := by decide +kernel

theorem witness_MemoryUpkeep_0_0_a :
    (ctlIs 19 { wq := [aWrite] : Ctl }).wf = true ∧ (ctlIs 19 { wq := [aWrite] : Ctl }).quiet
      ∧ (ctlIs 19 { wq := [aWrite] : Ctl }).mem.ctl.sorted = true
      ∧ ((ctlIs 19 { wq := [aWrite] : Ctl }).ctl 19).sr = SrState.awake := by decide +kernel

theorem witness_MemoryUpkeep_0_1 :
    (idling { : Ctl }).wf = true ∧ (idling { : Ctl }).quiet ∧ (idling { : Ctl }).mem.ctl.sorted = true
      ∧ ((idling { : Ctl }).ctl 31).sr = SrState.awake ∧ (idling { : Ctl }).srIdleTime 31 ≠ 0
      ∧ (idling { : Ctl }).ctlEmpty 31 = true := by decide +kernel

theorem witness_MemoryUpkeep_0_2 :
    (ctlIs 31 { sr := SrState.entering : Ctl }).wf = true ∧ (ctlIs 31 { sr := SrState.entering : Ctl }).quiet
      ∧ (ctlIs 31 { sr := SrState.entering : Ctl }).mem.ctl.sorted = true
      ∧ ((ctlIs 31 { sr := SrState.entering : Ctl }).ctl 31).sr = SrState.entering := by decide +kernel

theorem witness_MemoryUpkeep_0_3 :
    (ctlIs 31 { sr := SrState.asleep : Ctl }).wf = true ∧ (ctlIs 31 { sr := SrState.asleep : Ctl }).quiet
      ∧ (ctlIs 31 { sr := SrState.asleep : Ctl }).mem.ctl.sorted = true
      ∧ ((ctlIs 31 { sr := SrState.asleep : Ctl }).ctl 31).sr = SrState.asleep
      ∧ (true = true ∨ (ctlIs 31 { sr := SrState.asleep : Ctl }).ctlEmpty 31 = false) := by decide +kernel

theorem witness_MemoryUpkeep_0_4 :
    (ctlIs 31 { sr := SrState.exiting : Ctl }).wf = true ∧ (ctlIs 31 { sr := SrState.exiting : Ctl }).quiet
      ∧ (ctlIs 31 { sr := SrState.exiting : Ctl }).mem.ctl.sorted = true
      ∧ ((ctlIs 31 { sr := SrState.exiting : Ctl }).ctl 31).sr = SrState.exiting := by decide +kernel

theorem witness_MemoryUpkeep_0_5 :
    node.wf = true ∧ node.quiet ∧ node.mem.ctl.sorted = true ∧ 31 = 20 + 11 := by decide +kernel

theorem witness_MemoryUpkeep_0_6 :
    node.wf = true ∧ node.quiet ∧ node.mem.ctl.sorted = true := by decide +kernel

theorem witness_MemoryUpkeep_0_7 :
    node.wf = true ∧ node.quiet ∧ node.mem.ctl.sorted = true ∧ State.dimmUsable (some aDimm) = some aDimm
      ∧ State.dimmUsable (some aDimm) = some aDimm ∧ aDimm.capacity = aDimm.capacity := by decide +kernel

theorem witness_MemoryUpkeep_1_0 :
    cached.wf = true ∧ cached.quiet
      ∧ cached.accepts (wordWrite Path.root Reg.mscCtrl 0 0 (fieldIn (BitVec.setWidth 32 (Reg.mscCtrl.reset 0)) 16 1 1))
      ∧ ((List.map (fun (x : ℕ × MscLine) => x.1) (List.filter (fun (e : ℕ × MscLine) => lineDie e.2.line == 0 && e.2.dirty) cached.mem.msc)).Nodup) := by decide +kernel

theorem witness_MemoryUpkeep_1_1 :
    cached.wf = true ∧ cached.quiet ∧ (∀ u < 32, State.unitDie u = 3 → (cached.ctl u).wwait = []) := by decide +kernel

theorem witness_MemoryUpkeep_1_2 :
    (ctlIs 31 { wwait := [aWrite] : Ctl }).wf = true ∧ (ctlIs 31 { wwait := [aWrite] : Ctl }).quiet
      ∧ (∃ u < 32, State.unitDie u = 3 ∧ ((ctlIs 31 { wwait := [aWrite] : Ctl }).ctl u).wwait ≠ []) := by decide +kernel

theorem witness_MemoryUpkeep_1_3 :
    cached.wf = true ∧ cached.quiet := by decide +kernel

theorem witness_Migration_0 :
    tiered.wf = true ∧ tiered.quiet
      ∧ (1 = 1 ∧ Instr.promote Path.root 0 (BitVec.ofNat 64 page2) = Instr.promote Path.root 0 (BitVec.ofNat 64 page2) ∨ 1 = 2 ∧ Instr.promote Path.root 0 (BitVec.ofNat 64 page2) = Instr.demote Path.root 0 (BitVec.ofNat 64 page2))
      ∧ acceptsBoth tiered Path.root Reg.homMigCmd 0 (fieldIn2 (BitVec.ofNat 64 page2) 38 2 1)
      ∧ tiered.rd F.homMigStatus_busy = 0
      ∧ (bothWords tiered Path.root Reg.homMigCmd 0 (fieldIn2 (BitVec.ofNat 64 page2) 38 2 1)).moveRefused 0 ((bothWords tiered Path.root Reg.homMigCmd 0 (fieldIn2 (BitVec.ofNat 64 page2) 38 2 1)).rd F.homMigCmd_page) ((bothWords tiered Path.root Reg.homMigCmd 0 (fieldIn2 (BitVec.ofNat 64 page2) 38 2 1)).rd F.homMigCmd_share) 1 = none
      ∧ (1 = 1 → (bothWords tiered Path.root Reg.homMigCmd 0 (fieldIn2 (BitVec.ofNat 64 page2) 38 2 1)).reserveLeaving 0 = false)
      ∧ (bothWords tiered Path.root Reg.homMigCmd 0 (fieldIn2 (BitVec.ofNat 64 page2) 38 2 1)).movedNow 0 < (bothWords tiered Path.root Reg.homMigCmd 0 (fieldIn2 (BitVec.ofNat 64 page2) 38 2 1)).rd F.homMigCtrl_rate
      ∧ (bothWords tiered Path.root Reg.homMigCmd 0 (fieldIn2 (BitVec.ofNat 64 page2) 38 2 1)).moveRoom 0 = true
      ∧ (bothWords tiered Path.root Reg.homMigCmd 0 (fieldIn2 (BitVec.ofNat 64 page2) 38 2 1)).idleEngine 0 = some 0 := by decide +kernel

theorem witness_Migration_0_a :
    promoted.wf = true ∧ promoted.quiet
      ∧ (2 = 1 ∧ Instr.demote Path.root 0 (BitVec.ofNat 64 page2) = Instr.promote Path.root 0 (BitVec.ofNat 64 page2) ∨ 2 = 2 ∧ Instr.demote Path.root 0 (BitVec.ofNat 64 page2) = Instr.demote Path.root 0 (BitVec.ofNat 64 page2))
      ∧ acceptsBoth promoted Path.root Reg.homMigCmd 0 (fieldIn2 (BitVec.ofNat 64 page2) 38 2 2)
      ∧ promoted.rd F.homMigStatus_busy = 0
      ∧ (bothWords promoted Path.root Reg.homMigCmd 0 (fieldIn2 (BitVec.ofNat 64 page2) 38 2 2)).moveRefused 0 ((bothWords promoted Path.root Reg.homMigCmd 0 (fieldIn2 (BitVec.ofNat 64 page2) 38 2 2)).rd F.homMigCmd_page) ((bothWords promoted Path.root Reg.homMigCmd 0 (fieldIn2 (BitVec.ofNat 64 page2) 38 2 2)).rd F.homMigCmd_share) 2 = none
      ∧ (2 = 1 → (bothWords promoted Path.root Reg.homMigCmd 0 (fieldIn2 (BitVec.ofNat 64 page2) 38 2 2)).reserveLeaving 0 = false)
      ∧ (bothWords promoted Path.root Reg.homMigCmd 0 (fieldIn2 (BitVec.ofNat 64 page2) 38 2 2)).movedNow 0 < (bothWords promoted Path.root Reg.homMigCmd 0 (fieldIn2 (BitVec.ofNat 64 page2) 38 2 2)).rd F.homMigCtrl_rate
      ∧ (bothWords promoted Path.root Reg.homMigCmd 0 (fieldIn2 (BitVec.ofNat 64 page2) 38 2 2)).moveRoom 0 = true
      ∧ (bothWords promoted Path.root Reg.homMigCmd 0 (fieldIn2 (BitVec.ofNat 64 page2) 38 2 2)).idleEngine 0 = some 0 := by decide +kernel

theorem witness_Migration_1_0 :
    (lineAtHand (moving true 0)).wf = true ∧ (lineAtHand (moving true 0)).quiet
      ∧ (lineAtHand (moving true 0)).mem.moves.look 7 = some { die := 0, page := page2, share := 0, frame := 0, promote := true, cursor := 0, cmd := true : Move }
      ∧ (lineAtHand (moving true 0)).moveNext { die := 0, page := page2, share := 0, frame := 0, promote := true, cursor := 0, cmd := true : Move } = some 0
      ∧ ((lineAtHand (moving true 0)).findExt (fun (e : ExtState) => e != ExtState.off) ({ die := 0, page := page2, share := 0, frame := 0, promote := true, cursor := 0, cmd := true : Move }.page * 2 ^ 16) = some (9, { state := ExtState.on, attr := { tier2 := true, count := 1 : ExtAttr } : Extent }))
      ∧ (lineAtHand (moving true 0)).lineFree ((lineAtHand (moving true 0)).lineAt { state := ExtState.on, attr := { tier2 := true, count := 1 : ExtAttr } : Extent }.attr (State.shareOffset { die := 0, page := page2, share := 0, frame := 0, promote := true, cursor := 0, cmd := true : Move }.die { die := 0, page := page2, share := 0, frame := 0, promote := true, cursor := 0, cmd := true : Move }.page { die := 0, page := page2, share := 0, frame := 0, promote := true, cursor := 0, cmd := true : Move }.share 0 { state := ExtState.on, attr := { tier2 := true, count := 1 : ExtAttr } : Extent }.attr.oneDie)) = true
      ∧ (((lineAtHand (moving true 0)).ctl (if { die := 0, page := page2, share := 0, frame := 0, promote := true, cursor := 0, cmd := true : Move }.promote = true then (lineAtHand (moving true 0)).frameAddr { die := 0, page := page2, share := 0, frame := 0, promote := true, cursor := 0, cmd := true : Move }.die ({ die := 0, page := page2, share := 0, frame := 0, promote := true, cursor := 0, cmd := true : Move }.frame % 2 ^ 24) 0 else unitAddr true { die := 0, page := page2, share := 0, frame := 0, promote := true, cursor := 0, cmd := true : Move }.die (lineL ((lineAtHand (moving true 0)).lineAt { state := ExtState.on, attr := { tier2 := true, count := 1 : ExtAttr } : Extent }.attr (State.shareOffset { die := 0, page := page2, share := 0, frame := 0, promote := true, cursor := 0, cmd := true : Move }.die { die := 0, page := page2, share := 0, frame := 0, promote := true, cursor := 0, cmd := true : Move }.page { die := 0, page := page2, share := 0, frame := 0, promote := true, cursor := 0, cmd := true : Move }.share 0 { state := ExtState.on, attr := { tier2 := true, count := 1 : ExtAttr } : Extent }.attr.oneDie)) * 128)).1).wwait = [])
      ∧ (lineAtHand (moving true 0)).mem.ctl.sorted = true
      ∧ (lineAtHand (moving true 0)).held ((lineAtHand (moving true 0)).lineAt { state := ExtState.on, attr := { tier2 := true, count := 1 : ExtAttr } : Extent }.attr (State.shareOffset { die := 0, page := page2, share := 0, frame := 0, promote := true, cursor := 0, cmd := true : Move }.die { die := 0, page := page2, share := 0, frame := 0, promote := true, cursor := 0, cmd := true : Move }.page { die := 0, page := page2, share := 0, frame := 0, promote := true, cursor := 0, cmd := true : Move }.share 0 { state := ExtState.on, attr := { tier2 := true, count := 1 : ExtAttr } : Extent }.attr.oneDie)) = true := by decide +kernel

theorem witness_Migration_1_1 :
    (moving true 0).wf = true ∧ (moving true 0).quiet
      ∧ (moving true 0).mem.moves.look 7 = some { die := 0, page := page2, share := 0, frame := 0, promote := true, cursor := 0, cmd := true : Move }
      ∧ (moving true 0).moveNext { die := 0, page := page2, share := 0, frame := 0, promote := true, cursor := 0, cmd := true : Move } = some 0
      ∧ ((moving true 0).findExt (fun (e : ExtState) => e != ExtState.off) ({ die := 0, page := page2, share := 0, frame := 0, promote := true, cursor := 0, cmd := true : Move }.page * 2 ^ 16) = some (9, { state := ExtState.on, attr := { tier2 := true, count := 1 : ExtAttr } : Extent }))
      ∧ (moving true 0).lineFree ((moving true 0).lineAt { state := ExtState.on, attr := { tier2 := true, count := 1 : ExtAttr } : Extent }.attr (State.shareOffset { die := 0, page := page2, share := 0, frame := 0, promote := true, cursor := 0, cmd := true : Move }.die { die := 0, page := page2, share := 0, frame := 0, promote := true, cursor := 0, cmd := true : Move }.page { die := 0, page := page2, share := 0, frame := 0, promote := true, cursor := 0, cmd := true : Move }.share 0 { state := ExtState.on, attr := { tier2 := true, count := 1 : ExtAttr } : Extent }.attr.oneDie)) = true
      ∧ (((moving true 0).ctl (if { die := 0, page := page2, share := 0, frame := 0, promote := true, cursor := 0, cmd := true : Move }.promote = true then (moving true 0).frameAddr { die := 0, page := page2, share := 0, frame := 0, promote := true, cursor := 0, cmd := true : Move }.die ({ die := 0, page := page2, share := 0, frame := 0, promote := true, cursor := 0, cmd := true : Move }.frame % 2 ^ 24) 0 else unitAddr true { die := 0, page := page2, share := 0, frame := 0, promote := true, cursor := 0, cmd := true : Move }.die (lineL ((moving true 0).lineAt { state := ExtState.on, attr := { tier2 := true, count := 1 : ExtAttr } : Extent }.attr (State.shareOffset { die := 0, page := page2, share := 0, frame := 0, promote := true, cursor := 0, cmd := true : Move }.die { die := 0, page := page2, share := 0, frame := 0, promote := true, cursor := 0, cmd := true : Move }.page { die := 0, page := page2, share := 0, frame := 0, promote := true, cursor := 0, cmd := true : Move }.share 0 { state := ExtState.on, attr := { tier2 := true, count := 1 : ExtAttr } : Extent }.attr.oneDie)) * 128)).1).wwait = [])
      ∧ (moving true 0).mem.ctl.sorted = true
      ∧ (moving true 0).held ((moving true 0).lineAt { state := ExtState.on, attr := { tier2 := true, count := 1 : ExtAttr } : Extent }.attr (State.shareOffset { die := 0, page := page2, share := 0, frame := 0, promote := true, cursor := 0, cmd := true : Move }.die { die := 0, page := page2, share := 0, frame := 0, promote := true, cursor := 0, cmd := true : Move }.page { die := 0, page := page2, share := 0, frame := 0, promote := true, cursor := 0, cmd := true : Move }.share 0 { state := ExtState.on, attr := { tier2 := true, count := 1 : ExtAttr } : Extent }.attr.oneDie)) = false := by decide +kernel

theorem witness_Migration_2 :
    (regsAt (moving true 128) [(F.homMigReserve_valid, 0, 0)]).wf = true
      ∧ (regsAt (moving true 128) [(F.homMigReserve_valid, 0, 0)]).quiet
      ∧ (regsAt (moving true 128) [(F.homMigReserve_valid, 0, 0)]).mem.moves.look 7 = some { die := 0, page := page2, share := 0, frame := 0, promote := true, cursor := 128, cmd := true : Move }
      ∧ (regsAt (moving true 128) [(F.homMigReserve_valid, 0, 0)]).moveNext { die := 0, page := page2, share := 0, frame := 0, promote := true, cursor := 128, cmd := true : Move } = none
      ∧ (regsAt (moving true 128) [(F.homMigReserve_valid, 0, 0)]).mem.waits = []
      ∧ { die := 0, page := page2, share := 0, frame := 0, promote := true, cursor := 128, cmd := true : Move }.cmd = true
      ∧ (regsAt (moving true 128) [(F.homMigReserve_valid, 0, 0)]).flag F.homMigReserve_valid (7 / 8) = false
      ∧ (regsAt (moving true 128) [(F.homMigReserve_valid, 0, 0)]).flag F.homMigReserve_valid { die := 0, page := page2, share := 0, frame := 0, promote := true, cursor := 128, cmd := true : Move }.die = false := by decide +kernel

theorem witness_Migration_3 :
    full.wf = true ∧ full.quiet ∧ full.mem.sweeping.contains 0 = true
      ∧ (full.frameCount 0 - full.usedFrames 0) * 1000 < full.rd F.homMigCtrl_highWm * full.frameCount 0
      ∧ full.mem.hand.lookD 0 0 + 1 < full.frameCount 0
      ∧ full.mem.frames.look (State.frameKey 0 (full.mem.hand.lookD 0 0)) = some { page := page2, share := 0, ref := true, mask := 0 : Frame }
      ∧ { page := page2, share := 0, ref := true, mask := 0 : Frame }.ref = true
      ∧ full.moveKnown 0 { page := page2, share := 0, ref := true, mask := 0 : Frame }.page { page := page2, share := 0, ref := true, mask := 0 : Frame }.share = false := by decide +kernel

/-- Endpoint 0x12345, which slot 127 is bound to, asks for line 4 of extent 5, or answers a home. -/
def asks (op len : Nat) (sub : Nat := 0) : Packet :=
  { opcode := BitVec.ofNat 8 op, len := BitVec.ofNat 3 len, sub := BitVec.ofNat 6 sub, src := 0x12345, principal := 0x12345, tag := 9, addr := 0x80, data := 0x55AA
    mask := 1, dest := 0x007C0 }

/-- Its place. -/
def placed (s : State) (q : Packet) : State.Placed := (s.check q).2.getD ⟨0, {}, 0⟩

def bound : State := slotIs 1

/-- The line asked for. -/
def line1 : Nat := (placed bound (asks Op.rdUnc 0)).line

/-- The home holds the line: a read has brought it. -/
def hasLine (s : State) : State := { s with mem := { s.mem with arrived := [(line1, (0x1234, {}))] } }

/-- Slots of a line's entry. -/
def holds (st : DirState) (sh : Mask) : State :=
  { regsAt bound [(F.dirSlot_endpoint, 0, 0x11111), (F.dirSlot_state, 0, 1)] with
    home := { bound.home with dir := [(State.dirWay line1 0, { line := line1, sharers := sh, state := st })] } }

def entryOf (st : DirState) (sh : Mask) : DirEntry := { line := line1, sharers := sh, state := st }

/-- Request 0 of die 0 waits for answers, at the front of its line. -/
def waitsFor (st : DirState) (q : Packet) (f : Req → Req) : State :=
  let s := holds st (maskBit 127)
  { s with home := { s.home with queue := [(line1, [.req 0])]
                                 req := [(0, f { pkt := q, line := line1, ext := 5, gen := false, ecc := .clean, slot := some 0, partition := 0, active := true })] } }

def reqOf (s : State) : Req := (s.getReq 0 0).getD { pkt := {}, line := 0, ext := 0, gen := false, ecc := .clean, slot := none, partition := 0 }

/-- It awaits slots 0 and 127; the owner, with the requester served or not; COMPLETE; slots 0, 1 and 127. -/
def awaitsInv : State := waitsFor .bInv (asks Op.rdOwn 0) fun r => { r with invs := 1 ||| maskBit 127 }
def awaitsFwd : State := waitsFor .bFwd (asks Op.rdShared 0) fun r => { r with fwd := some 127, compl := true }
def awaitsRead : State := waitsFor .bFwdh (asks Op.rdUnc 0) fun r => { r with fwd := some 127 }
def awaitsDone : State := waitsFor .bGrant (asks Op.rdUnc 0) fun r => { r with compl := true, next := .s, nextSharers := 1 }
def awaitsMore : State := waitsFor .bInv (asks Op.rdOwn 0) fun r => { r with invs := 3 ||| maskBit 127 }

/-- An answer to request 0. -/
def answers (q : Packet) : Packet := { q with tag := 0, dest := 0x007C0 }

/-- Request i of core 0, context 0. -/
def asked (w : OutFor) (op : Nat) : Out := { who := .ctx 0 0, pkt := { opcode := BitVec.ofNat 8 op }, die := 0, partition := 0, why := w }

/-- The context runs, and its request of tag 9 is outstanding. -/
def running (o : Out) : State :=
  { node with outs := [(State.outKey (State.coreLocal 0) 9, o)], clu := { ctx := [(0, { task := {}, phase := .run, tx := some { txid := some 77 } })] } }

def aContext : Context := { task := {}, phase := .run, tx := some { txid := some 77 } }

/-- A response to it. -/
def responds (status : Nat) (detail : Nat := 0) : Packet :=
  { chan := 1, dest := BitVec.ofNat 20 (0x700 + State.coreLocal 0), tag := 9, status := BitVec.ofNat 5 status, detail := BitVec.ofNat 16 detail, txid := 77, data := 5 }

def toHome (o : Out) : State := { node with outs := [(State.outKey 0xC3 9, o)] }
def ofHome : Out := { who := .home 3, pkt := {}, die := 3, partition := 0 }
def backedOff : State := running { asked .store Op.wrUnc with stalled := true }

/-- A sweep of slot 127 is due on request 5 of die 0. -/
def unanswered : State := { bound with home := { bound.home with req := [(5, { reqOf (waitsFor .bInv (asks Op.rdOwn 0) id) with invs := 3 ||| maskBit 127 })] } }

def scrubs : State := { node with home := { scrubAt := [(3, 7)] } }

/-- The one request of die 0 when its home stops. -/
def scrubsOne : State := { bound with home := { bound.home with scrubAt := [(0, 7)], req := [(5, reqOf (waitsFor .bInv (asks Op.rdOwn 0) id))] } }

theorem witness_ReadsServed_0 :
    Rests (hasLine bound) (asks Op.rdUnc 0) Op.rdUnc (placed bound (asks Op.rdUnc 0))
      ∧ Unheld (hasLine bound) (placed bound (asks Op.rdUnc 0)).line
      ∧ (hasLine bound).held (placed bound (asks Op.rdUnc 0)).line = true := by decide +kernel

theorem witness_ReadsServed_1 :
    Rests bound (asks Op.rdUnc 0) Op.rdUnc (placed bound (asks Op.rdUnc 0))
      ∧ Unheld bound (placed bound (asks Op.rdUnc 0)).line ∧ bound.held (placed bound (asks Op.rdUnc 0)).line = false := by decide +kernel

theorem witness_ReadsServed_2 :
    Rests (hasLine bound) (asks Op.rdShared 0) Op.rdShared (placed bound (asks Op.rdShared 0))
      ∧ Unheld (hasLine bound) (placed bound (asks Op.rdShared 0)).line
      ∧ (hasLine bound).held (placed bound (asks Op.rdShared 0)).line = true
      ∧ (hasLine bound).boundSlot (asks Op.rdShared 0).principal = some 127 := by decide +kernel

theorem witness_ReadsServed_3 :
    Rests (hasLine bound) (asks Op.rdOwn 0) Op.rdOwn (placed bound (asks Op.rdOwn 0))
      ∧ Unheld (hasLine bound) (placed bound (asks Op.rdOwn 0)).line
      ∧ (hasLine bound).held (placed bound (asks Op.rdOwn 0)).line = true
      ∧ (hasLine bound).boundSlot (asks Op.rdOwn 0).principal = some 127 := by decide +kernel

theorem witness_ReadsServed_4_0 :
    Rests (hasLine bound) (asks Op.upgrade 0) Op.upgrade (placed bound (asks Op.upgrade 0))
      ∧ (hasLine bound).boundSlot (asks Op.upgrade 0).principal = some 127
      ∧ Unheld (hasLine bound) (placed bound (asks Op.upgrade 0)).line
      ∧ (hasLine bound).held (placed bound (asks Op.upgrade 0)).line = true := by decide +kernel

theorem witness_ReadsServed_4_1 :
    Rests (holds DirState.s (maskBit 127)) (asks Op.upgrade 0) Op.upgrade (placed (holds DirState.s (maskBit 127)) (asks Op.upgrade 0))
      ∧ (holds DirState.s (maskBit 127)).boundSlot (asks Op.upgrade 0).principal = some 127 ∧ 127 < 128
      ∧ (holds DirState.s (maskBit 127)).slotSweeping 127 = false
      ∧ (Option.map (fun (x : ℕ × DirEntry) => x.2) ((holds DirState.s (maskBit 127)).dirFind (placed (holds DirState.s (maskBit 127)) (asks Op.upgrade 0)).line) = some { line := (placed (holds DirState.s (maskBit 127)) (asks Op.upgrade 0)).line, sharers := maskBit 127, state := DirState.s : DirEntry }) := by decide +kernel

theorem witness_WritesServed_0_0 :
    Rests bound (asks Op.wrUnc 4) Op.wrUnc (placed bound (asks Op.wrUnc 4))
      ∧ Unheld bound (placed bound (asks Op.wrUnc 4)).line ∧ bound.txns = []
      ∧ ((asks Op.wrUnc 4).len = 4 ∨ (asks Op.wrUnc 4).len = 5 ∧ (asks Op.wrUnc 4).mask = maskFull) := by decide +kernel

theorem witness_WritesServed_0_1 :
    Rests (hasLine bound) (asks Op.wrUnc 5) Op.wrUnc (placed bound (asks Op.wrUnc 5))
      ∧ Unheld (hasLine bound) (placed bound (asks Op.wrUnc 5)).line ∧ (hasLine bound).txns = [] ∧ (asks Op.wrUnc 5).len = 5
      ∧ (asks Op.wrUnc 5).mask ≠ maskFull ∧ (hasLine bound).held (placed bound (asks Op.wrUnc 5)).line = true := by decide +kernel

theorem witness_WritesServed_1 :
    Rests (hasLine bound) (asks Op.atomic 1 48) Op.atomic (placed bound (asks Op.atomic 1 48))
      ∧ Unheld (hasLine bound) (placed bound (asks Op.atomic 1 48)).line
      ∧ (hasLine bound).held (placed bound (asks Op.atomic 1 48)).line = true ∧ (hasLine bound).txns = [] := by decide +kernel

theorem witness_OwnedLines_0 :
    (holds DirState.m (maskBit 0)).dirFind (placed (holds DirState.m (maskBit 0)) (asks Op.rdShared 0)).line = some (State.dirWay line1 0, entryOf DirState.m (maskBit 0))
      ∧ ((entryOf DirState.m (maskBit 0)).state = DirState.e ∨ (entryOf DirState.m (maskBit 0)).state = DirState.m)
      ∧ maskMembers (entryOf DirState.m (maskBit 0)).sharers = [0] ∧ (entryOf DirState.m (maskBit 0)).pins = 0
      ∧ (entryOf DirState.m (maskBit 0)).lock = false ∧ (holds DirState.m (maskBit 0)).slotSweeping 0 = false
      ∧ (holds DirState.m (maskBit 0)).boundSlot (asks Op.rdShared 0).principal ≠ some 0
      ∧ Rests (holds DirState.m (maskBit 0)) (asks Op.rdShared 0) Op.rdShared (placed (holds DirState.m (maskBit 0)) (asks Op.rdShared 0)) := by decide +kernel

theorem witness_OwnedLines_1 :
    (holds DirState.e (maskBit 0)).dirFind (placed (holds DirState.e (maskBit 0)) (asks Op.rdOwn 0)).line = some (State.dirWay line1 0, entryOf DirState.e (maskBit 0))
      ∧ ((entryOf DirState.e (maskBit 0)).state = DirState.e ∨ (entryOf DirState.e (maskBit 0)).state = DirState.m)
      ∧ maskMembers (entryOf DirState.e (maskBit 0)).sharers = [0] ∧ (entryOf DirState.e (maskBit 0)).pins = 0
      ∧ (entryOf DirState.e (maskBit 0)).lock = false ∧ (holds DirState.e (maskBit 0)).slotSweeping 0 = false
      ∧ (holds DirState.e (maskBit 0)).boundSlot (asks Op.rdOwn 0).principal ≠ some 0
      ∧ Rests (holds DirState.e (maskBit 0)) (asks Op.rdOwn 0) Op.rdOwn (placed (holds DirState.e (maskBit 0)) (asks Op.rdOwn 0)) := by decide +kernel

theorem witness_OwnedLines_2 :
    (holds DirState.m (maskBit 0)).dirFind (placed (holds DirState.m (maskBit 0)) (asks Op.rdUnc 0)).line = some (State.dirWay line1 0, entryOf DirState.m (maskBit 0))
      ∧ ((entryOf DirState.m (maskBit 0)).state = DirState.e ∨ (entryOf DirState.m (maskBit 0)).state = DirState.m)
      ∧ maskMembers (entryOf DirState.m (maskBit 0)).sharers = [0] ∧ (entryOf DirState.m (maskBit 0)).pins = 0
      ∧ (entryOf DirState.m (maskBit 0)).lock = false ∧ (holds DirState.m (maskBit 0)).slotSweeping 0 = false
      ∧ (holds DirState.m (maskBit 0)).boundSlot (asks Op.rdUnc 0).principal ≠ some 0
      ∧ Rests (holds DirState.m (maskBit 0)) (asks Op.rdUnc 0) Op.rdUnc (placed (holds DirState.m (maskBit 0)) (asks Op.rdUnc 0)) := by decide +kernel

theorem witness_OwnedLines_3 :
    (holds DirState.m (maskBit 0)).dirFind (placed (holds DirState.m (maskBit 0)) (asks Op.wrUnc 5)).line = some (State.dirWay line1 0, entryOf DirState.m (maskBit 0))
      ∧ ((entryOf DirState.m (maskBit 0)).state = DirState.e ∨ (entryOf DirState.m (maskBit 0)).state = DirState.m)
      ∧ maskMembers (entryOf DirState.m (maskBit 0)).sharers = [0] ∧ (entryOf DirState.m (maskBit 0)).pins = 0
      ∧ (entryOf DirState.m (maskBit 0)).lock = false ∧ (holds DirState.m (maskBit 0)).slotSweeping 0 = false
      ∧ (holds DirState.m (maskBit 0)).boundSlot (asks Op.wrUnc 5).principal ≠ some 0
      ∧ Rests (holds DirState.m (maskBit 0)) (asks Op.wrUnc 5) Op.wrUnc (placed (holds DirState.m (maskBit 0)) (asks Op.wrUnc 5)) := by decide +kernel

theorem witness_OwnedLines_4 :
    (holds DirState.m (maskBit 0)).dirFind (placed (holds DirState.m (maskBit 0)) (asks Op.atomic 1 48)).line = some (State.dirWay line1 0, entryOf DirState.m (maskBit 0))
      ∧ ((entryOf DirState.m (maskBit 0)).state = DirState.e ∨ (entryOf DirState.m (maskBit 0)).state = DirState.m)
      ∧ maskMembers (entryOf DirState.m (maskBit 0)).sharers = [0] ∧ (entryOf DirState.m (maskBit 0)).pins = 0
      ∧ (entryOf DirState.m (maskBit 0)).lock = false ∧ (holds DirState.m (maskBit 0)).slotSweeping 0 = false
      ∧ (holds DirState.m (maskBit 0)).boundSlot (asks Op.atomic 1 48).principal ≠ some 0
      ∧ Rests (holds DirState.m (maskBit 0)) (asks Op.atomic 1 48) Op.atomic (placed (holds DirState.m (maskBit 0)) (asks Op.atomic 1 48)) := by decide +kernel

theorem witness_Writebacks_0 :
    (holds DirState.m (maskBit 127)).quiet ∧ (holds DirState.m (maskBit 127)).home.halted = []
      ∧ (holds DirState.m (maskBit 127)).findExt ExtState.serves (asks Op.wbDirty 4).offset = some (5, served.getExt 5)
      ∧ (holds DirState.m (maskBit 127)).answerSlot (asks Op.wbDirty 4) = some 127 ∧ (asks Op.wbDirty 4).chan = 0
      ∧ (asks Op.wbDirty 4).offset % 128 = 0 ∧ (asks Op.wbDirty 4).poison = false
      ∧ (holds DirState.m (maskBit 127)).dirFind ((holds DirState.m (maskBit 127)).lineAt (served.getExt 5).attr (asks Op.wbDirty 4).offset) = some (State.dirWay line1 0, entryOf DirState.m (maskBit 127))
      ∧ ((entryOf DirState.m (maskBit 127)).state = DirState.e ∨ (entryOf DirState.m (maskBit 127)).state = DirState.m)
      ∧ maskMembers (entryOf DirState.m (maskBit 127)).sharers = [127] ∧ (entryOf DirState.m (maskBit 127)).pins = 0
      ∧ (entryOf DirState.m (maskBit 127)).lock = false ∧ (holds DirState.m (maskBit 127)).slotSweeping 127 = false
      ∧ (holds DirState.m (maskBit 127)).home.queue.look ((holds DirState.m (maskBit 127)).lineAt (served.getExt 5).attr (asks Op.wbDirty 4).offset) = none
      ∧ (asks Op.wbDirty 4).len = 4 := by decide +kernel

theorem witness_Writebacks_1 :
    (holds DirState.e (maskBit 127)).quiet ∧ (holds DirState.e (maskBit 127)).home.halted = []
      ∧ (holds DirState.e (maskBit 127)).findExt ExtState.serves (asks Op.wbClean 0).offset = some (5, served.getExt 5)
      ∧ (holds DirState.e (maskBit 127)).answerSlot (asks Op.wbClean 0) = some 127 ∧ (asks Op.wbClean 0).chan = 0
      ∧ (asks Op.wbClean 0).offset % 128 = 0 ∧ (asks Op.wbClean 0).poison = false
      ∧ (holds DirState.e (maskBit 127)).dirFind ((holds DirState.e (maskBit 127)).lineAt (served.getExt 5).attr (asks Op.wbClean 0).offset) = some (State.dirWay line1 0, entryOf DirState.e (maskBit 127))
      ∧ ((entryOf DirState.e (maskBit 127)).state = DirState.e ∨ (entryOf DirState.e (maskBit 127)).state = DirState.m)
      ∧ maskMembers (entryOf DirState.e (maskBit 127)).sharers = [127] ∧ (entryOf DirState.e (maskBit 127)).pins = 0
      ∧ (entryOf DirState.e (maskBit 127)).lock = false ∧ (holds DirState.e (maskBit 127)).slotSweeping 127 = false
      ∧ (holds DirState.e (maskBit 127)).home.queue.look ((holds DirState.e (maskBit 127)).lineAt (served.getExt 5).attr (asks Op.wbClean 0).offset) = none
      ∧ (asks Op.wbClean 0).len = 0 := by decide +kernel

theorem witness_HomeAnswers_0 :
    awaitsInv.quiet ∧ awaitsInv.home.posted = [] ∧ 0 = 0 ∧ 0 < 4096
      ∧ awaitsInv.getReq (State.homeOf (answers (asks Op.invAck 0))) 0 = some (reqOf awaitsInv)
      ∧ (reqOf awaitsInv).active = true ∧ lineDie (reqOf awaitsInv).line = State.homeOf (answers (asks Op.invAck 0))
      ∧ (reqOf awaitsInv).wb = none ∧ (reqOf awaitsInv).acks = []
      ∧ awaitsInv.answerSlot (answers (asks Op.invAck 0)) = some 127 ∧ (reqOf awaitsInv).invs &&& ~~~maskBit 127 ≠ 0 := by decide +kernel

theorem witness_HomeAnswers_1_0 :
    awaitsFwd.quiet ∧ awaitsFwd.home.posted = [] ∧ 0 = 0 ∧ 0 < 4096
      ∧ awaitsFwd.getReq (State.homeOf (answers (asks Op.fwdAck 0))) 0 = some (reqOf awaitsFwd)
      ∧ (reqOf awaitsFwd).active = true ∧ lineDie (reqOf awaitsFwd).line = State.homeOf (answers (asks Op.fwdAck 0))
      ∧ (reqOf awaitsFwd).wb = none ∧ (reqOf awaitsFwd).acks = []
      ∧ awaitsFwd.answerSlot (answers (asks Op.fwdAck 0)) = some 127 ∧ (reqOf awaitsFwd).fwd = some 127
      ∧ (reqOf awaitsFwd).compl = true ∧ (awaitsFwd.entry (reqOf awaitsFwd).line).state = DirState.bFwd
      ∧ (answers (asks Op.fwdAck 0)).detail.getLsbD 0 = false ∧ (answers (asks Op.fwdAck 0)).detail.getLsbD 1 = false := by decide +kernel

theorem witness_HomeAnswers_1_1 :
    awaitsFwd.quiet ∧ awaitsFwd.home.posted = [] ∧ 0 = 0 ∧ 0 < 4096
      ∧ awaitsFwd.getReq (State.homeOf (answers (asks Op.fwdData 4))) 0 = some (reqOf awaitsFwd)
      ∧ (reqOf awaitsFwd).active = true ∧ lineDie (reqOf awaitsFwd).line = State.homeOf (answers (asks Op.fwdData 4))
      ∧ (reqOf awaitsFwd).wb = none ∧ (reqOf awaitsFwd).acks = []
      ∧ awaitsFwd.answerSlot (answers (asks Op.fwdData 4)) = some 127 ∧ (reqOf awaitsFwd).fwd = some 127
      ∧ (reqOf awaitsFwd).compl = true ∧ (awaitsFwd.entry (reqOf awaitsFwd).line).state = DirState.bFwd
      ∧ (answers (asks Op.fwdData 4)).poison = false := by decide +kernel

theorem witness_HomeAnswers_2 :
    awaitsRead.quiet ∧ awaitsRead.home.posted = [] ∧ 0 = 0 ∧ 0 < 4096
      ∧ awaitsRead.getReq (State.homeOf (answers (asks Op.fwdData 4))) 0 = some (reqOf awaitsRead)
      ∧ (reqOf awaitsRead).active = true ∧ lineDie (reqOf awaitsRead).line = State.homeOf (answers (asks Op.fwdData 4))
      ∧ (reqOf awaitsRead).wb = none ∧ (reqOf awaitsRead).acks = []
      ∧ awaitsRead.answerSlot (answers (asks Op.fwdData 4)) = some 127 ∧ (reqOf awaitsRead).fwd = some 127
      ∧ (reqOf awaitsRead).compl = false ∧ (reqOf awaitsRead).invs = 0
      ∧ (awaitsRead.entry (reqOf awaitsRead).line).state = DirState.bFwdh ∧ 19 = Op.rdUnc
      ∧ (answers (asks Op.fwdData 4)).poison = false ∧ awaitsRead.internalReq (reqOf awaitsRead).pkt = false
      ∧ (Option.map awaitsRead.revoking (awaitsRead.partitionOf (reqOf awaitsRead).pkt)).getD false = false
      ∧ awaitsRead.lineQueue (reqOf awaitsRead).line = [QItem.req 0] ∧ awaitsRead.home.queue.sorted = true
      ∧ awaitsRead.home.req.sorted = true := by decide +kernel

theorem witness_HomeAnswers_3 :
    awaitsDone.quiet ∧ awaitsDone.home.posted = [] ∧ 0 = 0 ∧ 0 < 4096
      ∧ awaitsDone.getReq (State.homeOf (answers (asks Op.complete 0))) 0 = some (reqOf awaitsDone)
      ∧ (reqOf awaitsDone).active = true ∧ lineDie (reqOf awaitsDone).line = State.homeOf (answers (asks Op.complete 0))
      ∧ (reqOf awaitsDone).wb = none ∧ (reqOf awaitsDone).acks = [] ∧ (reqOf awaitsDone).invs = 0
      ∧ (reqOf awaitsDone).fwd = none ∧ (reqOf awaitsDone).compl = true
      ∧ (reqOf awaitsDone).pkt.src = (answers (asks Op.complete 0)).src
      ∧ (awaitsDone.entry (reqOf awaitsDone).line).state = DirState.bGrant ∧ (reqOf awaitsDone).nextSharers ≠ 0
      ∧ (reqOf awaitsDone).next ≠ DirState.i ∧ awaitsDone.lineQueue (reqOf awaitsDone).line = [QItem.req 0]
      ∧ awaitsDone.home.queue.sorted = true ∧ awaitsDone.home.req.sorted = true := by decide +kernel

theorem witness_HomeUpkeep_0 :
    unanswered.wf = true ∧ unanswered.quiet ∧ 5 < 4096 ∧ unanswered.home.req = [(State.reqKey 0 5, reqOf awaitsMore)]
      ∧ unanswered.home.rcl = [] ∧ (reqOf awaitsMore).active = true ∧ BitVec.getLsbD (reqOf awaitsMore).invs 127 = true
      ∧ (reqOf awaitsMore).invs &&& ~~~maskBit 127 ≠ 0 ∧ (reqOf awaitsMore).fwd = none ∧ (reqOf awaitsMore).wb = none
      ∧ (reqOf awaitsMore).compl = false ∧ unanswered.slotSweeping 127 = false := by decide +kernel

theorem witness_HomeUpkeep_1_0 :
    scrubs.wf = true ∧ scrubs.quiet ∧ scrubs.home.scrubAt.look 3 = some 7 ∧ 7 + 1 < State.dirSets := by decide +kernel

theorem witness_HomeUpkeep_1_1 :
    scrubs.wf = true ∧ scrubs.quiet ∧ scrubs.home.scrubAt.look 3 = some 7 ∧ 7 + 1 < State.dirSets := by decide +kernel

theorem witness_HomeUpkeep_1_2 :
    scrubs.wf = true ∧ scrubs.quiet ∧ scrubs.home.scrubAt.look 3 = some 7 ∧ 7 + 1 < State.dirSets ∧ scrubs.txns = []
      ∧ (∀ e ∈ scrubs.home.req, e.1 / 4096 ≠ 3) := by decide +kernel

theorem witness_HomeUpkeep_1_3 :
    scrubsOne.wf = true ∧ scrubsOne.quiet ∧ scrubsOne.home.scrubAt.look 0 = some 7 ∧ 7 + 1 < State.dirSets
      ∧ scrubsOne.txns = [] ∧ scrubsOne.home.posted = []
      ∧ scrubsOne.home.req = [(State.reqKey 0 5, reqOf (waitsFor DirState.bInv (asks Op.rdOwn 0) id))]
      ∧ lineDie (reqOf (waitsFor DirState.bInv (asks Op.rdOwn 0) id)).line = 0
      ∧ scrubsOne.internalReq (reqOf (waitsFor DirState.bInv (asks Op.rdOwn 0) id)).pkt = false
      ∧ (Option.map scrubsOne.revoking (scrubsOne.partitionOf (reqOf (waitsFor DirState.bInv (asks Op.rdOwn 0) id)).pkt)).getD false = false := by decide +kernel

theorem witness_ResponsesAct_0 :
    (running (asked (OutFor.sload 31 0) Op.rdUnc)).quiet
      ∧ { opcode := BitVec.ofNat 8 Op.dataUnc, chan := (responds 0).chan, hop := (responds 0).hop, bank := (responds 0).bank, poison := (responds 0).poison, fence := (responds 0).fence, len := (responds 0).len, cls := (responds 0).cls, sub := (responds 0).sub, fw := (responds 0).fw, src := (responds 0).src, principal := (responds 0).principal, tag := (responds 0).tag, dlocal := (responds 0).dlocal, txid := (responds 0).txid, addr := (responds 0).addr, dest := (responds 0).dest, status := (responds 0).status, bark := (responds 0).bark, detail := (responds 0).detail, dataFlag := (responds 0).dataFlag, resv := (responds 0).resv, data := (responds 0).data, mask := (responds 0).mask : Packet }.destNode = (running (asked (OutFor.sload 31 0) Op.rdUnc)).node ∧ (running (asked (OutFor.sload 31 0) Op.rdUnc)).outs.look (State.outKey (1920 % 256) 9) = some (asked (OutFor.sload 31 0) Op.rdUnc) ∧ (asked (OutFor.sload 31 0) Op.rdUnc).stalled = false ∧ (asked (OutFor.sload 31 0) Op.rdUnc).who = Requester.ctx 0 0 ∧ (running (asked (OutFor.sload 31 0) Op.rdUnc)).getCtx 0 0 = some aContext ∧ aContext.phase = CtxPhase.run
      ∧ (responds 0).status = 0 ∧ (responds 0).poison = false ∧ (asked (OutFor.sload 31 0) Op.rdUnc).why = OutFor.sload 31 0
      ∧ 19 = Op.rdUnc := by decide +kernel

theorem witness_ResponsesAct_1 :
    (running (asked OutFor.store Op.wrUnc)).quiet
      ∧ { opcode := BitVec.ofNat 8 Op.done, chan := (responds 0).chan, hop := (responds 0).hop, bank := (responds 0).bank, poison := (responds 0).poison, fence := (responds 0).fence, len := (responds 0).len, cls := (responds 0).cls, sub := (responds 0).sub, fw := (responds 0).fw, src := (responds 0).src, principal := (responds 0).principal, tag := (responds 0).tag, dlocal := (responds 0).dlocal, txid := (responds 0).txid, addr := (responds 0).addr, dest := (responds 0).dest, status := (responds 0).status, bark := (responds 0).bark, detail := (responds 0).detail, dataFlag := (responds 0).dataFlag, resv := (responds 0).resv, data := (responds 0).data, mask := (responds 0).mask : Packet }.destNode = (running (asked OutFor.store Op.wrUnc)).node ∧ (running (asked OutFor.store Op.wrUnc)).outs.look (State.outKey (1920 % 256) 9) = some (asked OutFor.store Op.wrUnc) ∧ (asked OutFor.store Op.wrUnc).stalled = false ∧ (asked OutFor.store Op.wrUnc).who = Requester.ctx 0 0 ∧ (running (asked OutFor.store Op.wrUnc)).getCtx 0 0 = some aContext ∧ aContext.phase = CtxPhase.run
      ∧ (responds 0).status = 0 ∧ (responds 0).poison = false ∧ (asked OutFor.store Op.wrUnc).why = OutFor.store
      ∧ 20 = Op.wrUnc ∧ (asked OutFor.store Op.wrUnc).pkt.poison = false := by decide +kernel

theorem witness_ResponsesAct_3 :
    (running (asked (OutFor.txOpen 3) Op.txOpen)).quiet
      ∧ { opcode := BitVec.ofNat 8 Op.txOpened, chan := (responds 0).chan, hop := (responds 0).hop, bank := (responds 0).bank, poison := (responds 0).poison, fence := (responds 0).fence, len := (responds 0).len, cls := (responds 0).cls, sub := (responds 0).sub, fw := (responds 0).fw, src := (responds 0).src, principal := (responds 0).principal, tag := (responds 0).tag, dlocal := (responds 0).dlocal, txid := (responds 0).txid, addr := (responds 0).addr, dest := (responds 0).dest, status := (responds 0).status, bark := (responds 0).bark, detail := (responds 0).detail, dataFlag := (responds 0).dataFlag, resv := (responds 0).resv, data := (responds 0).data, mask := (responds 0).mask : Packet }.destNode = (running (asked (OutFor.txOpen 3) Op.txOpen)).node ∧ (running (asked (OutFor.txOpen 3) Op.txOpen)).outs.look (State.outKey (1920 % 256) 9) = some (asked (OutFor.txOpen 3) Op.txOpen) ∧ (asked (OutFor.txOpen 3) Op.txOpen).stalled = false ∧ (asked (OutFor.txOpen 3) Op.txOpen).who = Requester.ctx 0 0 ∧ (running (asked (OutFor.txOpen 3) Op.txOpen)).getCtx 0 0 = some aContext ∧ aContext.phase = CtxPhase.run
      ∧ (responds 0).status = 0 ∧ (responds 0).poison = false ∧ (asked (OutFor.txOpen 3) Op.txOpen).why = OutFor.txOpen 3
      ∧ aContext.phase = CtxPhase.run := by decide +kernel

theorem witness_ResponsesAct_2 :
    (running (asked OutFor.prefetch Op.rdUnc)).quiet
      ∧ { opcode := BitVec.ofNat 8 Op.dataUnc, chan := (responds 0).chan, hop := (responds 0).hop, bank := (responds 0).bank, poison := (responds 0).poison, fence := (responds 0).fence, len := (responds 0).len, cls := (responds 0).cls, sub := (responds 0).sub, fw := (responds 0).fw, src := (responds 0).src, principal := (responds 0).principal, tag := (responds 0).tag, dlocal := (responds 0).dlocal, txid := (responds 0).txid, addr := (responds 0).addr, dest := (responds 0).dest, status := (responds 0).status, bark := (responds 0).bark, detail := (responds 0).detail, dataFlag := (responds 0).dataFlag, resv := (responds 0).resv, data := (responds 0).data, mask := (responds 0).mask : Packet }.destNode = (running (asked OutFor.prefetch Op.rdUnc)).node ∧ (running (asked OutFor.prefetch Op.rdUnc)).outs.look (State.outKey (1920 % 256) 9) = some (asked OutFor.prefetch Op.rdUnc) ∧ (asked OutFor.prefetch Op.rdUnc).stalled = false ∧ (asked OutFor.prefetch Op.rdUnc).who = Requester.ctx 0 0 ∧ (running (asked OutFor.prefetch Op.rdUnc)).getCtx 0 0 = some aContext ∧ aContext.phase = CtxPhase.run
      ∧ (responds 0).status = 0 ∧ (responds 0).poison = false ∧ (asked OutFor.prefetch Op.rdUnc).why = OutFor.prefetch
      ∧ 19 = Op.rdUnc := by decide +kernel

theorem witness_ResponsesAct_4 :
    (running (asked OutFor.store Op.wrUnc)).quiet
      ∧ { opcode := BitVec.ofNat 8 Op.status, chan := (responds St.retry).chan, hop := (responds St.retry).hop, bank := (responds St.retry).bank, poison := (responds St.retry).poison, fence := (responds St.retry).fence, len := (responds St.retry).len, cls := (responds St.retry).cls, sub := (responds St.retry).sub, fw := (responds St.retry).fw, src := (responds St.retry).src, principal := (responds St.retry).principal, tag := (responds St.retry).tag, dlocal := (responds St.retry).dlocal, txid := (responds St.retry).txid, addr := (responds St.retry).addr, dest := (responds St.retry).dest, status := (responds St.retry).status, bark := (responds St.retry).bark, detail := (responds St.retry).detail, dataFlag := (responds St.retry).dataFlag, resv := (responds St.retry).resv, data := (responds St.retry).data, mask := (responds St.retry).mask : Packet }.destNode = (running (asked OutFor.store Op.wrUnc)).node
      ∧ (running (asked OutFor.store Op.wrUnc)).outs.look (State.outKey (1920 % 256) 9) = some (asked OutFor.store Op.wrUnc)
      ∧ (asked OutFor.store Op.wrUnc).stalled = false ∧ 1 = St.retry := by decide +kernel

theorem witness_ResponsesAct_5 :
    node.quiet ∧ node.outs.look (State.outKey (1920 % 256) 9) = none := by decide +kernel

theorem witness_ResponsesAct_6_0 :
    backedOff.quiet
      ∧ backedOff.outs.look (State.outKey (State.requesterLocal (Requester.ctx 0 0)) 9) = some { who := (asked OutFor.store Op.wrUnc).who, pkt := (asked OutFor.store Op.wrUnc).pkt, die := (asked OutFor.store Op.wrUnc).die, partition := (asked OutFor.store Op.wrUnc).partition, epoch := (asked OutFor.store Op.wrUnc).epoch, stream := (asked OutFor.store Op.wrUnc).stream, why := (asked OutFor.store Op.wrUnc).why, wait := (asked OutFor.store Op.wrUnc).wait, stalled := true : Out }
      ∧ { who := (asked OutFor.store Op.wrUnc).who, pkt := (asked OutFor.store Op.wrUnc).pkt, die := (asked OutFor.store Op.wrUnc).die, partition := (asked OutFor.store Op.wrUnc).partition, epoch := (asked OutFor.store Op.wrUnc).epoch, stream := (asked OutFor.store Op.wrUnc).stream, why := (asked OutFor.store Op.wrUnc).why, wait := (asked OutFor.store Op.wrUnc).wait, stalled := true : Out }.who = Requester.ctx 0 0
      ∧ { who := (asked OutFor.store Op.wrUnc).who, pkt := (asked OutFor.store Op.wrUnc).pkt, die := (asked OutFor.store Op.wrUnc).die, partition := (asked OutFor.store Op.wrUnc).partition, epoch := (asked OutFor.store Op.wrUnc).epoch, stream := (asked OutFor.store Op.wrUnc).stream, why := (asked OutFor.store Op.wrUnc).why, wait := (asked OutFor.store Op.wrUnc).wait, stalled := true : Out }.stalled = true := by decide +kernel

theorem witness_ResponsesAct_6_1 :
    (toHome ofHome).quiet
      ∧ (toHome ofHome).outs.look (State.outKey (State.requesterLocal (Requester.home 3)) 9) = some ofHome
      ∧ ofHome.who = Requester.home 3 ∧ Requester.home 3 = Requester.home 3 := by decide +kernel

theorem witness_ResponsesAct_7 :
    (running (asked OutFor.store Op.wrUnc)).quiet
      ∧ { opcode := BitVec.ofNat 8 Op.txNotice, chan := (responds 0 5).chan, hop := (responds 0 5).hop, bank := (responds 0 5).bank, poison := (responds 0 5).poison, fence := (responds 0 5).fence, len := (responds 0 5).len, cls := (responds 0 5).cls, sub := (responds 0 5).sub, fw := (responds 0 5).fw, src := (responds 0 5).src, principal := (responds 0 5).principal, tag := (responds 0 5).tag, dlocal := (responds 0 5).dlocal, txid := (responds 0 5).txid, addr := (responds 0 5).addr, dest := (responds 0 5).dest, status := (responds 0 5).status, bark := (responds 0 5).bark, detail := (responds 0 5).detail, dataFlag := (responds 0 5).dataFlag, resv := (responds 0 5).resv, data := (responds 0 5).data, mask := (responds 0 5).mask : Packet }.destNode = (running (asked OutFor.store Op.wrUnc)).node := by decide +kernel

/-- Record 1023 of die 3, opened by endpoint 0x12345. -/
def rec3 : Nat := State.txnKey 3 1023
def withTxn (s : State) (t : Txn) : State := { s with txns := [(rec3, { t with opener := 0x12345, source := 0x12345 })] }
def opened : State := withTxn bound { state := .open }

/-- A request of that transaction. -/
def txAsks (op len : Nat) (v : Nat := 0) : Packet :=
  { asks op len 0x30 with txid := BitVec.ofNat 32 (rec3 + 7 * 2 ^ 20), dlocal := 0xC3, data := if v = 0 then 0x55AA else BitVec.ofNat 1024 v
                          addr := if op = Op.txCommit ∨ op = Op.txAbort then 0 else 0x80 }

def aLine (staged locked : Bool) : TxnLine := ⟨line1, 5, !staged, if staged then some (7, 0xFF) else none, locked, false⟩
def oneLine : Txn := { state := .open, ok := 3, lines := [aLine true false] }

/-- Phases of the leg on die 0 in a commit. -/
def inPhase (st : TxnState) (p : LegPhase) (lines : List TxnLine) : State :=
  let s := { bound with home := { bound.home with dir := [(State.dirWay line1 0, { line := line1, pins := 1 })] } }
  withTxn s { state := st, ok := 1, lines := lines, phases := [(0, p)], commit := some (txAsks Op.txCommit 1) }

theorem witness_TransactionOpens :
    bound.quiet ∧ bound.inTurn (txAsks Op.txOpen 0) = true ∧ bound.home.halted = [] ∧ (txAsks Op.txOpen 0).len = 0
      ∧ (txAsks Op.txOpen 0).chan = 0 ∧ (txAsks Op.txOpen 0).resv = false
      ∧ (Option.map bound.revoking (bound.partitionOf (txAsks Op.txOpen 0))).getD false = false
      ∧ (List.find? (fun (i : ℕ) => (bound.txn (State.txnKey (State.homeDie (txAsks Op.txOpen 0)) i)).state == TxnState.free) (List.range 1024) = some 0)
      ∧ bound.txnLive (State.homeDie (txAsks Op.txOpen 0)) < 1024 := by decide +kernel

theorem witness_TransactionAccess_0 :
    Joins (hasLine opened) (txAsks Op.txRd 0) Op.txRd (placed opened (txAsks Op.txRd 0)) rec3
      ∧ (hasLine opened).held (placed opened (txAsks Op.txRd 0)).line = true := by decide +kernel

theorem witness_TransactionAccess_1 :
    Joins opened (txAsks Op.txWr 5) Op.txWr (placed opened (txAsks Op.txWr 5)) rec3 := by decide +kernel

theorem witness_TransactionAccess_2 :
    Joins (hasLine opened) (txAsks Op.txAtomic 1) Op.txAtomic (placed opened (txAsks Op.txAtomic 1)) rec3
      ∧ (hasLine opened).held (placed opened (txAsks Op.txAtomic 1)).line = true := by decide +kernel

theorem witness_TransactionEnds_0_0_0_0 :
    (withTxn bound oneLine).quiet ∧ (withTxn bound oneLine).inTurn (txAsks Op.txCommit 1 3) = true
      ∧ (withTxn bound oneLine).home.halted = [] ∧ (txAsks Op.txCommit 1 3).chan = 0 ∧ (txAsks Op.txCommit 1 3).resv = false
      ∧ (withTxn bound oneLine).txnFor (txAsks Op.txCommit 1 3) = some rec3 ∧ (withTxn bound oneLine).txns.sorted = true
      ∧ State.homeDie (txAsks Op.txCommit 1 3) = State.txnDie rec3
      ∧ (withTxn bound oneLine).internalReq (txAsks Op.txCommit 1 3) = false
      ∧ (Option.map (withTxn bound oneLine).revoking ((withTxn bound oneLine).partitionOf (txAsks Op.txCommit 1 3))).getD false = false
      ∧ (txAsks Op.txCommit 1 3).len = 1 ∧ lineBits (txAsks Op.txCommit 1 3).data 2 48 = 0
      ∧ ((withTxn bound oneLine).txn rec3).state = TxnState.open ∧ ((withTxn bound oneLine).txn rec3).commit = none
      ∧ ((withTxn bound oneLine).txn rec3).ok % 65536 = lineBits (txAsks Op.txCommit 1 3).data 0 16
      ∧ State.legDies ((withTxn bound oneLine).txn rec3) ≠ [] := by decide +kernel

theorem witness_TransactionEnds_0_0_0_1 :
    (withTxn bound { state := oneLine.state, gen := oneLine.gen, opener := oneLine.opener, source := oneLine.source, sourceLocal := oneLine.sourceLocal, partition := oneLine.partition, ok := oneLine.ok, cause := oneLine.cause, commit := oneLine.commit, phases := oneLine.phases : Txn }).quiet
      ∧ (withTxn bound { state := oneLine.state, gen := oneLine.gen, opener := oneLine.opener, source := oneLine.source, sourceLocal := oneLine.sourceLocal, partition := oneLine.partition, ok := oneLine.ok, cause := oneLine.cause, commit := oneLine.commit, phases := oneLine.phases : Txn }).inTurn (txAsks Op.txCommit 1 3) = true
      ∧ (withTxn bound { state := oneLine.state, gen := oneLine.gen, opener := oneLine.opener, source := oneLine.source, sourceLocal := oneLine.sourceLocal, partition := oneLine.partition, ok := oneLine.ok, cause := oneLine.cause, commit := oneLine.commit, phases := oneLine.phases : Txn }).home.halted = []
      ∧ (txAsks Op.txCommit 1 3).chan = 0 ∧ (txAsks Op.txCommit 1 3).resv = false
      ∧ (withTxn bound { state := oneLine.state, gen := oneLine.gen, opener := oneLine.opener, source := oneLine.source, sourceLocal := oneLine.sourceLocal, partition := oneLine.partition, ok := oneLine.ok, cause := oneLine.cause, commit := oneLine.commit, phases := oneLine.phases : Txn }).txnFor (txAsks Op.txCommit 1 3) = some rec3
      ∧ (withTxn bound { state := oneLine.state, gen := oneLine.gen, opener := oneLine.opener, source := oneLine.source, sourceLocal := oneLine.sourceLocal, partition := oneLine.partition, ok := oneLine.ok, cause := oneLine.cause, commit := oneLine.commit, phases := oneLine.phases : Txn }).txns.sorted = true
      ∧ State.homeDie (txAsks Op.txCommit 1 3) = State.txnDie rec3
      ∧ (withTxn bound { state := oneLine.state, gen := oneLine.gen, opener := oneLine.opener, source := oneLine.source, sourceLocal := oneLine.sourceLocal, partition := oneLine.partition, ok := oneLine.ok, cause := oneLine.cause, commit := oneLine.commit, phases := oneLine.phases : Txn }).internalReq (txAsks Op.txCommit 1 3) = false
      ∧ (Option.map (withTxn bound { state := oneLine.state, gen := oneLine.gen, opener := oneLine.opener, source := oneLine.source, sourceLocal := oneLine.sourceLocal, partition := oneLine.partition, ok := oneLine.ok, cause := oneLine.cause, commit := oneLine.commit, phases := oneLine.phases : Txn }).revoking ((withTxn bound { state := oneLine.state, gen := oneLine.gen, opener := oneLine.opener, source := oneLine.source, sourceLocal := oneLine.sourceLocal, partition := oneLine.partition, ok := oneLine.ok, cause := oneLine.cause, commit := oneLine.commit, phases := oneLine.phases : Txn }).partitionOf (txAsks Op.txCommit 1 3))).getD false = false
      ∧ (txAsks Op.txCommit 1 3).len = 1 ∧ lineBits (txAsks Op.txCommit 1 3).data 2 48 = 0
      ∧ ((withTxn bound { state := oneLine.state, gen := oneLine.gen, opener := oneLine.opener, source := oneLine.source, sourceLocal := oneLine.sourceLocal, partition := oneLine.partition, ok := oneLine.ok, cause := oneLine.cause, commit := oneLine.commit, phases := oneLine.phases : Txn }).txn rec3).state = TxnState.open
      ∧ ((withTxn bound { state := oneLine.state, gen := oneLine.gen, opener := oneLine.opener, source := oneLine.source, sourceLocal := oneLine.sourceLocal, partition := oneLine.partition, ok := oneLine.ok, cause := oneLine.cause, commit := oneLine.commit, phases := oneLine.phases : Txn }).txn rec3).commit = none
      ∧ ((withTxn bound { state := oneLine.state, gen := oneLine.gen, opener := oneLine.opener, source := oneLine.source, sourceLocal := oneLine.sourceLocal, partition := oneLine.partition, ok := oneLine.ok, cause := oneLine.cause, commit := oneLine.commit, phases := oneLine.phases : Txn }).txn rec3).ok % 65536 = lineBits (txAsks Op.txCommit 1 3).data 0 16
      ∧ State.legDies ((withTxn bound { state := oneLine.state, gen := oneLine.gen, opener := oneLine.opener, source := oneLine.source, sourceLocal := oneLine.sourceLocal, partition := oneLine.partition, ok := oneLine.ok, cause := oneLine.cause, commit := oneLine.commit, phases := oneLine.phases : Txn }).txn rec3) = [] := by decide +kernel

theorem witness_TransactionEnds_0_0_1 :
    (withTxn bound oneLine).quiet ∧ (withTxn bound oneLine).inTurn (txAsks Op.txCommit 1 4) = true
      ∧ (withTxn bound oneLine).home.halted = [] ∧ (txAsks Op.txCommit 1 4).chan = 0 ∧ (txAsks Op.txCommit 1 4).resv = false
      ∧ (withTxn bound oneLine).txnFor (txAsks Op.txCommit 1 4) = some rec3 ∧ (withTxn bound oneLine).txns.sorted = true
      ∧ State.homeDie (txAsks Op.txCommit 1 4) = State.txnDie rec3
      ∧ (withTxn bound oneLine).internalReq (txAsks Op.txCommit 1 4) = false
      ∧ (Option.map (withTxn bound oneLine).revoking ((withTxn bound oneLine).partitionOf (txAsks Op.txCommit 1 4))).getD false = false
      ∧ (txAsks Op.txCommit 1 4).len = 1 ∧ lineBits (txAsks Op.txCommit 1 4).data 2 48 = 0
      ∧ ((withTxn bound oneLine).txn rec3).state = TxnState.open ∧ ((withTxn bound oneLine).txn rec3).commit = none
      ∧ ((withTxn bound oneLine).txn rec3).ok % 65536 ≠ lineBits (txAsks Op.txCommit 1 4).data 0 16
      ∧ (withTxn bound oneLine).home.queue = [] := by decide +kernel

theorem witness_TransactionEnds_0_1 :
    (withTxn bound oneLine).quiet ∧ (withTxn bound oneLine).inTurn (txAsks Op.txAbort 0) = true
      ∧ (withTxn bound oneLine).home.halted = [] ∧ (txAsks Op.txAbort 0).chan = 0 ∧ (txAsks Op.txAbort 0).resv = false
      ∧ (withTxn bound oneLine).txnFor (txAsks Op.txAbort 0) = some rec3 ∧ (withTxn bound oneLine).txns.sorted = true
      ∧ State.homeDie (txAsks Op.txAbort 0) = State.txnDie rec3
      ∧ (withTxn bound oneLine).internalReq (txAsks Op.txAbort 0) = false
      ∧ (Option.map (withTxn bound oneLine).revoking ((withTxn bound oneLine).partitionOf (txAsks Op.txAbort 0))).getD false = false
      ∧ (txAsks Op.txAbort 0).len = 0
      ∧ (((withTxn bound oneLine).txn rec3).state = TxnState.open ∧ ((withTxn bound oneLine).txn rec3).commit = none ∨ ((withTxn bound oneLine).txn rec3).state = TxnState.aborted)
      ∧ (withTxn bound oneLine).home.queue = [] := by decide +kernel

theorem witness_TransactionEnds_1_0_0 :
    (withTxn bound oneLine).wf = true ∧ (withTxn bound oneLine).quiet ∧ (withTxn bound oneLine).txns.sorted = true
      ∧ (withTxn bound oneLine).home.queue = [] ∧ ((withTxn bound oneLine).txn (State.txnKey 3 1023)).state = TxnState.open
      ∧ ((withTxn bound oneLine).txn (State.txnKey 3 1023)).commit = none := by decide +kernel

theorem witness_TransactionEnds_1_0_1 :
    (withTxn bound { state := TxnState.aborted : Txn }).wf = true
      ∧ (withTxn bound { state := TxnState.aborted : Txn }).quiet
      ∧ (withTxn bound { state := TxnState.aborted : Txn }).txns.sorted = true
      ∧ (withTxn bound { state := TxnState.aborted : Txn }).home.queue = []
      ∧ ((withTxn bound { state := TxnState.aborted : Txn }).txn (State.txnKey 3 1023)).state = TxnState.aborted := by decide +kernel

theorem witness_TransactionEnds_1_1 :
    (withTxn bound oneLine).wf = true ∧ (withTxn bound oneLine).quiet ∧ (withTxn bound oneLine).txns.sorted = true
      ∧ (withTxn bound oneLine).home.queue = []
      ∧ (withTxn bound oneLine).accepts (wordWrite Path.root Reg.txnKill 0 0 (fieldIn 74565 31 1 1)) := by decide +kernel

theorem witness_CommitPhases_0 :
    (inPhase TxnState.preparing LegPhase.idle [aLine true false]).wf = true
      ∧ (inPhase TxnState.preparing LegPhase.idle [aLine true false]).quiet
      ∧ (inPhase TxnState.preparing LegPhase.idle [aLine true false]).txns.sorted = true
      ∧ (inPhase TxnState.preparing LegPhase.idle [aLine true false]).home.queue = []
      ∧ (inPhase TxnState.preparing LegPhase.idle [aLine true false]).home.halted = []
      ∧ ((inPhase TxnState.preparing LegPhase.idle [aLine true false]).txn (State.txnKey 3 1023)).state = TxnState.preparing
      ∧ State.phase ((inPhase TxnState.preparing LegPhase.idle [aLine true false]).txn (State.txnKey 3 1023)) 0 = some LegPhase.idle
      ∧ ((List.all ((inPhase TxnState.preparing LegPhase.idle [aLine true false]).txn (State.txnKey 3 1023)).phases fun (p : ℕ × LegPhase) => decide (p.1 ≥ 0) || p.2 == LegPhase.acked) = true)
      ∧ (List.filter (fun (l : TxnLine) => lineDie l.line == 0) ((inPhase TxnState.preparing LegPhase.idle [aLine true false]).txn (State.txnKey 3 1023)).lines = [aLine true false])
      ∧ (aLine true false).locked = false
      ∧ (inPhase TxnState.preparing LegPhase.idle [aLine true false]).dirFind (aLine true false).line = some (State.dirWay line1 0, { line := line1, pins := 1 : DirEntry })
      ∧ { line := line1, pins := 1 : DirEntry }.state = DirState.i ∧ { line := line1, pins := 1 : DirEntry }.sharers = 0
      ∧ { line := line1, pins := 1 : DirEntry }.lock = false
      ∧ (inPhase TxnState.preparing LegPhase.idle [aLine true false]).blocked (aLine true false).line = false := by decide +kernel

theorem witness_CommitPhases_1 :
    (inPhase TxnState.preparing LegPhase.ready [aLine true true]).wf = true
      ∧ (inPhase TxnState.preparing LegPhase.ready [aLine true true]).quiet
      ∧ (inPhase TxnState.preparing LegPhase.ready [aLine true true]).txns.sorted = true
      ∧ (inPhase TxnState.preparing LegPhase.ready [aLine true true]).home.queue = []
      ∧ (inPhase TxnState.preparing LegPhase.ready [aLine true true]).home.halted = []
      ∧ ((inPhase TxnState.preparing LegPhase.ready [aLine true true]).txn (State.txnKey 3 1023)).state = TxnState.preparing
      ∧ State.phase ((inPhase TxnState.preparing LegPhase.ready [aLine true true]).txn (State.txnKey 3 1023)) 0 = some LegPhase.ready
      ∧ ((List.all (((inPhase TxnState.preparing LegPhase.ready [aLine true true]).txn (State.txnKey 3 1023)).phases.put 0 LegPhase.acked) fun (x : ℕ × LegPhase) => x.2 == LegPhase.acked) = true) := by decide +kernel

theorem witness_CommitPhases_2 :
    (inPhase TxnState.committed LegPhase.acked [aLine false true]).wf = true
      ∧ (inPhase TxnState.committed LegPhase.acked [aLine false true]).quiet
      ∧ (inPhase TxnState.committed LegPhase.acked [aLine false true]).txns.sorted = true
      ∧ (inPhase TxnState.committed LegPhase.acked [aLine false true]).home.queue = []
      ∧ (inPhase TxnState.committed LegPhase.acked [aLine false true]).home.halted = []
      ∧ ((inPhase TxnState.committed LegPhase.acked [aLine false true]).txn (State.txnKey 3 1023)).state = TxnState.committed
      ∧ State.phase ((inPhase TxnState.committed LegPhase.acked [aLine false true]).txn (State.txnKey 3 1023)) 0 = some LegPhase.acked := by decide +kernel

theorem witness_CommitPhases_3 :
    (hasLine (inPhase TxnState.committed LegPhase.applying [aLine true true])).wf = true
      ∧ (hasLine (inPhase TxnState.committed LegPhase.applying [aLine true true])).quiet
      ∧ (hasLine (inPhase TxnState.committed LegPhase.applying [aLine true true])).txns.sorted = true
      ∧ (hasLine (inPhase TxnState.committed LegPhase.applying [aLine true true])).home.queue = []
      ∧ (hasLine (inPhase TxnState.committed LegPhase.applying [aLine true true])).home.halted = []
      ∧ ((hasLine (inPhase TxnState.committed LegPhase.applying [aLine true true])).txn (State.txnKey 3 1023)).state = TxnState.committed
      ∧ State.phase ((hasLine (inPhase TxnState.committed LegPhase.applying [aLine true true])).txn (State.txnKey 3 1023)) 0 = some LegPhase.applying
      ∧ State.nextStaged ((hasLine (inPhase TxnState.committed LegPhase.applying [aLine true true])).txn (State.txnKey 3 1023)) 0 = some (aLine true true)
      ∧ (aLine true true).staged = some (7, 255) ∧ (aLine true true).spoiled = false
      ∧ (hasLine (inPhase TxnState.committed LegPhase.applying [aLine true true])).blocked (aLine true true).line = false
      ∧ (255 = maskFull ∨ (hasLine (inPhase TxnState.committed LegPhase.applying [aLine true true])).held (aLine true true).line = true)
      ∧ (hasLine (inPhase TxnState.committed LegPhase.applying [aLine true true])).keyHas ((hasLine (inPhase TxnState.committed LegPhase.applying [aLine true true])).lineKeyId (aLine true true).line).1 ((hasLine (inPhase TxnState.committed LegPhase.applying [aLine true true])).peekLine (aLine true true).line).2.keygen = true
      ∧ (∀ x ∈ (hasLine (inPhase TxnState.committed LegPhase.applying [aLine true true])).txns, x.1 ≠ State.txnKey 3 1023 → ∀ y ∈ x.2.lines, y.line ≠ (aLine true true).line) := by decide +kernel

theorem witness_CommitPhases_4 :
    (inPhase TxnState.committed LegPhase.applied []).wf = true ∧ (inPhase TxnState.committed LegPhase.applied []).quiet
      ∧ (inPhase TxnState.committed LegPhase.applied []).txns.sorted = true
      ∧ (inPhase TxnState.committed LegPhase.applied []).home.queue = []
      ∧ (inPhase TxnState.committed LegPhase.applied []).home.halted = []
      ∧ ((inPhase TxnState.committed LegPhase.applied []).txn (State.txnKey 3 1023)).state = TxnState.committed
      ∧ ((inPhase TxnState.committed LegPhase.applied []).txn (State.txnKey 3 1023)).phases = [(0, LegPhase.applied)]
      ∧ ((inPhase TxnState.committed LegPhase.applied []).txn (State.txnKey 3 1023)).commit = some (txAsks Op.txCommit 1)
      ∧ (inPhase TxnState.committed LegPhase.applied []).internalReq (txAsks Op.txCommit 1) = false
      ∧ (Option.map (inPhase TxnState.committed LegPhase.applied []).revoking ((inPhase TxnState.committed LegPhase.applied []).partitionOf (txAsks Op.txCommit 1))).getD false = false := by decide +kernel

/-- An instruction word: OP, D, A, B, and the bits above. -/
def mow (op d a b : Nat) (rest : Nat := 0) : DWord := BitVec.ofNat 64 (op + d * 2 ^ 8 + a * 2 ^ 14 + b * 2 ^ 20 + rest)
def fetched (op d a b : Nat) (rest : Nat := 0) : Fetch := { word := mow op d a b rest }

/-- A plan's USER task of one instruction, with values in S1, S2 and the registers V4 and V5 of engines 0 and 3. -/
def userCtx (w : Fetch) : Context :=
  { task := { plan := some 3, principal := 0x12345, desc := 0x10 :: List.replicate 127 0, prog := [w.word], fmts := builtinFmts.map (BitVec.ofNat 128) }
    phase := .run
    stage := 1
    sreg := [(1, 0x1000), (2, 0x7FFFFFFFFFFFFFFF)]
    vreg := [(4, (0x3F8040003F8040003F80, false)), (5, (0x3F803F80, false)), (196, (0x40004000, false))] }

/-- It runs in context 7 of core 142. -/
def runs (x : Context) : State :=
  { regsAt node [(F.corPfCtrl_en, 142, 0)] with clu := { ctx := [(142 * 8 + 7, x)] } }

/-- A request of it is outstanding. -/
def outstanding (s : State) (why : OutFor) : State :=
  { s with outs := [(State.outKey (State.coreLocal 142) 9, { who := .ctx 142 7, pkt := { addr := 0x100000 }, die := 3, partition := 0, why := why })] }

/-- With a transaction of TXID 77, or one known to have aborted. -/
def inTx (x : Context) (cause : Option Nat := none) : Context := { x with tx := some { txid := some 77, ok := 3, cause := cause } }

def reqsOf (x : Context) (i : DWord) (kind : Nat) : List State.MemReq :=
  let va8 := (State.sGet x (aOf i) + immOf i * 8).toNat
  match kind with
  | 0 => [⟨va8, Op.rdUnc, Op.txRd, {}, .sload (dOf i) (va8 % 128), true⟩]
  | _ => State.storeReqs va8 ((State.leBytes (State.sGet x (bOf i)).toNat 8).map (·, false))

/-- A prefetch has brought line 32 into the buffer of cluster 15. -/
def bufOne : BufLine := ⟨State.ctxKey 142 7, 32, none, 0x55AA, false⟩
def buffered : State := (runs (userCtx (fetched Mo.sld 4 1 2))).bufPut 142 bufOne

theorem witness_ScalarRows_0 :
    Due (runs (userCtx (fetched Mo.sli 31 1 2))) Mo.sli 142 7 (fetched Mo.sli 31 1 2) (userCtx (fetched Mo.sli 31 1 2))
      ∧ [dOf (fetched Mo.sli 31 1 2).word].any ((runs (userCtx (fetched Mo.sli 31 1 2))).busyS 142 7) = false := by decide +kernel

theorem witness_ScalarRows_1 :
    Due (runs (userCtx (fetched Mo.sadd 31 1 2))) Mo.sadd 142 7 (fetched Mo.sadd 31 1 2) (userCtx (fetched Mo.sadd 31 1 2))
      ∧ [dOf (fetched Mo.sadd 31 1 2).word, aOf (fetched Mo.sadd 31 1 2).word, bOf (fetched Mo.sadd 31 1 2).word].any ((runs (userCtx (fetched Mo.sadd 31 1 2))).busyS 142 7) = false := by decide +kernel

theorem witness_ScalarRows_2 :
    Due (runs (userCtx (fetched Mo.ssub 31 1 2))) Mo.ssub 142 7 (fetched Mo.ssub 31 1 2) (userCtx (fetched Mo.ssub 31 1 2))
      ∧ [dOf (fetched Mo.ssub 31 1 2).word, aOf (fetched Mo.ssub 31 1 2).word, bOf (fetched Mo.ssub 31 1 2).word].any ((runs (userCtx (fetched Mo.ssub 31 1 2))).busyS 142 7) = false := by decide +kernel

theorem witness_ScalarRows_3 :
    Due (runs (userCtx (fetched Mo.smul 31 1 2))) Mo.smul 142 7 (fetched Mo.smul 31 1 2) (userCtx (fetched Mo.smul 31 1 2))
      ∧ [dOf (fetched Mo.smul 31 1 2).word, aOf (fetched Mo.smul 31 1 2).word, bOf (fetched Mo.smul 31 1 2).word].any ((runs (userCtx (fetched Mo.smul 31 1 2))).busyS 142 7) = false := by decide +kernel

theorem witness_ScalarRows_4 :
    Due (runs (userCtx (fetched Mo.sand 31 1 2))) Mo.sand 142 7 (fetched Mo.sand 31 1 2) (userCtx (fetched Mo.sand 31 1 2))
      ∧ [dOf (fetched Mo.sand 31 1 2).word, aOf (fetched Mo.sand 31 1 2).word, bOf (fetched Mo.sand 31 1 2).word].any ((runs (userCtx (fetched Mo.sand 31 1 2))).busyS 142 7) = false := by decide +kernel

theorem witness_ScalarRows_5 :
    Due (runs (userCtx (fetched Mo.sor 31 1 2))) Mo.sor 142 7 (fetched Mo.sor 31 1 2) (userCtx (fetched Mo.sor 31 1 2))
      ∧ [dOf (fetched Mo.sor 31 1 2).word, aOf (fetched Mo.sor 31 1 2).word, bOf (fetched Mo.sor 31 1 2).word].any ((runs (userCtx (fetched Mo.sor 31 1 2))).busyS 142 7) = false := by decide +kernel

theorem witness_ScalarRows_6 :
    Due (runs (userCtx (fetched Mo.sxor 31 1 2))) Mo.sxor 142 7 (fetched Mo.sxor 31 1 2) (userCtx (fetched Mo.sxor 31 1 2))
      ∧ [dOf (fetched Mo.sxor 31 1 2).word, aOf (fetched Mo.sxor 31 1 2).word, bOf (fetched Mo.sxor 31 1 2).word].any ((runs (userCtx (fetched Mo.sxor 31 1 2))).busyS 142 7) = false := by decide +kernel

theorem witness_ScalarRows_7 :
    Due (runs (userCtx (fetched Mo.sshl 31 1 2))) Mo.sshl 142 7 (fetched Mo.sshl 31 1 2) (userCtx (fetched Mo.sshl 31 1 2))
      ∧ [dOf (fetched Mo.sshl 31 1 2).word, aOf (fetched Mo.sshl 31 1 2).word, bOf (fetched Mo.sshl 31 1 2).word].any ((runs (userCtx (fetched Mo.sshl 31 1 2))).busyS 142 7) = false := by decide +kernel

theorem witness_ScalarRows_8 :
    Due (runs (userCtx (fetched Mo.sshr 31 1 2))) Mo.sshr 142 7 (fetched Mo.sshr 31 1 2) (userCtx (fetched Mo.sshr 31 1 2))
      ∧ [dOf (fetched Mo.sshr 31 1 2).word, aOf (fetched Mo.sshr 31 1 2).word, bOf (fetched Mo.sshr 31 1 2).word].any ((runs (userCtx (fetched Mo.sshr 31 1 2))).busyS 142 7) = false := by decide +kernel

theorem witness_ScalarRows_9 :
    Due (runs (userCtx (fetched Mo.ssra 31 1 2))) Mo.ssra 142 7 (fetched Mo.ssra 31 1 2) (userCtx (fetched Mo.ssra 31 1 2))
      ∧ [dOf (fetched Mo.ssra 31 1 2).word, aOf (fetched Mo.ssra 31 1 2).word, bOf (fetched Mo.ssra 31 1 2).word].any ((runs (userCtx (fetched Mo.ssra 31 1 2))).busyS 142 7) = false := by decide +kernel

theorem witness_ScalarRows_1_a :
    Due (runs (userCtx (fetched Mo.sadd 31 1 2))) Mo.sadd 142 7 (fetched Mo.sadd 31 1 2) (userCtx (fetched Mo.sadd 31 1 2))
      ∧ [dOf (fetched Mo.sadd 31 1 2).word, aOf (fetched Mo.sadd 31 1 2).word, bOf (fetched Mo.sadd 31 1 2).word].any ((runs (userCtx (fetched Mo.sadd 31 1 2))).busyS 142 7) = false := by decide +kernel

theorem witness_ScalarRows_1_b :
    Due (runs (userCtx (fetched Mo.sadd 31 1 2))) Mo.sadd 142 7 (fetched Mo.sadd 31 1 2) (userCtx (fetched Mo.sadd 31 1 2))
      ∧ [dOf (fetched Mo.sadd 31 1 2).word, aOf (fetched Mo.sadd 31 1 2).word, bOf (fetched Mo.sadd 31 1 2).word].any ((runs (userCtx (fetched Mo.sadd 31 1 2))).busyS 142 7) = false := by decide +kernel

theorem witness_ScalarRows_1_c :
    Due (runs (userCtx (fetched Mo.sadd 31 1 2))) Mo.sadd 142 7 (fetched Mo.sadd 31 1 2) (userCtx (fetched Mo.sadd 31 1 2))
      ∧ [dOf (fetched Mo.sadd 31 1 2).word, aOf (fetched Mo.sadd 31 1 2).word, bOf (fetched Mo.sadd 31 1 2).word].any ((runs (userCtx (fetched Mo.sadd 31 1 2))).busyS 142 7) = false := by decide +kernel

theorem witness_ScalarRows_1_d :
    Due (runs (userCtx (fetched Mo.sadd 31 1 2))) Mo.sadd 142 7 (fetched Mo.sadd 31 1 2) (userCtx (fetched Mo.sadd 31 1 2))
      ∧ [dOf (fetched Mo.sadd 31 1 2).word, aOf (fetched Mo.sadd 31 1 2).word, bOf (fetched Mo.sadd 31 1 2).word].any ((runs (userCtx (fetched Mo.sadd 31 1 2))).busyS 142 7) = false := by decide +kernel

theorem witness_ControlRows_0_0_0 :
    Due (runs (userCtx (fetched Mo.beq 0 1 1 (4095 * 2 ^ 52)))) Mo.beq 142 7 (fetched Mo.beq 0 1 1 (4095 * 2 ^ 52)) (userCtx (fetched Mo.beq 0 1 1 (4095 * 2 ^ 52)))
      ∧ [aOf (fetched Mo.beq 0 1 1 (4095 * 2 ^ 52)).word, bOf (fetched Mo.beq 0 1 1 (4095 * 2 ^ 52)).word].any ((runs (userCtx (fetched Mo.beq 0 1 1 (4095 * 2 ^ 52)))).busyS 142 7) = false
      ∧ State.sGet (userCtx (fetched Mo.beq 0 1 1 (4095 * 2 ^ 52))) (aOf (fetched Mo.beq 0 1 1 (4095 * 2 ^ 52)).word) = State.sGet (userCtx (fetched Mo.beq 0 1 1 (4095 * 2 ^ 52))) (bOf (fetched Mo.beq 0 1 1 (4095 * 2 ^ 52)).word) := by decide +kernel

theorem witness_ControlRows_0_0_1 :
    Due (runs (userCtx (fetched Mo.beq 0 1 2 (4095 * 2 ^ 52)))) Mo.beq 142 7 (fetched Mo.beq 0 1 2 (4095 * 2 ^ 52)) (userCtx (fetched Mo.beq 0 1 2 (4095 * 2 ^ 52)))
      ∧ [aOf (fetched Mo.beq 0 1 2 (4095 * 2 ^ 52)).word, bOf (fetched Mo.beq 0 1 2 (4095 * 2 ^ 52)).word].any ((runs (userCtx (fetched Mo.beq 0 1 2 (4095 * 2 ^ 52)))).busyS 142 7) = false
      ∧ ¬State.sGet (userCtx (fetched Mo.beq 0 1 2 (4095 * 2 ^ 52))) (aOf (fetched Mo.beq 0 1 2 (4095 * 2 ^ 52)).word) = State.sGet (userCtx (fetched Mo.beq 0 1 2 (4095 * 2 ^ 52))) (bOf (fetched Mo.beq 0 1 2 (4095 * 2 ^ 52)).word) := by decide +kernel

theorem witness_ControlRows_0_1_0 :
    Due (runs (userCtx (fetched Mo.bne 0 1 2 (4095 * 2 ^ 52)))) Mo.bne 142 7 (fetched Mo.bne 0 1 2 (4095 * 2 ^ 52)) (userCtx (fetched Mo.bne 0 1 2 (4095 * 2 ^ 52)))
      ∧ [aOf (fetched Mo.bne 0 1 2 (4095 * 2 ^ 52)).word, bOf (fetched Mo.bne 0 1 2 (4095 * 2 ^ 52)).word].any ((runs (userCtx (fetched Mo.bne 0 1 2 (4095 * 2 ^ 52)))).busyS 142 7) = false
      ∧ State.sGet (userCtx (fetched Mo.bne 0 1 2 (4095 * 2 ^ 52))) (aOf (fetched Mo.bne 0 1 2 (4095 * 2 ^ 52)).word) ≠ State.sGet (userCtx (fetched Mo.bne 0 1 2 (4095 * 2 ^ 52))) (bOf (fetched Mo.bne 0 1 2 (4095 * 2 ^ 52)).word) := by decide +kernel

theorem witness_ControlRows_0_1_1 :
    Due (runs (userCtx (fetched Mo.bne 0 1 1 (4095 * 2 ^ 52)))) Mo.bne 142 7 (fetched Mo.bne 0 1 1 (4095 * 2 ^ 52)) (userCtx (fetched Mo.bne 0 1 1 (4095 * 2 ^ 52)))
      ∧ [aOf (fetched Mo.bne 0 1 1 (4095 * 2 ^ 52)).word, bOf (fetched Mo.bne 0 1 1 (4095 * 2 ^ 52)).word].any ((runs (userCtx (fetched Mo.bne 0 1 1 (4095 * 2 ^ 52)))).busyS 142 7) = false
      ∧ ¬State.sGet (userCtx (fetched Mo.bne 0 1 1 (4095 * 2 ^ 52))) (aOf (fetched Mo.bne 0 1 1 (4095 * 2 ^ 52)).word) ≠ State.sGet (userCtx (fetched Mo.bne 0 1 1 (4095 * 2 ^ 52))) (bOf (fetched Mo.bne 0 1 1 (4095 * 2 ^ 52)).word) := by decide +kernel

theorem witness_ControlRows_0_2_0 :
    Due (runs (userCtx (fetched Mo.blt 0 1 2 (4095 * 2 ^ 52)))) Mo.blt 142 7 (fetched Mo.blt 0 1 2 (4095 * 2 ^ 52)) (userCtx (fetched Mo.blt 0 1 2 (4095 * 2 ^ 52)))
      ∧ [aOf (fetched Mo.blt 0 1 2 (4095 * 2 ^ 52)).word, bOf (fetched Mo.blt 0 1 2 (4095 * 2 ^ 52)).word].any ((runs (userCtx (fetched Mo.blt 0 1 2 (4095 * 2 ^ 52)))).busyS 142 7) = false
      ∧ BitVec.toInt (State.sGet (userCtx (fetched Mo.blt 0 1 2 (4095 * 2 ^ 52))) (aOf (fetched Mo.blt 0 1 2 (4095 * 2 ^ 52)).word)) < BitVec.toInt (State.sGet (userCtx (fetched Mo.blt 0 1 2 (4095 * 2 ^ 52))) (bOf (fetched Mo.blt 0 1 2 (4095 * 2 ^ 52)).word)) := by decide +kernel

theorem witness_ControlRows_0_2_1 :
    Due (runs (userCtx (fetched Mo.blt 0 1 1 (4095 * 2 ^ 52)))) Mo.blt 142 7 (fetched Mo.blt 0 1 1 (4095 * 2 ^ 52)) (userCtx (fetched Mo.blt 0 1 1 (4095 * 2 ^ 52)))
      ∧ [aOf (fetched Mo.blt 0 1 1 (4095 * 2 ^ 52)).word, bOf (fetched Mo.blt 0 1 1 (4095 * 2 ^ 52)).word].any ((runs (userCtx (fetched Mo.blt 0 1 1 (4095 * 2 ^ 52)))).busyS 142 7) = false
      ∧ ¬BitVec.toInt (State.sGet (userCtx (fetched Mo.blt 0 1 1 (4095 * 2 ^ 52))) (aOf (fetched Mo.blt 0 1 1 (4095 * 2 ^ 52)).word)) < BitVec.toInt (State.sGet (userCtx (fetched Mo.blt 0 1 1 (4095 * 2 ^ 52))) (bOf (fetched Mo.blt 0 1 1 (4095 * 2 ^ 52)).word)) := by decide +kernel

theorem witness_ControlRows_0_3_0 :
    Due (runs (userCtx (fetched Mo.bge 0 1 1 (4095 * 2 ^ 52)))) Mo.bge 142 7 (fetched Mo.bge 0 1 1 (4095 * 2 ^ 52)) (userCtx (fetched Mo.bge 0 1 1 (4095 * 2 ^ 52)))
      ∧ [aOf (fetched Mo.bge 0 1 1 (4095 * 2 ^ 52)).word, bOf (fetched Mo.bge 0 1 1 (4095 * 2 ^ 52)).word].any ((runs (userCtx (fetched Mo.bge 0 1 1 (4095 * 2 ^ 52)))).busyS 142 7) = false
      ∧ BitVec.toInt (State.sGet (userCtx (fetched Mo.bge 0 1 1 (4095 * 2 ^ 52))) (bOf (fetched Mo.bge 0 1 1 (4095 * 2 ^ 52)).word)) ≤ BitVec.toInt (State.sGet (userCtx (fetched Mo.bge 0 1 1 (4095 * 2 ^ 52))) (aOf (fetched Mo.bge 0 1 1 (4095 * 2 ^ 52)).word)) := by decide +kernel

theorem witness_ControlRows_0_3_1 :
    Due (runs (userCtx (fetched Mo.bge 0 1 2 (4095 * 2 ^ 52)))) Mo.bge 142 7 (fetched Mo.bge 0 1 2 (4095 * 2 ^ 52)) (userCtx (fetched Mo.bge 0 1 2 (4095 * 2 ^ 52)))
      ∧ [aOf (fetched Mo.bge 0 1 2 (4095 * 2 ^ 52)).word, bOf (fetched Mo.bge 0 1 2 (4095 * 2 ^ 52)).word].any ((runs (userCtx (fetched Mo.bge 0 1 2 (4095 * 2 ^ 52)))).busyS 142 7) = false
      ∧ ¬BitVec.toInt (State.sGet (userCtx (fetched Mo.bge 0 1 2 (4095 * 2 ^ 52))) (bOf (fetched Mo.bge 0 1 2 (4095 * 2 ^ 52)).word)) ≤ BitVec.toInt (State.sGet (userCtx (fetched Mo.bge 0 1 2 (4095 * 2 ^ 52))) (aOf (fetched Mo.bge 0 1 2 (4095 * 2 ^ 52)).word)) := by decide +kernel

theorem witness_ControlRows_0_4_0 :
    Due (runs (userCtx (fetched Mo.nop 3 1 2))) Mo.nop 142 7 (fetched Mo.nop 3 1 2) (userCtx (fetched Mo.nop 3 1 2)) := by decide +kernel

theorem witness_ControlRows_0_4_1 :
    Due (runs (userCtx (fetched Mo.wait 3 1 2))) Mo.wait 142 7 (fetched Mo.wait 3 1 2) (userCtx (fetched Mo.wait 3 1 2))
      ∧ (runs (userCtx (fetched Mo.wait 3 1 2))).ctxOuts 142 7 = [] := by decide +kernel

theorem witness_ControlRows_0_4_2 :
    Due (outstanding (runs (userCtx (fetched Mo.wait 3 1 2))) OutFor.store) Mo.wait 142 7 (fetched Mo.wait 3 1 2) (userCtx (fetched Mo.wait 3 1 2))
      ∧ (outstanding (runs (userCtx (fetched Mo.wait 3 1 2))) OutFor.store).ctxOuts 142 7 ≠ [] := by decide +kernel

theorem witness_ControlRows_0_4_3 :
    Due (runs (userCtx (fetched Mo.txchk 3 1 2))) Mo.txchk 142 7 (fetched Mo.txchk 3 1 2) (userCtx (fetched Mo.txchk 3 1 2))
      ∧ (runs (userCtx (fetched Mo.txchk 3 1 2))).busyS 142 7 (dOf (fetched Mo.txchk 3 1 2).word) = false := by decide +kernel

theorem witness_MemoryRows_0_0 :
    (userCtx (fetched Mo.sld 4 1 2)).tx = none
      ∧ Due (runs (userCtx (fetched Mo.sld 4 1 2))) Mo.sld 142 7 (fetched Mo.sld 4 1 2) (userCtx (fetched Mo.sld 4 1 2))
      ∧ [aOf (fetched Mo.sld 4 1 2).word, dOf (fetched Mo.sld 4 1 2).word].any ((runs (userCtx (fetched Mo.sld 4 1 2))).busyS 142 7) = false
      ∧ Issues (runs (userCtx (fetched Mo.sld 4 1 2))) 142 7 (userCtx (fetched Mo.sld 4 1 2)) 8 [4096] 0 [{ va := 4096, plain := Op.rdUnc, tx := Op.txRd, pkt := { : Packet }, why := OutFor.sload (dOf (fetched Mo.sld 4 1 2).word) (4096 % 128) : State.MemReq }] [4096] (runs (userCtx (fetched Mo.sld 4 1 2))) := by decide +kernel

theorem witness_MemoryRows_0_1 :
    (userCtx (fetched Mo.sst 4 1 2)).tx = none
      ∧ Due (runs (userCtx (fetched Mo.sst 4 1 2))) Mo.sst 142 7 (fetched Mo.sst 4 1 2) (userCtx (fetched Mo.sst 4 1 2))
      ∧ [aOf (fetched Mo.sst 4 1 2).word, bOf (fetched Mo.sst 4 1 2).word].any ((runs (userCtx (fetched Mo.sst 4 1 2))).busyS 142 7) = false
      ∧ (Issues (runs (userCtx (fetched Mo.sst 4 1 2))) 142 7 (userCtx (fetched Mo.sst 4 1 2)) 8 [4096] 1 (State.storeReqs 4096 (List.map (fun (x : Byte) => (x, false)) (State.leBytes 9223372036854775807 8))) [4096] (runs (userCtx (fetched Mo.sst 4 1 2)))) := by decide +kernel

theorem witness_MemoryRows_0_2 :
    (userCtx (fetched Mo.atom 3 1 2 (48 * 2 ^ 52))).tx = none
      ∧ Due (runs (userCtx (fetched Mo.atom 3 1 2 (48 * 2 ^ 52)))) Mo.atom 142 7 (fetched Mo.atom 3 1 2 (48 * 2 ^ 52)) (userCtx (fetched Mo.atom 3 1 2 (48 * 2 ^ 52)))
      ∧ [aOf (fetched Mo.atom 3 1 2 (48 * 2 ^ 52)).word, bOf (fetched Mo.atom 3 1 2 (48 * 2 ^ 52)).word, cOf (fetched Mo.atom 3 1 2 (48 * 2 ^ 52)).word, eOf (fetched Mo.atom 3 1 2 (48 * 2 ^ 52)).word, dOf (fetched Mo.atom 3 1 2 (48 * 2 ^ 52)).word].any ((runs (userCtx (fetched Mo.atom 3 1 2 (48 * 2 ^ 52)))).busyS 142 7) = false
      ∧ (Issues (runs (userCtx (fetched Mo.atom 3 1 2 (48 * 2 ^ 52)))) 142 7 (userCtx (fetched Mo.atom 3 1 2 (48 * 2 ^ 52))) 8 [4096] 2 [{ va := 4096, plain := Op.atomic, tx := Op.txAtomic, pkt := { len := if fieldOf (fetched Mo.atom 3 1 2 (48 * 2 ^ 52)).word 52 6 % 16 = 9 then 3 else 1, sub := BitVec.ofNat 6 (fieldOf (fetched Mo.atom 3 1 2 (48 * 2 ^ 52)).word 52 6), data := if fieldOf (fetched Mo.atom 3 1 2 (48 * 2 ^ 52)).word 52 6 % 16 = 9 then BitVec.ofNat 1024 (9223372036854775807 + 0 * 2 ^ 64 + 0 * 2 ^ 128) else 9223372036854775807#1024 : Packet }, why := OutFor.atom (dOf (fetched Mo.atom 3 1 2 (48 * 2 ^ 52)).word) (4096 % 128) (fieldOf (fetched Mo.atom 3 1 2 (48 * 2 ^ 52)).word 52 6 / 16 % 2 == 1), line := false : State.MemReq }] [4096] (runs (userCtx (fetched Mo.atom 3 1 2 (48 * 2 ^ 52))))) := by decide +kernel

theorem witness_MemoryRows_0_3 :
    (userCtx (fetched Mo.vld 4 1 2)).tx = none
      ∧ Due (runs (userCtx (fetched Mo.vld 4 1 2))) Mo.vld 142 7 (fetched Mo.vld 4 1 2) (userCtx (fetched Mo.vld 4 1 2))
      ∧ [aOf (fetched Mo.vld 4 1 2).word, cOf (fetched Mo.vld 4 1 2).word].any ((runs (userCtx (fetched Mo.vld 4 1 2))).busyS 142 7) = false
      ∧ (((List.flatMap (fun (x : List ℕ × ℕ) => x.1) (State.vecAddrs (userCtx (fetched Mo.vld 4 1 2)) (fetched Mo.vld 4 1 2).word)).any fun (e : ℕ) => (if State.isSix (userCtx (fetched Mo.vld 4 1 2)) (fetched Mo.vld 4 1 2).word = true then [dOf (fetched Mo.vld 4 1 2).word, dOf (fetched Mo.vld 4 1 2).word + 1] else [dOf (fetched Mo.vld 4 1 2).word]).any fun (r : ℕ) => (runs (userCtx (fetched Mo.vld 4 1 2))).busyV 142 7 e r) = false)
      ∧ (Issues (runs (userCtx (fetched Mo.vld 4 1 2))) 142 7 (userCtx (fetched Mo.vld 4 1 2)) (if State.isSix (userCtx (fetched Mo.vld 4 1 2)) (fetched Mo.vld 4 1 2).word = true then 64 else 128) (List.map (fun (x : List ℕ × ℕ) => x.2) (State.vecAddrs (userCtx (fetched Mo.vld 4 1 2)) (fetched Mo.vld 4 1 2).word)) 0 (State.loadReqs (userCtx (fetched Mo.vld 4 1 2)) (fetched Mo.vld 4 1 2).word) (List.map (fun (x : State.MemReq) => x.va) (State.loadReqs (userCtx (fetched Mo.vld 4 1 2)) (fetched Mo.vld 4 1 2).word)) (runs (userCtx (fetched Mo.vld 4 1 2)))) := by decide +kernel

theorem witness_MemoryRows_0_4 :
    (userCtx (fetched Mo.vst 0 4 1)).tx = none
      ∧ Due (runs (userCtx (fetched Mo.vst 0 4 1))) Mo.vst 142 7 (fetched Mo.vst 0 4 1) (userCtx (fetched Mo.vst 0 4 1))
      ∧ [bOf (fetched Mo.vst 0 4 1).word, cOf (fetched Mo.vst 0 4 1).word].any ((runs (userCtx (fetched Mo.vst 0 4 1))).busyS 142 7) = false
      ∧ (((List.flatMap (fun (x : List ℕ × ℕ) => x.1) (State.storeAddrs (userCtx (fetched Mo.vst 0 4 1)) (fetched Mo.vst 0 4 1).word)).any fun (e : ℕ) => (if State.isSix (userCtx (fetched Mo.vst 0 4 1)) (fetched Mo.vst 0 4 1).word = true then [aOf (fetched Mo.vst 0 4 1).word, aOf (fetched Mo.vst 0 4 1).word + 1] else [aOf (fetched Mo.vst 0 4 1).word]).any fun (r : ℕ) => (runs (userCtx (fetched Mo.vst 0 4 1))).busyV 142 7 e r) = false)
      ∧ (Issues (runs (userCtx (fetched Mo.vst 0 4 1))) 142 7 (userCtx (fetched Mo.vst 0 4 1)) (if State.isSix (userCtx (fetched Mo.vst 0 4 1)) (fetched Mo.vst 0 4 1).word = true then 64 else 128) (List.map (fun (x : List ℕ × ℕ) => x.2) (State.storeAddrs (userCtx (fetched Mo.vst 0 4 1)) (fetched Mo.vst 0 4 1).word)) 1 (State.vstReqs (userCtx (fetched Mo.vst 0 4 1)) (fetched Mo.vst 0 4 1).word none) (List.map (fun (x : State.MemReq) => x.va) (State.vstReqs (userCtx (fetched Mo.vst 0 4 1)) (fetched Mo.vst 0 4 1).word none)) (runs (userCtx (fetched Mo.vst 0 4 1)))) := by decide +kernel

theorem witness_MemoryRows_1_0_0 :
    (runs (userCtx (fetched Mo.sld 4 1 2))).getCtx 142 7 = some (userCtx (fetched Mo.sld 4 1 2))
      ∧ (userCtx (fetched Mo.sld 4 1 2)).tx = none
      ∧ (runs (userCtx (fetched Mo.sld 4 1 2))).freeTag (State.coreLocal 142) = some 0
      ∧ ((reqsOf (userCtx (fetched Mo.sld 4 1 2)) (fetched Mo.sld 4 1 2).word 0).headD { va := 0, plain := 0, tx := 0, pkt := { : Packet }, why := OutFor.other, line := false : State.MemReq }).plain = Op.rdUnc
      ∧ (runs (userCtx (fetched Mo.sld 4 1 2))).bufLine 142 7 4096 none = none := by decide +kernel

theorem witness_MemoryRows_1_0_1 :
    (runs (userCtx (fetched Mo.sst 4 1 2))).getCtx 142 7 = some (userCtx (fetched Mo.sst 4 1 2))
      ∧ (userCtx (fetched Mo.sst 4 1 2)).tx = none
      ∧ (runs (userCtx (fetched Mo.sst 4 1 2))).freeTag (State.coreLocal 142) = some 0
      ∧ (((reqsOf (userCtx (fetched Mo.sst 4 1 2)) (fetched Mo.sst 4 1 2).word 1).headD { va := 0, plain := 0, tx := 0, pkt := { : Packet }, why := OutFor.other, line := false : State.MemReq }).plain = Op.wrUnc ∨ ((reqsOf (userCtx (fetched Mo.sst 4 1 2)) (fetched Mo.sst 4 1 2).word 1).headD { va := 0, plain := 0, tx := 0, pkt := { : Packet }, why := OutFor.other, line := false : State.MemReq }).plain = Op.atomic) := by decide +kernel

theorem witness_MemoryRows_1_0_2 :
    (runs (userCtx (fetched Mo.sld 4 1 2))).getCtx 142 7 = some (userCtx (fetched Mo.sld 4 1 2))
      ∧ (userCtx (fetched Mo.sld 4 1 2)).tx = none
      ∧ (runs (userCtx (fetched Mo.sld 4 1 2))).freeTag (State.coreLocal 142) = some 0 := by decide +kernel

theorem witness_MemoryRows_1_1 :
    buffered.getCtx 142 7 = some (userCtx (fetched Mo.sld 4 1 2)) ∧ (userCtx (fetched Mo.sld 4 1 2)).tx = none
      ∧ ((reqsOf (userCtx (fetched Mo.sld 4 1 2)) (fetched Mo.sld 4 1 2).word 0).headD { va := 0, plain := 0, tx := 0, pkt := { : Packet }, why := OutFor.other, line := false : State.MemReq }).plain = Op.rdUnc
      ∧ ((reqsOf (userCtx (fetched Mo.sld 4 1 2)) (fetched Mo.sld 4 1 2).word 0).headD { va := 0, plain := 0, tx := 0, pkt := { : Packet }, why := OutFor.other, line := false : State.MemReq }).why = OutFor.sload 4 0
      ∧ buffered.bufLine 142 7 4096 none = some bufOne ∧ bufOne.poison = false := by decide +kernel

theorem witness_MemoryRows_1_3 :
    (runs (userCtx (fetched Mo.sld 4 1 2))).getCtx 142 7 = some (userCtx (fetched Mo.sld 4 1 2)) ∧ 256 % 128 = 0
      ∧ (List.replicate 128 (1, true)).length = 128 := by decide +kernel

theorem witness_MemoryRows_1_2 :
    (runs (inTx (userCtx (fetched Mo.sld 4 1 2)) (some 3))).getCtx 142 7 = some (inTx (userCtx (fetched Mo.sld 4 1 2)) (some 3))
      ∧ (inTx (userCtx (fetched Mo.sld 4 1 2)) (some 3)).tx = some { txid := some 77, ok := 3, cause := some 3 : CtxTx }
      ∧ { txid := some 77, ok := 3, cause := some 3 : CtxTx }.cause = some 3
      ∧ (7 * 2 ^ 52 + 4096) / 2 ^ 52 = (runs (inTx (userCtx (fetched Mo.sld 4 1 2)) (some 3))).node := by decide +kernel

theorem witness_TxRows_0_0 :
    Due (runs (userCtx (fetched Mo.txopen 3 1 2))) Mo.txopen 142 7 (fetched Mo.txopen 3 1 2) (userCtx (fetched Mo.txopen 3 1 2))
      ∧ (runs (userCtx (fetched Mo.txopen 3 1 2))).busyS 142 7 (dOf (fetched Mo.txopen 3 1 2).word) = false
      ∧ (runs (userCtx (fetched Mo.txopen 3 1 2))).busyTx 142 7 = false
      ∧ (runs (userCtx (fetched Mo.txopen 3 1 2))).mayIssue 142 7 1 = true
      ∧ State.txIsOpen (userCtx (fetched Mo.txopen 3 1 2)) = false
      ∧ ((runs (userCtx (fetched Mo.txopen 3 1 2))).freeTag (State.coreLocal 142)).isSome = true := by decide +kernel

theorem witness_TxRows_0_1 :
    Due (runs (inTx (userCtx (fetched Mo.txopen 3 1 2)))) Mo.txopen 142 7 (fetched Mo.txopen 3 1 2) (inTx (userCtx (fetched Mo.txopen 3 1 2)))
      ∧ (runs (inTx (userCtx (fetched Mo.txopen 3 1 2)))).busyS 142 7 (dOf (fetched Mo.txopen 3 1 2).word) = false
      ∧ (runs (inTx (userCtx (fetched Mo.txopen 3 1 2)))).busyTx 142 7 = false
      ∧ (runs (inTx (userCtx (fetched Mo.txopen 3 1 2)))).mayIssue 142 7 1 = true
      ∧ State.txIsOpen (inTx (userCtx (fetched Mo.txopen 3 1 2))) = true := by decide +kernel

theorem witness_TxRows_1_0 :
    Due (runs (inTx (userCtx (fetched Mo.txcommit 3 1 2)))) Mo.txcommit 142 7 (fetched Mo.txcommit 3 1 2) (inTx (userCtx (fetched Mo.txcommit 3 1 2)))
      ∧ (runs (inTx (userCtx (fetched Mo.txcommit 3 1 2)))).ctxOuts 142 7 = []
      ∧ (inTx (userCtx (fetched Mo.txcommit 3 1 2))).tx = some { txid := some 77, ok := 3 : CtxTx }
      ∧ { txid := some 77, ok := 3 : CtxTx }.txid = some 77
      ∧ ((runs (inTx (userCtx (fetched Mo.txcommit 3 1 2)))).freeTag (State.coreLocal 142)).isSome = true := by decide +kernel

theorem witness_TxRows_1_1 :
    Due (runs (userCtx (fetched Mo.txcommit 3 1 2))) Mo.txcommit 142 7 (fetched Mo.txcommit 3 1 2) (userCtx (fetched Mo.txcommit 3 1 2))
      ∧ (runs (userCtx (fetched Mo.txcommit 3 1 2))).ctxOuts 142 7 = [] ∧ (userCtx (fetched Mo.txcommit 3 1 2)).tx = none := by decide +kernel

theorem witness_TxRows_2_0 :
    Due (runs (inTx (userCtx (fetched Mo.txabort 3 1 2)))) Mo.txabort 142 7 (fetched Mo.txabort 3 1 2) (inTx (userCtx (fetched Mo.txabort 3 1 2)))
      ∧ (runs (inTx (userCtx (fetched Mo.txabort 3 1 2)))).busyS 142 7 (dOf (fetched Mo.txabort 3 1 2).word) = false
      ∧ (runs (inTx (userCtx (fetched Mo.txabort 3 1 2)))).busyTx 142 7 = false
      ∧ (runs (inTx (userCtx (fetched Mo.txabort 3 1 2)))).mayIssue 142 7 1 = true
      ∧ (inTx (userCtx (fetched Mo.txabort 3 1 2))).tx = some { txid := some 77, ok := 3 : CtxTx }
      ∧ { txid := some 77, ok := 3 : CtxTx }.txid = some 77
      ∧ ((runs (inTx (userCtx (fetched Mo.txabort 3 1 2)))).freeTag (State.coreLocal 142)).isSome = true := by decide +kernel

theorem witness_TxRows_2_1 :
    Due (runs (userCtx (fetched Mo.txabort 3 1 2))) Mo.txabort 142 7 (fetched Mo.txabort 3 1 2) (userCtx (fetched Mo.txabort 3 1 2))
      ∧ (runs (userCtx (fetched Mo.txabort 3 1 2))).busyS 142 7 (dOf (fetched Mo.txabort 3 1 2).word) = false
      ∧ (runs (userCtx (fetched Mo.txabort 3 1 2))).busyTx 142 7 = false
      ∧ (runs (userCtx (fetched Mo.txabort 3 1 2))).mayIssue 142 7 1 = true ∧ (userCtx (fetched Mo.txabort 3 1 2)).tx = none := by decide +kernel

theorem witness_ControlRows_1_0 :
    Due (runs (userCtx (fetched Mo.sext 3 4 1))) Mo.sext 142 7 (fetched Mo.sext 3 4 1) (userCtx (fetched Mo.sext 3 4 1))
      ∧ State.elemOf (userCtx (fetched Mo.sext 3 4 1)) (fmtOf (fetched Mo.sext 3 4 1).word) = Fmt.ofReg (BitVec.ofNat 128 (builtinFmts.getD 0 0))
      ∧ (Fmt.ofReg (BitVec.ofNat 128 (builtinFmts.getD 0 0))).cls = 0
      ∧ (Fmt.ofReg (BitVec.ofNat 128 (builtinFmts.getD 0 0))).width ≠ 0
      ∧ [bOf (fetched Mo.sext 3 4 1).word, dOf (fetched Mo.sext 3 4 1).word].any ((runs (userCtx (fetched Mo.sext 3 4 1))).busyS 142 7) = false
      ∧ (runs (userCtx (fetched Mo.sext 3 4 1))).busyV 142 7 0 (aOf (fetched Mo.sext 3 4 1).word) = false
      ∧ (State.vGet (userCtx (fetched Mo.sext 3 4 1)) 0 (aOf (fetched Mo.sext 3 4 1).word)).2 = false := by decide +kernel

theorem witness_ControlRows_1_1_0 :
    enginesOf (fetched Mo.vlds 63 1 0 (3 * 2 ^ 38)).word = [3]
      ∧ Due (runs (userCtx (fetched Mo.vlds 63 1 0 (3 * 2 ^ 38)))) Mo.vlds 142 7 (fetched Mo.vlds 63 1 0 (3 * 2 ^ 38)) (userCtx (fetched Mo.vlds 63 1 0 (3 * 2 ^ 38)))
      ∧ [aOf (fetched Mo.vlds 63 1 0 (3 * 2 ^ 38)).word, cOf (fetched Mo.vlds 63 1 0 (3 * 2 ^ 38)).word].any ((runs (userCtx (fetched Mo.vlds 63 1 0 (3 * 2 ^ 38)))).busyS 142 7) = false
      ∧ (runs (userCtx (fetched Mo.vlds 63 1 0 (3 * 2 ^ 38)))).busyV 142 7 3 (dOf (fetched Mo.vlds 63 1 0 (3 * 2 ^ 38)).word) = false
      ∧ State.scratchBlock (userCtx (fetched Mo.vlds 63 1 0 (3 * 2 ^ 38))) (fetched Mo.vlds 63 1 0 (3 * 2 ^ 38)).word (aOf (fetched Mo.vlds 63 1 0 (3 * 2 ^ 38)).word) 3 % 128 = 0
      ∧ ((if 3 = 0 then { : ScratchEcc }.e0 else if 3 = 1 then { : ScratchEcc }.e1 else if 3 = 2 then { : ScratchEcc }.e2 else { : ScratchEcc }.e3) = Ecc.clean) := by decide +kernel

theorem witness_ControlRows_1_1_1 :
    enginesOf (fetched Mo.vlds 63 1 0 (3 * 2 ^ 38)).word = [3]
      ∧ Due (runs (userCtx (fetched Mo.vlds 63 1 0 (3 * 2 ^ 38)))) Mo.vlds 142 7 (fetched Mo.vlds 63 1 0 (3 * 2 ^ 38)) (userCtx (fetched Mo.vlds 63 1 0 (3 * 2 ^ 38)))
      ∧ [aOf (fetched Mo.vlds 63 1 0 (3 * 2 ^ 38)).word, cOf (fetched Mo.vlds 63 1 0 (3 * 2 ^ 38)).word].any ((runs (userCtx (fetched Mo.vlds 63 1 0 (3 * 2 ^ 38)))).busyS 142 7) = false
      ∧ (runs (userCtx (fetched Mo.vlds 63 1 0 (3 * 2 ^ 38)))).busyV 142 7 3 (dOf (fetched Mo.vlds 63 1 0 (3 * 2 ^ 38)).word) = false
      ∧ State.scratchBlock (userCtx (fetched Mo.vlds 63 1 0 (3 * 2 ^ 38))) (fetched Mo.vlds 63 1 0 (3 * 2 ^ 38)).word (aOf (fetched Mo.vlds 63 1 0 (3 * 2 ^ 38)).word) 3 % 128 = 0
      ∧ ((if 3 = 0 then { e3 := Ecc.corrected : ScratchEcc }.e0 else if 3 = 1 then { e3 := Ecc.corrected : ScratchEcc }.e1 else if 3 = 2 then { e3 := Ecc.corrected : ScratchEcc }.e2 else { e3 := Ecc.corrected : ScratchEcc }.e3) = Ecc.corrected) := by decide +kernel

theorem witness_ControlRows_1_1_2 :
    enginesOf (fetched Mo.vlds 63 1 0 (3 * 2 ^ 38)).word = [3]
      ∧ Due (runs (userCtx (fetched Mo.vlds 63 1 0 (3 * 2 ^ 38)))) Mo.vlds 142 7 (fetched Mo.vlds 63 1 0 (3 * 2 ^ 38)) (userCtx (fetched Mo.vlds 63 1 0 (3 * 2 ^ 38)))
      ∧ [aOf (fetched Mo.vlds 63 1 0 (3 * 2 ^ 38)).word, cOf (fetched Mo.vlds 63 1 0 (3 * 2 ^ 38)).word].any ((runs (userCtx (fetched Mo.vlds 63 1 0 (3 * 2 ^ 38)))).busyS 142 7) = false
      ∧ (runs (userCtx (fetched Mo.vlds 63 1 0 (3 * 2 ^ 38)))).busyV 142 7 3 (dOf (fetched Mo.vlds 63 1 0 (3 * 2 ^ 38)).word) = false
      ∧ State.scratchBlock (userCtx (fetched Mo.vlds 63 1 0 (3 * 2 ^ 38))) (fetched Mo.vlds 63 1 0 (3 * 2 ^ 38)).word (aOf (fetched Mo.vlds 63 1 0 (3 * 2 ^ 38)).word) 3 % 128 = 0
      ∧ ((if 3 = 0 then { e3 := Ecc.uncorrectable : ScratchEcc }.e0 else if 3 = 1 then { e3 := Ecc.uncorrectable : ScratchEcc }.e1 else if 3 = 2 then { e3 := Ecc.uncorrectable : ScratchEcc }.e2 else { e3 := Ecc.uncorrectable : ScratchEcc }.e3) = Ecc.uncorrectable) := by decide +kernel

theorem witness_ControlRows_1_2 :
    enginesOf (fetched Mo.vsts 0 4 1 (3 * 2 ^ 38)).word = [3]
      ∧ Due (runs (userCtx (fetched Mo.vsts 0 4 1 (3 * 2 ^ 38)))) Mo.vsts 142 7 (fetched Mo.vsts 0 4 1 (3 * 2 ^ 38)) (userCtx (fetched Mo.vsts 0 4 1 (3 * 2 ^ 38)))
      ∧ [bOf (fetched Mo.vsts 0 4 1 (3 * 2 ^ 38)).word, cOf (fetched Mo.vsts 0 4 1 (3 * 2 ^ 38)).word].any ((runs (userCtx (fetched Mo.vsts 0 4 1 (3 * 2 ^ 38)))).busyS 142 7) = false
      ∧ (runs (userCtx (fetched Mo.vsts 0 4 1 (3 * 2 ^ 38)))).busyV 142 7 3 (aOf (fetched Mo.vsts 0 4 1 (3 * 2 ^ 38)).word) = false
      ∧ State.scratchBlock (userCtx (fetched Mo.vsts 0 4 1 (3 * 2 ^ 38))) (fetched Mo.vsts 0 4 1 (3 * 2 ^ 38)).word (bOf (fetched Mo.vsts 0 4 1 (3 * 2 ^ 38)).word) 3 % 128 = 0 := by decide +kernel

theorem witness_EngineRows_0_0_0 :
    (runs (userCtx (fetched Mo.vclr 8 4 4 (3 * 2 ^ 38)))).wf = true
      ∧ Due (runs (userCtx (fetched Mo.vclr 8 4 4 (3 * 2 ^ 38)))) Mo.vclr 142 7 (fetched Mo.vclr 8 4 4 (3 * 2 ^ 38)) (userCtx (fetched Mo.vclr 8 4 4 (3 * 2 ^ 38)))
      ∧ enginesOf (fetched Mo.vclr 8 4 4 (3 * 2 ^ 38)).word = [3]
      ∧ (runs (userCtx (fetched Mo.vclr 8 4 4 (3 * 2 ^ 38)))).busyS 142 7 (sxOf (fetched Mo.vclr 8 4 4 (3 * 2 ^ 38)).word) = false
      ∧ (((State.engSrcs Mo.vclr ((State.fmtsOf (userCtx (fetched Mo.vclr 8 4 4 (3 * 2 ^ 38)))).getD (fmtOf (fetched Mo.vclr 8 4 4 (3 * 2 ^ 38)).word) { : Fmt }) (State.elemOf (userCtx (fetched Mo.vclr 8 4 4 (3 * 2 ^ 38))) (fmtOf (fetched Mo.vclr 8 4 4 (3 * 2 ^ 38)).word)) ((State.fmtsOf (userCtx (fetched Mo.vclr 8 4 4 (3 * 2 ^ 38)))).getD (fmt2Of (fetched Mo.vclr 8 4 4 (3 * 2 ^ 38)).word) { : Fmt }) (State.elemOf (userCtx (fetched Mo.vclr 8 4 4 (3 * 2 ^ 38))) (fmt2Of (fetched Mo.vclr 8 4 4 (3 * 2 ^ 38)).word)) (fetched Mo.vclr 8 4 4 (3 * 2 ^ 38)).word ++ List.map (fun (x : ℕ × LineData) => x.1) (engVclr ((runs (userCtx (fetched Mo.vclr 8 4 4 (3 * 2 ^ 38)))).engIn (userCtx (fetched Mo.vclr 8 4 4 (3 * 2 ^ 38))) (fetched Mo.vclr 8 4 4 (3 * 2 ^ 38)).word 0 0) (fetched Mo.vclr 8 4 4 (3 * 2 ^ 38)).word).writes).any fun (r : ℕ) => (runs (userCtx (fetched Mo.vclr 8 4 4 (3 * 2 ^ 38)))).busyV 142 7 3 r) = false)
      ∧ State.scaleOk Mo.vclr ((State.fmtsOf (userCtx (fetched Mo.vclr 8 4 4 (3 * 2 ^ 38)))).getD (fmtOf (fetched Mo.vclr 8 4 4 (3 * 2 ^ 38)).word) { : Fmt }) (State.elemOf (userCtx (fetched Mo.vclr 8 4 4 (3 * 2 ^ 38))) (fmtOf (fetched Mo.vclr 8 4 4 (3 * 2 ^ 38)).word)) ((State.fmtsOf (userCtx (fetched Mo.vclr 8 4 4 (3 * 2 ^ 38)))).getD (fmt2Of (fetched Mo.vclr 8 4 4 (3 * 2 ^ 38)).word) { : Fmt }) (State.elemOf (userCtx (fetched Mo.vclr 8 4 4 (3 * 2 ^ 38))) (fmt2Of (fetched Mo.vclr 8 4 4 (3 * 2 ^ 38)).word)) ((runs (userCtx (fetched Mo.vclr 8 4 4 (3 * 2 ^ 38)))).engIn (userCtx (fetched Mo.vclr 8 4 4 (3 * 2 ^ 38))) (fetched Mo.vclr 8 4 4 (3 * 2 ^ 38)).word 0 0) = true := by decide +kernel

theorem witness_EngineRows_0_1_0 :
    (runs (userCtx (fetched Mo.vfma 8 4 4 (3 * 2 ^ 38 + 2 ^ 41)))).wf = true
      ∧ Due (runs (userCtx (fetched Mo.vfma 8 4 4 (3 * 2 ^ 38 + 2 ^ 41)))) Mo.vfma 142 7 (fetched Mo.vfma 8 4 4 (3 * 2 ^ 38 + 2 ^ 41)) (userCtx (fetched Mo.vfma 8 4 4 (3 * 2 ^ 38 + 2 ^ 41)))
      ∧ enginesOf (fetched Mo.vfma 8 4 4 (3 * 2 ^ 38 + 2 ^ 41)).word = [3]
      ∧ (runs (userCtx (fetched Mo.vfma 8 4 4 (3 * 2 ^ 38 + 2 ^ 41)))).busyS 142 7 (sxOf (fetched Mo.vfma 8 4 4 (3 * 2 ^ 38 + 2 ^ 41)).word) = false
      ∧ (((State.engSrcs Mo.vfma ((State.fmtsOf (userCtx (fetched Mo.vfma 8 4 4 (3 * 2 ^ 38 + 2 ^ 41)))).getD (fmtOf (fetched Mo.vfma 8 4 4 (3 * 2 ^ 38 + 2 ^ 41)).word) { : Fmt }) (State.elemOf (userCtx (fetched Mo.vfma 8 4 4 (3 * 2 ^ 38 + 2 ^ 41))) (fmtOf (fetched Mo.vfma 8 4 4 (3 * 2 ^ 38 + 2 ^ 41)).word)) ((State.fmtsOf (userCtx (fetched Mo.vfma 8 4 4 (3 * 2 ^ 38 + 2 ^ 41)))).getD (fmt2Of (fetched Mo.vfma 8 4 4 (3 * 2 ^ 38 + 2 ^ 41)).word) { : Fmt }) (State.elemOf (userCtx (fetched Mo.vfma 8 4 4 (3 * 2 ^ 38 + 2 ^ 41))) (fmt2Of (fetched Mo.vfma 8 4 4 (3 * 2 ^ 38 + 2 ^ 41)).word)) (fetched Mo.vfma 8 4 4 (3 * 2 ^ 38 + 2 ^ 41)).word ++ List.map (fun (x : ℕ × LineData) => x.1) (engVfma ((runs (userCtx (fetched Mo.vfma 8 4 4 (3 * 2 ^ 38 + 2 ^ 41)))).engIn (userCtx (fetched Mo.vfma 8 4 4 (3 * 2 ^ 38 + 2 ^ 41))) (fetched Mo.vfma 8 4 4 (3 * 2 ^ 38 + 2 ^ 41)).word 0 0) (fetched Mo.vfma 8 4 4 (3 * 2 ^ 38 + 2 ^ 41)).word).writes).any fun (r : ℕ) => (runs (userCtx (fetched Mo.vfma 8 4 4 (3 * 2 ^ 38 + 2 ^ 41)))).busyV 142 7 3 r) = false)
      ∧ State.scaleOk Mo.vfma ((State.fmtsOf (userCtx (fetched Mo.vfma 8 4 4 (3 * 2 ^ 38 + 2 ^ 41)))).getD (fmtOf (fetched Mo.vfma 8 4 4 (3 * 2 ^ 38 + 2 ^ 41)).word) { : Fmt }) (State.elemOf (userCtx (fetched Mo.vfma 8 4 4 (3 * 2 ^ 38 + 2 ^ 41))) (fmtOf (fetched Mo.vfma 8 4 4 (3 * 2 ^ 38 + 2 ^ 41)).word)) ((State.fmtsOf (userCtx (fetched Mo.vfma 8 4 4 (3 * 2 ^ 38 + 2 ^ 41)))).getD (fmt2Of (fetched Mo.vfma 8 4 4 (3 * 2 ^ 38 + 2 ^ 41)).word) { : Fmt }) (State.elemOf (userCtx (fetched Mo.vfma 8 4 4 (3 * 2 ^ 38 + 2 ^ 41))) (fmt2Of (fetched Mo.vfma 8 4 4 (3 * 2 ^ 38 + 2 ^ 41)).word)) ((runs (userCtx (fetched Mo.vfma 8 4 4 (3 * 2 ^ 38 + 2 ^ 41)))).engIn (userCtx (fetched Mo.vfma 8 4 4 (3 * 2 ^ 38 + 2 ^ 41))) (fetched Mo.vfma 8 4 4 (3 * 2 ^ 38 + 2 ^ 41)).word 0 0) = true := by decide +kernel

theorem witness_EngineRows_0_2_0 :
    (runs (userCtx (fetched Mo.wfma 8 4 4 (3 * 2 ^ 38)))).wf = true
      ∧ Due (runs (userCtx (fetched Mo.wfma 8 4 4 (3 * 2 ^ 38)))) Mo.wfma 142 7 (fetched Mo.wfma 8 4 4 (3 * 2 ^ 38)) (userCtx (fetched Mo.wfma 8 4 4 (3 * 2 ^ 38)))
      ∧ enginesOf (fetched Mo.wfma 8 4 4 (3 * 2 ^ 38)).word = [3]
      ∧ (runs (userCtx (fetched Mo.wfma 8 4 4 (3 * 2 ^ 38)))).busyS 142 7 (sxOf (fetched Mo.wfma 8 4 4 (3 * 2 ^ 38)).word) = false
      ∧ (((State.engSrcs Mo.wfma ((State.fmtsOf (userCtx (fetched Mo.wfma 8 4 4 (3 * 2 ^ 38)))).getD (fmtOf (fetched Mo.wfma 8 4 4 (3 * 2 ^ 38)).word) { : Fmt }) (State.elemOf (userCtx (fetched Mo.wfma 8 4 4 (3 * 2 ^ 38))) (fmtOf (fetched Mo.wfma 8 4 4 (3 * 2 ^ 38)).word)) ((State.fmtsOf (userCtx (fetched Mo.wfma 8 4 4 (3 * 2 ^ 38)))).getD (fmt2Of (fetched Mo.wfma 8 4 4 (3 * 2 ^ 38)).word) { : Fmt }) (State.elemOf (userCtx (fetched Mo.wfma 8 4 4 (3 * 2 ^ 38))) (fmt2Of (fetched Mo.wfma 8 4 4 (3 * 2 ^ 38)).word)) (fetched Mo.wfma 8 4 4 (3 * 2 ^ 38)).word ++ List.map (fun (x : ℕ × LineData) => x.1) (engWfma ((runs (userCtx (fetched Mo.wfma 8 4 4 (3 * 2 ^ 38)))).engIn (userCtx (fetched Mo.wfma 8 4 4 (3 * 2 ^ 38))) (fetched Mo.wfma 8 4 4 (3 * 2 ^ 38)).word 0 0) (fetched Mo.wfma 8 4 4 (3 * 2 ^ 38)).word).writes).any fun (r : ℕ) => (runs (userCtx (fetched Mo.wfma 8 4 4 (3 * 2 ^ 38)))).busyV 142 7 3 r) = false)
      ∧ State.scaleOk Mo.wfma ((State.fmtsOf (userCtx (fetched Mo.wfma 8 4 4 (3 * 2 ^ 38)))).getD (fmtOf (fetched Mo.wfma 8 4 4 (3 * 2 ^ 38)).word) { : Fmt }) (State.elemOf (userCtx (fetched Mo.wfma 8 4 4 (3 * 2 ^ 38))) (fmtOf (fetched Mo.wfma 8 4 4 (3 * 2 ^ 38)).word)) ((State.fmtsOf (userCtx (fetched Mo.wfma 8 4 4 (3 * 2 ^ 38)))).getD (fmt2Of (fetched Mo.wfma 8 4 4 (3 * 2 ^ 38)).word) { : Fmt }) (State.elemOf (userCtx (fetched Mo.wfma 8 4 4 (3 * 2 ^ 38))) (fmt2Of (fetched Mo.wfma 8 4 4 (3 * 2 ^ 38)).word)) ((runs (userCtx (fetched Mo.wfma 8 4 4 (3 * 2 ^ 38)))).engIn (userCtx (fetched Mo.wfma 8 4 4 (3 * 2 ^ 38))) (fetched Mo.wfma 8 4 4 (3 * 2 ^ 38)).word 0 0) = true := by decide +kernel

theorem witness_EngineRows_0_3_0 :
    (runs (userCtx (fetched Mo.wmax 8 4 4 (3 * 2 ^ 38)))).wf = true
      ∧ Due (runs (userCtx (fetched Mo.wmax 8 4 4 (3 * 2 ^ 38)))) Mo.wmax 142 7 (fetched Mo.wmax 8 4 4 (3 * 2 ^ 38)) (userCtx (fetched Mo.wmax 8 4 4 (3 * 2 ^ 38)))
      ∧ enginesOf (fetched Mo.wmax 8 4 4 (3 * 2 ^ 38)).word = [3]
      ∧ (runs (userCtx (fetched Mo.wmax 8 4 4 (3 * 2 ^ 38)))).busyS 142 7 (sxOf (fetched Mo.wmax 8 4 4 (3 * 2 ^ 38)).word) = false
      ∧ (((State.engSrcs Mo.wmax ((State.fmtsOf (userCtx (fetched Mo.wmax 8 4 4 (3 * 2 ^ 38)))).getD (fmtOf (fetched Mo.wmax 8 4 4 (3 * 2 ^ 38)).word) { : Fmt }) (State.elemOf (userCtx (fetched Mo.wmax 8 4 4 (3 * 2 ^ 38))) (fmtOf (fetched Mo.wmax 8 4 4 (3 * 2 ^ 38)).word)) ((State.fmtsOf (userCtx (fetched Mo.wmax 8 4 4 (3 * 2 ^ 38)))).getD (fmt2Of (fetched Mo.wmax 8 4 4 (3 * 2 ^ 38)).word) { : Fmt }) (State.elemOf (userCtx (fetched Mo.wmax 8 4 4 (3 * 2 ^ 38))) (fmt2Of (fetched Mo.wmax 8 4 4 (3 * 2 ^ 38)).word)) (fetched Mo.wmax 8 4 4 (3 * 2 ^ 38)).word ++ List.map (fun (x : ℕ × LineData) => x.1) (engMaxMin false ((runs (userCtx (fetched Mo.wmax 8 4 4 (3 * 2 ^ 38)))).engIn (userCtx (fetched Mo.wmax 8 4 4 (3 * 2 ^ 38))) (fetched Mo.wmax 8 4 4 (3 * 2 ^ 38)).word 0 0) (fetched Mo.wmax 8 4 4 (3 * 2 ^ 38)).word).writes).any fun (r : ℕ) => (runs (userCtx (fetched Mo.wmax 8 4 4 (3 * 2 ^ 38)))).busyV 142 7 3 r) = false)
      ∧ State.scaleOk Mo.wmax ((State.fmtsOf (userCtx (fetched Mo.wmax 8 4 4 (3 * 2 ^ 38)))).getD (fmtOf (fetched Mo.wmax 8 4 4 (3 * 2 ^ 38)).word) { : Fmt }) (State.elemOf (userCtx (fetched Mo.wmax 8 4 4 (3 * 2 ^ 38))) (fmtOf (fetched Mo.wmax 8 4 4 (3 * 2 ^ 38)).word)) ((State.fmtsOf (userCtx (fetched Mo.wmax 8 4 4 (3 * 2 ^ 38)))).getD (fmt2Of (fetched Mo.wmax 8 4 4 (3 * 2 ^ 38)).word) { : Fmt }) (State.elemOf (userCtx (fetched Mo.wmax 8 4 4 (3 * 2 ^ 38))) (fmt2Of (fetched Mo.wmax 8 4 4 (3 * 2 ^ 38)).word)) ((runs (userCtx (fetched Mo.wmax 8 4 4 (3 * 2 ^ 38)))).engIn (userCtx (fetched Mo.wmax 8 4 4 (3 * 2 ^ 38))) (fetched Mo.wmax 8 4 4 (3 * 2 ^ 38)).word 0 0) = true := by decide +kernel

theorem witness_EngineRows_0_4_0 :
    (runs (userCtx (fetched Mo.wmin 8 4 4 (3 * 2 ^ 38)))).wf = true
      ∧ Due (runs (userCtx (fetched Mo.wmin 8 4 4 (3 * 2 ^ 38)))) Mo.wmin 142 7 (fetched Mo.wmin 8 4 4 (3 * 2 ^ 38)) (userCtx (fetched Mo.wmin 8 4 4 (3 * 2 ^ 38)))
      ∧ enginesOf (fetched Mo.wmin 8 4 4 (3 * 2 ^ 38)).word = [3]
      ∧ (runs (userCtx (fetched Mo.wmin 8 4 4 (3 * 2 ^ 38)))).busyS 142 7 (sxOf (fetched Mo.wmin 8 4 4 (3 * 2 ^ 38)).word) = false
      ∧ (((State.engSrcs Mo.wmin ((State.fmtsOf (userCtx (fetched Mo.wmin 8 4 4 (3 * 2 ^ 38)))).getD (fmtOf (fetched Mo.wmin 8 4 4 (3 * 2 ^ 38)).word) { : Fmt }) (State.elemOf (userCtx (fetched Mo.wmin 8 4 4 (3 * 2 ^ 38))) (fmtOf (fetched Mo.wmin 8 4 4 (3 * 2 ^ 38)).word)) ((State.fmtsOf (userCtx (fetched Mo.wmin 8 4 4 (3 * 2 ^ 38)))).getD (fmt2Of (fetched Mo.wmin 8 4 4 (3 * 2 ^ 38)).word) { : Fmt }) (State.elemOf (userCtx (fetched Mo.wmin 8 4 4 (3 * 2 ^ 38))) (fmt2Of (fetched Mo.wmin 8 4 4 (3 * 2 ^ 38)).word)) (fetched Mo.wmin 8 4 4 (3 * 2 ^ 38)).word ++ List.map (fun (x : ℕ × LineData) => x.1) (engMaxMin true ((runs (userCtx (fetched Mo.wmin 8 4 4 (3 * 2 ^ 38)))).engIn (userCtx (fetched Mo.wmin 8 4 4 (3 * 2 ^ 38))) (fetched Mo.wmin 8 4 4 (3 * 2 ^ 38)).word 0 0) (fetched Mo.wmin 8 4 4 (3 * 2 ^ 38)).word).writes).any fun (r : ℕ) => (runs (userCtx (fetched Mo.wmin 8 4 4 (3 * 2 ^ 38)))).busyV 142 7 3 r) = false)
      ∧ State.scaleOk Mo.wmin ((State.fmtsOf (userCtx (fetched Mo.wmin 8 4 4 (3 * 2 ^ 38)))).getD (fmtOf (fetched Mo.wmin 8 4 4 (3 * 2 ^ 38)).word) { : Fmt }) (State.elemOf (userCtx (fetched Mo.wmin 8 4 4 (3 * 2 ^ 38))) (fmtOf (fetched Mo.wmin 8 4 4 (3 * 2 ^ 38)).word)) ((State.fmtsOf (userCtx (fetched Mo.wmin 8 4 4 (3 * 2 ^ 38)))).getD (fmt2Of (fetched Mo.wmin 8 4 4 (3 * 2 ^ 38)).word) { : Fmt }) (State.elemOf (userCtx (fetched Mo.wmin 8 4 4 (3 * 2 ^ 38))) (fmt2Of (fetched Mo.wmin 8 4 4 (3 * 2 ^ 38)).word)) ((runs (userCtx (fetched Mo.wmin 8 4 4 (3 * 2 ^ 38)))).engIn (userCtx (fetched Mo.wmin 8 4 4 (3 * 2 ^ 38))) (fetched Mo.wmin 8 4 4 (3 * 2 ^ 38)).word 0 0) = true := by decide +kernel

theorem witness_EngineRows_0_5_0 :
    (runs (userCtx (fetched Mo.wexp2 8 4 4 (3 * 2 ^ 38)))).wf = true
      ∧ Due (runs (userCtx (fetched Mo.wexp2 8 4 4 (3 * 2 ^ 38)))) Mo.wexp2 142 7 (fetched Mo.wexp2 8 4 4 (3 * 2 ^ 38)) (userCtx (fetched Mo.wexp2 8 4 4 (3 * 2 ^ 38)))
      ∧ enginesOf (fetched Mo.wexp2 8 4 4 (3 * 2 ^ 38)).word = [3]
      ∧ (runs (userCtx (fetched Mo.wexp2 8 4 4 (3 * 2 ^ 38)))).busyS 142 7 (sxOf (fetched Mo.wexp2 8 4 4 (3 * 2 ^ 38)).word) = false
      ∧ (((State.engSrcs Mo.wexp2 ((State.fmtsOf (userCtx (fetched Mo.wexp2 8 4 4 (3 * 2 ^ 38)))).getD (fmtOf (fetched Mo.wexp2 8 4 4 (3 * 2 ^ 38)).word) { : Fmt }) (State.elemOf (userCtx (fetched Mo.wexp2 8 4 4 (3 * 2 ^ 38))) (fmtOf (fetched Mo.wexp2 8 4 4 (3 * 2 ^ 38)).word)) ((State.fmtsOf (userCtx (fetched Mo.wexp2 8 4 4 (3 * 2 ^ 38)))).getD (fmt2Of (fetched Mo.wexp2 8 4 4 (3 * 2 ^ 38)).word) { : Fmt }) (State.elemOf (userCtx (fetched Mo.wexp2 8 4 4 (3 * 2 ^ 38))) (fmt2Of (fetched Mo.wexp2 8 4 4 (3 * 2 ^ 38)).word)) (fetched Mo.wexp2 8 4 4 (3 * 2 ^ 38)).word ++ List.map (fun (x : ℕ × LineData) => x.1) (engWexp2 ((runs (userCtx (fetched Mo.wexp2 8 4 4 (3 * 2 ^ 38)))).engIn (userCtx (fetched Mo.wexp2 8 4 4 (3 * 2 ^ 38))) (fetched Mo.wexp2 8 4 4 (3 * 2 ^ 38)).word 0 0) (fetched Mo.wexp2 8 4 4 (3 * 2 ^ 38)).word).writes).any fun (r : ℕ) => (runs (userCtx (fetched Mo.wexp2 8 4 4 (3 * 2 ^ 38)))).busyV 142 7 3 r) = false)
      ∧ State.scaleOk Mo.wexp2 ((State.fmtsOf (userCtx (fetched Mo.wexp2 8 4 4 (3 * 2 ^ 38)))).getD (fmtOf (fetched Mo.wexp2 8 4 4 (3 * 2 ^ 38)).word) { : Fmt }) (State.elemOf (userCtx (fetched Mo.wexp2 8 4 4 (3 * 2 ^ 38))) (fmtOf (fetched Mo.wexp2 8 4 4 (3 * 2 ^ 38)).word)) ((State.fmtsOf (userCtx (fetched Mo.wexp2 8 4 4 (3 * 2 ^ 38)))).getD (fmt2Of (fetched Mo.wexp2 8 4 4 (3 * 2 ^ 38)).word) { : Fmt }) (State.elemOf (userCtx (fetched Mo.wexp2 8 4 4 (3 * 2 ^ 38))) (fmt2Of (fetched Mo.wexp2 8 4 4 (3 * 2 ^ 38)).word)) ((runs (userCtx (fetched Mo.wexp2 8 4 4 (3 * 2 ^ 38)))).engIn (userCtx (fetched Mo.wexp2 8 4 4 (3 * 2 ^ 38))) (fetched Mo.wexp2 8 4 4 (3 * 2 ^ 38)).word 0 0) = true := by decide +kernel

theorem witness_EngineRows_0_6_0 :
    (runs (userCtx (fetched Mo.wrcp 8 4 4 (3 * 2 ^ 38)))).wf = true
      ∧ Due (runs (userCtx (fetched Mo.wrcp 8 4 4 (3 * 2 ^ 38)))) Mo.wrcp 142 7 (fetched Mo.wrcp 8 4 4 (3 * 2 ^ 38)) (userCtx (fetched Mo.wrcp 8 4 4 (3 * 2 ^ 38)))
      ∧ enginesOf (fetched Mo.wrcp 8 4 4 (3 * 2 ^ 38)).word = [3]
      ∧ (runs (userCtx (fetched Mo.wrcp 8 4 4 (3 * 2 ^ 38)))).busyS 142 7 (sxOf (fetched Mo.wrcp 8 4 4 (3 * 2 ^ 38)).word) = false
      ∧ (((State.engSrcs Mo.wrcp ((State.fmtsOf (userCtx (fetched Mo.wrcp 8 4 4 (3 * 2 ^ 38)))).getD (fmtOf (fetched Mo.wrcp 8 4 4 (3 * 2 ^ 38)).word) { : Fmt }) (State.elemOf (userCtx (fetched Mo.wrcp 8 4 4 (3 * 2 ^ 38))) (fmtOf (fetched Mo.wrcp 8 4 4 (3 * 2 ^ 38)).word)) ((State.fmtsOf (userCtx (fetched Mo.wrcp 8 4 4 (3 * 2 ^ 38)))).getD (fmt2Of (fetched Mo.wrcp 8 4 4 (3 * 2 ^ 38)).word) { : Fmt }) (State.elemOf (userCtx (fetched Mo.wrcp 8 4 4 (3 * 2 ^ 38))) (fmt2Of (fetched Mo.wrcp 8 4 4 (3 * 2 ^ 38)).word)) (fetched Mo.wrcp 8 4 4 (3 * 2 ^ 38)).word ++ List.map (fun (x : ℕ × LineData) => x.1) (engWrcp ((runs (userCtx (fetched Mo.wrcp 8 4 4 (3 * 2 ^ 38)))).engIn (userCtx (fetched Mo.wrcp 8 4 4 (3 * 2 ^ 38))) (fetched Mo.wrcp 8 4 4 (3 * 2 ^ 38)).word 0 0) (fetched Mo.wrcp 8 4 4 (3 * 2 ^ 38)).word).writes).any fun (r : ℕ) => (runs (userCtx (fetched Mo.wrcp 8 4 4 (3 * 2 ^ 38)))).busyV 142 7 3 r) = false)
      ∧ State.scaleOk Mo.wrcp ((State.fmtsOf (userCtx (fetched Mo.wrcp 8 4 4 (3 * 2 ^ 38)))).getD (fmtOf (fetched Mo.wrcp 8 4 4 (3 * 2 ^ 38)).word) { : Fmt }) (State.elemOf (userCtx (fetched Mo.wrcp 8 4 4 (3 * 2 ^ 38))) (fmtOf (fetched Mo.wrcp 8 4 4 (3 * 2 ^ 38)).word)) ((State.fmtsOf (userCtx (fetched Mo.wrcp 8 4 4 (3 * 2 ^ 38)))).getD (fmt2Of (fetched Mo.wrcp 8 4 4 (3 * 2 ^ 38)).word) { : Fmt }) (State.elemOf (userCtx (fetched Mo.wrcp 8 4 4 (3 * 2 ^ 38))) (fmt2Of (fetched Mo.wrcp 8 4 4 (3 * 2 ^ 38)).word)) ((runs (userCtx (fetched Mo.wrcp 8 4 4 (3 * 2 ^ 38)))).engIn (userCtx (fetched Mo.wrcp 8 4 4 (3 * 2 ^ 38))) (fetched Mo.wrcp 8 4 4 (3 * 2 ^ 38)).word 0 0) = true := by decide +kernel

theorem witness_EngineRows_0_7_0 :
    (runs (userCtx (fetched Mo.wrsq 8 4 4 (3 * 2 ^ 38)))).wf = true
      ∧ Due (runs (userCtx (fetched Mo.wrsq 8 4 4 (3 * 2 ^ 38)))) Mo.wrsq 142 7 (fetched Mo.wrsq 8 4 4 (3 * 2 ^ 38)) (userCtx (fetched Mo.wrsq 8 4 4 (3 * 2 ^ 38)))
      ∧ enginesOf (fetched Mo.wrsq 8 4 4 (3 * 2 ^ 38)).word = [3]
      ∧ (runs (userCtx (fetched Mo.wrsq 8 4 4 (3 * 2 ^ 38)))).busyS 142 7 (sxOf (fetched Mo.wrsq 8 4 4 (3 * 2 ^ 38)).word) = false
      ∧ (((State.engSrcs Mo.wrsq ((State.fmtsOf (userCtx (fetched Mo.wrsq 8 4 4 (3 * 2 ^ 38)))).getD (fmtOf (fetched Mo.wrsq 8 4 4 (3 * 2 ^ 38)).word) { : Fmt }) (State.elemOf (userCtx (fetched Mo.wrsq 8 4 4 (3 * 2 ^ 38))) (fmtOf (fetched Mo.wrsq 8 4 4 (3 * 2 ^ 38)).word)) ((State.fmtsOf (userCtx (fetched Mo.wrsq 8 4 4 (3 * 2 ^ 38)))).getD (fmt2Of (fetched Mo.wrsq 8 4 4 (3 * 2 ^ 38)).word) { : Fmt }) (State.elemOf (userCtx (fetched Mo.wrsq 8 4 4 (3 * 2 ^ 38))) (fmt2Of (fetched Mo.wrsq 8 4 4 (3 * 2 ^ 38)).word)) (fetched Mo.wrsq 8 4 4 (3 * 2 ^ 38)).word ++ List.map (fun (x : ℕ × LineData) => x.1) (engWrsq ((runs (userCtx (fetched Mo.wrsq 8 4 4 (3 * 2 ^ 38)))).engIn (userCtx (fetched Mo.wrsq 8 4 4 (3 * 2 ^ 38))) (fetched Mo.wrsq 8 4 4 (3 * 2 ^ 38)).word 0 0) (fetched Mo.wrsq 8 4 4 (3 * 2 ^ 38)).word).writes).any fun (r : ℕ) => (runs (userCtx (fetched Mo.wrsq 8 4 4 (3 * 2 ^ 38)))).busyV 142 7 3 r) = false)
      ∧ State.scaleOk Mo.wrsq ((State.fmtsOf (userCtx (fetched Mo.wrsq 8 4 4 (3 * 2 ^ 38)))).getD (fmtOf (fetched Mo.wrsq 8 4 4 (3 * 2 ^ 38)).word) { : Fmt }) (State.elemOf (userCtx (fetched Mo.wrsq 8 4 4 (3 * 2 ^ 38))) (fmtOf (fetched Mo.wrsq 8 4 4 (3 * 2 ^ 38)).word)) ((State.fmtsOf (userCtx (fetched Mo.wrsq 8 4 4 (3 * 2 ^ 38)))).getD (fmt2Of (fetched Mo.wrsq 8 4 4 (3 * 2 ^ 38)).word) { : Fmt }) (State.elemOf (userCtx (fetched Mo.wrsq 8 4 4 (3 * 2 ^ 38))) (fmt2Of (fetched Mo.wrsq 8 4 4 (3 * 2 ^ 38)).word)) ((runs (userCtx (fetched Mo.wrsq 8 4 4 (3 * 2 ^ 38)))).engIn (userCtx (fetched Mo.wrsq 8 4 4 (3 * 2 ^ 38))) (fetched Mo.wrsq 8 4 4 (3 * 2 ^ 38)).word 0 0) = true := by decide +kernel

theorem witness_EngineRows_0_8_0 :
    (runs (userCtx (fetched Mo.wsqrt 8 4 4 (3 * 2 ^ 38)))).wf = true
      ∧ Due (runs (userCtx (fetched Mo.wsqrt 8 4 4 (3 * 2 ^ 38)))) Mo.wsqrt 142 7 (fetched Mo.wsqrt 8 4 4 (3 * 2 ^ 38)) (userCtx (fetched Mo.wsqrt 8 4 4 (3 * 2 ^ 38)))
      ∧ enginesOf (fetched Mo.wsqrt 8 4 4 (3 * 2 ^ 38)).word = [3]
      ∧ (runs (userCtx (fetched Mo.wsqrt 8 4 4 (3 * 2 ^ 38)))).busyS 142 7 (sxOf (fetched Mo.wsqrt 8 4 4 (3 * 2 ^ 38)).word) = false
      ∧ (((State.engSrcs Mo.wsqrt ((State.fmtsOf (userCtx (fetched Mo.wsqrt 8 4 4 (3 * 2 ^ 38)))).getD (fmtOf (fetched Mo.wsqrt 8 4 4 (3 * 2 ^ 38)).word) { : Fmt }) (State.elemOf (userCtx (fetched Mo.wsqrt 8 4 4 (3 * 2 ^ 38))) (fmtOf (fetched Mo.wsqrt 8 4 4 (3 * 2 ^ 38)).word)) ((State.fmtsOf (userCtx (fetched Mo.wsqrt 8 4 4 (3 * 2 ^ 38)))).getD (fmt2Of (fetched Mo.wsqrt 8 4 4 (3 * 2 ^ 38)).word) { : Fmt }) (State.elemOf (userCtx (fetched Mo.wsqrt 8 4 4 (3 * 2 ^ 38))) (fmt2Of (fetched Mo.wsqrt 8 4 4 (3 * 2 ^ 38)).word)) (fetched Mo.wsqrt 8 4 4 (3 * 2 ^ 38)).word ++ List.map (fun (x : ℕ × LineData) => x.1) (engWsqrt ((runs (userCtx (fetched Mo.wsqrt 8 4 4 (3 * 2 ^ 38)))).engIn (userCtx (fetched Mo.wsqrt 8 4 4 (3 * 2 ^ 38))) (fetched Mo.wsqrt 8 4 4 (3 * 2 ^ 38)).word 0 0) (fetched Mo.wsqrt 8 4 4 (3 * 2 ^ 38)).word).writes).any fun (r : ℕ) => (runs (userCtx (fetched Mo.wsqrt 8 4 4 (3 * 2 ^ 38)))).busyV 142 7 3 r) = false)
      ∧ State.scaleOk Mo.wsqrt ((State.fmtsOf (userCtx (fetched Mo.wsqrt 8 4 4 (3 * 2 ^ 38)))).getD (fmtOf (fetched Mo.wsqrt 8 4 4 (3 * 2 ^ 38)).word) { : Fmt }) (State.elemOf (userCtx (fetched Mo.wsqrt 8 4 4 (3 * 2 ^ 38))) (fmtOf (fetched Mo.wsqrt 8 4 4 (3 * 2 ^ 38)).word)) ((State.fmtsOf (userCtx (fetched Mo.wsqrt 8 4 4 (3 * 2 ^ 38)))).getD (fmt2Of (fetched Mo.wsqrt 8 4 4 (3 * 2 ^ 38)).word) { : Fmt }) (State.elemOf (userCtx (fetched Mo.wsqrt 8 4 4 (3 * 2 ^ 38))) (fmt2Of (fetched Mo.wsqrt 8 4 4 (3 * 2 ^ 38)).word)) ((runs (userCtx (fetched Mo.wsqrt 8 4 4 (3 * 2 ^ 38)))).engIn (userCtx (fetched Mo.wsqrt 8 4 4 (3 * 2 ^ 38))) (fetched Mo.wsqrt 8 4 4 (3 * 2 ^ 38)).word 0 0) = true := by decide +kernel

theorem witness_EngineRows_0_9_0 :
    (runs (userCtx (fetched Mo.wdiv 8 4 4 (3 * 2 ^ 38)))).wf = true
      ∧ Due (runs (userCtx (fetched Mo.wdiv 8 4 4 (3 * 2 ^ 38)))) Mo.wdiv 142 7 (fetched Mo.wdiv 8 4 4 (3 * 2 ^ 38)) (userCtx (fetched Mo.wdiv 8 4 4 (3 * 2 ^ 38)))
      ∧ enginesOf (fetched Mo.wdiv 8 4 4 (3 * 2 ^ 38)).word = [3]
      ∧ (runs (userCtx (fetched Mo.wdiv 8 4 4 (3 * 2 ^ 38)))).busyS 142 7 (sxOf (fetched Mo.wdiv 8 4 4 (3 * 2 ^ 38)).word) = false
      ∧ (((State.engSrcs Mo.wdiv ((State.fmtsOf (userCtx (fetched Mo.wdiv 8 4 4 (3 * 2 ^ 38)))).getD (fmtOf (fetched Mo.wdiv 8 4 4 (3 * 2 ^ 38)).word) { : Fmt }) (State.elemOf (userCtx (fetched Mo.wdiv 8 4 4 (3 * 2 ^ 38))) (fmtOf (fetched Mo.wdiv 8 4 4 (3 * 2 ^ 38)).word)) ((State.fmtsOf (userCtx (fetched Mo.wdiv 8 4 4 (3 * 2 ^ 38)))).getD (fmt2Of (fetched Mo.wdiv 8 4 4 (3 * 2 ^ 38)).word) { : Fmt }) (State.elemOf (userCtx (fetched Mo.wdiv 8 4 4 (3 * 2 ^ 38))) (fmt2Of (fetched Mo.wdiv 8 4 4 (3 * 2 ^ 38)).word)) (fetched Mo.wdiv 8 4 4 (3 * 2 ^ 38)).word ++ List.map (fun (x : ℕ × LineData) => x.1) (engWdiv ((runs (userCtx (fetched Mo.wdiv 8 4 4 (3 * 2 ^ 38)))).engIn (userCtx (fetched Mo.wdiv 8 4 4 (3 * 2 ^ 38))) (fetched Mo.wdiv 8 4 4 (3 * 2 ^ 38)).word 0 0) (fetched Mo.wdiv 8 4 4 (3 * 2 ^ 38)).word).writes).any fun (r : ℕ) => (runs (userCtx (fetched Mo.wdiv 8 4 4 (3 * 2 ^ 38)))).busyV 142 7 3 r) = false)
      ∧ State.scaleOk Mo.wdiv ((State.fmtsOf (userCtx (fetched Mo.wdiv 8 4 4 (3 * 2 ^ 38)))).getD (fmtOf (fetched Mo.wdiv 8 4 4 (3 * 2 ^ 38)).word) { : Fmt }) (State.elemOf (userCtx (fetched Mo.wdiv 8 4 4 (3 * 2 ^ 38))) (fmtOf (fetched Mo.wdiv 8 4 4 (3 * 2 ^ 38)).word)) ((State.fmtsOf (userCtx (fetched Mo.wdiv 8 4 4 (3 * 2 ^ 38)))).getD (fmt2Of (fetched Mo.wdiv 8 4 4 (3 * 2 ^ 38)).word) { : Fmt }) (State.elemOf (userCtx (fetched Mo.wdiv 8 4 4 (3 * 2 ^ 38))) (fmt2Of (fetched Mo.wdiv 8 4 4 (3 * 2 ^ 38)).word)) ((runs (userCtx (fetched Mo.wdiv 8 4 4 (3 * 2 ^ 38)))).engIn (userCtx (fetched Mo.wdiv 8 4 4 (3 * 2 ^ 38))) (fetched Mo.wdiv 8 4 4 (3 * 2 ^ 38)).word 0 0) = true := by decide +kernel

theorem witness_EngineRows_0_10_0 :
    (runs (userCtx (fetched Mo.cvt 8 4 4 (3 * 2 ^ 38 + 2 ^ 41)))).wf = true
      ∧ Due (runs (userCtx (fetched Mo.cvt 8 4 4 (3 * 2 ^ 38 + 2 ^ 41)))) Mo.cvt 142 7 (fetched Mo.cvt 8 4 4 (3 * 2 ^ 38 + 2 ^ 41)) (userCtx (fetched Mo.cvt 8 4 4 (3 * 2 ^ 38 + 2 ^ 41)))
      ∧ enginesOf (fetched Mo.cvt 8 4 4 (3 * 2 ^ 38 + 2 ^ 41)).word = [3]
      ∧ (runs (userCtx (fetched Mo.cvt 8 4 4 (3 * 2 ^ 38 + 2 ^ 41)))).busyS 142 7 (sxOf (fetched Mo.cvt 8 4 4 (3 * 2 ^ 38 + 2 ^ 41)).word) = false
      ∧ (((State.engSrcs Mo.cvt ((State.fmtsOf (userCtx (fetched Mo.cvt 8 4 4 (3 * 2 ^ 38 + 2 ^ 41)))).getD (fmtOf (fetched Mo.cvt 8 4 4 (3 * 2 ^ 38 + 2 ^ 41)).word) { : Fmt }) (State.elemOf (userCtx (fetched Mo.cvt 8 4 4 (3 * 2 ^ 38 + 2 ^ 41))) (fmtOf (fetched Mo.cvt 8 4 4 (3 * 2 ^ 38 + 2 ^ 41)).word)) ((State.fmtsOf (userCtx (fetched Mo.cvt 8 4 4 (3 * 2 ^ 38 + 2 ^ 41)))).getD (fmt2Of (fetched Mo.cvt 8 4 4 (3 * 2 ^ 38 + 2 ^ 41)).word) { : Fmt }) (State.elemOf (userCtx (fetched Mo.cvt 8 4 4 (3 * 2 ^ 38 + 2 ^ 41))) (fmt2Of (fetched Mo.cvt 8 4 4 (3 * 2 ^ 38 + 2 ^ 41)).word)) (fetched Mo.cvt 8 4 4 (3 * 2 ^ 38 + 2 ^ 41)).word ++ List.map (fun (x : ℕ × LineData) => x.1) (engCvt ((runs (userCtx (fetched Mo.cvt 8 4 4 (3 * 2 ^ 38 + 2 ^ 41)))).engIn (userCtx (fetched Mo.cvt 8 4 4 (3 * 2 ^ 38 + 2 ^ 41))) (fetched Mo.cvt 8 4 4 (3 * 2 ^ 38 + 2 ^ 41)).word 0 0) (fetched Mo.cvt 8 4 4 (3 * 2 ^ 38 + 2 ^ 41)).word).writes).any fun (r : ℕ) => (runs (userCtx (fetched Mo.cvt 8 4 4 (3 * 2 ^ 38 + 2 ^ 41)))).busyV 142 7 3 r) = false)
      ∧ State.scaleOk Mo.cvt ((State.fmtsOf (userCtx (fetched Mo.cvt 8 4 4 (3 * 2 ^ 38 + 2 ^ 41)))).getD (fmtOf (fetched Mo.cvt 8 4 4 (3 * 2 ^ 38 + 2 ^ 41)).word) { : Fmt }) (State.elemOf (userCtx (fetched Mo.cvt 8 4 4 (3 * 2 ^ 38 + 2 ^ 41))) (fmtOf (fetched Mo.cvt 8 4 4 (3 * 2 ^ 38 + 2 ^ 41)).word)) ((State.fmtsOf (userCtx (fetched Mo.cvt 8 4 4 (3 * 2 ^ 38 + 2 ^ 41)))).getD (fmt2Of (fetched Mo.cvt 8 4 4 (3 * 2 ^ 38 + 2 ^ 41)).word) { : Fmt }) (State.elemOf (userCtx (fetched Mo.cvt 8 4 4 (3 * 2 ^ 38 + 2 ^ 41))) (fmt2Of (fetched Mo.cvt 8 4 4 (3 * 2 ^ 38 + 2 ^ 41)).word)) ((runs (userCtx (fetched Mo.cvt 8 4 4 (3 * 2 ^ 38 + 2 ^ 41)))).engIn (userCtx (fetched Mo.cvt 8 4 4 (3 * 2 ^ 38 + 2 ^ 41))) (fetched Mo.cvt 8 4 4 (3 * 2 ^ 38 + 2 ^ 41)).word 0 0) = true := by decide +kernel

theorem witness_EngineRows_0_11_0 :
    (runs (userCtx (fetched Mo.qnt 8 4 4 (3 * 2 ^ 38 + 2 ^ 41)))).wf = true
      ∧ Due (runs (userCtx (fetched Mo.qnt 8 4 4 (3 * 2 ^ 38 + 2 ^ 41)))) Mo.qnt 142 7 (fetched Mo.qnt 8 4 4 (3 * 2 ^ 38 + 2 ^ 41)) (userCtx (fetched Mo.qnt 8 4 4 (3 * 2 ^ 38 + 2 ^ 41)))
      ∧ enginesOf (fetched Mo.qnt 8 4 4 (3 * 2 ^ 38 + 2 ^ 41)).word = [3]
      ∧ (runs (userCtx (fetched Mo.qnt 8 4 4 (3 * 2 ^ 38 + 2 ^ 41)))).busyS 142 7 (sxOf (fetched Mo.qnt 8 4 4 (3 * 2 ^ 38 + 2 ^ 41)).word) = false
      ∧ (((State.engSrcs Mo.qnt ((State.fmtsOf (userCtx (fetched Mo.qnt 8 4 4 (3 * 2 ^ 38 + 2 ^ 41)))).getD (fmtOf (fetched Mo.qnt 8 4 4 (3 * 2 ^ 38 + 2 ^ 41)).word) { : Fmt }) (State.elemOf (userCtx (fetched Mo.qnt 8 4 4 (3 * 2 ^ 38 + 2 ^ 41))) (fmtOf (fetched Mo.qnt 8 4 4 (3 * 2 ^ 38 + 2 ^ 41)).word)) ((State.fmtsOf (userCtx (fetched Mo.qnt 8 4 4 (3 * 2 ^ 38 + 2 ^ 41)))).getD (fmt2Of (fetched Mo.qnt 8 4 4 (3 * 2 ^ 38 + 2 ^ 41)).word) { : Fmt }) (State.elemOf (userCtx (fetched Mo.qnt 8 4 4 (3 * 2 ^ 38 + 2 ^ 41))) (fmt2Of (fetched Mo.qnt 8 4 4 (3 * 2 ^ 38 + 2 ^ 41)).word)) (fetched Mo.qnt 8 4 4 (3 * 2 ^ 38 + 2 ^ 41)).word ++ List.map (fun (x : ℕ × LineData) => x.1) (engQnt ((runs (userCtx (fetched Mo.qnt 8 4 4 (3 * 2 ^ 38 + 2 ^ 41)))).engIn (userCtx (fetched Mo.qnt 8 4 4 (3 * 2 ^ 38 + 2 ^ 41))) (fetched Mo.qnt 8 4 4 (3 * 2 ^ 38 + 2 ^ 41)).word 0 0) (fetched Mo.qnt 8 4 4 (3 * 2 ^ 38 + 2 ^ 41)).word).writes).any fun (r : ℕ) => (runs (userCtx (fetched Mo.qnt 8 4 4 (3 * 2 ^ 38 + 2 ^ 41)))).busyV 142 7 3 r) = false)
      ∧ State.scaleOk Mo.qnt ((State.fmtsOf (userCtx (fetched Mo.qnt 8 4 4 (3 * 2 ^ 38 + 2 ^ 41)))).getD (fmtOf (fetched Mo.qnt 8 4 4 (3 * 2 ^ 38 + 2 ^ 41)).word) { : Fmt }) (State.elemOf (userCtx (fetched Mo.qnt 8 4 4 (3 * 2 ^ 38 + 2 ^ 41))) (fmtOf (fetched Mo.qnt 8 4 4 (3 * 2 ^ 38 + 2 ^ 41)).word)) ((State.fmtsOf (userCtx (fetched Mo.qnt 8 4 4 (3 * 2 ^ 38 + 2 ^ 41)))).getD (fmt2Of (fetched Mo.qnt 8 4 4 (3 * 2 ^ 38 + 2 ^ 41)).word) { : Fmt }) (State.elemOf (userCtx (fetched Mo.qnt 8 4 4 (3 * 2 ^ 38 + 2 ^ 41))) (fmt2Of (fetched Mo.qnt 8 4 4 (3 * 2 ^ 38 + 2 ^ 41)).word)) ((runs (userCtx (fetched Mo.qnt 8 4 4 (3 * 2 ^ 38 + 2 ^ 41)))).engIn (userCtx (fetched Mo.qnt 8 4 4 (3 * 2 ^ 38 + 2 ^ 41))) (fetched Mo.qnt 8 4 4 (3 * 2 ^ 38 + 2 ^ 41)).word 0 0) = true := by decide +kernel

theorem witness_EngineRows_0_12_0 :
    (runs (userCtx (fetched Mo.dot 8 4 4 (3 * 2 ^ 38 + 2 ^ 41 + 2 ^ 57)))).wf = true
      ∧ Due (runs (userCtx (fetched Mo.dot 8 4 4 (3 * 2 ^ 38 + 2 ^ 41 + 2 ^ 57)))) Mo.dot 142 7 (fetched Mo.dot 8 4 4 (3 * 2 ^ 38 + 2 ^ 41 + 2 ^ 57)) (userCtx (fetched Mo.dot 8 4 4 (3 * 2 ^ 38 + 2 ^ 41 + 2 ^ 57)))
      ∧ enginesOf (fetched Mo.dot 8 4 4 (3 * 2 ^ 38 + 2 ^ 41 + 2 ^ 57)).word = [3]
      ∧ (runs (userCtx (fetched Mo.dot 8 4 4 (3 * 2 ^ 38 + 2 ^ 41 + 2 ^ 57)))).busyS 142 7 (sxOf (fetched Mo.dot 8 4 4 (3 * 2 ^ 38 + 2 ^ 41 + 2 ^ 57)).word) = false
      ∧ (((State.engSrcs Mo.dot ((State.fmtsOf (userCtx (fetched Mo.dot 8 4 4 (3 * 2 ^ 38 + 2 ^ 41 + 2 ^ 57)))).getD (fmtOf (fetched Mo.dot 8 4 4 (3 * 2 ^ 38 + 2 ^ 41 + 2 ^ 57)).word) { : Fmt }) (State.elemOf (userCtx (fetched Mo.dot 8 4 4 (3 * 2 ^ 38 + 2 ^ 41 + 2 ^ 57))) (fmtOf (fetched Mo.dot 8 4 4 (3 * 2 ^ 38 + 2 ^ 41 + 2 ^ 57)).word)) ((State.fmtsOf (userCtx (fetched Mo.dot 8 4 4 (3 * 2 ^ 38 + 2 ^ 41 + 2 ^ 57)))).getD (fmt2Of (fetched Mo.dot 8 4 4 (3 * 2 ^ 38 + 2 ^ 41 + 2 ^ 57)).word) { : Fmt }) (State.elemOf (userCtx (fetched Mo.dot 8 4 4 (3 * 2 ^ 38 + 2 ^ 41 + 2 ^ 57))) (fmt2Of (fetched Mo.dot 8 4 4 (3 * 2 ^ 38 + 2 ^ 41 + 2 ^ 57)).word)) (fetched Mo.dot 8 4 4 (3 * 2 ^ 38 + 2 ^ 41 + 2 ^ 57)).word ++ List.map (fun (x : ℕ × LineData) => x.1) (engDot ((runs (userCtx (fetched Mo.dot 8 4 4 (3 * 2 ^ 38 + 2 ^ 41 + 2 ^ 57)))).engIn (userCtx (fetched Mo.dot 8 4 4 (3 * 2 ^ 38 + 2 ^ 41 + 2 ^ 57))) (fetched Mo.dot 8 4 4 (3 * 2 ^ 38 + 2 ^ 41 + 2 ^ 57)).word 0 0) (fetched Mo.dot 8 4 4 (3 * 2 ^ 38 + 2 ^ 41 + 2 ^ 57)).word).writes).any fun (r : ℕ) => (runs (userCtx (fetched Mo.dot 8 4 4 (3 * 2 ^ 38 + 2 ^ 41 + 2 ^ 57)))).busyV 142 7 3 r) = false)
      ∧ State.scaleOk Mo.dot ((State.fmtsOf (userCtx (fetched Mo.dot 8 4 4 (3 * 2 ^ 38 + 2 ^ 41 + 2 ^ 57)))).getD (fmtOf (fetched Mo.dot 8 4 4 (3 * 2 ^ 38 + 2 ^ 41 + 2 ^ 57)).word) { : Fmt }) (State.elemOf (userCtx (fetched Mo.dot 8 4 4 (3 * 2 ^ 38 + 2 ^ 41 + 2 ^ 57))) (fmtOf (fetched Mo.dot 8 4 4 (3 * 2 ^ 38 + 2 ^ 41 + 2 ^ 57)).word)) ((State.fmtsOf (userCtx (fetched Mo.dot 8 4 4 (3 * 2 ^ 38 + 2 ^ 41 + 2 ^ 57)))).getD (fmt2Of (fetched Mo.dot 8 4 4 (3 * 2 ^ 38 + 2 ^ 41 + 2 ^ 57)).word) { : Fmt }) (State.elemOf (userCtx (fetched Mo.dot 8 4 4 (3 * 2 ^ 38 + 2 ^ 41 + 2 ^ 57))) (fmt2Of (fetched Mo.dot 8 4 4 (3 * 2 ^ 38 + 2 ^ 41 + 2 ^ 57)).word)) ((runs (userCtx (fetched Mo.dot 8 4 4 (3 * 2 ^ 38 + 2 ^ 41 + 2 ^ 57)))).engIn (userCtx (fetched Mo.dot 8 4 4 (3 * 2 ^ 38 + 2 ^ 41 + 2 ^ 57))) (fetched Mo.dot 8 4 4 (3 * 2 ^ 38 + 2 ^ 41 + 2 ^ 57)).word 0 0) = true := by decide +kernel

theorem witness_EngineRows_0_13_0 :
    (runs (userCtx (fetched Mo.dotr 8 4 4 (3 * 2 ^ 38 + 2 ^ 41 + 2 ^ 57)))).wf = true
      ∧ Due (runs (userCtx (fetched Mo.dotr 8 4 4 (3 * 2 ^ 38 + 2 ^ 41 + 2 ^ 57)))) Mo.dotr 142 7 (fetched Mo.dotr 8 4 4 (3 * 2 ^ 38 + 2 ^ 41 + 2 ^ 57)) (userCtx (fetched Mo.dotr 8 4 4 (3 * 2 ^ 38 + 2 ^ 41 + 2 ^ 57)))
      ∧ enginesOf (fetched Mo.dotr 8 4 4 (3 * 2 ^ 38 + 2 ^ 41 + 2 ^ 57)).word = [3]
      ∧ (runs (userCtx (fetched Mo.dotr 8 4 4 (3 * 2 ^ 38 + 2 ^ 41 + 2 ^ 57)))).busyS 142 7 (sxOf (fetched Mo.dotr 8 4 4 (3 * 2 ^ 38 + 2 ^ 41 + 2 ^ 57)).word) = false
      ∧ (((State.engSrcs Mo.dotr ((State.fmtsOf (userCtx (fetched Mo.dotr 8 4 4 (3 * 2 ^ 38 + 2 ^ 41 + 2 ^ 57)))).getD (fmtOf (fetched Mo.dotr 8 4 4 (3 * 2 ^ 38 + 2 ^ 41 + 2 ^ 57)).word) { : Fmt }) (State.elemOf (userCtx (fetched Mo.dotr 8 4 4 (3 * 2 ^ 38 + 2 ^ 41 + 2 ^ 57))) (fmtOf (fetched Mo.dotr 8 4 4 (3 * 2 ^ 38 + 2 ^ 41 + 2 ^ 57)).word)) ((State.fmtsOf (userCtx (fetched Mo.dotr 8 4 4 (3 * 2 ^ 38 + 2 ^ 41 + 2 ^ 57)))).getD (fmt2Of (fetched Mo.dotr 8 4 4 (3 * 2 ^ 38 + 2 ^ 41 + 2 ^ 57)).word) { : Fmt }) (State.elemOf (userCtx (fetched Mo.dotr 8 4 4 (3 * 2 ^ 38 + 2 ^ 41 + 2 ^ 57))) (fmt2Of (fetched Mo.dotr 8 4 4 (3 * 2 ^ 38 + 2 ^ 41 + 2 ^ 57)).word)) (fetched Mo.dotr 8 4 4 (3 * 2 ^ 38 + 2 ^ 41 + 2 ^ 57)).word ++ List.map (fun (x : ℕ × LineData) => x.1) (engDotr ((runs (userCtx (fetched Mo.dotr 8 4 4 (3 * 2 ^ 38 + 2 ^ 41 + 2 ^ 57)))).engIn (userCtx (fetched Mo.dotr 8 4 4 (3 * 2 ^ 38 + 2 ^ 41 + 2 ^ 57))) (fetched Mo.dotr 8 4 4 (3 * 2 ^ 38 + 2 ^ 41 + 2 ^ 57)).word 0 0) (fetched Mo.dotr 8 4 4 (3 * 2 ^ 38 + 2 ^ 41 + 2 ^ 57)).word).writes).any fun (r : ℕ) => (runs (userCtx (fetched Mo.dotr 8 4 4 (3 * 2 ^ 38 + 2 ^ 41 + 2 ^ 57)))).busyV 142 7 3 r) = false)
      ∧ State.scaleOk Mo.dotr ((State.fmtsOf (userCtx (fetched Mo.dotr 8 4 4 (3 * 2 ^ 38 + 2 ^ 41 + 2 ^ 57)))).getD (fmtOf (fetched Mo.dotr 8 4 4 (3 * 2 ^ 38 + 2 ^ 41 + 2 ^ 57)).word) { : Fmt }) (State.elemOf (userCtx (fetched Mo.dotr 8 4 4 (3 * 2 ^ 38 + 2 ^ 41 + 2 ^ 57))) (fmtOf (fetched Mo.dotr 8 4 4 (3 * 2 ^ 38 + 2 ^ 41 + 2 ^ 57)).word)) ((State.fmtsOf (userCtx (fetched Mo.dotr 8 4 4 (3 * 2 ^ 38 + 2 ^ 41 + 2 ^ 57)))).getD (fmt2Of (fetched Mo.dotr 8 4 4 (3 * 2 ^ 38 + 2 ^ 41 + 2 ^ 57)).word) { : Fmt }) (State.elemOf (userCtx (fetched Mo.dotr 8 4 4 (3 * 2 ^ 38 + 2 ^ 41 + 2 ^ 57))) (fmt2Of (fetched Mo.dotr 8 4 4 (3 * 2 ^ 38 + 2 ^ 41 + 2 ^ 57)).word)) ((runs (userCtx (fetched Mo.dotr 8 4 4 (3 * 2 ^ 38 + 2 ^ 41 + 2 ^ 57)))).engIn (userCtx (fetched Mo.dotr 8 4 4 (3 * 2 ^ 38 + 2 ^ 41 + 2 ^ 57))) (fetched Mo.dotr 8 4 4 (3 * 2 ^ 38 + 2 ^ 41 + 2 ^ 57)).word 0 0) = true := by decide +kernel

theorem witness_EngineRows_0_14_0 :
    (runs (userCtx (fetched Mo.wmac 8 4 4 (3 * 2 ^ 38 + 2 ^ 41 + 2 ^ 57)))).wf = true
      ∧ Due (runs (userCtx (fetched Mo.wmac 8 4 4 (3 * 2 ^ 38 + 2 ^ 41 + 2 ^ 57)))) Mo.wmac 142 7 (fetched Mo.wmac 8 4 4 (3 * 2 ^ 38 + 2 ^ 41 + 2 ^ 57)) (userCtx (fetched Mo.wmac 8 4 4 (3 * 2 ^ 38 + 2 ^ 41 + 2 ^ 57)))
      ∧ enginesOf (fetched Mo.wmac 8 4 4 (3 * 2 ^ 38 + 2 ^ 41 + 2 ^ 57)).word = [3]
      ∧ (runs (userCtx (fetched Mo.wmac 8 4 4 (3 * 2 ^ 38 + 2 ^ 41 + 2 ^ 57)))).busyS 142 7 (sxOf (fetched Mo.wmac 8 4 4 (3 * 2 ^ 38 + 2 ^ 41 + 2 ^ 57)).word) = false
      ∧ (((State.engSrcs Mo.wmac ((State.fmtsOf (userCtx (fetched Mo.wmac 8 4 4 (3 * 2 ^ 38 + 2 ^ 41 + 2 ^ 57)))).getD (fmtOf (fetched Mo.wmac 8 4 4 (3 * 2 ^ 38 + 2 ^ 41 + 2 ^ 57)).word) { : Fmt }) (State.elemOf (userCtx (fetched Mo.wmac 8 4 4 (3 * 2 ^ 38 + 2 ^ 41 + 2 ^ 57))) (fmtOf (fetched Mo.wmac 8 4 4 (3 * 2 ^ 38 + 2 ^ 41 + 2 ^ 57)).word)) ((State.fmtsOf (userCtx (fetched Mo.wmac 8 4 4 (3 * 2 ^ 38 + 2 ^ 41 + 2 ^ 57)))).getD (fmt2Of (fetched Mo.wmac 8 4 4 (3 * 2 ^ 38 + 2 ^ 41 + 2 ^ 57)).word) { : Fmt }) (State.elemOf (userCtx (fetched Mo.wmac 8 4 4 (3 * 2 ^ 38 + 2 ^ 41 + 2 ^ 57))) (fmt2Of (fetched Mo.wmac 8 4 4 (3 * 2 ^ 38 + 2 ^ 41 + 2 ^ 57)).word)) (fetched Mo.wmac 8 4 4 (3 * 2 ^ 38 + 2 ^ 41 + 2 ^ 57)).word ++ List.map (fun (x : ℕ × LineData) => x.1) (engWmac ((runs (userCtx (fetched Mo.wmac 8 4 4 (3 * 2 ^ 38 + 2 ^ 41 + 2 ^ 57)))).engIn (userCtx (fetched Mo.wmac 8 4 4 (3 * 2 ^ 38 + 2 ^ 41 + 2 ^ 57))) (fetched Mo.wmac 8 4 4 (3 * 2 ^ 38 + 2 ^ 41 + 2 ^ 57)).word 0 0) (fetched Mo.wmac 8 4 4 (3 * 2 ^ 38 + 2 ^ 41 + 2 ^ 57)).word).writes).any fun (r : ℕ) => (runs (userCtx (fetched Mo.wmac 8 4 4 (3 * 2 ^ 38 + 2 ^ 41 + 2 ^ 57)))).busyV 142 7 3 r) = false)
      ∧ State.scaleOk Mo.wmac ((State.fmtsOf (userCtx (fetched Mo.wmac 8 4 4 (3 * 2 ^ 38 + 2 ^ 41 + 2 ^ 57)))).getD (fmtOf (fetched Mo.wmac 8 4 4 (3 * 2 ^ 38 + 2 ^ 41 + 2 ^ 57)).word) { : Fmt }) (State.elemOf (userCtx (fetched Mo.wmac 8 4 4 (3 * 2 ^ 38 + 2 ^ 41 + 2 ^ 57))) (fmtOf (fetched Mo.wmac 8 4 4 (3 * 2 ^ 38 + 2 ^ 41 + 2 ^ 57)).word)) ((State.fmtsOf (userCtx (fetched Mo.wmac 8 4 4 (3 * 2 ^ 38 + 2 ^ 41 + 2 ^ 57)))).getD (fmt2Of (fetched Mo.wmac 8 4 4 (3 * 2 ^ 38 + 2 ^ 41 + 2 ^ 57)).word) { : Fmt }) (State.elemOf (userCtx (fetched Mo.wmac 8 4 4 (3 * 2 ^ 38 + 2 ^ 41 + 2 ^ 57))) (fmt2Of (fetched Mo.wmac 8 4 4 (3 * 2 ^ 38 + 2 ^ 41 + 2 ^ 57)).word)) ((runs (userCtx (fetched Mo.wmac 8 4 4 (3 * 2 ^ 38 + 2 ^ 41 + 2 ^ 57)))).engIn (userCtx (fetched Mo.wmac 8 4 4 (3 * 2 ^ 38 + 2 ^ 41 + 2 ^ 57))) (fetched Mo.wmac 8 4 4 (3 * 2 ^ 38 + 2 ^ 41 + 2 ^ 57)).word 0 0) = true := by decide +kernel

theorem witness_EngineRows_0_15_0 :
    (runs (userCtx (fetched Mo.red 8 4 4 (3 * 2 ^ 38)))).wf = true
      ∧ Due (runs (userCtx (fetched Mo.red 8 4 4 (3 * 2 ^ 38)))) Mo.red 142 7 (fetched Mo.red 8 4 4 (3 * 2 ^ 38)) (userCtx (fetched Mo.red 8 4 4 (3 * 2 ^ 38)))
      ∧ enginesOf (fetched Mo.red 8 4 4 (3 * 2 ^ 38)).word = [3]
      ∧ (runs (userCtx (fetched Mo.red 8 4 4 (3 * 2 ^ 38)))).busyS 142 7 (sxOf (fetched Mo.red 8 4 4 (3 * 2 ^ 38)).word) = false
      ∧ (((State.engSrcs Mo.red ((State.fmtsOf (userCtx (fetched Mo.red 8 4 4 (3 * 2 ^ 38)))).getD (fmtOf (fetched Mo.red 8 4 4 (3 * 2 ^ 38)).word) { : Fmt }) (State.elemOf (userCtx (fetched Mo.red 8 4 4 (3 * 2 ^ 38))) (fmtOf (fetched Mo.red 8 4 4 (3 * 2 ^ 38)).word)) ((State.fmtsOf (userCtx (fetched Mo.red 8 4 4 (3 * 2 ^ 38)))).getD (fmt2Of (fetched Mo.red 8 4 4 (3 * 2 ^ 38)).word) { : Fmt }) (State.elemOf (userCtx (fetched Mo.red 8 4 4 (3 * 2 ^ 38))) (fmt2Of (fetched Mo.red 8 4 4 (3 * 2 ^ 38)).word)) (fetched Mo.red 8 4 4 (3 * 2 ^ 38)).word ++ List.map (fun (x : ℕ × LineData) => x.1) (engRed ((runs (userCtx (fetched Mo.red 8 4 4 (3 * 2 ^ 38)))).engIn (userCtx (fetched Mo.red 8 4 4 (3 * 2 ^ 38))) (fetched Mo.red 8 4 4 (3 * 2 ^ 38)).word 0 0) (fetched Mo.red 8 4 4 (3 * 2 ^ 38)).word).writes).any fun (r : ℕ) => (runs (userCtx (fetched Mo.red 8 4 4 (3 * 2 ^ 38)))).busyV 142 7 3 r) = false)
      ∧ State.scaleOk Mo.red ((State.fmtsOf (userCtx (fetched Mo.red 8 4 4 (3 * 2 ^ 38)))).getD (fmtOf (fetched Mo.red 8 4 4 (3 * 2 ^ 38)).word) { : Fmt }) (State.elemOf (userCtx (fetched Mo.red 8 4 4 (3 * 2 ^ 38))) (fmtOf (fetched Mo.red 8 4 4 (3 * 2 ^ 38)).word)) ((State.fmtsOf (userCtx (fetched Mo.red 8 4 4 (3 * 2 ^ 38)))).getD (fmt2Of (fetched Mo.red 8 4 4 (3 * 2 ^ 38)).word) { : Fmt }) (State.elemOf (userCtx (fetched Mo.red 8 4 4 (3 * 2 ^ 38))) (fmt2Of (fetched Mo.red 8 4 4 (3 * 2 ^ 38)).word)) ((runs (userCtx (fetched Mo.red 8 4 4 (3 * 2 ^ 38)))).engIn (userCtx (fetched Mo.red 8 4 4 (3 * 2 ^ 38))) (fetched Mo.red 8 4 4 (3 * 2 ^ 38)).word 0 0) = true := by decide +kernel

theorem witness_EngineRows_0_16_0 :
    (runs (userCtx (fetched Mo.wbc 8 4 4 (3 * 2 ^ 38)))).wf = true
      ∧ Due (runs (userCtx (fetched Mo.wbc 8 4 4 (3 * 2 ^ 38)))) Mo.wbc 142 7 (fetched Mo.wbc 8 4 4 (3 * 2 ^ 38)) (userCtx (fetched Mo.wbc 8 4 4 (3 * 2 ^ 38)))
      ∧ enginesOf (fetched Mo.wbc 8 4 4 (3 * 2 ^ 38)).word = [3]
      ∧ (runs (userCtx (fetched Mo.wbc 8 4 4 (3 * 2 ^ 38)))).busyS 142 7 (sxOf (fetched Mo.wbc 8 4 4 (3 * 2 ^ 38)).word) = false
      ∧ (((State.engSrcs Mo.wbc ((State.fmtsOf (userCtx (fetched Mo.wbc 8 4 4 (3 * 2 ^ 38)))).getD (fmtOf (fetched Mo.wbc 8 4 4 (3 * 2 ^ 38)).word) { : Fmt }) (State.elemOf (userCtx (fetched Mo.wbc 8 4 4 (3 * 2 ^ 38))) (fmtOf (fetched Mo.wbc 8 4 4 (3 * 2 ^ 38)).word)) ((State.fmtsOf (userCtx (fetched Mo.wbc 8 4 4 (3 * 2 ^ 38)))).getD (fmt2Of (fetched Mo.wbc 8 4 4 (3 * 2 ^ 38)).word) { : Fmt }) (State.elemOf (userCtx (fetched Mo.wbc 8 4 4 (3 * 2 ^ 38))) (fmt2Of (fetched Mo.wbc 8 4 4 (3 * 2 ^ 38)).word)) (fetched Mo.wbc 8 4 4 (3 * 2 ^ 38)).word ++ List.map (fun (x : ℕ × LineData) => x.1) (engWbc ((runs (userCtx (fetched Mo.wbc 8 4 4 (3 * 2 ^ 38)))).engIn (userCtx (fetched Mo.wbc 8 4 4 (3 * 2 ^ 38))) (fetched Mo.wbc 8 4 4 (3 * 2 ^ 38)).word 0 0) (fetched Mo.wbc 8 4 4 (3 * 2 ^ 38)).word).writes).any fun (r : ℕ) => (runs (userCtx (fetched Mo.wbc 8 4 4 (3 * 2 ^ 38)))).busyV 142 7 3 r) = false)
      ∧ State.scaleOk Mo.wbc ((State.fmtsOf (userCtx (fetched Mo.wbc 8 4 4 (3 * 2 ^ 38)))).getD (fmtOf (fetched Mo.wbc 8 4 4 (3 * 2 ^ 38)).word) { : Fmt }) (State.elemOf (userCtx (fetched Mo.wbc 8 4 4 (3 * 2 ^ 38))) (fmtOf (fetched Mo.wbc 8 4 4 (3 * 2 ^ 38)).word)) ((State.fmtsOf (userCtx (fetched Mo.wbc 8 4 4 (3 * 2 ^ 38)))).getD (fmt2Of (fetched Mo.wbc 8 4 4 (3 * 2 ^ 38)).word) { : Fmt }) (State.elemOf (userCtx (fetched Mo.wbc 8 4 4 (3 * 2 ^ 38))) (fmt2Of (fetched Mo.wbc 8 4 4 (3 * 2 ^ 38)).word)) ((runs (userCtx (fetched Mo.wbc 8 4 4 (3 * 2 ^ 38)))).engIn (userCtx (fetched Mo.wbc 8 4 4 (3 * 2 ^ 38))) (fetched Mo.wbc 8 4 4 (3 * 2 ^ 38)).word 0 0) = true := by decide +kernel

theorem witness_EngineRows_0_2_1 :
    (runs (userCtx (fetched Mo.wfma 8 4 4 (3 * 2 ^ 38)))).wf = true
      ∧ Due (runs (userCtx (fetched Mo.wfma 8 4 4 (3 * 2 ^ 38)))) Mo.wfma 142 7 (fetched Mo.wfma 8 4 4 (3 * 2 ^ 38)) (userCtx (fetched Mo.wfma 8 4 4 (3 * 2 ^ 38)))
      ∧ enginesOf (fetched Mo.wfma 8 4 4 (3 * 2 ^ 38)).word = [3]
      ∧ (runs (userCtx (fetched Mo.wfma 8 4 4 (3 * 2 ^ 38)))).busyS 142 7 (sxOf (fetched Mo.wfma 8 4 4 (3 * 2 ^ 38)).word) = false
      ∧ (((State.engSrcs Mo.wfma ((State.fmtsOf (userCtx (fetched Mo.wfma 8 4 4 (3 * 2 ^ 38)))).getD (fmtOf (fetched Mo.wfma 8 4 4 (3 * 2 ^ 38)).word) { : Fmt }) (State.elemOf (userCtx (fetched Mo.wfma 8 4 4 (3 * 2 ^ 38))) (fmtOf (fetched Mo.wfma 8 4 4 (3 * 2 ^ 38)).word)) ((State.fmtsOf (userCtx (fetched Mo.wfma 8 4 4 (3 * 2 ^ 38)))).getD (fmt2Of (fetched Mo.wfma 8 4 4 (3 * 2 ^ 38)).word) { : Fmt }) (State.elemOf (userCtx (fetched Mo.wfma 8 4 4 (3 * 2 ^ 38))) (fmt2Of (fetched Mo.wfma 8 4 4 (3 * 2 ^ 38)).word)) (fetched Mo.wfma 8 4 4 (3 * 2 ^ 38)).word ++ List.map (fun (x : ℕ × LineData) => x.1) (engWfma ((runs (userCtx (fetched Mo.wfma 8 4 4 (3 * 2 ^ 38)))).engIn (userCtx (fetched Mo.wfma 8 4 4 (3 * 2 ^ 38))) (fetched Mo.wfma 8 4 4 (3 * 2 ^ 38)).word 0 0) (fetched Mo.wfma 8 4 4 (3 * 2 ^ 38)).word).writes).any fun (r : ℕ) => (runs (userCtx (fetched Mo.wfma 8 4 4 (3 * 2 ^ 38)))).busyV 142 7 3 r) = false)
      ∧ State.scaleOk Mo.wfma ((State.fmtsOf (userCtx (fetched Mo.wfma 8 4 4 (3 * 2 ^ 38)))).getD (fmtOf (fetched Mo.wfma 8 4 4 (3 * 2 ^ 38)).word) { : Fmt }) (State.elemOf (userCtx (fetched Mo.wfma 8 4 4 (3 * 2 ^ 38))) (fmtOf (fetched Mo.wfma 8 4 4 (3 * 2 ^ 38)).word)) ((State.fmtsOf (userCtx (fetched Mo.wfma 8 4 4 (3 * 2 ^ 38)))).getD (fmt2Of (fetched Mo.wfma 8 4 4 (3 * 2 ^ 38)).word) { : Fmt }) (State.elemOf (userCtx (fetched Mo.wfma 8 4 4 (3 * 2 ^ 38))) (fmt2Of (fetched Mo.wfma 8 4 4 (3 * 2 ^ 38)).word)) ((runs (userCtx (fetched Mo.wfma 8 4 4 (3 * 2 ^ 38)))).engIn (userCtx (fetched Mo.wfma 8 4 4 (3 * 2 ^ 38))) (fetched Mo.wfma 8 4 4 (3 * 2 ^ 38)).word 0 0) = true := by decide +kernel

theorem witness_EngineRows_0_2_1_a :
    (runs (userCtx (fetched Mo.wfma 8 4 4 (3 * 2 ^ 38)))).wf = true
      ∧ Due (runs (userCtx (fetched Mo.wfma 8 4 4 (3 * 2 ^ 38)))) Mo.wfma 142 7 (fetched Mo.wfma 8 4 4 (3 * 2 ^ 38)) (userCtx (fetched Mo.wfma 8 4 4 (3 * 2 ^ 38)))
      ∧ enginesOf (fetched Mo.wfma 8 4 4 (3 * 2 ^ 38)).word = [3]
      ∧ (runs (userCtx (fetched Mo.wfma 8 4 4 (3 * 2 ^ 38)))).busyS 142 7 (sxOf (fetched Mo.wfma 8 4 4 (3 * 2 ^ 38)).word) = false
      ∧ (((State.engSrcs Mo.wfma ((State.fmtsOf (userCtx (fetched Mo.wfma 8 4 4 (3 * 2 ^ 38)))).getD (fmtOf (fetched Mo.wfma 8 4 4 (3 * 2 ^ 38)).word) { : Fmt }) (State.elemOf (userCtx (fetched Mo.wfma 8 4 4 (3 * 2 ^ 38))) (fmtOf (fetched Mo.wfma 8 4 4 (3 * 2 ^ 38)).word)) ((State.fmtsOf (userCtx (fetched Mo.wfma 8 4 4 (3 * 2 ^ 38)))).getD (fmt2Of (fetched Mo.wfma 8 4 4 (3 * 2 ^ 38)).word) { : Fmt }) (State.elemOf (userCtx (fetched Mo.wfma 8 4 4 (3 * 2 ^ 38))) (fmt2Of (fetched Mo.wfma 8 4 4 (3 * 2 ^ 38)).word)) (fetched Mo.wfma 8 4 4 (3 * 2 ^ 38)).word ++ List.map (fun (x : ℕ × LineData) => x.1) (engWfma ((runs (userCtx (fetched Mo.wfma 8 4 4 (3 * 2 ^ 38)))).engIn (userCtx (fetched Mo.wfma 8 4 4 (3 * 2 ^ 38))) (fetched Mo.wfma 8 4 4 (3 * 2 ^ 38)).word 0 0) (fetched Mo.wfma 8 4 4 (3 * 2 ^ 38)).word).writes).any fun (r : ℕ) => (runs (userCtx (fetched Mo.wfma 8 4 4 (3 * 2 ^ 38)))).busyV 142 7 3 r) = false)
      ∧ State.scaleOk Mo.wfma ((State.fmtsOf (userCtx (fetched Mo.wfma 8 4 4 (3 * 2 ^ 38)))).getD (fmtOf (fetched Mo.wfma 8 4 4 (3 * 2 ^ 38)).word) { : Fmt }) (State.elemOf (userCtx (fetched Mo.wfma 8 4 4 (3 * 2 ^ 38))) (fmtOf (fetched Mo.wfma 8 4 4 (3 * 2 ^ 38)).word)) ((State.fmtsOf (userCtx (fetched Mo.wfma 8 4 4 (3 * 2 ^ 38)))).getD (fmt2Of (fetched Mo.wfma 8 4 4 (3 * 2 ^ 38)).word) { : Fmt }) (State.elemOf (userCtx (fetched Mo.wfma 8 4 4 (3 * 2 ^ 38))) (fmt2Of (fetched Mo.wfma 8 4 4 (3 * 2 ^ 38)).word)) ((runs (userCtx (fetched Mo.wfma 8 4 4 (3 * 2 ^ 38)))).engIn (userCtx (fetched Mo.wfma 8 4 4 (3 * 2 ^ 38))) (fetched Mo.wfma 8 4 4 (3 * 2 ^ 38)).word 0 0) = true := by decide +kernel

theorem witness_EngineRows_0_2_1_b :
    (runs (userCtx (fetched Mo.wfma 8 4 4 (3 * 2 ^ 38)))).wf = true
      ∧ Due (runs (userCtx (fetched Mo.wfma 8 4 4 (3 * 2 ^ 38)))) Mo.wfma 142 7 (fetched Mo.wfma 8 4 4 (3 * 2 ^ 38)) (userCtx (fetched Mo.wfma 8 4 4 (3 * 2 ^ 38)))
      ∧ enginesOf (fetched Mo.wfma 8 4 4 (3 * 2 ^ 38)).word = [3]
      ∧ (runs (userCtx (fetched Mo.wfma 8 4 4 (3 * 2 ^ 38)))).busyS 142 7 (sxOf (fetched Mo.wfma 8 4 4 (3 * 2 ^ 38)).word) = false
      ∧ (((State.engSrcs Mo.wfma ((State.fmtsOf (userCtx (fetched Mo.wfma 8 4 4 (3 * 2 ^ 38)))).getD (fmtOf (fetched Mo.wfma 8 4 4 (3 * 2 ^ 38)).word) { : Fmt }) (State.elemOf (userCtx (fetched Mo.wfma 8 4 4 (3 * 2 ^ 38))) (fmtOf (fetched Mo.wfma 8 4 4 (3 * 2 ^ 38)).word)) ((State.fmtsOf (userCtx (fetched Mo.wfma 8 4 4 (3 * 2 ^ 38)))).getD (fmt2Of (fetched Mo.wfma 8 4 4 (3 * 2 ^ 38)).word) { : Fmt }) (State.elemOf (userCtx (fetched Mo.wfma 8 4 4 (3 * 2 ^ 38))) (fmt2Of (fetched Mo.wfma 8 4 4 (3 * 2 ^ 38)).word)) (fetched Mo.wfma 8 4 4 (3 * 2 ^ 38)).word ++ List.map (fun (x : ℕ × LineData) => x.1) (engWfma ((runs (userCtx (fetched Mo.wfma 8 4 4 (3 * 2 ^ 38)))).engIn (userCtx (fetched Mo.wfma 8 4 4 (3 * 2 ^ 38))) (fetched Mo.wfma 8 4 4 (3 * 2 ^ 38)).word 0 0) (fetched Mo.wfma 8 4 4 (3 * 2 ^ 38)).word).writes).any fun (r : ℕ) => (runs (userCtx (fetched Mo.wfma 8 4 4 (3 * 2 ^ 38)))).busyV 142 7 3 r) = false)
      ∧ State.scaleOk Mo.wfma ((State.fmtsOf (userCtx (fetched Mo.wfma 8 4 4 (3 * 2 ^ 38)))).getD (fmtOf (fetched Mo.wfma 8 4 4 (3 * 2 ^ 38)).word) { : Fmt }) (State.elemOf (userCtx (fetched Mo.wfma 8 4 4 (3 * 2 ^ 38))) (fmtOf (fetched Mo.wfma 8 4 4 (3 * 2 ^ 38)).word)) ((State.fmtsOf (userCtx (fetched Mo.wfma 8 4 4 (3 * 2 ^ 38)))).getD (fmt2Of (fetched Mo.wfma 8 4 4 (3 * 2 ^ 38)).word) { : Fmt }) (State.elemOf (userCtx (fetched Mo.wfma 8 4 4 (3 * 2 ^ 38))) (fmt2Of (fetched Mo.wfma 8 4 4 (3 * 2 ^ 38)).word)) ((runs (userCtx (fetched Mo.wfma 8 4 4 (3 * 2 ^ 38)))).engIn (userCtx (fetched Mo.wfma 8 4 4 (3 * 2 ^ 38))) (fetched Mo.wfma 8 4 4 (3 * 2 ^ 38)).word 0 0) = true := by decide +kernel

theorem witness_EngineRows_0_2_2 :
    (runs (userCtx (fetched Mo.wfma 8 4 4 (3 * 2 ^ 38)))).wf = true
      ∧ Due (runs (userCtx (fetched Mo.wfma 8 4 4 (3 * 2 ^ 38)))) Mo.wfma 142 7 (fetched Mo.wfma 8 4 4 (3 * 2 ^ 38)) (userCtx (fetched Mo.wfma 8 4 4 (3 * 2 ^ 38)))
      ∧ enginesOf (fetched Mo.wfma 8 4 4 (3 * 2 ^ 38)).word = [3]
      ∧ (runs (userCtx (fetched Mo.wfma 8 4 4 (3 * 2 ^ 38)))).busyS 142 7 (sxOf (fetched Mo.wfma 8 4 4 (3 * 2 ^ 38)).word) = false
      ∧ (((State.engSrcs Mo.wfma ((State.fmtsOf (userCtx (fetched Mo.wfma 8 4 4 (3 * 2 ^ 38)))).getD (fmtOf (fetched Mo.wfma 8 4 4 (3 * 2 ^ 38)).word) { : Fmt }) (State.elemOf (userCtx (fetched Mo.wfma 8 4 4 (3 * 2 ^ 38))) (fmtOf (fetched Mo.wfma 8 4 4 (3 * 2 ^ 38)).word)) ((State.fmtsOf (userCtx (fetched Mo.wfma 8 4 4 (3 * 2 ^ 38)))).getD (fmt2Of (fetched Mo.wfma 8 4 4 (3 * 2 ^ 38)).word) { : Fmt }) (State.elemOf (userCtx (fetched Mo.wfma 8 4 4 (3 * 2 ^ 38))) (fmt2Of (fetched Mo.wfma 8 4 4 (3 * 2 ^ 38)).word)) (fetched Mo.wfma 8 4 4 (3 * 2 ^ 38)).word ++ List.map (fun (x : ℕ × LineData) => x.1) (engWfma ((runs (userCtx (fetched Mo.wfma 8 4 4 (3 * 2 ^ 38)))).engIn (userCtx (fetched Mo.wfma 8 4 4 (3 * 2 ^ 38))) (fetched Mo.wfma 8 4 4 (3 * 2 ^ 38)).word 0 0) (fetched Mo.wfma 8 4 4 (3 * 2 ^ 38)).word).writes).any fun (r : ℕ) => (runs (userCtx (fetched Mo.wfma 8 4 4 (3 * 2 ^ 38)))).busyV 142 7 3 r) = false)
      ∧ State.scaleOk Mo.wfma ((State.fmtsOf (userCtx (fetched Mo.wfma 8 4 4 (3 * 2 ^ 38)))).getD (fmtOf (fetched Mo.wfma 8 4 4 (3 * 2 ^ 38)).word) { : Fmt }) (State.elemOf (userCtx (fetched Mo.wfma 8 4 4 (3 * 2 ^ 38))) (fmtOf (fetched Mo.wfma 8 4 4 (3 * 2 ^ 38)).word)) ((State.fmtsOf (userCtx (fetched Mo.wfma 8 4 4 (3 * 2 ^ 38)))).getD (fmt2Of (fetched Mo.wfma 8 4 4 (3 * 2 ^ 38)).word) { : Fmt }) (State.elemOf (userCtx (fetched Mo.wfma 8 4 4 (3 * 2 ^ 38))) (fmt2Of (fetched Mo.wfma 8 4 4 (3 * 2 ^ 38)).word)) ((runs (userCtx (fetched Mo.wfma 8 4 4 (3 * 2 ^ 38)))).engIn (userCtx (fetched Mo.wfma 8 4 4 (3 * 2 ^ 38))) (fetched Mo.wfma 8 4 4 (3 * 2 ^ 38)).word 0 0) = true := by decide +kernel

theorem witness_EngineRows_0_2_2_a :
    (runs (userCtx (fetched Mo.wfma 8 4 4 (3 * 2 ^ 38)))).wf = true
      ∧ Due (runs (userCtx (fetched Mo.wfma 8 4 4 (3 * 2 ^ 38)))) Mo.wfma 142 7 (fetched Mo.wfma 8 4 4 (3 * 2 ^ 38)) (userCtx (fetched Mo.wfma 8 4 4 (3 * 2 ^ 38)))
      ∧ enginesOf (fetched Mo.wfma 8 4 4 (3 * 2 ^ 38)).word = [3]
      ∧ (runs (userCtx (fetched Mo.wfma 8 4 4 (3 * 2 ^ 38)))).busyS 142 7 (sxOf (fetched Mo.wfma 8 4 4 (3 * 2 ^ 38)).word) = false
      ∧ (((State.engSrcs Mo.wfma ((State.fmtsOf (userCtx (fetched Mo.wfma 8 4 4 (3 * 2 ^ 38)))).getD (fmtOf (fetched Mo.wfma 8 4 4 (3 * 2 ^ 38)).word) { : Fmt }) (State.elemOf (userCtx (fetched Mo.wfma 8 4 4 (3 * 2 ^ 38))) (fmtOf (fetched Mo.wfma 8 4 4 (3 * 2 ^ 38)).word)) ((State.fmtsOf (userCtx (fetched Mo.wfma 8 4 4 (3 * 2 ^ 38)))).getD (fmt2Of (fetched Mo.wfma 8 4 4 (3 * 2 ^ 38)).word) { : Fmt }) (State.elemOf (userCtx (fetched Mo.wfma 8 4 4 (3 * 2 ^ 38))) (fmt2Of (fetched Mo.wfma 8 4 4 (3 * 2 ^ 38)).word)) (fetched Mo.wfma 8 4 4 (3 * 2 ^ 38)).word ++ List.map (fun (x : ℕ × LineData) => x.1) (engWfma ((runs (userCtx (fetched Mo.wfma 8 4 4 (3 * 2 ^ 38)))).engIn (userCtx (fetched Mo.wfma 8 4 4 (3 * 2 ^ 38))) (fetched Mo.wfma 8 4 4 (3 * 2 ^ 38)).word 0 0) (fetched Mo.wfma 8 4 4 (3 * 2 ^ 38)).word).writes).any fun (r : ℕ) => (runs (userCtx (fetched Mo.wfma 8 4 4 (3 * 2 ^ 38)))).busyV 142 7 3 r) = false)
      ∧ State.scaleOk Mo.wfma ((State.fmtsOf (userCtx (fetched Mo.wfma 8 4 4 (3 * 2 ^ 38)))).getD (fmtOf (fetched Mo.wfma 8 4 4 (3 * 2 ^ 38)).word) { : Fmt }) (State.elemOf (userCtx (fetched Mo.wfma 8 4 4 (3 * 2 ^ 38))) (fmtOf (fetched Mo.wfma 8 4 4 (3 * 2 ^ 38)).word)) ((State.fmtsOf (userCtx (fetched Mo.wfma 8 4 4 (3 * 2 ^ 38)))).getD (fmt2Of (fetched Mo.wfma 8 4 4 (3 * 2 ^ 38)).word) { : Fmt }) (State.elemOf (userCtx (fetched Mo.wfma 8 4 4 (3 * 2 ^ 38))) (fmt2Of (fetched Mo.wfma 8 4 4 (3 * 2 ^ 38)).word)) ((runs (userCtx (fetched Mo.wfma 8 4 4 (3 * 2 ^ 38)))).engIn (userCtx (fetched Mo.wfma 8 4 4 (3 * 2 ^ 38))) (fetched Mo.wfma 8 4 4 (3 * 2 ^ 38)).word 0 0) = true := by decide +kernel

theorem witness_EngineRows_0_2_2_b :
    (runs (userCtx (fetched Mo.wfma 8 4 4 (3 * 2 ^ 38)))).wf = true
      ∧ Due (runs (userCtx (fetched Mo.wfma 8 4 4 (3 * 2 ^ 38)))) Mo.wfma 142 7 (fetched Mo.wfma 8 4 4 (3 * 2 ^ 38)) (userCtx (fetched Mo.wfma 8 4 4 (3 * 2 ^ 38)))
      ∧ enginesOf (fetched Mo.wfma 8 4 4 (3 * 2 ^ 38)).word = [3]
      ∧ (runs (userCtx (fetched Mo.wfma 8 4 4 (3 * 2 ^ 38)))).busyS 142 7 (sxOf (fetched Mo.wfma 8 4 4 (3 * 2 ^ 38)).word) = false
      ∧ (((State.engSrcs Mo.wfma ((State.fmtsOf (userCtx (fetched Mo.wfma 8 4 4 (3 * 2 ^ 38)))).getD (fmtOf (fetched Mo.wfma 8 4 4 (3 * 2 ^ 38)).word) { : Fmt }) (State.elemOf (userCtx (fetched Mo.wfma 8 4 4 (3 * 2 ^ 38))) (fmtOf (fetched Mo.wfma 8 4 4 (3 * 2 ^ 38)).word)) ((State.fmtsOf (userCtx (fetched Mo.wfma 8 4 4 (3 * 2 ^ 38)))).getD (fmt2Of (fetched Mo.wfma 8 4 4 (3 * 2 ^ 38)).word) { : Fmt }) (State.elemOf (userCtx (fetched Mo.wfma 8 4 4 (3 * 2 ^ 38))) (fmt2Of (fetched Mo.wfma 8 4 4 (3 * 2 ^ 38)).word)) (fetched Mo.wfma 8 4 4 (3 * 2 ^ 38)).word ++ List.map (fun (x : ℕ × LineData) => x.1) (engWfma ((runs (userCtx (fetched Mo.wfma 8 4 4 (3 * 2 ^ 38)))).engIn (userCtx (fetched Mo.wfma 8 4 4 (3 * 2 ^ 38))) (fetched Mo.wfma 8 4 4 (3 * 2 ^ 38)).word 0 0) (fetched Mo.wfma 8 4 4 (3 * 2 ^ 38)).word).writes).any fun (r : ℕ) => (runs (userCtx (fetched Mo.wfma 8 4 4 (3 * 2 ^ 38)))).busyV 142 7 3 r) = false)
      ∧ State.scaleOk Mo.wfma ((State.fmtsOf (userCtx (fetched Mo.wfma 8 4 4 (3 * 2 ^ 38)))).getD (fmtOf (fetched Mo.wfma 8 4 4 (3 * 2 ^ 38)).word) { : Fmt }) (State.elemOf (userCtx (fetched Mo.wfma 8 4 4 (3 * 2 ^ 38))) (fmtOf (fetched Mo.wfma 8 4 4 (3 * 2 ^ 38)).word)) ((State.fmtsOf (userCtx (fetched Mo.wfma 8 4 4 (3 * 2 ^ 38)))).getD (fmt2Of (fetched Mo.wfma 8 4 4 (3 * 2 ^ 38)).word) { : Fmt }) (State.elemOf (userCtx (fetched Mo.wfma 8 4 4 (3 * 2 ^ 38))) (fmt2Of (fetched Mo.wfma 8 4 4 (3 * 2 ^ 38)).word)) ((runs (userCtx (fetched Mo.wfma 8 4 4 (3 * 2 ^ 38)))).engIn (userCtx (fetched Mo.wfma 8 4 4 (3 * 2 ^ 38))) (fetched Mo.wfma 8 4 4 (3 * 2 ^ 38)).word 0 0) = true := by decide +kernel

theorem witness_EngineRows_0_2_2_c :
    (runs (userCtx (fetched Mo.wfma 8 4 4 (3 * 2 ^ 38)))).wf = true
      ∧ Due (runs (userCtx (fetched Mo.wfma 8 4 4 (3 * 2 ^ 38)))) Mo.wfma 142 7 (fetched Mo.wfma 8 4 4 (3 * 2 ^ 38)) (userCtx (fetched Mo.wfma 8 4 4 (3 * 2 ^ 38)))
      ∧ enginesOf (fetched Mo.wfma 8 4 4 (3 * 2 ^ 38)).word = [3]
      ∧ (runs (userCtx (fetched Mo.wfma 8 4 4 (3 * 2 ^ 38)))).busyS 142 7 (sxOf (fetched Mo.wfma 8 4 4 (3 * 2 ^ 38)).word) = false
      ∧ (((State.engSrcs Mo.wfma ((State.fmtsOf (userCtx (fetched Mo.wfma 8 4 4 (3 * 2 ^ 38)))).getD (fmtOf (fetched Mo.wfma 8 4 4 (3 * 2 ^ 38)).word) { : Fmt }) (State.elemOf (userCtx (fetched Mo.wfma 8 4 4 (3 * 2 ^ 38))) (fmtOf (fetched Mo.wfma 8 4 4 (3 * 2 ^ 38)).word)) ((State.fmtsOf (userCtx (fetched Mo.wfma 8 4 4 (3 * 2 ^ 38)))).getD (fmt2Of (fetched Mo.wfma 8 4 4 (3 * 2 ^ 38)).word) { : Fmt }) (State.elemOf (userCtx (fetched Mo.wfma 8 4 4 (3 * 2 ^ 38))) (fmt2Of (fetched Mo.wfma 8 4 4 (3 * 2 ^ 38)).word)) (fetched Mo.wfma 8 4 4 (3 * 2 ^ 38)).word ++ List.map (fun (x : ℕ × LineData) => x.1) (engWfma ((runs (userCtx (fetched Mo.wfma 8 4 4 (3 * 2 ^ 38)))).engIn (userCtx (fetched Mo.wfma 8 4 4 (3 * 2 ^ 38))) (fetched Mo.wfma 8 4 4 (3 * 2 ^ 38)).word 0 0) (fetched Mo.wfma 8 4 4 (3 * 2 ^ 38)).word).writes).any fun (r : ℕ) => (runs (userCtx (fetched Mo.wfma 8 4 4 (3 * 2 ^ 38)))).busyV 142 7 3 r) = false)
      ∧ State.scaleOk Mo.wfma ((State.fmtsOf (userCtx (fetched Mo.wfma 8 4 4 (3 * 2 ^ 38)))).getD (fmtOf (fetched Mo.wfma 8 4 4 (3 * 2 ^ 38)).word) { : Fmt }) (State.elemOf (userCtx (fetched Mo.wfma 8 4 4 (3 * 2 ^ 38))) (fmtOf (fetched Mo.wfma 8 4 4 (3 * 2 ^ 38)).word)) ((State.fmtsOf (userCtx (fetched Mo.wfma 8 4 4 (3 * 2 ^ 38)))).getD (fmt2Of (fetched Mo.wfma 8 4 4 (3 * 2 ^ 38)).word) { : Fmt }) (State.elemOf (userCtx (fetched Mo.wfma 8 4 4 (3 * 2 ^ 38))) (fmt2Of (fetched Mo.wfma 8 4 4 (3 * 2 ^ 38)).word)) ((runs (userCtx (fetched Mo.wfma 8 4 4 (3 * 2 ^ 38)))).engIn (userCtx (fetched Mo.wfma 8 4 4 (3 * 2 ^ 38))) (fetched Mo.wfma 8 4 4 (3 * 2 ^ 38)).word 0 0) = true := by decide +kernel

theorem witness_EngineRows_1_0 :
    63 < 64 := by decide +kernel

theorem witness_EngineRows_1_1 :
    63 < 64 := by decide +kernel

theorem witness_EngineRows_1_2 :
    63 < 64 := by decide +kernel

theorem witness_EngineRows_1_3 :
    63 < 64 := by decide +kernel

theorem witness_EngineRows_1_4 :
    63 < 64 ∧ rndOf (fetched Mo.wfma 8 4 4 (3 * 2 ^ 38)).word = 0 := by decide +kernel

theorem witness_EngineRows_1_5 :
    63 < 64 ∧ Fmt.i32.cls = 1 ∧ 0 < Fmt.i32.width ∧ 22 < 2 ^ Fmt.i32.width ∧ 1 < 2 ^ Fmt.i32.width := by decide +kernel

/-- A descriptor's bytes from values at offsets. -/
def descOf (l : List (Nat × Nat)) : List Byte := State.leBytes ((l.map fun x => x.1 * 256 ^ x.2).sum) 128

/-- A collective unit's task of a kernel, with lines it has read. -/
def kctx (l : List (Nat × Nat)) (got : List (Nat × Nat)) : Context :=
  { task := { plan := some 3, principal := 0x12345, desc := descOf l, fmts := builtinFmts.map (BitVec.ofNat 128) }
    phase := .run
    got := got.map fun g => (g.1, (BitVec.ofNat 1024 g.2, false)) }

/-- What stands in a plan, once it is work. -/
def isWork : KPlan → Bool
  | .work _ _ _ => true
  | _ => false
def workOf : KPlan → Work × Nat × Nat
  | .work w d a => (w, d, a)
  | _ => (⟨[], 0, []⟩, 0, 0)
theorem isWork_eq {p : KPlan} (h : isWork p = true) : p = .work (workOf p).1 (workOf p).2.1 (workOf p).2.2 := by
  cases p <;> simp_all [isWork, workOf]

/-- One element, or one head, or one bag, of each kernel. -/
def aReduce : Context := kctx [(1, 0), (4, 1), (1, 16), (1, 24), (0x4000, 32), (0x800, 64)] [(0x10, 0x40490FDB)]
def aScale : Context := kctx [(2, 0), (5, 1), (1, 16), (0x3F800000, 28), (0x800, 48), (0x4000, 64)] [(0x10, 0x40490FDB)]
def anOpt : Context := kctx [(3, 0), (8, 1), (1, 16), (0xFF, 25), (0x3F800000, 32), (0x3F000000, 36), (0x3F000000, 40), (0x33000000, 44), (0x3F800000, 52),
    (0x3F800000, 56), (0x3F800000, 60), (0x800, 64), (0x880, 72), (0x900, 80), (0x980, 96)]
  [(0x10, 0x3F800000), (0x11, 0x3F800000), (0x12, 0x3F800000), (0x13, 0x3F800000)]
def anAttn : Context := kctx [(4, 0), (8, 1), (64, 16), (8, 18), (1, 20), (1, 21), (10, 22), (0x3F800000, 24), (1, 28), (1, 32), (0x1000, 40), (0x2000, 48), (0x3000, 56)]
  [(0x20, 0x10000), (0x40, 0x3F803F80), (0x200, 0x3838), (0x204, 0x3838), (0x208, 0x7F7F)]
def aGather : Context := kctx [(5, 0), (6, 1), (64, 16), (1, 18), (0x3F800000, 24), (1, 28), (1, 32), (0x1000, 40), (0x2000, 48), (0x2080, 56), (0x3000, 72)]
  [(0x20, 0x3F803F80), (0x40, 0), (0x41, 2 ^ 32)]
def aQuantize : Context := kctx [(6, 0), (4, 1), (1, 16), (1, 24), (0x800, 32), (0x4000, 48)] [(0x10, 0x3FC0)]
def aSweep (cmp : Nat) : Context := kctx [(7, 0), (4, 1), (8, 16), (8, 20), (2, 24), (0x800, 32), (cmp, 40), (0x77, 48), (0xFF, 56)] [(0x10, 0)]
def anOptTxn : Context := kctx [(3, 0), (8, 1), (64, 2), (64, 16), (64, 26), (0xFF, 25), (0x800, 64), (0xA00, 72), (0xC00, 80), (0xE00, 96)] []
def aSweepTxn : Context := kctx [(7, 0), (4, 1), (64, 2), (8, 16), (8, 20), (2, 24), (0x800, 32), (0, 40), (0x77, 48), (0xFF, 56)] []
def aUser : Context := { kctx [(16, 0), (6, 1), (255, 3), (0x123, 16), (0xFFFFFFFFFFFFFFFF, 88)] [] with pc := 0 }

/-- Its query is read. -/
def queried (x : Context) : Context := { x with kept := (queryLines x).filterMap fun l => (gotLine x l).map (l, ·) }
def doneOf (x : Context) : Context := { x with stage := 1 }
def pastOf (x : Context) : Context := { x with unit := 99 }
def atStage (x : Context) (k : Nat) : Context := { x with stage := k }

/-- With the sequence of handle 255. -/
def withSeq (s : State) : State := { s with seqs := [(255, { partition := 0, prog := [0x1D, 0x1D] })] }

/-- Memory with a line at an offset of extent 5, which a read has brought to its home. -/
def poke (s : State) (off : Nat) (bytes : List Byte) : State :=
  let k := s.lineAt { coherent := true, base := 0, count := 1, rights := [⟨1, true, true, true⟩] } off
  let data := (State.placeBytes 0 bytes).1
  { s with mem := { s.mem with cells := Memory.setLine s.mem.cells (storedAddr (s.servedAt k)) data
                               arrived := s.mem.arrived.put k (data, {}) } }

/-- A sequence of n words of a value at offset 0x4000. -/
def sequence (word : Nat) (n : Nat) : State :=
  regsAt (poke served 0x4000 ((List.range n).flatMap fun _ => State.leBytes word 8)) [(F.cluSeqSrc_offset, 0, 0x4000)]
def seqWord (h len : Nat) : Word := BitVec.ofNat 32 (h + len * 256)
def sourceRead (s : State) (len : Nat) : State.SeqRead × State :=
  State.seqRead 0 ((len * 8 + 127) / 128) 0x4000 [] (s.stored (wordWrite .root .cluSeqCmd 0 0 (fieldIn (seqWord 255 len) 28 2 1)))
def bytesOf : State.SeqRead × State → List Byte
  | (.bytes b, _) => b
  | _ => []

/-- A buffered format word 0 to 2 of format 16. -/
def fmtHeld (v : Nat) : State := { node with fmtBuf := [(64, BitVec.ofNat 32 v), (65, BitVec.ofNat 32 (v / 2 ^ 32)), (66, 0)] }

/-- Queue 60 holds one entry at index 15 of its ring of 16 in extent 5. -/
def queued (bytes : List (Nat × Nat)) : State :=
  let s := regsAt (poke served (0x1000 + 64 * 14) (State.leBytes 0 64 ++ State.leBytes ((bytes.map fun x => x.1 * 256 ^ x.2).sum) 64))
    [(F.cluQcfg_enable, 60, 1), (F.cluQcfg_size, 60, 4), (F.cluQcfg_weight, 60, 1), (F.cluQcfg_asid, 60, 1023), (F.cluQcfg_principal, 60, 0x12345), (F.cluQring_offset, 60, 1),
     (F.cluQcpl_offset, 60, 2), (F.cluQptr_head, 60, 15), (F.cluQptr_ctail, 60, 15), (F.cluQptr_chead, 60, 15)]
  s

def readOf (s : State) : State.EntryRead × State := s.readEntry .host 60 64
def seOf : State.EntryRead × State → List Byte
  | (.entry b, _) => b
  | _ => []

/-- A host task in context 7 of core 142. -/
def hostTask : Task := { id := 0x3C00F, queue := some 60, asid := 1023, principal := 0x12345, addr := 0x800, desc := descOf [(6, 0), (4, 1)], fmts := builtinFmts.map (BitVec.ofNat 128) }
def hostCtx (w : Fetch) : Context := { userCtx w with task := { hostTask with desc := descOf [(16, 0), (6, 1)], prog := [w.word] } }

def withCtx (s : State) (x : Context) : State := { s with clu := { s.clu with ctx := [(142 * 8 + 7, x)] } }
def savedTask : Saved := { partition := 0, slot := 0, ctx := { task := hostTask, phase := .waiting }, flags := 5 }
def withSaved (s : State) (v : Saved) : State := { s with clu := { s.clu with saved := [v] } }

/-- A window whose head may run on core 142 only. -/
def windowed : State :=
  let s := regsAt served [(F.corPfCtrl_en, 142, 0)]
  let s := s.setReg .secCoreMap 15 (BitVec.ofNat 128 (16 * 2 ^ 35))
  { s with clu := { window := [(60, [{ hostTask with desc := [], place := 3, target := 142 }])] } }

/-- A task whose descriptor is read. -/
def fetchedTask : Context :=
  { task := { hostTask with desc := [], fmts := [] }, phase := .fetch
    got := [(0x10, (BitVec.ofNat 1024 ((([(6, 0), (4, 1), (1, 16), (1, 24), (0x800, 32), (0x4000, 48)] : List (Nat × Nat)).map fun x => x.1 * 256 ^ x.2).sum), false))] }

/-- The same for a USER task of handle 255. -/
def fetchedUser : Context :=
  { fetchedTask with got := [(0x10, (BitVec.ofNat 1024 ((([(16, 0), (6, 1), (255, 3), (0x123, 16)] : List (Nat × Nat)).map fun x => x.1 * 256 ^ x.2).sum), false))] }

/-- Address space 1023 maps page 5 of its first 2 MiB by a leaf of 2 MiB. -/
def mapped : State :=
  let s := poke (poke (poke served 0x100 (State.leBytes (4 + 0x20000 * 2 ^ 64) 16)) 0x20000 (State.leBytes 0x40001 8)) 0x40000 (State.leBytes 0x1F 8)
  regsAt s [(F.ptuAs_asd, 1023, 2), (F.ptuAs_valid, 1023, 1)]
def aWalk (again : Bool) (restarts : Nat) : PWalk := ⟨1023, 5, [(142 * 8 + 7, 0x50000, 1)], none, restarts, again⟩
def walks (again : Bool) (restarts : Nat) : State := { mapped with ptu := { walks := [(127, aWalk again restarts)] } }
def asdRead (s : State) : State.Asd × State := s.readAsd 1023
/-- The expected generation is 8, and GEN is 4. -/
def behind : State :=
  let s := withCtx (walks false 0) (hostCtx (fetched Mo.nop 3 1 2))
  { s with ptu := { s.ptu with gen := [(1023, 8)] } }
def walkRead (s : State) : State.WalkEnd × State :=
  State.walkFrom (s.asdOf 1023).2 1023 (5 * 2 ^ 16) 3 0x20000 ((asdRead s).2.updWalk 127 fun w => { w with gen0 := some (4, 0x20000) })
def walkRead2 (s : State) : State.Asd × State := (walkRead s).2.readAsd 1023

/-- Extent 6 is the save area of partition 0; slot 0 is taken. -/
def savable (x : Context) : State :=
  { regsAt (withCtx served x) [(F.cluSave_extId, 0, 6), (F.cluSave_valid, 0, 1)] with
    home := { served.home with ext := served.home.ext ++ [(6, { state := .on, attr := { base := 1, count := 1 } })] } }
def slotTaken (s : State) : State := { s with clu := { s.clu with saved := [savedTask] } }

/-- A batch of one invalidation. -/
def batched : State :=
  { queued [] with ptu := { batch := [⟨60, 1023, 8, true, 0, 0, 0x1234⟩] } }

theorem witness_KernelRows_0_0 :
    (runs aReduce).quiet ∧ (runs aReduce).kernelDue 1 142 7 = some aReduce ∧ True ∧ aReduce.stage = 0
      ∧ aReduce.unit < State.unitsOf (aReduce.fld 24 8) unitElems
      ∧ planReduce aReduce (runs aReduce).free = KPlan.work (workOf (planReduce aReduce (runs aReduce).free)).1 (workOf (planReduce aReduce (runs aReduce).free)).2.1 (workOf (planReduce aReduce (runs aReduce).free)).2.2 := ⟨by decide +kernel, by decide +kernel, by decide +kernel, by decide +kernel, by decide +kernel, isWork_eq (by decide +kernel)⟩

theorem witness_KernelRows_0_1 :
    (runs (doneOf aReduce)).quiet ∧ (runs (doneOf aReduce)).kernelDue 1 142 7 = some (doneOf aReduce) ∧ True
      ∧ (doneOf aReduce).stage ≠ 0 ∧ (doneOf aReduce).puts = [] ∧ (runs (doneOf aReduce)).ctxOuts 142 7 = [] := by decide +kernel

theorem witness_KernelRows_0_2 :
    (runs (pastOf aReduce)).quiet ∧ (runs (pastOf aReduce)).kernelDue 1 142 7 = some (pastOf aReduce) ∧ True
      ∧ (pastOf aReduce).stage = 0 ∧ State.unitsOf ((pastOf aReduce).fld 24 8) unitElems ≤ (pastOf aReduce).unit
      ∧ (runs (pastOf aReduce)).ctxOuts 142 7 = [] ∧ (pastOf aReduce).task.queue = none := by decide +kernel

theorem witness_KernelRows_1_0 :
    (runs aScale).quiet ∧ (runs aScale).kernelDue 2 142 7 = some aScale ∧ True ∧ aScale.stage = 0
      ∧ aScale.unit < State.unitsOf (aScale.fld 16 8) unitElems
      ∧ planScaleAcc aScale = KPlan.work (workOf (planScaleAcc aScale)).1 (workOf (planScaleAcc aScale)).2.1 (workOf (planScaleAcc aScale)).2.2 := ⟨by decide +kernel, by decide +kernel, by decide +kernel, by decide +kernel, by decide +kernel, isWork_eq (by decide +kernel)⟩

theorem witness_KernelRows_1_1 :
    (runs (doneOf aScale)).quiet ∧ (runs (doneOf aScale)).kernelDue 2 142 7 = some (doneOf aScale) ∧ True
      ∧ (doneOf aScale).stage ≠ 0 ∧ (doneOf aScale).puts = [] ∧ (runs (doneOf aScale)).ctxOuts 142 7 = [] := by decide +kernel

theorem witness_KernelRows_1_2 :
    (runs (pastOf aScale)).quiet ∧ (runs (pastOf aScale)).kernelDue 2 142 7 = some (pastOf aScale) ∧ True
      ∧ (pastOf aScale).stage = 0 ∧ State.unitsOf ((pastOf aScale).fld 16 8) unitElems ≤ (pastOf aScale).unit
      ∧ (runs (pastOf aScale)).ctxOuts 142 7 = [] ∧ (pastOf aScale).task.queue = none := by decide +kernel

theorem witness_KernelRows_2_0 :
    (runs anOpt).quiet ∧ (runs anOpt).kernelDue 3 142 7 = some anOpt ∧ anOpt.txn = false ∧ anOpt.stage = 0
      ∧ anOpt.unit < State.unitsOf (anOpt.fld 16 8) unitElems
      ∧ planOpt anOpt (runs anOpt).free = KPlan.work (workOf (planOpt anOpt (runs anOpt).free)).1 (workOf (planOpt anOpt (runs anOpt).free)).2.1 (workOf (planOpt anOpt (runs anOpt).free)).2.2 := ⟨by decide +kernel, by decide +kernel, by decide +kernel, by decide +kernel, by decide +kernel, isWork_eq (by decide +kernel)⟩

theorem witness_KernelRows_2_1 :
    (runs (doneOf anOpt)).quiet ∧ (runs (doneOf anOpt)).kernelDue 3 142 7 = some (doneOf anOpt) ∧ (doneOf anOpt).txn = false
      ∧ (doneOf anOpt).stage ≠ 0 ∧ (doneOf anOpt).puts = [] ∧ (runs (doneOf anOpt)).ctxOuts 142 7 = [] := by decide +kernel

theorem witness_KernelRows_2_2 :
    (runs (pastOf anOpt)).quiet ∧ (runs (pastOf anOpt)).kernelDue 3 142 7 = some (pastOf anOpt) ∧ (pastOf anOpt).txn = false
      ∧ (pastOf anOpt).stage = 0 ∧ State.unitsOf ((pastOf anOpt).fld 16 8) unitElems ≤ (pastOf anOpt).unit
      ∧ (runs (pastOf anOpt)).ctxOuts 142 7 = [] ∧ (pastOf anOpt).task.queue = none := by decide +kernel

theorem witness_KernelRows_3_0 :
    (runs anAttn).quiet ∧ (runs anAttn).kernelDue 4 142 7 = some anAttn ∧ True ∧ anAttn.stage = 0
      ∧ anAttn.unit < anAttn.fld 20 1
      ∧ (planAttn { task := anAttn.task, phase := anAttn.phase, pc := anAttn.pc, sreg := anAttn.sreg, vreg := anAttn.vreg, gens := anAttn.gens, scratch := anAttn.scratch, parts := anAttn.parts, tx := anAttn.tx, poisoned := anAttn.poisoned, res0 := anAttn.res0, res1 := anAttn.res1, got := anAttn.got, kept := List.filterMap (fun (l : ℕ) => Option.map (fun (x : LineData × Bool) => (l, x)) (gotLine anAttn l)) (queryLines anAttn), puts := anAttn.puts, unit := anAttn.unit, stage := anAttn.stage, retries := anAttn.retries, aux := anAttn.aux : Context } (runs anAttn).free = KPlan.work (workOf (planAttn (queried anAttn) (runs anAttn).free)).1 (workOf (planAttn (queried anAttn) (runs anAttn).free)).2.1 (workOf (planAttn (queried anAttn) (runs anAttn).free)).2.2) := ⟨by decide +kernel, by decide +kernel, by decide +kernel, by decide +kernel, by decide +kernel, isWork_eq (p := planAttn (queried anAttn) (runs anAttn).free) (by decide +kernel)⟩

theorem witness_KernelRows_3_1 :
    (runs (doneOf anAttn)).quiet ∧ (runs (doneOf anAttn)).kernelDue 4 142 7 = some (doneOf anAttn) ∧ True
      ∧ (doneOf anAttn).stage ≠ 0 ∧ (doneOf anAttn).puts = [] ∧ (runs (doneOf anAttn)).ctxOuts 142 7 = [] := by decide +kernel

theorem witness_KernelRows_3_2 :
    (runs (pastOf anAttn)).quiet ∧ (runs (pastOf anAttn)).kernelDue 4 142 7 = some (pastOf anAttn) ∧ True
      ∧ (pastOf anAttn).stage = 0 ∧ (pastOf anAttn).fld 20 1 ≤ (pastOf anAttn).unit
      ∧ (runs (pastOf anAttn)).ctxOuts 142 7 = [] ∧ (pastOf anAttn).task.queue = none := by decide +kernel

theorem witness_KernelRows_4_0 :
    (runs aGather).quiet ∧ (runs aGather).kernelDue 5 142 7 = some aGather ∧ True ∧ aGather.stage = 0
      ∧ aGather.unit < aGather.fld 28 4
      ∧ planGather aGather (runs aGather).free = KPlan.work (workOf (planGather aGather (runs aGather).free)).1 (workOf (planGather aGather (runs aGather).free)).2.1 (workOf (planGather aGather (runs aGather).free)).2.2 := ⟨by decide +kernel, by decide +kernel, by decide +kernel, by decide +kernel, by decide +kernel, isWork_eq (by decide +kernel)⟩

theorem witness_KernelRows_4_1 :
    (runs (doneOf aGather)).quiet ∧ (runs (doneOf aGather)).kernelDue 5 142 7 = some (doneOf aGather) ∧ True
      ∧ (doneOf aGather).stage ≠ 0 ∧ (doneOf aGather).puts = [] ∧ (runs (doneOf aGather)).ctxOuts 142 7 = [] := by decide +kernel

theorem witness_KernelRows_4_2 :
    (runs (pastOf aGather)).quiet ∧ (runs (pastOf aGather)).kernelDue 5 142 7 = some (pastOf aGather) ∧ True
      ∧ (pastOf aGather).stage = 0 ∧ (pastOf aGather).fld 28 4 ≤ (pastOf aGather).unit
      ∧ (runs (pastOf aGather)).ctxOuts 142 7 = [] ∧ (pastOf aGather).task.queue = none := by decide +kernel

theorem witness_KernelRows_5_0 :
    (runs aQuantize).quiet ∧ (runs aQuantize).kernelDue 6 142 7 = some aQuantize ∧ True ∧ aQuantize.stage = 0
      ∧ aQuantize.unit < State.unitsOf (aQuantize.fld 16 8) unitElems
      ∧ planQuantize aQuantize = KPlan.work (workOf (planQuantize aQuantize)).1 (workOf (planQuantize aQuantize)).2.1 (workOf (planQuantize aQuantize)).2.2 := ⟨by decide +kernel, by decide +kernel, by decide +kernel, by decide +kernel, by decide +kernel, isWork_eq (by decide +kernel)⟩

theorem witness_KernelRows_5_1 :
    (runs (doneOf aQuantize)).quiet ∧ (runs (doneOf aQuantize)).kernelDue 6 142 7 = some (doneOf aQuantize) ∧ True
      ∧ (doneOf aQuantize).stage ≠ 0 ∧ (doneOf aQuantize).puts = [] ∧ (runs (doneOf aQuantize)).ctxOuts 142 7 = [] := by decide +kernel

theorem witness_KernelRows_5_2 :
    (runs (pastOf aQuantize)).quiet ∧ (runs (pastOf aQuantize)).kernelDue 6 142 7 = some (pastOf aQuantize) ∧ True
      ∧ (pastOf aQuantize).stage = 0 ∧ State.unitsOf ((pastOf aQuantize).fld 16 8) unitElems ≤ (pastOf aQuantize).unit
      ∧ (runs (pastOf aQuantize)).ctxOuts 142 7 = [] ∧ (pastOf aQuantize).task.queue = none := by decide +kernel

theorem witness_SweepAndUser_0 :
    (runs (aSweep 5)).quiet ∧ (runs (aSweep 5)).kernelDue 7 142 7 = some (aSweep 5) ∧ (aSweep 5).txn = false
      ∧ (aSweep 5).unit < (aSweep 5).fld 24 8
      ∧ (aSweep 5).got.look (casAddr (aSweep 5) (aSweep 5).unit / 128) = some (0, false)
      ∧ (∀ j < casInLine (aSweep 5) (aSweep 5).unit, (aSweep 5).aux ≤ (aSweep 5).unit + j → casHit (aSweep 5) (lineBits 0 (casAddr (aSweep 5) ((aSweep 5).unit + j) % 128) (8 * casW (aSweep 5))) = false)
      ∧ (runs (aSweep 5)).ctxOuts 142 7 = [] := by decide +kernel

theorem witness_SweepAndUser_1 :
    (runs (aSweep 0)).quiet ∧ (runs (aSweep 0)).kernelDue 7 142 7 = some (aSweep 0) ∧ (aSweep 0).txn = false
      ∧ (aSweep 0).tx = none ∧ (aSweep 0).unit < (aSweep 0).fld 24 8
      ∧ (aSweep 0).got.look (casAddr (aSweep 0) (aSweep 0).unit / 128) = some (0, false)
      ∧ (List.find? (fun (j : ℕ) => decide ((aSweep 0).aux ≤ (aSweep 0).unit + j) && casHit (aSweep 0) (lineBits 0 (casAddr (aSweep 0) ((aSweep 0).unit + j) % 128) (8 * casW (aSweep 0)))) (List.range (casInLine (aSweep 0) (aSweep 0).unit)) = some 0)
      ∧ ((runs (aSweep 0)).issued 142 7).translateAll 142 7 (aSweep 0) [casAddr (aSweep 0) ((aSweep 0).unit + 0)] 2 = (State.Xlat.ok [2048], runs (aSweep 0))
      ∧ (runs (aSweep 0)).mayIssue 142 7 1 = true ∧ (runs (aSweep 0)).lineBusy 142 7 2048 = false
      ∧ (runs (aSweep 0)).getCtx 142 7 = some (aSweep 0) ∧ (runs (aSweep 0)).quiet
      ∧ (runs (aSweep 0)).freeTag (State.coreLocal 142) = some (((runs (aSweep 0)).freeTag (State.coreLocal 142)).getD 0) := by decide +kernel

theorem witness_SweepAndUser_2_0 :
    (runs anOptTxn).quiet ∧ ((runs anOptTxn).kernelDue (match true with | true => 3 | false => 7) 142 7 = some anOptTxn)
      ∧ anOptTxn.txn = true ∧ anOptTxn.stage = 0
      ∧ (anOptTxn.unit < match true with | true => State.unitsOf (anOptTxn.fld 16 8) (anOptTxn.fld 26 2) | false => 1)
      ∧ (runs anOptTxn).ctxOuts 142 7 = [] ∧ ((runs anOptTxn).freeTag (State.coreLocal 142)).isSome = true := by decide +kernel

theorem witness_SweepAndUser_2_1 :
    (runs (atStage anOptTxn 6)).quiet
      ∧ ((runs (atStage anOptTxn 6)).kernelDue (match true with | true => 3 | false => 7) 142 7 = some (atStage anOptTxn 6))
      ∧ (atStage anOptTxn 6).txn = true ∧ (atStage anOptTxn 6).stage = 6 := by decide +kernel

theorem witness_SweepAndUser_2_0_a :
    (runs aSweepTxn).quiet ∧ ((runs aSweepTxn).kernelDue (match false with | true => 3 | false => 7) 142 7 = some aSweepTxn)
      ∧ aSweepTxn.txn = true ∧ aSweepTxn.stage = 0
      ∧ (aSweepTxn.unit < match false with | true => State.unitsOf (aSweepTxn.fld 16 8) (aSweepTxn.fld 26 2) | false => 1)
      ∧ (runs aSweepTxn).ctxOuts 142 7 = [] ∧ ((runs aSweepTxn).freeTag (State.coreLocal 142)).isSome = true := by decide +kernel

theorem witness_SweepAndUser_2_1_a :
    (runs (atStage aSweepTxn 6)).quiet
      ∧ ((runs (atStage aSweepTxn 6)).kernelDue (match false with | true => 3 | false => 7) 142 7 = some (atStage aSweepTxn 6))
      ∧ (atStage aSweepTxn 6).txn = true ∧ (atStage aSweepTxn 6).stage = 6 := by decide +kernel

theorem witness_SweepAndUser_3 :
    (withSeq (runs aUser)).quiet ∧ (withSeq (runs aUser)).kernelDue 16 142 7 = some aUser ∧ aUser.stage = 0 := by decide +kernel

theorem witness_SequenceAndFormatCommands_0_0 :
    (Tests.sequence 29 2).wf = true ∧ (Tests.sequence 29 2).quiet
      ∧ (Tests.sequence 29 2).accepts (wordWrite Path.root Reg.cluSeqCmd 0 0 (fieldIn (seqWord 255 2) 28 2 1))
      ∧ (Tests.sequence 29 2).flag F.cluSeqStatus_busy = false
      ∧ ((Tests.sequence 29 2).pathPartition Path.root = none ∨ (Tests.sequence 29 2).pathPartition Path.root = some (((Tests.sequence 29 2).stored (wordWrite Path.root Reg.cluSeqCmd 0 0 (fieldIn (seqWord 255 2) 28 2 1))).rd F.cluSeqCmd_partition))
      ∧ 1 ≤ ((Tests.sequence 29 2).stored (wordWrite Path.root Reg.cluSeqCmd 0 0 (fieldIn (seqWord 255 2) 28 2 1))).rd F.cluSeqCmd_length
      ∧ ((Tests.sequence 29 2).stored (wordWrite Path.root Reg.cluSeqCmd 0 0 (fieldIn (seqWord 255 2) 28 2 1))).rd F.cluSeqCmd_length ≤ 4096
      ∧ ((Tests.sequence 29 2).stored (wordWrite Path.root Reg.cluSeqCmd 0 0 (fieldIn (seqWord 255 2) 28 2 1))).rd F.cluSeqSrc_offset % 128 = 0
      ∧ (((Tests.sequence 29 2).stored (wordWrite Path.root Reg.cluSeqCmd 0 0 (fieldIn (seqWord 255 2) 28 2 1))).partitioned = true ∨ ((Tests.sequence 29 2).stored (wordWrite Path.root Reg.cluSeqCmd 0 0 (fieldIn (seqWord 255 2) 28 2 1))).rd F.cluSeqCmd_partition = 0)
      ∧ ((Tests.sequence 29 2).stored (wordWrite Path.root Reg.cluSeqCmd 0 0 (fieldIn (seqWord 255 2) 28 2 1))).seqs.look (((Tests.sequence 29 2).stored (wordWrite Path.root Reg.cluSeqCmd 0 0 (fieldIn (seqWord 255 2) 28 2 1))).rd F.cluSeqCmd_handle) = none
      ∧ (((Tests.sequence 29 2).stored (wordWrite Path.root Reg.cluSeqCmd 0 0 (fieldIn (seqWord 255 2) 28 2 1))).rd F.cluSeqCmd_length + 63) / 64 * 64 ≤ ((Tests.sequence 29 2).stored (wordWrite Path.root Reg.cluSeqCmd 0 0 (fieldIn (seqWord 255 2) 28 2 1))).rd F.cluSeqStatus_free
      ∧ State.seqRead (((Tests.sequence 29 2).stored (wordWrite Path.root Reg.cluSeqCmd 0 0 (fieldIn (seqWord 255 2) 28 2 1))).rd F.cluSeqCmd_partition) ((((Tests.sequence 29 2).stored (wordWrite Path.root Reg.cluSeqCmd 0 0 (fieldIn (seqWord 255 2) 28 2 1))).rd F.cluSeqCmd_length * 8 + 127) / 128) (((Tests.sequence 29 2).stored (wordWrite Path.root Reg.cluSeqCmd 0 0 (fieldIn (seqWord 255 2) 28 2 1))).rd F.cluSeqSrc_offset) [] ((Tests.sequence 29 2).stored (wordWrite Path.root Reg.cluSeqCmd 0 0 (fieldIn (seqWord 255 2) 28 2 1))) = (State.SeqRead.bytes (bytesOf (sourceRead (Tests.sequence 29 2) 2)), (sourceRead (Tests.sequence 29 2) 2).2)
      ∧ (sourceRead (Tests.sequence 29 2) 2).2.quiet
      ∧ (firstBroken (List.map (fun (i : ℕ) => Fmt.ofReg ((sourceRead (Tests.sequence 29 2) 2).2.stageReg Reg.engFmt i 0)) (List.range 64)) (((Tests.sequence 29 2).stored (wordWrite Path.root Reg.cluSeqCmd 0 0 (fieldIn (seqWord 255 2) 28 2 1))).rd F.cluSeqCmd_length) 0 (List.map (fun (i : ℕ) => BitVec.ofNat 64 (leNat (bytesOf (sourceRead (Tests.sequence 29 2) 2)) (8 * i) 8)) (List.range (((Tests.sequence 29 2).stored (wordWrite Path.root Reg.cluSeqCmd 0 0 (fieldIn (seqWord 255 2) 28 2 1))).rd F.cluSeqCmd_length))) = none) := by decide +kernel

theorem witness_SequenceAndFormatCommands_0_1 :
    (Tests.sequence 0 2).wf = true ∧ (Tests.sequence 0 2).quiet
      ∧ (Tests.sequence 0 2).accepts (wordWrite Path.root Reg.cluSeqCmd 0 0 (fieldIn (seqWord 255 2) 28 2 1))
      ∧ (Tests.sequence 0 2).flag F.cluSeqStatus_busy = false
      ∧ ((Tests.sequence 0 2).pathPartition Path.root = none ∨ (Tests.sequence 0 2).pathPartition Path.root = some (((Tests.sequence 0 2).stored (wordWrite Path.root Reg.cluSeqCmd 0 0 (fieldIn (seqWord 255 2) 28 2 1))).rd F.cluSeqCmd_partition))
      ∧ 1 ≤ ((Tests.sequence 0 2).stored (wordWrite Path.root Reg.cluSeqCmd 0 0 (fieldIn (seqWord 255 2) 28 2 1))).rd F.cluSeqCmd_length
      ∧ ((Tests.sequence 0 2).stored (wordWrite Path.root Reg.cluSeqCmd 0 0 (fieldIn (seqWord 255 2) 28 2 1))).rd F.cluSeqCmd_length ≤ 4096
      ∧ ((Tests.sequence 0 2).stored (wordWrite Path.root Reg.cluSeqCmd 0 0 (fieldIn (seqWord 255 2) 28 2 1))).rd F.cluSeqSrc_offset % 128 = 0
      ∧ (((Tests.sequence 0 2).stored (wordWrite Path.root Reg.cluSeqCmd 0 0 (fieldIn (seqWord 255 2) 28 2 1))).partitioned = true ∨ ((Tests.sequence 0 2).stored (wordWrite Path.root Reg.cluSeqCmd 0 0 (fieldIn (seqWord 255 2) 28 2 1))).rd F.cluSeqCmd_partition = 0)
      ∧ ((Tests.sequence 0 2).stored (wordWrite Path.root Reg.cluSeqCmd 0 0 (fieldIn (seqWord 255 2) 28 2 1))).seqs.look (((Tests.sequence 0 2).stored (wordWrite Path.root Reg.cluSeqCmd 0 0 (fieldIn (seqWord 255 2) 28 2 1))).rd F.cluSeqCmd_handle) = none
      ∧ (((Tests.sequence 0 2).stored (wordWrite Path.root Reg.cluSeqCmd 0 0 (fieldIn (seqWord 255 2) 28 2 1))).rd F.cluSeqCmd_length + 63) / 64 * 64 ≤ ((Tests.sequence 0 2).stored (wordWrite Path.root Reg.cluSeqCmd 0 0 (fieldIn (seqWord 255 2) 28 2 1))).rd F.cluSeqStatus_free
      ∧ State.seqRead (((Tests.sequence 0 2).stored (wordWrite Path.root Reg.cluSeqCmd 0 0 (fieldIn (seqWord 255 2) 28 2 1))).rd F.cluSeqCmd_partition) ((((Tests.sequence 0 2).stored (wordWrite Path.root Reg.cluSeqCmd 0 0 (fieldIn (seqWord 255 2) 28 2 1))).rd F.cluSeqCmd_length * 8 + 127) / 128) (((Tests.sequence 0 2).stored (wordWrite Path.root Reg.cluSeqCmd 0 0 (fieldIn (seqWord 255 2) 28 2 1))).rd F.cluSeqSrc_offset) [] ((Tests.sequence 0 2).stored (wordWrite Path.root Reg.cluSeqCmd 0 0 (fieldIn (seqWord 255 2) 28 2 1))) = (State.SeqRead.bytes (bytesOf (sourceRead (Tests.sequence 0 2) 2)), (sourceRead (Tests.sequence 0 2) 2).2)
      ∧ (sourceRead (Tests.sequence 0 2) 2).2.quiet
      ∧ (firstBroken (List.map (fun (i : ℕ) => Fmt.ofReg ((sourceRead (Tests.sequence 0 2) 2).2.stageReg Reg.engFmt i 0)) (List.range 64)) (((Tests.sequence 0 2).stored (wordWrite Path.root Reg.cluSeqCmd 0 0 (fieldIn (seqWord 255 2) 28 2 1))).rd F.cluSeqCmd_length) 0 (List.map (fun (i : ℕ) => BitVec.ofNat 64 (leNat (bytesOf (sourceRead (Tests.sequence 0 2) 2)) (8 * i) 8)) (List.range (((Tests.sequence 0 2).stored (wordWrite Path.root Reg.cluSeqCmd 0 0 (fieldIn (seqWord 255 2) 28 2 1))).rd F.cluSeqCmd_length))) = some (1, 8)) := by decide +kernel

theorem witness_SequenceAndFormatCommands_1_0 :
    (withSeq served).wf = true ∧ (withSeq served).quiet
      ∧ (withSeq served).accepts (wordWrite Path.root Reg.cluSeqCmd 0 0 (fieldIn (seqWord 255 1) 28 2 2))
      ∧ (withSeq served).flag F.cluSeqStatus_busy = false
      ∧ ((withSeq served).pathPartition Path.root = none ∨ (withSeq served).pathPartition Path.root = some (((withSeq served).stored (wordWrite Path.root Reg.cluSeqCmd 0 0 (fieldIn (seqWord 255 1) 28 2 2))).rd F.cluSeqCmd_partition))
      ∧ ((withSeq served).stored (wordWrite Path.root Reg.cluSeqCmd 0 0 (fieldIn (seqWord 255 1) 28 2 2))).seqNamed (((withSeq served).stored (wordWrite Path.root Reg.cluSeqCmd 0 0 (fieldIn (seqWord 255 1) 28 2 2))).rd F.cluSeqCmd_handle) = false := by decide +kernel

theorem witness_SequenceAndFormatCommands_1_1 :
    (withSeq (runs aUser)).wf = true ∧ (withSeq (runs aUser)).quiet
      ∧ (withSeq (runs aUser)).accepts (wordWrite Path.root Reg.cluSeqCmd 0 0 (fieldIn (seqWord 255 1) 28 2 2))
      ∧ (withSeq (runs aUser)).flag F.cluSeqStatus_busy = false
      ∧ ((withSeq (runs aUser)).pathPartition Path.root = none ∨ (withSeq (runs aUser)).pathPartition Path.root = some (((withSeq (runs aUser)).stored (wordWrite Path.root Reg.cluSeqCmd 0 0 (fieldIn (seqWord 255 1) 28 2 2))).rd F.cluSeqCmd_partition))
      ∧ ((withSeq (runs aUser)).stored (wordWrite Path.root Reg.cluSeqCmd 0 0 (fieldIn (seqWord 255 1) 28 2 2))).seqNamed (((withSeq (runs aUser)).stored (wordWrite Path.root Reg.cluSeqCmd 0 0 (fieldIn (seqWord 255 1) 28 2 2))).rd F.cluSeqCmd_handle) = true := by decide +kernel

theorem witness_SequenceAndFormatCommands_2_1 :
    (fmtHeld 0).wf = true ∧ (fmtHeld 0).quiet ∧ 16 ≤ 63
      ∧ (fmtHeld 0).turnedAway Path.root (State.nodeOffset Reg.engFmt 63 3) true = none
      ∧ (fmtHeld 0).secure Path.root Reg.engFmt = true ∧ (fmtHeld 0).unitOff Reg.engFmt 63 = false
      ∧ (fmtHeld 0).formatOk (BitVec.ofNat 128 (0 + 0 * 2 ^ 32 + 8 * 2 ^ 64)) = false := by decide +kernel

theorem witness_SequenceAndFormatCommands_2_0 :
    (fmtHeld (builtinFmts.getD 1 0)).wf = true ∧ (fmtHeld (builtinFmts.getD 1 0)).quiet ∧ 16 ≤ 16
      ∧ (fmtHeld (builtinFmts.getD 1 0)).turnedAway Path.root (State.nodeOffset Reg.engFmt 16 3) true = none
      ∧ (fmtHeld (builtinFmts.getD 1 0)).secure Path.root Reg.engFmt = true
      ∧ (fmtHeld (builtinFmts.getD 1 0)).unitOff Reg.engFmt 16 = false
      ∧ (fmtHeld (builtinFmts.getD 1 0)).formatOk (BitVec.ofNat 128 (10817552 + 15 * 2 ^ 32 + 0 * 2 ^ 64)) = true := by decide +kernel

theorem witness_SubmissionEntries_0 :
    Reads (queued [(1, 0), (3, 1), (143, 2), (16, 8), (4294967295, 16)]) 3 60 (seOf (readOf (queued [(1, 0), (3, 1), (143, 2), (16, 8), (4294967295, 16)]))) (readOf (queued [(1, 0), (3, 1), (143, 2), (16, 8), (4294967295, 16)])).2
      ∧ State.entryOk (seOf (readOf (queued [(1, 0), (3, 1), (143, 2), (16, 8), (4294967295, 16)]))) = true
      ∧ State.seType (seOf (readOf (queued [(1, 0), (3, 1), (143, 2), (16, 8), (4294967295, 16)]))) = 1 := by decide +kernel

theorem witness_SubmissionEntries_1 :
    Reads (queued [(2, 0), (1, 1), (8, 4), (65536, 8), (1, 16), (77, 24)]) 3 60 (seOf (readOf (queued [(2, 0), (1, 1), (8, 4), (65536, 8), (1, 16), (77, 24)]))) (readOf (queued [(2, 0), (1, 1), (8, 4), (65536, 8), (1, 16), (77, 24)])).2
      ∧ State.entryOk (seOf (readOf (queued [(2, 0), (1, 1), (8, 4), (65536, 8), (1, 16), (77, 24)]))) = true
      ∧ State.seType (seOf (readOf (queued [(2, 0), (1, 1), (8, 4), (65536, 8), (1, 16), (77, 24)]))) = 2
      ∧ (queued [(2, 0), (1, 1), (8, 4), (65536, 8), (1, 16), (77, 24)]).ptu.batch = [] := by decide +kernel

theorem witness_SubmissionEntries_2 :
    Reads (withSaved (queued [(3, 0), (245775, 4), (77, 24)]) savedTask) 3 60 (seOf (readOf (queued [(3, 0), (245775, 4), (77, 24)]))) (readOf (withSaved (queued [(3, 0), (245775, 4), (77, 24)]) savedTask)).2
      ∧ State.entryOk (seOf (readOf (queued [(3, 0), (245775, 4), (77, 24)]))) = true
      ∧ State.seType (seOf (readOf (queued [(3, 0), (245775, 4), (77, 24)]))) = 3
      ∧ (withSaved (queued [(3, 0), (245775, 4), (77, 24)]) savedTask).clu.saved = [savedTask]
      ∧ savedTask.partition = (withSaved (queued [(3, 0), (245775, 4), (77, 24)]) savedTask).rd F.cluQcfg_partition 60
      ∧ savedTask.ctx.task.id = State.seArg (seOf (readOf (queued [(3, 0), (245775, 4), (77, 24)])))
      ∧ savedTask.moving = false ∧ savedTask.ctx.phase = CtxPhase.waiting
      ∧ (withSaved (queued [(3, 0), (245775, 4), (77, 24)]) savedTask).recorded savedTask.ctx.task.id = true := by decide +kernel

theorem witness_SubmissionEntries_3 :
    Reads (withCtx (queued [(4, 0), (245775, 4), (77, 24)]) (hostCtx (fetched Mo.nop 3 1 2))) 3 60 (seOf (readOf (queued [(4, 0), (245775, 4), (77, 24)]))) (readOf (withCtx (queued [(4, 0), (245775, 4), (77, 24)]) (hostCtx (fetched Mo.nop 3 1 2)))).2
      ∧ State.entryOk (seOf (readOf (queued [(4, 0), (245775, 4), (77, 24)]))) = true
      ∧ State.seType (seOf (readOf (queued [(4, 0), (245775, 4), (77, 24)]))) = 4
      ∧ (withCtx (queued [(4, 0), (245775, 4), (77, 24)]) (hostCtx (fetched Mo.nop 3 1 2))).taskCtx ((withCtx (queued [(4, 0), (245775, 4), (77, 24)]) (hostCtx (fetched Mo.nop 3 1 2))).rd F.cluQcfg_partition 60) (State.seArg (seOf (readOf (queued [(4, 0), (245775, 4), (77, 24)])))) = some (142, 7, hostCtx (fetched Mo.nop 3 1 2))
      ∧ (hostCtx (fetched Mo.nop 3 1 2)).phase = CtxPhase.run
      ∧ (withCtx (queued [(4, 0), (245775, 4), (77, 24)]) (hostCtx (fetched Mo.nop 3 1 2))).ctxOuts 142 7 = []
      ∧ (hostCtx (fetched Mo.nop 3 1 2)).tx = none ∧ (hostCtx (fetched Mo.nop 3 1 2)).task.queue = some 60
      ∧ (withCtx (queued [(4, 0), (245775, 4), (77, 24)]) (hostCtx (fetched Mo.nop 3 1 2))).revoking ((withCtx (queued [(4, 0), (245775, 4), (77, 24)]) (hostCtx (fetched Mo.nop 3 1 2))).rd F.cluQcfg_partition 60) = false
      ∧ (withCtx (queued [(4, 0), (245775, 4), (77, 24)]) (hostCtx (fetched Mo.nop 3 1 2))).clu.ctx.sorted = true ∧ 7 < 8 := by decide +kernel

theorem witness_TasksStartAndEnd_0_0 :
    windowed.wf = true ∧ windowed.quiet ∧ (∀ v ∈ windowed.clu.saved, v.moving = false) ∧ windowed.clu.window.sorted = true
      ∧ windowed.clu.window.lookD 60 [] = [{ id := hostTask.id, queue := hostTask.queue, plan := hostTask.plan, partition := hostTask.partition, asid := hostTask.asid, principal := hostTask.principal, place := 3, target := 142, addr := hostTask.addr, seed := hostTask.seed, fmts := hostTask.fmts, prog := hostTask.prog : Machine.Task }]
      ∧ windowed.placeOn { id := hostTask.id, queue := hostTask.queue, plan := hostTask.plan, partition := hostTask.partition, asid := hostTask.asid, principal := hostTask.principal, place := 3, target := 142, addr := hostTask.addr, seed := hostTask.seed, fmts := hostTask.fmts, prog := hostTask.prog : Machine.Task }.partition { id := hostTask.id, queue := hostTask.queue, plan := hostTask.plan, partition := hostTask.partition, asid := hostTask.asid, principal := hostTask.principal, place := 3, target := 142, addr := hostTask.addr, seed := hostTask.seed, fmts := hostTask.fmts, prog := hostTask.prog : Machine.Task }.place { id := hostTask.id, queue := hostTask.queue, plan := hostTask.plan, partition := hostTask.partition, asid := hostTask.asid, principal := hostTask.principal, place := 3, target := 142, addr := hostTask.addr, seed := hostTask.seed, fmts := hostTask.fmts, prog := hostTask.prog : Machine.Task }.target = some (142, 0)
      ∧ { id := hostTask.id, queue := hostTask.queue, plan := hostTask.plan, partition := hostTask.partition, asid := hostTask.asid, principal := hostTask.principal, place := 3, target := 142, addr := hostTask.addr, seed := hostTask.seed, fmts := hostTask.fmts, prog := hostTask.prog : Machine.Task }.addr < 2 ^ 57
      ∧ { id := hostTask.id, queue := hostTask.queue, plan := hostTask.plan, partition := hostTask.partition, asid := hostTask.asid, principal := hostTask.principal, place := 3, target := 142, addr := hostTask.addr, seed := hostTask.seed, fmts := hostTask.fmts, prog := hostTask.prog : Machine.Task }.plan = none
      ∧ windowed.clu.gated.contains 142 = false ∧ windowed.flag F.corPfCtrl_en 142 = false
      ∧ windowed.clu.buf.lookD (142 / 9) [] = [] := by decide +kernel

theorem witness_TasksStartAndEnd_0_1 :
    (runs fetchedTask).wf = true ∧ (runs fetchedTask).quiet ∧ (runs fetchedTask).getCtx 142 7 = some fetchedTask
      ∧ fetchedTask.phase = CtxPhase.fetch ∧ (runs fetchedTask).coreRuns 142 = true
      ∧ (∀ l ∈ State.descLines fetchedTask, Option.map (fun (x : LineData × Bool) => x.2) (fetchedTask.got.look l) = some false)
      ∧ descOk (((runs fetchedTask).setCtx 142 7 ((runs fetchedTask).startCtx 142 fetchedTask (gotBytes fetchedTask fetchedTask.task.addr (max 16 (16 * leNat (gotBytes fetchedTask (fetchedTask.task.addr + 1) 1) 0 1))))).clearFlags 142 7) ((runs fetchedTask).startCtx 142 fetchedTask (gotBytes fetchedTask fetchedTask.task.addr (max 16 (16 * leNat (gotBytes fetchedTask (fetchedTask.task.addr + 1) 1) 0 1)))) = true := by decide +kernel

theorem witness_TasksStartAndEnd_0_1_7 :
    (withSeq (runs fetchedUser)).wf = true ∧ (withSeq (runs fetchedUser)).quiet
      ∧ (withSeq (runs fetchedUser)).getCtx 142 7 = some fetchedUser ∧ fetchedUser.phase = CtxPhase.fetch
      ∧ (withSeq (runs fetchedUser)).coreRuns 142 = true
      ∧ (∀ l ∈ State.descLines fetchedUser, Option.map (fun (x : LineData × Bool) => x.2) (fetchedUser.got.look l) = some false)
      ∧ descOk (((withSeq (runs fetchedUser)).setCtx 142 7 ((withSeq (runs fetchedUser)).startCtx 142 fetchedUser (gotBytes fetchedUser fetchedUser.task.addr (max 16 (16 * leNat (gotBytes fetchedUser (fetchedUser.task.addr + 1) 1) 0 1))))).clearFlags 142 7) ((withSeq (runs fetchedUser)).startCtx 142 fetchedUser (gotBytes fetchedUser fetchedUser.task.addr (max 16 (16 * leNat (gotBytes fetchedUser (fetchedUser.task.addr + 1) 1) 0 1)))) = true
      ∧ ((withSeq (runs fetchedUser)).startCtx 142 fetchedUser (gotBytes fetchedUser fetchedUser.task.addr (max 16 (16 * leNat (gotBytes fetchedUser (fetchedUser.task.addr + 1) 1) 0 1)))).kind = 16
      ∧ (withSeq (runs fetchedUser)).seqs.look (((withSeq (runs fetchedUser)).startCtx 142 fetchedUser (gotBytes fetchedUser fetchedUser.task.addr (max 16 (16 * leNat (gotBytes fetchedUser (fetchedUser.task.addr + 1) 1) 0 1)))).fld 3 1) = some { partition := 0, prog := [29, 29] : Machine.Seq } := by decide +kernel

theorem witness_TasksStartAndEnd_1_0 :
    (withCtx (queued []) (hostCtx (fetched Mo.endTask 3 1 2))).wf = true
      ∧ Due (withCtx (queued []) (hostCtx (fetched Mo.endTask 3 1 2))) Mo.endTask 142 7 (fetched Mo.endTask 3 1 2) (hostCtx (fetched Mo.endTask 3 1 2))
      ∧ (withCtx (queued []) (hostCtx (fetched Mo.endTask 3 1 2))).ctxOuts 142 7 = []
      ∧ (hostCtx (fetched Mo.endTask 3 1 2)).task.queue = some 60
      ∧ (withCtx (queued []) (hostCtx (fetched Mo.endTask 3 1 2))).revoking (hostCtx (fetched Mo.endTask 3 1 2)).task.partition = false
      ∧ (withCtx (queued []) (hostCtx (fetched Mo.endTask 3 1 2))).clu.ctx.sorted = true
      ∧ (withCtx (queued []) (hostCtx (fetched Mo.endTask 3 1 2))).clu.reserved.sorted = true
      ∧ (withCtx (queued []) (hostCtx (fetched Mo.endTask 3 1 2))).rd F.cluQcfg_size 60 ≤ 12 ∧ 60 < 64 := by decide +kernel

theorem witness_TasksStartAndEnd_1_1 :
    (runs (userCtx (fetched Mo.endTask 3 1 2))).wf = true
      ∧ Due (runs (userCtx (fetched Mo.endTask 3 1 2))) Mo.endTask 142 7 (fetched Mo.endTask 3 1 2) (userCtx (fetched Mo.endTask 3 1 2))
      ∧ (runs (userCtx (fetched Mo.endTask 3 1 2))).ctxOuts 142 7 = []
      ∧ (userCtx (fetched Mo.endTask 3 1 2)).task.queue = none := by decide +kernel

theorem witness_Walks_0 :
    (walks false 0).wf = true ∧ (walks false 0).quiet ∧ (walks false 0).ptu.walks.look (32 * 3 + 31) = some (aWalk false 0)
      ∧ (aWalk false 0).again = false
      ∧ ((aWalk false 0).gen0 = none ∧ (walks false 0).readAsd (aWalk false 0).asid = (State.Asd.ok 4 131072, (asdRead (walks false 0)).2) ∨ (aWalk false 0).gen0 = some (4, 131072) ∧ (asdRead (walks false 0)).2 = walks false 0)
      ∧ State.genBehind ((asdRead (walks false 0)).2.ptu.gen.lookD (aWalk false 0).asid 0) 4 = false ∧ 4 % 2 = 0
      ∧ (State.walkFrom ((walks false 0).asdOf (aWalk false 0).asid).2 (aWalk false 0).asid ((aWalk false 0).page * 2 ^ 16) 3 131072 ((asdRead (walks false 0)).2.updWalk (32 * 3 + 31) fun (w : PWalk) => { asid := w.asid, page := w.page, waiters := w.waiters, gen0 := some (4, 131072), restarts := w.restarts, again := w.again : PWalk }) = (State.WalkEnd.leaf { asid := 1023, level := 2, page := 0, addr := 0, r := true, w := true, a := true : TcEntry }, (walkRead (walks false 0)).2))
      ∧ (walkRead (walks false 0)).2.readAsd (aWalk false 0).asid = (State.Asd.ok 4 131072, (walkRead2 (walks false 0)).2)
      ∧ State.genBehind ((walkRead2 (walks false 0)).2.ptu.gen.lookD (aWalk false 0).asid 0) 4 = false
      ∧ (walkRead2 (walks false 0)).2.quiet ∧ (aWalk false 0).waiters = [(142 * 8 + 7, 327680, 1)] ∧ 142 * 8 + 7 < 1152
      ∧ State.TcEntry.covers { asid := 1023, level := 2, page := 0, addr := 0, r := true, w := true, a := true : TcEntry } (aWalk false 0).asid 327680 1 = true
      ∧ { asid := 1023, level := 2, page := 0, addr := 0, r := true, w := true, a := true : TcEntry }.asid = (aWalk false 0).asid := by decide +kernel

theorem witness_Walks_1 :
    behind.wf = true ∧ behind.quiet ∧ behind.ptu.walks.look (32 * 3 + 31) = some (aWalk false 0)
      ∧ (aWalk false 0).again = false ∧ (aWalk false 0).gen0 = none
      ∧ behind.readAsd (aWalk false 0).asid = (State.Asd.ok 4 131072, (asdRead behind).2) ∧ (asdRead behind).2.quiet
      ∧ State.genBehind ((asdRead behind).2.ptu.gen.lookD (aWalk false 0).asid 0) 4 = true
      ∧ (aWalk false 0).waiters = [(142 * 8 + 7, 327680, 1)] ∧ 142 * 8 + 7 < 1152
      ∧ (asdRead behind).2.getCtx ((142 * 8 + 7) / 8) ((142 * 8 + 7) % 8) = some (hostCtx (fetched Mo.nop 3 1 2))
      ∧ (hostCtx (fetched Mo.nop 3 1 2)).phase = CtxPhase.run := by decide +kernel

theorem witness_Walks_2_0 :
    (walks true 0).wf = true ∧ (walks true 0).quiet ∧ (walks true 0).ptu.walks.look (32 * 3 + 31) = some (aWalk true 0)
      ∧ (aWalk true 0).again = true ∧ (aWalk true 0).restarts < (walks true 0).rd F.ptuCtrl_genRetry
      ∧ (walks true 0).readAsd (aWalk true 0).asid = (State.Asd.ok 4 131072, (asdRead (walks true 0)).2)
      ∧ (asdRead (walks true 0)).2.quiet
      ∧ State.genBehind ((asdRead (walks true 0)).2.ptu.gen.lookD (aWalk true 0).asid 0) 4 = false := by decide +kernel

theorem witness_Walks_2_1 :
    (withCtx (walks true 255) (hostCtx (fetched Mo.nop 3 1 2))).wf = true
      ∧ (withCtx (walks true 255) (hostCtx (fetched Mo.nop 3 1 2))).quiet
      ∧ (withCtx (walks true 255) (hostCtx (fetched Mo.nop 3 1 2))).ptu.walks.look (32 * 3 + 31) = some (aWalk true 255)
      ∧ (aWalk true 255).again = true
      ∧ (withCtx (walks true 255) (hostCtx (fetched Mo.nop 3 1 2))).rd F.ptuCtrl_genRetry ≤ (aWalk true 255).restarts
      ∧ (aWalk true 255).waiters = [(142 * 8 + 7, 327680, 1)] ∧ 142 * 8 + 7 < 1152
      ∧ (withCtx (walks true 255) (hostCtx (fetched Mo.nop 3 1 2))).getCtx ((142 * 8 + 7) / 8) ((142 * 8 + 7) % 8) = some (hostCtx (fetched Mo.nop 3 1 2))
      ∧ (hostCtx (fetched Mo.nop 3 1 2)).phase = CtxPhase.run := by decide +kernel

theorem witness_SaveAndDrain_0 :
    (slotTaken (savable { task := (hostCtx (fetched Mo.nop 3 1 2)).task, phase := CtxPhase.fault 1 327680 false, pc := (hostCtx (fetched Mo.nop 3 1 2)).pc, sreg := (hostCtx (fetched Mo.nop 3 1 2)).sreg, vreg := (hostCtx (fetched Mo.nop 3 1 2)).vreg, gens := (hostCtx (fetched Mo.nop 3 1 2)).gens, scratch := (hostCtx (fetched Mo.nop 3 1 2)).scratch, parts := (hostCtx (fetched Mo.nop 3 1 2)).parts, tx := (hostCtx (fetched Mo.nop 3 1 2)).tx, poisoned := (hostCtx (fetched Mo.nop 3 1 2)).poisoned, res0 := (hostCtx (fetched Mo.nop 3 1 2)).res0, res1 := (hostCtx (fetched Mo.nop 3 1 2)).res1, got := (hostCtx (fetched Mo.nop 3 1 2)).got, kept := (hostCtx (fetched Mo.nop 3 1 2)).kept, puts := (hostCtx (fetched Mo.nop 3 1 2)).puts, unit := (hostCtx (fetched Mo.nop 3 1 2)).unit, stage := (hostCtx (fetched Mo.nop 3 1 2)).stage, retries := (hostCtx (fetched Mo.nop 3 1 2)).retries, aux := (hostCtx (fetched Mo.nop 3 1 2)).aux : Context })).wf = true
      ∧ (slotTaken (savable { task := (hostCtx (fetched Mo.nop 3 1 2)).task, phase := CtxPhase.fault 1 327680 false, pc := (hostCtx (fetched Mo.nop 3 1 2)).pc, sreg := (hostCtx (fetched Mo.nop 3 1 2)).sreg, vreg := (hostCtx (fetched Mo.nop 3 1 2)).vreg, gens := (hostCtx (fetched Mo.nop 3 1 2)).gens, scratch := (hostCtx (fetched Mo.nop 3 1 2)).scratch, parts := (hostCtx (fetched Mo.nop 3 1 2)).parts, tx := (hostCtx (fetched Mo.nop 3 1 2)).tx, poisoned := (hostCtx (fetched Mo.nop 3 1 2)).poisoned, res0 := (hostCtx (fetched Mo.nop 3 1 2)).res0, res1 := (hostCtx (fetched Mo.nop 3 1 2)).res1, got := (hostCtx (fetched Mo.nop 3 1 2)).got, kept := (hostCtx (fetched Mo.nop 3 1 2)).kept, puts := (hostCtx (fetched Mo.nop 3 1 2)).puts, unit := (hostCtx (fetched Mo.nop 3 1 2)).unit, stage := (hostCtx (fetched Mo.nop 3 1 2)).stage, retries := (hostCtx (fetched Mo.nop 3 1 2)).retries, aux := (hostCtx (fetched Mo.nop 3 1 2)).aux : Context })).quiet
      ∧ (slotTaken (savable { task := (hostCtx (fetched Mo.nop 3 1 2)).task, phase := CtxPhase.fault 1 327680 false, pc := (hostCtx (fetched Mo.nop 3 1 2)).pc, sreg := (hostCtx (fetched Mo.nop 3 1 2)).sreg, vreg := (hostCtx (fetched Mo.nop 3 1 2)).vreg, gens := (hostCtx (fetched Mo.nop 3 1 2)).gens, scratch := (hostCtx (fetched Mo.nop 3 1 2)).scratch, parts := (hostCtx (fetched Mo.nop 3 1 2)).parts, tx := (hostCtx (fetched Mo.nop 3 1 2)).tx, poisoned := (hostCtx (fetched Mo.nop 3 1 2)).poisoned, res0 := (hostCtx (fetched Mo.nop 3 1 2)).res0, res1 := (hostCtx (fetched Mo.nop 3 1 2)).res1, got := (hostCtx (fetched Mo.nop 3 1 2)).got, kept := (hostCtx (fetched Mo.nop 3 1 2)).kept, puts := (hostCtx (fetched Mo.nop 3 1 2)).puts, unit := (hostCtx (fetched Mo.nop 3 1 2)).unit, stage := (hostCtx (fetched Mo.nop 3 1 2)).stage, retries := (hostCtx (fetched Mo.nop 3 1 2)).retries, aux := (hostCtx (fetched Mo.nop 3 1 2)).aux : Context })).getCtx 142 7 = some { task := (hostCtx (fetched Mo.nop 3 1 2)).task, phase := CtxPhase.fault 1 327680 false, pc := (hostCtx (fetched Mo.nop 3 1 2)).pc, sreg := (hostCtx (fetched Mo.nop 3 1 2)).sreg, vreg := (hostCtx (fetched Mo.nop 3 1 2)).vreg, gens := (hostCtx (fetched Mo.nop 3 1 2)).gens, scratch := (hostCtx (fetched Mo.nop 3 1 2)).scratch, parts := (hostCtx (fetched Mo.nop 3 1 2)).parts, tx := (hostCtx (fetched Mo.nop 3 1 2)).tx, poisoned := (hostCtx (fetched Mo.nop 3 1 2)).poisoned, res0 := (hostCtx (fetched Mo.nop 3 1 2)).res0, res1 := (hostCtx (fetched Mo.nop 3 1 2)).res1, got := (hostCtx (fetched Mo.nop 3 1 2)).got, kept := (hostCtx (fetched Mo.nop 3 1 2)).kept, puts := (hostCtx (fetched Mo.nop 3 1 2)).puts, unit := (hostCtx (fetched Mo.nop 3 1 2)).unit, stage := (hostCtx (fetched Mo.nop 3 1 2)).stage, retries := (hostCtx (fetched Mo.nop 3 1 2)).retries, aux := (hostCtx (fetched Mo.nop 3 1 2)).aux : Context }
      ∧ { task := (hostCtx (fetched Mo.nop 3 1 2)).task, phase := CtxPhase.fault 1 327680 false, pc := (hostCtx (fetched Mo.nop 3 1 2)).pc, sreg := (hostCtx (fetched Mo.nop 3 1 2)).sreg, vreg := (hostCtx (fetched Mo.nop 3 1 2)).vreg, gens := (hostCtx (fetched Mo.nop 3 1 2)).gens, scratch := (hostCtx (fetched Mo.nop 3 1 2)).scratch, parts := (hostCtx (fetched Mo.nop 3 1 2)).parts, tx := (hostCtx (fetched Mo.nop 3 1 2)).tx, poisoned := (hostCtx (fetched Mo.nop 3 1 2)).poisoned, res0 := (hostCtx (fetched Mo.nop 3 1 2)).res0, res1 := (hostCtx (fetched Mo.nop 3 1 2)).res1, got := (hostCtx (fetched Mo.nop 3 1 2)).got, kept := (hostCtx (fetched Mo.nop 3 1 2)).kept, puts := (hostCtx (fetched Mo.nop 3 1 2)).puts, unit := (hostCtx (fetched Mo.nop 3 1 2)).unit, stage := (hostCtx (fetched Mo.nop 3 1 2)).stage, retries := (hostCtx (fetched Mo.nop 3 1 2)).retries, aux := (hostCtx (fetched Mo.nop 3 1 2)).aux : Context }.phase = CtxPhase.fault 1 327680 false
      ∧ (slotTaken (savable { task := (hostCtx (fetched Mo.nop 3 1 2)).task, phase := CtxPhase.fault 1 327680 false, pc := (hostCtx (fetched Mo.nop 3 1 2)).pc, sreg := (hostCtx (fetched Mo.nop 3 1 2)).sreg, vreg := (hostCtx (fetched Mo.nop 3 1 2)).vreg, gens := (hostCtx (fetched Mo.nop 3 1 2)).gens, scratch := (hostCtx (fetched Mo.nop 3 1 2)).scratch, parts := (hostCtx (fetched Mo.nop 3 1 2)).parts, tx := (hostCtx (fetched Mo.nop 3 1 2)).tx, poisoned := (hostCtx (fetched Mo.nop 3 1 2)).poisoned, res0 := (hostCtx (fetched Mo.nop 3 1 2)).res0, res1 := (hostCtx (fetched Mo.nop 3 1 2)).res1, got := (hostCtx (fetched Mo.nop 3 1 2)).got, kept := (hostCtx (fetched Mo.nop 3 1 2)).kept, puts := (hostCtx (fetched Mo.nop 3 1 2)).puts, unit := (hostCtx (fetched Mo.nop 3 1 2)).unit, stage := (hostCtx (fetched Mo.nop 3 1 2)).stage, retries := (hostCtx (fetched Mo.nop 3 1 2)).retries, aux := (hostCtx (fetched Mo.nop 3 1 2)).aux : Context })).ctxOuts 142 7 = []
      ∧ { task := (hostCtx (fetched Mo.nop 3 1 2)).task, phase := CtxPhase.fault 1 327680 false, pc := (hostCtx (fetched Mo.nop 3 1 2)).pc, sreg := (hostCtx (fetched Mo.nop 3 1 2)).sreg, vreg := (hostCtx (fetched Mo.nop 3 1 2)).vreg, gens := (hostCtx (fetched Mo.nop 3 1 2)).gens, scratch := (hostCtx (fetched Mo.nop 3 1 2)).scratch, parts := (hostCtx (fetched Mo.nop 3 1 2)).parts, tx := (hostCtx (fetched Mo.nop 3 1 2)).tx, poisoned := (hostCtx (fetched Mo.nop 3 1 2)).poisoned, res0 := (hostCtx (fetched Mo.nop 3 1 2)).res0, res1 := (hostCtx (fetched Mo.nop 3 1 2)).res1, got := (hostCtx (fetched Mo.nop 3 1 2)).got, kept := (hostCtx (fetched Mo.nop 3 1 2)).kept, puts := (hostCtx (fetched Mo.nop 3 1 2)).puts, unit := (hostCtx (fetched Mo.nop 3 1 2)).unit, stage := (hostCtx (fetched Mo.nop 3 1 2)).stage, retries := (hostCtx (fetched Mo.nop 3 1 2)).retries, aux := (hostCtx (fetched Mo.nop 3 1 2)).aux : Context }.task.plan = none
      ∧ (slotTaken (savable { task := (hostCtx (fetched Mo.nop 3 1 2)).task, phase := CtxPhase.fault 1 327680 false, pc := (hostCtx (fetched Mo.nop 3 1 2)).pc, sreg := (hostCtx (fetched Mo.nop 3 1 2)).sreg, vreg := (hostCtx (fetched Mo.nop 3 1 2)).vreg, gens := (hostCtx (fetched Mo.nop 3 1 2)).gens, scratch := (hostCtx (fetched Mo.nop 3 1 2)).scratch, parts := (hostCtx (fetched Mo.nop 3 1 2)).parts, tx := (hostCtx (fetched Mo.nop 3 1 2)).tx, poisoned := (hostCtx (fetched Mo.nop 3 1 2)).poisoned, res0 := (hostCtx (fetched Mo.nop 3 1 2)).res0, res1 := (hostCtx (fetched Mo.nop 3 1 2)).res1, got := (hostCtx (fetched Mo.nop 3 1 2)).got, kept := (hostCtx (fetched Mo.nop 3 1 2)).kept, puts := (hostCtx (fetched Mo.nop 3 1 2)).puts, unit := (hostCtx (fetched Mo.nop 3 1 2)).unit, stage := (hostCtx (fetched Mo.nop 3 1 2)).stage, retries := (hostCtx (fetched Mo.nop 3 1 2)).retries, aux := (hostCtx (fetched Mo.nop 3 1 2)).aux : Context })).clu.ctx.sorted = true
      ∧ (slotTaken (savable { task := (hostCtx (fetched Mo.nop 3 1 2)).task, phase := CtxPhase.fault 1 327680 false, pc := (hostCtx (fetched Mo.nop 3 1 2)).pc, sreg := (hostCtx (fetched Mo.nop 3 1 2)).sreg, vreg := (hostCtx (fetched Mo.nop 3 1 2)).vreg, gens := (hostCtx (fetched Mo.nop 3 1 2)).gens, scratch := (hostCtx (fetched Mo.nop 3 1 2)).scratch, parts := (hostCtx (fetched Mo.nop 3 1 2)).parts, tx := (hostCtx (fetched Mo.nop 3 1 2)).tx, poisoned := (hostCtx (fetched Mo.nop 3 1 2)).poisoned, res0 := (hostCtx (fetched Mo.nop 3 1 2)).res0, res1 := (hostCtx (fetched Mo.nop 3 1 2)).res1, got := (hostCtx (fetched Mo.nop 3 1 2)).got, kept := (hostCtx (fetched Mo.nop 3 1 2)).kept, puts := (hostCtx (fetched Mo.nop 3 1 2)).puts, unit := (hostCtx (fetched Mo.nop 3 1 2)).unit, stage := (hostCtx (fetched Mo.nop 3 1 2)).stage, retries := (hostCtx (fetched Mo.nop 3 1 2)).retries, aux := (hostCtx (fetched Mo.nop 3 1 2)).aux : Context })).freeSlot { task := (hostCtx (fetched Mo.nop 3 1 2)).task, phase := CtxPhase.fault 1 327680 false, pc := (hostCtx (fetched Mo.nop 3 1 2)).pc, sreg := (hostCtx (fetched Mo.nop 3 1 2)).sreg, vreg := (hostCtx (fetched Mo.nop 3 1 2)).vreg, gens := (hostCtx (fetched Mo.nop 3 1 2)).gens, scratch := (hostCtx (fetched Mo.nop 3 1 2)).scratch, parts := (hostCtx (fetched Mo.nop 3 1 2)).parts, tx := (hostCtx (fetched Mo.nop 3 1 2)).tx, poisoned := (hostCtx (fetched Mo.nop 3 1 2)).poisoned, res0 := (hostCtx (fetched Mo.nop 3 1 2)).res0, res1 := (hostCtx (fetched Mo.nop 3 1 2)).res1, got := (hostCtx (fetched Mo.nop 3 1 2)).got, kept := (hostCtx (fetched Mo.nop 3 1 2)).kept, puts := (hostCtx (fetched Mo.nop 3 1 2)).puts, unit := (hostCtx (fetched Mo.nop 3 1 2)).unit, stage := (hostCtx (fetched Mo.nop 3 1 2)).stage, retries := (hostCtx (fetched Mo.nop 3 1 2)).retries, aux := (hostCtx (fetched Mo.nop 3 1 2)).aux : Context }.task.partition = some 1 := by decide +kernel

theorem witness_SaveAndDrain_1 :
    (slotTaken (savable { task := (hostCtx (fetched Mo.nop 3 1 2)).task, phase := CtxPhase.restoring 0, pc := (hostCtx (fetched Mo.nop 3 1 2)).pc, sreg := (hostCtx (fetched Mo.nop 3 1 2)).sreg, vreg := (hostCtx (fetched Mo.nop 3 1 2)).vreg, gens := (hostCtx (fetched Mo.nop 3 1 2)).gens, scratch := (hostCtx (fetched Mo.nop 3 1 2)).scratch, parts := (hostCtx (fetched Mo.nop 3 1 2)).parts, tx := (hostCtx (fetched Mo.nop 3 1 2)).tx, poisoned := (hostCtx (fetched Mo.nop 3 1 2)).poisoned, res0 := (hostCtx (fetched Mo.nop 3 1 2)).res0, res1 := (hostCtx (fetched Mo.nop 3 1 2)).res1, got := (hostCtx (fetched Mo.nop 3 1 2)).got, kept := (hostCtx (fetched Mo.nop 3 1 2)).kept, puts := (hostCtx (fetched Mo.nop 3 1 2)).puts, unit := (hostCtx (fetched Mo.nop 3 1 2)).unit, stage := (hostCtx (fetched Mo.nop 3 1 2)).stage, retries := (hostCtx (fetched Mo.nop 3 1 2)).retries, aux := (hostCtx (fetched Mo.nop 3 1 2)).aux : Context })).wf = true
      ∧ (slotTaken (savable { task := (hostCtx (fetched Mo.nop 3 1 2)).task, phase := CtxPhase.restoring 0, pc := (hostCtx (fetched Mo.nop 3 1 2)).pc, sreg := (hostCtx (fetched Mo.nop 3 1 2)).sreg, vreg := (hostCtx (fetched Mo.nop 3 1 2)).vreg, gens := (hostCtx (fetched Mo.nop 3 1 2)).gens, scratch := (hostCtx (fetched Mo.nop 3 1 2)).scratch, parts := (hostCtx (fetched Mo.nop 3 1 2)).parts, tx := (hostCtx (fetched Mo.nop 3 1 2)).tx, poisoned := (hostCtx (fetched Mo.nop 3 1 2)).poisoned, res0 := (hostCtx (fetched Mo.nop 3 1 2)).res0, res1 := (hostCtx (fetched Mo.nop 3 1 2)).res1, got := (hostCtx (fetched Mo.nop 3 1 2)).got, kept := (hostCtx (fetched Mo.nop 3 1 2)).kept, puts := (hostCtx (fetched Mo.nop 3 1 2)).puts, unit := (hostCtx (fetched Mo.nop 3 1 2)).unit, stage := (hostCtx (fetched Mo.nop 3 1 2)).stage, retries := (hostCtx (fetched Mo.nop 3 1 2)).retries, aux := (hostCtx (fetched Mo.nop 3 1 2)).aux : Context })).quiet
      ∧ (slotTaken (savable { task := (hostCtx (fetched Mo.nop 3 1 2)).task, phase := CtxPhase.restoring 0, pc := (hostCtx (fetched Mo.nop 3 1 2)).pc, sreg := (hostCtx (fetched Mo.nop 3 1 2)).sreg, vreg := (hostCtx (fetched Mo.nop 3 1 2)).vreg, gens := (hostCtx (fetched Mo.nop 3 1 2)).gens, scratch := (hostCtx (fetched Mo.nop 3 1 2)).scratch, parts := (hostCtx (fetched Mo.nop 3 1 2)).parts, tx := (hostCtx (fetched Mo.nop 3 1 2)).tx, poisoned := (hostCtx (fetched Mo.nop 3 1 2)).poisoned, res0 := (hostCtx (fetched Mo.nop 3 1 2)).res0, res1 := (hostCtx (fetched Mo.nop 3 1 2)).res1, got := (hostCtx (fetched Mo.nop 3 1 2)).got, kept := (hostCtx (fetched Mo.nop 3 1 2)).kept, puts := (hostCtx (fetched Mo.nop 3 1 2)).puts, unit := (hostCtx (fetched Mo.nop 3 1 2)).unit, stage := (hostCtx (fetched Mo.nop 3 1 2)).stage, retries := (hostCtx (fetched Mo.nop 3 1 2)).retries, aux := (hostCtx (fetched Mo.nop 3 1 2)).aux : Context })).getCtx 142 7 = some { task := (hostCtx (fetched Mo.nop 3 1 2)).task, phase := CtxPhase.restoring 0, pc := (hostCtx (fetched Mo.nop 3 1 2)).pc, sreg := (hostCtx (fetched Mo.nop 3 1 2)).sreg, vreg := (hostCtx (fetched Mo.nop 3 1 2)).vreg, gens := (hostCtx (fetched Mo.nop 3 1 2)).gens, scratch := (hostCtx (fetched Mo.nop 3 1 2)).scratch, parts := (hostCtx (fetched Mo.nop 3 1 2)).parts, tx := (hostCtx (fetched Mo.nop 3 1 2)).tx, poisoned := (hostCtx (fetched Mo.nop 3 1 2)).poisoned, res0 := (hostCtx (fetched Mo.nop 3 1 2)).res0, res1 := (hostCtx (fetched Mo.nop 3 1 2)).res1, got := (hostCtx (fetched Mo.nop 3 1 2)).got, kept := (hostCtx (fetched Mo.nop 3 1 2)).kept, puts := (hostCtx (fetched Mo.nop 3 1 2)).puts, unit := (hostCtx (fetched Mo.nop 3 1 2)).unit, stage := (hostCtx (fetched Mo.nop 3 1 2)).stage, retries := (hostCtx (fetched Mo.nop 3 1 2)).retries, aux := (hostCtx (fetched Mo.nop 3 1 2)).aux : Context }
      ∧ { task := (hostCtx (fetched Mo.nop 3 1 2)).task, phase := CtxPhase.restoring 0, pc := (hostCtx (fetched Mo.nop 3 1 2)).pc, sreg := (hostCtx (fetched Mo.nop 3 1 2)).sreg, vreg := (hostCtx (fetched Mo.nop 3 1 2)).vreg, gens := (hostCtx (fetched Mo.nop 3 1 2)).gens, scratch := (hostCtx (fetched Mo.nop 3 1 2)).scratch, parts := (hostCtx (fetched Mo.nop 3 1 2)).parts, tx := (hostCtx (fetched Mo.nop 3 1 2)).tx, poisoned := (hostCtx (fetched Mo.nop 3 1 2)).poisoned, res0 := (hostCtx (fetched Mo.nop 3 1 2)).res0, res1 := (hostCtx (fetched Mo.nop 3 1 2)).res1, got := (hostCtx (fetched Mo.nop 3 1 2)).got, kept := (hostCtx (fetched Mo.nop 3 1 2)).kept, puts := (hostCtx (fetched Mo.nop 3 1 2)).puts, unit := (hostCtx (fetched Mo.nop 3 1 2)).unit, stage := (hostCtx (fetched Mo.nop 3 1 2)).stage, retries := (hostCtx (fetched Mo.nop 3 1 2)).retries, aux := (hostCtx (fetched Mo.nop 3 1 2)).aux : Context }.phase = CtxPhase.restoring 0
      ∧ { task := (hostCtx (fetched Mo.nop 3 1 2)).task, phase := CtxPhase.restoring 0, pc := (hostCtx (fetched Mo.nop 3 1 2)).pc, sreg := (hostCtx (fetched Mo.nop 3 1 2)).sreg, vreg := (hostCtx (fetched Mo.nop 3 1 2)).vreg, gens := (hostCtx (fetched Mo.nop 3 1 2)).gens, scratch := (hostCtx (fetched Mo.nop 3 1 2)).scratch, parts := (hostCtx (fetched Mo.nop 3 1 2)).parts, tx := (hostCtx (fetched Mo.nop 3 1 2)).tx, poisoned := (hostCtx (fetched Mo.nop 3 1 2)).poisoned, res0 := (hostCtx (fetched Mo.nop 3 1 2)).res0, res1 := (hostCtx (fetched Mo.nop 3 1 2)).res1, got := (hostCtx (fetched Mo.nop 3 1 2)).got, kept := (hostCtx (fetched Mo.nop 3 1 2)).kept, puts := (hostCtx (fetched Mo.nop 3 1 2)).puts, unit := (hostCtx (fetched Mo.nop 3 1 2)).unit, stage := (hostCtx (fetched Mo.nop 3 1 2)).stage, retries := (hostCtx (fetched Mo.nop 3 1 2)).retries, aux := (hostCtx (fetched Mo.nop 3 1 2)).aux : Context }.task.desc ≠ [] := by decide +kernel

theorem witness_SaveAndDrain_2 :
    batched.wf = true ∧ batched.quiet
      ∧ batched.ptu.batch = [{ queue := 60, asid := 1023, gen := 8, all := true, first := 0, pages := 0, tag := 4660 : InvCmd }]
      ∧ batched.ptu.next = [] ∧ batched.oldEpochBusy = false
      ∧ { queue := 60, asid := 1023, gen := 8, all := true, first := 0, pages := 0, tag := 4660 : InvCmd }.queue < 64
      ∧ batched.rd F.cluQcfg_size { queue := 60, asid := 1023, gen := 8, all := true, first := 0, pages := 0, tag := 4660 : InvCmd }.queue ≤ 12 := by decide +kernel

/-- Extent 6 is a one-die extent of two granules on die 3, and a record of two participants stands at offset 0x6000 of extent 5: a BROADCAST or a REDUCE of 4,096 elements
of bfloat16. -/
def colBase : State :=
  { served with home := { served.home with ext := served.home.ext ++
      [(6, { state := .on, attr := { oneDie := true, base := 3 * served.quarterGranules false, count := 2 } })] } }
def recordOf (kind : Nat) (bad : Nat) : List Byte :=
  State.leBytes ((([(kind, 0), (1, 2), (1, 3), (2, 4), (1, 7), (1, 8), (8, 10), (4096, 16), (6, 24), (10000, 28), (bad, 40),
    (0x701 + 3 * 2 ^ 20, 128), (0x1234500, 136), (0x12345 + 2 * 2 ^ 20, 144), (0x5600, 152)] : List (Nat × Nat)).map fun x => x.1 * 256 ^ x.2).sum) 160
def recorded (bad : Nat) : State :=
  let b := recordOf 1 bad
  regsAt (poke (poke colBase 0x6000 (b.take 128)) 0x6080 (b.drop 128)) [(F.colPlanSrc_offset, 0, 0x6000), (F.colPlanStatus_gen, 63, 255)]
def armed (s : State) : State :=
  ((((((s.stored (planWrite .root 63 1)).wr F.colPlanStatus_result 63 St.ok).setPlan 63 { src := 0x6000, floor := s.rd F.colCtrl_floor }).wr F.colPlanStatus_state 63 1).wr
        F.colPlanStatus_gen 63 (s.rd F.colPlanStatus_gen 63 + 1)).wr F.colPlanStatus_run 63 0).wr F.colPlanStatus_running 63 0
def headRead (s : State) : State.SeqRead × State := State.seqRead 0 1 0x6000 [] (armed s)
def bodyRead (s : State) : State.SeqRead × State := State.seqRead 0 1 0x6080 (bytesOf (headRead s)) (headRead s).2
def aRecord (kind : Nat) : PlanRec := PlanRec.ofBytes (recordOf kind 0) (builtinFmts.map (BitVec.ofNat 128) ++ List.replicate 53 0)
def recOf (s : State) : PlanRec := PlanRec.ofBytes (bytesOf (bodyRead s)) ((List.range 64).map fun i => (bodyRead s).2.stageReg .engFmt i 3)

/-- Plan 63 in a state. -/
def planned (state running : Nat) (x : Plan) : State :=
  { regsAt colBase [(F.colPlanStatus_state, 63, state), (F.colPlanStatus_running, 63, running), (F.colPlanStatus_gen, 63, 255), (F.colPlanStatus_run, 63, 511)] with
    col := { plans := [(63, x)] } }
def aPlan (kind : Nat) (run : Option PlanRun := none) (answered leaving : List Nat := []) : Plan :=
  { record := some (aRecord kind), answered := answered, leaving := leaving, run := run }

/-- A packet under entry i's COLTAG. -/
def tagged (op chan i : Nat) (src : Endpoint) (run : Nat := 511) (sub : Nat := 0) (addr : Nat := 7 * 2 ^ 52) : Packet :=
  { opcode := BitVec.ofNat 8 op, chan := BitVec.ofNat 3 chan, src := src, sub := BitVec.ofNat 6 sub, dlocal := 0xD3, addr := BitVec.ofNat 64 addr
    txid := BitVec.ofNat 32 (63 + 255 * 2 ^ 6 + i * 2 ^ 14 + run * 2 ^ 23) }

/-- Two reservations on port 63, of an armed plan and of another node's. -/
def reserved : State :=
  { planned 2 0 (aPlan 1) with col := { plans := [(63, aPlan 1)], rsv := [(63, [⟨7, 63, 255, 0x12345, 4⟩, ⟨0x55, 1, 2, 0x12345, 4⟩])] } }

/-- Port 63 is an up trunk port on the way to node 0x123, with credits. -/
def routed (s : State) : State :=
  { (regsAt s [(F.rtePort_type, 63, 2), (F.rtePort_up, 63, 1), (F.rteRoute_port_0, 0x123, 63), (F.rteRoute_valid_0, 0x123, 1)]) with
    link := [(63, { farSizes := List.replicate 20 64 })] }
def passing (op : Nat) (src : Endpoint) : Packet :=
  { opcode := BitVec.ofNat 8 op, chan := 4, src := src, dlocal := 5, addr := BitVec.ofNat 64 (0x123 * 2 ^ 52), txid := BitVec.ofNat 32 (63 + 255 * 2 ^ 6) }
def heldAt (s : State) (q : Packet) (d : Nat) (n : Nat) : State := { s with fab := { held := [⟨q, d, some n⟩] } }
def rsvAt (s : State) (l : List Rsv) : State := { s with col := { rsv := [(63, l)] } }
def manyRsv : List Rsv := (List.range 1024).map fun i => ⟨i, 0, 0, 0, 1⟩

/-- A run whose lines are all in; a tree task of it has ended. -/
def aRun (delivered : List Nat) : PlanRun := { lines := [(0, 64)], accepted := 64, delivered := delivered }
def treeTask (level : Nat) : Context := { task := { id := 0, plan := some 63, place := level, target := 0 }, phase := .ended St.ok }
def treeEnded (kind level : Nat) (delivered : List Nat) : State :=
  { planned 2 1 (aPlan kind (some (aRun delivered))) with clu := { ctx := [(142 * 8 + 7, treeTask level)] } }

/-- Copy queue 127 of die 3 holds one descriptor of two tiles, with a flag or without. -/
def copyDesc (flag : Nat) (first : Nat := 0) : List Byte := descOf [(1, 0), (1, 1), (2 + 16 * flag, 2), (256, 4), (1, 8), (1, 12), (0x800, 16), (0x10000, 24), (128, 64), (1, 68), (1, 72),
    (first, 76), (0x77, 80), (0x20000 * flag, 88), (1 * flag, 96)]
def copyQueued (flag first : Nat) : State :=
  regsAt (poke served (0x1000 + 128 * 15) (copyDesc flag first))
    [(F.xfrQcfg_enable, 127, 1), (F.xfrQcfg_size, 127, 4), (F.xfrQcfg_die, 127, 3), (F.xfrQcfg_maxeng, 127, 8), (F.xfrQcfg_asid, 127, 1023), (F.xfrQring_offset, 127, 1),
     (F.xfrQcpl_offset, 127, 2), (F.xfrQptr_head, 127, 15), (F.xfrQptr_ctail, 127, 15), (F.xfrQptr_chead, 127, 15), (F.xfrRinger_mask, 127, 0xFFFFF), (F.xfrRinger_id, 127, 0x12345)]
def copyRead (s : State) : State.EntryRead × State := s.readEntry .copy 127 128
def aCopy (flag : Nat) (phase : CopyPhase) (known : List CopyXlat := []) : CopyRun :=
  { queue := 127, id := 0x7F00F, desc := copyDesc flag, tile := 0, phase := phase, known := known }
def copying (u : CopyRun) : State := { copyQueued 0 0 with xfr := { run := [(31, u)] } }
def knownPages : List CopyXlat := [⟨0, 0, some 0x700000, 0⟩, ⟨1, 1, some (7 * 2 ^ 52 + 0x100000), 0⟩]
def stopped (u : CopyRun) : CopyRun := { u with stop := some (11, 0, 0), lines := [(0x700000, 7 * 2 ^ 52 + 0x100000)] }
def lastTile (u : CopyRun) : CopyRun := { u with tile := 1 }
def ring (src : Endpoint) (tail : Nat) : Packet :=
  { opcode := BitVec.ofNat 8 Op.xfrRing, len := 1, src := src, dlocal := 0xD7, addr := BitVec.ofNat 64 (7 * 2 ^ 52), data := BitVec.ofNat 1024 (127 + tail * 2 ^ 32) }
def askSrc (u : CopyRun) : List CopyXlat × Bool × State := (copying u).askPages 31 u 1023 0 (State.pagesOf (u.vlines.map (·.1)))
def askDst (u : CopyRun) : List CopyXlat × Bool × State := (askSrc u).2.2.askPages 31 u 1023 1 (State.pagesOf (u.vlines.map (·.2)))

theorem witness_PlanCommands_0_0 :
    (recorded 0).wf = true ∧ (recorded 0).quiet ∧ { : Plan } = (recorded 0).getPlan 63 ∧ 63 % 64 = 63
      ∧ (recorded 0).accepts (planWrite Path.root 63 1) ∧ (recorded 0).planState 63 = 0
      ∧ (State.seqRead (((recorded 0).findExt (fun (x : ExtState) => x == ExtState.on) ((recorded 0).rd F.colPlanSrc_offset)).elim 0 fun (x : ℕ × Extent) => x.2.attr.partition) 1 ((recorded 0).rd F.colPlanSrc_offset) [] ((((((((recorded 0).stored (planWrite Path.root 63 1)).wr F.colPlanStatus_result 63 St.ok).setPlan 63 { src := (recorded 0).rd F.colPlanSrc_offset, floor := (recorded 0).rd F.colCtrl_floor : Plan }).wr F.colPlanStatus_state 63 1).wr F.colPlanStatus_gen 63 ((recorded 0).rd F.colPlanStatus_gen 63 + 1)).wr F.colPlanStatus_run 63 0).wr F.colPlanStatus_running 63 0) = (State.SeqRead.bytes (bytesOf (headRead (recorded 0))), (headRead (recorded 0)).2))
      ∧ leNat (bytesOf (headRead (recorded 0))) 4 2 ≤ 512
      ∧ (State.seqRead (((recorded 0).findExt (fun (x : ExtState) => x == ExtState.on) ((recorded 0).rd F.colPlanSrc_offset)).elim 0 fun (x : ℕ × Extent) => x.2.attr.partition) ((16 * leNat (bytesOf (headRead (recorded 0))) 4 2 + 127) / 128) ((recorded 0).rd F.colPlanSrc_offset + 128) (bytesOf (headRead (recorded 0))) (headRead (recorded 0)).2 = (State.SeqRead.bytes (bytesOf (bodyRead (recorded 0))), (bodyRead (recorded 0)).2))
      ∧ (recorded 0).rd F.colPlanSrc_offset % 128 = 0
      ∧ leNat (bytesOf (bodyRead (recorded 0))) 4 2 = leNat (bytesOf (headRead (recorded 0))) 4 2
      ∧ (bodyRead (recorded 0)).2.quiet
      ∧ (recOf (recorded 0) = PlanRec.ofBytes (bytesOf (bodyRead (recorded 0))) (List.map (fun (i : ℕ) => (bodyRead (recorded 0)).2.stageReg Reg.engFmt i (63 / 16)) (List.range 64)))
      ∧ (bodyRead (recorded 0)).2.recordOk 63 (bytesOf (bodyRead (recorded 0))) (recOf (recorded 0)) = true := by decide +kernel

theorem witness_PlanCommands_0_1 :
    (recorded 1).wf = true ∧ (recorded 1).quiet ∧ { : Plan } = (recorded 1).getPlan 63 ∧ 63 % 64 = 63
      ∧ (recorded 1).accepts (planWrite Path.root 63 1) ∧ (recorded 1).planState 63 = 0
      ∧ (State.seqRead (((recorded 1).findExt (fun (x : ExtState) => x == ExtState.on) ((recorded 1).rd F.colPlanSrc_offset)).elim 0 fun (x : ℕ × Extent) => x.2.attr.partition) 1 ((recorded 1).rd F.colPlanSrc_offset) [] ((((((((recorded 1).stored (planWrite Path.root 63 1)).wr F.colPlanStatus_result 63 St.ok).setPlan 63 { src := (recorded 1).rd F.colPlanSrc_offset, floor := (recorded 1).rd F.colCtrl_floor : Plan }).wr F.colPlanStatus_state 63 1).wr F.colPlanStatus_gen 63 ((recorded 1).rd F.colPlanStatus_gen 63 + 1)).wr F.colPlanStatus_run 63 0).wr F.colPlanStatus_running 63 0) = (State.SeqRead.bytes (bytesOf (headRead (recorded 1))), (headRead (recorded 1)).2))
      ∧ leNat (bytesOf (headRead (recorded 1))) 4 2 ≤ 512
      ∧ (State.seqRead (((recorded 1).findExt (fun (x : ExtState) => x == ExtState.on) ((recorded 1).rd F.colPlanSrc_offset)).elim 0 fun (x : ℕ × Extent) => x.2.attr.partition) ((16 * leNat (bytesOf (headRead (recorded 1))) 4 2 + 127) / 128) ((recorded 1).rd F.colPlanSrc_offset + 128) (bytesOf (headRead (recorded 1))) (headRead (recorded 1)).2 = (State.SeqRead.bytes (bytesOf (bodyRead (recorded 1))), (bodyRead (recorded 1)).2))
      ∧ (recorded 1).rd F.colPlanSrc_offset % 128 = 0
      ∧ leNat (bytesOf (bodyRead (recorded 1))) 4 2 = leNat (bytesOf (headRead (recorded 1))) 4 2
      ∧ (bodyRead (recorded 1)).2.quiet
      ∧ (recOf (recorded 1) = PlanRec.ofBytes (bytesOf (bodyRead (recorded 1))) (List.map (fun (i : ℕ) => (bodyRead (recorded 1)).2.stageReg Reg.engFmt i (63 / 16)) (List.range 64)))
      ∧ (bodyRead (recorded 1)).2.recordOk 63 (bytesOf (bodyRead (recorded 1))) (recOf (recorded 1)) = false := by decide +kernel

theorem witness_PlanCommands_1 :
    (planned 2 0 (aPlan 1)).wf = true ∧ (planned 2 0 (aPlan 1)).quiet ∧ aPlan 1 = (planned 2 0 (aPlan 1)).getPlan 63
      ∧ 63 % 64 = 63 ∧ (planned 2 0 (aPlan 1)).accepts (planWrite Path.root 63 1)
      ∧ ((planned 2 0 (aPlan 1)).planState 63 = 1 ∨ (planned 2 0 (aPlan 1)).planState 63 = 2 ∨ (planned 2 0 (aPlan 1)).planState 63 = 4) := by decide +kernel

theorem witness_PlanCommands_2 :
    (planned 3 0 (aPlan 1)).wf = true ∧ (planned 3 0 (aPlan 1)).quiet ∧ aPlan 1 = (planned 3 0 (aPlan 1)).getPlan 63
      ∧ 63 % 64 = 63 ∧ (planned 3 0 (aPlan 1)).accepts (planWrite Path.root 63 1) ∧ (planned 3 0 (aPlan 1)).planState 63 = 3 := by decide +kernel

theorem witness_PlanCommands_3_0 :
    (planned 2 0 (aPlan 1)).wf = true ∧ (planned 2 0 (aPlan 1)).quiet ∧ aPlan 1 = (planned 2 0 (aPlan 1)).getPlan 63
      ∧ 63 % 64 = 63 ∧ (aPlan 1).record = some (aRecord 1) ∧ (aRecord 1).entries ≠ []
      ∧ (planned 2 0 (aPlan 1)).accepts (planWrite Path.root 63 2) ∧ (planned 2 0 (aPlan 1)).planState 63 = 2
      ∧ (planned 2 0 (aPlan 1)).flag F.colPlanStatus_running 63 = false := by decide +kernel

theorem witness_PlanCommands_3_1 :
    (planned 2 1 (aPlan 1 (some { : PlanRun }))).wf = true ∧ (planned 2 1 (aPlan 1 (some { : PlanRun }))).quiet
      ∧ aPlan 1 (some { : PlanRun }) = (planned 2 1 (aPlan 1 (some { : PlanRun }))).getPlan 63 ∧ 63 % 64 = 63
      ∧ (aPlan 1 (some { : PlanRun })).record = some (aRecord 1) ∧ (aRecord 1).entries ≠ []
      ∧ (planned 2 1 (aPlan 1 (some { : PlanRun }))).accepts (planWrite Path.root 63 3)
      ∧ RunOpen ((planned 2 1 (aPlan 1 (some { : PlanRun }))).stored (planWrite Path.root 63 3)) 63 (aRecord 1) := by decide +kernel

theorem witness_PlanCommands_3_2 :
    (planned 2 1 (aPlan 1 (some { : PlanRun }))).wf = true ∧ (planned 2 1 (aPlan 1 (some { : PlanRun }))).quiet
      ∧ aPlan 1 (some { : PlanRun }) = (planned 2 1 (aPlan 1 (some { : PlanRun }))).getPlan 63 ∧ 63 % 64 = 63
      ∧ (aPlan 1 (some { : PlanRun })).record = some (aRecord 1) ∧ (aRecord 1).entries ≠ []
      ∧ RunOpen (planned 2 1 (aPlan 1 (some { : PlanRun }))) 63 (aRecord 1) := by decide +kernel

theorem witness_PlanCommands_3_3 :
    (planned 2 1 (aPlan 1 (some { : PlanRun }))).wf = true ∧ (planned 2 1 (aPlan 1 (some { : PlanRun }))).quiet
      ∧ aPlan 1 (some { : PlanRun }) = (planned 2 1 (aPlan 1 (some { : PlanRun }))).getPlan 63 ∧ 63 % 64 = 63
      ∧ (aPlan 1 (some { : PlanRun })).record = some (aRecord 1) ∧ (aRecord 1).entries ≠ [] ∧ 87 = Op.colAbort
      ∧ RunOpen ((planned 2 1 (aPlan 1 (some { : PlanRun }))).taken (tagged Op.colAbort 3 1 74565)) 63 (aRecord 1)
      ∧ (planned 2 1 (aPlan 1 (some { : PlanRun }))).tagOf (tagged Op.colAbort 3 1 74565).txid = some (63, 1)
      ∧ (planned 2 1 (aPlan 1 (some { : PlanRun }))).isEntry 63 1 (tagged Op.colAbort 3 1 74565).src = true := by decide +kernel

theorem witness_PlanCommands_3_4 :
    (planned 2 1 (aPlan 1 (some { : PlanRun }))).wf = true ∧ (planned 2 1 (aPlan 1 (some { : PlanRun }))).quiet
      ∧ aPlan 1 (some { : PlanRun }) = (planned 2 1 (aPlan 1 (some { : PlanRun }))).getPlan 63 ∧ 63 % 64 = 63
      ∧ (aPlan 1 (some { : PlanRun })).record = some (aRecord 1) ∧ (aRecord 1).entries ≠ []
      ∧ (planned 2 1 (aPlan 1 (some { : PlanRun }))).accepts (wordWrite Path.root Reg.colKill 0 0 (fieldIn 74565 31 1 1))
      ∧ RunOpen ((planned 2 1 (aPlan 1 (some { : PlanRun }))).stored (wordWrite Path.root Reg.colKill 0 0 (fieldIn 74565 31 1 1))) 63 (aRecord 1)
      ∧ (planned 2 1 (aPlan 1 (some { : PlanRun }))).col.plans = [(63, aPlan 1 (some { : PlanRun }))] ∧ 1 < 512
      ∧ ((State.entryWhere (aPlan 1 (some { : PlanRun })) fun (e : Endpoint) => BitVec.toNat e == 74565 % 2 ^ 20) = some 1) := by decide +kernel

theorem witness_PlanCommands_3_5 :
    (planned 1 0 (aPlan 1)).wf = true ∧ (planned 1 0 (aPlan 1)).quiet ∧ aPlan 1 = (planned 1 0 (aPlan 1)).getPlan 63
      ∧ 63 % 64 = 63 ∧ (aPlan 1).record = some (aRecord 1) ∧ (aRecord 1).entries ≠ []
      ∧ (planned 1 0 (aPlan 1)).planState 63 = 1 := by decide +kernel

theorem witness_PlanCommands_3_6_0 :
    (planned 1 0 (aPlan 1 none [0])).wf = true ∧ (planned 1 0 (aPlan 1 none [0])).quiet
      ∧ aPlan 1 none [0] = (planned 1 0 (aPlan 1 none [0])).getPlan 63 ∧ 63 % 64 = 63
      ∧ (aPlan 1 none [0]).record = some (aRecord 1) ∧ (aRecord 1).entries ≠ [] ∧ 81 = Op.colArmAck
      ∧ (planned 1 0 (aPlan 1 none [0])).planState 63 = 1
      ∧ (planned 1 0 (aPlan 1 none [0])).tagOf (tagged Op.colArmAck 4 1 74565).txid = some (63, 1)
      ∧ (tagged Op.colArmAck 4 1 74565).destNode = (planned 1 0 (aPlan 1 none [0])).node
      ∧ (aPlan 1 none [0]).answered.contains 1 = false ∧ 0 % 32 = 0
      ∧ (planned 1 0 (aPlan 1 none [0])).isEntry 63 1 (tagged Op.colArmAck 4 1 74565).src = true := by decide +kernel

theorem witness_PlanCommands_3_6_0_a :
    (planned 1 0 (aPlan 1)).wf = true ∧ (planned 1 0 (aPlan 1)).quiet ∧ aPlan 1 = (planned 1 0 (aPlan 1)).getPlan 63
      ∧ 63 % 64 = 63 ∧ (aPlan 1).record = some (aRecord 1) ∧ (aRecord 1).entries ≠ [] ∧ 81 = Op.colArmAck
      ∧ (planned 1 0 (aPlan 1)).planState 63 = 1
      ∧ (planned 1 0 (aPlan 1)).tagOf (tagged Op.colArmAck 4 1 74565).txid = some (63, 1)
      ∧ (tagged Op.colArmAck 4 1 74565).destNode = (planned 1 0 (aPlan 1)).node ∧ (aPlan 1).answered.contains 1 = false
      ∧ 0 % 32 = 0 ∧ (planned 1 0 (aPlan 1)).isEntry 63 1 (tagged Op.colArmAck 4 1 74565).src = true := by decide +kernel

theorem witness_PlanCommands_3_6_1 :
    (planned 1 0 (aPlan 1)).wf = true ∧ (planned 1 0 (aPlan 1)).quiet ∧ aPlan 1 = (planned 1 0 (aPlan 1)).getPlan 63
      ∧ 63 % 64 = 63 ∧ (aPlan 1).record = some (aRecord 1) ∧ (aRecord 1).entries ≠ [] ∧ 81 = Op.colArmAck
      ∧ (planned 1 0 (aPlan 1)).planState 63 = 1
      ∧ (planned 1 0 (aPlan 1)).tagOf (tagged Op.colArmAck 4 1 74565 511 11).txid = some (63, 1)
      ∧ (tagged Op.colArmAck 4 1 74565 511 11).destNode = (planned 1 0 (aPlan 1)).node ∧ (aPlan 1).answered.contains 1 = false
      ∧ 11 % 32 ≠ 0 := by decide +kernel

theorem witness_PlanCommands_4_0 :
    (planned 3 0 (aPlan 1 none [] [0, 1])).wf = true ∧ (planned 3 0 (aPlan 1 none [] [0, 1])).quiet
      ∧ aPlan 1 none [] [0, 1] = (planned 3 0 (aPlan 1 none [] [0, 1])).getPlan 63 ∧ 63 % 64 = 63
      ∧ (planned 3 0 (aPlan 1 none [] [0, 1])).planState 63 = 3
      ∧ (planned 3 0 (aPlan 1 none [] [0, 1])).col.plans.sorted = true
      ∧ NoWithdrawWaits (planned 3 0 (aPlan 1 none [] [0, 1])) := by decide +kernel

theorem witness_PlanCommands_4_1 :
    (planned 3 0 (aPlan 1 none [] [0, 1])).wf = true ∧ (planned 3 0 (aPlan 1 none [] [0, 1])).quiet
      ∧ aPlan 1 none [] [0, 1] = (planned 3 0 (aPlan 1 none [] [0, 1])).getPlan 63 ∧ 63 % 64 = 63
      ∧ (planned 3 0 (aPlan 1 none [] [0, 1])).planState 63 = 3
      ∧ (planned 3 0 (aPlan 1 none [] [0, 1])).col.plans.sorted = true
      ∧ NoWithdrawWaits (planned 3 0 (aPlan 1 none [] [0, 1]))
      ∧ (planned 3 0 (aPlan 1 none [] [0, 1])).tagOf (tagged Op.colDisarmAck 4 1 74565).txid = some (63, 1)
      ∧ (planned 3 0 (aPlan 1 none [] [0, 1])).isEntry 63 1 (tagged Op.colDisarmAck 4 1 74565).src = true
      ∧ 1 ∈ (aPlan 1 none [] [0, 1]).leaving := by decide +kernel

theorem witness_PlanCommands_4_1_a :
    (planned 3 0 (aPlan 1 none [] [1])).wf = true ∧ (planned 3 0 (aPlan 1 none [] [1])).quiet
      ∧ aPlan 1 none [] [1] = (planned 3 0 (aPlan 1 none [] [1])).getPlan 63 ∧ 63 % 64 = 63
      ∧ (planned 3 0 (aPlan 1 none [] [1])).planState 63 = 3 ∧ (planned 3 0 (aPlan 1 none [] [1])).col.plans.sorted = true
      ∧ NoWithdrawWaits (planned 3 0 (aPlan 1 none [] [1]))
      ∧ (planned 3 0 (aPlan 1 none [] [1])).tagOf (tagged Op.colDisarmAck 4 1 74565).txid = some (63, 1)
      ∧ (planned 3 0 (aPlan 1 none [] [1])).isEntry 63 1 (tagged Op.colDisarmAck 4 1 74565).src = true
      ∧ 1 ∈ (aPlan 1 none [] [1]).leaving := by decide +kernel

theorem witness_PlanCommands_5 :
    reserved.wf = true ∧ reserved.quiet ∧ aPlan 1 = reserved.getPlan 63 ∧ 63 % 64 = 63
      ∧ reserved.accepts (wordWrite Path.root Reg.colPortRsv 63 0 (fieldIn 63 31 1 1)) ∧ reserved.col.rsv.sorted = true := by decide +kernel

theorem witness_ReservationsPass_0 :
    (heldAt (routed node) (passing Op.colArm 21968) 3 2).wf = true
      ∧ (heldAt (routed node) (passing Op.colArm 21968) 3 2).quiet
      ∧ (heldAt (routed node) (passing Op.colArm 21968) 3 2).findHeld (passing Op.colArm 21968) 2 = some (0, { pkt := passing Op.colArm 21968, die := 3, inPort := some 2 : Held })
      ∧ { pkt := passing Op.colArm 21968, die := 3, inPort := some 2 : Held }.pkt = passing Op.colArm 21968
      ∧ (heldAt (routed node) (passing Op.colArm 21968) 3 2).mayTake (passing Op.colArm 21968) 63 = true
      ∧ (heldAt (routed node) (passing Op.colArm 21968) 3 2).portRoom 63 (passing Op.colArm 21968) = true
      ∧ (passing Op.colArm 21968).chan = 4 ∧ 80 = Op.colArm
      ∧ ((∀ e ∈ (heldAt (routed node) (passing Op.colArm 21968) 3 2).col.rsv.lookD 63 [], ¬(e.planNode = 21968 / 256 ∧ e.plan = 16383 % 64 ∧ e.gen = 16383 / 2 ^ 6 % 256 ∧ e.dst = State.endpointOf (passing Op.colArm 21968))) ∧ ((heldAt (routed node) (passing Op.colArm 21968) 3 2).col.rsv.lookD 63 []).length < 1024 ∧ 2 * ((List.map (fun (x : Rsv) => x.floor) ((heldAt (routed node) (passing Op.colArm 21968) 3 2).col.rsv.lookD 63 [])).sum + (heldAt (routed node) (passing Op.colArm 21968) 3 2).armFloor (21968 / 256) (16383 % 64) (16383 / 2 ^ 6 % 256)) ≤ State.colCredits ((heldAt (routed node) (passing Op.colArm 21968) 3 2).getLink 63)) := by decide +kernel

theorem witness_ReservationsPass_1 :
    (rsvAt (heldAt (routed node) (passing Op.colArm 21968) 3 2) manyRsv).wf = true
      ∧ (rsvAt (heldAt (routed node) (passing Op.colArm 21968) 3 2) manyRsv).quiet
      ∧ (rsvAt (heldAt (routed node) (passing Op.colArm 21968) 3 2) manyRsv).findHeld (passing Op.colArm 21968) 2 = some (0, { pkt := passing Op.colArm 21968, die := 3, inPort := some 2 : Held })
      ∧ { pkt := passing Op.colArm 21968, die := 3, inPort := some 2 : Held }.pkt = passing Op.colArm 21968
      ∧ (rsvAt (heldAt (routed node) (passing Op.colArm 21968) 3 2) manyRsv).mayTake (passing Op.colArm 21968) 63 = true
      ∧ (rsvAt (heldAt (routed node) (passing Op.colArm 21968) 3 2) manyRsv).portRoom 63 (passing Op.colArm 21968) = true
      ∧ (passing Op.colArm 21968).chan = 4 ∧ 80 = Op.colArm
      ∧ 1024 ≤ ((rsvAt (heldAt (routed node) (passing Op.colArm 21968) 3 2) manyRsv).col.rsv.lookD 63 []).length
      ∧ (∀ e ∈ (rsvAt (heldAt (routed node) (passing Op.colArm 21968) 3 2) manyRsv).col.rsv.lookD 63 [], e.dst ≠ State.endpointOf (passing Op.colArm 21968)) := by decide +kernel

theorem witness_ReservationsPass_2 :
    (heldAt (routed node) (passing Op.colArmAck 21968) 3 2).wf = true
      ∧ (heldAt (routed node) (passing Op.colArmAck 21968) 3 2).quiet
      ∧ (heldAt (routed node) (passing Op.colArmAck 21968) 3 2).findHeld (passing Op.colArmAck 21968) 2 = some (0, { pkt := passing Op.colArmAck 21968, die := 3, inPort := some 2 : Held })
      ∧ { pkt := passing Op.colArmAck 21968, die := 3, inPort := some 2 : Held }.pkt = passing Op.colArmAck 21968
      ∧ (heldAt (routed node) (passing Op.colArmAck 21968) 3 2).mayTake (passing Op.colArmAck 21968) 63 = true
      ∧ (heldAt (routed node) (passing Op.colArmAck 21968) 3 2).portRoom 63 (passing Op.colArmAck 21968) = true
      ∧ (passing Op.colArmAck 21968).chan = 4 ∧ 81 = Op.colArmAck ∧ 0 % 32 = 0
      ∧ (passing Op.colArmAck 21968).destNode ≠ (heldAt (routed node) (passing Op.colArmAck 21968) 3 2).node
      ∧ ((∀ e ∈ (heldAt (routed node) (passing Op.colArmAck 21968) 3 2).col.rsv.lookD 63 [], ¬(e.planNode = (passing Op.colArmAck 21968).destNode ∧ e.plan = 16383 % 64 ∧ e.gen = 16383 / 2 ^ 6 % 256 ∧ e.dst = State.endpointOf (passing Op.colArmAck 21968))) ∧ ((heldAt (routed node) (passing Op.colArmAck 21968) 3 2).col.rsv.lookD 63 []).length < 1024 ∧ 2 * ((List.map (fun (x : Rsv) => x.floor) ((heldAt (routed node) (passing Op.colArmAck 21968) 3 2).col.rsv.lookD 63 [])).sum + (heldAt (routed node) (passing Op.colArmAck 21968) 3 2).armFloor (passing Op.colArmAck 21968).destNode (16383 % 64) (16383 / 2 ^ 6 % 256)) ≤ State.colCredits ((heldAt (routed node) (passing Op.colArmAck 21968) 3 2).getLink 63)) := by decide +kernel

theorem witness_ReservationsPass_3 :
    (rsvAt (heldAt (routed node) (passing Op.colDisarm 21968) 3 2) [{ planNode := 85, plan := 63, gen := 255, dst := 74501, floor := 4 : Rsv }, { planNode := 85, plan := 62, gen := 255, dst := 74501, floor := 4 : Rsv }]).wf = true
      ∧ (rsvAt (heldAt (routed node) (passing Op.colDisarm 21968) 3 2) [{ planNode := 85, plan := 63, gen := 255, dst := 74501, floor := 4 : Rsv }, { planNode := 85, plan := 62, gen := 255, dst := 74501, floor := 4 : Rsv }]).quiet
      ∧ (rsvAt (heldAt (routed node) (passing Op.colDisarm 21968) 3 2) [{ planNode := 85, plan := 63, gen := 255, dst := 74501, floor := 4 : Rsv }, { planNode := 85, plan := 62, gen := 255, dst := 74501, floor := 4 : Rsv }]).findHeld (passing Op.colDisarm 21968) 2 = some (0, { pkt := passing Op.colDisarm 21968, die := 3, inPort := some 2 : Held })
      ∧ { pkt := passing Op.colDisarm 21968, die := 3, inPort := some 2 : Held }.pkt = passing Op.colDisarm 21968
      ∧ (rsvAt (heldAt (routed node) (passing Op.colDisarm 21968) 3 2) [{ planNode := 85, plan := 63, gen := 255, dst := 74501, floor := 4 : Rsv }, { planNode := 85, plan := 62, gen := 255, dst := 74501, floor := 4 : Rsv }]).mayTake (passing Op.colDisarm 21968) 63 = true
      ∧ (rsvAt (heldAt (routed node) (passing Op.colDisarm 21968) 3 2) [{ planNode := 85, plan := 63, gen := 255, dst := 74501, floor := 4 : Rsv }, { planNode := 85, plan := 62, gen := 255, dst := 74501, floor := 4 : Rsv }]).portRoom 63 (passing Op.colDisarm 21968) = true
      ∧ (passing Op.colDisarm 21968).chan = 4 ∧ 82 = Op.colDisarm
      ∧ (rsvAt (heldAt (routed node) (passing Op.colDisarm 21968) 3 2) [{ planNode := 85, plan := 63, gen := 255, dst := 74501, floor := 4 : Rsv }, { planNode := 85, plan := 62, gen := 255, dst := 74501, floor := 4 : Rsv }]).portUp 63 = true
      ∧ (∀ e ∈ (rsvAt (heldAt (routed node) (passing Op.colDisarm 21968) 3 2) [{ planNode := 85, plan := 63, gen := 255, dst := 74501, floor := 4 : Rsv }, { planNode := 85, plan := 62, gen := 255, dst := 74501, floor := 4 : Rsv }]).col.rsv, e.1 < 64)
      ∧ (rsvAt (heldAt (routed node) (passing Op.colDisarm 21968) 3 2) [{ planNode := 85, plan := 63, gen := 255, dst := 74501, floor := 4 : Rsv }, { planNode := 85, plan := 62, gen := 255, dst := 74501, floor := 4 : Rsv }]).col.rsv.sorted = true
      ∧ (rsvAt (heldAt (routed node) (passing Op.colDisarm 21968) 3 2) [{ planNode := 85, plan := 63, gen := 255, dst := 74501, floor := 4 : Rsv }, { planNode := 85, plan := 62, gen := 255, dst := 74501, floor := 4 : Rsv }]).rsvPort (21968 / 256) (16383 % 64) (16383 / 2 ^ 6 % 256) (State.endpointOf (passing Op.colDisarm 21968)) = some 63 := by decide +kernel

theorem witness_PlanRuns_0_0 :
    (planned 2 0 (aPlan 1)).wf = true ∧ (planned 2 0 (aPlan 1)).quiet ∧ aPlan 1 = (planned 2 0 (aPlan 1)).getPlan 63
      ∧ (aPlan 1).record = some (aRecord 1) ∧ (planned 2 0 (aPlan 1)).planState 63 = 2 ∧ 84 = Op.colPut
      ∧ (planned 2 0 (aPlan 1)).tagOf (tagged Op.colPut 3 0 1793).txid = some (63, 0)
      ∧ (planned 2 0 (aPlan 1)).isEntry 63 0 (tagged Op.colPut 3 0 1793).src = true
      ∧ 4286595071 / 2 ^ 23 = (planned 2 0 (aPlan 1)).rd F.colPlanStatus_run 63 ∧ (tagged Op.colPut 3 0 1793).offset % 128 = 0 ∧ (tagged Op.colPut 3 0 1793).offset < (aRecord 1).image (aRecord 1).inFmt ∧ 0 ∈ (aRecord 1).senders ∧ ((aPlan 1).run.getD { : PlanRun }).lines.lookD (List.idxOf 0 (aRecord 1).senders * 2 ^ 21 + (aRecord 1).chunkOf (tagged Op.colPut 3 0 1793).offset) 0 < (aRecord 1).chunkLines ((aRecord 1).chunkOf (tagged Op.colPut 3 0 1793).offset)
      ∧ (aRecord 1).broadcast = false := by decide +kernel

theorem witness_PlanRuns_0_1 :
    (planned 2 0 (aPlan 3)).wf = true ∧ (planned 2 0 (aPlan 3)).quiet ∧ aPlan 3 = (planned 2 0 (aPlan 3)).getPlan 63
      ∧ (aPlan 3).record = some (aRecord 3) ∧ (planned 2 0 (aPlan 3)).planState 63 = 2 ∧ 84 = Op.colPut
      ∧ (planned 2 0 (aPlan 3)).tagOf (tagged Op.colPut 3 0 1793).txid = some (63, 0)
      ∧ (planned 2 0 (aPlan 3)).isEntry 63 0 (tagged Op.colPut 3 0 1793).src = true
      ∧ 4286595071 / 2 ^ 23 = (planned 2 0 (aPlan 3)).rd F.colPlanStatus_run 63 ∧ (tagged Op.colPut 3 0 1793).offset % 128 = 0 ∧ (tagged Op.colPut 3 0 1793).offset < (aRecord 3).image (aRecord 3).inFmt ∧ 0 ∈ (aRecord 3).senders ∧ ((aPlan 3).run.getD { : PlanRun }).lines.lookD (List.idxOf 0 (aRecord 3).senders * 2 ^ 21 + (aRecord 3).chunkOf (tagged Op.colPut 3 0 1793).offset) 0 < (aRecord 3).chunkLines ((aRecord 3).chunkOf (tagged Op.colPut 3 0 1793).offset)
      ∧ (aRecord 3).broadcast = true ∧ (aRecord 3).push = true ∧ (aRecord 3).pool = false
      ∧ ((aPlan 3).run.getD { : PlanRun }).delivered = []
      ∧ ((aPlan 3).run.getD { : PlanRun }).lines.lookD (List.idxOf 0 (aRecord 3).senders * 2 ^ 21 + (aRecord 3).chunkOf (tagged Op.colPut 3 0 1793).offset) 0 + 1 ≠ (aRecord 3).chunkLines ((aRecord 3).chunkOf (tagged Op.colPut 3 0 1793).offset)
      ∧ 1 ≤ (aRecord 3).chunks ∧ (tagged Op.colPut 3 0 1793).poison = false := by decide +kernel

theorem witness_PlanRuns_0_2 :
    (planned 2 0 (aPlan 1)).wf = true ∧ (planned 2 0 (aPlan 1)).quiet ∧ aPlan 1 = (planned 2 0 (aPlan 1)).getPlan 63
      ∧ (aPlan 1).record = some (aRecord 1) ∧ (planned 2 0 (aPlan 1)).planState 63 = 2 ∧ 84 = Op.colPut
      ∧ (planned 2 0 (aPlan 1)).tagOf (tagged Op.colPut 3 0 1793 510).txid = some (63, 0)
      ∧ (planned 2 0 (aPlan 1)).isEntry 63 0 (tagged Op.colPut 3 0 1793 510).src = true
      ∧ 4278206463 / 2 ^ 23 ≠ (planned 2 0 (aPlan 1)).rd F.colPlanStatus_run 63 ∧ (planned 2 0 (aPlan 1)).planTasks 63 = []
      ∧ (((planned 2 0 (aPlan 1)).taken (tagged Op.colPut 3 0 1793 510)).spoilRun 63).quiet := by decide +kernel

theorem witness_PlanRuns_1_0 :
    (treeEnded 1 0 []).wf = true ∧ (treeEnded 1 0 []).quiet ∧ aPlan 1 (some (aRun [])) = (treeEnded 1 0 []).getPlan 63
      ∧ (aPlan 1 (some (aRun []))).record = some (aRecord 1) ∧ (treeEnded 1 0 []).planState 63 = 2
      ∧ (treeEnded 1 0 []).getCtx 142 7 = some (treeTask 0) ∧ (treeTask 0).phase = CtxPhase.ended St.ok
      ∧ (treeTask 0).task.plan = some 63 ∧ (aPlan 1 (some (aRun []))).run = some (aRun [])
      ∧ NoWithdrawWaits (treeEnded 1 0 []) ∧ (treeTask 0).task.place ≠ State.lastStep (aRecord 1) := by decide +kernel

theorem witness_PlanRuns_1_1 :
    (treeEnded 1 1 []).wf = true ∧ (treeEnded 1 1 []).quiet ∧ aPlan 1 (some (aRun [])) = (treeEnded 1 1 []).getPlan 63
      ∧ (aPlan 1 (some (aRun []))).record = some (aRecord 1) ∧ (treeEnded 1 1 []).planState 63 = 2
      ∧ (treeEnded 1 1 []).getCtx 142 7 = some (treeTask 1) ∧ (treeTask 1).phase = CtxPhase.ended St.ok
      ∧ (treeTask 1).task.plan = some 63 ∧ (aPlan 1 (some (aRun []))).run = some (aRun [])
      ∧ NoWithdrawWaits (treeEnded 1 1 []) ∧ (treeTask 1).task.place = State.lastStep (aRecord 1)
      ∧ (aRecord 1).broadcast = false ∧ (treeEnded 1 1 []).resultOpen 63 = false
      ∧ (aRun []).delivered.length + 1 = (aRecord 1).chunks := by decide +kernel

theorem witness_CopyRows_0_0 :
    (copyQueued 0 0).wf = true ∧ (copyQueued 0 0).quiet ∧ 96 = Op.xfrRing ∧ (ring 74565 7).len = 1 ∧ (ring 74565 7).chan = 0
      ∧ (ring 74565 7).resv = false ∧ 212 ≤ 215 ∧ 215 < 216 ∧ lineBits (ring 74565 7).data 0 64 / 2 ^ 7 % 2 ^ 25 = 0
      ∧ lineBits (ring 74565 7).data 0 64 / 2 ^ 44 = 0
      ∧ 74565 &&& (copyQueued 0 0).rd F.xfrRinger_mask (lineBits (ring 74565 7).data 0 64 % 128) = (copyQueued 0 0).rd F.xfrRinger_id (lineBits (ring 74565 7).data 0 64 % 128) &&& (copyQueued 0 0).rd F.xfrRinger_mask (lineBits (ring 74565 7).data 0 64 % 128)
      ∧ (copyQueued 0 0).flag F.xfrQcfg_enable (lineBits (ring 74565 7).data 0 64 % 128) = true
      ∧ (copyQueued 0 0).tailOk (lineBits (ring 74565 7).data 0 64 % 128) (lineBits (ring 74565 7).data 0 64 / 2 ^ 32 % 2 ^ 12) = true := by decide +kernel

theorem witness_CopyRows_0_1 :
    (copyQueued 0 0).wf = true ∧ (copyQueued 0 0).quiet ∧ 96 = Op.xfrRing ∧ (ring 74564 7).len = 1 ∧ (ring 74564 7).chan = 0
      ∧ (ring 74564 7).resv = false ∧ 212 ≤ 215 ∧ 215 < 216 ∧ lineBits (ring 74564 7).data 0 64 / 2 ^ 7 % 2 ^ 25 = 0
      ∧ lineBits (ring 74564 7).data 0 64 / 2 ^ 44 = 0
      ∧ 74564 &&& (copyQueued 0 0).rd F.xfrRinger_mask (lineBits (ring 74564 7).data 0 64 % 128) ≠ (copyQueued 0 0).rd F.xfrRinger_id (lineBits (ring 74564 7).data 0 64 % 128) &&& (copyQueued 0 0).rd F.xfrRinger_mask (lineBits (ring 74564 7).data 0 64 % 128) := by decide +kernel

theorem witness_CopyRows_1 :
    (copyQueued 0 0).wf = true ∧ (copyQueued 0 0).quiet ∧ (copyQueued 0 0).xfr.run.look 31 = none
      ∧ (copyQueued 0 0).mem.moves.look 31 = none ∧ (copyQueued 0 0).ras.disabled.contains 31 = false
      ∧ (copyQueued 0 0).copyTurn (31 / 8) = some 127
      ∧ (copyQueued 0 0).readEntry State.Ring.copy 127 128 = (State.EntryRead.entry (seOf (copyRead (copyQueued 0 0))), (copyRead (copyQueued 0 0)).2)
      ∧ (copyRead (copyQueued 0 0)).2.quiet ∧ (copyQueued 0 0).rd F.xfrQcfg_size 127 ≤ 12
      ∧ { queue := 127, id := (copyRead (copyQueued 0 0)).2.rd F.xfrQptr_head 127 + 127 * 2 ^ 12 + (copyRead (copyQueued 0 0)).2.clu.pass.lookD (State.Ring.copy.key 127) 0 % 2 ^ 13 * 2 ^ 19, desc := seOf (copyRead (copyQueued 0 0)), tile := leNat (seOf (copyRead (copyQueued 0 0))) 76 4 : CopyRun }.fld 2 1 / 8 % 2 = 0
      ∧ { queue := 127, id := (copyRead (copyQueued 0 0)).2.rd F.xfrQptr_head 127 + 127 * 2 ^ 12 + (copyRead (copyQueued 0 0)).2.clu.pass.lookD (State.Ring.copy.key 127) 0 % 2 ^ 13 * 2 ^ 19, desc := seOf (copyRead (copyQueued 0 0)), tile := leNat (seOf (copyRead (copyQueued 0 0))) 76 4 : CopyRun }.ok = true := by decide +kernel

theorem witness_CopyRows_1_a :
    (copyQueued 1 2).wf = true ∧ (copyQueued 1 2).quiet ∧ (copyQueued 1 2).xfr.run.look 31 = none
      ∧ (copyQueued 1 2).mem.moves.look 31 = none ∧ (copyQueued 1 2).ras.disabled.contains 31 = false
      ∧ (copyQueued 1 2).copyTurn (31 / 8) = some 127
      ∧ (copyQueued 1 2).readEntry State.Ring.copy 127 128 = (State.EntryRead.entry (seOf (copyRead (copyQueued 1 2))), (copyRead (copyQueued 1 2)).2)
      ∧ (copyRead (copyQueued 1 2)).2.quiet ∧ (copyQueued 1 2).rd F.xfrQcfg_size 127 ≤ 12
      ∧ { queue := 127, id := (copyRead (copyQueued 1 2)).2.rd F.xfrQptr_head 127 + 127 * 2 ^ 12 + (copyRead (copyQueued 1 2)).2.clu.pass.lookD (State.Ring.copy.key 127) 0 % 2 ^ 13 * 2 ^ 19, desc := seOf (copyRead (copyQueued 1 2)), tile := leNat (seOf (copyRead (copyQueued 1 2))) 76 4 : CopyRun }.fld 2 1 / 8 % 2 = 0
      ∧ { queue := 127, id := (copyRead (copyQueued 1 2)).2.rd F.xfrQptr_head 127 + 127 * 2 ^ 12 + (copyRead (copyQueued 1 2)).2.clu.pass.lookD (State.Ring.copy.key 127) 0 % 2 ^ 13 * 2 ^ 19, desc := seOf (copyRead (copyQueued 1 2)), tile := leNat (seOf (copyRead (copyQueued 1 2))) 76 4 : CopyRun }.ok = true := by decide +kernel

theorem witness_CopyRows_2 :
    (copying (aCopy 0 CopyPhase.translate knownPages)).wf = true ∧ (copying (aCopy 0 CopyPhase.translate knownPages)).quiet
      ∧ (copying (aCopy 0 CopyPhase.translate knownPages)).xfr.run.look 31 = some (aCopy 0 CopyPhase.translate knownPages)
      ∧ (aCopy 0 CopyPhase.translate knownPages).stop = none ∧ (aCopy 0 CopyPhase.translate knownPages).killed = false
      ∧ (aCopy 0 CopyPhase.translate knownPages).phase = CopyPhase.translate
      ∧ (∀ l ∈ (aCopy 0 CopyPhase.translate knownPages).vlines, l.1 < 2 ^ 57 ∧ l.2 < 2 ^ 57)
      ∧ ((copying (aCopy 0 CopyPhase.translate knownPages)).askPages 31 (aCopy 0 CopyPhase.translate knownPages) ((copying (aCopy 0 CopyPhase.translate knownPages)).rd F.xfrQcfg_asid (aCopy 0 CopyPhase.translate knownPages).queue) 0 (State.pagesOf (List.map (fun (x : ℕ × ℕ) => x.1) (aCopy 0 CopyPhase.translate knownPages).vlines)) = ((askSrc (aCopy 0 CopyPhase.translate knownPages)).1, true, (askSrc (aCopy 0 CopyPhase.translate knownPages)).2.2))
      ∧ ((askSrc (aCopy 0 CopyPhase.translate knownPages)).2.2.askPages 31 (aCopy 0 CopyPhase.translate knownPages) ((copying (aCopy 0 CopyPhase.translate knownPages)).rd F.xfrQcfg_asid (aCopy 0 CopyPhase.translate knownPages).queue) 1 (State.pagesOf (List.map (fun (x : ℕ × ℕ) => x.2) (aCopy 0 CopyPhase.translate knownPages).vlines)) = ((askDst (aCopy 0 CopyPhase.translate knownPages)).1, true, (askDst (aCopy 0 CopyPhase.translate knownPages)).2.2))
      ∧ (State.pageFault (askSrc (aCopy 0 CopyPhase.translate knownPages)).1 (List.map (fun (x : ℕ × ℕ) => x.1) (aCopy 0 CopyPhase.translate knownPages).vlines) = none)
      ∧ (State.pageFault (askDst (aCopy 0 CopyPhase.translate knownPages)).1 (List.map (fun (x : ℕ × ℕ) => x.2) (aCopy 0 CopyPhase.translate knownPages).vlines) = none)
      ∧ ((askDst (aCopy 0 CopyPhase.translate knownPages)).2.2.placeFits (aCopy 0 CopyPhase.translate knownPages) (List.map (fun (l : ℕ × ℕ) => (State.addrOf (askSrc (aCopy 0 CopyPhase.translate knownPages)).1 l.1, State.addrOf (askDst (aCopy 0 CopyPhase.translate knownPages)).1 l.2)) (aCopy 0 CopyPhase.translate knownPages).vlines) = true) := by decide +kernel

theorem witness_CopyRows_3_0_0 :
    (copying (aCopy 0 CopyPhase.run)).wf = true ∧ (copying (aCopy 0 CopyPhase.run)).quiet
      ∧ (copying (aCopy 0 CopyPhase.run)).xfr.run.look 31 = some (aCopy 0 CopyPhase.run)
      ∧ (copying (aCopy 0 CopyPhase.run)).copyOuts 31 = [] ∧ (aCopy 0 CopyPhase.run).stop = none
      ∧ (aCopy 0 CopyPhase.run).killed = false ∧ (aCopy 0 CopyPhase.run).phase = CopyPhase.run
      ∧ (aCopy 0 CopyPhase.run).nextRead = (aCopy 0 CopyPhase.run).lines.length ∧ (aCopy 0 CopyPhase.run).toWrite = []
      ∧ (aCopy 0 CopyPhase.run).tile + 1 < (aCopy 0 CopyPhase.run).count := by decide +kernel

theorem witness_CopyRows_3_0_1 :
    (copying (lastTile (aCopy 1 CopyPhase.run))).wf = true ∧ (copying (lastTile (aCopy 1 CopyPhase.run))).quiet
      ∧ (copying (lastTile (aCopy 1 CopyPhase.run))).xfr.run.look 31 = some (lastTile (aCopy 1 CopyPhase.run))
      ∧ (copying (lastTile (aCopy 1 CopyPhase.run))).copyOuts 31 = [] ∧ (lastTile (aCopy 1 CopyPhase.run)).stop = none
      ∧ (lastTile (aCopy 1 CopyPhase.run)).killed = false ∧ (lastTile (aCopy 1 CopyPhase.run)).phase = CopyPhase.run
      ∧ (lastTile (aCopy 1 CopyPhase.run)).nextRead = (lastTile (aCopy 1 CopyPhase.run)).lines.length
      ∧ (lastTile (aCopy 1 CopyPhase.run)).toWrite = []
      ∧ (lastTile (aCopy 1 CopyPhase.run)).tile + 1 = (lastTile (aCopy 1 CopyPhase.run)).count
      ∧ (lastTile (aCopy 1 CopyPhase.run)).hasFlag = true := by decide +kernel

theorem witness_CopyRows_3_1 :
    (copying (lastTile (aCopy 1 CopyPhase.flagRun))).wf = true ∧ (copying (lastTile (aCopy 1 CopyPhase.flagRun))).quiet
      ∧ (copying (lastTile (aCopy 1 CopyPhase.flagRun))).xfr.run.look 31 = some (lastTile (aCopy 1 CopyPhase.flagRun))
      ∧ (copying (lastTile (aCopy 1 CopyPhase.flagRun))).copyOuts 31 = [] ∧ (lastTile (aCopy 1 CopyPhase.flagRun)).stop = none
      ∧ (lastTile (aCopy 1 CopyPhase.flagRun)).killed = false
      ∧ (lastTile (aCopy 1 CopyPhase.flagRun)).phase = CopyPhase.flagRun ∧ (lastTile (aCopy 1 CopyPhase.flagRun)).queue < 128
      ∧ (copying (lastTile (aCopy 1 CopyPhase.flagRun))).revoking ((copying (lastTile (aCopy 1 CopyPhase.flagRun))).rd F.xfrQcfg_partition (lastTile (aCopy 1 CopyPhase.flagRun)).queue) = false
      ∧ (copying (lastTile (aCopy 1 CopyPhase.flagRun))).mem.waits = []
      ∧ (copying (lastTile (aCopy 1 CopyPhase.flagRun))).xfr.run.sorted = true
      ∧ (copying (lastTile (aCopy 1 CopyPhase.flagRun))).rd F.xfrQcfg_size (lastTile (aCopy 1 CopyPhase.flagRun)).queue ≤ 12 := by decide +kernel

theorem witness_CopyRows_4 :
    (copying (stopped (aCopy 0 CopyPhase.run))).wf = true ∧ (copying (stopped (aCopy 0 CopyPhase.run))).quiet
      ∧ (copying (stopped (aCopy 0 CopyPhase.run))).xfr.run.look 31 = some (stopped (aCopy 0 CopyPhase.run))
      ∧ (copying (stopped (aCopy 0 CopyPhase.run))).copyOuts 31 = []
      ∧ (stopped (aCopy 0 CopyPhase.run)).stop = some (11, 0, 0) ∧ (stopped (aCopy 0 CopyPhase.run)).queue < 128
      ∧ (copying (stopped (aCopy 0 CopyPhase.run))).revoking ((copying (stopped (aCopy 0 CopyPhase.run))).rd F.xfrQcfg_partition (stopped (aCopy 0 CopyPhase.run)).queue) = false
      ∧ (copying (stopped (aCopy 0 CopyPhase.run))).mem.waits = []
      ∧ (copying (stopped (aCopy 0 CopyPhase.run))).xfr.run.sorted = true
      ∧ (copying (stopped (aCopy 0 CopyPhase.run))).rd F.xfrQcfg_size (stopped (aCopy 0 CopyPhase.run)).queue ≤ 12 := by decide +kernel

theorem witness_CopyRows_5 :
    (copying (aCopy 0 CopyPhase.run)).wf = true ∧ (copying (aCopy 0 CopyPhase.run)).quiet
      ∧ (copying (aCopy 0 CopyPhase.run)).accepts (wordWrite Path.root Reg.xfrQcmd 0 0 (fieldIn 127 8 2 1)) := by decide +kernel

/-- Port 63 is a trunk port, and port 5 an access port to node 0x345. -/
def ported : State :=
  regsAt (routed served) [(F.rtePort_type, 5, 1), (F.rtePort_up, 5, 1), (F.rtePort_peer, 5, 0x345)]
/-- An uncached read for a home, from an endpoint, to a node. -/
def readTo (dst : Nat) (src : Endpoint) : Packet :=
  { opcode := BitVec.ofNat 8 Op.rdUnc, src := src, principal := 0x12345, tag := 0x3FFF, dlocal := 0xC0, addr := BitVec.ofNat 64 (dst * 2 ^ 52) }
/-- A line of a contribution under a reservation on port 63. -/
def putTo : Packet := { passing Op.colPut 0x12345 with chan := 3, len := 4 }
def probeTo (dst l : Nat) (src : Endpoint) : Packet :=
  { opcode := BitVec.ofNat 8 Op.fenceProbe, fw := 7, src := src, principal := src, dlocal := BitVec.ofNat 8 l, addr := BitVec.ofNat 64 (dst * 2 ^ 52) }
def inboxed (q : Packet) : State := { ported with fab := { inbox := [q] } }
def leashedQ (q : Packet) : State := { ported with qos := { ported.qos with queue := [(5, [q])] } }
def linked (l : PortLink) : State := { ported with link := [(63, l)] }
def fenced (p : Option (Packet × Option Nat)) : State :=
  { ported with fab := { fences := [(3 * 1024 + 1023, { src := 0x12345, dst := 0x7D7, col := false, weight := 255, pkt := p })] } }

theorem witness_PacketsArrive_0 :
    ported.wf = true ∧ ported.quiet ∧ ported.node ≠ 4095 ∧ 19 ≠ Op.fenceProbe ∧ (readTo 291 214273).fence = false
      ∧ (readTo 291 214273).toNeighbour = false ∧ ported.isTrunk 63 = true ∧ ported.isAccess 63 = false := by decide +kernel

theorem witness_PacketsArrive_0_a :
    ported.wf = true ∧ ported.quiet ∧ ported.node ≠ 4095 ∧ 19 ≠ Op.fenceProbe ∧ (readTo 7 214273).fence = false
      ∧ (readTo 7 214273).toNeighbour = false ∧ ported.isTrunk 63 = true ∧ ported.isAccess 63 = false := by decide +kernel

theorem witness_PacketsArrive_1 :
    ported.wf = true ∧ ported.quiet ∧ ported.node ≠ 4095 ∧ 19 ≠ Op.fenceProbe ∧ (readTo 291 214529).fence = false
      ∧ (readTo 291 214529).toNeighbour = false ∧ ported.isAccess 5 = true ∧ ported.isTrunk 5 = false
      ∧ 214529 / 256 ≠ ported.rd F.rtePort_peer 5 ∧ (readTo 291 214529).destNode ≠ ported.node := by decide +kernel

theorem witness_PacketsArrive_2 :
    ported.wf = true ∧ ported.quiet ∧ ported.node ≠ 4095 ∧ 19 ≠ Op.fenceProbe ∧ (readTo 291 214273).fence = false
      ∧ (readTo 291 214273).toNeighbour = false ∧ ported.isAccess 5 = true ∧ ported.isTrunk 5 = false
      ∧ 214273 / 256 = ported.rd F.rtePort_peer 5 ∧ opKnown 19 = true ∧ formOk (readTo 291 214273) = true
      ∧ (readTo 291 214273).chan = 0
      ∧ ported.foreign (ported.rd F.secPortMap_partition 5) { opcode := (readTo 291 214273).opcode, chan := (readTo 291 214273).chan, bank := ported.injBank (5 / 16) true, poison := (readTo 291 214273).poison, fence := (readTo 291 214273).fence, len := (readTo 291 214273).len, cls := (readTo 291 214273).cls, sub := (readTo 291 214273).sub, fw := (readTo 291 214273).fw, src := (readTo 291 214273).src, principal := (readTo 291 214273).src, tag := (readTo 291 214273).tag, dlocal := (readTo 291 214273).dlocal, txid := (readTo 291 214273).txid, addr := (readTo 291 214273).addr, dest := (readTo 291 214273).dest, status := (readTo 291 214273).status, bark := (readTo 291 214273).bark, detail := (readTo 291 214273).detail, dataFlag := (readTo 291 214273).dataFlag, resv := (readTo 291 214273).resv, data := (readTo 291 214273).data, mask := (readTo 291 214273).mask : Packet } = false
      ∧ ported.leashed 5 = false ∧ ported.leashQueue 5 = [] := by decide +kernel

theorem witness_PacketsArrive_2_a :
    ported.wf = true ∧ ported.quiet ∧ ported.node ≠ 4095 ∧ 19 ≠ Op.fenceProbe ∧ (readTo 7 214273).fence = false
      ∧ (readTo 7 214273).toNeighbour = false ∧ ported.isAccess 5 = true ∧ ported.isTrunk 5 = false
      ∧ 214273 / 256 = ported.rd F.rtePort_peer 5 ∧ opKnown 19 = true ∧ formOk (readTo 7 214273) = true
      ∧ (readTo 7 214273).chan = 0
      ∧ ported.foreign (ported.rd F.secPortMap_partition 5) { opcode := (readTo 7 214273).opcode, chan := (readTo 7 214273).chan, bank := ported.injBank (5 / 16) true, poison := (readTo 7 214273).poison, fence := (readTo 7 214273).fence, len := (readTo 7 214273).len, cls := (readTo 7 214273).cls, sub := (readTo 7 214273).sub, fw := (readTo 7 214273).fw, src := (readTo 7 214273).src, principal := (readTo 7 214273).src, tag := (readTo 7 214273).tag, dlocal := (readTo 7 214273).dlocal, txid := (readTo 7 214273).txid, addr := (readTo 7 214273).addr, dest := (readTo 7 214273).dest, status := (readTo 7 214273).status, bark := (readTo 7 214273).bark, detail := (readTo 7 214273).detail, dataFlag := (readTo 7 214273).dataFlag, resv := (readTo 7 214273).resv, data := (readTo 7 214273).data, mask := (readTo 7 214273).mask : Packet } = false
      ∧ ported.leashed 5 = false ∧ ported.leashQueue 5 = [] := by decide +kernel

theorem witness_PacketsLeave_0_0 :
    (heldAt ported (readTo 291 214273) 3 5).wf = true ∧ (heldAt ported (readTo 291 214273) 3 5).quiet
      ∧ (heldAt ported (readTo 291 214273) 3 5).fab.held[0]? = some { pkt := readTo 291 214273, die := 3, inPort := some 5 : Held }
      ∧ State.ownRow (readTo 291 214273) = false ∧ (readTo 291 214273).fence = false ∧ (readTo 291 214273).chan ≠ 1
      ∧ ((heldAt ported (readTo 291 214273) 3 5).colPort (readTo 291 214273) = some 63 ∨ (heldAt ported (readTo 291 214273) 3 5).colPort (readTo 291 214273) = none ∧ (heldAt ported (readTo 291 214273) 3 5).eligibleHops (readTo 291 214273) ≠ [] ∧ (heldAt ported (readTo 291 214273) 3 5).bestHop 3 (readTo 291 214273) ((heldAt ported (readTo 291 214273) 3 5).eligibleHops (readTo 291 214273)) = some 63)
      ∧ (heldAt ported (readTo 291 214273) 3 5).portRoom 63 (readTo 291 214273) = true := by decide +kernel

theorem witness_PacketsLeave_0_0_a :
    (rsvAt (heldAt ported putTo 3 5) [{ planNode := 291, plan := 63, gen := 255, dst := 74501, floor := 4 : Rsv }]).wf = true
      ∧ (rsvAt (heldAt ported putTo 3 5) [{ planNode := 291, plan := 63, gen := 255, dst := 74501, floor := 4 : Rsv }]).quiet
      ∧ (rsvAt (heldAt ported putTo 3 5) [{ planNode := 291, plan := 63, gen := 255, dst := 74501, floor := 4 : Rsv }]).fab.held[0]? = some { pkt := putTo, die := 3, inPort := some 5 : Held }
      ∧ State.ownRow putTo = false ∧ putTo.fence = false ∧ putTo.chan ≠ 1
      ∧ ((rsvAt (heldAt ported putTo 3 5) [{ planNode := 291, plan := 63, gen := 255, dst := 74501, floor := 4 : Rsv }]).colPort putTo = some 63 ∨ (rsvAt (heldAt ported putTo 3 5) [{ planNode := 291, plan := 63, gen := 255, dst := 74501, floor := 4 : Rsv }]).colPort putTo = none ∧ (rsvAt (heldAt ported putTo 3 5) [{ planNode := 291, plan := 63, gen := 255, dst := 74501, floor := 4 : Rsv }]).eligibleHops putTo ≠ [] ∧ (rsvAt (heldAt ported putTo 3 5) [{ planNode := 291, plan := 63, gen := 255, dst := 74501, floor := 4 : Rsv }]).bestHop 3 putTo ((rsvAt (heldAt ported putTo 3 5) [{ planNode := 291, plan := 63, gen := 255, dst := 74501, floor := 4 : Rsv }]).eligibleHops putTo) = some 63)
      ∧ (rsvAt (heldAt ported putTo 3 5) [{ planNode := 291, plan := 63, gen := 255, dst := 74501, floor := 4 : Rsv }]).portRoom 63 putTo = true := by decide +kernel

theorem witness_PacketsLeave_0_1 :
    (heldAt ported (readTo 292 214273) 3 5).wf = true ∧ (heldAt ported (readTo 292 214273) 3 5).quiet
      ∧ (heldAt ported (readTo 292 214273) 3 5).fab.held[0]? = some { pkt := readTo 292 214273, die := 3, inPort := some 5 : Held }
      ∧ State.ownRow (readTo 292 214273) = false ∧ (readTo 292 214273).fence = false ∧ (readTo 292 214273).chan ≠ 1
      ∧ (heldAt ported (readTo 292 214273) 3 5).colPort (readTo 292 214273) = none
      ∧ (heldAt ported (readTo 292 214273) 3 5).eligibleHops (readTo 292 214273) = []
      ∧ 214273 / 256 ≠ (heldAt ported (readTo 292 214273) 3 5).node := by decide +kernel

theorem witness_PacketsLeave_1 :
    (heldAt ported (readTo 291 214273) 3 5).wf = true ∧ (heldAt ported (readTo 291 214273) 3 5).quiet
      ∧ (heldAt ported (readTo 291 214273) 3 5).bestHop 3 (readTo 291 214273) [(0, 63)] = some 63 := by decide +kernel

theorem witness_PacketsLeave_2 :
    (heldAt ported (readTo 291 214273) 3 5).wf = true ∧ (heldAt ported (readTo 291 214273) 3 5).quiet
      ∧ (heldAt ported (readTo 291 214273) 3 5).fab.held[0]? = some { pkt := readTo 291 214273, die := 3, inPort := some 5 : Held } := by decide +kernel

theorem witness_PacketsLeave_3 :
    (inboxed (readTo 7 214273)).wf = true ∧ (inboxed (readTo 7 214273)).quiet
      ∧ (inboxed (readTo 7 214273)).fab.inbox[0]? = some (readTo 7 214273) := by decide +kernel

theorem witness_PacketsLeave_4 :
    (leashedQ (readTo 7 214273)).wf = true ∧ (leashedQ (readTo 7 214273)).quiet
      ∧ ((leashedQ (readTo 7 214273)).leashQueue 5)[0]? = some (readTo 7 214273)
      ∧ (leashedQ (readTo 7 214273)).qos.queue.sorted = true := by decide +kernel

theorem witness_PacketsLeave_5 :
    (linked { txq := [readTo 291 214273] : PortLink }).wf = true ∧ (linked { txq := [readTo 291 214273] : PortLink }).quiet
      ∧ ((linked { txq := [readTo 291 214273] : PortLink }).getLink 63).txq[0]? = some (readTo 291 214273)
      ∧ (linked { txq := [readTo 291 214273] : PortLink }).link.sorted = true := by decide +kernel

theorem witness_PacketsLeave_6 :
    (linked { fifo := [readTo 291 214273] : PortLink }).wf = true
      ∧ (linked { fifo := [readTo 291 214273] : PortLink }).quiet
      ∧ ((linked { fifo := [readTo 291 214273] : PortLink }).getLink 63).fifo[0]? = some (readTo 291 214273)
      ∧ (linked { fifo := [readTo 291 214273] : PortLink }).link.sorted = true := by decide +kernel

theorem witness_PacketsLeave_7 :
    (linked { rx := [readTo 291 214273] : PortLink }).wf = true ∧ (linked { rx := [readTo 291 214273] : PortLink }).quiet
      ∧ ((linked { rx := [readTo 291 214273] : PortLink }).getLink 63).rx[0]? = some (readTo 291 214273) := by decide +kernel

theorem witness_FencesAndBanks_0_0 :
    (regsAt ported [(F.rtePort_type, 48, 2)]).wf = true ∧ (regsAt ported [(F.rtePort_type, 48, 2)]).quiet
      ∧ 1 = Op.fenceProbe ∧ (regsAt ported [(F.rtePort_type, 48, 2)]).node ≠ 4095
      ∧ (regsAt ported [(F.rtePort_type, 48, 2)]).isTrunk 48 = true
      ∧ (regsAt ported [(F.rtePort_type, 48, 2)]).isAccess 48 = false ∧ formOk (probeTo 291 5 74565) = true
      ∧ (regsAt ported [(F.rtePort_type, 48, 2)]).probeWaits (probeTo 291 5 74565) = false
      ∧ (probeTo 291 5 74565).destNode ≠ (regsAt ported [(F.rtePort_type, 48, 2)]).node
      ∧ (regsAt ported [(F.rtePort_type, 48, 2)]).colPort (probeTo 291 5 74565) = none
      ∧ (regsAt ported [(F.rtePort_type, 48, 2)]).eligibleHops (probeTo 291 5 74565) = [(0, 63)]
      ∧ (regsAt ported [(F.rtePort_type, 48, 2)]).isAccess 63 = false
      ∧ (regsAt ported [(F.rtePort_type, 48, 2)]).getLink 48 = { : PortLink } := by decide +kernel

theorem witness_FencesAndBanks_0_1 :
    (regsAt ported [(F.rtePort_type, 48, 2)]).wf = true ∧ (regsAt ported [(F.rtePort_type, 48, 2)]).quiet
      ∧ 1 = Op.fenceProbe ∧ (regsAt ported [(F.rtePort_type, 48, 2)]).node ≠ 4095
      ∧ (regsAt ported [(F.rtePort_type, 48, 2)]).isTrunk 48 = true
      ∧ (regsAt ported [(F.rtePort_type, 48, 2)]).isAccess 48 = false ∧ formOk (probeTo 7 215 74565) = true
      ∧ (regsAt ported [(F.rtePort_type, 48, 2)]).probeWaits (probeTo 7 215 74565) = false
      ∧ (probeTo 7 215 74565).destNode = (regsAt ported [(F.rtePort_type, 48, 2)]).node
      ∧ State.forHomes (probeTo 7 215 74565) = false ∧ State.agentTakes (probeTo 7 215 74565).destLocal Op.fenceProbe = true
      ∧ (regsAt ported [(F.rtePort_type, 48, 2)]).getLink 48 = { : PortLink } ∧ (probeTo 7 215 74565).fence = false := by decide +kernel

theorem witness_FencesAndBanks_1 :
    (inboxed (probeTo 7 195 74565)).wf = true ∧ (inboxed (probeTo 7 195 74565)).quiet ∧ 1 = Op.fenceProbe ∧ 195 = 192 + 3
      ∧ (probeTo 7 195 74565).chan = 0 ∧ (inboxed (probeTo 7 195 74565)).fab.inbox.head? = some (probeTo 7 195 74565) := by decide +kernel

theorem witness_FencesAndBanks_2 :
    (fenced (some ({ opcode := (readTo 7 74565).opcode, chan := (readTo 7 74565).chan, hop := (readTo 7 74565).hop, bank := (readTo 7 74565).bank, poison := (readTo 7 74565).poison, fence := true, len := (readTo 7 74565).len, cls := (readTo 7 74565).cls, sub := (readTo 7 74565).sub, fw := (readTo 7 74565).fw, src := (readTo 7 74565).src, principal := (readTo 7 74565).principal, tag := (readTo 7 74565).tag, dlocal := (readTo 7 74565).dlocal, txid := (readTo 7 74565).txid, addr := (readTo 7 74565).addr, dest := (readTo 7 74565).dest, status := (readTo 7 74565).status, bark := (readTo 7 74565).bark, detail := (readTo 7 74565).detail, dataFlag := (readTo 7 74565).dataFlag, resv := (readTo 7 74565).resv, data := (readTo 7 74565).data, mask := (readTo 7 74565).mask : Packet }, none))).wf = true
      ∧ (fenced (some ({ opcode := (readTo 7 74565).opcode, chan := (readTo 7 74565).chan, hop := (readTo 7 74565).hop, bank := (readTo 7 74565).bank, poison := (readTo 7 74565).poison, fence := true, len := (readTo 7 74565).len, cls := (readTo 7 74565).cls, sub := (readTo 7 74565).sub, fw := (readTo 7 74565).fw, src := (readTo 7 74565).src, principal := (readTo 7 74565).principal, tag := (readTo 7 74565).tag, dlocal := (readTo 7 74565).dlocal, txid := (readTo 7 74565).txid, addr := (readTo 7 74565).addr, dest := (readTo 7 74565).dest, status := (readTo 7 74565).status, bark := (readTo 7 74565).bark, detail := (readTo 7 74565).detail, dataFlag := (readTo 7 74565).dataFlag, resv := (readTo 7 74565).resv, data := (readTo 7 74565).data, mask := (readTo 7 74565).mask : Packet }, none))).quiet
      ∧ (fenced (some ({ opcode := (readTo 7 74565).opcode, chan := (readTo 7 74565).chan, hop := (readTo 7 74565).hop, bank := (readTo 7 74565).bank, poison := (readTo 7 74565).poison, fence := true, len := (readTo 7 74565).len, cls := (readTo 7 74565).cls, sub := (readTo 7 74565).sub, fw := (readTo 7 74565).fw, src := (readTo 7 74565).src, principal := (readTo 7 74565).principal, tag := (readTo 7 74565).tag, dlocal := (readTo 7 74565).dlocal, txid := (readTo 7 74565).txid, addr := (readTo 7 74565).addr, dest := (readTo 7 74565).dest, status := (readTo 7 74565).status, bark := (readTo 7 74565).bark, detail := (readTo 7 74565).detail, dataFlag := (readTo 7 74565).dataFlag, resv := (readTo 7 74565).resv, data := (readTo 7 74565).data, mask := (readTo 7 74565).mask : Packet }, none))).fab.fences.look (3 * 1024 + 1023) = some { src := 74565, dst := 2007, col := false, weight := 255, pkt := some ({ opcode := (readTo 7 74565).opcode, chan := (readTo 7 74565).chan, hop := (readTo 7 74565).hop, bank := (readTo 7 74565).bank, poison := (readTo 7 74565).poison, fence := true, len := (readTo 7 74565).len, cls := (readTo 7 74565).cls, sub := (readTo 7 74565).sub, fw := (readTo 7 74565).fw, src := (readTo 7 74565).src, principal := (readTo 7 74565).principal, tag := (readTo 7 74565).tag, dlocal := (readTo 7 74565).dlocal, txid := (readTo 7 74565).txid, addr := (readTo 7 74565).addr, dest := (readTo 7 74565).dest, status := (readTo 7 74565).status, bark := (readTo 7 74565).bark, detail := (readTo 7 74565).detail, dataFlag := (readTo 7 74565).dataFlag, resv := (readTo 7 74565).resv, data := (readTo 7 74565).data, mask := (readTo 7 74565).mask : Packet }, none) : FenceEntry }
      ∧ (3 * 1024 + 1023) / 1024 = 3
      ∧ (fenced (some ({ opcode := (readTo 7 74565).opcode, chan := (readTo 7 74565).chan, hop := (readTo 7 74565).hop, bank := (readTo 7 74565).bank, poison := (readTo 7 74565).poison, fence := true, len := (readTo 7 74565).len, cls := (readTo 7 74565).cls, sub := (readTo 7 74565).sub, fw := (readTo 7 74565).fw, src := (readTo 7 74565).src, principal := (readTo 7 74565).principal, tag := (readTo 7 74565).tag, dlocal := (readTo 7 74565).dlocal, txid := (readTo 7 74565).txid, addr := (readTo 7 74565).addr, dest := (readTo 7 74565).dest, status := (readTo 7 74565).status, bark := (readTo 7 74565).bark, detail := (readTo 7 74565).detail, dataFlag := (readTo 7 74565).dataFlag, resv := (readTo 7 74565).resv, data := (readTo 7 74565).data, mask := (readTo 7 74565).mask : Packet }, none))).fab.fences.sorted = true
      ∧ (∀ x ∈ (fenced (some ({ opcode := (readTo 7 74565).opcode, chan := (readTo 7 74565).chan, hop := (readTo 7 74565).hop, bank := (readTo 7 74565).bank, poison := (readTo 7 74565).poison, fence := true, len := (readTo 7 74565).len, cls := (readTo 7 74565).cls, sub := (readTo 7 74565).sub, fw := (readTo 7 74565).fw, src := (readTo 7 74565).src, principal := (readTo 7 74565).principal, tag := (readTo 7 74565).tag, dlocal := (readTo 7 74565).dlocal, txid := (readTo 7 74565).txid, addr := (readTo 7 74565).addr, dest := (readTo 7 74565).dest, status := (readTo 7 74565).status, bark := (readTo 7 74565).bark, detail := (readTo 7 74565).detail, dataFlag := (readTo 7 74565).dataFlag, resv := (readTo 7 74565).resv, data := (readTo 7 74565).data, mask := (readTo 7 74565).mask : Packet }, none))).fab.fences, x.2.src = { src := 74565, dst := 2007, col := false, weight := 255, pkt := some ({ opcode := (readTo 7 74565).opcode, chan := (readTo 7 74565).chan, hop := (readTo 7 74565).hop, bank := (readTo 7 74565).bank, poison := (readTo 7 74565).poison, fence := true, len := (readTo 7 74565).len, cls := (readTo 7 74565).cls, sub := (readTo 7 74565).sub, fw := (readTo 7 74565).fw, src := (readTo 7 74565).src, principal := (readTo 7 74565).principal, tag := (readTo 7 74565).tag, dlocal := (readTo 7 74565).dlocal, txid := (readTo 7 74565).txid, addr := (readTo 7 74565).addr, dest := (readTo 7 74565).dest, status := (readTo 7 74565).status, bark := (readTo 7 74565).bark, detail := (readTo 7 74565).detail, dataFlag := (readTo 7 74565).dataFlag, resv := (readTo 7 74565).resv, data := (readTo 7 74565).data, mask := (readTo 7 74565).mask : Packet }, none) : FenceEntry }.src → x.2.dst = { src := 74565, dst := 2007, col := false, weight := 255, pkt := some ({ opcode := (readTo 7 74565).opcode, chan := (readTo 7 74565).chan, hop := (readTo 7 74565).hop, bank := (readTo 7 74565).bank, poison := (readTo 7 74565).poison, fence := true, len := (readTo 7 74565).len, cls := (readTo 7 74565).cls, sub := (readTo 7 74565).sub, fw := (readTo 7 74565).fw, src := (readTo 7 74565).src, principal := (readTo 7 74565).principal, tag := (readTo 7 74565).tag, dlocal := (readTo 7 74565).dlocal, txid := (readTo 7 74565).txid, addr := (readTo 7 74565).addr, dest := (readTo 7 74565).dest, status := (readTo 7 74565).status, bark := (readTo 7 74565).bark, detail := (readTo 7 74565).detail, dataFlag := (readTo 7 74565).dataFlag, resv := (readTo 7 74565).resv, data := (readTo 7 74565).data, mask := (readTo 7 74565).mask : Packet }, none) : FenceEntry }.dst → x.2.col = { src := 74565, dst := 2007, col := false, weight := 255, pkt := some ({ opcode := (readTo 7 74565).opcode, chan := (readTo 7 74565).chan, hop := (readTo 7 74565).hop, bank := (readTo 7 74565).bank, poison := (readTo 7 74565).poison, fence := true, len := (readTo 7 74565).len, cls := (readTo 7 74565).cls, sub := (readTo 7 74565).sub, fw := (readTo 7 74565).fw, src := (readTo 7 74565).src, principal := (readTo 7 74565).principal, tag := (readTo 7 74565).tag, dlocal := (readTo 7 74565).dlocal, txid := (readTo 7 74565).txid, addr := (readTo 7 74565).addr, dest := (readTo 7 74565).dest, status := (readTo 7 74565).status, bark := (readTo 7 74565).bark, detail := (readTo 7 74565).detail, dataFlag := (readTo 7 74565).dataFlag, resv := (readTo 7 74565).resv, data := (readTo 7 74565).data, mask := (readTo 7 74565).mask : Packet }, none) : FenceEntry }.col → x.1 / 1024 = 3 → x.1 = 3 * 1024 + 1023) := by decide +kernel

theorem witness_FencesAndBanks_2_a :
    (fenced none).wf = true ∧ (fenced none).quiet
      ∧ (fenced none).fab.fences.look (3 * 1024 + 1023) = some { src := 74565, dst := 2007, col := false, weight := 255 : FenceEntry }
      ∧ (3 * 1024 + 1023) / 1024 = 3 ∧ (fenced none).fab.fences.sorted = true
      ∧ (∀ x ∈ (fenced none).fab.fences, x.2.src = { src := 74565, dst := 2007, col := false, weight := 255 : FenceEntry }.src → x.2.dst = { src := 74565, dst := 2007, col := false, weight := 255 : FenceEntry }.dst → x.2.col = { src := 74565, dst := 2007, col := false, weight := 255 : FenceEntry }.col → x.1 / 1024 = 3 → x.1 = 3 * 1024 + 1023) := by decide +kernel

theorem witness_FencesAndBanks_3_0 :
    ported.wf = true ∧ ported.quiet
      ∧ (∀ d < 4, ported.rd (if true = true then F.rteInflight_bank1 else F.rteInflight_bank0) d = 0) := by decide +kernel

theorem witness_FencesAndBanks_3_1 :
    (regsAt ported [(F.rteInflight_bank1, 3, 1)]).wf = true ∧ (regsAt ported [(F.rteInflight_bank1, 3, 1)]).quiet
      ∧ (∃ d < 4, (regsAt ported [(F.rteInflight_bank1, 3, 1)]).rd (if true = true then F.rteInflight_bank1 else F.rteInflight_bank0) d ≠ 0) := by decide +kernel

/-- Port 63's link in a state, with sequence numbers at the end of their range. -/
def link63 (st : Nat) (p : PortLink) : State :=
  { regsAt ported [(F.lnkStatus_state, 63, st), (F.lnkSeq_rxExpect, 63, 16383), (F.lnkSeq_txNext, 63, 0), (F.lnkSeq_txOldest, 63, 16383)] with link := [(63, p)] }
def kept : SentFlit := { seq := 16383, body := [.more 15], debits := [(0, 1)], ends := [true] }
def active : PortLink := { farSizes := List.replicate 20 64, replay := [kept] }
def dataOf (seq ack : Nat) (body : List BodyItem) : Flit :=
  { type := 1, seq := BitVec.ofNat 14 seq, ack := BitVec.ofNat 14 ack, cselA := 3, crdA := 7, cselB := 19, crdB := 2047, body := body }
def tx1 : Packet := { readTo 0x123 0x34501 with hop := 1 }
def nakOwed : PortLink := { active with nakQueued := true }
def oneQueued : PortLink := { active with txq := [tx1] }
def oneReceived : PortLink := { active with rx := [tx1] }
def noCredit : PortLink := { active with txq := [tx1], farSizes := [] }
def markedFront : PortLink := { active with wire := { flits := [{ bits := 0, marked := true }] } }
def initBody (seen : Bool) : InitBody := { seen := seen, node := 0x123, port := 5, size := List.replicate 20 64 }
def inInit (p : PortLink) : State := regsAt (link63 2 p) [(F.lanStatus_stage, 63, 9)]
def ctlWord : Word := BitVec.ofNat 32 ((State.reset.reg .lnkCtrl 63).toNat ||| 1)
def exhausted (st : Nat) : State := link63 st { active with replays := 15, attempts := 7 }

theorem witness_LinkFlits_0 :
    (link63 3 active).wf = true ∧ (link63 3 active).quiet ∧ (link63 3 active).link.sorted = true
      ∧ (link63 3 active).linkState 63 = 3 ∧ TakesFlit (link63 3 active) 63 (dataOf 16383 16383 [BodyItem.start tx1 15])
      ∧ seqSub 16383 ((link63 3 active).rd F.lnkSeq_rxExpect 63) = 0
      ∧ (dataOf 16383 16383 [BodyItem.start tx1 15]).body = [BodyItem.start tx1 15] ∧ tx1.opcode ≠ 0 ∧ tx1.framable = true
      ∧ tx1.slots ≤ 15 := by decide +kernel

theorem witness_LinkFlits_1 :
    (link63 3 active).wf = true ∧ (link63 3 active).quiet ∧ (link63 3 active).link.sorted = true
      ∧ (link63 3 active).linkState 63 = 3 ∧ TakesFlit (link63 3 active) 63 (dataOf 0 16382 [BodyItem.start tx1 15])
      ∧ 0 < seqSub 0 ((link63 3 active).rd F.lnkSeq_rxExpect 63) ∧ seqSub 0 ((link63 3 active).rd F.lnkSeq_rxExpect 63) < 8192 := by decide +kernel

theorem witness_LinkFlits_1_a :
    (link63 3 active).wf = true ∧ (link63 3 active).quiet ∧ (link63 3 active).link.sorted = true
      ∧ (link63 3 active).linkState 63 = 3 ∧ TakesFlit (link63 3 active) 63 (dataOf 8190 16382 [BodyItem.start tx1 15])
      ∧ 0 < seqSub 8190 ((link63 3 active).rd F.lnkSeq_rxExpect 63)
      ∧ seqSub 8190 ((link63 3 active).rd F.lnkSeq_rxExpect 63) < 8192 := by decide +kernel

theorem witness_LinkFlits_2 :
    (link63 3 active).wf = true ∧ (link63 3 active).quiet ∧ (link63 3 active).link.sorted = true
      ∧ (link63 3 active).linkState 63 = 3 ∧ TakesFlit (link63 3 active) 63 (dataOf 16383 16382 [])
      ∧ seqSub 16383 ((link63 3 active).rd F.lnkSeq_rxExpect 63) = 0 := by decide +kernel

theorem witness_LinkFlits_3 :
    (link63 3 active).wf = true ∧ (link63 3 active).quiet ∧ (link63 3 active).link.sorted = true
      ∧ (link63 3 active).linkState 63 = 3 ∧ TakesFlit (link63 3 active) 63 (dataOf 16383 16382 [])
      ∧ seqSub 16383 ((link63 3 active).rd F.lnkSeq_rxExpect 63) = 0 ∧ ((link63 3 active).getLink 63).resend = none
      ∧ seqSub (16382 + 1) ((link63 3 active).rd F.lnkSeq_txOldest 63) = 0 ∧ ((link63 3 active).getLink 63).replay ≠ []
      ∧ ((link63 3 active).getLink 63).replays < (link63 3 active).rd F.lnkCtrl_replayLimit 63 := by decide +kernel

theorem witness_LinkFlits_4_0 :
    (link63 3 active).wf = true ∧ (link63 3 active).quiet ∧ (link63 3 active).link.sorted = true
      ∧ (link63 3 active).linkState 63 = 3 ∧ ((link63 3 active).getLink 63).replay ≠ []
      ∧ ((link63 3 active).getLink 63).replays < (link63 3 active).rd F.lnkCtrl_replayLimit 63 := by decide +kernel

theorem witness_LinkFlits_4_1 :
    (exhausted 3).wf = true ∧ (exhausted 3).quiet ∧ (exhausted 3).link.sorted = true ∧ (exhausted 3).linkState 63 = 3
      ∧ ((exhausted 3).getLink 63).replay ≠ []
      ∧ (exhausted 3).rd F.lnkCtrl_replayLimit 63 ≤ ((exhausted 3).getLink 63).replays := by decide +kernel

theorem witness_LinkFlits_5 :
    (link63 3 active).wf = true ∧ (link63 3 active).quiet ∧ (link63 3 active).link.sorted = true
      ∧ (link63 3 active).linkState 63 = 3 := by decide +kernel

theorem witness_LinkFlits_6 :
    (link63 3 markedFront).wf = true ∧ (link63 3 markedFront).quiet ∧ (link63 3 markedFront).link.sorted = true
      ∧ (link63 3 markedFront).linkState 63 = 3 ∧ ((link63 3 markedFront).takeFront 63).1 = true
      ∧ Instr.idleFlit 63 { : Flit } ∈ [Instr.dataFlit 63 { : Flit }, Instr.idleFlit 63 { : Flit }, Instr.nakFlit 63 { : Flit } Ecc.clean] := by decide +kernel

theorem witness_LinkFlits_7_0 :
    (link63 3 nakOwed).wf = true ∧ (link63 3 nakOwed).quiet ∧ (link63 3 nakOwed).link.sorted = true
      ∧ (link63 3 nakOwed).linkState 63 = 3 ∧ (link63 3 nakOwed).flag F.lanStatus_txEi 63 = false
      ∧ ((link63 3 nakOwed).getLink 63).nakQueued = true := by decide +kernel

theorem witness_LinkFlits_7_1 :
    (link63 3 oneQueued).wf = true ∧ (link63 3 oneQueued).quiet ∧ (link63 3 oneQueued).link.sorted = true
      ∧ (link63 3 oneQueued).linkState 63 = 3 ∧ (link63 3 oneQueued).flag F.lanStatus_txEi 63 = false
      ∧ ((link63 3 oneQueued).getLink 63).nakQueued = false ∧ ((link63 3 oneQueued).getLink 63).resend = none
      ∧ ((link63 3 oneQueued).getLink 63).replay.length < 2048 ∧ ((link63 3 oneQueued).getLink 63).cur = none
      ∧ ((link63 3 oneQueued).getLink 63).txq = [tx1] ∧ tx1.chan ≠ 1 ∧ tx1.buf < 20 ∧ 0 < tx1.slots
      ∧ tx1.slots ≤ (link63 3 oneQueued).bodySlots 63
      ∧ (link63 3 oneQueued).mayStart 63 ((link63 3 oneQueued).getLink 63) tx1 = true := by decide +kernel

theorem witness_LinkFlits_7_2 :
    (link63 3 active).wf = true ∧ (link63 3 active).quiet ∧ (link63 3 active).link.sorted = true
      ∧ (link63 3 active).linkState 63 = 3 ∧ (link63 3 active).flag F.lanStatus_txEi 63 = false
      ∧ ((link63 3 active).getLink 63).nakQueued = false ∧ ((link63 3 active).getLink 63).resend = none
      ∧ ((link63 3 active).getLink 63).cur = none ∧ ((link63 3 active).getLink 63).txq = []
      ∧ ((link63 3 active).getLink 63).ackNew = false ∧ ((link63 3 active).getLink 63).changed = [] := by decide +kernel

theorem witness_LinkFlits_7_3 :
    (link63 3 oneQueued).wf = true ∧ (link63 3 oneQueued).quiet ∧ (link63 3 oneQueued).link.sorted = true
      ∧ (link63 3 oneQueued).linkState 63 = 3 ∧ (link63 3 oneQueued).flag F.lanStatus_txEi 63 = false := by decide +kernel

theorem witness_LinkFlits_8 :
    (link63 3 oneReceived).wf = true ∧ (link63 3 oneReceived).quiet ∧ (link63 3 oneReceived).link.sorted = true
      ∧ (link63 3 oneReceived).linkState 63 = 3
      ∧ (List.find? (fun (q : Packet) => q.buf == 1) ((link63 3 oneReceived).getLink 63).rx = some tx1)
      ∧ State.fifoRoom ((link63 3 oneReceived).getLink 63).fifo tx1 = true := by decide +kernel

theorem witness_LinkStates_0 :
    (link63 0 { : PortLink }).wf = true ∧ (link63 0 { : PortLink }).quiet
      ∧ (link63 0 { : PortLink }).accepts (wordWrite Path.root Reg.lnkCtrl 63 0 (fieldIn ctlWord 0 1 1))
      ∧ (link63 0 { : PortLink }).linkState 63 = 0 ∧ (link63 0 { : PortLink }).pwr.lanesLost.contains (63 / 16) = false := by decide +kernel

theorem witness_LinkStates_1_0 :
    (link63 5 { : PortLink }).wf = true ∧ (link63 5 { : PortLink }).quiet
      ∧ (link63 5 { : PortLink }).accepts (wordWrite Path.root Reg.lnkCtrl 63 0 (fieldIn ctlWord 0 1 0))
      ∧ (link63 5 { : PortLink }).linkState 63 = 5 := by decide +kernel

theorem witness_LinkStates_1_1 :
    (link63 4 active).wf = true ∧ (link63 4 active).quiet
      ∧ (link63 4 active).accepts (wordWrite Path.root Reg.lnkCtrl 63 0 (fieldIn ctlWord 0 1 0))
      ∧ 1 ≤ (link63 4 active).linkState 63 ∧ (link63 4 active).linkState 63 ≤ 4 := by decide +kernel

theorem witness_LinkStates_2 :
    (link63 3 active).wf = true ∧ (link63 3 active).quiet
      ∧ (link63 3 active).accepts (wordWrite Path.root Reg.lnkCtrl 63 0 (fieldIn ctlWord 1 1 1)) ∧ 417 % 2 = 1
      ∧ (link63 3 active).linkState 63 = 3 := by decide +kernel

theorem witness_LinkStates_3 :
    (regsAt (link63 5 { : PortLink }) [(F.lnkCtrl_enable, 63, 1)]).wf = true
      ∧ (regsAt (link63 5 { : PortLink }) [(F.lnkCtrl_enable, 63, 1)]).quiet
      ∧ (regsAt (link63 5 { : PortLink }) [(F.lnkCtrl_enable, 63, 1)]).linkState 63 = 5
      ∧ (regsAt (link63 5 { : PortLink }) [(F.lnkCtrl_enable, 63, 1)]).flag F.lnkCtrl_enable 63 = true
      ∧ (regsAt (link63 5 { : PortLink }) [(F.lnkCtrl_enable, 63, 1)]).pwr.lanesLost.contains (63 / 16) = false := by decide +kernel

theorem witness_LinkStates_4 :
    (link63 2 active).wf = true ∧ (link63 2 active).quiet ∧ 2 ≤ (link63 2 active).linkState 63
      ∧ (link63 2 active).linkState 63 ≤ 4 := by decide +kernel

theorem witness_LinkStates_4_a :
    (link63 4 active).wf = true ∧ (link63 4 active).quiet ∧ 2 ≤ (link63 4 active).linkState 63
      ∧ (link63 4 active).linkState 63 ≤ 4 := by decide +kernel

theorem witness_LinkStates_5 :
    (inInit { : PortLink }).wf = true ∧ (inInit { : PortLink }).quiet ∧ (inInit { : PortLink }).linkState 63 = 2
      ∧ (inInit { : PortLink }).keyAwaited 63 = false := by decide +kernel

theorem witness_LinkStates_6_0 :
    (exhausted 4).wf = true ∧ (exhausted 4).quiet ∧ (exhausted 4).linkState 63 = 4 ∧ (exhausted 4).keyAwaited 63 = false
      ∧ (exhausted 4).rd F.lnkCtrl_retrainMax 63 ≤ ((exhausted 4).getLink 63).attempts := by decide +kernel

theorem witness_LinkStates_6_1 :
    (link63 4 active).wf = true ∧ (link63 4 active).quiet ∧ (link63 4 active).linkState 63 = 4
      ∧ (link63 4 active).keyAwaited 63 = false
      ∧ ((link63 4 active).getLink 63).attempts < (link63 4 active).rd F.lnkCtrl_retrainMax 63 := by decide +kernel

theorem witness_LinkStates_7 :
    (link63 3 noCredit).wf = true ∧ (link63 3 noCredit).quiet ∧ (link63 3 noCredit).linkState 63 = 3
      ∧ tx1 ∈ ((link63 3 noCredit).getLink 63).txq ∧ tx1.buf = 1 ∧ State.credits ((link63 3 noCredit).getLink 63) 1 < tx1.cost := by decide +kernel

theorem witness_LinkStates_8 :
    (link63 3 active).wf = true ∧ (link63 3 active).quiet ∧ FrontGood (link63 3 active) 63
      ∧ (link63 3 active).linkState 63 = 3 ∧ 15 ∉ [1, 2, 3, 4] := by decide +kernel

theorem witness_LinkStates_9 :
    (link63 3 active).wf = true ∧ (link63 3 active).quiet ∧ FrontGood (link63 3 active) 63
      ∧ (link63 3 active).linkState 63 = 3 ∧ (initBody false).version = 1 := by decide +kernel

theorem witness_LinkStates_10_0 :
    (inInit { farInit := some (initBody false), sentSeen := true : PortLink }).wf = true
      ∧ (inInit { farInit := some (initBody false), sentSeen := true : PortLink }).quiet
      ∧ (inInit { farInit := some (initBody false), sentSeen := true : PortLink }).linkState 63 = 2
      ∧ (inInit { farInit := some (initBody false), sentSeen := true : PortLink }).rd F.lanStatus_stage 63 = 9
      ∧ (inInit { farInit := some (initBody false), sentSeen := true : PortLink }).flag F.lnkCtrl_protect 63 = false
      ∧ FrontGood (inInit { farInit := some (initBody false), sentSeen := true : PortLink }) 63 ∧ (initBody true).version = 1
      ∧ (initBody true).protect = false ∧ (initBody true).seen = true ∧ (initBody true).keywait = false
      ∧ ((inInit { farInit := some (initBody false), sentSeen := true : PortLink }).getLink 63).sentSeen = true := by decide +kernel

theorem witness_LinkStates_10_1 :
    (inInit { : PortLink }).wf = true ∧ (inInit { : PortLink }).quiet ∧ (inInit { : PortLink }).linkState 63 = 2
      ∧ (inInit { : PortLink }).rd F.lanStatus_stage 63 = 9 ∧ (inInit { : PortLink }).flag F.lnkCtrl_protect 63 = false
      ∧ ((inInit { : PortLink }).getLink 63).farInit = none := by decide +kernel

/-- The lanes of port 63 in a link state and at a stage, lane 7 retired or every lane usable. -/
def lanes63 (st stage : Nat) (x : PortLanes) (l : List (Fld × Nat × Nat) := []) : State :=
  { regsAt (link63 st active) ([(F.lanStatus_stage, 63, stage), (F.lanStatus_detected, 63, 0xFF)] ++ l) with lane := [(63, x)] }
def retired7 (st stage : Nat) (x : PortLanes := {}) : State := lanes63 st stage x [(F.lanStatus_retired, 63, 0x80)]
/-- A TRAIN block for transmit lane 7: type, REQ_T at 30, preset code, tap, direction. -/
def train (code tap dir : Nat) : DWord := BitVec.ofNat 64 (0x4B + 7 * 2 ^ 8 + code * 2 ^ 23 + tap * 2 ^ 27 + dir * 2 ^ 29 + 2 ^ 30 + 0xA5 * 2 ^ 56)
def withPreset (s : State) : State := { s with tab := { s.tab with lanePreset := [[0, -8, -4, 52]] } }
def framesOf (v : BitVec 64) : PortLanes := { frames := [(7, v)] }
def window (u : Nat) : PortLanes := { rxSet := 0xF0, returning := 1, wins := [(6, { uncorr := u }), (7, { uncorr := u })] }
def unretireWord : Word := BitVec.ofNat 32 ((State.reset.reg .lanCtrl 63).toNat ||| (0x80 * 2 ^ 10))
def disabled (l : List (Fld × Nat × Nat) := []) : State := lanes63 0 0 { eyes := [6] } ([(F.lnkCtrl_enable, 63, 0)] ++ l)
def eyeWord : Word := BitVec.ofNat 32 (State.reset.reg .lanEye 511).toNat


/-- A codeword of 40 data blocks; and 10 wrong symbols in its parity, whose first nine syndromes are zero, so that no codeword lies within 8. -/
def goodBits : BitVec 2800 :=
  (messageOf (List.replicate 40 (dataBlock 0))).setWidth 2800 ||| (82861454618241650484928485154752430113575015282#2800 <<< 2640)
def goodFrame : List Level := symbolsOf goodBits
def badFrame : List Level := symbolsOf (goodBits ^^^ (symBits [1, 511, 461, 368, 980, 311, 922, 625, 271, 836] <<< 2700))
def frameAs (m : Bool) (s : List Level) : RxFrame := { message := (bitsOf s).setWidth 2640, marked := m }

/-- The port's wire stands between flits. -/
def idleWire : PortWire := { descr := 5, flits := [{ bits := 3 }] }

theorem witness_LanesComeUp_0_0 :
    (retired7 1 1).wf = true ∧ (retired7 1 1).quiet ∧ (retired7 1 1).lane.sorted = true ∧ (retired7 1 1).laneStage 63 = 1
      ∧ (State.subset (~~~(retired7 1 1).retiredLanes 63) 127 = true ∨ false = true ∧ 2 ≤ State.laneCount 127) := by decide +kernel

theorem witness_LanesComeUp_0_0_a :
    (retired7 1 1).wf = true ∧ (retired7 1 1).quiet ∧ (retired7 1 1).lane.sorted = true ∧ (retired7 1 1).laneStage 63 = 1
      ∧ (State.subset (~~~(retired7 1 1).retiredLanes 63) 3 = true ∨ true = true ∧ 2 ≤ State.laneCount 3) := by decide +kernel

theorem witness_LanesComeUp_0_1 :
    (retired7 1 1).wf = true ∧ (retired7 1 1).quiet ∧ (retired7 1 1).lane.sorted = true ∧ (retired7 1 1).laneStage 63 = 1
      ∧ State.subset (~~~(retired7 1 1).retiredLanes 63) 128 = false ∧ true = true ∧ State.laneCount 128 < 2
      ∧ (retired7 1 1).linkState 63 = 1 ∧ (retired7 1 1).pwr.lanesLost.contains (63 / 16) = false := by decide +kernel

theorem witness_LanesComeUp_1 :
    (retired7 1 2).wf = true ∧ (retired7 1 2).quiet ∧ (retired7 1 2).lane.sorted = true ∧ (retired7 1 2).laneStage 63 = 2
      ∧ 0 = 0 ∧ (retired7 1 2).usable 63 ≠ 0 ∧ State.subset ((retired7 1 2).detected 63) 255 = true
      ∧ State.subset 255 ((retired7 1 2).detected 63) = true := by decide +kernel

theorem witness_LanesComeUp_2 :
    (lanes63 1 3 { blocked := 127 : PortLanes }).wf = true ∧ (lanes63 1 3 { blocked := 127 : PortLanes }).quiet
      ∧ (lanes63 1 3 { blocked := 127 : PortLanes }).lane.sorted = true
      ∧ (lanes63 1 3 { blocked := 127 : PortLanes }).laneStage 63 = 3
      ∧ State.laneIn ((lanes63 1 3 { blocked := 127 : PortLanes }).usable 63) 7 = true := by decide +kernel

theorem witness_LanesComeUp_2_a :
    (lanes63 1 3 { blocked := 63 : PortLanes }).wf = true ∧ (lanes63 1 3 { blocked := 63 : PortLanes }).quiet
      ∧ (lanes63 1 3 { blocked := 63 : PortLanes }).lane.sorted = true
      ∧ (lanes63 1 3 { blocked := 63 : PortLanes }).laneStage 63 = 3
      ∧ State.laneIn ((lanes63 1 3 { blocked := 63 : PortLanes }).usable 63) 7 = true := by decide +kernel

theorem witness_LanesComeUp_3_0 :
    (lanes63 1 4 { provisional := 128, fixed := 127 : PortLanes }).wf = true
      ∧ (lanes63 1 4 { provisional := 128, fixed := 127 : PortLanes }).quiet
      ∧ (lanes63 1 4 { provisional := 128, fixed := 127 : PortLanes }).lane.sorted = true
      ∧ (lanes63 1 4 { provisional := 128, fixed := 127 : PortLanes }).laneStage 63 = 4
      ∧ State.laneIn ((lanes63 1 4 { provisional := 128, fixed := 127 : PortLanes }).usable 63) 7 = true
      ∧ (30 = if State.laneIn ((lanes63 1 4 { provisional := 128, fixed := 127 : PortLanes }).getLanes 63).provisional 7 = true then 30 else 75) := by decide +kernel

theorem witness_LanesComeUp_3_0_a :
    (lanes63 1 4 { : PortLanes }).wf = true ∧ (lanes63 1 4 { : PortLanes }).quiet
      ∧ (lanes63 1 4 { : PortLanes }).lane.sorted = true ∧ (lanes63 1 4 { : PortLanes }).laneStage 63 = 4
      ∧ State.laneIn ((lanes63 1 4 { : PortLanes }).usable 63) 7 = true
      ∧ (75 = if State.laneIn ((lanes63 1 4 { : PortLanes }).getLanes 63).provisional 7 = true then 30 else 75) := by decide +kernel

theorem witness_LanesComeUp_3_1 :
    (lanes63 1 4 { : PortLanes }).wf = true ∧ (lanes63 1 4 { : PortLanes }).quiet
      ∧ (lanes63 1 4 { : PortLanes }).lane.sorted = true ∧ (lanes63 1 4 { : PortLanes }).laneStage 63 = 4
      ∧ State.laneIn ((lanes63 1 4 { : PortLanes }).usable 63) 7 = true ∧ 0 ≠ 30 ∧ 0 ≠ 75 := by decide +kernel

theorem witness_LanesComeUp_4 :
    (lanes63 1 5 { : PortLanes }).wf = true ∧ (lanes63 1 5 { : PortLanes }).quiet
      ∧ (lanes63 1 5 { : PortLanes }).lane.sorted = true ∧ (lanes63 1 5 { : PortLanes }).laneStage 63 = 5
      ∧ (lanes63 1 5 { : PortLanes }).linkState 63 = 1 ∧ (lanes63 1 5 { : PortLanes }).usable 63 = 255 := by decide +kernel

theorem witness_LanesComeUp_5 :
    (lanes63 1 6 { : PortLanes }).wf = true ∧ (lanes63 1 6 { : PortLanes }).quiet
      ∧ (lanes63 1 6 { : PortLanes }).lane.sorted = true ∧ (lanes63 1 6 { : PortLanes }).laneStage 63 = 6 := by decide +kernel

theorem witness_LanesComeUp_6 :
    (lanes63 1 7 { : PortLanes }).wf = true ∧ (lanes63 1 7 { : PortLanes }).quiet
      ∧ (lanes63 1 7 { : PortLanes }).lane.sorted = true ∧ (lanes63 1 7 { : PortLanes }).laneStage 63 = 7 := by decide +kernel

theorem witness_LanesComeUp_7 :
    (lanes63 1 8 { margins := [7], eyes := [0] : PortLanes }).wf = true
      ∧ (lanes63 1 8 { margins := [7], eyes := [0] : PortLanes }).quiet
      ∧ (lanes63 1 8 { margins := [7], eyes := [0] : PortLanes }).lane.sorted = true
      ∧ (lanes63 1 8 { margins := [7], eyes := [0] : PortLanes }).laneStage 63 = 8
      ∧ (lanes63 1 8 { margins := [7], eyes := [0] : PortLanes }).linkState 63 = 1 := by decide +kernel

theorem witness_LanesComeUp_8_0 :
    (lanes63 1 1 { : PortLanes }).wf = true ∧ (lanes63 1 1 { : PortLanes }).quiet
      ∧ (lanes63 1 1 { : PortLanes }).lane.sorted = true ∧ (lanes63 1 1 { : PortLanes }).linkState 63 = 1
      ∧ (lanes63 1 1 { : PortLanes }).laneStage 63 = 1 ∧ 2 ≤ State.laneCount ((lanes63 1 1 { : PortLanes }).detected 63) := by decide +kernel

theorem witness_LanesComeUp_8_1 :
    (lanes63 1 2 { : PortLanes }).wf = true ∧ (lanes63 1 2 { : PortLanes }).quiet
      ∧ (lanes63 1 2 { : PortLanes }).lane.sorted = true ∧ (lanes63 1 2 { : PortLanes }).linkState 63 = 1
      ∧ 2 ≤ (lanes63 1 2 { : PortLanes }).laneStage 63 ∧ (lanes63 1 2 { : PortLanes }).laneStage 63 ≤ 8
      ∧ (lanes63 1 2 { : PortLanes }).pwr.lanesLost.contains (63 / 16) = false := by decide +kernel

theorem witness_LanesComeUp_8_1_a :
    (lanes63 1 8 { : PortLanes }).wf = true ∧ (lanes63 1 8 { : PortLanes }).quiet
      ∧ (lanes63 1 8 { : PortLanes }).lane.sorted = true ∧ (lanes63 1 8 { : PortLanes }).linkState 63 = 1
      ∧ 2 ≤ (lanes63 1 8 { : PortLanes }).laneStage 63 ∧ (lanes63 1 8 { : PortLanes }).laneStage 63 ≤ 8
      ∧ (lanes63 1 8 { : PortLanes }).pwr.lanesLost.contains (63 / 16) = false := by decide +kernel

theorem witness_LanesComeUp_9_0 :
    (withPreset (lanes63 1 8 { : PortLanes })).wf = true ∧ (withPreset (lanes63 1 8 { : PortLanes })).quiet
      ∧ (withPreset (lanes63 1 8 { : PortLanes })).lane.sorted = true
      ∧ (withPreset (lanes63 1 8 { : PortLanes })).laneStage 63 ≠ 0 ∧ 11889503017331853131 / 2 ^ 0 % 2 ^ 8 = 75
      ∧ 11889503017331853131 / 2 ^ 56 % 2 ^ 8 = 165
      ∧ ((withPreset (lanes63 1 8 { : PortLanes })).getLanes 63).reqT.lookD (11889503017331853131 / 2 ^ 8 % 2 ^ 3) false ≠ (11889503017331853131 / 2 ^ 30 % 2 ^ 1 == 1)
      ∧ ((withPreset (lanes63 1 8 { : PortLanes })).getLanes 63).reqT.sorted = true
      ∧ 11889503017331853131 / 2 ^ 23 % 2 ^ 4 ≠ 15
      ∧ (withPreset (lanes63 1 8 { : PortLanes })).tab.lanePreset[11889503017331853131 / 2 ^ 23 % 2 ^ 4]? = some [0, -8, -4, 52] := by decide +kernel

theorem witness_LanesComeUp_9_1_0 :
    (lanes63 1 8 { : PortLanes }).wf = true ∧ (lanes63 1 8 { : PortLanes }).quiet
      ∧ (lanes63 1 8 { : PortLanes }).lane.sorted = true ∧ (lanes63 1 8 { : PortLanes }).laneStage 63 ≠ 0
      ∧ 11889503018397206347 / 2 ^ 0 % 2 ^ 8 = 75 ∧ 11889503018397206347 / 2 ^ 56 % 2 ^ 8 = 165
      ∧ ((lanes63 1 8 { : PortLanes }).getLanes 63).reqT.lookD (11889503018397206347 / 2 ^ 8 % 2 ^ 3) false ≠ (11889503018397206347 / 2 ^ 30 % 2 ^ 1 == 1)
      ∧ ((lanes63 1 8 { : PortLanes }).getLanes 63).reqT.sorted = true ∧ 11889503018397206347 / 2 ^ 23 % 2 ^ 4 = 15
      ∧ 11889503018397206347 / 2 ^ 27 % 2 ^ 2 = 3
      ∧ (-31 ≤ State.tapVal ((lanes63 1 8 { : PortLanes }).rd F.lanEq_post1 (63 * 8 + 11889503018397206347 / 2 ^ 8 % 2 ^ 3)) + if 11889503018397206347 / 2 ^ 29 % 2 ^ 1 = 1 then -1 else 1)
      ∧ ((State.tapVal ((lanes63 1 8 { : PortLanes }).rd F.lanEq_post1 (63 * 8 + 11889503018397206347 / 2 ^ 8 % 2 ^ 3)) + if 11889503018397206347 / 2 ^ 29 % 2 ^ 1 = 1 then -1 else 1) ≤ 31)
      ∧ ((State.tapVal ((lanes63 1 8 { : PortLanes }).rd F.lanEq_pre2 (63 * 8 + 11889503018397206347 / 2 ^ 8 % 2 ^ 3))).natAbs + (State.tapVal ((lanes63 1 8 { : PortLanes }).rd F.lanEq_pre1 (63 * 8 + 11889503018397206347 / 2 ^ 8 % 2 ^ 3))).natAbs + (State.tapVal ((lanes63 1 8 { : PortLanes }).rd F.lanEq_post1 (63 * 8 + 11889503018397206347 / 2 ^ 8 % 2 ^ 3)) + if 11889503018397206347 / 2 ^ 29 % 2 ^ 1 = 1 then -1 else 1).natAbs ≤ 32) := by decide +kernel

theorem witness_LanesComeUp_9_1_1 :
    (lanes63 1 8 { : PortLanes } [(F.lanEq_post1, 511, 31)]).wf = true
      ∧ (lanes63 1 8 { : PortLanes } [(F.lanEq_post1, 511, 31)]).quiet
      ∧ (lanes63 1 8 { : PortLanes } [(F.lanEq_post1, 511, 31)]).lane.sorted = true
      ∧ (lanes63 1 8 { : PortLanes } [(F.lanEq_post1, 511, 31)]).laneStage 63 ≠ 0 ∧ 11889503017860335435 / 2 ^ 0 % 2 ^ 8 = 75
      ∧ 11889503017860335435 / 2 ^ 56 % 2 ^ 8 = 165
      ∧ ((lanes63 1 8 { : PortLanes } [(F.lanEq_post1, 511, 31)]).getLanes 63).reqT.lookD (11889503017860335435 / 2 ^ 8 % 2 ^ 3) false ≠ (11889503017860335435 / 2 ^ 30 % 2 ^ 1 == 1)
      ∧ ((lanes63 1 8 { : PortLanes } [(F.lanEq_post1, 511, 31)]).getLanes 63).reqT.sorted = true
      ∧ 11889503017860335435 / 2 ^ 23 % 2 ^ 4 = 15 ∧ 11889503017860335435 / 2 ^ 27 % 2 ^ 2 = 3
      ∧ (31 < State.tapVal ((lanes63 1 8 { : PortLanes } [(F.lanEq_post1, 511, 31)]).rd F.lanEq_post1 (63 * 8 + 11889503017860335435 / 2 ^ 8 % 2 ^ 3)) + if 11889503017860335435 / 2 ^ 29 % 2 ^ 1 = 1 then -1 else 1) := by decide +kernel

theorem witness_LanesServe_0_0 :
    (lanes63 3 9 (framesOf 127)).wf = true ∧ (lanes63 3 9 (framesOf 127)).quiet
      ∧ (lanes63 3 9 (framesOf 127)).lane.sorted = true ∧ (lanes63 3 9 (framesOf 127)).linkState 63 = 3
      ∧ (lanes63 3 9 (framesOf 127)).link.sorted = true
      ∧ (State.badRun (((lanes63 3 9 (framesOf 127)).getLanes 63).headers.lookD 7 0) (State.badBlocks (frameAs false goodFrame).message) 40).1 = false
      ∧ fecDecode ((lanes63 3 9 (framesOf 127)).frameBits 63 7 goodFrame) = some (0, bitsOf goodFrame)
      ∧ frameAs false goodFrame = { message := BitVec.setWidth 2640 (bitsOf goodFrame) : RxFrame }
      ∧ (State.ones (((lanes63 3 9 (framesOf 127)).getLanes 63).frames.lookD 7 0 <<< 1 ||| if false = true then 1 else 0) < 8) := by decide +kernel

theorem witness_LanesServe_0_1_0 :
    (lanes63 3 9 (framesOf 63)).wf = true ∧ (lanes63 3 9 (framesOf 63)).quiet
      ∧ (lanes63 3 9 (framesOf 63)).lane.sorted = true ∧ (lanes63 3 9 (framesOf 63)).linkState 63 = 3
      ∧ (lanes63 3 9 (framesOf 63)).link.sorted = true
      ∧ (State.badRun (((lanes63 3 9 (framesOf 63)).getLanes 63).headers.lookD 7 0) (State.badBlocks (frameAs true badFrame).message) 40).1 = false
      ∧ fecDecode ((lanes63 3 9 (framesOf 63)).frameBits 63 7 badFrame) = none
      ∧ frameAs true badFrame = { message := BitVec.setWidth 2640 ((lanes63 3 9 (framesOf 63)).frameBits 63 7 badFrame), marked := true : RxFrame }
      ∧ (State.ones (((lanes63 3 9 (framesOf 63)).getLanes 63).frames.lookD 7 0 <<< 1 ||| if true = true then 1 else 0) < 8) := by decide +kernel

theorem witness_LanesServe_0_1_1 :
    (lanes63 3 9 (framesOf 127)).wf = true ∧ (lanes63 3 9 (framesOf 127)).quiet
      ∧ (lanes63 3 9 (framesOf 127)).lane.sorted = true ∧ (lanes63 3 9 (framesOf 127)).linkState 63 = 3
      ∧ (lanes63 3 9 (framesOf 127)).link.sorted = true
      ∧ (State.badRun (((lanes63 3 9 (framesOf 127)).getLanes 63).headers.lookD 7 0) (State.badBlocks (frameAs true badFrame).message) 40).1 = false
      ∧ fecDecode ((lanes63 3 9 (framesOf 127)).frameBits 63 7 badFrame) = none
      ∧ frameAs true badFrame = { message := BitVec.setWidth 2640 ((lanes63 3 9 (framesOf 127)).frameBits 63 7 badFrame), marked := true : RxFrame }
      ∧ (8 ≤ State.ones (((lanes63 3 9 (framesOf 127)).getLanes 63).frames.lookD 7 0 <<< 1 ||| if true = true then 1 else 0)) := by decide +kernel

theorem witness_LanesServe_3 :
    (lanes63 3 9 { : PortLanes }).wf = true ∧ (lanes63 3 9 { : PortLanes }).quiet
      ∧ (lanes63 3 9 { : PortLanes }).lane.sorted = true ∧ idleWire.count = 0 ∧ idleWire.part = 0 ∧ idleWire.mark = false := by decide +kernel

theorem witness_LanesServe_4 :
    (lanes63 3 9 { : PortLanes } [(F.lanCtrl_eiEn, 63, 1)]).wf = true
      ∧ (lanes63 3 9 { : PortLanes } [(F.lanCtrl_eiEn, 63, 1)]).quiet
      ∧ (lanes63 3 9 { : PortLanes } [(F.lanCtrl_eiEn, 63, 1)]).lane.sorted = true
      ∧ (lanes63 3 9 { : PortLanes } [(F.lanCtrl_eiEn, 63, 1)]).linkState 63 = 3
      ∧ (lanes63 3 9 { : PortLanes } [(F.lanCtrl_eiEn, 63, 1)]).flag F.lanCtrl_eiEn 63 = true
      ∧ (lanes63 3 9 { : PortLanes } [(F.lanCtrl_eiEn, 63, 1)]).txReady 63 = false := by decide +kernel

theorem witness_LanesServe_5 :
    (lanes63 3 9 { : PortLanes }).wf = true ∧ (lanes63 3 9 { : PortLanes }).quiet
      ∧ (lanes63 3 9 { : PortLanes }).lane.sorted = true ∧ (lanes63 3 9 { : PortLanes }).linkState 63 = 3 := by decide +kernel

theorem witness_LanesServe_6 :
    (lanes63 3 9 { : PortLanes } [(F.lanStatus_rxEi, 63, 1)]).wf = true
      ∧ (lanes63 3 9 { : PortLanes } [(F.lanStatus_rxEi, 63, 1)]).quiet
      ∧ (lanes63 3 9 { : PortLanes } [(F.lanStatus_rxEi, 63, 1)]).lane.sorted = true
      ∧ (lanes63 3 9 { : PortLanes } [(F.lanStatus_rxEi, 63, 1)]).flag F.lanStatus_rxEi 63 = true := by decide +kernel

theorem witness_LanesServe_7 :
    ({ regs := (lanes63 3 9 { : PortLanes } [(F.lanStatus_txEi, 63, 1)]).regs, stage := (lanes63 3 9 { : PortLanes } [(F.lanStatus_txEi, 63, 1)]).stage, pending := (lanes63 3 9 { : PortLanes } [(F.lanStatus_txEi, 63, 1)]).pending, free := (lanes63 3 9 { : PortLanes } [(F.lanStatus_txEi, 63, 1)]).free, mem := (lanes63 3 9 { : PortLanes } [(F.lanStatus_txEi, 63, 1)]).mem, home := (lanes63 3 9 { : PortLanes } [(F.lanStatus_txEi, 63, 1)]).home, txns := (lanes63 3 9 { : PortLanes } [(F.lanStatus_txEi, 63, 1)]).txns, keys := (lanes63 3 9 { : PortLanes } [(F.lanStatus_txEi, 63, 1)]).keys, outs := (lanes63 3 9 { : PortLanes } [(F.lanStatus_txEi, 63, 1)]).outs, deadTags := (lanes63 3 9 { : PortLanes } [(F.lanStatus_txEi, 63, 1)]).deadTags, ptu := (lanes63 3 9 { : PortLanes } [(F.lanStatus_txEi, 63, 1)]).ptu, clu := (lanes63 3 9 { : PortLanes } [(F.lanStatus_txEi, 63, 1)]).clu, seqs := (lanes63 3 9 { : PortLanes } [(F.lanStatus_txEi, 63, 1)]).seqs, xfr := (lanes63 3 9 { : PortLanes } [(F.lanStatus_txEi, 63, 1)]).xfr, col := (lanes63 3 9 { : PortLanes } [(F.lanStatus_txEi, 63, 1)]).col, ras := (lanes63 3 9 { : PortLanes } [(F.lanStatus_txEi, 63, 1)]).ras, tab := (lanes63 3 9 { : PortLanes } [(F.lanStatus_txEi, 63, 1)]).tab, fab := (lanes63 3 9 { : PortLanes } [(F.lanStatus_txEi, 63, 1)]).fab, link := [(63, { txq := active.txq, cur := active.cur, turn := active.turn, replay := active.replay, resend := active.resend, resentFrom := active.resentFrom, replays := active.replays, nakQueued := active.nakQueued, nakPending := active.nakPending, rx := active.rx, rxCur := active.rxCur, fifo := active.fifo, freed := active.freed, debited := active.debited, farFreed := active.farFreed, sizes := active.sizes, farSizes := active.farSizes, changed := active.changed, ackNew := true, lastA := active.lastA, lastB := active.lastB, attempts := active.attempts, begun := active.begun, farInit := active.farInit, sentSeen := active.sentSeen, mismatch := active.mismatch, keyWings := active.keyWings, keyNext := active.keyNext, keyLive := active.keyLive, keyAsked := active.keyAsked, ctrTx := active.ctrTx, ctrRx := active.ctrRx, slots := active.slots, lastTs := active.lastTs, out := active.out, wire := active.wire : PortLink })], lane := (lanes63 3 9 { : PortLanes } [(F.lanStatus_txEi, 63, 1)]).lane, qos := (lanes63 3 9 { : PortLanes } [(F.lanStatus_txEi, 63, 1)]).qos, evt := (lanes63 3 9 { : PortLanes } [(F.lanStatus_txEi, 63, 1)]).evt, rot := (lanes63 3 9 { : PortLanes } [(F.lanStatus_txEi, 63, 1)]).rot, pwr := (lanes63 3 9 { : PortLanes } [(F.lanStatus_txEi, 63, 1)]).pwr, pci := (lanes63 3 9 { : PortLanes } [(F.lanStatus_txEi, 63, 1)]).pci, fmtBuf := (lanes63 3 9 { : PortLanes } [(F.lanStatus_txEi, 63, 1)]).fmtBuf, crc := (lanes63 3 9 { : PortLanes } [(F.lanStatus_txEi, 63, 1)]).crc : State }.wf = true)
      ∧ ({ regs := (lanes63 3 9 { : PortLanes } [(F.lanStatus_txEi, 63, 1)]).regs, stage := (lanes63 3 9 { : PortLanes } [(F.lanStatus_txEi, 63, 1)]).stage, pending := (lanes63 3 9 { : PortLanes } [(F.lanStatus_txEi, 63, 1)]).pending, free := (lanes63 3 9 { : PortLanes } [(F.lanStatus_txEi, 63, 1)]).free, mem := (lanes63 3 9 { : PortLanes } [(F.lanStatus_txEi, 63, 1)]).mem, home := (lanes63 3 9 { : PortLanes } [(F.lanStatus_txEi, 63, 1)]).home, txns := (lanes63 3 9 { : PortLanes } [(F.lanStatus_txEi, 63, 1)]).txns, keys := (lanes63 3 9 { : PortLanes } [(F.lanStatus_txEi, 63, 1)]).keys, outs := (lanes63 3 9 { : PortLanes } [(F.lanStatus_txEi, 63, 1)]).outs, deadTags := (lanes63 3 9 { : PortLanes } [(F.lanStatus_txEi, 63, 1)]).deadTags, ptu := (lanes63 3 9 { : PortLanes } [(F.lanStatus_txEi, 63, 1)]).ptu, clu := (lanes63 3 9 { : PortLanes } [(F.lanStatus_txEi, 63, 1)]).clu, seqs := (lanes63 3 9 { : PortLanes } [(F.lanStatus_txEi, 63, 1)]).seqs, xfr := (lanes63 3 9 { : PortLanes } [(F.lanStatus_txEi, 63, 1)]).xfr, col := (lanes63 3 9 { : PortLanes } [(F.lanStatus_txEi, 63, 1)]).col, ras := (lanes63 3 9 { : PortLanes } [(F.lanStatus_txEi, 63, 1)]).ras, tab := (lanes63 3 9 { : PortLanes } [(F.lanStatus_txEi, 63, 1)]).tab, fab := (lanes63 3 9 { : PortLanes } [(F.lanStatus_txEi, 63, 1)]).fab, link := [(63, { txq := active.txq, cur := active.cur, turn := active.turn, replay := active.replay, resend := active.resend, resentFrom := active.resentFrom, replays := active.replays, nakQueued := active.nakQueued, nakPending := active.nakPending, rx := active.rx, rxCur := active.rxCur, fifo := active.fifo, freed := active.freed, debited := active.debited, farFreed := active.farFreed, sizes := active.sizes, farSizes := active.farSizes, changed := active.changed, ackNew := true, lastA := active.lastA, lastB := active.lastB, attempts := active.attempts, begun := active.begun, farInit := active.farInit, sentSeen := active.sentSeen, mismatch := active.mismatch, keyWings := active.keyWings, keyNext := active.keyNext, keyLive := active.keyLive, keyAsked := active.keyAsked, ctrTx := active.ctrTx, ctrRx := active.ctrRx, slots := active.slots, lastTs := active.lastTs, out := active.out, wire := active.wire : PortLink })], lane := (lanes63 3 9 { : PortLanes } [(F.lanStatus_txEi, 63, 1)]).lane, qos := (lanes63 3 9 { : PortLanes } [(F.lanStatus_txEi, 63, 1)]).qos, evt := (lanes63 3 9 { : PortLanes } [(F.lanStatus_txEi, 63, 1)]).evt, rot := (lanes63 3 9 { : PortLanes } [(F.lanStatus_txEi, 63, 1)]).rot, pwr := (lanes63 3 9 { : PortLanes } [(F.lanStatus_txEi, 63, 1)]).pwr, pci := (lanes63 3 9 { : PortLanes } [(F.lanStatus_txEi, 63, 1)]).pci, fmtBuf := (lanes63 3 9 { : PortLanes } [(F.lanStatus_txEi, 63, 1)]).fmtBuf, crc := (lanes63 3 9 { : PortLanes } [(F.lanStatus_txEi, 63, 1)]).crc : State }.quiet)
      ∧ ({ regs := (lanes63 3 9 { : PortLanes } [(F.lanStatus_txEi, 63, 1)]).regs, stage := (lanes63 3 9 { : PortLanes } [(F.lanStatus_txEi, 63, 1)]).stage, pending := (lanes63 3 9 { : PortLanes } [(F.lanStatus_txEi, 63, 1)]).pending, free := (lanes63 3 9 { : PortLanes } [(F.lanStatus_txEi, 63, 1)]).free, mem := (lanes63 3 9 { : PortLanes } [(F.lanStatus_txEi, 63, 1)]).mem, home := (lanes63 3 9 { : PortLanes } [(F.lanStatus_txEi, 63, 1)]).home, txns := (lanes63 3 9 { : PortLanes } [(F.lanStatus_txEi, 63, 1)]).txns, keys := (lanes63 3 9 { : PortLanes } [(F.lanStatus_txEi, 63, 1)]).keys, outs := (lanes63 3 9 { : PortLanes } [(F.lanStatus_txEi, 63, 1)]).outs, deadTags := (lanes63 3 9 { : PortLanes } [(F.lanStatus_txEi, 63, 1)]).deadTags, ptu := (lanes63 3 9 { : PortLanes } [(F.lanStatus_txEi, 63, 1)]).ptu, clu := (lanes63 3 9 { : PortLanes } [(F.lanStatus_txEi, 63, 1)]).clu, seqs := (lanes63 3 9 { : PortLanes } [(F.lanStatus_txEi, 63, 1)]).seqs, xfr := (lanes63 3 9 { : PortLanes } [(F.lanStatus_txEi, 63, 1)]).xfr, col := (lanes63 3 9 { : PortLanes } [(F.lanStatus_txEi, 63, 1)]).col, ras := (lanes63 3 9 { : PortLanes } [(F.lanStatus_txEi, 63, 1)]).ras, tab := (lanes63 3 9 { : PortLanes } [(F.lanStatus_txEi, 63, 1)]).tab, fab := (lanes63 3 9 { : PortLanes } [(F.lanStatus_txEi, 63, 1)]).fab, link := [(63, { txq := active.txq, cur := active.cur, turn := active.turn, replay := active.replay, resend := active.resend, resentFrom := active.resentFrom, replays := active.replays, nakQueued := active.nakQueued, nakPending := active.nakPending, rx := active.rx, rxCur := active.rxCur, fifo := active.fifo, freed := active.freed, debited := active.debited, farFreed := active.farFreed, sizes := active.sizes, farSizes := active.farSizes, changed := active.changed, ackNew := true, lastA := active.lastA, lastB := active.lastB, attempts := active.attempts, begun := active.begun, farInit := active.farInit, sentSeen := active.sentSeen, mismatch := active.mismatch, keyWings := active.keyWings, keyNext := active.keyNext, keyLive := active.keyLive, keyAsked := active.keyAsked, ctrTx := active.ctrTx, ctrRx := active.ctrRx, slots := active.slots, lastTs := active.lastTs, out := active.out, wire := active.wire : PortLink })], lane := (lanes63 3 9 { : PortLanes } [(F.lanStatus_txEi, 63, 1)]).lane, qos := (lanes63 3 9 { : PortLanes } [(F.lanStatus_txEi, 63, 1)]).qos, evt := (lanes63 3 9 { : PortLanes } [(F.lanStatus_txEi, 63, 1)]).evt, rot := (lanes63 3 9 { : PortLanes } [(F.lanStatus_txEi, 63, 1)]).rot, pwr := (lanes63 3 9 { : PortLanes } [(F.lanStatus_txEi, 63, 1)]).pwr, pci := (lanes63 3 9 { : PortLanes } [(F.lanStatus_txEi, 63, 1)]).pci, fmtBuf := (lanes63 3 9 { : PortLanes } [(F.lanStatus_txEi, 63, 1)]).fmtBuf, crc := (lanes63 3 9 { : PortLanes } [(F.lanStatus_txEi, 63, 1)]).crc : State }.lane.sorted = true)
      ∧ ({ regs := (lanes63 3 9 { : PortLanes } [(F.lanStatus_txEi, 63, 1)]).regs, stage := (lanes63 3 9 { : PortLanes } [(F.lanStatus_txEi, 63, 1)]).stage, pending := (lanes63 3 9 { : PortLanes } [(F.lanStatus_txEi, 63, 1)]).pending, free := (lanes63 3 9 { : PortLanes } [(F.lanStatus_txEi, 63, 1)]).free, mem := (lanes63 3 9 { : PortLanes } [(F.lanStatus_txEi, 63, 1)]).mem, home := (lanes63 3 9 { : PortLanes } [(F.lanStatus_txEi, 63, 1)]).home, txns := (lanes63 3 9 { : PortLanes } [(F.lanStatus_txEi, 63, 1)]).txns, keys := (lanes63 3 9 { : PortLanes } [(F.lanStatus_txEi, 63, 1)]).keys, outs := (lanes63 3 9 { : PortLanes } [(F.lanStatus_txEi, 63, 1)]).outs, deadTags := (lanes63 3 9 { : PortLanes } [(F.lanStatus_txEi, 63, 1)]).deadTags, ptu := (lanes63 3 9 { : PortLanes } [(F.lanStatus_txEi, 63, 1)]).ptu, clu := (lanes63 3 9 { : PortLanes } [(F.lanStatus_txEi, 63, 1)]).clu, seqs := (lanes63 3 9 { : PortLanes } [(F.lanStatus_txEi, 63, 1)]).seqs, xfr := (lanes63 3 9 { : PortLanes } [(F.lanStatus_txEi, 63, 1)]).xfr, col := (lanes63 3 9 { : PortLanes } [(F.lanStatus_txEi, 63, 1)]).col, ras := (lanes63 3 9 { : PortLanes } [(F.lanStatus_txEi, 63, 1)]).ras, tab := (lanes63 3 9 { : PortLanes } [(F.lanStatus_txEi, 63, 1)]).tab, fab := (lanes63 3 9 { : PortLanes } [(F.lanStatus_txEi, 63, 1)]).fab, link := [(63, { txq := active.txq, cur := active.cur, turn := active.turn, replay := active.replay, resend := active.resend, resentFrom := active.resentFrom, replays := active.replays, nakQueued := active.nakQueued, nakPending := active.nakPending, rx := active.rx, rxCur := active.rxCur, fifo := active.fifo, freed := active.freed, debited := active.debited, farFreed := active.farFreed, sizes := active.sizes, farSizes := active.farSizes, changed := active.changed, ackNew := true, lastA := active.lastA, lastB := active.lastB, attempts := active.attempts, begun := active.begun, farInit := active.farInit, sentSeen := active.sentSeen, mismatch := active.mismatch, keyWings := active.keyWings, keyNext := active.keyNext, keyLive := active.keyLive, keyAsked := active.keyAsked, ctrTx := active.ctrTx, ctrRx := active.ctrRx, slots := active.slots, lastTs := active.lastTs, out := active.out, wire := active.wire : PortLink })], lane := (lanes63 3 9 { : PortLanes } [(F.lanStatus_txEi, 63, 1)]).lane, qos := (lanes63 3 9 { : PortLanes } [(F.lanStatus_txEi, 63, 1)]).qos, evt := (lanes63 3 9 { : PortLanes } [(F.lanStatus_txEi, 63, 1)]).evt, rot := (lanes63 3 9 { : PortLanes } [(F.lanStatus_txEi, 63, 1)]).rot, pwr := (lanes63 3 9 { : PortLanes } [(F.lanStatus_txEi, 63, 1)]).pwr, pci := (lanes63 3 9 { : PortLanes } [(F.lanStatus_txEi, 63, 1)]).pci, fmtBuf := (lanes63 3 9 { : PortLanes } [(F.lanStatus_txEi, 63, 1)]).fmtBuf, crc := (lanes63 3 9 { : PortLanes } [(F.lanStatus_txEi, 63, 1)]).crc : State }.flag F.lanStatus_txEi 63 = true)
      ∧ ({ regs := (lanes63 3 9 { : PortLanes } [(F.lanStatus_txEi, 63, 1)]).regs, stage := (lanes63 3 9 { : PortLanes } [(F.lanStatus_txEi, 63, 1)]).stage, pending := (lanes63 3 9 { : PortLanes } [(F.lanStatus_txEi, 63, 1)]).pending, free := (lanes63 3 9 { : PortLanes } [(F.lanStatus_txEi, 63, 1)]).free, mem := (lanes63 3 9 { : PortLanes } [(F.lanStatus_txEi, 63, 1)]).mem, home := (lanes63 3 9 { : PortLanes } [(F.lanStatus_txEi, 63, 1)]).home, txns := (lanes63 3 9 { : PortLanes } [(F.lanStatus_txEi, 63, 1)]).txns, keys := (lanes63 3 9 { : PortLanes } [(F.lanStatus_txEi, 63, 1)]).keys, outs := (lanes63 3 9 { : PortLanes } [(F.lanStatus_txEi, 63, 1)]).outs, deadTags := (lanes63 3 9 { : PortLanes } [(F.lanStatus_txEi, 63, 1)]).deadTags, ptu := (lanes63 3 9 { : PortLanes } [(F.lanStatus_txEi, 63, 1)]).ptu, clu := (lanes63 3 9 { : PortLanes } [(F.lanStatus_txEi, 63, 1)]).clu, seqs := (lanes63 3 9 { : PortLanes } [(F.lanStatus_txEi, 63, 1)]).seqs, xfr := (lanes63 3 9 { : PortLanes } [(F.lanStatus_txEi, 63, 1)]).xfr, col := (lanes63 3 9 { : PortLanes } [(F.lanStatus_txEi, 63, 1)]).col, ras := (lanes63 3 9 { : PortLanes } [(F.lanStatus_txEi, 63, 1)]).ras, tab := (lanes63 3 9 { : PortLanes } [(F.lanStatus_txEi, 63, 1)]).tab, fab := (lanes63 3 9 { : PortLanes } [(F.lanStatus_txEi, 63, 1)]).fab, link := [(63, { txq := active.txq, cur := active.cur, turn := active.turn, replay := active.replay, resend := active.resend, resentFrom := active.resentFrom, replays := active.replays, nakQueued := active.nakQueued, nakPending := active.nakPending, rx := active.rx, rxCur := active.rxCur, fifo := active.fifo, freed := active.freed, debited := active.debited, farFreed := active.farFreed, sizes := active.sizes, farSizes := active.farSizes, changed := active.changed, ackNew := true, lastA := active.lastA, lastB := active.lastB, attempts := active.attempts, begun := active.begun, farInit := active.farInit, sentSeen := active.sentSeen, mismatch := active.mismatch, keyWings := active.keyWings, keyNext := active.keyNext, keyLive := active.keyLive, keyAsked := active.keyAsked, ctrTx := active.ctrTx, ctrRx := active.ctrRx, slots := active.slots, lastTs := active.lastTs, out := active.out, wire := active.wire : PortLink })], lane := (lanes63 3 9 { : PortLanes } [(F.lanStatus_txEi, 63, 1)]).lane, qos := (lanes63 3 9 { : PortLanes } [(F.lanStatus_txEi, 63, 1)]).qos, evt := (lanes63 3 9 { : PortLanes } [(F.lanStatus_txEi, 63, 1)]).evt, rot := (lanes63 3 9 { : PortLanes } [(F.lanStatus_txEi, 63, 1)]).rot, pwr := (lanes63 3 9 { : PortLanes } [(F.lanStatus_txEi, 63, 1)]).pwr, pci := (lanes63 3 9 { : PortLanes } [(F.lanStatus_txEi, 63, 1)]).pci, fmtBuf := (lanes63 3 9 { : PortLanes } [(F.lanStatus_txEi, 63, 1)]).fmtBuf, crc := (lanes63 3 9 { : PortLanes } [(F.lanStatus_txEi, 63, 1)]).crc : State }.txReady 63 = true) := by decide +kernel

theorem witness_LanesServe_8_0 :
    (lanes63 3 9 (window 1)).wf = true ∧ (lanes63 3 9 (window 1)).quiet ∧ (lanes63 3 9 (window 1)).lane.sorted = true
      ∧ (∀ (l : Lane), ¬(State.laneIn ((lanes63 3 9 (window 1)).getLanes 63).rxSet ((lanes63 3 9 (window 1)).physLane 63 ↑l) = true ∧ State.laneIn ((lanes63 3 9 (window 1)).retiredLanes 63) ↑l = false ∧ ((lanes63 3 9 (window 1)).laneTrigger 63 (((lanes63 3 9 (window 1)).getLanes 63).wins.lookD ↑l { : LaneWin })).isSome = true)) := by decide +kernel

theorem witness_LanesServe_8_1 :
    (lanes63 3 9 (window 2)).wf = true ∧ (lanes63 3 9 (window 2)).quiet ∧ (lanes63 3 9 (window 2)).lane.sorted = true
      ∧ (∃ (l : Lane), State.laneIn ((lanes63 3 9 (window 2)).getLanes 63).rxSet ((lanes63 3 9 (window 2)).physLane 63 ↑l) = true ∧ State.laneIn ((lanes63 3 9 (window 2)).retiredLanes 63) ↑l = false ∧ ((lanes63 3 9 (window 2)).laneTrigger 63 (((lanes63 3 9 (window 2)).getLanes 63).wins.lookD ↑l { : LaneWin })).isSome = true)
      ∧ (lanes63 3 9 (window 2)).linkState 63 = 3 := by decide +kernel

theorem witness_LanesServe_9_0 :
    (lanes63 3 9 { : PortLanes }).wf = true ∧ (lanes63 3 9 { : PortLanes }).quiet
      ∧ (lanes63 3 9 { : PortLanes }).lane.sorted = true
      ∧ (lanes63 3 9 { : PortLanes }).accepts (wordWrite Path.root Reg.lanCtrl 63 0 131123) := by decide +kernel

theorem witness_LanesServe_9_1 :
    disabled.wf = true ∧ disabled.quiet ∧ disabled.lane.sorted = true
      ∧ disabled.accepts (wordWrite Path.root Reg.lanTest (63 * 8 + 7) 0 1) ∧ disabled.flag F.lnkCtrl_enable 63 = false
      ∧ 1 / 16 % 2 = 0 ∧ 1 / 4 % 4 = disabled.rd F.lanTest_rxPat (63 * 8 + 7) := by decide +kernel

theorem witness_LanesServe_9_2 :
    (lanes63 1 8 { : PortLanes }).wf = true ∧ (lanes63 1 8 { : PortLanes }).quiet
      ∧ (lanes63 1 8 { : PortLanes }).lane.sorted = true
      ∧ (lanes63 1 8 { : PortLanes }).accepts (wordWrite Path.root Reg.lanEye (63 * 8 + 7) 0 (fieldIn eyeWord 19 1 1))
      ∧ 7 ∉ ((lanes63 1 8 { : PortLanes }).getLanes 63).eyes ∧ 7 ∉ ((lanes63 1 8 { : PortLanes }).getLanes 63).margins := by decide +kernel

theorem witness_LanesServe_9_2_a :
    disabled.wf = true ∧ disabled.quiet ∧ disabled.lane.sorted = true
      ∧ disabled.accepts (wordWrite Path.root Reg.lanEye (63 * 8 + 7) 0 (fieldIn eyeWord 19 1 1))
      ∧ 7 ∉ (disabled.getLanes 63).eyes ∧ 7 ∉ (disabled.getLanes 63).margins := by decide +kernel

theorem witness_LanesServe_9_3 :
    disabled.wf = true ∧ disabled.quiet ∧ disabled.lane.sorted = true ∧ 6 ∈ (disabled.getLanes 63).eyes := by decide +kernel

theorem witness_LanesServe_9_4 :
    (disabled [(F.lanTest_rxPat, 511, 1)]).wf = true ∧ (disabled [(F.lanTest_rxPat, 511, 1)]).quiet
      ∧ (disabled [(F.lanTest_rxPat, 511, 1)]).lane.sorted = true
      ∧ (disabled [(F.lanTest_rxPat, 511, 1)]).rd F.lanTest_rxPat (63 * 8 + 7) ≠ 0
      ∧ (disabled [(F.lanTest_rxPat, 511, 1)]).flag F.lnkCtrl_enable 63 = false := by decide +kernel

/-- Leash 255 on port 63 and the catch-all of port 63. -/
def leashes (refilled : Bool) : State :=
  let s := regsAt node [(F.qosLeash_endpoint, 255, 0x12345), (F.qosLeash_port, 255, 63), (F.qosLeash_valid, 255, 1), (F.qosLeash_rate, 255, 100), (F.qosLeash_burst, 255, 64)]
  { s with qos := { s.qos with
      cfg := if refilled then [(255, { port := 63, src := 0x12345, rate := 100, burst := 64 })] else []
      tokens := if refilled then [(255, 7000)] else [] } }
/-- A period with counts; a curtain requested or not. -/
def periodEnds (req : Nat) : State :=
  let s := regsAt node [(F.cfgCurtain_req, 0, req), (F.cfgCurtain_num, 0, 65535), (F.staPeriod_num, 0, 0xFFFFFFFF)]
  { s with qos := { s.qos with bytes := [(255, 2 ^ 41)], waits := [(0, 3)] } }
def committing : State := { node with qos := { node.qos with left := [(1, 3), (2, 0)], cue := [(Reg.engFmt.key 63, 0x77)] } }
def crcAt (armed : Bool) (ref dirty : Nat) : State :=
  { regsAt node [(F.cfgCrcRef_ref, 3, ref), (F.cfgCrcStatus_dirty, 3, dirty), (F.cfgCrcStatus_passes, 3, 65535)] with crc := [(3, { armed := armed })] }
def timed (s : State) : State := { s with tab := { s.tab with funcSeq := List.replicate 6 (0, 5, 5) } }
def evqWord : Word := BitVec.ofNat 32 (8 + 2 ^ 5 + 63 * 2 ^ 10)
def evqOn (moderate : Nat) (f : Evt → Evt) : State :=
  { regsAt hosted [(F.mgtEvqCfg_enable, 16, 1), (F.mgtEvqCfg_size, 16, 4), (F.mgtEvqCfg_host, 16, 1), (F.mgtEvqCfg_moderate, 16, moderate), (F.mgtEvqPtr_tail, 16, 15), (F.mgtEvqPtr_head, 16, 3)] with
    evt := f hosted.evt }
def linkable : State := regsAt node [(F.pciCtrl_enable, 1, 1)]

theorem witness_PeriodsAndProtection_0 :
    (leashes true).wf = true ∧ (leashes true).quiet ∧ (leashes true).qos.queue = [] := by decide +kernel

theorem witness_PeriodsAndProtection_0_a :
    (leashes false).wf = true ∧ (leashes false).quiet ∧ (leashes false).qos.queue = [] := by decide +kernel

theorem witness_PeriodsAndProtection_1 :
    (periodEnds 0).wf = true ∧ (periodEnds 0).quiet ∧ (periodEnds 0).mem.waits = [] ∧ (periodEnds 0).qos.bytes.sorted = true
      ∧ (periodEnds 0).qos.waits.sorted = true ∧ (∀ e ∈ (periodEnds 0).qos.bytes, e.1 < 256)
      ∧ (∀ e ∈ (periodEnds 0).qos.waits, e.1 < 256) := by decide +kernel

theorem witness_PeriodsAndProtection_1_a :
    (periodEnds 1).wf = true ∧ (periodEnds 1).quiet ∧ (periodEnds 1).mem.waits = [] ∧ (periodEnds 1).qos.bytes.sorted = true
      ∧ (periodEnds 1).qos.waits.sorted = true ∧ (∀ e ∈ (periodEnds 1).qos.bytes, e.1 < 256)
      ∧ (∀ e ∈ (periodEnds 1).qos.waits, e.1 < 256) := by decide +kernel

theorem witness_PeriodsAndProtection_2 :
    node.wf = true ∧ node.quiet ∧ node.accepts (wordWrite Path.root Reg.cfgCurtain 0 0 (fieldIn 0 0 1 1)) := by decide +kernel

theorem witness_PeriodsAndProtection_3 :
    committing.wf = true ∧ committing.quiet ∧ (1, 3) ∈ committing.qos.left ∧ (∀ u ∈ committing.qos.left, 1 ≤ u.1) := by decide +kernel

theorem witness_PeriodsAndProtection_3_a :
    { regs := committing.regs, stage := committing.stage, pending := committing.pending, free := committing.free, mem := committing.mem, home := committing.home, txns := committing.txns, keys := committing.keys, outs := committing.outs, deadTags := committing.deadTags, ptu := committing.ptu, clu := committing.clu, seqs := committing.seqs, xfr := committing.xfr, col := committing.col, ras := committing.ras, tab := committing.tab, fab := committing.fab, link := committing.link, lane := committing.lane, qos := { cfg := committing.qos.cfg, tokens := committing.qos.tokens, queue := committing.qos.queue, bytes := committing.qos.bytes, waits := committing.qos.waits, barks := committing.qos.barks, hist := committing.qos.hist, asked := committing.qos.asked, refill := committing.qos.refill, period := committing.qos.period, cue := committing.qos.cue, left := [(2, 0)] : Qos }, evt := committing.evt, rot := committing.rot, pwr := committing.pwr, pci := committing.pci, fmtBuf := committing.fmtBuf, crc := committing.crc : State }.wf = true
      ∧ { regs := committing.regs, stage := committing.stage, pending := committing.pending, free := committing.free, mem := committing.mem, home := committing.home, txns := committing.txns, keys := committing.keys, outs := committing.outs, deadTags := committing.deadTags, ptu := committing.ptu, clu := committing.clu, seqs := committing.seqs, xfr := committing.xfr, col := committing.col, ras := committing.ras, tab := committing.tab, fab := committing.fab, link := committing.link, lane := committing.lane, qos := { cfg := committing.qos.cfg, tokens := committing.qos.tokens, queue := committing.qos.queue, bytes := committing.qos.bytes, waits := committing.qos.waits, barks := committing.qos.barks, hist := committing.qos.hist, asked := committing.qos.asked, refill := committing.qos.refill, period := committing.qos.period, cue := committing.qos.cue, left := [(2, 0)] : Qos }, evt := committing.evt, rot := committing.rot, pwr := committing.pwr, pci := committing.pci, fmtBuf := committing.fmtBuf, crc := committing.crc : State }.quiet
      ∧ (2, 0) ∈ { regs := committing.regs, stage := committing.stage, pending := committing.pending, free := committing.free, mem := committing.mem, home := committing.home, txns := committing.txns, keys := committing.keys, outs := committing.outs, deadTags := committing.deadTags, ptu := committing.ptu, clu := committing.clu, seqs := committing.seqs, xfr := committing.xfr, col := committing.col, ras := committing.ras, tab := committing.tab, fab := committing.fab, link := committing.link, lane := committing.lane, qos := { cfg := committing.qos.cfg, tokens := committing.qos.tokens, queue := committing.qos.queue, bytes := committing.qos.bytes, waits := committing.qos.waits, barks := committing.qos.barks, hist := committing.qos.hist, asked := committing.qos.asked, refill := committing.qos.refill, period := committing.qos.period, cue := committing.qos.cue, left := [(2, 0)] : Qos }, evt := committing.evt, rot := committing.rot, pwr := committing.pwr, pci := committing.pci, fmtBuf := committing.fmtBuf, crc := committing.crc : State }.qos.left
      ∧ (∀ u ∈ { regs := committing.regs, stage := committing.stage, pending := committing.pending, free := committing.free, mem := committing.mem, home := committing.home, txns := committing.txns, keys := committing.keys, outs := committing.outs, deadTags := committing.deadTags, ptu := committing.ptu, clu := committing.clu, seqs := committing.seqs, xfr := committing.xfr, col := committing.col, ras := committing.ras, tab := committing.tab, fab := committing.fab, link := committing.link, lane := committing.lane, qos := { cfg := committing.qos.cfg, tokens := committing.qos.tokens, queue := committing.qos.queue, bytes := committing.qos.bytes, waits := committing.qos.waits, barks := committing.qos.barks, hist := committing.qos.hist, asked := committing.qos.asked, refill := committing.qos.refill, period := committing.qos.period, cue := committing.qos.cue, left := [(2, 0)] : Qos }, evt := committing.evt, rot := committing.rot, pwr := committing.pwr, pci := committing.pci, fmtBuf := committing.fmtBuf, crc := committing.crc : State }.qos.left, 2 ≤ u.1) := by decide +kernel

theorem witness_PeriodsAndProtection_4 :
    (crcAt true 0 1).wf = true ∧ (crcAt true 0 1).quiet ∧ ((crcAt true 0 1).crc.lookD 3 { : CrcPass }).changed = false := by decide +kernel

theorem witness_PeriodsAndProtection_4_a :
    (crcAt false 0 0).wf = true ∧ (crcAt false 0 0).quiet ∧ ((crcAt false 0 0).crc.lookD 3 { : CrcPass }).changed = false := by decide +kernel

theorem witness_PeriodsAndProtection_4_b :
    (crcAt false 0 1).wf = true ∧ (crcAt false 0 1).quiet ∧ ((crcAt false 0 1).crc.lookD 3 { : CrcPass }).changed = false := by decide +kernel

theorem witness_PeriodsAndProtection_5 :
    node.wf = true ∧ node.quiet ∧ node.accepts (wordWrite Path.root Reg.cfgCrcStatus 3 0 (fieldIn 0 2 1 1)) := by decide +kernel

theorem witness_PeriodsAndProtection_6 :
    node.wf = true ∧ node.quiet ∧ node.accepts (wordWrite Path.root Reg.cfgCrcRef 3 0 4294967295) := by decide +kernel

theorem witness_PeriodsAndProtection_7_0 :
    (timed (regsAt node [(F.lnkStatus_state, 63, 2)])).wf = true ∧ (timed (regsAt node [(F.lnkStatus_state, 63, 2)])).quiet
      ∧ (((timed (regsAt node [(F.lnkStatus_state, 63, 2)])).funcPhase FuncKind.port 63).1 = true)
      ∧ (((timed (regsAt node [(F.lnkStatus_state, 63, 2)])).tab.funcSeq.getD (State.kindCode FuncKind.port - 1) (0, 0, 0)).2.1 ≠ 0) := by decide +kernel

theorem witness_PeriodsAndProtection_7_1 :
    ((timed (extentIs fun (x : Extent) => { state := ExtState.pending, attr := x.attr, prev := x.prev, gen := x.gen, toOff := x.toOff, held := x.held, demoting := x.demoting : Extent })).wf = true)
      ∧ ((timed (extentIs fun (x : Extent) => { state := ExtState.pending, attr := x.attr, prev := x.prev, gen := x.gen, toOff := x.toOff, held := x.held, demoting := x.demoting : Extent })).quiet)
      ∧ (((timed (extentIs fun (x : Extent) => { state := ExtState.pending, attr := x.attr, prev := x.prev, gen := x.gen, toOff := x.toOff, held := x.held, demoting := x.demoting : Extent })).funcPhase FuncKind.extent 5).1 = false)
      ∧ (((timed (extentIs fun (x : Extent) => { state := ExtState.pending, attr := x.attr, prev := x.prev, gen := x.gen, toOff := x.toOff, held := x.held, demoting := x.demoting : Extent })).funcPhase FuncKind.extent 5).2 = true)
      ∧ (((timed (extentIs fun (x : Extent) => { state := ExtState.pending, attr := x.attr, prev := x.prev, gen := x.gen, toOff := x.toOff, held := x.held, demoting := x.demoting : Extent })).tab.funcSeq.getD (State.kindCode FuncKind.extent - 1) (0, 0, 0)).2.2 ≠ 0) := by decide +kernel

theorem witness_PeriodsAndProtection_7_2 :
    (timed node).wf = true ∧ (timed node).quiet ∧ ((timed node).funcPhase FuncKind.extent 4095 = (false, false)) := by decide +kernel

theorem witness_EventsAndHostPorts_0_0_0 :
    hosted.wf = true ∧ hosted.quiet ∧ hosted.accepts (wordWrite Path.root Reg.mgtEvqCfg 16 0 (fieldIn evqWord 4 1 1))
      ∧ hosted.flag F.mgtEvqCfg_enable 16 = false
      ∧ hosted.evqEnableOk 16 (hosted.newVal (wordWrite Path.root Reg.mgtEvqCfg 16 0 (fieldIn evqWord 4 1 1))) = true
      ∧ hosted.evt.pending = [] := by decide +kernel

theorem witness_EventsAndHostPorts_0_0_1 :
    node.wf = true ∧ node.quiet ∧ node.accepts (wordWrite Path.root Reg.mgtEvqCfg 16 0 (fieldIn evqWord 4 1 1))
      ∧ node.flag F.mgtEvqCfg_enable 16 = false
      ∧ node.evqEnableOk 16 (node.newVal (wordWrite Path.root Reg.mgtEvqCfg 16 0 (fieldIn evqWord 4 1 1))) = false := by decide +kernel

theorem witness_EventsAndHostPorts_0_1_0 :
    (evqOn 0 id).wf = true ∧ (evqOn 0 id).quiet ∧ (evqOn 0 id).accepts (wordWrite Path.root Reg.mgtEvqPtr 16 0 15)
      ∧ (∀ (a : Fin 2) (f : Fin 16), Path.root = Path.host a f → f = 0) ∧ (evqOn 0 id).flag F.mgtEvqCfg_enable 16 = true
      ∧ 15 % 2 ^ F.mgtEvqPtr_head.width = (evqOn 0 id).rd F.mgtEvqPtr_tail 16 := by decide +kernel

theorem witness_EventsAndHostPorts_0_1_1 :
    (evqOn 0 id).wf = true ∧ (evqOn 0 id).quiet ∧ (evqOn 0 id).accepts (wordWrite (Path.host 1 0) Reg.mgtEvqPtr 16 0 7)
      ∧ (∀ (a : Fin 2) (f : Fin 16), Path.host 1 0 = Path.host a f → f = 0) ∧ (evqOn 0 id).flag F.mgtEvqCfg_enable 16 = true
      ∧ 7 % 2 ^ F.mgtEvqPtr_head.width ≠ (evqOn 0 id).rd F.mgtEvqPtr_tail 16 ∧ (evqOn 0 id).rd F.mgtEvqCfg_moderate 16 = 0 := by decide +kernel

theorem witness_EventsAndHostPorts_0_2 :
    ((evqOn 1 fun (v : Evt) => { pending := v.pending, overflow := v.overflow, armed := v.armed, lost := v.lost, phase := v.phase, written := v.written, msix := v.msix, quiet := [16], waiting := [16], alert := v.alert : Evt }).wf = true)
      ∧ ((evqOn 1 fun (v : Evt) => { pending := v.pending, overflow := v.overflow, armed := v.armed, lost := v.lost, phase := v.phase, written := v.written, msix := v.msix, quiet := [16], waiting := [16], alert := v.alert : Evt }).quiet)
      ∧ (16 ∈ (evqOn 1 fun (v : Evt) => { pending := v.pending, overflow := v.overflow, armed := v.armed, lost := v.lost, phase := v.phase, written := v.written, msix := v.msix, quiet := [16], waiting := [16], alert := v.alert : Evt }).evt.quiet)
      ∧ (16 ∈ (evqOn 1 fun (v : Evt) => { pending := v.pending, overflow := v.overflow, armed := v.armed, lost := v.lost, phase := v.phase, written := v.written, msix := v.msix, quiet := [16], waiting := [16], alert := v.alert : Evt }).evt.waiting) := by decide +kernel

theorem witness_EventsAndHostPorts_0_3 :
    ((evqOn 1 fun (v : Evt) => { pending := v.pending, overflow := v.overflow, armed := v.armed, lost := v.lost, phase := v.phase, written := v.written, msix := v.msix, quiet := [16], waiting := v.waiting, alert := v.alert : Evt }).wf = true)
      ∧ ((evqOn 1 fun (v : Evt) => { pending := v.pending, overflow := v.overflow, armed := v.armed, lost := v.lost, phase := v.phase, written := v.written, msix := v.msix, quiet := [16], waiting := v.waiting, alert := v.alert : Evt }).quiet)
      ∧ (16 ∈ (evqOn 1 fun (v : Evt) => { pending := v.pending, overflow := v.overflow, armed := v.armed, lost := v.lost, phase := v.phase, written := v.written, msix := v.msix, quiet := [16], waiting := v.waiting, alert := v.alert : Evt }).evt.quiet)
      ∧ (16 ∉ (evqOn 1 fun (v : Evt) => { pending := v.pending, overflow := v.overflow, armed := v.armed, lost := v.lost, phase := v.phase, written := v.written, msix := v.msix, quiet := [16], waiting := v.waiting, alert := v.alert : Evt }).evt.waiting) := by decide +kernel

theorem witness_EventsAndHostPorts_0_4 :
    ((evqOn 1 fun (v : Evt) => { pending := v.pending, overflow := v.overflow, armed := [16], lost := v.lost, phase := v.phase, written := v.written, msix := v.msix, quiet := v.quiet, waiting := [16], alert := v.alert : Evt }).wf = true)
      ∧ ((evqOn 1 fun (v : Evt) => { pending := v.pending, overflow := v.overflow, armed := [16], lost := v.lost, phase := v.phase, written := v.written, msix := v.msix, quiet := v.quiet, waiting := [16], alert := v.alert : Evt }).quiet)
      ∧ ((evqOn 1 fun (v : Evt) => { pending := v.pending, overflow := v.overflow, armed := [16], lost := v.lost, phase := v.phase, written := v.written, msix := v.msix, quiet := v.quiet, waiting := [16], alert := v.alert : Evt }).flag F.mgtEvqCfg_enable 16 = true) := by decide +kernel

theorem witness_EventsAndHostPorts_1_0 :
    (evqOn 1 id).wf = true ∧ (evqOn 1 id).quiet ∧ (evqOn 1 id).flag F.pciStatus_linkUp 1 = true := by decide +kernel

theorem witness_EventsAndHostPorts_1_1 :
    linkable.wf = true ∧ linkable.quiet ∧ linkable.flag F.pciCtrl_enable 1 = true
      ∧ linkable.flag F.pciStatus_linkUp 1 = false ∧ (linkable.rd F.pwrStatus_state = 3 ∨ linkable.rd F.pwrStatus_state = 4) := by decide +kernel

theorem witness_EventsAndHostPorts_1_2 :
    hosted.wf = true ∧ hosted.quiet ∧ hosted.flag F.pciStatus_linkUp 1 = true := by decide +kernel

theorem witness_EventsAndHostPorts_1_2_a :
    hosted.wf = true ∧ hosted.quiet ∧ hosted.flag F.pciStatus_linkUp 1 = true := by decide +kernel

/-- The mailbox with security on, a bound flash, a bounded recovery. -/
def trusting (l : List (Fld × Nat × Nat)) (f : Rot → Rot) : State :=
  let s := regsAt served ([(F.rasStatus_feedAOk, 0, 1)] ++ l)
  { s with rot := f { s.rot with security := true, counter := 3, svn := 5, nonce := some [1] } }
/-- Partitions are on; partition 15 is in a state. -/
def parts (st : Nat) (l : List (Fld × Nat × Nat) := []) : State := regsAt served ([(F.secCtrl_mode, 0, 1), (F.secPartStatus_state, 15, st)] ++ l)
/-- What a teardown of partition 15 finds. -/
def bindings : State :=
  let s := parts 3 [(F.secKeyStatus_state, 255, 1), (F.secKeyStatus_partition, 255, 15), (F.homGrpMatch_partition, 1023, 15), (F.homGrpMatch_valid, 1023, 1),
    (F.cluQcfg_partition, 63, 15), (F.cluQcfg_enable, 63, 1), (F.xfrQcfg_partition, 127, 15), (F.xfrQcfg_enable, 127, 1), (F.ptuAs_partition, 1023, 15), (F.ptuAs_valid, 1023, 1)]
  { s with keys := s.keys ++ [(255, { has0 := true })], home := { s.home with ext := s.home.ext ++ [(4095, { state := .on, attr := { partition := 15, key := 255, base := 9, count := 1 } })] } }
def keyed (st : Nat) (l : List (Nat × Extent) := []) : State :=
  let s := parts 2 [(F.secKeyStatus_state, 255, st), (F.secKeyStatus_partition, 255, 15)]
  { s with keys := s.keys ++ (if st = 0 then [] else [(255, { has0 := true })]), home := { s.home with ext := s.home.ext ++ l } }
def ext15 : Nat × Extent := (4095, { state := .on, attr := { partition := 15, key := 255, base := 9, count := 1 } })
def sweeping (runs : SMap (List (Nat × Nat × Nat))) : State :=
  let s := regsAt served [(F.secKeyStatus_state, 0, 2), (F.secKeyStatus_gen, 0, 1)]
  { s with keys := [(0, { has0 := true, has1 := true, sweep := runs })] }
def runsOf (left : Nat) : KeyState := { has0 := true, has1 := true, sweep := [(3, [(5, 31, left)])] }
def key255 (op : Nat) : Word := BitVec.ofNat 32 (255 + 15 * 256 + op * 4096)

theorem witness_RootOfTrustRequests_0 :
    Serves (trusting [] id) ∧ (trusting [] id).inRecovery = false
      ∧ (trusting [] id).accepts (wordWrite Path.root Reg.rotMboxCmd 0 0 (1 + 2 ^ 31)) := by decide +kernel

theorem witness_RootOfTrustRequests_1 :
    Serves (trusting [] id) := by decide +kernel

theorem witness_RootOfTrustRequests_3 :
    Serves (trusting [] id) := by decide +kernel

theorem witness_RootOfTrustRequests_4 :
    Serves (trusting [] id) := by decide +kernel

theorem witness_RootOfTrustRequests_5 :
    Serves (trusting [] id) := by decide +kernel

theorem witness_RootOfTrustRequests_6 :
    Serves (trusting [] id) := by decide +kernel

theorem witness_RootOfTrustRequests_7 :
    Serves (trusting [] id) := by decide +kernel

theorem witness_RootOfTrustRequests_8 :
    Serves (trusting [] id) := by decide +kernel

theorem witness_RootOfTrustRequests_9 :
    Serves (trusting [] id) ∧ (trusting [] id).rot.noKeys = false := by decide +kernel

theorem witness_PartitionsAndKeys_0_0 :
    (parts 0).wf = true ∧ (parts 0).quiet ∧ (parts 0).keys.sorted = true
      ∧ (parts 0).accepts (wordWrite Path.root Reg.secPartCmd 0 0 (fieldIn 15 4 2 1))
      ∧ ((parts 0).partitioned = true ∨ 15 % 16 = 0) ∧ (parts 0).rd F.secPartStatus_state (15 % 16) = 0 := by decide +kernel

theorem witness_PartitionsAndKeys_0_1 :
    (parts 2).wf = true ∧ (parts 2).quiet ∧ (parts 2).keys.sorted = true
      ∧ (parts 2).accepts (wordWrite Path.root Reg.secPartCmd 0 0 (fieldIn 15 4 2 1))
      ∧ ((parts 2).partitioned = true ∨ 15 % 16 = 0)
      ∧ ((parts 2).rd F.secPartStatus_state (15 % 16) = 1 ∨ (parts 2).rd F.secPartStatus_state (15 % 16) = 2) := by decide +kernel

theorem witness_PartitionsAndKeys_0_0_a :
    (regsAt served [(F.secPartStatus_state, 0, 0)]).wf = true ∧ (regsAt served [(F.secPartStatus_state, 0, 0)]).quiet
      ∧ (regsAt served [(F.secPartStatus_state, 0, 0)]).keys.sorted = true
      ∧ (regsAt served [(F.secPartStatus_state, 0, 0)]).accepts (wordWrite Path.root Reg.secPartCmd 0 0 (fieldIn 0 4 2 1))
      ∧ ((regsAt served [(F.secPartStatus_state, 0, 0)]).partitioned = true ∨ 0 % 16 = 0)
      ∧ (regsAt served [(F.secPartStatus_state, 0, 0)]).rd F.secPartStatus_state (0 % 16) = 0 := by decide +kernel

theorem witness_PartitionsAndKeys_1 :
    (parts 1).wf = true ∧ (parts 1).quiet ∧ (parts 1).keys.sorted = true ∧ (parts 1).rd F.secPartStatus_state 15 = 1 := by decide +kernel

theorem witness_PartitionsAndKeys_2 :
    (parts 2).wf = true ∧ (parts 2).quiet ∧ (parts 2).keys.sorted = true
      ∧ (parts 2).accepts (wordWrite Path.root Reg.secPartCmd 0 0 (fieldIn 15 4 2 2))
      ∧ ((parts 2).partitioned = true ∨ 15 % 16 = 0) ∧ (parts 2).rd F.secPartStatus_state (15 % 16) = 2 ∧ (parts 2).txns = []
      ∧ (parts 2).col.plans = [] ∧ (parts 2).clu.ctx = [] ∧ (parts 2).clu.window = []
      ∧ (∀ o < 128, (parts 2).rd F.dirSlot_partition o = 15 % 16 → (parts 2).rd F.dirSlot_state o = 0)
      ∧ (parts 2).xfr.run.sorted = true := by decide +kernel

theorem witness_PartitionsAndKeys_3 :
    bindings.wf = true ∧ bindings.quiet ∧ bindings.keys.sorted = true ∧ bindings.revokeDrainedOk 15 = true
      ∧ bindings.rd F.secPartStatus_state 15 = 3 ∧ bindings.ras.fenceWait = [] ∧ bindings.rot.unlocking = none
      ∧ bindings.rot.queue = [] ∧ bindings.home.ext.sorted = true := by decide +kernel

theorem witness_PartitionsAndKeys_4_0 :
    (keyed 0).wf = true ∧ (keyed 0).quiet ∧ (keyed 0).keys.sorted = true
      ∧ (keyed 0).accepts (wordWrite Path.root Reg.secKeyCmd 0 0 (fieldIn (key255 0) 12 2 1))
      ∧ ((keyed 0).partitioned = true ∨ 4095 / 256 % 16 = 0) ∧ (keyed 0).rd F.secKeyStatus_state (4095 % 256) = 0 := by decide +kernel

theorem witness_PartitionsAndKeys_4_1 :
    (keyed 1).wf = true ∧ (keyed 1).quiet ∧ (keyed 1).keys.sorted = true
      ∧ (keyed 1).accepts (wordWrite Path.root Reg.secKeyCmd 0 0 (fieldIn (key255 0) 12 2 1))
      ∧ ((keyed 1).partitioned = true ∨ 4095 / 256 % 16 = 0) ∧ (keyed 1).rd F.secKeyStatus_state (4095 % 256) ≠ 0 := by decide +kernel

theorem witness_PartitionsAndKeys_5_0 :
    (keyed 1 [ext15]).wf = true ∧ (keyed 1 [ext15]).quiet ∧ (keyed 1 [ext15]).keys.sorted = true
      ∧ (keyed 1 [ext15]).accepts (wordWrite Path.root Reg.secKeyCmd 0 0 (fieldIn (key255 0) 12 2 2))
      ∧ (keyed 1 [ext15]).rd F.secKeyStatus_state (4095 % 256) = 1
      ∧ (∃ d < 4, ((keyed 1 [ext15]).stored (wordWrite Path.root Reg.secKeyCmd 0 0 (fieldIn (key255 0) 12 2 2))).sweepRuns (4095 % 256) d ≠ []) := by decide +kernel

theorem witness_PartitionsAndKeys_5_1 :
    (keyed 1).wf = true ∧ (keyed 1).quiet ∧ (keyed 1).keys.sorted = true
      ∧ (keyed 1).accepts (wordWrite Path.root Reg.secKeyCmd 0 0 (fieldIn (key255 0) 12 2 2))
      ∧ (keyed 1).rd F.secKeyStatus_state (4095 % 256) = 1
      ∧ (∀ d < 4, ((keyed 1).stored (wordWrite Path.root Reg.secKeyCmd 0 0 (fieldIn (key255 0) 12 2 2))).sweepRuns (4095 % 256) d = []) := by decide +kernel

theorem witness_PartitionsAndKeys_5_2 :
    (keyed 0).wf = true ∧ (keyed 0).quiet ∧ (keyed 0).keys.sorted = true
      ∧ (keyed 0).accepts (wordWrite Path.root Reg.secKeyCmd 0 0 (fieldIn (key255 0) 12 2 2))
      ∧ (keyed 0).rd F.secKeyStatus_state (4095 % 256) = 0 := by decide +kernel

theorem witness_PartitionsAndKeys_6_0 :
    (keyed 1).wf = true ∧ (keyed 1).quiet ∧ (keyed 1).keys.sorted = true
      ∧ (keyed 1).accepts (wordWrite Path.root Reg.secKeyCmd 0 0 (fieldIn (key255 0) 12 2 3))
      ∧ (keyed 1).rd F.secKeyStatus_state (4095 % 256) ≠ 0
      ∧ (∀ e ∈ (keyed 1).home.ext, e.2.state ≠ ExtState.off → e.2.attr.key ≠ 4095 % 256) := by decide +kernel

theorem witness_PartitionsAndKeys_6_1 :
    (keyed 2 [ext15]).wf = true ∧ (keyed 2 [ext15]).quiet ∧ (keyed 2 [ext15]).keys.sorted = true
      ∧ (keyed 2 [ext15]).accepts (wordWrite Path.root Reg.secKeyCmd 0 0 (fieldIn (key255 0) 12 2 3))
      ∧ (keyed 2 [ext15]).rd F.secKeyStatus_state (4095 % 256) ≠ 0
      ∧ (∃ e ∈ (keyed 2 [ext15]).home.ext, e.2.state ≠ ExtState.off ∧ e.2.attr.key = 4095 % 256) := by decide +kernel

theorem witness_PartitionsAndKeys_7_1 :
    (sweeping [(3, [(5, 31, 1)])]).wf = true ∧ (sweeping [(3, [(5, 31, 1)])]).quiet
      ∧ (sweeping [(3, [(5, 31, 1)])]).keys.sorted = true ∧ (sweeping [(3, [(5, 31, 1)])]).rd F.secKeyStatus_state = 2
      ∧ (sweeping [(3, [(5, 31, 1)])]).home.halted.contains 3 = false
      ∧ (sweeping [(3, [(5, 31, 1)])]).revoking ((sweeping [(3, [(5, 31, 1)])]).rd F.secKeyStatus_partition) = false
      ∧ (sweeping [(3, [(5, 31, 1)])]).keys.look 0 = some (runsOf 1) ∧ (runsOf 1).sweep.lookD 3 [] = [(5, 31, 0 + 1)]
      ∧ ((sweeping [(3, [(5, 31, 1)])]).getExt 5).state.serves = true ∧ ((sweeping [(3, [(5, 31, 1)])]).getExt 5).attr.key = 0
      ∧ (∀ a ∈ (runsOf 1).sweep.put 3 (if 0 = 0 then [] else [(5, 31 + 1, 0)]), a.2 = []) := by decide +kernel

theorem witness_PartitionsAndKeys_7_0 :
    (sweeping [(3, [(5, 31, 2)])]).wf = true ∧ (sweeping [(3, [(5, 31, 2)])]).quiet
      ∧ (sweeping [(3, [(5, 31, 2)])]).keys.sorted = true ∧ (sweeping [(3, [(5, 31, 2)])]).rd F.secKeyStatus_state = 2
      ∧ (sweeping [(3, [(5, 31, 2)])]).home.halted.contains 3 = false
      ∧ (sweeping [(3, [(5, 31, 2)])]).revoking ((sweeping [(3, [(5, 31, 2)])]).rd F.secKeyStatus_partition) = false
      ∧ (sweeping [(3, [(5, 31, 2)])]).keys.look 0 = some (runsOf 2) ∧ (runsOf 2).sweep.lookD 3 [] = [(5, 31, 1 + 1)]
      ∧ ((sweeping [(3, [(5, 31, 2)])]).getExt 5).state.serves = true ∧ ((sweeping [(3, [(5, 31, 2)])]).getExt 5).attr.key = 0
      ∧ (∃ a ∈ (runsOf 2).sweep.put 3 (if 1 = 0 then [] else [(5, 31 + 1, 1)]), a.2 ≠ []) := by decide +kernel

theorem witness_PartitionsAndKeys_8 :
    (sweeping [(3, [(5, 31, 2)])]).wf = true ∧ (sweeping [(3, [(5, 31, 2)])]).quiet
      ∧ (sweeping [(3, [(5, 31, 2)])]).keys.sorted = true
      ∧ (sweeping [(3, [(5, 31, 2)])]).mscFind (lineKey (2 ^ 20) false 3) = none
      ∧ (sweeping [(3, [(5, 31, 2)])]).remap (lineKey (2 ^ 20) false 3) = none
      ∧ ((sweeping [(3, [(5, 31, 2)])]).ctl ((sweeping [(3, [(5, 31, 2)])]).servedAt (lineKey (2 ^ 20) false 3)).1).wq = []
      ∧ ((sweeping [(3, [(5, 31, 2)])]).ctl ((sweeping [(3, [(5, 31, 2)])]).servedAt (lineKey (2 ^ 20) false 3)).1).wwait = []
      ∧ (sweeping [(3, [(5, 31, 2)])]).mem.ctl.sorted = true ∧ (sweeping [(3, [(5, 31, 2)])]).mem.arrived.sorted = true
      ∧ ((sweeping [(3, [(5, 31, 2)])]).peekLine (lineKey (2 ^ 20) false 3)).2.keygen ≠ true := by decide +kernel

theorem witness_PartitionsAndKeys_9 :
    served.wf = true ∧ served.quiet ∧ served.keys.sorted = true
      ∧ served.accepts (wordWrite Path.root Reg.secLinkKey (63 * 8 + 7) 0 4294967295) ∧ served.exchanging 63 = false := by decide +kernel

theorem witness_PartitionsAndKeys_10 :
    (regsAt (sweeping [(3, [(5, 31, 2)])]) [(F.secPartStatus_state, 0, 3)]).wf = true
      ∧ (regsAt (sweeping [(3, [(5, 31, 2)])]) [(F.secPartStatus_state, 0, 3)]).quiet
      ∧ (regsAt (sweeping [(3, [(5, 31, 2)])]) [(F.secPartStatus_state, 0, 3)]).keys.sorted = true
      ∧ (regsAt (sweeping [(3, [(5, 31, 2)])]) [(F.secPartStatus_state, 0, 3)]).revoking ((regsAt (sweeping [(3, [(5, 31, 2)])]) [(F.secPartStatus_state, 0, 3)]).rd F.secKeyStatus_partition) = true := by decide +kernel

/-- Core 143 is the understudy of cluster 15, and core 142 is in a state. -/
def cores (st : Nat) (l : List (Fld × Nat × Nat) := []) (f : Ras → Ras := id) : State :=
  let s := regsAt served ([(F.rasCore_state, 143, 1), (F.corStatus_role, 143, 1), (F.rasCore_state, 142, st), (F.rasCtrl_swapH, 0, 24)] ++ l)
  let s := s.setReg .secCoreMap 15 (BitVec.ofNat 128 (16 * 2 ^ 35))
  { s with ras := f s.ras }
/-- The snapshot gives zero in a wide pair; the replay e. -/
def aDispute (agree : Bool) (e : List LineData) : Dispute :=
  { core := 142, ctx := 7, eng := 3, op := 0, aEqE := agree, good := [0, 0], e := e, dests := [62, 63], poison := false }
def disputed : Context := { userCtx (fetched Mo.nop 3 1 2) with phase := .dispute }
def disputing (d : Dispute) : State := withCtx (cores 0 [] fun r => { r with disputes := [d] }) disputed
/-- The target after core 141. -/
def targeting (f : State → State) : State := f (cores 0 [] fun r => { r with lastTarget := [(15, 6)] })
def starting : State :=
  regsAt served ((List.range 9).map (fun i => (F.rasCore_state, 135 + i, 5)) ++ [(F.corStatus_role, 143, 1)])
def rasWord : Word := 142
def oneHist : HistRec := { cls := 1, inst := 571, kind := 1, count := 65535, total := 3 }

theorem witness_VerdictsAndCanaries_0_0_0 :
    (disputing (aDispute false [7, 0])).wf = true ∧ (disputing (aDispute false [7, 0])).quiet
      ∧ (disputing (aDispute false [7, 0])).ras.disputes = [aDispute false [7, 0]] ∧ (aDispute false [7, 0]).core = 142
      ∧ (aDispute false [7, 0]).ctx = 7 ∧ (aDispute false [7, 0]).scalar = false
      ∧ (disputing (aDispute false [7, 0])).getCtx 142 7 = some disputed ∧ disputed.phase = CtxPhase.dispute
      ∧ State.refereeValue (aDispute false [7, 0]) (RefereeRun.wrong [7, 0]) = some [7, 0]
      ∧ State.Dispute.fits (aDispute false [7, 0]) disputed (aDispute false [7, 0]).e = false
      ∧ [7, 0] = (aDispute false [7, 0]).e := by decide +kernel

theorem witness_VerdictsAndCanaries_0_0_1 :
    (disputing (aDispute true [7, 0])).wf = true ∧ (disputing (aDispute true [7, 0])).quiet
      ∧ (disputing (aDispute true [7, 0])).ras.disputes = [aDispute true [7, 0]] ∧ (aDispute true [7, 0]).core = 142
      ∧ (aDispute true [7, 0]).ctx = 7 ∧ (aDispute true [7, 0]).scalar = false
      ∧ (disputing (aDispute true [7, 0])).getCtx 142 7 = some disputed ∧ disputed.phase = CtxPhase.dispute
      ∧ State.refereeValue (aDispute true [7, 0]) RefereeRun.right = some [0, 0]
      ∧ State.Dispute.fits (aDispute true [7, 0]) disputed (aDispute true [7, 0]).e = false
      ∧ [0, 0] ≠ (aDispute true [7, 0]).e ∧ State.Dispute.fits (aDispute true [7, 0]) disputed [0, 0] = true := by decide +kernel

theorem witness_VerdictsAndCanaries_0_0_1_a :
    (disputing (aDispute false [7, 0])).wf = true ∧ (disputing (aDispute false [7, 0])).quiet
      ∧ (disputing (aDispute false [7, 0])).ras.disputes = [aDispute false [7, 0]] ∧ (aDispute false [7, 0]).core = 142
      ∧ (aDispute false [7, 0]).ctx = 7 ∧ (aDispute false [7, 0]).scalar = false
      ∧ (disputing (aDispute false [7, 0])).getCtx 142 7 = some disputed ∧ disputed.phase = CtxPhase.dispute
      ∧ State.refereeValue (aDispute false [7, 0]) RefereeRun.right = some [0, 0]
      ∧ State.Dispute.fits (aDispute false [7, 0]) disputed (aDispute false [7, 0]).e = false
      ∧ [0, 0] ≠ (aDispute false [7, 0]).e ∧ State.Dispute.fits (aDispute false [7, 0]) disputed [0, 0] = true := by decide +kernel

theorem witness_VerdictsAndCanaries_0_0_2 :
    (disputing (aDispute false [21, 0])).wf = true ∧ (disputing (aDispute false [21, 0])).quiet
      ∧ (disputing (aDispute false [21, 0])).ras.disputes = [aDispute false [21, 0]] ∧ (aDispute false [21, 0]).core = 142
      ∧ (aDispute false [21, 0]).ctx = 7 ∧ (aDispute false [21, 0]).scalar = false
      ∧ (disputing (aDispute false [21, 0])).getCtx 142 7 = some disputed ∧ disputed.phase = CtxPhase.dispute
      ∧ State.refereeValue (aDispute false [21, 0]) (RefereeRun.wrong [21, 0]) = some [21, 0]
      ∧ State.Dispute.fits (aDispute false [21, 0]) disputed (aDispute false [21, 0]).e = true
      ∧ [21, 0] = (aDispute false [21, 0]).e := by decide +kernel

theorem witness_VerdictsAndCanaries_0_0_3 :
    (disputing (aDispute false [0, 0])).wf = true ∧ (disputing (aDispute false [0, 0])).quiet
      ∧ (disputing (aDispute false [0, 0])).ras.disputes = [aDispute false [0, 0]] ∧ (aDispute false [0, 0]).core = 142
      ∧ (aDispute false [0, 0]).ctx = 7 ∧ (aDispute false [0, 0]).scalar = false
      ∧ (disputing (aDispute false [0, 0])).getCtx 142 7 = some disputed ∧ disputed.phase = CtxPhase.dispute
      ∧ State.refereeValue (aDispute false [0, 0]) (RefereeRun.wrong [7, 0]) = some [7, 0]
      ∧ State.Dispute.fits (aDispute false [0, 0]) disputed (aDispute false [0, 0]).e = true
      ∧ [7, 0] ≠ (aDispute false [0, 0]).e ∧ State.Dispute.fits (aDispute false [0, 0]) disputed [7, 0] = false := by decide +kernel

theorem witness_VerdictsAndCanaries_0_1 :
    (disputing (aDispute false [0, 0])).wf = true ∧ (disputing (aDispute false [0, 0])).quiet
      ∧ (disputing (aDispute false [0, 0])).ras.disputes = [aDispute false [0, 0]] ∧ (aDispute false [0, 0]).core = 142
      ∧ (aDispute false [0, 0]).ctx = 7 ∧ (aDispute false [0, 0]).scalar = false
      ∧ (disputing (aDispute false [0, 0])).getCtx 142 7 = some disputed ∧ disputed.phase = CtxPhase.dispute
      ∧ (∀ (l : List LineData), State.refereeValue (aDispute false [0, 0]) (RefereeRun.wrong [21, 0]) = some l → l ≠ (aDispute false [0, 0]).e ∧ State.Dispute.fits (aDispute false [0, 0]) disputed l = State.Dispute.fits (aDispute false [0, 0]) disputed (aDispute false [0, 0]).e) := by decide +kernel

theorem witness_VerdictsAndCanaries_0_1_a :
    (disputing (aDispute true [7, 0])).wf = true ∧ (disputing (aDispute true [7, 0])).quiet
      ∧ (disputing (aDispute true [7, 0])).ras.disputes = [aDispute true [7, 0]] ∧ (aDispute true [7, 0]).core = 142
      ∧ (aDispute true [7, 0]).ctx = 7 ∧ (aDispute true [7, 0]).scalar = false
      ∧ (disputing (aDispute true [7, 0])).getCtx 142 7 = some disputed ∧ disputed.phase = CtxPhase.dispute
      ∧ (∀ (l : List LineData), State.refereeValue (aDispute true [7, 0]) RefereeRun.absent = some l → l ≠ (aDispute true [7, 0]).e ∧ State.Dispute.fits (aDispute true [7, 0]) disputed l = State.Dispute.fits (aDispute true [7, 0]) disputed (aDispute true [7, 0]).e) := by decide +kernel

theorem witness_VerdictsAndCanaries_1_0 :
    (cores 0).wf = true ∧ (cores 0).quiet ∧ 0 ≠ 3 ∧ 1 ≠ 2 ∧ (cores 0).runsCanaries 142 = true := by decide +kernel

theorem witness_VerdictsAndCanaries_1_1 :
    (cores 3).wf = true ∧ (cores 3).quiet ∧ 0 ≠ 3 ∧ 1 ≠ 2 ∧ (cores 3).runsCanaries 142 = true := by decide +kernel

theorem witness_VerdictsAndCanaries_1_2 :
    (cores 0).wf = true ∧ (cores 0).quiet ∧ 0 ≠ 3 ∧ 1 ≠ 2 ∧ (cores 0).runsCanaries 142 = true ∧ 3 ≠ 1 ∧ 3 ≠ 2
      ∧ (cores 0).ras.hist.length < 4095 := by decide +kernel

theorem witness_VerdictsAndCanaries_2 :
    (cores 0).wf = true ∧ (cores 0).quiet ∧ 0 ≠ 1 ∧ (cores 0).runsCanaries 143 = true := by decide +kernel

theorem witness_KennelRows_0 :
    (targeting id).wf = true ∧ (targeting id).quiet ∧ (targeting id).ras.testing.sorted = true
      ∧ (targeting id).ras.draining.sorted = true ∧ (targeting id).rd F.rasCtrl_swapH ≠ 0 ∧ (targeting id).ras.disputes = []
      ∧ (List.find? (fun (m : ℕ) => (targeting id).rd F.rasCore_state m == 1) (State.coresOf 15) = some 143)
      ∧ (targeting id).swapTarget 15 = some 142 := by decide +kernel

theorem witness_KennelRows_0_a :
    ((targeting fun (s : State) => withCtx s disputed).wf = true)
      ∧ ((targeting fun (s : State) => withCtx s disputed).quiet)
      ∧ ((targeting fun (s : State) => withCtx s disputed).ras.testing.sorted = true)
      ∧ ((targeting fun (s : State) => withCtx s disputed).ras.draining.sorted = true)
      ∧ ((targeting fun (s : State) => withCtx s disputed).rd F.rasCtrl_swapH ≠ 0)
      ∧ ((targeting fun (s : State) => withCtx s disputed).ras.disputes = [])
      ∧ (List.find? (fun (m : ℕ) => (targeting fun (s : State) => withCtx s disputed).rd F.rasCore_state m == 1) (State.coresOf 15) = some 143)
      ∧ ((targeting fun (s : State) => withCtx s disputed).swapTarget 15 = some 142) := by decide +kernel

theorem witness_KennelRows_1 :
    ((cores 3 [] fun (r : Ras) => { hist := r.hist, hours := r.hours, copies := r.copies, commitDue := r.commitDue, fencing := r.fencing, fenceWait := r.fenceWait, disabled := r.disabled, lastTarget := r.lastTarget, testing := r.testing, draining := [(142, TestFor.swap)], disputes := r.disputes : Ras }).wf = true)
      ∧ ((cores 3 [] fun (r : Ras) => { hist := r.hist, hours := r.hours, copies := r.copies, commitDue := r.commitDue, fencing := r.fencing, fenceWait := r.fenceWait, disabled := r.disabled, lastTarget := r.lastTarget, testing := r.testing, draining := [(142, TestFor.swap)], disputes := r.disputes : Ras }).quiet)
      ∧ ((cores 3 [] fun (r : Ras) => { hist := r.hist, hours := r.hours, copies := r.copies, commitDue := r.commitDue, fencing := r.fencing, fenceWait := r.fenceWait, disabled := r.disabled, lastTarget := r.lastTarget, testing := r.testing, draining := [(142, TestFor.swap)], disputes := r.disputes : Ras }).ras.testing.sorted = true)
      ∧ ((cores 3 [] fun (r : Ras) => { hist := r.hist, hours := r.hours, copies := r.copies, commitDue := r.commitDue, fencing := r.fencing, fenceWait := r.fenceWait, disabled := r.disabled, lastTarget := r.lastTarget, testing := r.testing, draining := [(142, TestFor.swap)], disputes := r.disputes : Ras }).ras.draining.sorted = true)
      ∧ ((cores 3 [] fun (r : Ras) => { hist := r.hist, hours := r.hours, copies := r.copies, commitDue := r.commitDue, fencing := r.fencing, fenceWait := r.fenceWait, disabled := r.disabled, lastTarget := r.lastTarget, testing := r.testing, draining := [(142, TestFor.swap)], disputes := r.disputes : Ras }).rd F.rasCore_state 142 = 3)
      ∧ ((cores 3 [] fun (r : Ras) => { hist := r.hist, hours := r.hours, copies := r.copies, commitDue := r.commitDue, fencing := r.fencing, fenceWait := r.fenceWait, disabled := r.disabled, lastTarget := r.lastTarget, testing := r.testing, draining := [(142, TestFor.swap)], disputes := r.disputes : Ras }).ras.draining.look 142 = some TestFor.swap) := by decide +kernel

theorem witness_KennelRows_2_0 :
    ((cores 4 [] fun (r : Ras) => { hist := r.hist, hours := r.hours, copies := r.copies, commitDue := r.commitDue, fencing := r.fencing, fenceWait := r.fenceWait, disabled := r.disabled, lastTarget := r.lastTarget, testing := [(142, TestFor.swap)], draining := r.draining, disputes := r.disputes : Ras }).wf = true)
      ∧ ((cores 4 [] fun (r : Ras) => { hist := r.hist, hours := r.hours, copies := r.copies, commitDue := r.commitDue, fencing := r.fencing, fenceWait := r.fenceWait, disabled := r.disabled, lastTarget := r.lastTarget, testing := [(142, TestFor.swap)], draining := r.draining, disputes := r.disputes : Ras }).quiet)
      ∧ ((cores 4 [] fun (r : Ras) => { hist := r.hist, hours := r.hours, copies := r.copies, commitDue := r.commitDue, fencing := r.fencing, fenceWait := r.fenceWait, disabled := r.disabled, lastTarget := r.lastTarget, testing := [(142, TestFor.swap)], draining := r.draining, disputes := r.disputes : Ras }).ras.testing.sorted = true)
      ∧ ((cores 4 [] fun (r : Ras) => { hist := r.hist, hours := r.hours, copies := r.copies, commitDue := r.commitDue, fencing := r.fencing, fenceWait := r.fenceWait, disabled := r.disabled, lastTarget := r.lastTarget, testing := [(142, TestFor.swap)], draining := r.draining, disputes := r.disputes : Ras }).ras.draining.sorted = true)
      ∧ ((cores 4 [] fun (r : Ras) => { hist := r.hist, hours := r.hours, copies := r.copies, commitDue := r.commitDue, fencing := r.fencing, fenceWait := r.fenceWait, disabled := r.disabled, lastTarget := r.lastTarget, testing := [(142, TestFor.swap)], draining := r.draining, disputes := r.disputes : Ras }).rd F.rasCore_state 142 = 4)
      ∧ ((cores 4 [] fun (r : Ras) => { hist := r.hist, hours := r.hours, copies := r.copies, commitDue := r.commitDue, fencing := r.fencing, fenceWait := r.fenceWait, disabled := r.disabled, lastTarget := r.lastTarget, testing := [(142, TestFor.swap)], draining := r.draining, disputes := r.disputes : Ras }).ras.testing.look 142 = some TestFor.swap) := by decide +kernel

theorem witness_KennelRows_2_1 :
    ((cores 4 [] fun (r : Ras) => { hist := r.hist, hours := r.hours, copies := r.copies, commitDue := r.commitDue, fencing := r.fencing, fenceWait := r.fenceWait, disabled := r.disabled, lastTarget := r.lastTarget, testing := [(142, TestFor.command)], draining := r.draining, disputes := r.disputes : Ras }).wf = true)
      ∧ ((cores 4 [] fun (r : Ras) => { hist := r.hist, hours := r.hours, copies := r.copies, commitDue := r.commitDue, fencing := r.fencing, fenceWait := r.fenceWait, disabled := r.disabled, lastTarget := r.lastTarget, testing := [(142, TestFor.command)], draining := r.draining, disputes := r.disputes : Ras }).quiet)
      ∧ ((cores 4 [] fun (r : Ras) => { hist := r.hist, hours := r.hours, copies := r.copies, commitDue := r.commitDue, fencing := r.fencing, fenceWait := r.fenceWait, disabled := r.disabled, lastTarget := r.lastTarget, testing := [(142, TestFor.command)], draining := r.draining, disputes := r.disputes : Ras }).ras.testing.sorted = true)
      ∧ ((cores 4 [] fun (r : Ras) => { hist := r.hist, hours := r.hours, copies := r.copies, commitDue := r.commitDue, fencing := r.fencing, fenceWait := r.fenceWait, disabled := r.disabled, lastTarget := r.lastTarget, testing := [(142, TestFor.command)], draining := r.draining, disputes := r.disputes : Ras }).ras.draining.sorted = true)
      ∧ ((cores 4 [] fun (r : Ras) => { hist := r.hist, hours := r.hours, copies := r.copies, commitDue := r.commitDue, fencing := r.fencing, fenceWait := r.fenceWait, disabled := r.disabled, lastTarget := r.lastTarget, testing := [(142, TestFor.command)], draining := r.draining, disputes := r.disputes : Ras }).rd F.rasCore_state 142 = 4)
      ∧ ((cores 4 [] fun (r : Ras) => { hist := r.hist, hours := r.hours, copies := r.copies, commitDue := r.commitDue, fencing := r.fencing, fenceWait := r.fenceWait, disabled := r.disabled, lastTarget := r.lastTarget, testing := [(142, TestFor.command)], draining := r.draining, disputes := r.disputes : Ras }).ras.testing.look 142 = some TestFor.command) := by decide +kernel

theorem witness_KennelRows_2_2 :
    ((cores 4 [] fun (r : Ras) => { hist := r.hist, hours := r.hours, copies := r.copies, commitDue := r.commitDue, fencing := r.fencing, fenceWait := r.fenceWait, disabled := r.disabled, lastTarget := r.lastTarget, testing := [(142, TestFor.swap)], draining := r.draining, disputes := r.disputes : Ras }).wf = true)
      ∧ ((cores 4 [] fun (r : Ras) => { hist := r.hist, hours := r.hours, copies := r.copies, commitDue := r.commitDue, fencing := r.fencing, fenceWait := r.fenceWait, disabled := r.disabled, lastTarget := r.lastTarget, testing := [(142, TestFor.swap)], draining := r.draining, disputes := r.disputes : Ras }).quiet)
      ∧ ((cores 4 [] fun (r : Ras) => { hist := r.hist, hours := r.hours, copies := r.copies, commitDue := r.commitDue, fencing := r.fencing, fenceWait := r.fenceWait, disabled := r.disabled, lastTarget := r.lastTarget, testing := [(142, TestFor.swap)], draining := r.draining, disputes := r.disputes : Ras }).ras.testing.sorted = true)
      ∧ ((cores 4 [] fun (r : Ras) => { hist := r.hist, hours := r.hours, copies := r.copies, commitDue := r.commitDue, fencing := r.fencing, fenceWait := r.fenceWait, disabled := r.disabled, lastTarget := r.lastTarget, testing := [(142, TestFor.swap)], draining := r.draining, disputes := r.disputes : Ras }).ras.draining.sorted = true)
      ∧ ((cores 4 [] fun (r : Ras) => { hist := r.hist, hours := r.hours, copies := r.copies, commitDue := r.commitDue, fencing := r.fencing, fenceWait := r.fenceWait, disabled := r.disabled, lastTarget := r.lastTarget, testing := [(142, TestFor.swap)], draining := r.draining, disputes := r.disputes : Ras }).rd F.rasCore_state 142 = 4)
      ∧ ((cores 4 [] fun (r : Ras) => { hist := r.hist, hours := r.hours, copies := r.copies, commitDue := r.commitDue, fencing := r.fencing, fenceWait := r.fenceWait, disabled := r.disabled, lastTarget := r.lastTarget, testing := [(142, TestFor.swap)], draining := r.draining, disputes := r.disputes : Ras }).ras.testing.look 142 = some TestFor.swap)
      ∧ (Fenceable (cores 4 [] fun (r : Ras) => { hist := r.hist, hours := r.hours, copies := r.copies, commitDue := r.commitDue, fencing := r.fencing, fenceWait := r.fenceWait, disabled := r.disabled, lastTarget := r.lastTarget, testing := [(142, TestFor.swap)], draining := r.draining, disputes := r.disputes : Ras }) 142) := by decide +kernel

theorem witness_KennelRows_3 :
    starting.wf = true ∧ starting.quiet ∧ starting.ras.testing.sorted = true ∧ starting.ras.draining.sorted = true
      ∧ (∀ m ∈ State.coresOf 15, starting.rd F.rasCore_state m = 5 ∧ starting.rd F.corStatus_role m < 2)
      ∧ (∃ m ∈ State.coresOf 15, starting.rd F.corStatus_role m = 1) := by decide +kernel

theorem witness_KennelRows_4_0 :
    (cores 0).wf = true ∧ (cores 0).quiet ∧ (cores 0).ras.testing.sorted = true ∧ (cores 0).ras.draining.sorted = true
      ∧ (cores 0).accepts (wordWrite Path.root Reg.rasCmd 0 0 (fieldIn rasWord 8 3 1)) ∧ (cores 0).flag F.rasStatus_busy = false ∧ 142 % 256 = 142
      ∧ (cores 0).rd F.rasCore_state 142 = 0 ∧ (cores 0).ctxOf 142 = [] := by decide +kernel

theorem witness_KennelRows_4_1 :
    (withCtx (cores 0) disputed).wf = true ∧ (withCtx (cores 0) disputed).quiet
      ∧ (withCtx (cores 0) disputed).ras.testing.sorted = true ∧ (withCtx (cores 0) disputed).ras.draining.sorted = true
      ∧ (withCtx (cores 0) disputed).accepts (wordWrite Path.root Reg.rasCmd 0 0 (fieldIn rasWord 8 3 1)) ∧ (withCtx (cores 0) disputed).flag F.rasStatus_busy = false ∧ 142 % 256 = 142
      ∧ (withCtx (cores 0) disputed).rd F.rasCore_state 142 = 0 ∧ (withCtx (cores 0) disputed).ctxOf 142 ≠ [] := by decide +kernel

theorem witness_KennelRows_4_2 :
    (cores 1).wf = true ∧ (cores 1).quiet ∧ (cores 1).ras.testing.sorted = true ∧ (cores 1).ras.draining.sorted = true
      ∧ (cores 1).accepts (wordWrite Path.root Reg.rasCmd 0 0 (fieldIn rasWord 8 3 1)) ∧ (cores 1).flag F.rasStatus_busy = false ∧ 142 % 256 = 142
      ∧ (cores 1).rd F.rasCore_state 142 = 1 := by decide +kernel

theorem witness_KennelRows_4_3 :
    (cores 2).wf = true ∧ (cores 2).quiet ∧ (cores 2).ras.testing.sorted = true ∧ (cores 2).ras.draining.sorted = true
      ∧ (cores 2).accepts (wordWrite Path.root Reg.rasCmd 0 0 (fieldIn rasWord 8 3 1)) ∧ (cores 2).flag F.rasStatus_busy = false ∧ 142 % 256 = 142
      ∧ (cores 2).rd F.rasCore_state 142 = 2 := by decide +kernel

theorem witness_KennelRows_5_0 :
    (cores 2).wf = true ∧ (cores 2).quiet ∧ (cores 2).ras.testing.sorted = true ∧ (cores 2).ras.draining.sorted = true
      ∧ (cores 2).accepts (wordWrite Path.root Reg.rasCmd 0 0 (fieldIn rasWord 8 3 2)) ∧ (cores 2).flag F.rasStatus_busy = false ∧ 142 % 256 = 142
      ∧ (cores 2).rd F.rasCore_state 142 = 2 := by decide +kernel

theorem witness_KennelRows_5_1 :
    (cores 0).wf = true ∧ (cores 0).quiet ∧ (cores 0).ras.testing.sorted = true ∧ (cores 0).ras.draining.sorted = true
      ∧ (cores 0).accepts (wordWrite Path.root Reg.rasCmd 0 0 (fieldIn rasWord 8 3 2)) ∧ (cores 0).flag F.rasStatus_busy = false ∧ 142 % 256 = 142
      ∧ (cores 0).rd F.rasCore_state 142 ≠ 2 ∧ (cores 0).ctxOf 142 = [] ∧ Fenceable (cores 0) 142 := by decide +kernel

theorem witness_KennelRows_6_0 :
    (cores 2).wf = true ∧ (cores 2).quiet ∧ (cores 2).ras.testing.sorted = true ∧ (cores 2).ras.draining.sorted = true
      ∧ (cores 2).accepts (wordWrite Path.root Reg.rasCmd 0 0 (fieldIn rasWord 8 3 3)) ∧ (cores 2).flag F.rasStatus_busy = false ∧ 142 % 256 = 142
      ∧ (cores 2).rd F.rasCore_state 142 = 2 ∧ (∀ f ∈ (cores 2).ras.fencing, f.1 ≠ 142) := by decide +kernel

theorem witness_KennelRows_6_1 :
    (cores 3).wf = true ∧ (cores 3).quiet ∧ (cores 3).ras.testing.sorted = true ∧ (cores 3).ras.draining.sorted = true
      ∧ (cores 3).accepts (wordWrite Path.root Reg.rasCmd 0 0 (fieldIn rasWord 8 3 3)) ∧ (cores 3).flag F.rasStatus_busy = false ∧ 142 % 256 = 142
      ∧ (cores 3).rd F.rasCore_state 142 ≠ 2 := by decide +kernel

theorem witness_KennelRows_7 :
    ((cores 2 [] fun (r : Ras) => { hist := r.hist, hours := r.hours, copies := r.copies, commitDue := r.commitDue, fencing := [(142, 0)], fenceWait := r.fenceWait, disabled := r.disabled, lastTarget := r.lastTarget, testing := r.testing, draining := r.draining, disputes := r.disputes : Ras }).wf = true)
      ∧ ((cores 2 [] fun (r : Ras) => { hist := r.hist, hours := r.hours, copies := r.copies, commitDue := r.commitDue, fencing := [(142, 0)], fenceWait := r.fenceWait, disabled := r.disabled, lastTarget := r.lastTarget, testing := r.testing, draining := r.draining, disputes := r.disputes : Ras }).quiet)
      ∧ ((cores 2 [] fun (r : Ras) => { hist := r.hist, hours := r.hours, copies := r.copies, commitDue := r.commitDue, fencing := [(142, 0)], fenceWait := r.fenceWait, disabled := r.disabled, lastTarget := r.lastTarget, testing := r.testing, draining := r.draining, disputes := r.disputes : Ras }).ras.testing.sorted = true)
      ∧ ((cores 2 [] fun (r : Ras) => { hist := r.hist, hours := r.hours, copies := r.copies, commitDue := r.commitDue, fencing := [(142, 0)], fenceWait := r.fenceWait, disabled := r.disabled, lastTarget := r.lastTarget, testing := r.testing, draining := r.draining, disputes := r.disputes : Ras }).ras.draining.sorted = true)
      ∧ ((cores 2 [] fun (r : Ras) => { hist := r.hist, hours := r.hours, copies := r.copies, commitDue := r.commitDue, fencing := [(142, 0)], fenceWait := r.fenceWait, disabled := r.disabled, lastTarget := r.lastTarget, testing := r.testing, draining := r.draining, disputes := r.disputes : Ras }).ras.fencing = [(142, 0)])
      ∧ ((cores 2 [] fun (r : Ras) => { hist := r.hist, hours := r.hours, copies := r.copies, commitDue := r.commitDue, fencing := [(142, 0)], fenceWait := r.fenceWait, disabled := r.disabled, lastTarget := r.lastTarget, testing := r.testing, draining := r.draining, disputes := r.disputes : Ras }).ctxOf 142 = [])
      ∧ ((cores 2 [] fun (r : Ras) => { hist := r.hist, hours := r.hours, copies := r.copies, commitDue := r.commitDue, fencing := [(142, 0)], fenceWait := r.fenceWait, disabled := r.disabled, lastTarget := r.lastTarget, testing := r.testing, draining := r.draining, disputes := r.disputes : Ras }).rd F.rasCore_state 142 = 2)
      ∧ (List.find? (fun (m : ℕ) => (cores 2 [] fun (r : Ras) => { hist := r.hist, hours := r.hours, copies := r.copies, commitDue := r.commitDue, fencing := [(142, 0)], fenceWait := r.fenceWait, disabled := r.disabled, lastTarget := r.lastTarget, testing := r.testing, draining := r.draining, disputes := r.disputes : Ras }).rd F.rasCore_state m == 1) (State.coresOf 15) = some 143) := by decide +kernel

theorem witness_KennelRows_8_0 :
    ((cores 2 [] fun (r : Ras) => { hist := [oneHist], hours := r.hours, copies := r.copies, commitDue := true, fencing := r.fencing, fenceWait := r.fenceWait, disabled := r.disabled, lastTarget := r.lastTarget, testing := r.testing, draining := r.draining, disputes := r.disputes : Ras }).wf = true)
      ∧ ((cores 2 [] fun (r : Ras) => { hist := [oneHist], hours := r.hours, copies := r.copies, commitDue := true, fencing := r.fencing, fenceWait := r.fenceWait, disabled := r.disabled, lastTarget := r.lastTarget, testing := r.testing, draining := r.draining, disputes := r.disputes : Ras }).quiet)
      ∧ ((cores 2 [] fun (r : Ras) => { hist := [oneHist], hours := r.hours, copies := r.copies, commitDue := true, fencing := r.fencing, fenceWait := r.fenceWait, disabled := r.disabled, lastTarget := r.lastTarget, testing := r.testing, draining := r.draining, disputes := r.disputes : Ras }).ras.testing.sorted = true)
      ∧ ((cores 2 [] fun (r : Ras) => { hist := [oneHist], hours := r.hours, copies := r.copies, commitDue := true, fencing := r.fencing, fenceWait := r.fenceWait, disabled := r.disabled, lastTarget := r.lastTarget, testing := r.testing, draining := r.draining, disputes := r.disputes : Ras }).ras.draining.sorted = true)
      ∧ ((cores 2 [] fun (r : Ras) => { hist := [oneHist], hours := r.hours, copies := r.copies, commitDue := true, fencing := r.fencing, fenceWait := r.fenceWait, disabled := r.disabled, lastTarget := r.lastTarget, testing := r.testing, draining := r.draining, disputes := r.disputes : Ras }).ras.commitDue = true) := by decide +kernel

theorem witness_KennelRows_8_1 :
    ((cores 2 [] fun (r : Ras) => { hist := [oneHist], hours := r.hours, copies := r.copies, commitDue := true, fencing := r.fencing, fenceWait := r.fenceWait, disabled := r.disabled, lastTarget := r.lastTarget, testing := r.testing, draining := r.draining, disputes := r.disputes : Ras }).wf = true)
      ∧ ((cores 2 [] fun (r : Ras) => { hist := [oneHist], hours := r.hours, copies := r.copies, commitDue := true, fencing := r.fencing, fenceWait := r.fenceWait, disabled := r.disabled, lastTarget := r.lastTarget, testing := r.testing, draining := r.draining, disputes := r.disputes : Ras }).quiet)
      ∧ ((cores 2 [] fun (r : Ras) => { hist := [oneHist], hours := r.hours, copies := r.copies, commitDue := true, fencing := r.fencing, fenceWait := r.fenceWait, disabled := r.disabled, lastTarget := r.lastTarget, testing := r.testing, draining := r.draining, disputes := r.disputes : Ras }).ras.testing.sorted = true)
      ∧ ((cores 2 [] fun (r : Ras) => { hist := [oneHist], hours := r.hours, copies := r.copies, commitDue := true, fencing := r.fencing, fenceWait := r.fenceWait, disabled := r.disabled, lastTarget := r.lastTarget, testing := r.testing, draining := r.draining, disputes := r.disputes : Ras }).ras.draining.sorted = true)
      ∧ ((cores 2 [] fun (r : Ras) => { hist := [oneHist], hours := r.hours, copies := r.copies, commitDue := true, fencing := r.fencing, fenceWait := r.fenceWait, disabled := r.disabled, lastTarget := r.lastTarget, testing := r.testing, draining := r.draining, disputes := r.disputes : Ras }).ras.commitDue = true) := by decide +kernel

theorem witness_KennelRows_9 :
    ((cores 2 [] fun (r : Ras) => { hist := [oneHist], hours := r.hours, copies := r.copies, commitDue := r.commitDue, fencing := r.fencing, fenceWait := r.fenceWait, disabled := r.disabled, lastTarget := r.lastTarget, testing := r.testing, draining := r.draining, disputes := r.disputes : Ras }).wf = true)
      ∧ ((cores 2 [] fun (r : Ras) => { hist := [oneHist], hours := r.hours, copies := r.copies, commitDue := r.commitDue, fencing := r.fencing, fenceWait := r.fenceWait, disabled := r.disabled, lastTarget := r.lastTarget, testing := r.testing, draining := r.draining, disputes := r.disputes : Ras }).quiet)
      ∧ ((cores 2 [] fun (r : Ras) => { hist := [oneHist], hours := r.hours, copies := r.copies, commitDue := r.commitDue, fencing := r.fencing, fenceWait := r.fenceWait, disabled := r.disabled, lastTarget := r.lastTarget, testing := r.testing, draining := r.draining, disputes := r.disputes : Ras }).ras.testing.sorted = true)
      ∧ ((cores 2 [] fun (r : Ras) => { hist := [oneHist], hours := r.hours, copies := r.copies, commitDue := r.commitDue, fencing := r.fencing, fenceWait := r.fenceWait, disabled := r.disabled, lastTarget := r.lastTarget, testing := r.testing, draining := r.draining, disputes := r.disputes : Ras }).ras.draining.sorted = true) := by decide +kernel

/-- Power's record changed. -/
def powered (l : List (Fld × Nat × Nat)) (f : Pwr → Pwr := id) : State := let s := regsAt served l; { s with pwr := f s.pwr }
def stretched (k : Nat) (r : List Nat := []) : State := powered [] fun p => { p with stretch := [k], restoring := r }
/-- Limits of 100 degrees, a cap of 1,000 W. -/
def capped : State := powered [(F.pwrCtrl_throttle, 0, 100), (F.pwrCtrl_stkHot, 0, 100), (F.pwrCtrl_dimmHot, 0, 85), (F.pwrCap_limit, 0, 1000)] fun p => { p with capDuty := 40 }
def feeds (a b : Nat) : State := powered [(F.rasStatus_feedAOk, 0, a), (F.rasStatus_feedBOk, 0, b)]
def idleCore (m : Nat) : State := powered [(F.pwrCtrl_coreIdle, 0, 100), (F.rasCore_state, 142, 0), (F.rasCore_referee, 142, m)]

/-- An image without sections. -/
def anImage (version svn : BitVec 32) : ImageInfo :=
  { version := version, svn := svn, autoAdvance := false, crcRef := [1, 2, 3, 4], security := none, drain := [], refresh := [], selfRefresh := [], patrol := [], history := [],
    funcSeq := [], formats := [], bark := [], lanePreset := [], portLists := [], registers := [], kinds := [], digest := 7, headerDigest := 8 }
/-- A signed slot with a header of a version and an SVN and one section of drain levels. -/
def aSlot (version svn : Nat) : SlotFacts :=
  { bytes := State.leBytes (([(0x4854524D, 0), (1, 4), (1, 6), (version, 8), (svn, 12), (512, 20), (0x0A, 128), (1, 130), (144, 132), (16, 136)] : List (Nat × Nat)).map
      fun x => x.1 * 256 ^ x.2).sum 160
    signed := true }
def imageIn (f : SlotFacts) : ImageInfo := readImage f.bytes
theorem slot_image {f : SlotFacts} (h : (f.signed && imageFormed f.bytes) = true) : slotImage f = some (imageIn f) := if_pos h
def facts (a b : SlotFacts) : BootFacts := ⟨true, true, 3, a, b, some [], 5⟩
/-- Of two valid images the later version runs; an image whose SVN is below the counter does not. -/
theorem pick_later : State.pickSlot 3 (slotImage (facts (aSlot 1 5) (aSlot 2 3)).slotA) (slotImage (facts (aSlot 1 5) (aSlot 2 3)).slotB) =
    some (true, imageIn (aSlot 2 3)) := by
  have a : decide (3 ≤ (imageIn (aSlot 1 5)).svn.toNat) = true := by decide +kernel
  have b : decide (3 ≤ (imageIn (aSlot 2 3)).svn.toNat) = true := by decide +kernel
  have c : (imageIn (aSlot 1 5)).version.toNat < (imageIn (aSlot 2 3)).version.toNat := by decide +kernel
  simp only [facts, slot_image (f := aSlot 1 5) (by decide +kernel), slot_image (f := aSlot 2 3) (by decide +kernel), State.pickSlot,
    Option.filter_some, a, b, c, if_true]
theorem pick_valid : State.pickSlot 3 (slotImage (facts (aSlot 1 5) (aSlot 2 2)).slotA) (slotImage (facts (aSlot 1 5) (aSlot 2 2)).slotB) =
    some (false, imageIn (aSlot 1 5)) := by
  have a : decide (3 ≤ (imageIn (aSlot 1 5)).svn.toNat) = true := by decide +kernel
  have b : decide (3 ≤ (imageIn (aSlot 2 2)).svn.toNat) = false := by decide +kernel
  simp only [facts, slot_image (f := aSlot 1 5) (by decide +kernel), slot_image (f := aSlot 2 2) (by decide +kernel), State.pickSlot,
    Option.filter_some, a, b, if_true, Bool.false_eq_true, if_false]
def atStep (k : Nat) (l : List (Fld × Nat × Nat) := []) : State := let s := regsAt State.reset ([(F.pwrStatus_state, 0, 1)] ++ l); { s with pwr := { s.pwr with step := k } }
def noFeeds : State := regsAt State.reset [(F.rasStatus_feedAOk, 0, 0), (F.rasStatus_feedBOk, 0, 0)]
def imaged : State :=
  let s := atStep 5 ((List.range 64).map fun n => (F.lnkCtrl_enable, n, 0))
  { s with rot := { s.rot with slotA := some (anImage 1 5) } }
def pinned (c : Bool) : State := powered [] fun p => { p with pin := some c }
def emptied : State := let s := regsAt served []; { s with home := {} }
def occupied : State := regsAt emptied [(F.dirSlot_state, 127, 1)]

theorem witness_SuppliesAndClocks_0 :
    served.wf = true ∧ served.quiet ∧ 3 ∉ served.pwr.stretch := by decide +kernel

theorem witness_SuppliesAndClocks_1_0 :
    served.wf = true ∧ served.quiet ∧ 15 / 4 = 3 ∧ 4 + 15 ∉ served.pwr.stretch := by decide +kernel

theorem witness_SuppliesAndClocks_1_1 :
    (stretched 19).wf = true ∧ (stretched 19).quiet ∧ 15 / 4 = 3 ∧ 4 + 15 ∈ (stretched 19).pwr.stretch
      ∧ 4 + 15 ∉ (stretched 19).pwr.restoring := by decide +kernel

theorem witness_SuppliesAndClocks_2 :
    (stretched 3).wf = true ∧ (stretched 3).quiet ∧ 3 ∈ (stretched 3).pwr.stretch ∧ 3 ∉ (stretched 3).pwr.restoring := by decide +kernel

theorem witness_SuppliesAndClocks_3 :
    (stretched 19 [19]).wf = true ∧ (stretched 19 [19]).quiet := by decide +kernel

theorem witness_SuppliesAndClocks_4_0 :
    served.wf = true ∧ served.quiet ∧ ¬(5 = 5 ∧ 2 ≤ 1) := by decide +kernel

theorem witness_SuppliesAndClocks_4_1 :
    served.wf = true ∧ served.quiet ∧ ¬(8 = 5 ∧ 2 ≤ 3) := by decide +kernel

theorem witness_SuppliesAndClocks_4_2 :
    served.wf = true ∧ served.quiet ∧ ¬(8 = 5 ∧ 2 ≤ 3) ∧ served.running = true := by decide +kernel

theorem witness_SuppliesAndClocks_5 :
    capped.wf = true ∧ capped.quiet ∧ capped.mem.ctl.sorted = true ∧ capped.running = true
      ∧ 1001 < 2 ^ F.pwrStatus_power.width ∧ (∀ x ∈ [97, 1, 2, 3], x + 3 ≤ capped.rd F.pwrCtrl_throttle)
      ∧ (∀ x ∈ [97, 0, 0, 0], x + 3 ≤ capped.rd F.pwrCtrl_stkHot) ∧ (∀ x ∈ [82], x + 3 ≤ capped.rd F.pwrCtrl_dimmHot)
      ∧ 3 ≤ capped.rd F.pwrCtrl_throttle ∧ 3 ≤ capped.rd F.pwrCtrl_stkHot ∧ 3 ≤ capped.rd F.pwrCtrl_dimmHot
      ∧ capped.pwr.floor = 0 ∧ 9 < capped.pwr.capDuty ∧ capped.pwr.capDuty ≤ 64 ∧ capped.pwr.heatDuty = 64 := by decide +kernel

theorem witness_SuppliesAndClocks_5_a :
    capped.wf = true ∧ capped.quiet ∧ capped.mem.ctl.sorted = true ∧ capped.running = true
      ∧ 969 < 2 ^ F.pwrStatus_power.width ∧ (∀ x ∈ [97, 1, 2, 3], x + 3 ≤ capped.rd F.pwrCtrl_throttle)
      ∧ (∀ x ∈ [97, 0, 0, 0], x + 3 ≤ capped.rd F.pwrCtrl_stkHot) ∧ (∀ x ∈ [82], x + 3 ≤ capped.rd F.pwrCtrl_dimmHot)
      ∧ 3 ≤ capped.rd F.pwrCtrl_throttle ∧ 3 ≤ capped.rd F.pwrCtrl_stkHot ∧ 3 ≤ capped.rd F.pwrCtrl_dimmHot
      ∧ capped.pwr.floor = 0 ∧ 9 < capped.pwr.capDuty ∧ capped.pwr.capDuty ≤ 64 ∧ capped.pwr.heatDuty = 64 := by decide +kernel

theorem witness_SuppliesAndClocks_5_b :
    capped.wf = true ∧ capped.quiet ∧ capped.mem.ctl.sorted = true ∧ capped.running = true
      ∧ 970 < 2 ^ F.pwrStatus_power.width ∧ (∀ x ∈ [97, 1, 2, 3], x + 3 ≤ capped.rd F.pwrCtrl_throttle)
      ∧ (∀ x ∈ [97, 0, 0, 0], x + 3 ≤ capped.rd F.pwrCtrl_stkHot) ∧ (∀ x ∈ [82], x + 3 ≤ capped.rd F.pwrCtrl_dimmHot)
      ∧ 3 ≤ capped.rd F.pwrCtrl_throttle ∧ 3 ≤ capped.rd F.pwrCtrl_stkHot ∧ 3 ≤ capped.rd F.pwrCtrl_dimmHot
      ∧ capped.pwr.floor = 0 ∧ 9 < capped.pwr.capDuty ∧ capped.pwr.capDuty ≤ 64 ∧ capped.pwr.heatDuty = 64 := by decide +kernel

theorem witness_SuppliesAndClocks_6 :
    served.wf = true ∧ served.quiet ∧ served.rd F.pwrStatus_state ≠ 0 ∧ served.rd F.pwrStatus_state ≠ 5 ∧ 110 ≤ 110 := by decide +kernel

theorem witness_SuppliesAndClocks_7 :
    served.wf = true ∧ served.quiet ∧ 2 ≤ 3 ∧ served.pwr.lanesLost = [] := by decide +kernel

theorem witness_SuppliesAndClocks_8 :
    (regsAt served [(F.clkStatus_refSys, 3, 1)]).wf = true ∧ (regsAt served [(F.clkStatus_refSys, 3, 1)]).quiet
      ∧ (regsAt served [(F.clkStatus_refSys, 3, 1)]).rd F.pwrStatus_state = 4
      ∧ (regsAt served [(F.clkStatus_refSys, 3, 1)]).flag F.clkStatus_refSys 3 = true ∧ 2 ≤ 3
      ∧ (regsAt served [(F.clkStatus_refSys, 3, 1)]).pwr.lanesLost = [] := by decide +kernel

theorem witness_SuppliesAndClocks_9_0 :
    (feeds 1 1).wf = true ∧ (feeds 1 1).quiet ∧ (feeds 1 1).flag (State.feedFld true) = true
      ∧ (feeds 1 1).flag (State.feedFld !true) = true := by decide +kernel

theorem witness_SuppliesAndClocks_9_1 :
    (feeds 1 0).wf = true ∧ (feeds 1 0).quiet ∧ (feeds 1 0).flag (State.feedFld false) = true
      ∧ (feeds 1 0).flag (State.feedFld !false) = false := by decide +kernel

theorem witness_SuppliesAndClocks_9_2 :
    (feeds 1 0).wf = true ∧ (feeds 1 0).quiet ∧ (feeds 1 0).flag (State.feedFld true) = false
      ∧ (feeds 1 0).flag (State.feedFld !true) = true := by decide +kernel

theorem witness_SuppliesAndClocks_10_0 :
    (idleCore 0).wf = true ∧ (idleCore 0).quiet ∧ (idleCore 0).rd F.pwrCtrl_coreIdle ≠ 0
      ∧ (idleCore 0).rd F.rasCore_state 142 = 0 ∧ (idleCore 0).flag F.rasCore_referee 142 = false
      ∧ (idleCore 0).ctxOf 142 = [] ∧ 142 ∉ (idleCore 0).clu.gated := by decide +kernel

theorem witness_SuppliesAndClocks_10_1 :
    (idleCore 0).wf = true ∧ (idleCore 0).quiet := by decide +kernel

theorem witness_PowerUpAndResets_0 :
    noFeeds.wf = true ∧ noFeeds.quiet ∧ (false || true) = true ∧ noFeeds.flag F.rasStatus_feedAOk = false
      ∧ noFeeds.flag F.rasStatus_feedBOk = false := by decide +kernel

theorem witness_PowerUpAndResets_1 :
    (atStep 2).wf = true ∧ (atStep 2).quiet ∧ (atStep 2).pwr.step = 2 ∧ (facts (aSlot 1 5) (aSlot 2 3)).seedOk = true
      ∧ (facts (aSlot 1 5) (aSlot 2 3)).counterOk = true ∧ (facts (aSlot 1 5) (aSlot 2 3)).hist.isSome = true
      ∧ State.pickSlot 3 (slotImage (facts (aSlot 1 5) (aSlot 2 3)).slotA) (slotImage (facts (aSlot 1 5) (aSlot 2 3)).slotB) = some (true, imageIn (aSlot 2 3))
      ∧ (imageIn (aSlot 2 3)).autoAdvance = false := ⟨by decide +kernel, by decide +kernel, rfl, rfl, rfl, rfl, pick_later, by decide +kernel⟩

theorem witness_PowerUpAndResets_1_a :
    (atStep 2).wf = true ∧ (atStep 2).quiet ∧ (atStep 2).pwr.step = 2 ∧ (facts (aSlot 1 5) (aSlot 2 2)).seedOk = true
      ∧ (facts (aSlot 1 5) (aSlot 2 2)).counterOk = true ∧ (facts (aSlot 1 5) (aSlot 2 2)).hist.isSome = true
      ∧ State.pickSlot 3 (slotImage (facts (aSlot 1 5) (aSlot 2 2)).slotA) (slotImage (facts (aSlot 1 5) (aSlot 2 2)).slotB) = some (false, imageIn (aSlot 1 5))
      ∧ (imageIn (aSlot 1 5)).autoAdvance = false := ⟨by decide +kernel, by decide +kernel, rfl, rfl, rfl, rfl, pick_valid, by decide +kernel⟩

theorem witness_PowerUpAndResets_2 :
    (atStep 2).wf = true ∧ (atStep 2).quiet
      ∧ State.pickSlot 3 (some (anImage 1 5)) (some (anImage 2 3)) = some (true, anImage 2 3) := by decide +kernel

theorem witness_PowerUpAndResets_3 :
    (atStep 3).wf = true ∧ (atStep 3).quiet ∧ (atStep 3).pwr.step = 3 := by decide +kernel

theorem witness_PowerUpAndResets_4 :
    (atStep 4).wf = true ∧ (atStep 4).quiet ∧ (atStep 4).pwr.step = 4 := by decide +kernel

theorem witness_PowerUpAndResets_5 :
    imaged.wf = true ∧ imaged.quiet ∧ imaged.pwr.step = 5 ∧ imaged.image = some (anImage 1 5) ∧ (anImage 1 5).kinds = []
      ∧ imaged.ras.hist = [] ∧ (∀ n < 144, imaged.rd F.rasCore_state n ≠ 2)
      ∧ (∀ n < 64, imaged.flag F.lnkCtrl_enable n = false) := by decide +kernel

theorem witness_PowerUpAndResets_6 :
    (atStep 6).wf = true ∧ (atStep 6).quiet ∧ (atStep 6).pwr.step = 6 ∧ (∀ n < 144, (atStep 6).rd F.rasCore_state n ≠ 5) := by decide +kernel

theorem witness_PowerUpAndResets_7 :
    (atStep 1).wf = true ∧ (atStep 1).quiet ∧ (atStep 1).pwr.step ≠ 0
      ∧ (atStep 1).flag F.pciStatus_linkUp = false ∧ (atStep 1).flag F.pciStatus_linkUp 1 = false := by decide +kernel

theorem witness_PowerUpAndResets_7_a :
    (atStep 6).wf = true ∧ (atStep 6).quiet ∧ (atStep 6).pwr.step ≠ 0
      ∧ (atStep 6).flag F.pciStatus_linkUp = false ∧ (atStep 6).flag F.pciStatus_linkUp 1 = false := by decide +kernel

theorem witness_PowerUpAndResets_8 :
    served.wf = true ∧ served.quiet ∧ served.pwr.pin ≠ some true := by decide +kernel

theorem witness_PowerUpAndResets_9 :
    served.wf = true ∧ served.quiet ∧ served.rd F.pwrStatus_state = 4 ∧ served.pwr.down = false ∧ served.pwr.pin = none
      ∧ served.flag F.pciStatus_linkUp = false ∧ served.flag F.pciStatus_linkUp 1 = false := by decide +kernel

theorem witness_PowerUpAndResets_10 :
    (pinned true).wf = true ∧ (pinned true).quiet ∧ (pinned true).pwr.pin = some true := by decide +kernel

theorem witness_PowerUpAndResets_10_a :
    (pinned false).wf = true ∧ (pinned false).quiet ∧ (pinned false).pwr.pin = some false := by decide +kernel

theorem witness_PowerUpAndResets_11 :
    served.wf = true ∧ served.quiet ∧ served.rd F.pwrStatus_state = 4 ∧ served.pwr.down = false ∧ served.pwr.pin = none
      ∧ served.flag F.pciStatus_linkUp = false ∧ served.flag F.pciStatus_linkUp 1 = false
      ∧ served.accepts (wordWrite Path.root Reg.pwrCmd 0 0 (fieldIn 0 0 3 1)) := by decide +kernel

theorem witness_PowerUpAndResets_12 :
    served.wf = true ∧ served.quiet ∧ served.rd F.pwrStatus_state = 4 ∧ served.pwr.down = false ∧ served.pwr.pin = none
      ∧ served.accepts (wordWrite Path.root Reg.pwrCmd 0 0 (fieldIn 0 0 3 2)) := by decide +kernel

theorem witness_PowerUpAndResets_13_0 :
    emptied.wf = true ∧ emptied.quiet ∧ emptied.rd F.pwrStatus_state = 4 ∧ emptied.pwr.down = false ∧ emptied.pwr.pin = none
      ∧ emptied.flag F.pciStatus_linkUp = false ∧ emptied.flag F.pciStatus_linkUp 1 = false
      ∧ (∀ n < 64, emptied.linkState n = 0) ∧ emptied.accepts (wordWrite Path.root Reg.pwrCmd 0 0 (fieldIn 0 0 3 3))
      ∧ (∀ e ∈ emptied.home.ext, e.2.state = ExtState.off) ∧ (∀ o < 128, emptied.rd F.dirSlot_state o = 0) := by decide +kernel

theorem witness_PowerUpAndResets_13_1 :
    occupied.wf = true ∧ occupied.quiet
      ∧ occupied.rd F.pwrStatus_state = 4 ∧ occupied.pwr.down = false ∧ occupied.pwr.pin = none
      ∧ occupied.flag F.pciStatus_linkUp = false ∧ occupied.flag F.pciStatus_linkUp 1 = false
      ∧ (∀ n < 64, occupied.linkState n = 0) ∧ occupied.accepts (wordWrite Path.root Reg.pwrCmd 0 0 (fieldIn 0 0 3 3))
      ∧ (∃ o < 128, occupied.rd F.dirSlot_state o ≠ 0) := by decide +kernel

theorem witness_PowerUpAndResets_13_2 :
    served.wf = true ∧ served.quiet ∧ served.rd F.pwrStatus_state = 4 ∧ served.pwr.down = false ∧ served.pwr.pin = none
      ∧ served.flag F.pciStatus_linkUp = false ∧ served.flag F.pciStatus_linkUp 1 = false ∧ (∀ n < 64, served.linkState n = 0)
      ∧ served.accepts (wordWrite Path.root Reg.pwrCmd 0 0 (fieldIn 0 0 3 4)) := by decide +kernel

theorem witness_PowerUpAndResets_14 :
    ((powered [] fun (p : Pwr) => { step := p.step, down := true, pin := p.pin, thermtrip := p.thermtrip, stretch := p.stretch, restoring := p.restoring, capDuty := p.capDuty, heatDuty := p.heatDuty, floor := p.floor, floorSaid := p.floorSaid, hot := p.hot, lanesLost := p.lanesLost, vcore := p.vcore : Pwr }).wf = true)
      ∧ ((powered [] fun (p : Pwr) => { step := p.step, down := true, pin := p.pin, thermtrip := p.thermtrip, stretch := p.stretch, restoring := p.restoring, capDuty := p.capDuty, heatDuty := p.heatDuty, floor := p.floor, floorSaid := p.floorSaid, hot := p.hot, lanesLost := p.lanesLost, vcore := p.vcore : Pwr }).quiet)
      ∧ ((powered [] fun (p : Pwr) => { step := p.step, down := true, pin := p.pin, thermtrip := p.thermtrip, stretch := p.stretch, restoring := p.restoring, capDuty := p.capDuty, heatDuty := p.heatDuty, floor := p.floor, floorSaid := p.floorSaid, hot := p.hot, lanesLost := p.lanesLost, vcore := p.vcore : Pwr }).pwr.down = true)
      ∧ ((powered [] fun (p : Pwr) => { step := p.step, down := true, pin := p.pin, thermtrip := p.thermtrip, stretch := p.stretch, restoring := p.restoring, capDuty := p.capDuty, heatDuty := p.heatDuty, floor := p.floor, floorSaid := p.floorSaid, hot := p.hot, lanesLost := p.lanesLost, vcore := p.vcore : Pwr }).flag F.pciStatus_linkUp = false ∧ (powered [] fun (p : Pwr) => { step := p.step, down := true, pin := p.pin, thermtrip := p.thermtrip, stretch := p.stretch, restoring := p.restoring, capDuty := p.capDuty, heatDuty := p.heatDuty, floor := p.floor, floorSaid := p.floorSaid, hot := p.hot, lanesLost := p.lanesLost, vcore := p.vcore : Pwr }).flag F.pciStatus_linkUp 1 = false) := by decide +kernel

/-! ### Ill-formed and well-formed commands, one of each for every check of `Instr.wf` -/

def longBody : List Byte := List.replicate 4097 0

theorem test_wf_refuses_1 : ([.extentCreate .root 0, .setRights .root 0, .withdraw .root 0, .bind .root 0 0, .release .root 0 0,
    .declareDead .root 0 0, .mscFlush .root 0 0, .promote .root 0 0, .demote .root 0 0,
    .rdShared { opcode := 0x10, chan := 1 } 0 .clean, .rdOwn { opcode := 0x11, chan := 1 } 0 .clean,
    .upgrade { opcode := 0x12, chan := 1 } 0 .clean, .rdUnc { opcode := 0x13, chan := 1 } 0 .clean,
    .wrUnc { opcode := 0x14, chan := 1 } 0 .clean] : List Instr).all (fun i => !i.wf) = true := by decide +kernel

theorem test_wf_refuses_2 : ([.atomic { opcode := 0x15, chan := 1 } 0 .clean, .wbDirty { opcode := 0x16, chan := 1 } 0,
    .wbClean { opcode := 0x17, chan := 1 } 0, .invAck { opcode := 0x36, chan := 2 }, .fwdAck { opcode := 0x37, chan := 2 },
    .fwdData { opcode := 0x38, chan := 2 }, .complete { opcode := 0x39, chan := 2 }, .dataUnc { opcode := 0x34, chan := 2 },
    .done { opcode := 0x35, chan := 2 }, .status { opcode := 0x3B, chan := 2 }, .txOpen { opcode := 0x40, chan := 1 },
    .txRd { opcode := 0x41, chan := 1 } 0 .clean, .txWr { opcode := 0x42, chan := 1 } 0,
    .txAtomic { opcode := 0x43, chan := 1 } 0 .clean] : List Instr).all (fun i => !i.wf) = true := by decide +kernel

theorem test_wf_refuses_3 : ([.txCommit { opcode := 0x44, chan := 1 }, .txAbort { opcode := 0x45, chan := 1 }, .txOpened { opcode := 0x47, chan := 2 },
    .txNotice { opcode := 0x46, chan := 2 }, .txnKill .root 0, .nop 0 0 ⟨0x101, false⟩, .sli 0 0 ⟨0x102, false⟩ .pass,
    .sadd 0 0 ⟨0x103, false⟩ .pass, .ssub 0 0 ⟨0x104, false⟩ .pass, .smul 0 0 ⟨0x105, false⟩ .pass,
    .sand 0 0 ⟨0x106, false⟩ .pass, .sor 0 0 ⟨0x107, false⟩ .pass, .sxor 0 0 ⟨0x108, false⟩ .pass,
    .sshl 0 0 ⟨0x109, false⟩ .pass] : List Instr).all (fun i => !i.wf) = true := by decide +kernel

theorem test_wf_refuses_4 : ([.sshr 0 0 ⟨0x10A, false⟩ .pass, .ssra 0 0 ⟨0x10B, false⟩ .pass, .beq 0 0 ⟨0x111, false⟩, .bne 0 0 ⟨0x112, false⟩,
    .blt 0 0 ⟨0x113, false⟩, .bge 0 0 ⟨0x114, false⟩, .sld 0 0 ⟨0x119, false⟩, .sst 0 0 ⟨0x11A, false⟩,
    .sext 0 0 ⟨0x11B, false⟩ none, .wait 0 0 ⟨0x11C, false⟩, .atom 0 0 ⟨0x11D, false⟩, .endTask 0 0 ⟨0x11E, false⟩,
    .txopen 0 0 ⟨0x121, false⟩, .txcommit 0 0 ⟨0x122, false⟩] : List Instr).all (fun i => !i.wf) = true := by decide +kernel

theorem test_wf_refuses_5 : ([.txabort 0 0 ⟨0x123, false⟩, .txchk 0 0 ⟨0x124, false⟩, .vld 0 0 ⟨0x129, false⟩, .vst 0 0 ⟨0x12A, false⟩ none,
    .vlds 0 0 ⟨0x12B, false⟩ {}, .vsts 0 0 ⟨0x12C, false⟩ none, .vclr 0 0 ⟨0x131, false⟩ .pass,
    .vfma 0 0 ⟨0x132, false⟩ .pass, .wfma 0 0 ⟨0x133, false⟩ .pass, .wmax 0 0 ⟨0x134, false⟩ .pass,
    .wmin 0 0 ⟨0x135, false⟩ .pass, .wexp2 0 0 ⟨0x136, false⟩ .pass, .wrcp 0 0 ⟨0x137, false⟩ .pass,
    .wrsq 0 0 ⟨0x138, false⟩ .pass] : List Instr).all (fun i => !i.wf) = true := by decide +kernel

theorem test_wf_refuses_6 : ([.wsqrt 0 0 ⟨0x139, false⟩ .pass, .wdiv 0 0 ⟨0x13A, false⟩ .pass, .cvt 0 0 ⟨0x13B, false⟩ .pass,
    .qnt 0 0 ⟨0x13C, false⟩ .pass, .dot 0 0 ⟨0x13D, false⟩ .pass, .dotr 0 0 ⟨0x13E, false⟩ .pass,
    .wmac 0 0 ⟨0x13F, false⟩ .pass, .red 0 0 ⟨0x140, false⟩ .pass, .wbc 0 0 ⟨0x141, false⟩ .pass, .canary 0 3 3 0 0 none,
    .load .root 0, .unload .root 0, .arm .root 0, .disarm .root 0] : List Instr).all (fun i => !i.wf) = true := by decide +kernel

theorem test_wf_refuses_7 : ([.abort .root 0, .colArm { opcode := 0x50, chan := 0 } 0 0, .colArmAck { opcode := 0x51, chan := 0 } 0 0,
    .colDisarm { opcode := 0x52, chan := 0 } 0, .colDisarmAck { opcode := 0x53, chan := 0 },
    .colPut { opcode := 0x54, chan := 4 }, .colAbort { opcode := 0x57, chan := 4 }, .colKill .root 0, .purge .root 0 0,
    .xfrRing { opcode := 0x60, chan := 1 }, .queueAbort .root 0, .packetArrival 0 { chan := 5 } .none,
    .fenceProbe 0 { opcode := 1, chan := 2 } .none, .internalProbe 0 { opcode := 1, chan := 3 }] : List Instr).all (fun i => !i.wf) = true := by decide +kernel

theorem test_wf_refuses_8 : ([.mgtRd 0 { opcode := 0x70, chan := 0 }, .mgtWr 0 { opcode := 0x71, chan := 0 },
    .dataFlit 0 { body := [.more 15, .empty] }, .idleFlit 0 { body := [.empty] }, .nakFlit 0 { body := [.empty] } .clean,
    .initFlit 0 { size := List.replicate 20 0 }, .linkEnable .root 0 0, .linkDisable .root 0 1, .linkRetrainCmd .root 0 0,
    .laneMapping 0 [] 0, .fecFrame 0 0 [.plus3] false, .eyeMarginGo .root 0 0 0, .curtainRequest .root 0,
    .advanceSvn .mctp longBody] : List Instr).all (fun i => !i.wf) = true := by decide +kernel

theorem test_wf_refuses_9 : ([.debugChallenge .mctp longBody, .debugUnlock .mctp longBody, .bindFlash .mctp longBody, .flashRead .mctp longBody,
    .flashWrite .mctp longBody, .reset .mctp longBody, .spdmRequest .mctp longBody, .pqSign .mctp longBody,
    .partitionCreate .root 0, .revoke .root 0, .allocate .root 0, .rotate .root 0, .destroy .root 0, .secFnWrite .root 0 0 0] : List Instr).all (fun i => !i.wf) = true := by decide +kernel

theorem test_wf_refuses_10 : ([.startupTestDone 0 [], .test .root 0, .fence .root 0, .unfence .root 0, .crcCommit .root 0 0,
    .errorRecordClear .root .viol 0, .registerWrite .root false 0 9 0, .maskedWrite .root 0 false 9 0, .evqEnable .root 0 0,
    .powerCapTick 0 [1] [] [], .warm .root 0, .cold .root 0, .off .root 0, .forceOff .root 0] : List Instr).all (fun i => !i.wf) = true := by decide +kernel

theorem test_wf_refuses_11 : ([.reservedTypeFlit 0 { type := 4 }] : List Instr).all (fun i => !i.wf) = true := by decide +kernel

theorem test_wf_accepts_1 : ([.extentCreate .root (1 * 2 ^ 12), .setRights .root (2 * 2 ^ 12), .withdraw .root (3 * 2 ^ 12),
    .bind .root 0 (1 * 2 ^ 28), .release .root 0 (2 * 2 ^ 28), .declareDead .root 0 (3 * 2 ^ 28),
    .mscFlush .root 0 (1 * 2 ^ 16), .promote .root 0 (1 * 2 ^ 38), .demote .root 0 (2 * 2 ^ 38),
    .rdShared { opcode := 0x10, chan := 0 } 0 .clean, .rdOwn { opcode := 0x11, chan := 0 } 0 .clean,
    .upgrade { opcode := 0x12, chan := 0 } 0 .clean, .rdUnc { opcode := 0x13, chan := 0 } 0 .clean,
    .wrUnc { opcode := 0x14, chan := 0 } 0 .clean] : List Instr).all Instr.wf = true := by decide +kernel

theorem test_wf_accepts_2 : ([.atomic { opcode := 0x15, chan := 0 } 0 .clean, .wbDirty { opcode := 0x16, chan := 0 } 0,
    .wbClean { opcode := 0x17, chan := 0 } 0, .invAck { opcode := 0x36, chan := 1 }, .fwdAck { opcode := 0x37, chan := 1 },
    .fwdData { opcode := 0x38, chan := 1 }, .complete { opcode := 0x39, chan := 1 }, .dataUnc { opcode := 0x34, chan := 1 },
    .done { opcode := 0x35, chan := 1 }, .status { opcode := 0x3B, chan := 1 }, .txOpen { opcode := 0x40, chan := 0 },
    .txRd { opcode := 0x41, chan := 0 } 0 .clean, .txWr { opcode := 0x42, chan := 0 } 0,
    .txAtomic { opcode := 0x43, chan := 0 } 0 .clean] : List Instr).all Instr.wf = true := by decide +kernel

theorem test_wf_accepts_3 : ([.txCommit { opcode := 0x44, chan := 0 }, .txAbort { opcode := 0x45, chan := 0 }, .txOpened { opcode := 0x47, chan := 1 },
    .txNotice { opcode := 0x46, chan := 1 }, .txnKill .root (1 * 2 ^ 31), .nop 0 0 ⟨0xFF00, false⟩,
    .sli 0 0 ⟨0xFF01, false⟩ .pass, .sadd 0 0 ⟨0xFF02, false⟩ .pass, .ssub 0 0 ⟨0xFF03, false⟩ .pass,
    .smul 0 0 ⟨0xFF04, false⟩ .pass, .sand 0 0 ⟨0xFF05, false⟩ .pass, .sor 0 0 ⟨0xFF06, false⟩ .pass,
    .sxor 0 0 ⟨0xFF07, false⟩ .pass, .sshl 0 0 ⟨0xFF08, false⟩ .pass] : List Instr).all Instr.wf = true := by decide +kernel

theorem test_wf_accepts_4 : ([.sshr 0 0 ⟨0xFF09, false⟩ .pass, .ssra 0 0 ⟨0xFF0A, false⟩ .pass, .beq 0 0 ⟨0xFF10, false⟩, .bne 0 0 ⟨0xFF11, false⟩,
    .blt 0 0 ⟨0xFF12, false⟩, .bge 0 0 ⟨0xFF13, false⟩, .sld 0 0 ⟨0xFF18, false⟩, .sst 0 0 ⟨0xFF19, false⟩,
    .sext 0 0 ⟨0xFF1A, false⟩ none, .wait 0 0 ⟨0xFF1B, false⟩, .atom 0 0 ⟨0xFF1C, false⟩, .endTask 0 0 ⟨0xFF1D, false⟩,
    .txopen 0 0 ⟨0xFF20, false⟩, .txcommit 0 0 ⟨0xFF21, false⟩] : List Instr).all Instr.wf = true := by decide +kernel

theorem test_wf_accepts_5 : ([.txabort 0 0 ⟨0xFF22, false⟩, .txchk 0 0 ⟨0xFF23, false⟩, .vld 0 0 ⟨0xFF28, false⟩, .vst 0 0 ⟨0xFF29, false⟩ none,
    .vlds 0 0 ⟨0xFF2A, false⟩ {}, .vsts 0 0 ⟨0xFF2B, false⟩ none, .vclr 0 0 ⟨0xFF30, false⟩ .pass,
    .vfma 0 0 ⟨0xFF31, false⟩ .pass, .wfma 0 0 ⟨0xFF32, false⟩ .pass, .wmax 0 0 ⟨0xFF33, false⟩ .pass,
    .wmin 0 0 ⟨0xFF34, false⟩ .pass, .wexp2 0 0 ⟨0xFF35, false⟩ .pass, .wrcp 0 0 ⟨0xFF36, false⟩ .pass,
    .wrsq 0 0 ⟨0xFF37, false⟩ .pass] : List Instr).all Instr.wf = true := by decide +kernel

theorem test_wf_accepts_6 : ([.wsqrt 0 0 ⟨0xFF38, false⟩ .pass, .wdiv 0 0 ⟨0xFF39, false⟩ .pass, .cvt 0 0 ⟨0xFF3A, false⟩ .pass,
    .qnt 0 0 ⟨0xFF3B, false⟩ .pass, .dot 0 0 ⟨0xFF3C, false⟩ .pass, .dotr 0 0 ⟨0xFF3D, false⟩ .pass,
    .wmac 0 0 ⟨0xFF3E, false⟩ .pass, .red 0 0 ⟨0xFF3F, false⟩ .pass, .wbc 0 0 ⟨0xFF40, false⟩ .pass, .canary 0 0 3 0 0 none,
    .load .root (1 * 2 ^ 28), .unload .root (2 * 2 ^ 28), .arm .root (1 * 2 ^ 8), .disarm .root (2 * 2 ^ 8)] : List Instr).all Instr.wf = true := by decide +kernel

theorem test_wf_accepts_7 : ([.abort .root (3 * 2 ^ 8), .colArm { opcode := 0x50, chan := 4 } 0 0, .colArmAck { opcode := 0x51, chan := 4 } 0 0,
    .colDisarm { opcode := 0x52, chan := 4 } 0, .colDisarmAck { opcode := 0x53, chan := 4 },
    .colPut { opcode := 0x54, chan := 3 }, .colAbort { opcode := 0x57, chan := 3 }, .colKill .root (1 * 2 ^ 31),
    .purge .root 0 (1 * 2 ^ 31), .xfrRing { opcode := 0x60, chan := 0 }, .queueAbort .root (1 * 2 ^ 8),
    .packetArrival 0 { chan := 4, len := 5 } .none, .fenceProbe 0 { opcode := 1, chan := 3 } .none,
    .internalProbe 0 { opcode := 1 }] : List Instr).all Instr.wf = true := by decide +kernel

theorem test_wf_accepts_8 : ([.mgtRd 0 { opcode := 0x70, chan := 4 }, .mgtWr 0 { opcode := 0x71, chan := 4 },
    .dataFlit 0 { body := [.more 14, .empty] }, .idleFlit 0 {}, .nakFlit 0 {} .clean,
    .initFlit 0 { size := List.replicate 20 0, freed := List.replicate 20 0 }, .linkEnable .root 0 (1 * 2 ^ 0),
    .linkDisable .root 0 0, .linkRetrainCmd .root 0 (1 * 2 ^ 1), .laneMapping 0 (List.replicate 8 none) 0,
    .fecFrame 0 0 (List.replicate 1400 .plus1) false, .eyeMarginGo .root 0 0 (1 * 2 ^ 19), .curtainRequest .root (1 * 2 ^ 0),
    .advanceSvn .mctp [1]] : List Instr).all Instr.wf = true := by decide +kernel

theorem test_wf_accepts_9 : ([.debugChallenge .mctp [1], .debugUnlock .mctp [1], .bindFlash .mctp [1], .flashRead .mctp [1], .flashWrite .mctp [1],
    .reset .mctp [1], .spdmRequest .mctp [1], .pqSign .mctp [1], .partitionCreate .root (1 * 2 ^ 4),
    .revoke .root (2 * 2 ^ 4), .allocate .root (1 * 2 ^ 12), .rotate .root (2 * 2 ^ 12), .destroy .root (3 * 2 ^ 12),
    .secFnWrite .root 0 15 0] : List Instr).all Instr.wf = true := by decide +kernel

theorem test_wf_accepts_10 : ([.startupTestDone 0 (List.replicate 9 0), .test .root (1 * 2 ^ 8), .fence .root (2 * 2 ^ 8), .unfence .root (3 * 2 ^ 8),
    .crcCommit .root 0 (1 * 2 ^ 2), .errorRecordClear .root .viol (1 * 2 ^ 31), .registerWrite .root false 0 8 0,
    .maskedWrite .root 0 false 8 0, .evqEnable .root 0 (1 * 2 ^ 4),
    .powerCapTick 0 [1, 2, 3, 4] (List.range 20) [1, 2, 3, 4], .warm .root (1 * 2 ^ 0), .cold .root (2 * 2 ^ 0),
    .off .root (3 * 2 ^ 0), .forceOff .root (4 * 2 ^ 0)] : List Instr).all Instr.wf = true := by decide +kernel

theorem test_wf_accepts_11 : ([.reservedTypeFlit 0 { type := 5 }] : List Instr).all Instr.wf = true := by decide +kernel

/-! ### Witnesses of the statements about the whole machine -/

def oneWaiting : State := { served with pending := [.leashRefill] }

theorem witness_StepKeepsForm : oneWaiting.wf = true ∧ oneWaiting.quiet ∧ step oneWaiting = exec .leashRefill { oneWaiting with pending := [] } :=
  ⟨by decide +kernel, by decide +kernel, rfl⟩

theorem witness_StoredBytes : Memory.wf [(3, 1)] = true ∧ Memory.wf [] = true := by decide

/-! ### Worked examples of the spec -/

/-- The state that a command leaves. -/
def after : Host.Outcome State Fault Refusal → State
  | .next t => t
  | _ => State.reset

/-- The line at offset 0x00A0_0000_1A80 lives in stack 13 of die 2, at 0x480 (chapter 02). -/
theorem test_one_die_line :
    State.place node false true 0xA000001A80 = (2, 6784) ∧ unitAddr false 2 6784 = (13, 0x480) := by decide +kernel

/-- Offset 0x0200_0000_5000 falls in channel 4 of die 1, at 0 (chapter 02): unit 20 + 4. -/
theorem test_tier2_line : placeAt (2 ^ 20) false 0x5000 = (1, 0x1000) ∧ unitAddr true 1 0x1000 = (24, 0) := by decide +kernel

/-- A reserve of 11,074 granules has 1,406,336 frames and 351,584 buckets (chapter 03). -/
theorem test_reserve : State.reserveFrames 11074 = 1406336 ∧ State.reserveBuckets 11074 = 351584 := by decide +kernel

/-- The largest finite value of the FP8 format of 3 and 4 bits is 31 (chapter 06). -/
theorem test_user_format :
    let f : Fmt := { cls := 0, valid := true, width := 8, exp := 3, man := 4, bias := 3, specials := 2, sat := true }
    f.decode f.maxField = .fin false 31 0 := by decide +kernel

/-- Quantize to MXFP8 E4M3: scale 0x78, elements 0x7C, 0xC3 and 0x03, UNDERFLOW (chapter 06). -/
theorem test_quantize :
    let f (k : Nat) : Fmt := Fmt.ofReg (BitVec.ofNat 128 (builtinFmts.getD k 0))
    let xs := [0x40466666, 0xBCAE7D56, 0x3827C5AC].map Fmt.b32.decode ++ List.replicate 29 (Num.fin false 0 0)
    let r := quantBlock (f 10) (f 3) (.table true) 0 [] (inLanes xs)
    r.1 = 0x78 ∧ r.2.1.take 3 = [0x7C, 0xC3, 0x03] ∧ r.2.2.1 = fUnderflow := by decide +kernel

/-- XFR_STAT[21] lies at byte 0x08F0_02A8 of BAR0, its high word 4 bytes on (chapter 18). -/
theorem test_register_offset : State.nodeOffset .xfrStat 21 0 = 0x08F002A8 ∧ State.nodeOffset .xfrStat 21 1 = 0x08F002AC := by decide +kernel

/-- A masked write of 0x0400_0000 at 0x0090_0000 clears HINT_EN and nothing else of DIR_CTRL (chapter 18). -/
theorem test_masked_write :
    let s := regsAt hosted [(F.dirCtrl_hintEn, 0, 1)]
    (after (exec (.maskedWrite (.host 1 0) 0x00900000 false 4 0x04000000) s)).reg .dirCtrl 0 = s.reg .dirCtrl 0 - 2 ^ 10 := by decide +kernel

/-- Of trunk ports 4 and 36, the packet leaves on port 36, which has more credit, with HOP 1 (chapter 11). -/
def twoRoutes : State :=
  { regsAt State.reset [(F.topNodeId_node, 0, 0x014), (F.rtePort_type, 4, 2), (F.rtePort_up, 4, 1), (F.rtePort_type, 36, 2), (F.rtePort_up, 36, 1),
      (F.rteRoute_port_0, 4096 + 0x012, 4), (F.rteRoute_valid_0, 4096 + 0x012, 1), (F.rteRoute_port_1, 4096 + 0x012, 36), (F.rteRoute_valid_1, 4096 + 0x012, 1)] with
    link := [(4, { farSizes := List.replicate 20 64 }), (36, { farSizes := List.replicate 20 65 })]
    fab := { held := [⟨{ opcode := 0x13, bank := true, src := 0x03105, principal := 0x03105, tag := 0x0A7, dlocal := 0xC0, addr := 0x0120020000005000 }, 1, some 20⟩] } }

theorem test_next_hop :
    ((after (exec (.nextHopChoice 0 .none) twoRoutes)).getLink 36).txq.map (fun q => (q.hop, q.src, q.addr)) = [(1, 0x03105, 0x0120020000005000)] := by
  decide +kernel

/-- The gradient plan: 256 chunks of 1,024 lines a slot, groups of 16 and 8, three partials, 480 granules (chapter 09). -/
def gradients : PlanRec :=
  { kind := 1, op := 3, inFmt := 2, outFmt := 2, mode := 0, push := false, pool := true, chunk := 65536, conc := 32, partition := 0, principal := 0, count := 16777216,
    bufExt := 0, runTimeout := 10000, result := 0, entries := ((List.range 24).map fun i => ⟨BitVec.ofNat 20 i, true, false, 0⟩) ++ [⟨24, false, true, 0⟩],
    fmts := builtinFmts.map (BitVec.ofNat 128) }

theorem test_plan_layout :
    gradients.chunks = 256 ∧ gradients.chunkLines 0 = 1024 ∧ gradients.groups 1 = 2 ∧ gradients.groups 2 = 1 ∧ gradients.levels = 2
      ∧ gradients.partials = 3 ∧ gradients.layout = 480 * 2 ^ 21 := by decide +kernel

/-- Engine 338 loses its second REPEATED verdict: COUNT goes from 2.0 to 4.0, its threshold, and core 84 is fenced (chapter 16). -/
def losing : State :=
  let s := regsAt served [(F.rasCore_state, 89, 1), (F.corStatus_role, 89, 1)]
  { s with
    clu := { ctx := [(84 * 8, disputed)] }
    ras := { s.ras with hist := [{ cls := 1, inst := 338, kind := 1, count := 32 }]
                        disputes := [{ core := 84, ctx := 0, eng := 2, op := 0, aEqE := true, good := [0, 0], e := [7, 0], dests := [2, 3], poison := false }] } }

theorem test_threshold :
    let t := after (exec (.refereeVerdict 84 0 .right) losing)
    (t.ras.hist.map fun h => (h.inst, h.count)) = [(338, 64)] ∧ t.rd F.rasCore_state 84 = 2 := by decide +kernel

/-- No row of the table has bits. -/
theorem test_no_words : decodeTableWord 16 0 = none ∧ State.reset.withFetchWord 16 0 = State.reset := by decide +kernel


/-- A failed DRAM device is corrected, three wrong symbols of a line are, four are detected (Table 03-6). -/
theorem test_codes :
    (decodeLine true (0xFFFFFFFFFFFFFFFF#1280 <<< 320)).ecc = .corrected ∧ (decodeLine false 0x010001000001#1280).ecc = .corrected
      ∧ (decodeLine false 0x01010101#1280).ecc = .uncorrectable := by decide +kernel

/-- The Gray code of the pairs 00, 01, 11 and 10 (Table 13-1). -/
theorem test_gray :
    [levelOf false false, levelOf false true, levelOf true true, levelOf true false] = [.minus3, .minus1, .plus1, .plus3] := by decide
end Sys2Proof.Tests
end

section
/-! SUPPORT. The condition of each register of Table 17-9, and the rows of the table that store their register (O9). -/

namespace Sys2Proof.Machine.State

variable {s : State} {w : WordWrite} {base cand : BitVec 128}

/-! ### What storing leaves alone -/

/-- Storing writes the register, and at most marks it as changed. -/
theorem store_cases (s : State) (w : WordWrite) (cand : BitVec 128) :
    ∃ v, s.store w cand = s.setReg w.reg w.inst v ∨ s.store w cand = (s.setReg w.reg w.inst v).dirtyReg w.reg w.inst := by
  refine ⟨if w.reg = .secLinkKey then cand else cand &&& ~~~(w.reg.bitsOf fun f => f.acc == .wo), ?_⟩
  unfold store
  dsimp only
  exact (ite_eq_or_eq _ _ _).symm

@[simp] theorem dirtyReg_home (r : Reg) (i : Nat) : (s.dirtyReg r i).home = s.home := by
  unfold dirtyReg
  split <;> rfl

@[simp] theorem dirtyReg_clu (r : Reg) (i : Nat) : (s.dirtyReg r i).clu = s.clu := by
  unfold dirtyReg
  split <;> rfl

@[simp] theorem store_home (w : WordWrite) (cand : BitVec 128) : (s.store w cand).home = s.home := by
  obtain ⟨v, h | h⟩ := s.store_cases w cand <;> simp [h]

@[simp] theorem store_clu (w : WordWrite) (cand : BitVec 128) : (s.store w cand).clu = s.clu := by
  obtain ⟨v, h | h⟩ := s.store_cases w cand <;> simp [h]

@[simp] theorem refreshFree_home (d : Nat) : (s.refreshFree d).home = s.home := wr_home _ _ _

@[simp] theorem refreshSave_home (m : Nat) : (s.refreshSave m).home = s.home := wr_home _ _ _

/-! ### Conditions of registers, where they hold (Table 17-9) -/

/-- The node number is free to change (R28). -/
theorem nodeIdFree_iff :
    s.nodeIdFree = true ↔ (∀ e ∈ s.home.ext, e.2.state = .off) ∧ ∀ o < 128, s.rd F.dirSlot_state o = 0 := by
  simp [nodeIdFree]

theorem dmcWrite_of_tier2_off (h : ∀ x ∈ s.home.ext, x.2.attr.tier2 = true → x.2.state = .off) :
    s.dmcWrite w base cand = s.store w cand := by
  have free : (s.home.ext.any fun x => x.2.state != .off && x.2.attr.tier2) = false := by
    rw [List.any_eq_false]
    intro x hx hheld
    obtain ⟨hstate, htier⟩ := Bool.and_eq_true_iff.mp hheld
    exact bne_iff_ne.mp hstate (h x hx htier)
  simp only [dmcWrite, free, Bool.false_eq_true, if_false]

theorem reserveWrite_of_unused (hu : s.usedFrames w.inst = 0)
    (hr : bits cand 12 1 = 1 → s.reserveOk w.inst (bits cand 0 12) = true) :
    s.reserveWrite w cand = (s.store w cand).refreshFree w.inst := by
  have fits : (bits cand 12 1 == 1 && !s.reserveOk w.inst (bits cand 0 12)) = false := by
    rw [Bool.and_eq_false_imp]
    intro hvalid
    rw [hr (beq_iff_eq.mp hvalid), Bool.not_true]
  simp [reserveWrite, hu, fits]

theorem saveWrite_of_none_saved (hp : s.otherPartition w.inst = false) (hv : ∀ v ∈ s.clu.saved, v.partition ≠ w.inst) :
    s.saveWrite w cand = (s.store w cand).refreshSave w.inst := by
  have unsaved : (s.clu.saved.any fun v => v.partition == w.inst) = false := by simpa using hv
  simp only [saveWrite, hp, unsaved, Bool.or_false, Bool.false_eq_true, if_false]

theorem spaceWrite_of_free (hp : s.otherPartition (bits cand 52 4) = false)
    (hu : bits base 63 1 = 0 ∨ s.spaceInUse w.inst = false) :
    s.spaceWrite w base cand =
      if bits cand 63 1 == 1 && w.mask.getLsbD 63 then (s.store w cand).uPtu fun u => { u with gen := u.gen.del w.inst }
      else s.store w cand := by
  have free : (bits base 63 1 == 1 && s.spaceInUse w.inst) = false := by
    obtain hbase | huse := hu
    · simp [hbase]
    · simp [huse]
  simp only [spaceWrite, hp, free, Bool.false_eq_true, if_false]

/-- A queue that is off and idle takes the whole value while it stays off (R175, R218). -/
theorem queueWrite_of_off {busy : Bool} (ok : BitVec 128 → Bool) (hp : s.otherPartition (bits cand 4 4) = false)
    (hb : bits base 8 1 = 0) (hc : bits cand 8 1 = 0) (hi : busy = false) :
    s.queueWrite w base cand busy ok = s.store w cand := by
  simp [queueWrite, hp, hb, hc, hi]

theorem hostQueueWrite_of_off (hp : s.otherPartition (bits cand 4 4) = false) (hb : bits base 8 1 = 0) (hc : bits cand 8 1 = 0)
    (hi : s.hostBusy w.inst = false) : s.hostQueueWrite w base cand = s.store w cand := by
  unfold hostQueueWrite
  exact queueWrite_of_off _ hp hb hc hi

theorem copyQueueWrite_of_off (hp : s.otherPartition (bits cand 4 4) = false) (hb : bits base 8 1 = 0) (hc : bits cand 8 1 = 0)
    (hi : s.copyBusy w.inst = false) : s.copyQueueWrite w base cand = s.store w cand := by
  unfold copyQueueWrite
  exact queueWrite_of_off _ hp hb hc hi

theorem routeWrite_of_unused (h : s.bankInUse (w.inst / 4096) = false) : s.routeWrite w cand = s.store w cand := by
  simp [routeWrite, h]

theorem portMapWrite_of_down (hp : s.otherPartition (bits cand 0 4) = false)
    (h : s.linkState w.inst = 0 ∨ s.linkState w.inst = 5 ∨ cand = base) :
    s.portMapWrite w base cand = s.store w cand := by
  have still : (cand != base && s.linkState w.inst != 0 && s.linkState w.inst != 5) = false := by
    obtain h | h | h := h <;> simp [h]
  simp only [portMapWrite, hp, still, Bool.false_eq_true, if_false]

/-- A core that moves holds no task (R319). -/
theorem coreMapWrite_of_idle (hp : ∀ j < 9, s.otherPartition (bits cand (5 * j) 4) = false)
    (hm : ∀ j < 9, bits base (5 * j) 5 ≠ bits cand (5 * j) 5 → s.ctxOf (9 * w.inst + j) = []) :
    s.coreMapWrite w base cand = s.store w cand := by
  have owned : ((List.range 9).any fun j => s.otherPartition (bits cand (5 * j) 4)) = false := by
    simpa using hp
  have idle : (((List.range 9).filter fun j => bits base (5 * j) 5 != bits cand (5 * j) 5).any fun j =>
      !(s.ctxOf (9 * w.inst + j)).isEmpty) = false := by
    simpa using hm
  simp only [coreMapWrite, owned, idle, Bool.false_eq_true, if_false]

theorem fnMapWrite_of_no_master (hp : s.otherPartition (bits cand 0 4) = false) (hb : s.pci.bme.contains w.inst = false) :
    s.fnMapWrite w base cand = s.store w cand := by
  simp only [fnMapWrite, hp, hb, Bool.and_false, Bool.false_eq_true, if_false]

/-- Without a record that waits, free completion records start nothing. -/
theorem flushRecs_of_none (h : s.clu.recWait = []) : s.flushRecs = s := by
  unfold flushRecs
  rw [h, List.foldl_nil, uClu, ← h]

/-! ### A row's write, from its path to the settled state -/

section row
variable {p : Path} {r : Reg} {i k data : Nat} {t : State}

/-- A path that is not turned away reaches a shared register by its own window, not by a page. -/
theorem ringWrite_of_let_in {off page : Nat} (h : s.turnedAway p off true = none) :
    s.ringWrite p r i k page data = s.regWrite p r i k data := by
  cases p with
  | host hp f =>
    have own : (f != 0 && !s.flag F.secFn_secure (fnIdx hp.val f.val)) = false := by
      unfold turnedAway at h
      grind
    simp [ringWrite, own]
  | mgt src => rfl
  | root => rfl

/-- A row that is an accepted register write leaves what the register's condition makes of it, where that wakes no line queue. -/
theorem exec_of_perform {c : Instr} (hc : exec c s = .next (s.regWrite p r i k data).settle) (hq : s.quiet)
    (ha : s.accepts (wordWrite p r i k data))
    (hp : s.perform (wordWrite p r i k data) (s.writeBase (wordWrite p r i k data)) (s.newVal (wordWrite p r i k data)) = t)
    (ht : t.home = s.home) (hk : k < 4 := by decide) (hr : r ≠ .engFmt := by decide) : exec c s = .next t := by
  rw [hc, regWrite_accepted hk hr ha, hp, settle_of_wake (ht ▸ hq)]

/-- Such a row stores its register, where the register's condition does. -/
theorem stores_of_perform {c : Instr} (hc : exec c s = .next (s.regWrite p r i k data).settle) (hq : s.quiet)
    (ha : s.accepts (wordWrite p r i k data))
    (hp : s.perform (wordWrite p r i k data) (s.writeBase (wordWrite p r i k data)) (s.newVal (wordWrite p r i k data))
      = s.store (wordWrite p r i k data) (s.newVal (wordWrite p r i k data)))
    (hk : k < 4 := by decide) (hr : r ≠ .engFmt := by decide) : Stores c s p r i k data :=
  exec_of_perform hc hq ha hp (store_home _ _) hk hr

/-- The same for a row of a register that partitions share. -/
theorem stores_of_ringWrite {c : Instr} {page : Nat} (hc : exec c s = .next (s.ringWrite p r i k page data).settle) (hq : s.quiet)
    (ha : s.accepts (wordWrite p r i k data))
    (hp : s.perform (wordWrite p r i k data) (s.writeBase (wordWrite p r i k data)) (s.newVal (wordWrite p r i k data))
      = s.store (wordWrite p r i k data) (s.newVal (wordWrite p r i k data)))
    (hk : k < 4 := by decide) (hr : r ≠ .engFmt := by decide) : Stores c s p r i k data := by
  have letIn : s.turnedAway p (nodeOffset r i k) true = none := ha.1
  rw [ringWrite_of_let_in letIn] at hc
  exact stores_of_perform hc hq ha hp hk hr

end row

end Sys2Proof.Machine.State

namespace Sys2Proof.Machine
open State

/-! ### The rows -/

section rows
variable {s : State} {p : Path} {data : Word}

/-- The word that a row's high-word flag names is one of a register's four. -/
theorem hiWord_lt_four (hi : Bool) : hi.toNat < 4 := hi.toNat_lt.trans (by decide)

/-- R28: the node number stays while an extent or a slot is in use. -/
theorem topNodeIdWrite_in_use (hq : s.quiet) (ha : s.accepts (wordWrite p .topNodeId 0 0 data.toNat))
    (h : (∃ e ∈ s.home.ext, e.2.state ≠ .off) ∨ ∃ o < 128, s.rd F.dirSlot_state o ≠ 0) :
    exec (.topNodeIdWrite p data) s = .next s := by
  have used : s.nodeIdFree ≠ true := by
    rw [Ne, nodeIdFree_iff]
    rintro ⟨hext, hslot⟩
    obtain ⟨e, he, hne⟩ | ⟨o, ho, hne⟩ := h
    · exact hne (hext e he)
    · exact hne (hslot o ho)
  exact exec_of_perform rfl hq ha (if_neg used) rfl

theorem rteRouteWrite_stores (b : Bool) (e : BitVec 12) (hq : s.quiet)
    (ha : s.accepts (wordWrite p .rteRoute (b.toNat * 4096 + e.toNat) 0 data.toNat)) (hb : s.bankInUse b.toNat = false) :
    Stores (.rteRouteWrite p b e data) s p .rteRoute (b.toNat * 4096 + e.toNat) 0 data.toNat := by
  have bank : (b.toNat * 4096 + e.toNat) / 4096 = b.toNat := by omega
  exact stores_of_perform rfl hq ha (routeWrite_of_unused (bank.symm ▸ hb))

theorem secFnWrite_stores (h : Fin 2) (f : Fin 16) (hf : f ≠ 0) (hq : s.quiet)
    (ha : s.accepts (wordWrite p .secFn (fnIdx h f) 0 data.toNat))
    (hp : s.otherPartition (bits (s.newVal (wordWrite p .secFn (fnIdx h f) 0 data.toNat)) 0 4) = false)
    (hb : s.pci.bme.contains (fnIdx h f) = false) :
    Stores (.secFnWrite p h f data) s p .secFn (fnIdx h f) 0 data.toNat := by
  have row : s.fnRow p h.val f.val data.toNat = s.regWrite p .secFn (fnIdx h f) 0 data.toNat :=
    if_neg (Fin.val_ne_zero_iff.mpr hf)
  exact stores_of_perform (congrArg (fun t : State => Host.Outcome.next t.settle) row) hq ha (fnMapWrite_of_no_master hp hb)

/-- The low word of an address space does not set VALID, so the expected generation stays (R182). -/
theorem ptuAsWrite_low_stores (a : Fin 1024) (hq : s.quiet) (ha : s.accepts (wordWrite p .ptuAs a 0 data.toNat))
    (hp : s.otherPartition (bits (s.newVal (wordWrite p .ptuAs a 0 data.toNat)) 52 4) = false)
    (hb : bits (s.writeBase (wordWrite p .ptuAs a 0 data.toNat)) 63 1 = 0) :
    Stores (.ptuAsWrite p a false data) s p .ptuAs a 0 data.toNat := by
  have low : (wordWrite p .ptuAs a 0 data.toNat).mask.getLsbD 63 = false := wordBits_getLsbD (by decide)
  exact stores_of_perform rfl hq ha
    ((spaceWrite_of_free hp (.inl hb)).trans (if_neg fun hv => ne_true_of_eq_false low (Bool.and_eq_true_iff.mp hv).2))

/-- The high word of a valid address space resets its expected generation (R182, log 34). -/
theorem ptuAsWrite_high (a : Fin 1024) (hq : s.quiet) (ha : s.accepts (wordWrite p .ptuAs a 1 data.toNat))
    (hp : s.otherPartition (bits (s.newVal (wordWrite p .ptuAs a 1 data.toNat)) 52 4) = false) (hu : s.spaceInUse a = false)
    (hv : bits (s.newVal (wordWrite p .ptuAs a 1 data.toNat)) 63 1 = 1) :
    exec (.ptuAsWrite p a true data) s
      = .next ((s.stored (wordWrite p .ptuAs a 1 data.toNat)).uPtu fun u => { u with gen := u.gen.del a }) := by
  have high : (wordWrite p .ptuAs a 1 data.toNat).mask.getLsbD 63 = true := wordBits_getLsbD (by decide)
  exact exec_of_perform rfl hq ha
    ((spaceWrite_of_free hp (.inr hu)).trans (if_pos (Bool.and_eq_true_iff.mpr ⟨beq_iff_eq.mpr hv, high⟩))) (store_home _ _)

/-- CHEAD stores and frees completion records, for which nothing waits (R176). -/
theorem taskQueueCheadWrite_stores (q : HostQueue) (hq : s.quiet) (ha : s.accepts (wordWrite p .cluQptr q 1 data.toNat))
    (hr : s.clu.recWait = []) : Stores (.taskQueueCheadWrite p q data) s p .cluQptr q 1 data.toNat :=
  stores_of_ringWrite rfl hq ha (flushRecs_of_none (by rw [store_clu, hr]))

end rows

end Sys2Proof.Machine

namespace Sys2Proof.Proofs
open Machine Machine.State

/-- Settles O9: each accepted write is performed (`regWrite_accepted`), its register's condition stores the value, and no line queue wakes. -/
theorem rowsThatStore : Obligations.RowsThatStore := by
  refine ⟨fun s p data hq => ⟨?nodeNumber, ?hotQueueHead, ?controllerMap, ?route, ?taskRing, ?copyTail, ?copyChead, ?portMap, ?coreMap,
    ?functionMap, ?leash, ?catchAll, ?group, ?spaceLow, ?taskQueue, ?copyQueue⟩,
    fun s p data hq => ⟨?reserve, ?saveArea, ?spaceHigh, ?taskChead⟩⟩
  case nodeNumber =>
    exact fun ha => ⟨fun hext hslot => stores_of_perform rfl hq ha (if_pos (nodeIdFree_iff.mpr ⟨hext, hslot⟩)), topNodeIdWrite_in_use hq ha⟩
  case hotQueueHead => exact fun d ha => stores_of_perform rfl hq ha rfl
  case controllerMap => exact fun c ha ht => stores_of_perform rfl hq ha (dmcWrite_of_tier2_off ht)
  case route => exact fun b e ha hb => rteRouteWrite_stores b e hq ha hb
  case taskRing => exact fun q ha => stores_of_ringWrite rfl hq ha rfl
  case copyTail => exact fun q ha => stores_of_ringWrite rfl hq ha rfl
  case copyChead => exact fun q ha => stores_of_ringWrite rfl hq ha rfl
  case portMap => exact fun m ha hp hd => stores_of_perform rfl hq ha (portMapWrite_of_down hp hd)
  case coreMap => exact fun k hi ha hp hm => stores_of_perform rfl hq ha (coreMapWrite_of_idle hp hm) (hiWord_lt_four hi)
  case functionMap => exact fun h f hf ha hp hb => secFnWrite_stores h f hf hq ha hp hb
  case leash => exact fun i hi ha ht => stores_of_perform rfl hq ha (if_neg (ne_true_of_eq_false ht)) (hiWord_lt_four hi)
  case catchAll => exact fun m hi ha => stores_of_perform rfl hq ha rfl (hiWord_lt_four hi)
  case group => exact fun m hi ha hg => stores_of_perform rfl hq ha (if_pos hg) (hiWord_lt_four hi)
  case spaceLow => exact fun a ha hp hb => ptuAsWrite_low_stores a hq ha hp hb
  case taskQueue => exact fun q hi ha hp hb hn hf => stores_of_perform rfl hq ha (hostQueueWrite_of_off hp hb hn hf) (hiWord_lt_four hi)
  case copyQueue => exact fun q hi ha hp hb hn hf => stores_of_perform rfl hq ha (copyQueueWrite_of_off hp hb hn hf) (hiWord_lt_four hi)
  case reserve =>
    exact fun d ha hu hr => exec_of_perform rfl hq ha (reserveWrite_of_unused hu hr) ((refreshFree_home _).trans (store_home _ _))
  case saveArea =>
    exact fun m ha hp hv => exec_of_perform rfl hq ha (saveWrite_of_none_saved hp hv) ((refreshSave_home _).trans (store_home _ _))
  case spaceHigh => exact fun a ha hp hu hv => ptuAsWrite_high a hq ha hp hu hv
  case taskChead => exact fun q ha hr => taskQueueCheadWrite_stores q hq ha hr

end Sys2Proof.Proofs
end

section
/-! SUPPORT. Error records (R389): what fills, counts and clears them, and what a warm reset keeps (O11). -/

namespace Sys2Proof.Machine.SMap

/-- What building a canonical table entry by entry leaves at a key: the new value of the entry there, else what stood before. -/
theorem lookD_foldl_putC {α : Type} [DecidableEq α] (d : Nat → α) (f : Nat → α → α) {m a : SMap α} (n : Nat) (hm : sorted m = true)
    (ha : sorted a = true) :
    (m.foldl (fun a e => a.putC (d e.1) e.1 (f e.1 e.2)) a).lookD n (d n) = ((m.look n).map (f n)).getD (a.lookD n (d n)) := by
  induction m generalizing a with
  | nil => rfl
  | cons e m ih =>
    obtain ⟨k, v⟩ := e
    obtain ⟨habove, hsorted⟩ := Bool.and_eq_true_iff.mp hm
    rw [List.foldl_cons, ih hsorted (sorted_putC ha)]
    by_cases hk : k = n
    · subst hk
      simp [look, look_above habove le_rfl, lookD_putC_same ha]
    · simp only [look, hk, if_false, lookD_putC_other (Ne.symm hk)]

end Sys2Proof.Machine.SMap

namespace Sys2Proof.Machine

/-- A register stands in the list of all registers at its number. -/
theorem Reg.all_getD_code (r : Reg) : Reg.all.getD r.code .topNodeId = r := by
  cases r <;> rfl

theorem Reg.code_ne {r r' : Reg} (h : r ≠ r') : r.code ≠ r'.code := fun hc => h (by rw [← r.all_getD_code, hc, r'.all_getD_code])

theorem Reg.key_div (r : Reg) (i : Nat) : r.key i / 32768 = r.code := by
  unfold Reg.key
  omega

theorem Reg.key_mod (r : Reg) {i : Nat} (hi : i < 32768) : r.key i % 32768 = i := by
  unfold Reg.key
  omega

/-- Two fields share no bit of one register. -/
abbrev Fld.Apart (f g : Fld) : Prop := g.reg = f.reg → g.lo + g.width ≤ f.lo ∨ f.lo + f.width ≤ g.lo

namespace State

variable {s t u : State} {p : Path} {off : Nat}

/-! ### Fields that a write leaves alone -/

/-- A write of one field leaves every field that shares no bit with it. -/
theorem rd_wr_apart {f g : Fld} {i j : Nat} (v : Nat) (hs : SMap.sorted s.regs = true) (hf : f.lo + f.width ≤ 128) (ha : f.Apart g)
    (hi : i < 32768) (hj : j < 32768) : (s.wr f i v).rd g j = s.rd g j := by
  by_cases hr : g.reg = f.reg
  · by_cases hij : j = i
    · subst hij
      exact rd_wr_beside j v hs hr hf (ha hr)
    · exact rd_wr_other v (key_ne_inst (by omega))
  · exact rd_wr_other v (key_ne (Reg.code_ne hr))

/-- Fields written one after another, at index 0 of their registers. -/
def wrAll (s : State) (fs : List Fld) (vs : List Nat) : State := (fs.zip vs).foldl (fun s x => s.wr x.1 0 x.2) s

/-- Fields that share no bit with a list's others, each inside its register. -/
abbrev FldsApart (fs : List Fld) : Prop := fs.Pairwise Fld.Apart ∧ ∀ f ∈ fs, f.lo + f.width ≤ 128

theorem rd_wrAll_apart {fs : List Fld} {g : Fld} (vs : List Nat) (hs : SMap.sorted s.regs = true)
    (hfit : ∀ f ∈ fs, f.lo + f.width ≤ 128) (hg : ∀ f ∈ fs, f.Apart g) : (s.wrAll fs vs).rd g = s.rd g := by
  induction fs generalizing s vs with
  | nil => rfl
  | cons f fs ih =>
    cases vs with
    | nil => rfl
    | cons v vs =>
      obtain ⟨hff, hfits⟩ := List.forall_mem_cons.mp hfit
      obtain ⟨hgf, hgs⟩ := List.forall_mem_cons.mp hg
      calc ((s.wr f 0 v).wrAll fs vs).rd g = (s.wr f 0 v).rd g := ih vs (sorted_wr f 0 v hs) hfits hgs
        _ = s.rd g := rd_wr_apart v hs hff hgf (by decide) (by decide)

/-- Of fields that lie apart, each holds the value that was written to it. -/
theorem rd_wrAll {fs : List Fld} {vs : List Nat} (hs : SMap.sorted s.regs = true) (ha : FldsApart fs) (k : Nat) {f : Fld} {v : Nat}
    (hf : fs[k]? = some f) (hv : vs[k]? = some v) (hlt : v < 2 ^ f.width) : (s.wrAll fs vs).rd f = v := by
  induction fs generalizing s vs k with
  | nil => cases hf
  | cons g fs ih =>
    cases vs with
    | nil => cases hv
    | cons x vs =>
      obtain ⟨hpair, hfit⟩ := ha
      obtain ⟨hgf, hfits⟩ := List.forall_mem_cons.mp hfit
      obtain ⟨hg, hrest⟩ := List.pairwise_cons.mp hpair
      cases k with
      | zero =>
        obtain rfl : g = f := Option.some.inj hf
        obtain rfl : x = v := Option.some.inj hv
        have back : ∀ h ∈ fs, h.Apart g := fun h hh hr => (hg h hh hr.symm).symm
        calc ((s.wr g 0 x).wrAll fs vs).rd g = (s.wr g 0 x).rd g := rd_wrAll_apart vs (sorted_wr g 0 x hs) hfits back
          _ = x % 2 ^ g.width := rd_wr_same g 0 x hs hgf
          _ = x := Nat.mod_eq_of_lt hlt
      | succ k => exact ih (sorted_wr g 0 x hs) ⟨hrest, hfits⟩ k hf hv

/-! ### What fills and counts a record -/

theorem flag_of_rd_zero {f : Fld} {i : Nat} (h : s.rd f i = 0) : s.flag f i = false := by
  simp [flag, h]

theorem flag_of_rd_one {f : Fld} {i : Nat} (h : s.rd f i = 1) : s.flag f i = true := by
  simp [flag, h]

/-- The numbers of a path fit the fields that record them. -/
theorem pathCode_lt (p : Path) : (pathCode p).1 < 2 ^ 2 ∧ (pathCode p).2.1 < 2 ^ 4 ∧ (pathCode p).2.2 < 2 ^ 20 := by
  cases p with
  | host h f => exact ⟨h.isLt.trans (by decide), f.isLt, Nat.two_pow_pos 20⟩
  | mgt src => exact ⟨Nat.lt_of_sub_eq_succ rfl, Nat.two_pow_pos 4, src.isLt⟩
  | root => exact ⟨Nat.lt_of_sub_eq_succ rfl, Nat.two_pow_pos 4, Nat.two_pow_pos 20⟩

/-- The fields of CFG_RANGE_ERR, in the order in which they are filled. -/
def rangeErrFlds : List Fld :=
  [F.cfgRangeErr_offset, F.cfgRangeErr_source, F.cfgRangeErr_function, F.cfgRangeErr_valid, F.cfgRangeErr_count]

/-- The fields of MGT_VIOL with MGT_VIOL_SRC, in the order in which they are filled. -/
def violFlds : List Fld :=
  [F.mgtViol_offset, F.mgtViol_write, F.mgtViol_alias, F.mgtViol_cause, F.mgtViol_path, F.mgtViol_function, F.mgtViol_valid,
   F.mgtViol_count, F.mgtViolSrc_endpoint]

theorem rangeErr_of_free (h : s.rd F.cfgRangeErr_valid = 0) :
    s.rangeErr p off = s.wrAll rangeErrFlds [off, (pathCode p).1, (pathCode p).2.1, 1, 1] :=
  if_neg (ne_true_of_eq_false (flag_of_rd_zero h))

theorem rangeErr_of_valid (h : s.rd F.cfgRangeErr_valid = 1) : s.rangeErr p off = s.bump F.cfgRangeErr_count 0 :=
  if_pos (flag_of_rd_one h)

theorem rangeErr_fills (hs : SMap.sorted s.regs = true) (ho : off < 2 ^ 28) (h : s.rd F.cfgRangeErr_valid = 0) :
    let t := s.rangeErr p off
    t.rd F.cfgRangeErr_valid = 1 ∧ t.rd F.cfgRangeErr_count = 1 ∧ t.rd F.cfgRangeErr_offset = off
      ∧ t.rd F.cfgRangeErr_source = (pathCode p).1 ∧ t.rd F.cfgRangeErr_function = (pathCode p).2.1 := by
  obtain ⟨hsource, hfunction, -⟩ := pathCode_lt p
  have apart : FldsApart rangeErrFlds := by decide
  intro t
  rw [show t = _ from rangeErr_of_free h]
  exact ⟨rd_wrAll hs apart 3 rfl rfl (by decide), rd_wrAll hs apart 4 rfl rfl (by decide), rd_wrAll hs apart 0 rfl rfl ho,
    rd_wrAll hs apart 1 rfl rfl hsource, rd_wrAll hs apart 2 rfl rfl hfunction⟩

section viol
variable {wr al : Bool} {cause : Nat}

theorem logViol_of_free (hp : p ≠ .root) (h : s.rd F.mgtViol_valid = 0) :
    s.logViol p off wr al cause
      = s.wrAll violFlds [off, wr.toNat, al.toNat, cause, (pathCode p).1, (pathCode p).2.1, 1, 1, (pathCode p).2.2] :=
  (if_neg hp).trans (if_neg (ne_true_of_eq_false (flag_of_rd_zero h)))

theorem logViol_of_valid (hp : p ≠ .root) (h : s.rd F.mgtViol_valid = 1) :
    s.logViol p off wr al cause = s.bump F.mgtViol_count 0 :=
  (if_neg hp).trans (if_pos (flag_of_rd_one h))

theorem logViol_fills (hs : SMap.sorted s.regs = true) (ho : off < 2 ^ 28) (hc : cause < 8) (hp : p ≠ .root)
    (h : s.rd F.mgtViol_valid = 0) :
    let t := s.logViol p off wr al cause
    t.rd F.mgtViol_valid = 1 ∧ t.rd F.mgtViol_count = 1 ∧ t.rd F.mgtViol_offset = off ∧ t.rd F.mgtViol_write = wr.toNat
      ∧ t.rd F.mgtViol_alias = al.toNat ∧ t.rd F.mgtViol_cause = cause ∧ t.rd F.mgtViol_path = (pathCode p).1
      ∧ t.rd F.mgtViol_function = (pathCode p).2.1 ∧ t.rd F.mgtViolSrc_endpoint = (pathCode p).2.2 := by
  obtain ⟨hpath, hfunction, hsource⟩ := pathCode_lt p
  have apart : FldsApart violFlds := by decide
  intro t
  rw [show t = _ from logViol_of_free hp h]
  exact ⟨rd_wrAll hs apart 6 rfl rfl (by decide), rd_wrAll hs apart 7 rfl rfl (by decide), rd_wrAll hs apart 0 rfl rfl ho,
    rd_wrAll hs apart 1 rfl rfl wr.toNat_lt, rd_wrAll hs apart 2 rfl rfl al.toNat_lt, rd_wrAll hs apart 3 rfl rfl hc,
    rd_wrAll hs apart 4 rfl rfl hpath, rd_wrAll hs apart 5 rfl rfl hfunction, rd_wrAll hs apart 8 rfl rfl hsource⟩

end viol

/-! ### Clearing a record -/

/-- The bits of a word that a row sets, as its write's data holds them. -/
theorem bits_fieldIn (q : Path) (r : Reg) (i : Nat) (data : Word) {lo n : Nat} (v : Nat) (h : lo + n ≤ 32) :
    bits (wordWrite q r i 0 (fieldIn data lo n v)).data lo n = v % 2 ^ n := by
  rw [bits_wordData q r i (Nat.zero_le lo) h (by decide)]
  exact bits_setBits_same (data.setWidth 128) v (by omega)

theorem mask_of_low_word (q : Path) (r : Reg) (i data : Nat) {j : Nat} (h : j < 32) :
    (wordWrite q r i 0 data).mask.getLsbD j = true :=
  (wordBits_getLsbD (by decide)).trans (by simpa using h)

/-- The bits that a write of a low word names are those of its data. -/
theorem bits_mask_and_data (q : Path) (r : Reg) (i data : Nat) {lo n : Nat} (h : lo + n ≤ 32) :
    bits ((wordWrite q r i 0 data).mask &&& (wordWrite q r i 0 data).data) lo n = bits (wordWrite q r i 0 data).data lo n :=
  bits_congr fun j _ hj => by rw [BitVec.getLsbD_and, mask_of_low_word q r i data (by omega), Bool.true_and]

/-- A row that clears a record writes 1 to its VALID. -/
theorem clears_valid (q : Path) (r : Reg) (data : Word) :
    bits ((wordWrite q r 0 0 (fieldIn data 31 1 1)).mask &&& (wordWrite q r 0 0 (fieldIn data 31 1 1)).data) 31 1 = 1 :=
  (bits_mask_and_data q r 0 _ (by decide)).trans (bits_fieldIn q r 0 data 1 (by decide))

theorem errorRecordClear_rangeErr {data : Word} (hq : s.quiet) (ha : s.accepts (wordWrite p .cfgRangeErr 0 0 (fieldIn data 31 1 1))) :
    exec (.errorRecordClear p .rangeErr data) s = .next (s.setReg .cfgRangeErr 0 0) :=
  exec_of_perform rfl hq ha (if_pos (clears_valid p .cfgRangeErr data)) rfl

theorem errorRecordClear_viol {data : Word} (hq : s.quiet) (ha : s.accepts (wordWrite p .mgtViol 0 0 (fieldIn data 31 1 1))) :
    exec (.errorRecordClear p .viol data) s = .next ((s.setReg .mgtViol 0 0).setReg .mgtViolSrc 0 0) :=
  exec_of_perform rfl hq ha (if_pos (clears_valid p .mgtViol data)) rfl

end State
end Sys2Proof.Machine
end

section
/-! SUPPORT. What a warm reset keeps (R389, R407): the error records, and every ROS field but those of RAS_STATUS (O11). -/

namespace Sys2Proof.Machine

/-- Two fields of one register, as lowest bit and width, share no bit. -/
abbrev BitsApart (x y : Nat × Nat) : Prop := x.1 + x.2 ≤ y.1 ∨ y.1 + y.2 ≤ x.1

/-- The bits of a register that a warm reset keeps, each as lowest bit and width: the whole of an error record, and the ROS fields but
those of RAS_STATUS. -/
def Reg.warmKept (r : Reg) : List (Nat × Nat) :=
  (if r = .cfgRangeErr ∨ r = .mgtViol ∨ r = .mgtViolSrc then [(0, 128)] else [])
    ++ if r = .rasStatus then [] else (r.fields.filter (·.acc = .ros)).map fun f => (f.lo, f.width)

theorem Reg.mem_warmKept_of_ros {r : Reg} (hr : r ≠ .rasStatus) {f : Field} (hf : f ∈ r.fields) (ha : f.acc = .ros) :
    (f.lo, f.width) ∈ r.warmKept := by
  unfold Reg.warmKept
  rw [if_neg hr]
  exact List.mem_append_right _ (List.mem_map_of_mem (List.mem_filter.mpr ⟨hf, decide_eq_true ha⟩))

/-- The bits kept are a whole register of the management island, or a ROS field. -/
theorem Reg.warmKept_cases {r : Reg} {x : Nat × Nat} (hx : x ∈ r.warmKept) :
    State.islandRegs.contains r = true ∨ ∃ f ∈ r.fields, f.acc = .ros ∧ x = (f.lo, f.width) := by
  unfold Reg.warmKept at hx
  obtain hx | hx := List.mem_append.mp hx
  · split at hx
    · next hr =>
      left
      obtain rfl | rfl | rfl := hr <;> rfl
    · cases hx
  · split at hx
    · cases hx
    · obtain ⟨f, hf, rfl⟩ := List.mem_map.mp hx
      obtain ⟨hmem, hros⟩ := List.mem_filter.mp hf
      exact .inr ⟨f, hmem, of_decide_eq_true hros, rfl⟩

namespace State

variable {s t u : State}

/-! ### The register store after a warm reset -/

/-- Bits that share nothing with a field replaced. -/
theorem bits_setBits_apart (v : BitVec 128) {lo w lo' w' : Nat} (x : Nat) (h : lo + w ≤ 128) (ha : BitsApart (lo, w) (lo', w')) :
    bits (setBits v lo w x) lo' w' = bits v lo' w' := by
  obtain above | below := ha
  · exact bits_setBits_above v x h above
  · exact bits_setBits_below v x h below

/-- A field of `v` copied into `a`, where `q` picks it. -/
def copyField (q : Field → Prop) [DecidablePred q] (v a : BitVec 128) (f : Field) : BitVec 128 :=
  if q f then setBits a f.lo f.width (bits v f.lo f.width) else a

section copy
variable {q : Field → Prop} [DecidablePred q] {v a : BitVec 128} {l : List Field}

theorem bits_copyField_apart {f : Field} (hw : f.lo + f.width ≤ 128) {lo w : Nat} (ha : BitsApart (f.lo, f.width) (lo, w)) :
    bits (copyField q v a f) lo w = bits a lo w := by
  unfold copyField
  split
  · exact bits_setBits_apart a _ hw ha
  · rfl

theorem bits_copyField_same {f : Field} (hw : f.lo + f.width ≤ 128) (hq : q f) :
    bits (copyField q v a f) f.lo f.width = bits v f.lo f.width := by
  rw [copyField, if_pos hq, bits_setBits_same a _ hw, Nat.mod_eq_of_lt (bits_lt v f.lo f.width)]

theorem bits_foldl_copyField_apart (hw : ∀ f ∈ l, f.lo + f.width ≤ 128) {lo w : Nat}
    (ha : ∀ f ∈ l, BitsApart (f.lo, f.width) (lo, w)) : bits (l.foldl (copyField q v) a) lo w = bits a lo w := by
  induction l generalizing a with
  | nil => rfl
  | cons g l ih =>
    obtain ⟨hwg, hwl⟩ := List.forall_mem_cons.mp hw
    obtain ⟨hag, hal⟩ := List.forall_mem_cons.mp ha
    exact (ih hwl hal).trans (bits_copyField_apart hwg hag)

/-- Of fields that lie apart, each that is copied holds its copy. -/
theorem bits_foldl_copyField (hp : l.Pairwise fun f g => f.lo + f.width ≤ g.lo ∨ g.lo + g.width ≤ f.lo)
    (hw : ∀ f ∈ l, f.lo + f.width ≤ 128) {f : Field} (hf : f ∈ l) (hq : q f) :
    bits (l.foldl (copyField q v) a) f.lo f.width = bits v f.lo f.width := by
  induction l generalizing a with
  | nil => cases hf
  | cons g l ih =>
    obtain ⟨hg, hrest⟩ := List.pairwise_cons.mp hp
    obtain ⟨hwg, hwl⟩ := List.forall_mem_cons.mp hw
    obtain rfl | hf := List.mem_cons.mp hf
    · exact (bits_foldl_copyField_apart hwl fun h hh => (hg h hh).symm).trans (bits_copyField_same hwg hq)
    · exact ih hrest hwl hf

end copy

theorem bits_sticky {r : Reg} (i : Nat) (v : BitVec 128) {f : Field} (hf : f ∈ r.fields) (ha : f.acc = .ros) :
    bits (sticky r i v) f.lo f.width = bits v f.lo f.width :=
  bits_foldl_copyField (q := fun f => (f.acc = .ros || f.acc = .rws) = true) (fields_apart r).1 (fields_apart r).2 hf (by simp [ha])

/-- What a warm reset leaves of a listed register. -/
theorem bits_keptReg {r : Reg} {i : Nat} (v : BitVec 128) {x : Nat × Nat} (hx : x ∈ r.warmKept) :
    bits (keptReg (r.key i) v) x.1 x.2 = bits v x.1 x.2 := by
  unfold keptReg
  rw [r.key_div, r.all_getD_code]
  dsimp only
  split
  · rfl
  · next hisland =>
    obtain h | ⟨f, hf, ha, rfl⟩ := Reg.warmKept_cases hx
    · exact absurd h hisland
    · exact bits_sticky _ v hf ha

theorem clearUnits_reg (hs : SMap.sorted s.regs = true) (r : Reg) {i : Nat} (hi : i < 32768) :
    s.clearUnits.reg r i = ((s.regs.look (r.key i)).map (keptReg (r.key i))).getD (r.reset i) := by
  have h := SMap.lookD_foldl_putC (fun k => (Reg.all.getD (k / 32768) .topNodeId).reset (k % 32768)) keptReg (r.key i) hs
    (a := []) rfl
  simp only [r.key_div, r.all_getD_code, r.key_mod hi] at h
  exact h

/-! ### What the reset's further writes keep -/

/-- A warm reset that begins in s has kept, in t, the bits that it must; the store is in order, and no line queue waits. -/
structure WarmKept (s t : State) : Prop where
  sorted : SMap.sorted t.regs = true
  quiet : t.quiet
  bits_eq : ∀ r i, i < 32768 → ∀ x ∈ r.warmKept, bits (t.reg r i) x.1 x.2 = bits (s.reg r i) x.1 x.2

namespace WarmKept

theorem clearUnits (hs : SMap.sorted s.regs = true) : WarmKept s s.clearUnits where
  sorted := sorted_keptRegs s.regs
  quiet := rfl
  bits_eq r i hi x hx := by
    rw [clearUnits_reg hs r hi, reg, SMap.lookD]
    cases s.regs.look (r.key i) with
    | none => rfl
    | some v => exact bits_keptReg v hx

theorem trans (h : WarmKept s t) (k : WarmKept t u) : WarmKept s u :=
  ⟨k.sorted, k.quiet, fun r i hi x hx => (k.bits_eq r i hi x hx).trans (h.bits_eq r i hi x hx)⟩

theorem uClu (f : Clu → Clu) (h : WarmKept s t) : WarmKept s (t.uClu f) := ⟨h.sorted, h.quiet, h.bits_eq⟩

theorem uRot (f : Rot → Rot) (h : WarmKept s t) : WarmKept s (t.uRot f) := ⟨h.sorted, h.quiet, h.bits_eq⟩

theorem uPwr (f : Pwr → Pwr) (h : WarmKept s t) : WarmKept s (t.uPwr f) := ⟨h.sorted, h.quiet, h.bits_eq⟩

/-- A register of which a warm reset keeps nothing may be written. -/
theorem setReg {r : Reg} {i : Nat} {v : BitVec 128} (h : WarmKept s t) (hr : r.warmKept = []) : WarmKept s (t.setReg r i v) where
  sorted := SMap.sorted_putC h.sorted
  quiet := h.quiet
  bits_eq r' j hj x hx := by
    have other : r' ≠ r := fun he => List.ne_nil_of_mem hx (he ▸ hr)
    rw [reg_setReg_other v (key_ne (Reg.code_ne other))]
    exact h.bits_eq r' j hj x hx

theorem wr {f : Fld} {i v : Nat} (h : WarmKept s t) (hf : f.reg.warmKept = []) : WarmKept s (t.wr f i v) := h.setReg hf

/-- A field beside those that a warm reset keeps may be written, and one that it keeps may be written with the value that it had. -/
theorem wr_kept {f : Fld} {i v : Nat} (h : WarmKept s t) (hi : i < 32768) (hw : f.lo + f.width ≤ 128)
    (hf : ∀ x ∈ f.reg.warmKept, f.Apart ⟨f.reg, x.1, x.2⟩ ∨ x = (f.lo, f.width) ∧ v = s.rd f i) : WarmKept s (t.wr f i v) where
  sorted := sorted_wr f i v h.sorted
  quiet := h.quiet
  bits_eq r j hj x hx := by
    have same := h.bits_eq r j hj x hx
    by_cases hr : r = f.reg
    · subst hr
      obtain ha | ⟨rfl, rfl⟩ := hf x hx
      · exact (rd_wr_apart (g := ⟨f.reg, x.1, x.2⟩) v h.sorted hw ha hi hj).trans same
      · by_cases hij : j = i
        · subst hij
          exact (rd_wr_same f j _ h.sorted hw).trans (Nat.mod_eq_of_lt (bits_lt _ _ _))
        · exact (rd_wr_other (g := f) _ (key_ne_inst (by omega))).trans same
    · exact (rd_wr_other (g := ⟨r, x.1, x.2⟩) v (key_ne (Reg.code_ne hr))).trans same

theorem wr_beside {f : Fld} {i v : Nat} (h : WarmKept s t) (hi : i < 32768) (hw : f.lo + f.width ≤ 128)
    (hf : ∀ x ∈ f.reg.warmKept, BitsApart x (f.lo, f.width)) : WarmKept s (t.wr f i v) :=
  h.wr_kept hi hw fun x hx => .inl fun _ => hf x hx

theorem foldl {α : Type} {f : State → α → State} {l : List α} (h : WarmKept s t)
    (hf : ∀ a ∈ l, ∀ u, WarmKept s u → WarmKept s (f u a)) : WarmKept s (l.foldl f t) :=
  List.foldlRecOn l f h fun u hu a ha => hf a ha u hu

/-! ### Inputs and roles -/

/-- A die's number is in the range of `Reg.key`. -/
theorem die_lt {d : Nat} (h : d ∈ [0, 1, 2, 3]) : d < 32768 :=
  (by decide : ∀ d ∈ [0, 1, 2, 3], d < 32768) d h

theorem keepInputs {old : State} (h : WarmKept s t) : WarmKept s (t.keepInputs old) := by
  refine WarmKept.wr (f := F.rasStatus_feedBOk) (.wr (f := F.rasStatus_feedAOk) (foldl h fun d hd u hu => ?_) rfl) rfl
  have hlt := die_lt hd
  exact ((hu.wr_beside (f := F.clkStatus_refSys) hlt (by decide) (by decide)).wr_beside (f := F.clkStatus_refLane) hlt
    (by decide) (by decide)).wr_beside hlt (by decide) (by decide)

theorem refreshReferee {c : Nat} (h : WarmKept s t) : WarmKept s (t.refreshReferee c) := by
  refine foldl ?_ fun n _ u hu => hu.wr rfl
  split
  · exact h.uClu _
  · exact h

theorem clusterRoles (c : Nat) (h : WarmKept s t) : WarmKept s (t.clusterRoles c) := by
  have lost := h.foldl (l := ((List.range 9).map (c * 9 + ·)).filter t.kennel)
    (f := fun s n => (s.wr F.corStatus_role n 2).wr F.rasCore_state n 2) fun n _ u hu => (hu.wr rfl).wr rfl
  unfold State.clusterRoles
  dsimp only
  refine refreshReferee (foldl ?_ fun n _ u hu => hu.wr rfl)
  split
  · exact (lost.wr rfl).wr rfl
  · exact lost

theorem roles (h : WarmKept s t) : WarmKept s t.roles := by
  have clusters : WarmKept s ((List.range 16).foldl State.clusterRoles t) := h.foldl fun c _ u hu => hu.clusterRoles c
  have fenced := clusters.wr (f := F.rasStatus_fenced) (i := 0)
    (v := ((List.range 16).foldl State.clusterRoles t).fencedCores.length) rfl
  unfold State.roles
  dsimp only
  split
  · exact fenced
  · split
    · exact fenced
    · exact (fenced.wr rfl).wr rfl

/-- A warm reset whose host ports are already down (R392, R407). -/
theorem warmBegin (hs : SMap.sorted s.regs = true) (h0 : s.flag F.pciStatus_linkUp 0 = false) (h1 : s.flag F.pciStatus_linkUp 1 = false) :
    WarmKept s s.warmBegin := by
  have down {h : Nat} (hd : s.flag F.pciStatus_linkUp h = false) : s.hostDown h = s := if_pos (by rw [hd]; rfl)
  unfold State.warmBegin
  rw [down h0, down h1]
  have inputs : WarmKept s (s.clearUnits.keepInputs s) := (clearUnits hs).keepInputs
  have halted := inputs.foldl (l := [0, 1, 2, 3]) (f := fun u d => u.wr F.dirStatus_halted d (s.rd F.dirStatus_halted d))
    fun d hd u hu => hu.wr_kept (die_lt hd) (by decide) fun x hx => .inr ⟨List.mem_singleton.mp hx, rfl⟩
  have curtain := (halted.uRot fun r => { r with spdm := r.spdm.filter fun e => e.1 ≥ 2 }).wr (f := F.cfgCurtain_req) (i := 0) (v := 0) rfl
  exact (curtain.roles.wr_beside (f := F.pwrStatus_state) (v := 1) (by decide) (by decide) (by decide)).uPwr _

/-- What O11 asks of a warm reset: both error records, and the ROS fields. -/
theorem records_eq (h : WarmKept s t) :
    t.reg .cfgRangeErr 0 = s.reg .cfgRangeErr 0 ∧ t.reg .mgtViol 0 = s.reg .mgtViol 0 ∧ t.reg .mgtViolSrc 0 = s.reg .mgtViolSrc 0
      ∧ ∀ r i, r ≠ .rasStatus → i < 32768 → ∀ f ∈ r.fields, f.acc = .ros →
        bits (t.reg r i) f.lo f.width = bits (s.reg r i) f.lo f.width := by
  have whole {r : Reg} (hr : (0, 128) ∈ r.warmKept) : t.reg r 0 = s.reg r 0 := by
    have he := h.bits_eq r 0 (by decide) _ hr
    exact BitVec.eq_of_toNat_eq (by simpa [bits, Nat.mod_eq_of_lt (BitVec.isLt _)] using he)
  exact ⟨whole (by decide), whole (by decide), whole (by decide),
    fun r i hr hi f hf ha => h.bits_eq r i hi _ (Reg.mem_warmKept_of_ros hr hf ha)⟩

end WarmKept

/-! ### The rows -/

section rows
variable {p : Path} {data : Word}

/-- A write of a register without protected fields sets it, and marks nothing as changed (R369). -/
theorem store_of_unguarded {w : WordWrite} (cand : BitVec 128)
    (h : (w.reg.bitsOf fun f => w.reg.guards f && !f.wings && w.reg != .engFmt) = 0) :
    ∃ v, s.store w cand = s.setReg w.reg w.inst v := by
  unfold store
  dsimp only
  rw [h]
  exact ⟨_, if_neg (by simp)⟩

/-- The row WARM sets PWR_CMD and gives the command 1. -/
theorem regWrite_warm (ha : s.accepts (wordWrite p .pwrCmd 0 0 (fieldIn data 0 3 1))) :
    ∃ v, s.regWrite p .pwrCmd 0 0 (fieldIn data 0 3 1) = (s.setReg .pwrCmd 0 v).powerCommand 1 := by
  let w := wordWrite p .pwrCmd 0 0 (fieldIn data 0 3 1)
  have op : bits (s.newVal w) 0 3 = 1 :=
    (merge_wo (r := .pwrCmd) (f := ⟨0, 3, .wo, true, 0, 1, some 4, false, none, false, false⟩) List.mem_cons_self rfl
      fun j _ hj => mask_of_low_word p .pwrCmd 0 _ (Nat.lt_trans hj (by decide))).trans (bits_fieldIn p .pwrCmd 0 data 1 (by decide))
  have unguarded : (Reg.pwrCmd.bitsOf fun f => Reg.pwrCmd.guards f && !f.wings && Reg.pwrCmd != .engFmt) = 0 := by decide
  obtain ⟨v, hv⟩ := store_of_unguarded (s := s) (w := w) (s.newVal w) unguarded
  exact ⟨v, (regWrite_accepted (by decide) (by decide) ha).trans (congrArg₂ powerCommand hv op)⟩

theorem powerCommand_warm (hst : s.rd F.pwrStatus_state = 4) (hd : s.pwr.down = false) (hp : s.pwr.pin = none) :
    s.powerCommand 1 = s.warmBegin.warmRun.wr F.pwrCmd_result 0 St.ok := by
  simp [powerCommand, hst, hd, hp]

variable (hs : SMap.sorted s.regs = true) (hst : s.rd F.pwrStatus_state = 4) (hd : s.pwr.down = false) (hp : s.pwr.pin = none)
  (h0 : s.flag F.pciStatus_linkUp 0 = false) (h1 : s.flag F.pciStatus_linkUp 1 = false)
include hs hst hd hp h0 h1

theorem warmResetN_keeps : Completes .warmResetN s (WarmKept s) := by
  have acts : ¬(s.pwr.pin.isSome || s.pwr.down || s.rd F.pwrStatus_state ≠ 4) = true := by simp [hst, hd, hp]
  have kept := (WarmKept.warmBegin hs h0 h1).uPwr fun p => { p with pin := some false }
  have runs : exec .warmResetN s = .next (s.warmBegin.uPwr fun p => { p with pin := some false }).settle :=
    congrArg (fun t : State => Host.Outcome.next t.settle) (if_neg acts)
  exact ⟨_, runs.trans (congrArg _ (settle_of_wake kept.quiet)), kept⟩

theorem powerCommand_warm_keeps : WarmKept s (s.powerCommand 1) := by
  rw [powerCommand_warm hst hd hp]
  exact ((WarmKept.warmBegin hs h0 h1).uPwr _).wr rfl

theorem warm_keeps (hq : s.quiet) (ha : s.accepts (wordWrite p .pwrCmd 0 0 (fieldIn data 0 3 1))) :
    Completes (.warm p data) s (WarmKept s) := by
  obtain ⟨v, hv⟩ := regWrite_warm ha
  have other (f : Fld) (hf : f.reg.code ≠ Reg.pwrCmd.code) (i : Nat) : (s.setReg .pwrCmd 0 v).rd f i = s.rd f i :=
    congrArg (bits · f.lo f.width) (reg_setReg_other v (key_ne hf))
  have written : WarmKept s (s.setReg .pwrCmd 0 v) := WarmKept.setReg ⟨hs, hq, fun _ _ _ _ _ => rfl⟩ rfl
  have kept : WarmKept s ((s.setReg .pwrCmd 0 v).powerCommand 1) :=
    written.trans (powerCommand_warm_keeps written.sorted ((other F.pwrStatus_state (by decide) 0).trans hst) hd hp
      ((congrArg (· == 1) (other F.pciStatus_linkUp (by decide) 0)).trans h0)
      ((congrArg (· == 1) (other F.pciStatus_linkUp (by decide) 1)).trans h1))
  have runs : exec (.warm p data) s = .next ((s.setReg .pwrCmd 0 v).powerCommand 1).settle :=
    congrArg (fun t : State => Host.Outcome.next t.settle) hv
  exact ⟨_, runs.trans (congrArg _ (settle_of_wake kept.quiet)), kept⟩

end rows

end State
end Sys2Proof.Machine

namespace Sys2Proof.Proofs
open Machine Machine.State

/-- Settles O11: a record's fields lie apart, so each holds what its event wrote; a warm reset's writes spare the bits that it keeps. -/
theorem errorRecords : Obligations.ErrorRecords := by
  refine ⟨fun s p data hq => ⟨errorRecordClear_rangeErr hq, errorRecordClear_viol hq⟩,
    fun s p off wr al cause hs ho hc => ⟨⟨rangeErr_fills hs ho, rangeErr_of_valid⟩,
      fun hp => ⟨logViol_fills hs ho hc hp, logViol_of_valid hp⟩⟩,
    fun s p data hwf hq hst hd hp h0 h1 => ?_⟩
  have hs : SMap.sorted s.regs = true := ((wf_iff s).mp hwf).2.1
  obtain ⟨t, ht, kept⟩ := warmResetN_keeps hs hst hd hp h0 h1
  refine ⟨⟨t, ht, kept.records_eq⟩, fun ha => ?_⟩
  obtain ⟨t, ht, kept⟩ := warm_keeps hs hst hd hp h0 h1 hq ha
  exact ⟨t, ht, kept.records_eq⟩

end Sys2Proof.Proofs
end
